-- ==== Sys2Proof/Word.lean ====
section
/-! DEFINITION. The words of the Omlum (spec/00 R5: sizes, bit 0 least significant, little-endian). -/

namespace Sys2Proof

/-- One byte. -/
abbrev Byte := BitVec 8

/-- A 32-bit register word. -/
abbrev Word := BitVec 32

/-- A 64-bit value, as a pair holds it (01 R10). -/
abbrev DWord := BitVec 64

/-- A cause code: class × 32 + detail (28 R483). -/
abbrev Cause := BitVec 9

/-- A register word read as a two's complement number. -/
abbrev Word.signed (w : Word) : Int := w.toInt

/-- The pair value held by a low and a high word (01 R10: vN holds bits [31:0]). -/
def DWord.ofWords (lo hi : Word) : DWord := hi ++ lo

/-- Bits [31:0] of a pair. -/
def DWord.lo (d : DWord) : Word := d.extractLsb' 0 32

/-- Bits [63:32] of a pair. -/
def DWord.hi (d : DWord) : Word := d.extractLsb' 32 32

/-- Zero extension of a word to a pair. -/
def DWord.zext (w : Word) : DWord := w.setWidth 64

/-- Sign extension of a word to a pair. -/
def DWord.sext (w : Word) : DWord := w.signExtend 64

end Sys2Proof
end

