-- ==== Sys2Proof/Syntax.lean ====
section
/-! DEFINITION. The instructions of the Omlum: the operand descriptor, the fields of a word, the data the events
bring, and the one inductive with a constructor per row of spec/opcode_table.json. -/

namespace Sys2Proof

/-- The kind of an operand descriptor, bits [9:8] (12 R238). -/
inductive Kind where
  | reg      -- 0b00: vN, or a tile, handle, gang position or predicate bit
  | pair     -- 0b01: wN
  | uni      -- 0b10: vN.u or wN.u
  | special  -- 0b11: %zero, #imm, %lane, %fibre, %ones
deriving DecidableEq, Repr, Inhabited

/-- An operand descriptor: a kind and the number N, bits [7:0] (12 R238). -/
structure Desc where
  kind : Kind
  n : Byte
deriving DecidableEq, Repr, Inhabited

/-- The fields of a whole instruction other than its opcode byte (12 R235). -/
structure Fields where
  /-- MOD, bits [15:8]. -/
  mod : Byte
  /-- OPD, bits [25:16]. -/
  d : Desc
  /-- OPA, bits [35:26]. -/
  a : Desc
  /-- OPB, bits [45:36]. -/
  b : Desc
  /-- GUARD, bits [51:46]. -/
  guard : BitVec 6
  /-- LA, bits [55:52]. -/
  la : BitVec 4
  /-- YLD, bit 56. -/
  yld : Bool
  /-- Bits [63:57], which must be zero. -/
  rsv : BitVec 7
  /-- imm32, bits [95:64]. -/
  imm : Word
deriving DecidableEq, Repr, Inhabited

/-- A crew: one of a team's (01 R21), or the launch's item crew in one quadrant of a core (01 R25). -/
inductive CrewId where
  | team (launch team crew : Nat)
  | item (launch core crew : Nat)
deriving DecidableEq, Repr, Inhabited

/-- A fibre: its crew and its fibre index, 0 to the crew's slot count minus 1 (01 R13). -/
structure FibreId where
  crew : CrewId
  index : Nat
deriving DecidableEq, Repr, Inhabited

/-- What comes back for a forwarded access (03 R93, R95): data, an acknowledgement, or the owner's refusal. -/
inductive Reply where
  | data (v : BitVec 512)
  | ack
  | nak      -- MEM.REMOTENAK
  | frozen   -- MEM.FROZEN: the owner refuses this device as a frozen master (28 R483)
  | uncorr   -- SYS.UNCORR: the line is poisoned at its owner (32 R517)
deriving DecidableEq, Repr, Inhabited

/-- What a forwarded access asks of its owner (03 R93, R94): the operations of the integer and FP32 atomics included. -/
inductive FwdOp where
  | read
  /-- Bytes of a line: which, and the line that holds them (03 R93). -/
  | write (mask : BitVec 64) (v : BitVec 512)
  | intAtomic (op : BitVec 3) (ty : BitVec 2) (v : DWord)
  | fpAtomic (op : BitVec 2) (rm : BitVec 3) (v : Word)
  | cas (wide : Bool) (cmp new : DWord)
deriving DecidableEq, Repr, Inhabited

/-- An access that another device forwards to this one, its owner (03 R93; 31 R510). -/
structure PeerAccess where
  source : Nat
  inc : Word
  pa : Nat
  bytes : Nat
  op : FwdOp
deriving DecidableEq, Repr, Inhabited

/-- What the other side of a Breale port offers during training (31 R503). -/
inductive PortPeer where
  | versions (map : BitVec 16)
  | noSignal
  | failed
deriving DecidableEq, Repr, Inhabited

/-- Why a port is down, PORTSTAT.REASON (31 R511). -/
inductive PortReason where
  | none | noVer | noSignal | failed | disabled
deriving DecidableEq, Repr, Inhabited

/-- A firmware image offered for the image slot: its bytes, its digest and its signature (32 R512). -/
structure FwImage where
  bytes : List Byte
  digest : List Byte
  signature : List Byte
deriving DecidableEq, Repr, Inhabited

/-- A unit that changes to a new image at its own quiesce point (32 R512). -/
inductive FwUnit where
  | controller
  | core (n : Nat)
  | copyEngine (core : Nat)
  | sluice (die : Nat)
  | dowser (die : Nat)
  | assay (core : Nat)
deriving DecidableEq, Repr, Inhabited

/-- One sample of the sensors (32 R518): module power in W and, per die, temperature in °C and whether it is at its limit. -/
structure Readings where
  power : Nat
  temps : List Nat
  hot : List Bool
deriving DecidableEq, Repr, Inhabited

/-- The operations the opcode byte names (13 R263). -/
inductive Op where
  | nop | bra | brx | call | callx | ret | loop | meet | voteany | voteall | ballot | yield | rgn | trap
  | bkpt | jtab | fork | endF | spawn | spawnt | trng | acq | shed | bar | bara | barw | bari | barx | gbar
  | waitv | qstat | iadd | isub | iadc | isbc | imul | imulh | imad | imadw | idiv | irem | imin | imax
  | iabs | idp4 | lea | idp2 | andB | orB | xorB | tern | shl | shr | sar | rotl | bfx | bfi | brev | popc
  | clz | ffs | bsel | bext | icmp | fcmp | sel | mov | gets | sets | shfli | shflu | shfld | shflx | wred
  | wscan | fwred | nzcnt | nzmap | matchL | fadd | fsub | fmul | ffma | fmin | fmax | fdiv | fsqrt | frcp
  | frsq | fexp2 | flog2 | ftanh | frnd | fclass | fscale | hadd2 | hsub2 | hmul2 | hfma2 | hmin2 | hmax2
  | hdot2 | hexp2 | hcmp2 | htanh2 | hrcp2 | hrsq2 | cvtf | i2f | f2i | ixt | pk8 | upk8 | qblk | dqblk
  | cbenc | cbdec | cbld | sppk | spupk | srseed | pk4 | upk4 | ld | st | lda | stl | lds | sts | ldx | stx
  | ldfe | stfe | ldc | rld | pref | cwb | cinv | acqp | glds | isect | merge | compact | expand | tcopy
  | icopy | hdef | hwait | hset | hstat | segr | bsrch | atom | atomo | red | cas | caso | fred | fredo
  | fatom | fatomo | atoms | freds | aflush | cass | fence | dfence | txb | txe | txa | txo | txoe | txst
  | ldnt | tcfg | tld | tst | tzero | tmovr | tmovw | tcb | ttrn | tscal | tadd | tred | tnz | mma | mmas
  | mmag | mmai | tlu | tchl | ttrs | tmv | mwait | mmaq | tpiv | nbin | npair | nstat | ncfg | hprobe | hins
  | hdel | hreh | hcfg | hqry | svopen | svmark | svclose | svqry | nfix | svc | eret | getp | setp | tlbi
  | l2wb | vhold | harv | ctxs | ctxr | migr | hnot
deriving DecidableEq, Repr, Inhabited

/-- One constructor per row of spec/opcode_table.json: the 224 opcodes, each with the fields of its word (12 R235),
the dictionary mark, and the events of the other agents
(spec/95), whose data stands in the state when they act (`EventArgs`). -/
inductive Instr where
  | nop (w : Fields)
  | bra (w : Fields)
  | brx (w : Fields)
  | call (w : Fields)
  | callx (w : Fields)
  | ret (w : Fields)
  | loop (w : Fields)
  | meet (w : Fields)
  | voteany (w : Fields)
  | voteall (w : Fields)
  | ballot (w : Fields)
  | yield (w : Fields)
  | rgn (w : Fields)
  | trap (w : Fields)
  | bkpt (w : Fields)
  | jtab (w : Fields)
  | fork (w : Fields)
  | endF (w : Fields)
  | spawn (w : Fields)
  | spawnt (w : Fields)
  | trng (w : Fields)
  | acq (w : Fields)
  | shed (w : Fields)
  | bar (w : Fields)
  | bara (w : Fields)
  | barw (w : Fields)
  | bari (w : Fields)
  | barx (w : Fields)
  | gbar (w : Fields)
  | waitv (w : Fields)
  | qstat (w : Fields)
  | iadd (w : Fields)
  | isub (w : Fields)
  | iadc (w : Fields)
  | isbc (w : Fields)
  | imul (w : Fields)
  | imulh (w : Fields)
  | imad (w : Fields)
  | imadw (w : Fields)
  | idiv (w : Fields)
  | irem (w : Fields)
  | imin (w : Fields)
  | imax (w : Fields)
  | iabs (w : Fields)
  | idp4 (w : Fields)
  | lea (w : Fields)
  | idp2 (w : Fields)
  | andB (w : Fields)
  | orB (w : Fields)
  | xorB (w : Fields)
  | tern (w : Fields)
  | shl (w : Fields)
  | shr (w : Fields)
  | sar (w : Fields)
  | rotl (w : Fields)
  | bfx (w : Fields)
  | bfi (w : Fields)
  | brev (w : Fields)
  | popc (w : Fields)
  | clz (w : Fields)
  | ffs (w : Fields)
  | bsel (w : Fields)
  | bext (w : Fields)
  | icmp (w : Fields)
  | fcmp (w : Fields)
  | sel (w : Fields)
  | mov (w : Fields)
  | gets (w : Fields)
  | sets (w : Fields)
  | shfli (w : Fields)
  | shflu (w : Fields)
  | shfld (w : Fields)
  | shflx (w : Fields)
  | wred (w : Fields)
  | wscan (w : Fields)
  | fwred (w : Fields)
  | nzcnt (w : Fields)
  | nzmap (w : Fields)
  | matchL (w : Fields)
  | fadd (w : Fields)
  | fsub (w : Fields)
  | fmul (w : Fields)
  | ffma (w : Fields)
  | fmin (w : Fields)
  | fmax (w : Fields)
  | fdiv (w : Fields)
  | fsqrt (w : Fields)
  | frcp (w : Fields)
  | frsq (w : Fields)
  | fexp2 (w : Fields)
  | flog2 (w : Fields)
  | ftanh (w : Fields)
  | frnd (w : Fields)
  | fclass (w : Fields)
  | fscale (w : Fields)
  | hadd2 (w : Fields)
  | hsub2 (w : Fields)
  | hmul2 (w : Fields)
  | hfma2 (w : Fields)
  | hmin2 (w : Fields)
  | hmax2 (w : Fields)
  | hdot2 (w : Fields)
  | hexp2 (w : Fields)
  | hcmp2 (w : Fields)
  | htanh2 (w : Fields)
  | hrcp2 (w : Fields)
  | hrsq2 (w : Fields)
  | cvtf (w : Fields)
  | i2f (w : Fields)
  | f2i (w : Fields)
  | ixt (w : Fields)
  | pk8 (w : Fields)
  | upk8 (w : Fields)
  | qblk (w : Fields)
  | dqblk (w : Fields)
  | cbenc (w : Fields)
  | cbdec (w : Fields)
  | cbld (w : Fields)
  | sppk (w : Fields)
  | spupk (w : Fields)
  | srseed (w : Fields)
  | pk4 (w : Fields)
  | upk4 (w : Fields)
  | ld (w : Fields)
  | st (w : Fields)
  | lda (w : Fields)
  | stl (w : Fields)
  | lds (w : Fields)
  | sts (w : Fields)
  | ldx (w : Fields)
  | stx (w : Fields)
  | ldfe (w : Fields)
  | stfe (w : Fields)
  | ldc (w : Fields)
  | rld (w : Fields)
  | pref (w : Fields)
  | cwb (w : Fields)
  | cinv (w : Fields)
  | acqp (w : Fields)
  | glds (w : Fields)
  | isect (w : Fields)
  | merge (w : Fields)
  | compact (w : Fields)
  | expand (w : Fields)
  | tcopy (w : Fields)
  | icopy (w : Fields)
  | hdef (w : Fields)
  | hwait (w : Fields)
  | hset (w : Fields)
  | hstat (w : Fields)
  | segr (w : Fields)
  | bsrch (w : Fields)
  | atom (w : Fields)
  | atomo (w : Fields)
  | red (w : Fields)
  | cas (w : Fields)
  | caso (w : Fields)
  | fred (w : Fields)
  | fredo (w : Fields)
  | fatom (w : Fields)
  | fatomo (w : Fields)
  | atoms (w : Fields)
  | freds (w : Fields)
  | aflush (w : Fields)
  | cass (w : Fields)
  | fence (w : Fields)
  | dfence (w : Fields)
  | txb (w : Fields)
  | txe (w : Fields)
  | txa (w : Fields)
  | txo (w : Fields)
  | txoe (w : Fields)
  | txst (w : Fields)
  | ldnt (w : Fields)
  | tcfg (w : Fields)
  | tld (w : Fields)
  | tst (w : Fields)
  | tzero (w : Fields)
  | tmovr (w : Fields)
  | tmovw (w : Fields)
  | tcb (w : Fields)
  | ttrn (w : Fields)
  | tscal (w : Fields)
  | tadd (w : Fields)
  | tred (w : Fields)
  | tnz (w : Fields)
  | mma (w : Fields)
  | mmas (w : Fields)
  | mmag (w : Fields)
  | mmai (w : Fields)
  | tlu (w : Fields)
  | tchl (w : Fields)
  | ttrs (w : Fields)
  | tmv (w : Fields)
  | mwait (w : Fields)
  | mmaq (w : Fields)
  | tpiv (w : Fields)
  | nbin (w : Fields)
  | npair (w : Fields)
  | nstat (w : Fields)
  | ncfg (w : Fields)
  | hprobe (w : Fields)
  | hins (w : Fields)
  | hdel (w : Fields)
  | hreh (w : Fields)
  | hcfg (w : Fields)
  | hqry (w : Fields)
  | svopen (w : Fields)
  | svmark (w : Fields)
  | svclose (w : Fields)
  | svqry (w : Fields)
  | nfix (w : Fields)
  | svc (w : Fields)
  | eret (w : Fields)
  | getp (w : Fields)
  | setp (w : Fields)
  | tlbi (w : Fields)
  | l2wb (w : Fields)
  | vhold (w : Fields)
  | harv (w : Fields)
  | ctxs (w : Fields)
  | ctxr (w : Fields)
  | migr (w : Fields)
  | hnot (w : Fields)
  /-- 0xFC to 0xFF: entry x of dictionary e (12 R246). -/
  | dictionaryMark (e : BitVec 2) (x : Byte)
  /-- An opcode byte the map does not assign (13 R264). -/
  | unassignedOpcode (opc : Byte) (w : Fields)
  | longResultWrite
  | gldsLaneArrival
  | waitvSatisfied
  | barrierRelease
  | acqGrant
  | shedEffect
  | engineBufferPause
  | tcopyEnd
  | icopyEnd
  | isectEnd
  | mergeEnd
  | nbinEnd
  | npairEnd
  | nfixEnd
  | hcfgEnd
  | hprobeEnd
  | hinsEnd
  | hdelEnd
  | hrehEnd
  | ctxsEnd
  | ctxrEnd
  | migrEnd
  | matrixOpComplete
  | deferredTileFault
  | irrevTokenGrant
  | cartEntryArrival
  | drainerMarker
  | roundClose
  | forwardedAccessReceive
  | forwardedResponse
  | remoteStoreRefusal
  | pageWalk
  | walkWaitTimeout
  | faultRingWrite
  | fackResume
  | fackEnd
  | fackAbort
  | placementPass
  | gangPreempt
  | gangRestore
  | gangStartEdge
  | teamRetire
  | itemPlacement
  | scoreHalving
  | watchdogExpiry
  | launchDeadline
  | assayDeadline
  | launchRecord
  | loadRecord
  | unloadRecord
  | launchCompletion
  | notificationPost
  | qtailWrite
  | nheadWrite
  | qptbrWrite
  | registerWrite
  | hostHdmAccess
  | frfmtEnable
  | frfmtDisable
  | wdogRestart
  | wdogZeroWrite
  | spanPrepare
  | spanCommit
  | spanGo
  | spanAbandon
  | spanWindowExpiry
  | spanLocalTimeout
  | portTraining
  | portDown
  | heartbeatSend
  | heartbeatReceive
  | agentDeathDeclare
  | deadMessage
  | admitMessage
  | admissionGo
  | fabricMessageReceive
  | fwImageStage
  | fwUnitActivate
  | getVersion
  | getCapabilities
  | negotiateAlgorithms
  | getDigests
  | getCertificate
  | challenge
  | getMeasurements
  | masterFreeze
  | mfreezeThaw
  | spareCoreReplace
  | eccCorrected
  | eccPoison
  | sensorSample
  | deviceReset
  | oddOrOutOfCodeFetch
  | spanReadyReport
  | spanCommitAcknowledgement
deriving DecidableEq, Repr

/-- The instruction an operation and the fields of its word make (13 R263). -/
def Op.instr : Op → Fields → Instr
  | .nop, w => .nop w
  | .bra, w => .bra w
  | .brx, w => .brx w
  | .call, w => .call w
  | .callx, w => .callx w
  | .ret, w => .ret w
  | .loop, w => .loop w
  | .meet, w => .meet w
  | .voteany, w => .voteany w
  | .voteall, w => .voteall w
  | .ballot, w => .ballot w
  | .yield, w => .yield w
  | .rgn, w => .rgn w
  | .trap, w => .trap w
  | .bkpt, w => .bkpt w
  | .jtab, w => .jtab w
  | .fork, w => .fork w
  | .endF, w => .endF w
  | .spawn, w => .spawn w
  | .spawnt, w => .spawnt w
  | .trng, w => .trng w
  | .acq, w => .acq w
  | .shed, w => .shed w
  | .bar, w => .bar w
  | .bara, w => .bara w
  | .barw, w => .barw w
  | .bari, w => .bari w
  | .barx, w => .barx w
  | .gbar, w => .gbar w
  | .waitv, w => .waitv w
  | .qstat, w => .qstat w
  | .iadd, w => .iadd w
  | .isub, w => .isub w
  | .iadc, w => .iadc w
  | .isbc, w => .isbc w
  | .imul, w => .imul w
  | .imulh, w => .imulh w
  | .imad, w => .imad w
  | .imadw, w => .imadw w
  | .idiv, w => .idiv w
  | .irem, w => .irem w
  | .imin, w => .imin w
  | .imax, w => .imax w
  | .iabs, w => .iabs w
  | .idp4, w => .idp4 w
  | .lea, w => .lea w
  | .idp2, w => .idp2 w
  | .andB, w => .andB w
  | .orB, w => .orB w
  | .xorB, w => .xorB w
  | .tern, w => .tern w
  | .shl, w => .shl w
  | .shr, w => .shr w
  | .sar, w => .sar w
  | .rotl, w => .rotl w
  | .bfx, w => .bfx w
  | .bfi, w => .bfi w
  | .brev, w => .brev w
  | .popc, w => .popc w
  | .clz, w => .clz w
  | .ffs, w => .ffs w
  | .bsel, w => .bsel w
  | .bext, w => .bext w
  | .icmp, w => .icmp w
  | .fcmp, w => .fcmp w
  | .sel, w => .sel w
  | .mov, w => .mov w
  | .gets, w => .gets w
  | .sets, w => .sets w
  | .shfli, w => .shfli w
  | .shflu, w => .shflu w
  | .shfld, w => .shfld w
  | .shflx, w => .shflx w
  | .wred, w => .wred w
  | .wscan, w => .wscan w
  | .fwred, w => .fwred w
  | .nzcnt, w => .nzcnt w
  | .nzmap, w => .nzmap w
  | .matchL, w => .matchL w
  | .fadd, w => .fadd w
  | .fsub, w => .fsub w
  | .fmul, w => .fmul w
  | .ffma, w => .ffma w
  | .fmin, w => .fmin w
  | .fmax, w => .fmax w
  | .fdiv, w => .fdiv w
  | .fsqrt, w => .fsqrt w
  | .frcp, w => .frcp w
  | .frsq, w => .frsq w
  | .fexp2, w => .fexp2 w
  | .flog2, w => .flog2 w
  | .ftanh, w => .ftanh w
  | .frnd, w => .frnd w
  | .fclass, w => .fclass w
  | .fscale, w => .fscale w
  | .hadd2, w => .hadd2 w
  | .hsub2, w => .hsub2 w
  | .hmul2, w => .hmul2 w
  | .hfma2, w => .hfma2 w
  | .hmin2, w => .hmin2 w
  | .hmax2, w => .hmax2 w
  | .hdot2, w => .hdot2 w
  | .hexp2, w => .hexp2 w
  | .hcmp2, w => .hcmp2 w
  | .htanh2, w => .htanh2 w
  | .hrcp2, w => .hrcp2 w
  | .hrsq2, w => .hrsq2 w
  | .cvtf, w => .cvtf w
  | .i2f, w => .i2f w
  | .f2i, w => .f2i w
  | .ixt, w => .ixt w
  | .pk8, w => .pk8 w
  | .upk8, w => .upk8 w
  | .qblk, w => .qblk w
  | .dqblk, w => .dqblk w
  | .cbenc, w => .cbenc w
  | .cbdec, w => .cbdec w
  | .cbld, w => .cbld w
  | .sppk, w => .sppk w
  | .spupk, w => .spupk w
  | .srseed, w => .srseed w
  | .pk4, w => .pk4 w
  | .upk4, w => .upk4 w
  | .ld, w => .ld w
  | .st, w => .st w
  | .lda, w => .lda w
  | .stl, w => .stl w
  | .lds, w => .lds w
  | .sts, w => .sts w
  | .ldx, w => .ldx w
  | .stx, w => .stx w
  | .ldfe, w => .ldfe w
  | .stfe, w => .stfe w
  | .ldc, w => .ldc w
  | .rld, w => .rld w
  | .pref, w => .pref w
  | .cwb, w => .cwb w
  | .cinv, w => .cinv w
  | .acqp, w => .acqp w
  | .glds, w => .glds w
  | .isect, w => .isect w
  | .merge, w => .merge w
  | .compact, w => .compact w
  | .expand, w => .expand w
  | .tcopy, w => .tcopy w
  | .icopy, w => .icopy w
  | .hdef, w => .hdef w
  | .hwait, w => .hwait w
  | .hset, w => .hset w
  | .hstat, w => .hstat w
  | .segr, w => .segr w
  | .bsrch, w => .bsrch w
  | .atom, w => .atom w
  | .atomo, w => .atomo w
  | .red, w => .red w
  | .cas, w => .cas w
  | .caso, w => .caso w
  | .fred, w => .fred w
  | .fredo, w => .fredo w
  | .fatom, w => .fatom w
  | .fatomo, w => .fatomo w
  | .atoms, w => .atoms w
  | .freds, w => .freds w
  | .aflush, w => .aflush w
  | .cass, w => .cass w
  | .fence, w => .fence w
  | .dfence, w => .dfence w
  | .txb, w => .txb w
  | .txe, w => .txe w
  | .txa, w => .txa w
  | .txo, w => .txo w
  | .txoe, w => .txoe w
  | .txst, w => .txst w
  | .ldnt, w => .ldnt w
  | .tcfg, w => .tcfg w
  | .tld, w => .tld w
  | .tst, w => .tst w
  | .tzero, w => .tzero w
  | .tmovr, w => .tmovr w
  | .tmovw, w => .tmovw w
  | .tcb, w => .tcb w
  | .ttrn, w => .ttrn w
  | .tscal, w => .tscal w
  | .tadd, w => .tadd w
  | .tred, w => .tred w
  | .tnz, w => .tnz w
  | .mma, w => .mma w
  | .mmas, w => .mmas w
  | .mmag, w => .mmag w
  | .mmai, w => .mmai w
  | .tlu, w => .tlu w
  | .tchl, w => .tchl w
  | .ttrs, w => .ttrs w
  | .tmv, w => .tmv w
  | .mwait, w => .mwait w
  | .mmaq, w => .mmaq w
  | .tpiv, w => .tpiv w
  | .nbin, w => .nbin w
  | .npair, w => .npair w
  | .nstat, w => .nstat w
  | .ncfg, w => .ncfg w
  | .hprobe, w => .hprobe w
  | .hins, w => .hins w
  | .hdel, w => .hdel w
  | .hreh, w => .hreh w
  | .hcfg, w => .hcfg w
  | .hqry, w => .hqry w
  | .svopen, w => .svopen w
  | .svmark, w => .svmark w
  | .svclose, w => .svclose w
  | .svqry, w => .svqry w
  | .nfix, w => .nfix w
  | .svc, w => .svc w
  | .eret, w => .eret w
  | .getp, w => .getp w
  | .setp, w => .setp w
  | .tlbi, w => .tlbi w
  | .l2wb, w => .l2wb w
  | .vhold, w => .vhold w
  | .harv, w => .harv w
  | .ctxs, w => .ctxs w
  | .ctxr, w => .ctxr w
  | .migr, w => .migr w
  | .hnot, w => .hnot w

/-- The operation and the fields of an instruction that stands in a whole word; none for the mark and the events. -/
def Instr.opFields : Instr → Option (Op × Fields)
  | .nop w => some (.nop, w)
  | .bra w => some (.bra, w)
  | .brx w => some (.brx, w)
  | .call w => some (.call, w)
  | .callx w => some (.callx, w)
  | .ret w => some (.ret, w)
  | .loop w => some (.loop, w)
  | .meet w => some (.meet, w)
  | .voteany w => some (.voteany, w)
  | .voteall w => some (.voteall, w)
  | .ballot w => some (.ballot, w)
  | .yield w => some (.yield, w)
  | .rgn w => some (.rgn, w)
  | .trap w => some (.trap, w)
  | .bkpt w => some (.bkpt, w)
  | .jtab w => some (.jtab, w)
  | .fork w => some (.fork, w)
  | .endF w => some (.endF, w)
  | .spawn w => some (.spawn, w)
  | .spawnt w => some (.spawnt, w)
  | .trng w => some (.trng, w)
  | .acq w => some (.acq, w)
  | .shed w => some (.shed, w)
  | .bar w => some (.bar, w)
  | .bara w => some (.bara, w)
  | .barw w => some (.barw, w)
  | .bari w => some (.bari, w)
  | .barx w => some (.barx, w)
  | .gbar w => some (.gbar, w)
  | .waitv w => some (.waitv, w)
  | .qstat w => some (.qstat, w)
  | .iadd w => some (.iadd, w)
  | .isub w => some (.isub, w)
  | .iadc w => some (.iadc, w)
  | .isbc w => some (.isbc, w)
  | .imul w => some (.imul, w)
  | .imulh w => some (.imulh, w)
  | .imad w => some (.imad, w)
  | .imadw w => some (.imadw, w)
  | .idiv w => some (.idiv, w)
  | .irem w => some (.irem, w)
  | .imin w => some (.imin, w)
  | .imax w => some (.imax, w)
  | .iabs w => some (.iabs, w)
  | .idp4 w => some (.idp4, w)
  | .lea w => some (.lea, w)
  | .idp2 w => some (.idp2, w)
  | .andB w => some (.andB, w)
  | .orB w => some (.orB, w)
  | .xorB w => some (.xorB, w)
  | .tern w => some (.tern, w)
  | .shl w => some (.shl, w)
  | .shr w => some (.shr, w)
  | .sar w => some (.sar, w)
  | .rotl w => some (.rotl, w)
  | .bfx w => some (.bfx, w)
  | .bfi w => some (.bfi, w)
  | .brev w => some (.brev, w)
  | .popc w => some (.popc, w)
  | .clz w => some (.clz, w)
  | .ffs w => some (.ffs, w)
  | .bsel w => some (.bsel, w)
  | .bext w => some (.bext, w)
  | .icmp w => some (.icmp, w)
  | .fcmp w => some (.fcmp, w)
  | .sel w => some (.sel, w)
  | .mov w => some (.mov, w)
  | .gets w => some (.gets, w)
  | .sets w => some (.sets, w)
  | .shfli w => some (.shfli, w)
  | .shflu w => some (.shflu, w)
  | .shfld w => some (.shfld, w)
  | .shflx w => some (.shflx, w)
  | .wred w => some (.wred, w)
  | .wscan w => some (.wscan, w)
  | .fwred w => some (.fwred, w)
  | .nzcnt w => some (.nzcnt, w)
  | .nzmap w => some (.nzmap, w)
  | .matchL w => some (.matchL, w)
  | .fadd w => some (.fadd, w)
  | .fsub w => some (.fsub, w)
  | .fmul w => some (.fmul, w)
  | .ffma w => some (.ffma, w)
  | .fmin w => some (.fmin, w)
  | .fmax w => some (.fmax, w)
  | .fdiv w => some (.fdiv, w)
  | .fsqrt w => some (.fsqrt, w)
  | .frcp w => some (.frcp, w)
  | .frsq w => some (.frsq, w)
  | .fexp2 w => some (.fexp2, w)
  | .flog2 w => some (.flog2, w)
  | .ftanh w => some (.ftanh, w)
  | .frnd w => some (.frnd, w)
  | .fclass w => some (.fclass, w)
  | .fscale w => some (.fscale, w)
  | .hadd2 w => some (.hadd2, w)
  | .hsub2 w => some (.hsub2, w)
  | .hmul2 w => some (.hmul2, w)
  | .hfma2 w => some (.hfma2, w)
  | .hmin2 w => some (.hmin2, w)
  | .hmax2 w => some (.hmax2, w)
  | .hdot2 w => some (.hdot2, w)
  | .hexp2 w => some (.hexp2, w)
  | .hcmp2 w => some (.hcmp2, w)
  | .htanh2 w => some (.htanh2, w)
  | .hrcp2 w => some (.hrcp2, w)
  | .hrsq2 w => some (.hrsq2, w)
  | .cvtf w => some (.cvtf, w)
  | .i2f w => some (.i2f, w)
  | .f2i w => some (.f2i, w)
  | .ixt w => some (.ixt, w)
  | .pk8 w => some (.pk8, w)
  | .upk8 w => some (.upk8, w)
  | .qblk w => some (.qblk, w)
  | .dqblk w => some (.dqblk, w)
  | .cbenc w => some (.cbenc, w)
  | .cbdec w => some (.cbdec, w)
  | .cbld w => some (.cbld, w)
  | .sppk w => some (.sppk, w)
  | .spupk w => some (.spupk, w)
  | .srseed w => some (.srseed, w)
  | .pk4 w => some (.pk4, w)
  | .upk4 w => some (.upk4, w)
  | .ld w => some (.ld, w)
  | .st w => some (.st, w)
  | .lda w => some (.lda, w)
  | .stl w => some (.stl, w)
  | .lds w => some (.lds, w)
  | .sts w => some (.sts, w)
  | .ldx w => some (.ldx, w)
  | .stx w => some (.stx, w)
  | .ldfe w => some (.ldfe, w)
  | .stfe w => some (.stfe, w)
  | .ldc w => some (.ldc, w)
  | .rld w => some (.rld, w)
  | .pref w => some (.pref, w)
  | .cwb w => some (.cwb, w)
  | .cinv w => some (.cinv, w)
  | .acqp w => some (.acqp, w)
  | .glds w => some (.glds, w)
  | .isect w => some (.isect, w)
  | .merge w => some (.merge, w)
  | .compact w => some (.compact, w)
  | .expand w => some (.expand, w)
  | .tcopy w => some (.tcopy, w)
  | .icopy w => some (.icopy, w)
  | .hdef w => some (.hdef, w)
  | .hwait w => some (.hwait, w)
  | .hset w => some (.hset, w)
  | .hstat w => some (.hstat, w)
  | .segr w => some (.segr, w)
  | .bsrch w => some (.bsrch, w)
  | .atom w => some (.atom, w)
  | .atomo w => some (.atomo, w)
  | .red w => some (.red, w)
  | .cas w => some (.cas, w)
  | .caso w => some (.caso, w)
  | .fred w => some (.fred, w)
  | .fredo w => some (.fredo, w)
  | .fatom w => some (.fatom, w)
  | .fatomo w => some (.fatomo, w)
  | .atoms w => some (.atoms, w)
  | .freds w => some (.freds, w)
  | .aflush w => some (.aflush, w)
  | .cass w => some (.cass, w)
  | .fence w => some (.fence, w)
  | .dfence w => some (.dfence, w)
  | .txb w => some (.txb, w)
  | .txe w => some (.txe, w)
  | .txa w => some (.txa, w)
  | .txo w => some (.txo, w)
  | .txoe w => some (.txoe, w)
  | .txst w => some (.txst, w)
  | .ldnt w => some (.ldnt, w)
  | .tcfg w => some (.tcfg, w)
  | .tld w => some (.tld, w)
  | .tst w => some (.tst, w)
  | .tzero w => some (.tzero, w)
  | .tmovr w => some (.tmovr, w)
  | .tmovw w => some (.tmovw, w)
  | .tcb w => some (.tcb, w)
  | .ttrn w => some (.ttrn, w)
  | .tscal w => some (.tscal, w)
  | .tadd w => some (.tadd, w)
  | .tred w => some (.tred, w)
  | .tnz w => some (.tnz, w)
  | .mma w => some (.mma, w)
  | .mmas w => some (.mmas, w)
  | .mmag w => some (.mmag, w)
  | .mmai w => some (.mmai, w)
  | .tlu w => some (.tlu, w)
  | .tchl w => some (.tchl, w)
  | .ttrs w => some (.ttrs, w)
  | .tmv w => some (.tmv, w)
  | .mwait w => some (.mwait, w)
  | .mmaq w => some (.mmaq, w)
  | .tpiv w => some (.tpiv, w)
  | .nbin w => some (.nbin, w)
  | .npair w => some (.npair, w)
  | .nstat w => some (.nstat, w)
  | .ncfg w => some (.ncfg, w)
  | .hprobe w => some (.hprobe, w)
  | .hins w => some (.hins, w)
  | .hdel w => some (.hdel, w)
  | .hreh w => some (.hreh, w)
  | .hcfg w => some (.hcfg, w)
  | .hqry w => some (.hqry, w)
  | .svopen w => some (.svopen, w)
  | .svmark w => some (.svmark, w)
  | .svclose w => some (.svclose, w)
  | .svqry w => some (.svqry, w)
  | .nfix w => some (.nfix, w)
  | .svc w => some (.svc, w)
  | .eret w => some (.eret, w)
  | .getp w => some (.getp, w)
  | .setp w => some (.setp, w)
  | .tlbi w => some (.tlbi, w)
  | .l2wb w => some (.l2wb, w)
  | .vhold w => some (.vhold, w)
  | .harv w => some (.harv, w)
  | .ctxs w => some (.ctxs, w)
  | .ctxr w => some (.ctxr, w)
  | .migr w => some (.migr, w)
  | .hnot w => some (.hnot, w)
  | .dictionaryMark _ _ => none
  | .unassignedOpcode _ _ => none
  | .longResultWrite => none
  | .gldsLaneArrival => none
  | .waitvSatisfied => none
  | .barrierRelease => none
  | .acqGrant => none
  | .shedEffect => none
  | .engineBufferPause => none
  | .tcopyEnd => none
  | .icopyEnd => none
  | .isectEnd => none
  | .mergeEnd => none
  | .nbinEnd => none
  | .npairEnd => none
  | .nfixEnd => none
  | .hcfgEnd => none
  | .hprobeEnd => none
  | .hinsEnd => none
  | .hdelEnd => none
  | .hrehEnd => none
  | .ctxsEnd => none
  | .ctxrEnd => none
  | .migrEnd => none
  | .matrixOpComplete => none
  | .deferredTileFault => none
  | .irrevTokenGrant => none
  | .cartEntryArrival => none
  | .drainerMarker => none
  | .roundClose => none
  | .forwardedAccessReceive => none
  | .forwardedResponse => none
  | .remoteStoreRefusal => none
  | .pageWalk => none
  | .walkWaitTimeout => none
  | .faultRingWrite => none
  | .fackResume => none
  | .fackEnd => none
  | .fackAbort => none
  | .placementPass => none
  | .gangPreempt => none
  | .gangRestore => none
  | .gangStartEdge => none
  | .teamRetire => none
  | .itemPlacement => none
  | .scoreHalving => none
  | .watchdogExpiry => none
  | .launchDeadline => none
  | .assayDeadline => none
  | .launchRecord => none
  | .loadRecord => none
  | .unloadRecord => none
  | .launchCompletion => none
  | .notificationPost => none
  | .qtailWrite => none
  | .nheadWrite => none
  | .qptbrWrite => none
  | .registerWrite => none
  | .hostHdmAccess => none
  | .frfmtEnable => none
  | .frfmtDisable => none
  | .wdogRestart => none
  | .wdogZeroWrite => none
  | .spanPrepare => none
  | .spanCommit => none
  | .spanGo => none
  | .spanAbandon => none
  | .spanWindowExpiry => none
  | .spanLocalTimeout => none
  | .portTraining => none
  | .portDown => none
  | .heartbeatSend => none
  | .heartbeatReceive => none
  | .agentDeathDeclare => none
  | .deadMessage => none
  | .admitMessage => none
  | .admissionGo => none
  | .fabricMessageReceive => none
  | .fwImageStage => none
  | .fwUnitActivate => none
  | .getVersion => none
  | .getCapabilities => none
  | .negotiateAlgorithms => none
  | .getDigests => none
  | .getCertificate => none
  | .challenge => none
  | .getMeasurements => none
  | .masterFreeze => none
  | .mfreezeThaw => none
  | .spareCoreReplace => none
  | .eccCorrected => none
  | .eccPoison => none
  | .sensorSample => none
  | .deviceReset => none
  | .oddOrOutOfCodeFetch => none
  | .spanReadyReport => none
  | .spanCommitAcknowledgement => none

end Sys2Proof
end

