-- ==== Sys2Proof/Machine/Slots.lean ====
section
/-! DEFINITION. The word of each operation: its opcode byte, its class, its modifier layout (13) and its operand slots
(the slot tables of 14 R274, 15 R295, 16 R321, 17 R343, 18 R372, 19 R398). Every later check reads these tables. -/

namespace Sys2Proof

/-- The opcode byte of an operation (13 R263). -/
def Op.code : Op → Nat
  | .nop => 0x00
  | .bra => 0x01
  | .brx => 0x02
  | .call => 0x03
  | .callx => 0x04
  | .ret => 0x05
  | .loop => 0x06
  | .meet => 0x07
  | .voteany => 0x08
  | .voteall => 0x09
  | .ballot => 0x0A
  | .yield => 0x0B
  | .rgn => 0x0C
  | .trap => 0x0D
  | .bkpt => 0x0E
  | .jtab => 0x0F
  | .fork => 0x10
  | .endF => 0x11
  | .spawn => 0x12
  | .spawnt => 0x13
  | .trng => 0x14
  | .acq => 0x15
  | .shed => 0x16
  | .bar => 0x17
  | .bara => 0x18
  | .barw => 0x19
  | .bari => 0x1A
  | .barx => 0x1B
  | .gbar => 0x1C
  | .waitv => 0x1D
  | .qstat => 0x1E
  | .iadd => 0x20
  | .isub => 0x21
  | .iadc => 0x22
  | .isbc => 0x23
  | .imul => 0x24
  | .imulh => 0x25
  | .imad => 0x26
  | .imadw => 0x27
  | .idiv => 0x28
  | .irem => 0x29
  | .imin => 0x2A
  | .imax => 0x2B
  | .iabs => 0x2C
  | .idp4 => 0x2D
  | .lea => 0x2E
  | .idp2 => 0x2F
  | .andB => 0x30
  | .orB => 0x31
  | .xorB => 0x32
  | .tern => 0x33
  | .shl => 0x34
  | .shr => 0x35
  | .sar => 0x36
  | .rotl => 0x37
  | .bfx => 0x38
  | .bfi => 0x39
  | .brev => 0x3A
  | .popc => 0x3B
  | .clz => 0x3C
  | .ffs => 0x3D
  | .bsel => 0x3E
  | .bext => 0x3F
  | .icmp => 0x40
  | .fcmp => 0x41
  | .sel => 0x42
  | .mov => 0x43
  | .gets => 0x44
  | .sets => 0x45
  | .shfli => 0x46
  | .shflu => 0x47
  | .shfld => 0x48
  | .shflx => 0x49
  | .wred => 0x4A
  | .wscan => 0x4B
  | .fwred => 0x4C
  | .nzcnt => 0x4D
  | .nzmap => 0x4E
  | .matchL => 0x4F
  | .fadd => 0x50
  | .fsub => 0x51
  | .fmul => 0x52
  | .ffma => 0x53
  | .fmin => 0x54
  | .fmax => 0x55
  | .fdiv => 0x56
  | .fsqrt => 0x57
  | .frcp => 0x58
  | .frsq => 0x59
  | .fexp2 => 0x5A
  | .flog2 => 0x5B
  | .ftanh => 0x5C
  | .frnd => 0x5D
  | .fclass => 0x5E
  | .fscale => 0x5F
  | .hadd2 => 0x60
  | .hsub2 => 0x61
  | .hmul2 => 0x62
  | .hfma2 => 0x63
  | .hmin2 => 0x64
  | .hmax2 => 0x65
  | .hdot2 => 0x66
  | .hexp2 => 0x67
  | .hcmp2 => 0x68
  | .htanh2 => 0x69
  | .hrcp2 => 0x6A
  | .hrsq2 => 0x6B
  | .cvtf => 0x70
  | .i2f => 0x71
  | .f2i => 0x72
  | .ixt => 0x73
  | .pk8 => 0x74
  | .upk8 => 0x75
  | .qblk => 0x76
  | .dqblk => 0x77
  | .cbenc => 0x78
  | .cbdec => 0x79
  | .cbld => 0x7A
  | .sppk => 0x7B
  | .spupk => 0x7C
  | .srseed => 0x7D
  | .pk4 => 0x7E
  | .upk4 => 0x7F
  | .ld => 0x80
  | .st => 0x81
  | .lda => 0x82
  | .stl => 0x83
  | .lds => 0x84
  | .sts => 0x85
  | .ldx => 0x86
  | .stx => 0x87
  | .ldfe => 0x88
  | .stfe => 0x89
  | .ldc => 0x8A
  | .rld => 0x8B
  | .pref => 0x8C
  | .cwb => 0x8D
  | .cinv => 0x8E
  | .acqp => 0x8F
  | .glds => 0x90
  | .isect => 0x91
  | .merge => 0x92
  | .compact => 0x93
  | .expand => 0x94
  | .tcopy => 0x95
  | .icopy => 0x96
  | .hdef => 0x97
  | .hwait => 0x98
  | .hset => 0x99
  | .hstat => 0x9A
  | .segr => 0x9B
  | .bsrch => 0x9C
  | .atom => 0xA0
  | .atomo => 0xA1
  | .red => 0xA2
  | .cas => 0xA3
  | .caso => 0xA4
  | .fred => 0xA5
  | .fredo => 0xA6
  | .fatom => 0xA7
  | .fatomo => 0xA8
  | .atoms => 0xA9
  | .freds => 0xAA
  | .aflush => 0xAB
  | .cass => 0xAC
  | .fence => 0xB0
  | .dfence => 0xB1
  | .txb => 0xB2
  | .txe => 0xB3
  | .txa => 0xB4
  | .txo => 0xB5
  | .txoe => 0xB6
  | .txst => 0xB7
  | .ldnt => 0xB8
  | .tcfg => 0xC0
  | .tld => 0xC1
  | .tst => 0xC2
  | .tzero => 0xC3
  | .tmovr => 0xC4
  | .tmovw => 0xC5
  | .tcb => 0xC6
  | .ttrn => 0xC7
  | .tscal => 0xC8
  | .tadd => 0xC9
  | .tred => 0xCA
  | .tnz => 0xCB
  | .mma => 0xD0
  | .mmas => 0xD1
  | .mmag => 0xD2
  | .mmai => 0xD3
  | .tlu => 0xD4
  | .tchl => 0xD5
  | .ttrs => 0xD6
  | .tmv => 0xD7
  | .mwait => 0xD8
  | .mmaq => 0xD9
  | .tpiv => 0xDA
  | .nbin => 0xE0
  | .npair => 0xE1
  | .nstat => 0xE2
  | .ncfg => 0xE3
  | .hprobe => 0xE4
  | .hins => 0xE5
  | .hdel => 0xE6
  | .hreh => 0xE7
  | .hcfg => 0xE8
  | .hqry => 0xE9
  | .svopen => 0xEA
  | .svmark => 0xEB
  | .svclose => 0xEC
  | .svqry => 0xED
  | .nfix => 0xEE
  | .svc => 0xF0
  | .eret => 0xF1
  | .getp => 0xF2
  | .setp => 0xF3
  | .tlbi => 0xF4
  | .l2wb => 0xF5
  | .vhold => 0xF6
  | .harv => 0xF7
  | .ctxs => 0xF8
  | .ctxr => 0xF9
  | .migr => 0xFA
  | .hnot => 0xFB

/-- Every operation with an opcode byte whose high nibble is the given one (13 R263), one row of the map. -/
def Op.row : Nat → List (Nat × Op)
  | 0x0 => [(0x00, .nop), (0x01, .bra), (0x02, .brx), (0x03, .call), (0x04, .callx), (0x05, .ret),
      (0x06, .loop), (0x07, .meet), (0x08, .voteany), (0x09, .voteall), (0x0A, .ballot), (0x0B, .yield),
      (0x0C, .rgn), (0x0D, .trap), (0x0E, .bkpt), (0x0F, .jtab)]
  | 0x1 => [(0x10, .fork), (0x11, .endF), (0x12, .spawn), (0x13, .spawnt), (0x14, .trng), (0x15, .acq),
      (0x16, .shed), (0x17, .bar), (0x18, .bara), (0x19, .barw), (0x1A, .bari), (0x1B, .barx),
      (0x1C, .gbar), (0x1D, .waitv), (0x1E, .qstat)]
  | 0x2 => [(0x20, .iadd), (0x21, .isub), (0x22, .iadc), (0x23, .isbc), (0x24, .imul), (0x25, .imulh),
      (0x26, .imad), (0x27, .imadw), (0x28, .idiv), (0x29, .irem), (0x2A, .imin), (0x2B, .imax),
      (0x2C, .iabs), (0x2D, .idp4), (0x2E, .lea), (0x2F, .idp2)]
  | 0x3 => [(0x30, .andB), (0x31, .orB), (0x32, .xorB), (0x33, .tern), (0x34, .shl), (0x35, .shr),
      (0x36, .sar), (0x37, .rotl), (0x38, .bfx), (0x39, .bfi), (0x3A, .brev), (0x3B, .popc),
      (0x3C, .clz), (0x3D, .ffs), (0x3E, .bsel), (0x3F, .bext)]
  | 0x4 => [(0x40, .icmp), (0x41, .fcmp), (0x42, .sel), (0x43, .mov), (0x44, .gets), (0x45, .sets),
      (0x46, .shfli), (0x47, .shflu), (0x48, .shfld), (0x49, .shflx), (0x4A, .wred), (0x4B, .wscan),
      (0x4C, .fwred), (0x4D, .nzcnt), (0x4E, .nzmap), (0x4F, .matchL)]
  | 0x5 => [(0x50, .fadd), (0x51, .fsub), (0x52, .fmul), (0x53, .ffma), (0x54, .fmin), (0x55, .fmax),
      (0x56, .fdiv), (0x57, .fsqrt), (0x58, .frcp), (0x59, .frsq), (0x5A, .fexp2), (0x5B, .flog2),
      (0x5C, .ftanh), (0x5D, .frnd), (0x5E, .fclass), (0x5F, .fscale)]
  | 0x6 => [(0x60, .hadd2), (0x61, .hsub2), (0x62, .hmul2), (0x63, .hfma2), (0x64, .hmin2), (0x65, .hmax2),
      (0x66, .hdot2), (0x67, .hexp2), (0x68, .hcmp2), (0x69, .htanh2), (0x6A, .hrcp2), (0x6B, .hrsq2)]
  | 0x7 => [(0x70, .cvtf), (0x71, .i2f), (0x72, .f2i), (0x73, .ixt), (0x74, .pk8), (0x75, .upk8),
      (0x76, .qblk), (0x77, .dqblk), (0x78, .cbenc), (0x79, .cbdec), (0x7A, .cbld), (0x7B, .sppk),
      (0x7C, .spupk), (0x7D, .srseed), (0x7E, .pk4), (0x7F, .upk4)]
  | 0x8 => [(0x80, .ld), (0x81, .st), (0x82, .lda), (0x83, .stl), (0x84, .lds), (0x85, .sts),
      (0x86, .ldx), (0x87, .stx), (0x88, .ldfe), (0x89, .stfe), (0x8A, .ldc), (0x8B, .rld),
      (0x8C, .pref), (0x8D, .cwb), (0x8E, .cinv), (0x8F, .acqp)]
  | 0x9 => [(0x90, .glds), (0x91, .isect), (0x92, .merge), (0x93, .compact), (0x94, .expand), (0x95, .tcopy),
      (0x96, .icopy), (0x97, .hdef), (0x98, .hwait), (0x99, .hset), (0x9A, .hstat), (0x9B, .segr),
      (0x9C, .bsrch)]
  | 0xA => [(0xA0, .atom), (0xA1, .atomo), (0xA2, .red), (0xA3, .cas), (0xA4, .caso), (0xA5, .fred),
      (0xA6, .fredo), (0xA7, .fatom), (0xA8, .fatomo), (0xA9, .atoms), (0xAA, .freds), (0xAB, .aflush),
      (0xAC, .cass)]
  | 0xB => [(0xB0, .fence), (0xB1, .dfence), (0xB2, .txb), (0xB3, .txe), (0xB4, .txa), (0xB5, .txo),
      (0xB6, .txoe), (0xB7, .txst), (0xB8, .ldnt)]
  | 0xC => [(0xC0, .tcfg), (0xC1, .tld), (0xC2, .tst), (0xC3, .tzero), (0xC4, .tmovr), (0xC5, .tmovw),
      (0xC6, .tcb), (0xC7, .ttrn), (0xC8, .tscal), (0xC9, .tadd), (0xCA, .tred), (0xCB, .tnz)]
  | 0xD => [(0xD0, .mma), (0xD1, .mmas), (0xD2, .mmag), (0xD3, .mmai), (0xD4, .tlu), (0xD5, .tchl),
      (0xD6, .ttrs), (0xD7, .tmv), (0xD8, .mwait), (0xD9, .mmaq), (0xDA, .tpiv)]
  | 0xE => [(0xE0, .nbin), (0xE1, .npair), (0xE2, .nstat), (0xE3, .ncfg), (0xE4, .hprobe), (0xE5, .hins),
      (0xE6, .hdel), (0xE7, .hreh), (0xE8, .hcfg), (0xE9, .hqry), (0xEA, .svopen), (0xEB, .svmark),
      (0xEC, .svclose), (0xED, .svqry), (0xEE, .nfix)]
  | 0xF => [(0xF0, .svc), (0xF1, .eret), (0xF2, .getp), (0xF3, .setp), (0xF4, .tlbi), (0xF5, .l2wb),
      (0xF6, .vhold), (0xF7, .harv), (0xF8, .ctxs), (0xF9, .ctxr), (0xFA, .migr), (0xFB, .hnot)]
  | _ => []

/-- The operation an opcode byte names; none for the 28 unassigned values and the marks (13 R263, R264). -/
def Op.ofCode (c : Nat) : Option Op := ((Op.row (c / 16)).find? (fun r => r.1 == c)).map (fun r => r.2)

/-- The long class (12 R248; the `l` cells of 13 R263). -/
def Op.long : Op → Bool
  | .idiv | .irem | .fdiv | .fsqrt | .frcp | .frsq | .fexp2 | .flog2 | .ftanh | .hrcp2 | .hrsq2 | .ld | .lda |
    .lds | .ldx | .ldfe | .ldc | .rld | .glds | .expand | .bsrch | .atom | .atomo | .cas | .caso | .fatom |
    .fatomo | .atoms | .cass | .ldnt | .tmovr => true
  | _ => false

/-- The privileged opcodes 0xF1 to 0xFA (13 R266). -/
def Op.privileged : Op → Bool
  | .eret | .getp | .setp | .tlbi | .l2wb | .vhold | .harv | .ctxs | .ctxr | .migr => true
  | _ => false

/-- The opcodes that act for the whole wave and take no guard (12 R243). -/
def Op.unguarded : Op → Bool
  | .rgn | .meet | .acq | .shed | .bar | .gbar | .aflush => true
  | _ => false

/-- The unordered opcodes (07 R170): one of them makes a kernel's promise NONE (07 R171). -/
def Op.unordered : Op → Bool
  | .spawn | .spawnt | .atom | .cas | .fred | .fatom | .atoms | .freds | .cass | .txb | .txe | .hins | .hdel => true
  | _ => false

/-- The ordered opcodes (07 R170). -/
def Op.ordered : Op → Bool
  | .atomo | .caso | .fredo | .fatomo | .txo | .txoe => true
  | _ => false

/-- Opcodes of the floating-point and conversion chapter, 0x50 to 0x7F (16; 05 R149). -/
def Op.floatChapter (op : Op) : Bool := 0x50 ≤ op.code && op.code ≤ 0x7F

/-- The memory instructions that locality throttling holds back, 0x80-0xAC and 0xB0-0xB8 (02 R58). -/
def Op.throttled (op : Op) : Bool := (0x80 ≤ op.code && op.code ≤ 0xAC) || (0xB0 ≤ op.code && op.code ≤ 0xB8)

/-- The modifier layouts (13 R269). -/
inductive Layout where
  | none | scope | wait | int | dot | lea | bits | tern | icmp | fcmp | wred | fp | elem | half | cvt | i2f | ixt | narrow | sparse | mem | segr | aint | afp | fence | tx | mma | fac | ttrs | l2wb
deriving DecidableEq, Repr, Inhabited

/-- The layout each opcode's MOD is read through (13 R269). -/
def Op.layout : Op → Layout
  | .bari | .dfence | .tlbi => .scope
  | .waitv => .wait
  | .iadd | .isub | .iadc | .isbc | .imul | .imulh | .imad | .imadw | .idiv | .irem | .imin | .imax | .iabs => .int
  | .idp4 | .idp2 => .dot
  | .lea => .lea
  | .andB | .orB | .xorB | .shl | .shr | .sar | .rotl | .bfx | .bfi | .brev | .popc | .clz | .ffs | .bext |
    .sel | .mov | .shfli | .shflu | .shfld | .shflx | .matchL => .bits
  | .tern => .tern
  | .icmp => .icmp
  | .fcmp | .hcmp2 => .fcmp
  | .wred | .wscan => .wred
  | .fwred | .fadd | .fsub | .fmul | .ffma | .fmin | .fmax | .fdiv | .fsqrt | .frcp | .frsq | .fexp2 | .flog2 |
    .ftanh | .frnd | .fclass | .fscale | .tscal | .tadd | .tred => .fp
  | .nzcnt | .nzmap | .tnz => .elem
  | .hadd2 | .hsub2 | .hmul2 | .hfma2 | .hmin2 | .hmax2 | .hdot2 | .hexp2 | .htanh2 | .hrcp2 | .hrsq2 => .half
  | .cvtf => .cvt
  | .i2f | .f2i => .i2f
  | .ixt => .ixt
  | .pk8 | .upk8 | .qblk | .dqblk | .pk4 | .upk4 => .narrow
  | .sppk | .spupk => .sparse
  | .ld | .st | .lda | .stl | .lds | .sts | .ldx | .stx | .ldfe | .stfe | .ldc | .rld | .pref | .glds | .ldnt |
    .tld | .tst => .mem
  | .segr => .segr
  | .atom | .atomo | .red | .cas | .caso | .atoms | .cass => .aint
  | .fred | .fredo | .fatom | .fatomo | .freds => .afp
  | .fence => .fence
  | .txb => .tx
  | .mma | .mmas | .mmag | .mmai | .mmaq => .mma
  | .tlu | .tchl | .tmv => .fac
  | .ttrs => .ttrs
  | .l2wb => .l2wb
  | _ => .none

/-- Bits [lo + len − 1 : lo] of MOD, as a number. -/
def modField (m : Byte) (lo len : Nat) : Nat := m.toNat / 2 ^ lo % 2 ^ len

/-- Whether a bit of MOD is 1. -/
def modBit (m : Byte) (i : Nat) : Bool := m.getLsbD i

/-- A SCOPE code 1 to 6; 0 and 7 are reserved (00 R3). -/
def scopeOk (c : Nat) : Bool := 1 ≤ c && c ≤ 6

/-- A rounding code 0 to 5 (05 R134). -/
def rcOk (c : Nat) : Bool := c ≤ 5

/-- A rounding code on an instruction that does not take SR (05 R134; 13 R270). -/
def rcNoSr (c : Nat) : Bool := c ≤ 5 && c != 4

/-- Codes RNE and DYN only: the functions of 05 R143 (13 R270). -/
def rcRneDyn (c : Nat) : Bool := c == 0 || c == 5

/-- Whether MOD holds no reserved encoding for this opcode (13 R268 to R273, with 15 R297, 16 R335, 17 R345). -/
def Op.modOk (op : Op) (m : Byte) : Bool :=
  let f := modField m
  match op.layout with
  | .none => m == 0
  | .scope => scopeOk (f 0 3) && f 3 5 == 0
  | .wait => f 0 3 ≤ 5 && scopeOk (f 3 3) && f 7 1 == 0
  | .fence => scopeOk (f 0 3) && f 3 2 ≤ 2 && f 5 3 == 0
  | .int => f 3 5 == 0 && (match op with
      | .iadc | .isbc | .imulh | .idiv | .irem | .imin | .imax => f 2 1 == 0
      | .imadw => f 0 2 ≤ 1
      | .iabs => f 0 1 == 1
      | _ => true)
  | .dot => f 3 5 == 0
  | .lea => f 5 3 == 0
  | .bits => f 2 6 == 0 && (op == .bfx || f 1 1 == 0)
  | .tern => true
  | .icmp => f 0 3 ≤ 5 && f 5 3 == 0
  | .fcmp => f 0 3 ≤ 5 && f 5 3 == 0 && (op == .hcmp2 || f 4 1 == 0)
  | .wred => f 0 3 ≤ 5 && f 6 2 == 0 && (op == .wscan || f 5 1 == 0)
  | .fp => f 4 4 == 0 && rcNoSr (f 0 3) && (match op with
      | .fmin | .fmax | .fclass => f 0 4 == 0
      | .frcp | .frsq | .fexp2 | .flog2 | .ftanh => rcRneDyn (f 0 3)
      | _ => true)
  | .elem => f 0 3 ≤ 6 && f 3 5 == 0
  | .half => f 5 3 == 0 && rcNoSr (f 0 3) && (match op with
      | .hmin2 | .hmax2 => f 0 4 == 0
      | .hexp2 | .htanh2 | .hrcp2 | .hrsq2 => rcRneDyn (f 0 3)
      | _ => true)
  | .cvt => rcOk (f 0 3) && (!((4 ≤ f 4 4 && f 4 4 ≤ 7) || (10 ≤ f 4 4 && f 4 4 ≤ 13)) || f 0 4 == 0)
  | .i2f => rcOk (f 0 3) && f 4 2 ≤ 2 && f 6 2 == 0 && (op == .f2i || f 0 3 != 4 || f 4 2 != 0)
  | .ixt => f 0 2 ≤ 2 && f 4 4 == 0 && (f 0 2 != 2 || f 3 1 == 1)
  | .narrow => rcOk (f 0 3) && f 7 1 == 0 && f 4 3 ≤ 4 && (match op with
      | .pk8 => f 4 3 ≤ 2
      | .upk8 => f 4 3 ≤ 2 && f 0 4 == 0
      | .pk4 => 3 ≤ f 4 3 && (f 4 3 == 3 || f 0 4 == 0)
      | .upk4 => 3 ≤ f 4 3 && f 0 4 == 0
      | .qblk => f 4 3 ≤ 3 && f 3 1 == 0
      | _ => f 4 3 ≤ 3 && rcNoSr (f 0 3))
  | .sparse => f 0 2 ≤ 2 && f 4 4 == 0
  | .mem => f 0 3 ≤ 6 && (match op with
      | .lda => scopeOk (f 3 3) && f 0 3 != 6 && f 6 2 == 0
      | .stl => scopeOk (f 3 3) && f 0 3 != 6 && f 0 3 != 1 && f 0 3 != 3 && f 6 2 == 0
      | .ld => f 3 3 == 0
      | .st => f 3 3 == 0 && f 0 3 != 1 && f 0 3 != 3
      | .glds => f 3 3 == 0 && f 0 3 != 6
      | .tld | .tst => f 0 6 == 0
      | .pref => f 0 6 == 0 && f 6 2 ≤ 1
      | .ldfe => f 3 3 == 0 && f 7 1 == 0
      | .rld => f 0 3 == 5 && f 3 5 == 0
      | .sts | .stx | .stfe => f 3 5 == 0 && f 0 3 != 1 && f 0 3 != 3
      | _ => f 3 5 == 0)
  | .segr => rcNoSr (f 0 3) && f 3 2 ≤ 2 && f 5 3 == 0 && (f 3 2 == 0 || f 0 3 == 0)
  | .aint => f 0 3 ≤ 6 && f 5 3 == 0 && (match op with
      | .red => f 0 3 != 6
      | .cas | .caso | .cass => f 0 3 == 0
      | _ => true)
  | .afp => rcNoSr (f 0 3) && f 3 2 ≤ 2 && f 5 3 == 0
  | .tx => f 1 7 == 0
  | .mma =>
    let inp := f 2 3
    let acc := f 5 1
    let n := f 6 2
    (match op with
      | .mmas => inp ≤ 5 && n ≤ 2 && (acc == 0 || inp ≤ 1)
      | .mmai => (inp == 4 || inp == 5) && acc == 0 && n == 0
      | .mmaq => 2 ≤ inp && inp ≤ 5 && acc == 0 && n == 0
      | _ => inp ≤ 3 && n == 0 && (acc == 0 || inp ≤ 1))
  | .ttrs => f 4 4 == 0
  | .fac => f 1 7 == 0
  | .l2wb => f 1 7 == 0

/-- The width of a register slot. -/
inductive Width where
  | w32   -- one register
  | w64   -- a pair
  | w128  -- two consecutive pairs (17 R345)
deriving DecidableEq, Repr, Inhabited

/-- What an operand slot takes. -/
inductive Slot where
  /-- Not used: it must hold 0x000 (12 R239). -/
  | unused
  /-- A source read as a value (12 R238). -/
  | src (w : Width)
  /-- A destination (12 R239). -/
  | dst (w : Width)
  /-- A 32-bit destination that is read as well (LOOP, the votes, the compares). -/
  | rmw
  /-- A block of registers read, kind 0b00. -/
  | blkSrc (n : Nat)
  /-- A block of registers written, kind 0b00. -/
  | blkDst (n : Nat)
  /-- The base register of RGN's mask, kind 0b00 (14 R280). -/
  | base
  /-- Special 1 only (14 R274). -/
  | immOnly
  /-- A predicate bit pK of v0, K at least lo and at most hi (14 R275); whether v0 is read or written through it. -/
  | pred (lo hi : Nat) (reads writes : Bool)
  /-- A predicate bit that names a bit of another register. -/
  | bit
  | tile
  | handle
  | gang
deriving DecidableEq, Repr, Inhabited

/-- What imm32 is to an instruction (12 R239, R240). -/
inductive ImmUse where
  /-- Left to special 1. -/
  | free
  /-- An offset or a target of the instruction's own. -/
  | own
  /-- The descriptor of a fourth operand. -/
  | fourth (s : Slot)
  /-- A small number with a largest value (19 R398). -/
  | sel (max : Nat)
deriving DecidableEq, Repr, Inhabited

/-- The slots of an instruction's word. -/
structure Slots where
  d : Slot := .unused
  a : Slot := .unused
  b : Slot := .unused
  imm : ImmUse := .free
deriving DecidableEq, Repr, Inhabited

/-- The width TY gives a W slot, TY at bit lo of MOD (15 R296): `.u64` and `.s64` are pairs. -/
def tyWidth (m : Byte) (lo : Nat) : Width := if modBit m (lo + 1) then .w64 else .w32

/-- The width WD gives a W slot (15 R296). -/
def wdWidth (m : Byte) : Width := if modBit m 0 then .w64 else .w32

/-- The width SZ gives a data slot (17 R345). -/
def szWidth (m : Byte) : Width :=
  match modField m 0 3 with
  | 5 => .w64
  | 6 => .w128
  | _ => .w32

/-- The address slot of TLD, TST and TCB: kind 0b00 or a special is a scratchpad offset, a pair a global address (18 R380). -/
def tileAddr (a : Desc) : Slot :=
  match a.kind with
  | .pair | .uni => .src .w64
  | _ => .src .w32

/-- Dense registers of a group of 16: Q = W ÷ 2 (16 R340). -/
def sparseQ (m : Byte) : Nat := 2 * 2 ^ modField m 2 2

/-- Kept values N of a group (13 R270). -/
def sparseN (m : Byte) : Nat := 2 * 2 ^ modField m 0 2

/-- Registers of the kept values: K = ⌈N × W ÷ 32⌉ (16 R340). -/
def sparseK (m : Byte) : Nat := (sparseN m * (4 * 2 ^ modField m 2 2) + 31) / 32

/-- The slots of each opcode, with the widths its word gives them. -/
def Op.slots (op : Op) (w : Fields) : Slots :=
  let m := w.mod
  let s32 := Slot.src .w32
  let s64 := Slot.src .w64
  let d32 := Slot.dst .w32
  let d64 := Slot.dst .w64
  let ty := tyWidth m 0
  let ty3 := tyWidth m 3
  let wd := wdWidth m
  let sz := szWidth m
  match op with
  -- 14 R274
  | .nop | .meet | .yield | .endF | .acq | .bar | .gbar => {}
  | .bra => { imm := .own }
  | .brx | .ret | .trap | .bkpt => { a := s32 }
  | .call => { d := d32, imm := .own }
  | .callx => { d := d32, a := s32 }
  | .loop => { d := .rmw, imm := .own }
  | .voteany | .voteall => { d := .rmw, a := s32, b := s32 }
  | .ballot => { d := d32, a := s32, b := .bit }
  | .rgn => { a := .base, b := .immOnly }
  | .jtab => { a := s32, b := s32, imm := .own }
  | .fork => { d := d32, a := s32, b := s32, imm := .own }
  | .spawn => { a := .blkSrc 4, imm := .own }
  | .spawnt => { a := .blkSrc 4, b := .pred 1 31 false true, imm := .own }
  | .trng => { d := s64, a := s32, b := s64, imm := .fourth s32 }
  | .shed => { a := s32, b := s32, imm := .fourth s32 }
  | .bara | .barx => { d := d32, a := s32 }
  | .barw | .bari => { a := s32, b := s32 }
  | .waitv => { d := d32, a := s64, b := s32 }
  | .qstat => { d := d32, a := s32 }
  -- 15 R295
  | .iadd | .isub | .imul | .imulh | .imin | .imax | .idiv | .irem => { d := .dst ty, a := .src ty, b := .src ty }
  | .iadc | .isbc => { d := .dst ty, a := .src ty, b := .src ty, imm := .fourth (.pred 1 31 true true) }
  | .imad => { d := .dst ty, a := .src ty, b := .src ty, imm := .fourth (.src ty) }
  | .imadw => { d := d64, a := s32, b := s32, imm := .fourth s64 }
  | .iabs => { d := .dst ty, a := .src ty }
  | .idp4 | .idp2 | .tern | .bsel => { d := d32, a := s32, b := s32, imm := .fourth s32 }
  | .lea => { d := d64, a := s64, b := s32 }
  | .andB | .orB | .xorB | .bext => { d := .dst wd, a := .src wd, b := .src wd }
  | .shl | .shr | .sar | .rotl | .bfx => { d := .dst wd, a := .src wd, b := s32 }
  | .bfi => { d := .dst wd, a := .src wd, b := .src wd, imm := .fourth s32 }
  | .brev | .mov => { d := .dst wd, a := .src wd }
  | .popc | .clz | .ffs | .matchL => { d := d32, a := .src wd }
  | .icmp => { d := .rmw, a := .src ty3, b := .src ty3, imm := .fourth .bit }
  | .fcmp => { d := .rmw, a := s32, b := s32, imm := .fourth .bit }
  | .sel => { d := .dst wd, a := .src wd, b := .src wd, imm := .fourth (.pred 0 31 true false) }
  | .gets => { d := d32, a := s32 }
  | .sets => { a := s32, b := s32 }
  | .shfli | .shflu | .shfld | .shflx => { d := .dst wd, a := .src wd, b := s32 }
  | .wred | .wscan => { d := .dst ty3, a := .src ty3 }
  | .fwred | .nzcnt | .nzmap => { d := d32, a := s32 }
  -- 16 R321
  | .fadd | .fsub | .fmul | .fmin | .fmax | .fdiv | .fscale => { d := d32, a := s32, b := s32 }
  | .ffma => { d := d32, a := s32, b := s32, imm := .fourth s32 }
  | .fsqrt | .frcp | .frsq | .fexp2 | .flog2 | .ftanh | .frnd | .fclass => { d := d32, a := s32 }
  | .hadd2 | .hsub2 | .hmul2 | .hmin2 | .hmax2 => { d := d32, a := s32, b := s32 }
  | .hfma2 | .hdot2 => { d := d32, a := s32, b := s32, imm := .fourth s32 }
  | .hexp2 | .htanh2 | .hrcp2 | .hrsq2 => { d := d32, a := s32 }
  | .hcmp2 => { d := .rmw, a := s32, b := s32, imm := .fourth .bit }
  | .cvtf | .i2f | .f2i => { d := d32, a := s32 }
  | .ixt => { d := .dst (if modBit m 3 then .w64 else .w32), a := s32 }
  | .pk8 => { d := d32, a := .blkSrc 4 }
  | .pk4 => { d := d32, a := .blkSrc 8, b := if modField m 4 3 == 4 then s32 else .unused }
  | .upk8 | .upk4 => { d := d64, a := s32, b := s32 }
  | .qblk => { d := d64, a := s32 }
  | .dqblk | .cbenc | .cbdec => { d := d32, a := s32, b := s32 }
  | .cbld => { a := s32, b := s32 }
  | .sppk => { d := .blkDst (sparseK m + 1), a := .blkSrc (sparseQ m), b := s32 }
  | .spupk => { d := .blkDst (sparseQ m), a := .blkSrc (sparseK m + 1) }
  | .srseed => { a := s64 }
  -- 17 R343
  | .ld | .lda | .ldnt => { d := .dst sz, a := s64, imm := .own }
  | .st | .stl => { a := s64, b := .src sz, imm := .own }
  | .lds | .ldfe | .ldc => { d := .dst sz, a := s32, imm := .own }
  | .sts | .stfe => { a := s32, b := .src sz, imm := .own }
  | .ldx => { d := .dst sz, a := s32, b := .gang, imm := .own }
  | .stx => { d := .gang, a := s32, b := .src sz, imm := .own }
  | .rld => { d := d64, a := s64, imm := .own }
  | .pref => { a := s64, imm := .own }
  | .cwb | .cinv => { a := s64, b := s32 }
  | .acqp => { a := s32 }
  | .glds => { d := .dst sz, a := s64, imm := .own }
  | .isect | .merge => { d := .handle, a := s64, b := s64, imm := .fourth (.blkSrc 2) }
  | .compact => { d := d64, a := s32, b := s32, imm := .fourth (.pred 0 31 true false) }
  | .expand => { d := d32, a := s32, b := .pred 0 31 true false }
  | .tcopy | .icopy => { d := .handle, a := s32 }
  | .hdef => { d := .handle, a := s32, b := s32 }
  | .hwait | .hset => { a := .handle }
  | .hstat => { d := d64, a := .handle }
  | .segr => { d := d32, a := s32, b := .pred 0 31 true false }
  | .bsrch => { d := d32, a := s64, b := s32, imm := .fourth s32 }
  | .atom | .atomo => { d := .dst ty3, a := s64, b := .src ty3 }
  | .red => { a := s64, b := .src ty3 }
  | .cas | .caso => { d := .dst ty3, a := s64, b := .src ty3, imm := .fourth (.src ty3) }
  | .fred | .fredo => { a := s64, b := s32 }
  | .fatom | .fatomo => { d := d32, a := s64, b := s32 }
  | .atoms => { d := .dst ty3, a := s32, b := .src ty3 }
  | .freds => { a := s32, b := s32 }
  | .aflush => {}
  | .cass => { d := .dst ty3, a := s32, b := .src ty3, imm := .fourth (.src ty3) }
  -- 18 R372
  | .tcfg => { d := .tile, a := s32 }
  | .tld | .tst => { d := .tile, a := tileAddr w.a, b := s32, imm := .own }
  | .tzero => { d := .tile }
  | .tmovr => { d := d32, a := .tile, b := s32 }
  | .tmovw => { d := .tile, a := s32, b := s32 }
  | .tcb => { d := .tile, a := tileAddr w.a, b := s32, imm := .fourth s32 }
  | .ttrn => { d := .tile, a := .tile }
  | .tscal => { d := .tile, a := .tile, b := s32 }
  | .tadd => { d := .tile, a := .tile, b := .tile }
  | .tred => { d := .tile, a := .tile }
  | .tnz | .tpiv => { d := d64, a := .tile }
  | .mma | .mmai | .mmas => { d := .tile, a := .tile, b := .tile }
  | .mmag => { d := .tile, a := .tile, b := s32 }
  | .tlu | .tchl => { d := .tile }
  | .ttrs => { d := .tile, a := .tile }
  | .tmv => { d := .tile, a := .tile, b := .tile }
  | .mwait => {}
  | .mmaq => { d := .tile, a := .tile, b := .tile, imm := .fourth .tile }
  -- 19 R398
  | .fence | .txe | .txa | .txoe | .svclose | .eret => {}
  | .dfence => { a := s64, b := s32 }
  | .txb => { imm := .own }
  | .txo => { a := s32, imm := .own }
  | .txst => { d := d32 }
  | .nbin | .npair | .nfix => { d := .handle, a := s64 }
  | .nstat => { d := d64, a := s64 }
  | .ncfg | .svopen | .svc | .hnot => { a := s32 }
  | .hprobe | .hcfg | .hreh => { d := .handle, a := s32, b := s64 }
  | .hins | .hdel => { d := .handle, a := s32, b := s64, imm := .fourth s32 }
  | .hqry => { d := d64, a := s64, imm := .sel 3 }
  | .svmark => { d := d32, a := s32, b := s32, imm := .sel 31 }
  | .svqry => { d := d64, imm := .sel 3 }
  | .getp => { d := d64, a := s32 }
  | .setp => { a := s32, b := s64 }
  | .tlbi | .l2wb => { a := s64, b := s32 }
  | .vhold => { a := s32, b := s32 }
  | .harv => { d := d64, a := s64, b := s32 }
  | .ctxs | .ctxr | .migr => { d := .handle, a := s32 }

/-- HCMP2 writes bits K and K + 1, so its K ends at 30 (16 R329). -/
def Op.bitMax (op : Op) : Nat := if op == .hcmp2 then 30 else 31

/-- The code of an operand kind, bits [9:8] (12 R238). -/
def Kind.code : Kind → Nat
  | .reg => 0
  | .pair => 1
  | .uni => 2
  | .special => 3

/-- The kind a code stands for. -/
def Kind.ofCode : Nat → Kind
  | 0 => .reg
  | 1 => .pair
  | 2 => .uni
  | _ => .special

/-- A descriptor as the 10 bits it is encoded in (12 R238). -/
def Desc.bits (d : Desc) : Nat := d.kind.code * 256 + d.n.toNat

/-- The descriptor that 10 bits stand for. -/
def Desc.ofBits (x : Nat) : Desc := ⟨Kind.ofCode (x / 256 % 4), BitVec.ofNat 8 x⟩

/-- The fourth operand's descriptor, imm32[9:0] (12 R240). -/
def Fields.c (w : Fields) : Desc := Desc.ofBits (w.imm.toNat % 1024)

/-- The descriptor 0x000 of a slot that is not used. -/
def Desc.zero : Desc := ⟨.reg, 0⟩

/-- Special 1, #imm (12 R238). -/
def Desc.isImm (d : Desc) : Bool := d.kind == .special && d.n == 1

/-- Whether a slot holding special 1 reads imm32. -/
def Slot.readsImm (s : Slot) (d : Desc) : Bool :=
  match s with
  | .src _ | .immOnly => d.isImm
  | _ => false

/-- Step 4 of 12 R245: bits [63:57], MOD, LA on the short class and imm32; the slot number is that of INSN.RESERVED. -/
def Op.reservedSlot (op : Op) (w : Fields) : Option Nat :=
  let s := op.slots w
  if w.rsv != 0 || !op.modOk w.mod || (w.la != 0 && !op.long) then some 0
  else match s.imm with
    | .fourth _ => if w.imm.toNat / 1024 != 0 then some 3 else none
    | .free =>
      if w.imm != 0 && !(s.d.readsImm w.d || s.a.readsImm w.a || s.b.readsImm w.b) then some 0 else none
    | _ => none

/-- Whether register number n is in a window of W registers; in the trap runtime 252 to 255 name the trap bank
(01 R11; 28 R479). -/
def regOk (win : Nat) (inTrap : Bool) (n : Nat) : Bool := n < win || (inTrap && 252 ≤ n && n ≤ 255)

/-- Whether a descriptor fits a slot under a window (12 R238 to R241, R275; 01 R11; 17 R345). -/
def Slot.fits (s : Slot) (d : Desc) (immFree : Bool) (win : Nat) (inTrap : Bool) (bitMax : Nat) : Bool :=
  let n := d.n.toNat
  let ok := regOk win inTrap
  match s with
  | .unused => d == .zero
  | .src .w32 => (match d.kind with
      | .reg | .uni => ok n
      | .pair => false
      | .special => n ≤ 4 && (n != 1 || immFree))
  | .src .w64 => (match d.kind with
      | .reg => false
      | .pair | .uni => n % 2 == 0 && ok n && ok (n + 1)
      | .special => n ≤ 4 && (n != 1 || immFree))
  | .src .w128 => d.kind == .pair && n % 4 == 0 && ok n && ok (n + 1) && ok (n + 2) && ok (n + 3)
  | .dst .w32 => d.kind == .reg && ok n
  | .dst .w64 => d.kind == .pair && n % 2 == 0 && ok n && ok (n + 1)
  | .dst .w128 => d.kind == .pair && n % 4 == 0 && ok n && ok (n + 1) && ok (n + 2) && ok (n + 3)
  | .rmw => d.kind == .reg && ok n
  | .blkSrc k | .blkDst k => d.kind == .reg && (List.range k).all (fun i => ok (n + i))
  | .base => d.kind == .reg
  | .immOnly => d.isImm
  | .pred lo hi _ _ => d.kind == .reg && lo ≤ n && n ≤ hi
  | .bit => d.kind == .reg && n ≤ bitMax
  | .tile => d.kind == .reg && n ≤ 15
  | .handle => d.kind == .reg && n ≤ 31
  | .gang => d.kind == .reg && n ≤ 3

/-- RGN's mask: at most 16 bits set, else slot 3; every staged register inside the window, else slot 2 (14 R280; 28 R483). -/
def rgnSlot (w : Fields) (win : Nat) (inTrap : Bool) : Option Nat :=
  let bits := (List.range 32).filter (fun k => w.imm.getLsbD k)
  if bits.length > 16 then some 3
  else if bits.any (fun k => !regOk win inTrap (w.a.n.toNat + k)) then some 2
  else none

/-- Step 7 of 12 R245: the descriptors D, A, B, then the fourth; the answer is the slot that INSN.OPERAND names (28 R483:
1 D, 2 A, 3 B, the fourth and every value held in imm32). -/
def Op.operandSlot (op : Op) (w : Fields) (win : Nat) (inTrap : Bool) : Option Nat :=
  let s := op.slots w
  let free := s.imm == .free
  let fits := fun (sl : Slot) (d : Desc) => sl.fits d free win inTrap op.bitMax
  if !fits s.d w.d || (op == .svmark && w.d.n == 0) then some 1
  else if !fits s.a w.a then some 2
  else if !fits s.b w.b then some 3
  else match s.imm with
    | .fourth sl => if fits sl w.c then none else some 3
    | .sel mx => if w.imm.toNat ≤ mx then none else some 3
    | _ => if op == .rgn then rgnSlot w win inTrap else none

end Sys2Proof
end

