-- ==== Sys2Proof/WellFormed.lean ====
section
/-! DEFINITION. When an instruction is well formed, as far as its own text decides it: the checks of 12 R245 that need no
fibre (the reserved fields, the guard, the operand kinds and limits against the largest window). -/

namespace Sys2Proof

/-- The word checks of 12 R245 steps 4, 6 and 7 that the word alone decides; 255 is the largest window (01 R8). -/
def Op.wordOk (op : Op) (w : Fields) : Bool :=
  (op.reservedSlot w).isNone && (!op.unguarded || w.guard == 0) && (op.operandSlot w 255 true).isNone

/-- Whether an instruction is well formed: its word passes the checks; an unassigned opcode names no operation and is no
mark; a mark and the events have nothing to check. -/
def Instr.wellFormed (i : Instr) : Bool :=
  match i.opFields with
  | some (op, w) => op.wordOk w
  | none =>
    match i with
    | .unassignedOpcode opc _ => (Op.ofCode opc.toNat).isNone && opc.toNat < 0xFC
    | _ => true

end Sys2Proof
end

