-- ==== Sys2Proof/Decode.lean ====
section
/-! DEFINITION. Decoding (12 R235, R246): total on any bytes, rejecting by name; and after it the encoder, written from
the same field table. A word whose opcode byte is unassigned decodes to its own row (13 R264); the checks of 12 R245 that
follow step 3 belong to execution and are in Machine/Issue.lean. -/

namespace Sys2Proof

/-- Why bytes are no instruction. -/
inductive Reject where
  /-- The parcels reach beyond the bytes given (12 R236). -/
  | truncated
deriving DecidableEq, Repr, Inhabited

/-- Little-endian bytes as a number (00 R5). -/
def leNat : List Byte → Nat
  | [] => 0
  | b :: bs => b.toNat + 256 * leNat bs

/-- The k low bytes of a number, little-endian (00 R5). -/
def leBytes : Nat → Nat → List Byte
  | 0, _ => []
  | k + 1, n => BitVec.ofNat 8 n :: leBytes k (n / 256)

/-- The fields of a word, by the bit positions of 12 R235. -/
def Fields.ofNat (x : Nat) : Fields where
  mod := BitVec.ofNat 8 (x / 2 ^ 8)
  d := Desc.ofBits (x / 2 ^ 16 % 2 ^ 10)
  a := Desc.ofBits (x / 2 ^ 26 % 2 ^ 10)
  b := Desc.ofBits (x / 2 ^ 36 % 2 ^ 10)
  guard := BitVec.ofNat 6 (x / 2 ^ 46)
  la := BitVec.ofNat 4 (x / 2 ^ 52)
  yld := x / 2 ^ 56 % 2 == 1
  rsv := BitVec.ofNat 7 (x / 2 ^ 57)
  imm := BitVec.ofNat 32 (x / 2 ^ 64)

/-- The instruction a 96-bit word is, when its low byte is no mark (12 R235; 13 R263, R264). -/
def decodeWord (x : Nat) : Instr :=
  match Op.ofCode (x % 256) with
  | some op => op.instr (Fields.ofNat x)
  | none => .unassignedOpcode (BitVec.ofNat 8 x) (Fields.ofNat x)

/-- Whether a byte is the low byte of a dictionary mark, 0xFC to 0xFF (12 R235). -/
def isMarkByte (b : Byte) : Bool := 0xFC ≤ b.toNat

/-- The instruction at the head of the bytes, and the bytes after it (12 R235, R236, R246). -/
def decode : List Byte → Except Reject (Instr × List Byte)
  | b0 :: b1 :: rest =>
    if isMarkByte b0 then .ok (.dictionaryMark (b0.setWidth 2) b1, rest)
    else if rest.length < 10 then .error .truncated
    else .ok (decodeWord (leNat (b0 :: b1 :: rest.take 10)), rest.drop 10)
  | _ => .error .truncated

/-- The 96-bit word of an opcode byte and its fields (12 R235). -/
def wordNat (opc : Nat) (w : Fields) : Nat :=
  opc + 2 ^ 8 * w.mod.toNat + 2 ^ 16 * w.d.bits + 2 ^ 26 * w.a.bits + 2 ^ 36 * w.b.bits + 2 ^ 46 * w.guard.toNat
    + 2 ^ 52 * w.la.toNat + 2 ^ 56 * (if w.yld then 1 else 0) + 2 ^ 57 * w.rsv.toNat + 2 ^ 64 * w.imm.toNat

/-- The bytes of an instruction in memory; none for an event, which stands in no code. -/
def encode (i : Instr) : Option (List Byte) :=
  match i.opFields with
  | some (op, w) => some (leBytes 12 (wordNat op.code w))
  | none =>
    match i with
    | .dictionaryMark e x => some [BitVec.ofNat 8 (0xFC + e.toNat), x]
    | .unassignedOpcode opc w => some (leBytes 12 (wordNat opc.toNat w))
    | _ => none

/-- The instruction the decoder reads from one whose bits are w, numbered as spec/opcode_table.json numbers them: the first
parcel is the low one, and every bit above nbits is 0. -/
def decodeTableWord (nbits w : Nat) : Option Instr :=
  match decode (leBytes 12 (w % 2 ^ nbits)) with
  | .ok (i, _) => some i
  | .error _ => none

end Sys2Proof
end

