-- ==== Sys2Proof/Config.lean ====
section
/-! DEFINITION. What an implementation fixes and the spec leaves open, as constants with no body: nothing can be proved of
their values. -/

namespace Sys2Proof.Config

/-- Picoseconds that pass before a step, by the counter of free values [3]. -/
opaque elapsed : Nat → Nat

/-- The bytes of the firmware image at reset (32 R512) [20]. -/
opaque bootImage : List Byte

/-- A byte of a context image that belongs to the part (28 R485), by the counter and the byte's offset. -/
opaque imageByte : Nat → Nat → Byte

/-- The bytes of the fuses, as a measurement takes them (32 R513) [21]. -/
opaque fuses : List Byte

/-- Whether a Falcon-1024 signature over a digest verifies against the vendor key (32 R512) [20]. -/
opaque falconValid : List Byte → List Byte → Bool

/-- The body of an SPDM response that the standard and the certificates decide (32 R513) [21]: request code and parameters. -/
opaque spdmBody : Nat → List Nat → List Byte

/-- A code of a CB4 codebook for a number that 05 R131 gives none, by the entries' values and the number's sign, magnitude and
exponent [90]. -/
opaque openCode : List (Nat × Nat × Int) → Bool → Nat → Int → Nat

/-- The code of a finite number written under a block scale of 0xFF (03 R91), by the number [91]. -/
opaque unscaledCode : Nat × Nat × Int → Nat

/-- An undefined value: contents that the spec says are undefined, by the counter (09 R204). -/
opaque freeWord : Nat → Word

end Sys2Proof.Config
end

