-- ==== Sys2Proof/Machine/Flags.lean ====
section
/-! DEFINITION. The bits of FPSTAT and the integer flag-like results the spec gives (05 R148; 15 R298, R299). -/

namespace Sys2Proof.Machine

/-- NV: invalid operation (05 R148). -/
def flagNV : Word := 0x01
/-- DZ: division of a finite nonzero value by zero, or a pole. -/
def flagDZ : Word := 0x02
/-- OF: overflow after rounding. -/
def flagOF : Word := 0x04
/-- UF: tiny and inexact after rounding, or flushed. -/
def flagUF : Word := 0x08
/-- NX: inexact. -/
def flagNX : Word := 0x10
/-- QC: a conversion saturated. -/
def flagQC : Word := 0x20
/-- ZP: a factorisation met an exact zero pivot. -/
def flagZP : Word := 0x40
/-- PC: a factorisation clamped a pivot. -/
def flagPC : Word := 0x80

/-- The flag if the condition holds. -/
def flagIf (c : Bool) (f : Word) : Word := if c then f else 0

/-- FPSTAT after flags are ORed in (05 R148, R149): the sticky bits are bits [7:0]. -/
def fpstatOr (stat flags : Word) : Word := stat ||| (flags &&& 0xFF)

/-- FPSTAT after SETS writes v with W1C semantics (05 R148). -/
def fpstatClear (stat v : Word) : Word := stat &&& ~~~v &&& 0xFF

end Sys2Proof.Machine
end

