-- ==== Sys2Proof/Machine/Fp.lean ====
section
/-! DEFINITION. Floating-point arithmetic to the bit (05 R128 to R143, R147): a value is an exact dyadic number, an operation
is computed exactly, and one function rounds it once. -/

namespace Sys2Proof.Machine

/-- A floating-point format: exponent bits, fraction bits, and whether it has infinities (05 R128). -/
structure Fmt where
  eb : Nat
  fb : Nat
  hasInf : Bool := true
deriving DecidableEq, Repr, Inhabited

def fp32 : Fmt := { eb := 8, fb := 23 }
def fp16 : Fmt := { eb := 5, fb := 10 }
def bf16 : Fmt := { eb := 8, fb := 7 }
def e4m3 : Fmt := { eb := 4, fb := 3, hasInf := false }
def e5m2 : Fmt := { eb := 5, fb := 2 }

/-- The exponent bias (05 R128). -/
def Fmt.bias (f : Fmt) : Int := 2 ^ (f.eb - 1) - 1

/-- The least exponent of a normal number. -/
def Fmt.emin (f : Fmt) : Int := 1 - f.bias

/-- The width in bits. -/
def Fmt.width (f : Fmt) : Nat := 1 + f.eb + f.fb

/-- The encoding of the largest finite magnitude (05 R128). -/
def Fmt.maxBits (f : Fmt) : Nat := if f.hasInf then (2 ^ f.eb - 1) * 2 ^ f.fb - 1 else 2 ^ (f.eb + f.fb) - 2

/-- The encoding of +∞, or the NaN code that stands for it in E4M3 (05 R135). -/
def Fmt.infBits (f : Fmt) : Nat := if f.hasInf then (2 ^ f.eb - 1) * 2 ^ f.fb else 2 ^ (f.eb + f.fb) - 1

/-- The canonical NaN (05 R128). -/
def Fmt.nanBits (f : Fmt) : Nat :=
  if f.hasInf then (2 ^ f.eb - 1) * 2 ^ f.fb + 2 ^ (f.fb - 1) else 2 ^ (f.eb + f.fb) - 1

/-- The sign bit, as a number to add. -/
def Fmt.signBit (f : Fmt) (neg : Bool) : Nat := if neg then 2 ^ (f.eb + f.fb) else 0

/-- A value: a NaN (whether signalling), an infinity, or ± m × 2^e. -/
inductive FVal where
  | nan (sig : Bool)
  | inf (neg : Bool)
  | num (neg : Bool) (m : Nat) (e : Int)
deriving DecidableEq, Repr, Inhabited

/-- The value an encoding stands for (05 R128). -/
def Fmt.decode (f : Fmt) (x : Nat) : FVal :=
  let neg := x / 2 ^ (f.eb + f.fb) % 2 == 1
  let ex := x / 2 ^ f.fb % 2 ^ f.eb
  let fr := x % 2 ^ f.fb
  if ex == 0 then .num neg fr (f.emin - f.fb)
  else if f.hasInf && ex == 2 ^ f.eb - 1 then
    if fr == 0 then .inf neg else .nan (f.width != 8 && fr / 2 ^ (f.fb - 1) == 0)
  else if !f.hasInf && ex == 2 ^ f.eb - 1 && fr == 2 ^ f.fb - 1 then .nan false
  else .num neg (2 ^ f.fb + fr) (ex - f.bias - f.fb)

/-- Under FTZ a subnormal input is read as a zero of its sign (05 R139). -/
def Fmt.decodeFtz (f : Fmt) (ftz : Bool) (x : Nat) : FVal :=
  match f.decode x with
  | .num neg m e => if ftz && m < 2 ^ f.fb then .num neg 0 e else .num neg m e
  | v => v

def FVal.isNan : FVal → Bool
  | .nan _ => true
  | _ => false

/-- A signalling NaN, an operation on which is invalid (05 R140). -/
def FVal.isSig : FVal → Bool
  | .nan s => s
  | _ => false

def FVal.isInf : FVal → Bool
  | .inf _ => true
  | _ => false

def FVal.isZero : FVal → Bool
  | .num _ m _ => m == 0
  | _ => false

def FVal.neg? : FVal → Bool
  | .nan _ => false
  | .inf n => n
  | .num n _ _ => n

def FVal.negate : FVal → FVal
  | .nan s => .nan s
  | .inf n => .inf (!n)
  | .num n m e => .num (!n) m e

/-- A rounding mode, the random bits with the stochastic one (05 R134, R136). -/
inductive RMode where
  | rne | rtz | rdn | rup
  | sr (rnd : Nat)
deriving DecidableEq, Repr, Inhabited

/-- How an instruction rounds: its mode, SAT, whether it is a conversion (16 R322), and FTZ (05 R139). -/
structure RCtx where
  mode : RMode := .rne
  sat : Bool := false
  conv : Bool := false
  ftz : Bool := false
deriving DecidableEq, Repr, Inhabited

/-- An encoding and the FPSTAT bits it raises. -/
abbrev FRes := Nat × Word

/-- 2^k as a shift of a natural number by an integer amount; bits below the point are cut. -/
def shiftNat (m : Nat) (k : Int) : Nat := if k < 0 then m / 2 ^ k.natAbs else m * 2 ^ k.natAbs

/-- Whether a magnitude n + rem / 2^sh, a little more when sticky, rounds up to n + 1 (05 R134, R136). -/
def roundUp (mode : RMode) (neg sticky : Bool) (n rem sh : Nat) : Bool :=
  match mode with
  | .rne => 2 * rem > 2 ^ sh || (2 * rem == 2 ^ sh && (sticky || n % 2 == 1) && rem != 0)
  | .rtz => false
  | .rdn => neg && (rem != 0 || sticky)
  | .rup => !neg && (rem != 0 || sticky)
  | .sr rnd => 2 ^ 32 * rem / 2 ^ sh + rnd ≥ 2 ^ 32

/-- A magnitude m × 2^e (a little more when sticky) in units of 2^q: the rounded count, and whether it was inexact. -/
def roundAt (mode : RMode) (neg sticky : Bool) (m : Nat) (e q : Int) : Nat × Bool :=
  if q ≤ e then
    let n := m * 2 ^ (e - q).natAbs
    (if roundUp mode neg sticky n 0 0 then n + 1 else n, sticky)
  else
    let sh := (q - e).natAbs
    let n := m / 2 ^ sh
    let rem := m % 2 ^ sh
    (if roundUp mode neg sticky n rem sh then n + 1 else n, rem != 0 || sticky)

/-- ±∞ as a result: SAT replaces it by the largest finite magnitude, and a conversion then sets QC (05 R135; 16 R322). -/
def Fmt.infRes (f : Fmt) (c : RCtx) (neg : Bool) : FRes :=
  if c.sat then (f.signBit neg + f.maxBits, flagIf c.conv flagQC) else (f.signBit neg + f.infBits, 0)

/-- A zero of a sign. -/
def Fmt.zero (f : Fmt) (neg : Bool) : FRes := (f.signBit neg, 0)

/-- An overflow (05 R135). -/
def Fmt.overflow (f : Fmt) (c : RCtx) (neg : Bool) : FRes :=
  let toInf := match c.mode with
    | .rne => true
    | .rtz => false
    | .rdn => neg
    | .rup => !neg
    | .sr _ => true
  let r := if toInf then f.infRes c neg else (f.signBit neg + f.maxBits, 0)
  (r.1, r.2 ||| flagOF ||| flagNX)

/-- The encoding of n × 2^q, n below 2^(fb + 1), q at least emin − fb. -/
def Fmt.encode (f : Fmt) (neg : Bool) (n : Nat) (q : Int) : Nat :=
  f.signBit neg + (if n < 2 ^ f.fb then n else (q + f.fb + f.bias - 1).natAbs * 2 ^ f.fb + n)

/-- An exact magnitude m × 2^e, a little more when sticky, rounded once to the format (05 R135, R136, R139). -/
def Fmt.round (f : Fmt) (c : RCtx) (neg : Bool) (m : Nat) (e : Int) (sticky : Bool := false) : FRes :=
  if m == 0 && !sticky then f.zero neg
  else
    let top : Int := e + m.log2
    let q := max top f.emin - f.fb
    let (n, inexact) := roundAt c.mode neg sticky m e q
    -- A count of 2^(fb + 1) is the next binade.
    let (n, q) := if n == 2 ^ (f.fb + 1) then (2 ^ f.fb, q + 1) else (n, q)
    let maxn := if f.hasInf then 2 ^ (f.fb + 1) - 1 else 2 ^ (f.fb + 1) - 2
    let emax : Int := if f.hasInf then f.bias else f.bias + 1
    if q > emax - f.fb || (q == emax - f.fb && n > maxn) then f.overflow c neg
    else
      -- Tininess after rounding, at unbounded exponent range.
      let tiny := top < f.emin &&
        !(top == f.emin - 1 && (roundAt c.mode neg sticky m e (top - f.fb)).1 == 2 ^ (f.fb + 1))
      if c.ftz && n != 0 && n < 2 ^ f.fb then (f.signBit neg, flagUF ||| flagNX)
      else (f.encode neg n q, flagIf inexact flagNX ||| flagIf (inexact && tiny) flagUF)

/-- A NaN result, with NV when the operation is invalid (05 R140). -/
def Fmt.nanRes (f : Fmt) (invalid : Bool) : FRes := (f.nanBits, flagIf invalid flagNV)

/-- A value rounded to the format (05 R141). -/
def Fmt.ofVal (f : Fmt) (c : RCtx) (v : FVal) : FRes :=
  match v with
  | .nan s => f.nanRes s
  | .inf n => f.infRes c n
  | .num n m e => f.round c n m e

/-- An exact product, and whether it is 0 × ∞ (05 R140). -/
def FVal.mul (x y : FVal) : FVal × Bool :=
  match x, y with
  | .nan s, .nan t => (.nan (s || t), false)
  | .nan s, _ => (.nan s, false)
  | _, .nan s => (.nan s, false)
  | .inf a, .inf b => (.inf (a != b), false)
  | .inf a, .num b m _ => if m == 0 then (.nan false, true) else (.inf (a != b), false)
  | .num a m _, .inf b => if m == 0 then (.nan false, true) else (.inf (a != b), false)
  | .num a m e, .num b n k => (.num (a != b) (m * n) (e + k), false)

/-- The signed mantissa of a number in units of 2^q, q at most its exponent. -/
def FVal.scaled (q : Int) : FVal → Int
  | .num neg m e => let v : Int := m * 2 ^ (e - q).natAbs; if neg then -v else v
  | _ => 0

/-- The least exponent among the numbers, at most the given one. -/
def minExp (q : Int) (ts : List FVal) : Int :=
  ts.foldl (fun a t => match t with | .num _ m e => if m == 0 then a else min a e | _ => a) q

/-- The exact sum of terms rounded once; `bad` says that a product was invalid. Terms that hold +∞ and −∞ are invalid beside a
NaN too (05 R140, R144; 16 R324, R328). -/
def Fmt.sum (f : Fmt) (c : RCtx) (bad : Bool) (ts : List FVal) : FRes :=
  let pos := ts.any (fun t => t == .inf false)
  let neg := ts.any (fun t => t == .inf true)
  let bad := bad || ts.any FVal.isSig || (pos && neg)
  if bad || ts.any FVal.isNan then f.nanRes bad
  else
    if pos || neg then f.infRes c neg
    else
      let q := minExp 0 ts
      let s := ts.foldl (fun a t => a + (if t.isZero then 0 else t.scaled q)) 0
      if s == 0 then
        let allNeg := ts.all (fun t => t.isZero && t.neg?)
        let allPos := ts.all (fun t => t.isZero && !t.neg?)
        f.zero (allNeg || (!allPos && c.mode == .rdn))
      else f.round c (s < 0) s.natAbs q

def Fmt.add (f : Fmt) (c : RCtx) (a b : Nat) : FRes := f.sum c false [f.decodeFtz c.ftz a, f.decodeFtz c.ftz b]

def Fmt.sub (f : Fmt) (c : RCtx) (a b : Nat) : FRes :=
  f.sum c false [f.decodeFtz c.ftz a, (f.decodeFtz c.ftz b).negate]

def Fmt.mul (f : Fmt) (c : RCtx) (a b : Nat) : FRes :=
  let x := f.decodeFtz c.ftz a
  let y := f.decodeFtz c.ftz b
  let (p, bad) := x.mul y
  match p with
  | .nan _ => f.nanRes (bad || x.isSig || y.isSig)
  | v => f.ofVal c v

def Fmt.fma (f : Fmt) (c : RCtx) (a b d : Nat) : FRes :=
  let x := f.decodeFtz c.ftz a
  let y := f.decodeFtz c.ftz b
  let z := f.decodeFtz c.ftz d
  let (p, bad) := x.mul y
  f.sum c bad [p, z]

/-- A quotient of magnitudes m × 2^e ÷ (n × 2^k) rounded once. -/
def Fmt.roundQuot (f : Fmt) (c : RCtx) (neg : Bool) (m : Nat) (e : Int) (n : Nat) (k : Int) : FRes :=
  let sh := 2 * f.fb + 8 + n.log2
  let p := m * 2 ^ sh
  f.round c neg (p / n) (e - k - sh) (p % n != 0)

def Fmt.div (f : Fmt) (c : RCtx) (a b : Nat) : FRes :=
  match f.decodeFtz c.ftz a, f.decodeFtz c.ftz b with
  | .nan s, .nan t => f.nanRes (s || t)
  | .nan s, _ => f.nanRes s
  | _, .nan s => f.nanRes s
  | .inf _, .inf _ => f.nanRes true
  | .inf n, .num k _ _ => f.infRes c (n != k)
  | .num n _ _, .inf k => f.zero (n != k)
  | .num n m e, .num k d g =>
    if d == 0 then
      if m == 0 then f.nanRes true
      else let r := f.infRes c (n != k); (r.1, r.2 ||| flagDZ)
    else if m == 0 then f.zero (n != k)
    else f.roundQuot c (n != k) m e d g

/-- Integer square root, bit by bit from 2^(k − 1) downward. -/
def isqrtFrom (n : Nat) : Nat → Nat → Nat
  | 0, r => r
  | k + 1, r => isqrtFrom n k (if (r + 2 ^ k) * (r + 2 ^ k) ≤ n then r + 2 ^ k else r)

/-- The floor of the square root. -/
def isqrt (n : Nat) : Nat := isqrtFrom n (n.log2 / 2 + 1) 0

/-- An even-exponent form: m × 2^e with e even. -/
def evenExp (m : Nat) (e : Int) : Nat × Int := if e % 2 == 0 then (m, e) else (2 * m, e - 1)

def Fmt.sqrt (f : Fmt) (c : RCtx) (a : Nat) : FRes :=
  match f.decodeFtz c.ftz a with
  | .nan s => f.nanRes s
  | .inf n => if n then f.nanRes true else f.infRes c false
  | .num n m e =>
    if m == 0 then f.zero n
    else if n then f.nanRes true
    else
      let (m, e) := evenExp m e
      let p := m * 2 ^ (2 * (f.fb + 4))
      let r := isqrt p
      f.round c false r (e / 2 - (f.fb + 4)) (r * r != p)

/-- An order of values; −0 is below +0 only where `zeros` says so (05 R140). -/
def FVal.lt (zeros : Bool) (x y : FVal) : Bool :=
  match x, y with
  | .nan _, _ => false
  | _, .nan _ => false
  | .inf a, .inf b => a && !b
  | .inf a, .num .. => a
  | .num .., .inf b => !b
  | .num a m e, .num b n k =>
    if m == 0 && n == 0 then zeros && a && !b
    else
      let q := min e k
      (FVal.num a m e).scaled q < (FVal.num b n k).scaled q

/-- minimumNumber and maximumNumber (05 R140). -/
def Fmt.minmax (f : Fmt) (c : RCtx) (max? : Bool) (a b : Nat) : FRes :=
  let x := f.decodeFtz c.ftz a
  let y := f.decodeFtz c.ftz b
  let nv := flagIf (x.isSig || y.isSig) flagNV
  let enc := fun v => (f.ofVal {} v).1
  if x.isNan && y.isNan then (f.nanBits, nv)
  else if x.isNan then (enc y, nv)
  else if y.isNan then (enc x, nv)
  else
    let yFirst := if max? then x.lt true y else y.lt true x
    (enc (if yFirst then y else x), 0)

/-- A comparison: 0 eq, 1 ne, 2 lt, 3 le, 4 gt, 5 ge; an unordered pair answers `unord` (15 R312). Ordering a NaN, or a
signalling NaN anywhere, is invalid (05 R140). -/
def Fmt.compare (f : Fmt) (ftz unord : Bool) (cc a b : Nat) : Bool × Word :=
  let x := f.decodeFtz ftz a
  let y := f.decodeFtz ftz b
  if x.isNan || y.isNan then (unord, flagIf (x.isSig || y.isSig || cc ≥ 2) flagNV)
  else
    let lt := x.lt false y
    let gt := y.lt false x
    (match cc with
      | 0 => !lt && !gt
      | 1 => lt || gt
      | 2 => lt
      | 3 => !gt
      | 4 => gt
      | _ => !lt, 0)

/-- A conversion between formats (05 R141). -/
def convertFp (dst src : Fmt) (c : RCtx) (a : Nat) : FRes := dst.ofVal c (src.decode a)

/-- A value rounded to an integer (05 R142): the rounded value, and whether it was exact. -/
def roundInt (mode : RMode) (neg : Bool) (m : Nat) (e : Int) : Int × Bool :=
  let (n, inexact) := roundAt mode neg false m e 0
  (if neg then -(n : Int) else n, inexact)

/-- A conversion to an integer format with bounds lo to hi (05 R142). -/
def toIntSat (mode : RMode) (lo hi : Int) (v : FVal) : Int × Word :=
  match v with
  | .nan _ => (0, flagNV)
  | .inf n => (if n then lo else hi, flagNV ||| flagQC)
  | .num n m e =>
    let (r, inexact) := roundInt mode n m (max e (-2200))
    if r < lo then (lo, flagNV ||| flagQC)
    else if r > hi then (hi, flagNV ||| flagQC)
    else (r, flagIf inexact flagNX)

/-- A conversion from an integer (05 R142). -/
def Fmt.ofInt (f : Fmt) (c : RCtx) (i : Int) : FRes := f.round c (i < 0) i.natAbs 0

/-- FRND: rounded to an integral value (16 R325). -/
def Fmt.rint (f : Fmt) (c : RCtx) (a : Nat) : FRes :=
  match f.decodeFtz c.ftz a with
  | .nan s => f.nanRes s
  | .inf n => f.infRes c n
  | .num n m e =>
    if m == 0 then f.zero n
    else
      let (k, inexact) := roundAt c.mode n false m e 0
      if e ≥ 0 then ((f.round {} n m e).1, 0)
      else ((f.round {} n k 0).1, flagIf inexact flagNX)

/-- FSCALE: A × 2^B, B an integer (16 R325). -/
def Fmt.scale (f : Fmt) (c : RCtx) (a : Nat) (b : Int) : FRes :=
  match f.decodeFtz c.ftz a with
  | .nan s => f.nanRes s
  | .inf n => f.infRes c n
  | .num n m e => if m == 0 then f.zero n else f.round c n m (e + max (-1024) (min 1024 b))

/-! ### The functions of 05 R143, correctly rounded by RNE -/

/-- ln 2 in units of 2^−256. -/
def ln2Fix : Nat := 0xb17217f7d1cf79abc9e3b39803f2f6af40f343267298b62d8a0d175b8baafa2b

/-- Terms of the exponential series from term k on: the sum of y^k ÷ k!, in units of 2^−256. -/
def expSeries (y : Nat) : Nat → Nat → Nat → Nat → Nat
  | 0, _, _, acc => acc
  | fuel + 1, k, term, acc =>
    let t := term * y / 2 ^ 256 / (k + 1)
    expSeries y fuel (k + 1) t (acc + t)

/-- 2^f for a fraction f in units of 2^−256, below 1: a number from 1 to 2 in units of 2^−256. -/
def exp2Frac (f : Nat) : Nat := expSeries (f * ln2Fix / 2 ^ 256) 80 0 (2 ^ 256) (2 ^ 256)

/-- Terms of the series of artanh: z^(2k + 1) ÷ (2k + 1), in units of 2^−256. -/
def atanhSeries (z2 : Nat) : Nat → Nat → Nat → Nat → Nat
  | 0, _, _, acc => acc
  | fuel + 1, k, pow, acc => atanhSeries z2 fuel (k + 1) (pow * z2 / 2 ^ 256) (acc + pow / (2 * k + 1))

/-- log2 of a number from 1 to 2 in units of 2^−256 (05 R143). -/
def log2Frac (g : Nat) : Nat :=
  let z := (g - 2 ^ 256) * 2 ^ 256 / (g + 2 ^ 256)
  2 * (atanhSeries (z * z / 2 ^ 256) 90 0 z 0) * 2 ^ 256 / ln2Fix

/-- A number m × 2^e in units of 2^−256, cut. -/
def fix256 (m : Nat) (e : Int) : Nat := shiftNat m (e + 256)

/-- A pole: ±∞ and DZ. -/
def Fmt.pole (f : Fmt) (c : RCtx) (neg : Bool) : FRes := let r := f.infRes c neg; (r.1, r.2 ||| flagDZ)

/-- FRCP (05 R143). -/
def Fmt.rcp (f : Fmt) (c : RCtx) (a : Nat) : FRes :=
  match f.decodeFtz c.ftz a with
  | .nan s => f.nanRes s
  | .inf n => f.zero n
  | .num n m e => if m == 0 then f.pole c n else f.roundQuot c n 1 0 m e

/-- FRSQ (05 R143). -/
def Fmt.rsq (f : Fmt) (c : RCtx) (a : Nat) : FRes :=
  match f.decodeFtz c.ftz a with
  | .nan s => f.nanRes s
  | .inf n => if n then f.nanRes true else f.zero false
  | .num n m e =>
    if m == 0 then f.pole c n
    else if n then f.nanRes true
    else
      let (m, e) := evenExp m e
      let k := 2 * f.fb + 8
      let p := 2 ^ (2 * (k + m.log2))
      let r := isqrt (p / m)
      f.round c false r (-(e / 2) - (k + m.log2)) (r * r * m != p)

/-- FEXP2 (05 R143). -/
def Fmt.exp2 (f : Fmt) (c : RCtx) (a : Nat) : FRes :=
  match f.decodeFtz c.ftz a with
  | .nan s => f.nanRes s
  | .inf n => if n then f.zero false else f.infRes c false
  | .num n m e =>
    if m == 0 then f.round c false 1 0
    else
      let top : Int := e + m.log2
      if top ≥ 12 then (if n then f.round c false 1 (-5000) true else f.overflow c false)
      else if top < -40 then (if n then f.round c false (2 ^ 64 - 1) (-64) true else f.round c false (2 ^ 64) (-64) true)
      else
        -- x in units of 2^-256 is exact: the exponent of its last bit is at least -40 - 24.
        let x := fix256 m e
        let whole : Nat := x / 2 ^ 256
        let frac : Nat := x % 2 ^ 256
        if frac == 0 then f.round c false 1 (if n then -(whole : Int) else whole)
        else if n then f.round c false (exp2Frac (2 ^ 256 - frac)) (-(whole : Int) - 1 - 256) true
        else f.round c false (exp2Frac frac) ((whole : Int) - 256) true

/-- FLOG2 (05 R143). -/
def Fmt.log2 (f : Fmt) (c : RCtx) (a : Nat) : FRes :=
  match f.decodeFtz c.ftz a with
  | .nan s => f.nanRes s
  | .inf n => if n then f.nanRes true else f.infRes c false
  | .num n m e =>
    if m == 0 then f.pole c true
    else if n then f.nanRes true
    else
      let top : Int := e + m.log2
      if m == 2 ^ m.log2 then f.ofInt c top
      else
        let g := log2Frac (m * 2 ^ (256 - m.log2))
        let v : Int := top * 2 ^ 256 + g
        f.round c (v < 0) v.natAbs (-256) true

/-- FTANH (05 R143). -/
def Fmt.tanh (f : Fmt) (c : RCtx) (a : Nat) : FRes :=
  match f.decodeFtz c.ftz a with
  | .nan s => f.nanRes s
  | .inf n => f.round c n 1 0
  | .num n m e =>
    if m == 0 then f.zero n
    else
      let top : Int := e + m.log2
      if top ≥ 6 then f.round c n (2 ^ 64 - 1) (-64) true
      else if top < -36 then f.round c n (m * 2 ^ 64 - 1) (e - 64) true
      else
        -- e^(2x) = 2^(2x / ln 2), split into a whole and a fraction.
        let y := fix256 m (e + 1) * 2 ^ 256 / ln2Fix
        let t := exp2Frac (y % 2 ^ 256) * 2 ^ (y / 2 ^ 256)
        f.round c n ((t - 2 ^ 256) * 2 ^ 256 / (t + 2 ^ 256)) (-256) true

/-! ### Stochastic rounding bits, block formats -/

/-- SrBits (05 R137). -/
def srBits (seed key : DWord) (ctr : Word) (e : Nat) : Nat :=
  let x := seed ^^^ (key * 0x9E3779B97F4A7C15)
  let x := x ^^^ ((((ctr.setWidth 64) <<< 14) ||| BitVec.ofNat 64 (e % 16384)) * 0xD6E8FEB86659FD93)
  let r := fun (x : DWord) => (x ^^^ (x >>> 31)) * 0x8CB92BA72F3D8DD7
  let x := r (r (r x))
  let x := x ^^^ (x >>> 29)
  (x >>> 32).toNat

/-- The narrow element formats (05 R128, R129, R131): the codes of the narrow layout (13 R271) and of format regions (29 R493). -/
inductive Nf where
  | e4m3 | e5m2 | i8 | i4 | cb4
deriving DecidableEq, Repr, Inhabited

def Nf.ofCode : Nat → Nf
  | 0 => .e4m3
  | 1 => .e5m2
  | 2 => .i8
  | 3 => .i4
  | _ => .cb4

/-- Bits of an element. -/
def Nf.bits : Nf → Nat
  | .i4 | .cb4 => 4
  | _ => 8

/-- A number read as two's complement of a width (05 R129). -/
def signedOf (bits x : Nat) : Int :=
  let y := x % 2 ^ bits
  if y ≥ 2 ^ (bits - 1) then (y : Int) - 2 ^ bits else y

/-- A number as its two's complement of a width. -/
def twos (bits : Nat) (i : Int) : Nat := (i % 2 ^ bits).toNat

def FVal.ofInt (i : Int) : FVal := .num (i < 0) i.natAbs 0

/-- The value of a code; a codebook for CB4 (05 R128, R129, R131). -/
def Nf.decode (nf : Nf) (book : List (BitVec 16)) (x : Nat) : FVal :=
  match nf with
  | .e4m3 => Machine.e4m3.decode (x % 256)
  | .e5m2 => Machine.e5m2.decode (x % 256)
  | .i8 => .ofInt (signedOf 8 x)
  | .i4 => .ofInt (signedOf 4 x)
  | .cb4 => bf16.decode ((book.getD (x % 16) 0).toNat)

/-- A value times 2^k. -/
def FVal.shift (k : Int) : FVal → FVal
  | .num n m e => .num n m (e + k)
  | v => v

/-- The value of a code under a block scale byte: 0xFF gives a NaN (05 R132). -/
def Nf.scaledVal (nf : Nf) (book : List (BitVec 16)) (x : Nat) (scale : Option Nat) : FVal :=
  match scale with
  | none => nf.decode book x
  | some s => if s == 255 then .nan false else (nf.decode book x).shift ((s : Int) - 127)

/-- A value as plain data: its class and sign, its magnitude and its exponent. -/
def FVal.key : FVal → Nat × Nat × Int
  | .nan s => (if s then 1 else 0, 0, 0)
  | .inf n => (if n then 3 else 2, 0, 0)
  | .num n m e => (if n then 5 else 4, m, e)

/-- The distance of two numbers as a magnitude in units of 2^q. -/
def FVal.dist (q : Int) (x y : FVal) : Nat := (x.scaled q - y.scaled q).natAbs

/-- The lowest code whose entry a test accepts. -/
def firstCode (book : List FVal) (p : FVal → Bool) : Option Nat := book.findIdx? p

/-- A code for a value that R131 gives none: a free value among the entries that are no NaN, or, where every entry is one, among
all codes [90]. -/
def openCode (book : List FVal) (neg : Bool) (m : Nat) (e : Int) : Nat :=
  let cand := (List.range book.length).filter (fun k => !(book.getD k (.nan false)).isNan)
  let k := Config.openCode (book.map FVal.key) neg m e
  if cand.isEmpty then k % 16 else cand.getD (k % cand.length) 0

/-- The code of the nearest finite entry, ties to the lower code (05 R131). -/
def nearestCode (book : List FVal) (v : FVal) : Nat :=
  let q := minExp 0 (v :: book)
  let step := fun (acc : Option (Nat × Nat) × Nat) (t : FVal) =>
    let (best, i) := acc
    (match t with
      | .num .. =>
        let d := v.dist q t
        (match best with
          | some (b, _) => if d < b then some (d, i) else best
          | none => some (d, i))
      | _ => best, i + 1)
  match (book.foldl step (none, 0)).1 with
  | some (_, i) => i
  | none => match v with
    | .num n m e => openCode book n m e
    | _ => 0

/-- The lowest code holding the largest (or smallest) entry (05 R131). -/
def extremeCode (book : List FVal) (largest : Bool) : Nat :=
  let better := fun (x y : FVal) => if largest then y.lt false x else x.lt false y
  let step := fun (acc : Option (FVal × Nat) × Nat) (t : FVal) =>
    let (best, i) := acc
    (if t.isNan then best
      else match best with
        | some (b, _) => if better t b then some (t, i) else best
        | none => some (t, i), i + 1)
  match (book.foldl step (none, 0)).1 with
  | some (_, i) => i
  | none => openCode book (!largest) 1 256

/-- Encoding into CB4 (05 R131). -/
def cb4Encode (book : List (BitVec 16)) (v : FVal) : Nat :=
  let vals := book.map (fun b => bf16.decode b.toNat)
  match v with
  | .nan _ => (firstCode vals FVal.isNan).getD 0
  | .inf n => (firstCode vals (fun t => t == .inf n)).getD (extremeCode vals (!n))
  | .num .. => nearestCode vals v

/-- An element rounded to a narrow format: PK8, PK4 (16 R333). CB4 first rounds to BF16 by RNE. -/
def Nf.encode (nf : Nf) (c : RCtx) (book : List (BitVec 16)) (v : FVal) : FRes :=
  match nf with
  | .e4m3 => Machine.e4m3.ofVal c v
  | .e5m2 => Machine.e5m2.ofVal c v
  | .i8 => let (i, fl) := toIntSat c.mode (-128) 127 v; (twos 8 i, fl)
  | .i4 => let (i, fl) := toIntSat c.mode (-8) 7 v; (twos 4 i, fl)
  | .cb4 =>
    let (b, fl) := bf16.ofVal { conv := true } v
    (cb4Encode book (bf16.decode b), fl)

/-- A finite number under a stored scale of 0xFF, which multiplies by nothing (05 R132): no code is stated for it. -/
def unscaled (scale : Option Nat) : FVal → Bool
  | .num .. => scale == some 255
  | _ => false

/-- Encoding a decoded element into a region's raw codes: RNE, saturating, ±∞ kept in E5M2, the stored scale kept, no flag
(03 R91). A finite number whose block's stored scale is 0xFF takes a free code [91]. -/
def Nf.encodeRegion (nf : Nf) (book : List (BitVec 16)) (scale : Option Nat) (v : FVal) : Nat :=
  let w := match scale with
    | some s => v.shift (127 - (s : Int))
    | none => v
  if unscaled scale v then Config.unscaledCode v.key % 2 ^ nf.bits
  else match nf with
  | .e4m3 => (Machine.e4m3.ofVal { sat := true } w).1
  | .e5m2 => (match w with
      | .inf n => Machine.e5m2.signBit n + Machine.e5m2.infBits
      | _ => (Machine.e5m2.ofVal { sat := true } w).1)
  | .i8 => twos 8 (toIntSat .rne (-128) 127 w).1
  | .i4 => twos 4 (toIntSat .rne (-8) 7 w).1
  | .cb4 => cb4Encode book w

/-! ### The block quantiser (05 R147) -/

/-- emax of a format (05 R147). -/
def Nf.emax : Nf → Int
  | .i4 => 2
  | .i8 => 6
  | .e4m3 => 8
  | _ => 15

/-- One element of a pass: the rounded code if it lies in the range, else none, and its flags. A mode that takes a value beyond
the largest finite one to that value (05 R135) leaves it in the range. -/
def qblkElem (nf : Nf) (mode : RMode) (k : Int) (v : FVal) : Option Nat × Word :=
  match v.shift (-k) with
  | .num n m e =>
    (match nf with
      | .i8 | .i4 =>
        let bits := nf.bits
        let (r, inexact) := roundInt mode n m e
        if r < -(2 ^ (bits - 1) : Int) || r > 2 ^ (bits - 1) - 1 then (none, flagIf inexact flagNX)
        else (some (twos bits r), flagIf inexact flagNX)
      | _ =>
        let f := if nf == .e4m3 then Machine.e4m3 else Machine.e5m2
        let r := f.round { mode := mode } n m e
        (match f.decode r.1 with
          | .num .. => some r.1
          | _ => none, r.2 &&& ~~~flagOF))
  | _ => (none, 0)

/-- The bound an out-of-range element saturates to. -/
def qblkBound (nf : Nf) (neg : Bool) : Nat :=
  match nf with
  | .i8 => if neg then 0x80 else 0x7F
  | .i4 => if neg then 0x8 else 0x7
  | .e4m3 => Machine.e4m3.signBit neg + Machine.e4m3.maxBits
  | _ => Machine.e5m2.signBit neg + Machine.e5m2.maxBits

/-- The passes of R147 over elements with their rounding modes: codes, scale and flags. -/
def qblkPasses (nf : Nf) (xs : List (FVal × RMode)) : Nat → Int → List Nat × Nat × Word
  | 0, e => (xs.map (fun _ => 0), e.toNat, 0)
  | left + 1, e =>
    let rs := xs.map (fun (v, m) => (qblkElem nf m (e - 127) v, v.neg?))
    if rs.all (fun r => r.1.1.isSome) then
      (rs.map (fun r => r.1.1.getD 0), e.toNat, rs.foldl (fun a r => a ||| r.1.2) 0)
    else if left > 0 && e < 254 then qblkPasses nf xs left (e + 1)
    else
      (rs.map (fun r => r.1.1.getD (qblkBound nf r.2)), e.toNat,
        rs.foldl (fun a r => a ||| r.1.2) flagQC)

/-- The greatest magnitude among numbers: log2 of it, none when all are zero. -/
def topLog (xs : List FVal) : Option Int :=
  xs.foldl (fun a v => match v with
    | .num _ m e => if m == 0 then a else (let t : Int := e + m.log2; some (match a with | some b => max b t | none => t))
    | _ => a) none

/-- QBLK over the active elements: codes, the scale byte, flags (05 R147). -/
def qblk (nf : Nf) (xs : List (FVal × RMode)) : List Nat × Nat × Word :=
  if xs.any (fun (v, _) => v.isNan || v.isInf) then
    let code := match nf with
      | .e4m3 => Machine.e4m3.nanBits
      | .e5m2 => Machine.e5m2.nanBits
      | _ => 0
    (xs.map (fun _ => code), 255, flagNV)
  else
    let e := match topLog (xs.map (fun x => x.1)) with
      | none => 127
      | some t => max 0 (min 254 (t - nf.emax + 127))
    qblkPasses nf xs 3 e

/-! ### Nonzero elements (05 R150) -/

/-- Whether an element's encoding is anything other than a zero: any bit but the sign of a float format. -/
def nonzeroElem (float : Bool) (width x : Nat) : Bool := x % 2 ^ (if float then width - 1 else width) != 0

end Sys2Proof.Machine
end

