-- ==== Sys2Proof/Machine/State.lean ====
section
/-! DEFINITION. The state of the Omlum as plain data, the reasons a step can stop, and the state after reset. Every field
names the rule of spec/ that gives it; the fields of the model's own say so. -/

namespace Sys2Proof.Machine

/-! ### Reasons a step stops -/

/-- Why a step stops with a fault. The part itself never stops: a trap, a refusal of a record or a handle status is a next
state. -/
inductive Fault where
  /-- Raised by the meaning of an opcode that is executed with no issuing wave: only a wave issues instructions (01 R14).
  A step reaches it only where the agenda names an opcode as an event, which no agent does. Safe. -/
  | noIssuingWave
deriving DecidableEq, Repr, Inhabited

/-- Why a step is refused. -/
inductive Refusal where
  /-- Raised by an arm of `exec` whose instruction has no meaning yet; the mnemonic of the table. Safe. -/
  | notModelled (mnemonic : String)
deriving DecidableEq, Repr, Inhabited

/-! ### Memory -/

/-- Bytes by address, in canonical form: addresses strictly rising, no entry equal to what an unlisted address reads as. -/
abbrev Memory := List Host.Cell

/-- What a byte that nothing has written reads as. DESIGN CHOICE [5]: 0; the spec gives no contents at power-on. -/
def unlistedByte : Byte := 0

/-- The canonical form. -/
abbrev Memory.wf (m : Memory) : Prop := m.Pairwise (fun x y => x.1 < y.1) ∧ ∀ c ∈ m, c.2 ≠ unlistedByte

/-! ### Fibres -/

/-- The trap registers that belong to a fibre (28 R477). -/
structure TrapRegs where
  cause : Cause := 0
  kind : BitVec 3 := 0
  lane : BitVec 5 := 0
  pc : Word := 0
  addr : DWord := 0
  info0 : Word := 0
  info1 : Word := 0
deriving DecidableEq, Repr, Inhabited

/-- A fault to be raised in a fibre: its cause, kind, address and TRAPINFO (28 R477, R478). -/
structure Due where
  cause : Cause
  kind : BitVec 3 := 0
  addr : DWord := 0
  info0 : Word := 0
  info1 : Word := 0
deriving DecidableEq, Repr, Inhabited

/-- A store that stays to be performed: of a refused forwarded store or a held release (04 R127). -/
structure LateStore where
  pc : Word
  va : DWord
  bytes : Nat
  val : BitVec 128
  scope : Nat
  /-- The forwarded stores before it in program order that were not acknowledged when it issued, by name. -/
  behind : List Nat := []
  /-- Its name: the model's own for a held release, that of the request for a refused store. -/
  id : Nat := 0
  /-- Where it lies: PA + LOC × 2^52 + PEER × 2^54. -/
  place : Nat := 0
  /-- Releases of lower lanes at the same bytes that its instruction holds: they are performed first (03 R73). -/
  after : List Nat := []
deriving DecidableEq, Repr, Inhabited

/-- A held release whose fibre has ended: a store that has issued is performed (11 R232). -/
structure LeftRelease where
  core : Nat
  launch : Nat
  team : Option Nat
  rel : LateStore
deriving DecidableEq, Repr, Inhabited

/-- What ERET does before it continues (19 R413). -/
inductive Resume where
  /-- Continues at TRAPPC; a fault at an instruction is so issued again. -/
  | atPc
  /-- A lane fault of GLDS: performs the load of that lane alone into registers dst, then continues at the fall-through. -/
  | gather (va : DWord) (sz : Nat) (dst : List Nat) (hint : Nat) (fall : Word)
  /-- A delayed refusal: reissues the store, then the releases that were cancelled, in order. -/
  | stores (st : LateStore) (rel : List LateStore)
deriving DecidableEq, Repr, Inhabited

/-- What the firmware's runtime is doing for a trapped fibre (28 R482). -/
inductive Runtime where
  | none
  /-- Waits to write its fault record. -/
  | toWrite
  /-- Waits for the answer to record k. -/
  | waiting (k : Word)
deriving DecidableEq, Repr, Inhabited

/-- A fibre's wait at a barrier object: where the object lies, its token, whether it is over, and the object's scope when it ended
(14 R292; 04 R111). -/
structure ObjWait where
  launch : Nat
  team : Nat
  at_ : Nat
  token : Word
  released : Bool := false
  scope : Nat := 0
deriving DecidableEq, Repr, Inhabited

/-- The trap a fibre is handling: what ERET does, and the object and meet set it returns to (28 R478; 19 R413). -/
structure InTrap where
  resume : Resume
  obj : Nat
  meet : Word
  /-- TRAPPC at entry: ERET issues the instruction there again when the runtime leaves it (28 R478). -/
  at_ : Word := 0
  runtime : Runtime := .none
  /-- What the fibre kept of a wait it had begun (`Fibre.phase`, `Fibre.objWait`). -/
  phase : Option Word := none
  objWait : Option ObjWait := none
  /-- That it was settled at TXOE (`Fibre.txSettled`, `Fibre.txFault`). -/
  txSettled : Option Word := none
  txFault : Bool := false
deriving DecidableEq, Repr, Inhabited

/-- A destination that is pending (12 R248): the registers and values to write, the FPSTAT bits to OR in, whether it belongs
to the float chapter (05 R149), and for an ordered atomic whether its round must close first (12 R249). -/
structure Pend where
  dst : List Nat
  vals : List Word
  flags : Word := 0
  fp : Bool := false
  /-- The entry whose application brings the value. -/
  ordered : Option Nat := none
  /-- It names registers of the window whatever the fibre is in when the value comes: the ordered atomic issued outside the
  runtime, or the runtime has been left (28 R479). -/
  own : Bool := false
deriving DecidableEq, Repr, Inhabited

/-- A lookahead window: instructions left, and the registers of its destination (12 R250). -/
structure Window where
  left : Nat
  regs : List Nat
deriving DecidableEq, Repr, Inhabited

/-- A declared range in 256-byte granules: first granule and count, 0 for empty (08 R196, R197). -/
structure Range where
  first : Nat := 0
  count : Nat := 0
deriving DecidableEq, Repr, Inhabited

/-- A spawned item (08 R197), by its fields; `id` is the model's own name for it. -/
structure Item where
  id : Nat
  launch : Nat
  vein : Nat
  pcoff : Word
  aseq : Word
  arg : List Word
  rd : Range
  wr : Range
  spawner : DWord
  /-- The item whose fibre spawned it (04 R126). -/
  parent : Option Nat := none
  /-- The place of the sump that holds its record. -/
  slot : Option Nat := none
deriving DecidableEq, Repr, Inhabited

/-- A read entry of a transaction's log: a line, and what validation needs of it (06 R153). -/
structure TxRead where
  line : Nat
  mask : BitVec 64
  data : BitVec 512
  ver : BitVec 16
  clock : Nat
  slice : Nat
deriving DecidableEq, Repr, Inhabited

/-- A write word: an aligned 8-byte unit with a byte mask (06 R153). -/
structure TxWrite where
  word : Nat
  mask : BitVec 8
  data : DWord
deriving DecidableEq, Repr, Inhabited

/-- An open transaction (06 R151, R153, R162, R166). -/
structure Tx where
  byVal : Bool
  iter : Option (BitVec 24)
  irrev : Bool
  target : Word
  opener : Word
  reads : List TxRead := []
  writes : List TxWrite := []
  /-- The leaf entries and pages of device memory that it is to write (28 R473). -/
  pages : List (Nat × Nat) := []
deriving DecidableEq, Repr, Inhabited

/-- A fibre (01 R8). -/
structure Fibre where
  id : FibreId
  pc : Word
  /-- The loaded object it executes (12 R236; 28 R477). -/
  obj : Nat
  /-- v0 to v(W − 1) (01 R8). -/
  regs : List Word
  fpmode : Word := 0
  fpstat : Word := 0
  /-- The fields of TXSTAT (06 R163); OPEN is `tx.isSome`. -/
  txCause : Cause := 0
  txOrd : Bool := false
  txIrrev : Bool := false
  txDefer : Nat := 0
  txAborts : Nat := 0
  txAttempts : Nat := 0
  tx : Option Tx := none
  /-- Where a lane that is settled at TXOE will continue (06 R168). -/
  txSettled : Option Word := none
  /-- A lane settled at TXOE that was refused with SYS.UNCORR traps when it leaves (06 R155, R168). -/
  txFault : Bool := false
  srSeed : DWord := 0
  srCtr : Word := 0
  /-- The halves latched by GETS of CLOCK and RTIME (02 R65). -/
  clockh : Word := 0
  rtimeh : Word := 0
  round : Nat := 0
  seq : Nat := 0
  rd : Range := {}
  wr : Range := {}
  /-- Open rejoin labels, the innermost first (08 R184). -/
  labels : List Word := []
  pend : List Pend := []
  windows : List Window := []
  trap : TrapRegs := {}
  inTrap : Option InTrap := none
  /-- The trap-bank words v252 to v255 (28 R479). -/
  bank : List Word := [0, 0, 0, 0]
  /-- Faults to be taken at the next issue (02 R66; 04 R127; 07 R183; 18 R375). -/
  dues : List (Due × Resume) := []
  /-- Releases held behind unacknowledged stores, oldest first (04 R127). -/
  held : List LateStore := []
  /-- The item it runs (01 R26). -/
  item : Option Item := none
  /-- The trap group of a deterministic launch it belongs to (28 R478), and whether it has reached its continuation. -/
  group : Option Nat := none
  parked : Bool := false
  groupMeet : Word := 0
  /-- The staging region that the group's wave has (03 R68). -/
  groupStaged : Option (Nat × List Nat) := none
  /-- WAITV: the value that satisfied it (14 R293). AFLUSH: the round it has ended and waits for (07 R177). ACQ: it was executed
  before the grant (01 R31). -/
  phase : Option Word := none
  /-- BARW and BARX: its wait (14 R292). -/
  objWait : Option ObjWait := none
  /-- The time limit of its wait for a page under migration is over: WALKWAIT is raised when it tries again (28 R471). -/
  walkTimeout : Bool := false
  /-- The registers of its window that an uncorrectable error has marked (32 R517) [96]. -/
  poison : List Nat := []
deriving DecidableEq, Repr, Inhabited

/-! ### Waves -/

/-- Why a wave waits. MEET, BAR and GBAR wait for their release; every other wait issues the instruction again [9]. -/
inductive Wait where
  | meet | bar | gbar
  | pending      -- a pending register, or 8 of them (12 R249, R251)
  | stores       -- an unacknowledged forwarded store (04 R127)
  | acq | shed | handle | fill | sibling | object | value | gather | tile | flush | round
  | line         -- a locked line, or a held vein (06 R159; 19 R416)
  | oust (o : FibreId) -- the line that o's irrevocable attempt has locked: o restarts (06 R162)
  | walk         -- a page under migration (28 R471)
  | remote       -- a forwarded access (03 R93)
  | span         -- a span-scope operation before GO (01 R39)
  | token        -- the irrevocable token (06 R162)
  | txoe
  | ring         -- the notification ring is full (27 R467)
  | bank         -- the trap bank is full (28 R479)
  | runtime      -- the firmware's runtime (28 R482)
  | invalidation -- TLBI, MIGR, HARV, CWB
deriving DecidableEq, Repr, Inhabited

/-- A wave (01 R14): fibres of one home wave of one crew at one PC. -/
structure Wave where
  id : Nat
  crew : CrewId
  home : Nat
  lanes : Word
  /-- The meet set (01 R19). -/
  meet : Word
  wait : Option Wait := none
  /-- The model's own: a retried wait is not tried again until something completes [9]. -/
  stalled : Bool := false
  /-- While it waits at MEET, BAR or GBAR: the fall-through of that instruction. -/
  fall : Word := 0
  /-- Cycles of its quadrant in which it was ready and not chosen (02 R57). -/
  age : Nat := 0
  /-- The staging region: when it began (the model's own stamp) and its registers (03 R68, R70). -/
  staged : Option (Nat × List Nat) := none
  /-- A trapped wave of a deterministic launch that issues its instruction again alone (28 R478). -/
  reissue : Bool := false
  /-- RTIME when its wait for a page under migration began (28 R471). -/
  since : Nat := 0
  /-- Lanes of a GLDS whose data has arrived, and parts that have left (08 R185). -/
  arrived : Word := 0
  parts : Nat := 0
  /-- What an engine operation that waits for its handle read from scratchpad when it issued (17 R353, R355). -/
  record : Option (List Byte) := none
deriving DecidableEq, Repr, Inhabited

/-! ### Teams -/

/-- The pivot record of a tile (18 R392 to R395). -/
structure Pivot where
  perm : List Nat
  zero : Option Nat
  n : Nat
  clamped : Nat
  chol : Bool
deriving DecidableEq, Repr, Inhabited

/-- A tile register (03 R79, R80). -/
structure Tile where
  allot : Bool := false
  rows : Nat := 1
  cols : Nat := 1
  /-- The width code: 4, 8, 16 or 32 bits. -/
  width : BitVec 2 := 3
  bits : BitVec 65536 := 0
  pivot : Option Pivot := none
  /-- The 64-byte lines of it that an uncorrectable error has marked (32 R517). -/
  poison : List Nat := []
deriving DecidableEq, Repr, Inhabited

/-- The states of a handle (03 R81). -/
inductive HState where
  | free | filling | full | draining
deriving DecidableEq, Repr, Inhabited

/-- A handle record (03 R81). -/
structure Handle where
  allot : Bool := false
  state : HState := .free
  paused : Bool := false
  status : Cause := 0
  count : Nat := 0
  base : BitVec 14 := 0
  size : BitVec 15 := 0
deriving DecidableEq, Repr, Inhabited

/-- Where a team's ACQ stands (01 R30). -/
inductive Acq where
  | none | pending | granted
deriving DecidableEq, Repr, Inhabited

/-- An open Assay supervision (11 R228). -/
structure Supervision where
  deadline : DWord
  target : Word
  wbuf : DWord
  buf1 : DWord
  buf2 : DWord
  record : DWord
  scope : Nat
  best : Nat
  bestRes : Word
  marks : Word
deriving DecidableEq, Repr, Inhabited

/-- A crew of a placed team: its quadrant, its slot number there, and where its windows lie, as pieces of the register file by first
word and count (01 R21, R32; 02 R57) [28]. -/
structure CrewPlace where
  quad : Nat
  slot : Nat
  base : List (Nat × Nat)
deriving DecidableEq, Repr, Inhabited

/-- A team that is placed (01 R27, R28). -/
structure Team where
  launch : Nat
  id : Nat
  core : Nat
  crews : List CrewPlace
  window : Nat
  acq : Acq := .none
  /-- A SHED returned something (01 R31). -/
  shed : Bool := false
  spSize : Nat := 4096
  sp : Memory := []
  /-- The 64-byte lines of it that an uncorrectable error has marked (32 R517). -/
  spPoison : List Nat := []
  /-- The granules whose full-empty bit is full (03 R74). -/
  fulls : List Nat := []
  /-- Handles and scratchpad returned leave `allot` and `spSize`; this is the size SHED returned from (01 R36). -/
  spShed : Bool := false
  tiles : List Tile
  handles : List Handle
  /-- 8 slots of 16 BF16 entries (16 R337). -/
  books : List (List (BitVec 16))
  pivclamp : Word := 0
  /-- ISSUEPOL (02 R59). -/
  thresh : BitVec 16 := 0x0400
  nwave : BitVec 7 := 7
  polEn : Bool := true
  polActive : Bool := false
  /-- TXCFG (06 R164). -/
  ocur : BitVec 24 := 0
  nobo : Bool := false
  /-- The watchdog's limit since its count started, 0 when the count has stopped, and the cycles counted (19 R412; 02 R66). -/
  wdog : Nat
  spent : Nat := 0
  /-- Halted by a debugger (02 R66). -/
  halted : Bool := false
  /-- Victim scores by rank (02 R58). -/
  scores : List (Nat × Nat) := []
  /-- The core's cycle count when it was placed or restored (02 R47). -/
  since : Nat := 0
  /-- Its queue's deficit was set to 0 while it was resident, so its charge is discarded (02 R48). -/
  waived : Bool := false
  sup : Option Supervision := none
  /-- The outcome of its Assay record when it retires with the supervision open: 0 CLOSED, 1 BETWEEN, 2 MIDOP, 3 WARMONLY (11 R232). -/
  outcome : Nat := 0
  /-- A SHED request waits here as (kept size, tile mask, handle mask), by wave (14 R289). -/
  sheds : List (Nat × Nat × Word × Word) := []
  shedDone : List Nat := []
deriving DecidableEq, Repr, Inhabited

/-- What the part's own bytes of a gang's image stand for: the gang as one save left it, what software may change aside (28 R485). -/
structure Shadow where
  /-- The save's name. -/
  save : Nat
  teams : List Team
  fibres : List Fibre
  waves : List Wave
deriving DecidableEq, Repr, Inhabited

/-- The life of a gang (01 R34, R35; 02 R49, R63; 19 R419). -/
inductive GangState where
  | placed | started | preempted | held
  /-- It has a position again, and its image is still to be read. -/
  | restoring
deriving DecidableEq, Repr, Inhabited

/-- A gang that is placed, pre-empted or held. -/
structure Gang where
  launch : Nat
  id : Nat
  state : GangState
  /-- Its place in the order of placements or pre-emptions; the model's own stamp. -/
  stamp : Nat
  /-- The stamp of its pre-emption: a gang that gives a new position up keeps it (02 R49). -/
  was : Nat := 0
  /-- The counter of free values at its last save: it names the bytes of its image that belong to the part (28 R485). -/
  save : Nat := 0
  /-- Its saves so far. -/
  saves : List Shadow := []
  /-- RTIME since which its save or restoration waits for a page under migration (28 R471). -/
  walking : Option Nat := none
  /-- Retirement is decided and its write-backs are still to be performed (04 R122). -/
  leaving : Option Cause := none
deriving DecidableEq, Repr, Inhabited

/-- A launch's item crew in one quadrant of a core (01 R25). -/
structure ItemCrew where
  launch : Nat
  core : Nat
  crew : Nat
  place : CrewPlace
  slots : Nat
  window : Nat
  /-- Placed to pull the spilled items of a vein without a team (08 R200). -/
  pull : Option Nat := none
deriving DecidableEq, Repr, Inhabited

/-! ### Cores -/

/-- An L1 line (03 R86): bytes held, bytes dirty, and who last used it (02 R58: launch, team and rank). -/
structure L1Line where
  line : Nat
  data : BitVec 512
  valid : BitVec 64
  dirty : BitVec 64
  user : Option (Nat × Nat × Nat)
  /-- Marked by an uncorrectable error of the L1's own array (32 R517). -/
  poison : Bool := false
  /-- HINT of its last access: 1 is evicted first, 2 last (13 R272). -/
  hint : Nat := 0
deriving DecidableEq, Repr, Inhabited

/-- A leaf translation held by a TLB (28 R475): queue tag, first page and pages covered, and what it maps to. -/
structure TlbEntry where
  queue : Nat
  page : Nat
  level : Nat
  loc : Nat
  peer : Nat
  pa : Nat
  w : Bool
  /-- Where its leaf entry stands: PA + LOC × 2^52 + PEER × 2^54. -/
  leaf : Nat
  /-- An uncorrectable error has marked it (32 R517). -/
  poison : Bool := false
deriving DecidableEq, Repr, Inhabited

/-- A victim tag (02 R58). -/
structure Victim where
  line : Nat
  launch : Nat
  team : Nat
  rank : Nat
deriving DecidableEq, Repr, Inhabited

/-- An active core (00 R2). -/
structure Core where
  /-- Its physical core on the die, 0 to 65 (32 R516). -/
  phys : Nat
  l1 : List L1Line := []
  tlb : List TlbEntry := []
  /-- The copy engine's walk-ahead TLB. -/
  walkAhead : List TlbEntry := []
  victims : List Victim := []
  /-- The core's order of ACQ requests: launch and team (02 R55). -/
  acqs : List (Nat × Nat) := []
  /-- Queued items (08 R198). -/
  items : List Item := []
  /-- The fused gang of its cluster (03 R87). -/
  fused : Option (Nat × Nat) := none
  /-- Which wave of each quadrant issued last, and whether it yielded (02 R57; 12 R244). -/
  last : List (Nat × Nat × Bool) := []
  /-- The images that its microcode, its copy engine and its Assay unit run (32 R512). -/
  image : Nat := 0
  copyImage : Nat := 0
  assayImage : Nat := 0
  /-- Halvings of the scores that have been made, or had nothing to halve (02 R58). -/
  halved : Nat := 0
  /-- Launches an item of which was ended here by the part: its stores are still to be written back (04 R119, R125). -/
  owed : List Nat := []
deriving DecidableEq, Repr, Inhabited

/-! ### L2, veins and device memory -/

/-- An L2 line (03 R88): its slice, its line (view included), data, dirty bytes and version. -/
structure L2Line where
  slice : Nat
  line : Nat
  data : BitVec 512
  dirty : BitVec 64
  ver : BitVec 16
deriving DecidableEq, Repr, Inhabited

/-- SLICEHASHv (29 R488). -/
structure SliceHash where
  mask : BitVec 16
  salt : BitVec 4
  en : Bool
deriving DecidableEq, Repr, Inhabited

/-- A vein (01 R37; 06 R162; 08 R197; 19 R416; 29 R490). -/
structure Vein where
  hash : SliceHash
  staged : Option SliceHash := none
  /-- Held, and by which fibre (19 R416). -/
  hold : Option FibreId := none
  /-- The wave and fibre that hold the irrevocable token, and the waves that wait for it (06 R162). -/
  token : Option FibreId := none
  tokenWaiters : List (Nat × FibreId) := []
  aseq : Word := 0
deriving DecidableEq, Repr, Inhabited

/-- A line lock (06 R159, R162). -/
structure LineLock where
  line : Nat
  owner : FibreId
deriving DecidableEq, Repr, Inhabited

/-- A format region (29 R493). -/
structure Region where
  base : BitVec 52 := 0
  limit : BitVec 52 := 0
  fmt : BitVec 3 := 0
  scaled : Bool := false
  en : Bool := false
  err : Bool := false
  /-- SADDR, bits [51:6]. -/
  saddr : BitVec 46 := 0
deriving DecidableEq, Repr, Inhabited

/-- What the directory keeps of a page (28 R473, R474): the leaf's address, forwarded accesses, and pages granted for writing. -/
structure DirEntry where
  leaf : Nat
  count : Nat
  grants : List Nat
deriving DecidableEq, Repr, Inhabited

/-- Memory, the L2 and what hangs at it. -/
structure MemSys where
  /-- Device memory (03 R85). -/
  hbm : Memory := []
  /-- Host memory, by host physical address (27 R461). -/
  host : Memory := []
  l2 : List L2Line := []
  /-- The slice clocks, counted without wrapping (03 R88; 06 R157), 16 slices of 8 dies. -/
  clocks : List Nat
  locks : List LineLock := []
  /-- Poisoned lines (32 R517). -/
  poison : List Nat := []
  veins : List Vein
  regions : List Region
  dir : List DirEntry := []
  dieTlb : List (List TlbEntry)
  /-- Cached non-leaf entries per die: (queue, level, index base, entry) (28 R475). -/
  nodes : List (List (Nat × Nat × Nat × DWord))
  /-- Raw lines of device memory that the host caches, and those recalled from it, the newest first (27 R460). -/
  hostLines : List Nat := []
  recalls : List Nat := []
  /-- Pages under migration: where they lie (PA + LOC × 2^52 + PEER × 2^54) and their size (28 R471; 19 R420). -/
  migrating : List (Nat × Nat) := []
deriving DecidableEq, Repr, Inhabited

/-! ### Queues, objects, launches -/

/-- A queue's registers and deficit (27 R462; 02 R46). -/
structure Queue where
  base : DWord := 0
  size : Word := 16
  en : Bool := false
  cls : BitVec 2 := 0
  cirq : Bool := false
  nirq : Bool := false
  vec : BitVec 11 := 0
  tail : Word := 0
  head : Word := 0
  quant : Word := 0x00100000
  tailBad : Bool := false
  ringFault : Bool := false
  compFault : Bool := false
  nbase : DWord := 0
  nsize : Word := 0
  nhead : Word := 0
  ntail : Word := 0
  ptbr : DWord := 0
  deficit : Int := 0
  /-- Notifications that HNOT has handed over and that wait for room (27 R467). -/
  notes : List (Word × Word × Word) := []
deriving DecidableEq, Repr, Inhabited

/-- A loaded kernel object (26 R447, R448; 07 R171). -/
structure Object where
  id : Nat
  code : List Byte
  dict : List (BitVec 96)
  consts : List Byte := []
  crews : Nat := 1
  fibres : Nat := 1
  gang : Nat := 1
  wpro : Nat := 16
  wfull : Nat := 16
  tiles : Nat := 0
  handles : Nat := 2
  iwin : Nat := 0
  ifib : Nat := 0
  scratch : Nat := 4096
  sump : Nat := 0
  bitwise : Bool := true
  aflush : Bool := false
  /-- Firmware's own runtime, which sends its traps to the driver (28 R482). -/
  ringed : Bool := false
  /-- The kernel contains an ordered atomic (27 R464). -/
  ordered : Bool := false
  /-- An unload has been read (27 R465). -/
  unloading : Bool := false
deriving DecidableEq, Repr, Inhabited

/-- The phase of a span launch on this device (01 R38 to R40). -/
inductive SpanPhase where
  | preparing | ready | committed | running
deriving DecidableEq, Repr, Inhabited

/-- The span of a launch. -/
structure Span where
  id : Word
  lode : Nat
  nlodes : Nat
  window : Nat
  phase : SpanPhase := .preparing
  readies : List Nat := []
  acks : List Nat := []
  /-- RTIME of the commit (sent by the coordinator, received by the others). -/
  commitAt : Nat := 0
  map : BitVec 192 := 0
  /-- The agents that hold its lodes, and the waves that wait for GO in the order in which they began (01 R39). -/
  agents : List Nat := []
  blocked : List Nat := []
deriving DecidableEq, Repr, Inhabited

/-- A launch from acceptance to its completion record (27 R464; 02 R44). -/
structure Launch where
  id : Nat
  queue : Nat
  seq : Word
  obj : Nat
  nteams : Nat
  gang : Nat
  det : Bool := false
  fuse : Bool := false
  system : Bool := false
  cores : Nat := 0
  /-- The argument block, 4,096 bytes (03 R77). -/
  args : List Byte := []
  sumpSize : Nat := 0
  sumpBase : DWord := 0
  /-- Its kernel contains an ordered atomic: it has a spill area, of 256 + `spill` entries for each drainer (27 R464). -/
  carts : Bool := false
  spill : Nat := 0
  spillBase : DWord := 0
  ctx : DWord := 0
  deadline : DWord := 0
  wdog : Nat := 1099511627776
  comp : DWord := 0
  trapEntry : Word := 0
  trapObj : Word := 0
  acceptedAt : DWord := 0
  /-- The lowest gang that is not placed, and gangs above it that are (a deterministic launch's groups overlap, 02 R53). -/
  nextGang : Nat := 0
  early : List Nat := []
  retired : Nat := 0
  status : Cause := 0
  assayFault : Cause := 0
  sump : List Item := []
  /-- Ordered rounds that have closed, and for each drainer the rounds its marker has been sent for (07 R176, R178). -/
  closed : Nat := 0
  markers : List (Nat × Nat) := []
  span : Option Span := none
  /-- Ended before its teams ran out: deadline, abort, span (02 R67; 01 R40). -/
  ending : Bool := false
  /-- It was running when this device was declared dead: every other agent is dead for it (31 R508). -/
  cut : Bool := false
deriving DecidableEq, Repr, Inhabited

/-- A record that has been read and is not finished: an unload that waits (27 R465). -/
structure Unload where
  queue : Nat
  seq : Word
  obj : Nat
  comp : DWord
  acceptedAt : DWord
deriving DecidableEq, Repr, Inhabited

/-- A record that is finished and whose completion record is to be written (27 R466). -/
structure Finished where
  id : Nat
  queue : Nat
  seq : Word
  comp : DWord
  acceptedAt : DWord
  status : Cause := 0
  /-- Bytes 8 to 15: the object id of a load. -/
  low : Nat := 0
  /-- Bytes 56 to 59: the per-gang context bytes of a load. -/
  high : Nat := 0
deriving DecidableEq, Repr, Inhabited

/-! ### Engines -/

/-- The engine operations with a handle (04 R113; 17 R353; 19 R405, R418). -/
inductive EngKind where
  | tcopy | icopy | isect | merge | nbin | npair | nfix | hcfg | hprobe | hins | hdel | hreh | ctxs | ctxr | migr
  /-- NCFG on a grid with operations before it (09 R202); it has no handle. -/
  | ncfg
deriving DecidableEq, Repr, Inhabited

/-- An engine operation that is queued or running. -/
structure EngOp where
  id : Nat
  kind : EngKind
  launch : Nat
  team : Nat
  core : Nat
  handle : Nat
  /-- The descriptor or configuration block, read at issue. -/
  block : List Byte := []
  /-- ICOPY's indices, read at issue. -/
  idx : List Nat := []
  a : DWord := 0
  b : DWord := 0
  c : DWord := 0
  d : DWord := 0
  /-- Bytes of the whole stream delivered before the current fill. -/
  done : Nat := 0
  /-- Bytes that a copy has delivered of the current fill. -/
  part : Nat := 0
  /-- The rest of a stream that is already formed, and its status. -/
  out : Option (List Byte × Cause) := none
  /-- It reads on after the last record of that stream (08 R191). -/
  late : Bool := false
  /-- RTIME when its wait for a page under migration began (28 R471). -/
  since : Option Nat := none
deriving DecidableEq, Repr, Inhabited

/-- A tile instruction in flight (18 R374 to R376): the tiles it reads and writes, what it leaves in them, its flags, its
deferred fault, and the fibres active at issue. -/
structure TileOp where
  id : Nat
  launch : Nat
  team : Nat
  wave : Nat
  fibres : List FibreId
  pc : Word
  reads : List Nat
  writes : List (Nat × Tile)
  flags : Word := 0
  fault : Option Due := none
deriving DecidableEq, Repr, Inhabited

/-- A particle of a grid (09 R207): reference and current position, cell, and whether it stands in the overflow list. -/
structure Particle where
  ref : List Word
  cur : List Word
  cell : Nat
  inList : Bool
deriving DecidableEq, Repr, Inhabited

/-- A grid's state (09 R206). -/
inductive GridState where
  | unbound | ready | overflow | stale | badpos
deriving DecidableEq, Repr, Inhabited

/-- A Sluice grid (09 R203). -/
structure Grid where
  base : DWord
  die : Nat
  box : List Word
  edge : Word
  cut : Word
  skin : Word
  pos : DWord
  stride : Nat
  n : Nat
  bytes : Nat
  ovcap : Nat
  flags : Byte
  queue : Nat
  state : GridState := .unbound
  arg : Word := 0
  parts : List Particle := []
deriving DecidableEq, Repr, Inhabited

/-- A Dowser family (10 R213, R225). -/
structure Family where
  base : DWord
  die : Nat
  queue : Nat
  wta : Bool
  policy : Nat
  tables : Nat
  k : Nat
  wlog : Nat
  m : Nat
  d : Nat
  c : Nat
  nrows : Nat
  wstride : Nat
  pbase : DWord
  seed : DWord
  wbase : DWord
  old : DWord
  /-- 0 UNCONF, 1 READY, 2 REHASH. -/
  state : Nat := 0
  cursor : Nat := 0
  inserts : Word := 0
  deletes : Word := 0
  drops : Word := 0
  displaced : Word := 0
  probes : Word := 0
  misses : Word := 0
  /-- Captured by the family that replaces it (10 R222). -/
  captured : Bool := false
deriving DecidableEq, Repr, Inhabited

/-- What an ordered atomic's entry does (17 R370). -/
inductive EntryOp where
  | int (op : Nat) (ty : Nat) (v : DWord)
  | fp (op : Nat) (rc : Nat) (v : Word)
  | cas (ty : Nat) (cmp new : DWord)
deriving DecidableEq, Repr, Inhabited

/-- An ordered-atomic entry that is not yet applied (07 R175, R178). -/
structure Entry where
  id : Nat
  launch : Nat
  round : Nat
  drainer : Nat
  key : DWord
  /-- The location, device physical. -/
  pa : Nat
  va : DWord
  op : EntryOp
  fibre : FibreId
  /-- Whether its lane has a destination (ATOMO, CASO, FATOMO). -/
  dest : Bool
  pc : Word
  /-- The leaf entry of its page (28 R473). -/
  leaf : Nat
  /-- Accepted by its mill, or refused and kept by the cart (07 R181, R182). -/
  arrived : Bool := false
deriving DecidableEq, Repr, Inhabited

/-- A forwarded access that is outstanding (03 R93, R94). -/
structure Fwd where
  id : Nat
  fibre : FibreId
  core : Nat
  dev : Nat
  pa : Nat
  va : DWord
  bytes : Nat
  op : FwdOp
  pc : Word
  /-- A posted store; a load or an atomic otherwise. -/
  posted : Bool
  reply : Option Reply := none
  /-- The model's own: its answer has served an access of the instruction that runs. -/
  used : Bool := false
  /-- Refused with MEM.OWNERDEAD (31 R507). -/
  dead : Bool := false
  /-- It writes an Assay record: its refusal is the completion record's (11 R233). -/
  assay : Bool := false
  /-- The tile whose contents a TST stores (18 R374). -/
  tile : Option Nat := none
  /-- The launch on whose behalf it is made. -/
  launch : Nat := 0
  /-- The leaf of the page, where the directory counts the access (28 R474). -/
  leaf : Option Nat := none
  /-- It reads ACC of this leaf for the directory (28 R474). -/
  acc : Option Nat := none
  /-- A lane's access to host memory, which takes a request entry while its instruction runs (03 R94). -/
  host : Bool := false
deriving DecidableEq, Repr, Inhabited

/-! ### Fabric, service, host -/

/-- A Breale port (31 R511). -/
structure Port where
  up : Bool := false
  ver : BitVec 2 := 0
  reason : BitVec 3 := 0
  dis : Bool := false
  /-- Forwarded requests whose flits it carries and that are not answered (31 R504). -/
  flits : List Nat := []
deriving DecidableEq, Repr, Inhabited

/-- What a device keeps of an agent (31 R506, R511). -/
structure Agent where
  live : Bool := false
  inc : Word := 0
  heard : Nat := 0
deriving DecidableEq, Repr, Inhabited

/-- Messages that leave the device: on the fabric, to the host, on the side port. -/
inductive Msg where
  | heartbeat (port : Nat)
  | spanReady (span : Word) (lode : Nat)
  | spanCommit (span : Word)
  | spanAck (span : Word) (lode : Nat)
  | spanGo (span : Word)
  | spanAbandon (span : Word) (map : BitVec 192)
  | admitAck (agent : Nat) (inc : Word)
  | readmit
  | request (id : Nat)
  | reply (agent : Nat) (r : Reply)
  | interrupt (vec : BitVec 11)
  | hdmData (v : BitVec 512)
  | unsupported
  | spdm (code : Nat) (body : List Byte)
  | sensors (power : Nat) (temps : List Nat) (mhz : List Nat) (corrected : List Nat) (poisoned : Nat)
  | imageRefused
  | registerData (v : Nat)
  /-- A read that meets a poisoned line (03 R85; 32 R517). -/
  | uncorr
deriving DecidableEq, Repr, Inhabited

/-- The fabric registers (31 R511). -/
structure Fabric where
  ports : List Port
  self : BitVec 8 := 0xFF
  selfInc : Word := 0
  vec : BitVec 11 := 0
  dropInc : Word := 0
  agents : List Agent
  /-- GO has arrived after the last admission: messages other than heartbeats may be sent (31 R509). -/
  go : Bool := false
  /-- Heartbeats sent on each port: one per 125 µs (31 R506). -/
  beats : Nat := 0
  /-- Messages that wait for a port that is up, or for GO, the oldest first (31 R504, R509). -/
  outbox : List Msg := []
deriving DecidableEq, Repr, Inhabited

/-- Firmware, attestation, protection and telemetry (32 R512 to R518). -/
structure Service where
  /-- Image 0 is the one at reset; further images by number. -/
  images : List FwImage := []
  running : Nat := 0
  staged : Option Nat := none
  sluices : List Nat
  dowsers : List Nat
  /-- Units that wait for their quiesce point: the operations that must end first (32 R512). -/
  quiesce : List (FwUnit × List Nat) := []
  slotUsable : Bool := true
  /-- SPDM: the version, the capabilities and the algorithms have been negotiated. -/
  spdmVersion : Bool := false
  spdmCaps : Bool := false
  spdmAlgs : Bool := false
  frozen : BitVec 4 := 0
  lastFrozen : BitVec 3 := 0
  frozenAddr : Word := 0
  spares : List (List Nat)
  stackErrors : List Nat
  dieErrors : List Nat
  power : Nat := 0
  temps : List Nat
  hot : List Bool
  /-- Samples taken, one per 1 ms (32 R518). -/
  sampled : Nat := 0
deriving DecidableEq, Repr, Inhabited

/-- The fault ring (28 R481, R482). -/
structure Ring where
  base : DWord := 0
  size : Word := 0
  tail : Word := 0
  en : Bool := false
  vec : BitVec 11 := 0
  wfault : Bool := false
  ackIndex : Word := 0
  ackAnswer : BitVec 2 := 0
  /-- Records written and not answered: index, fibre, cause. -/
  open_ : List (Word × FibreId × Cause) := []
  /-- Answers kept until they can act, for a fibre whose gang is pre-empted or that must wait (28 R486). -/
  kept : List ((Word × FibreId × Cause) × BitVec 2) := []
deriving DecidableEq, Repr, Inhabited

/-- The clocks (02 R65; 32 R518). -/
structure Clocks where
  rtime : Nat := 0
  /-- Cycles of each die's cores [4]. -/
  cycles : List Nat
  mhz : List Nat
  /-- The model's own: what has passed of a tick, in ps, and of each die's cycle, in millionths [4]. -/
  part : Nat := 0
  parts : List Nat
  /-- The model's own: RTIME when the step began. -/
  begun : Nat := 0
deriving DecidableEq, Repr, Inhabited

/-! ### What moves next -/

/-- What an event brings with it (spec/95); each event reads the fields its meaning names. The model's own. -/
structure EventArgs where
  launch : Nat := 0
  team : Nat := 0
  gang : Nat := 0
  core : Nat := 0
  queue : Nat := 0
  vein : Nat := 0
  wave : Nat := 0
  op : Nat := 0
  req : Nat := 0
  agent : Nat := 0
  die : Nat := 0
  port : Nat := 0
  lode : Nat := 0
  /-- Which of several fitting choices the part takes (02 R51). -/
  choice : Nat := 0
  fibre : FibreId := ⟨.team 0 0 0, 0⟩
  gangWide : Bool := false
  write : Bool := false
  /-- What lies beyond the part refuses the access (27 R463, R466; 28 R482). -/
  fails : Bool := false
  lanes : Word := 0
  word : Word := 0
  val : DWord := 0
  /-- The bytes that the access brings, little-endian (27 R460, R519). -/
  data : Nat := 0
  bytes : Nat := 0
  pa : Nat := 0
  map : BitVec 192 := 0
  reply : Reply := .ack
  access : PeerAccess := ⟨0, 0, 0, 0, .read⟩
  peer : PortPeer := .noSignal
  why : PortReason := .none
  image : FwImage := ⟨[], [], []⟩
  unit : FwUnit := .controller
  readings : Readings := ⟨0, [], []⟩
  /-- Members of a span, or masters that violate protection at the same instant, in order of arrival (32 R514). -/
  agents : List Nat := []
deriving DecidableEq, Repr, Inhabited

/-- The next thing that happens [1]. -/
inductive Move where
  | issue (wave : Nat)
  | event (i : Instr) (a : EventArgs)
  /-- The part's own choices that no row names: a cache or TLB gives up an entry (03 R86, R91; 28 R475). -/
  | dropL1 (core line : Nat)
  /-- An L1 writes dirty bytes of a line back before it must (03 R86). -/
  | backL1 (core line : Nat) (mask : BitVec 64)
  | dropL2 (slice line : Nat)
  | dropTlb (core page : Nat)
  /-- The side port brings an SPDM request that the part does not support (32 R513). -/
  | otherSpdm
  /-- A debugger halts or releases a team (02 R66). -/
  | halt (launch team : Nat) (on : Bool)
  /-- A TLBI on another device reaches this one, for a span launch of it or, from a system launch, for every space (19 R414). -/
  | peerTlbi (launch : Option Nat) (first count : Nat)
  | idle
deriving DecidableEq, Repr

/-- An access of the part itself that may wait for a page under migration (28 R471). -/
inductive Walker where
  /-- The record that a queue is to read. -/
  | record (queue : Nat)
  /-- A held release of a fibre, or what ended fibres of a core left. -/
  | release (fibre : FibreId)
  | left (core launch : Nat)
  /-- A team's Assay record. -/
  | assay (launch team : Nat)
deriving DecidableEq, Repr, Inhabited

/-- The state of the device. -/
structure State where
  /-- The model's own [1]: moves to come, the wave that issues, the length of its instruction, what an event brings. -/
  agenda : List Move := []
  cur : Option Nat := none
  ilen : Nat := 12
  ev : EventArgs := {}
  /-- The model's own: the counter of free values [3], and of names [1]. -/
  freeCtr : Nat := 0
  nextId : Nat := 1
  /-- The model's own: whose turn it is when the agenda is empty [2]. -/
  turn : Nat := 0
  clk : Clocks
  mem : MemSys
  cores : List Core
  fibres : List Fibre := []
  waves : List Wave := []
  teams : List Team := []
  gangs : List Gang := []
  itemCrews : List ItemCrew := []
  queues : List Queue
  /-- The round-robin pointer of each class (02 R46). -/
  pointers : List Nat := [0, 0, 0, 0]
  rtobj : Word := 0
  /-- HDMBASE, as the host's decoder stands (27 R460) [33]. -/
  hdmBase : Nat := 0
  objects : List Object := []
  launches : List Launch := []
  unloads : List Unload := []
  finished : List Finished := []
  ring : Ring := {}
  /-- L1FUSE.DIS of each die (29 R496). -/
  fuseDis : List (BitVec 16)
  ops : List EngOp := []
  tileOps : List TileOp := []
  grids : List Grid := []
  families : List Family := []
  entries : List Entry := []
  fwds : List Fwd := []
  left : List LeftRelease := []
  /-- The part's own accesses that wait for a page under migration, and RTIME since when (28 R471). -/
  walkers : List (Walker × Nat) := []
  fabric : Fabric
  service : Service
  /-- Messages and interrupts sent, the newest first. -/
  sent : List Msg := []
deriving DecidableEq, Repr

/-- The state after reset (27 R462; 28 R477, R481; 29 R488, R493, R496; 31 R511; 32 R515). What the spec gives no value for
is 0 or empty, by the log entries INVENTORY.md names. -/
def State.reset : State where
  clk := { cycles := List.replicate 8 0, mhz := List.replicate 8 700, parts := List.replicate 8 0 }
  mem :=
    { clocks := List.replicate 128 0
      veins := (List.range 16).map (fun v => { hash := if v % 2 == 0 then ⟨0xFFFF, 0, true⟩ else ⟨0, 0, false⟩ })
      regions := List.replicate 64 {}
      dieTlb := List.replicate 8 []
      nodes := List.replicate 8 [] }
  cores := (List.range 512).map (fun c => { phys := c % 64 })
  queues := List.replicate 64 {}
  fuseDis := List.replicate 8 0
  fabric := { ports := List.replicate 16 {}, agents := List.replicate 193 {} }
  service :=
    { sluices := List.replicate 8 0, dowsers := List.replicate 8 0, spares := List.replicate 8 [64, 65]
      stackErrors := List.replicate 8 0, dieErrors := List.replicate 10 0, temps := List.replicate 10 0
      hot := List.replicate 10 false }

end Sys2Proof.Machine
end

