-- ==== Sys2Proof/Machine/Memory.lean ====
section
/-! DEFINITION. Bytes in a canonical memory, and bytes in a 64-byte line (00 R5; 03 R86, R88). -/

namespace Sys2Proof.Machine

/-- The byte at an address. -/
def Memory.get : Memory → Nat → Byte
  | [], _ => unlistedByte
  | (b, v) :: r, a => if a = b then v else if a < b then unlistedByte else Memory.get r a

/-- The memory after a byte is written; the canonical form is kept. -/
def Memory.set : Memory → Nat → Byte → Memory
  | [], a, v => if v = unlistedByte then [] else [(a, v)]
  | (b, w) :: r, a, v =>
    if a < b then (if v = unlistedByte then (b, w) :: r else (a, v) :: (b, w) :: r)
    else if a = b then (if v = unlistedByte then r else (a, v) :: r)
    else (b, w) :: Memory.set r a v

/-- n bytes from an address, little-endian (00 R5). -/
def Memory.getN (m : Memory) (a : Nat) : Nat → Nat
  | 0 => 0
  | n + 1 => (m.get a).toNat + 256 * Memory.getN m (a + 1) n

/-- n bytes written at an address, little-endian. -/
def Memory.setN (m : Memory) (a : Nat) : Nat → Nat → Memory
  | 0, _ => m
  | n + 1, v => Memory.setN (m.set a (BitVec.ofNat 8 v)) (a + 1) n (v / 256)

/-- Bytes written one after the other. -/
def Memory.setBytes (m : Memory) (a : Nat) : List Byte → Memory
  | [] => m
  | b :: bs => Memory.setBytes (m.set a b) (a + 1) bs

/-- n bytes as a list. -/
def Memory.getBytes (m : Memory) (a n : Nat) : List Byte := (List.range n).map (fun i => m.get (a + i))

/-- The bits that a byte mask covers in a line. -/
def maskBits (m : BitVec 64) : BitVec 512 :=
  BitVec.ofNat 512 ((List.range 64).foldr (fun i acc => 256 * acc + (if m.getLsbD i then 255 else 0)) 0)

/-- A mask of n bytes from byte k of a line. -/
def byteMask (k n : Nat) : BitVec 64 := BitVec.ofNat 64 ((2 ^ n - 1) * 2 ^ k)

/-- A line whose masked bytes come from another. -/
def mergeLine (old new : BitVec 512) (m : BitVec 64) : BitVec 512 :=
  (old &&& ~~~ maskBits m) ||| (new &&& maskBits m)

/-- n bytes of a line from byte k. -/
def lineBytes (d : BitVec 512) (k n : Nat) : Nat := d.toNat / 2 ^ (8 * k) % 2 ^ (8 * n)

/-- A line that holds n bytes at byte k, and zeros elsewhere. -/
def lineOf (k n v : Nat) : BitVec 512 := BitVec.ofNat 512 (v % 2 ^ (8 * n) * 2 ^ (8 * k))

/-- The line of a memory that starts at an address. -/
def Memory.getLine (m : Memory) (a : Nat) : BitVec 512 := BitVec.ofNat 512 (m.getN a 64)

/-- The masked bytes of a line written to memory, byte by byte from byte k. -/
def Memory.setLineFrom (m : Memory) (a : Nat) (d : BitVec 512) (mask : BitVec 64) : Nat → Nat → Memory
  | 0, _ => m
  | n + 1, k =>
    Memory.setLineFrom (if mask.getLsbD k then m.set (a + k) (BitVec.ofNat 8 (lineBytes d k 1)) else m) a d mask n (k + 1)

/-- The masked bytes of a line written to memory. -/
def Memory.setLine (m : Memory) (a : Nat) (d : BitVec 512) (mask : BitVec 64) : Memory := m.setLineFrom a d mask 64 0

/-- The entries of a list after an update at a position. -/
def updAt {α : Type} (l : List α) (i : Nat) (f : α → α) : List α :=
  match l, i with
  | [], _ => []
  | x :: xs, 0 => f x :: xs
  | x :: xs, n + 1 => x :: updAt xs n f

end Sys2Proof.Machine
end

