-- ==== Sys2Proof/Machine/Ops.lean ====
section
/-! DEFINITION. The named operations over the state: causes, look-ups, registers, how waves form and divide, taking a trap
and returning from it, aborting a transaction, retiring a gang. -/

namespace Sys2Proof

/-- A global access is made on behalf of an item fibre (01 R26). -/
def CrewId.isItem : CrewId → Bool
  | .item .. => true
  | .team .. => false

def CrewId.launch : CrewId → Nat
  | .team l _ _ => l
  | .item l _ _ => l

/-- The crew index of a crew: CREWID.CREW (01 R33). -/
def CrewId.crew : CrewId → Nat
  | .team _ _ c => c
  | .item _ _ c => c

end Sys2Proof

namespace Sys2Proof.Machine

/-! ### Cause codes (28 R483) -/

def cause (base n : Nat) : Cause := BitVec.ofNat 9 (base + n)
/-- INSN: defect × 4 + slot. -/
def insn (defect slot : Nat) : Cause := cause 0 (defect * 4 + slot)
def insnIllegal : Cause := insn 0 0
def insnReserved (slot : Nat) : Cause := insn 1 slot
def insnOperand (slot : Nat) : Cause := insn 2 slot
def insnPcRange : Cause := insn 3 0
def insnDictBad : Cause := insn 4 0
def insnGuard : Cause := insn 5 0
def insnLookahead (slot : Nat) : Cause := insn 6 slot
def insnStateIdx : Cause := insn 7 2
/-- ARITH: reason × 8 + place. -/
def arithShape (place : Nat) : Cause := cause 0x20 place
def arithSpMeta (place : Nat) : Cause := cause 0x28 place
def arithZeroPivot (place : Nat) : Cause := cause 0x30 place
/-- TRANS: reason × 8 + level × 2 + kind. -/
def trans (reason level : Nat) (write : Bool) : Cause := cause 0x40 (reason * 8 + level * 2 + (if write then 1 else 0))
/-- MEM: reason × 4 + space. -/
def memC (reason space : Nat) : Cause := cause 0x60 (reason * 4 + space)
def memAlign (space : Nat) : Cause := memC 0 space
def memAddrBits : Cause := memC 1 0
def memSpRange : Cause := memC 1 1
def memSibRange : Cause := memC 1 2
def memConstRange : Cause := memC 1 3
def memNoView : Cause := memC 2 0
def memRemoteNak : Cause := memC 3 0
def memOwnerDead : Cause := memC 4 0
def memOrdRemote : Cause := memC 5 0
def memFrozen : Cause := memC 6 0
/-- SYNC: reason × 8 + instruction. -/
def syncSplit (i : Nat) : Cause := cause 0x80 i
def syncMeetMix : Cause := cause 0x88 0
def syncBarMix (i : Nat) : Cause := cause 0x90 i
def syncBarObj : Cause := cause 0x98 7
def txC (n : Nat) : Cause := cause 0xA0 n
def txNest : Cause := txC 0
def txNoTx : Cause := txC 1
def txCapacity : Cause := txC 2
def txConflict : Cause := txC 3
def txReadChg : Cause := txC 4
def txStale : Cause := txC 5
def txLocked : Cause := txC 6
def txRemote : Cause := txC 7
def txAtomic : Cause := txC 8
def txBar : Cause := txC 9
def txGbar : Cause := txC 10
def txSpawn : Cause := txC 11
def txGlds : Cause := txC 12
def txEngine : Cause := txC 13
def txEnd : Cause := txC 14
def txSync : Cause := txC 15
def txPriv : Cause := txC 16
def txExplicit : Cause := txC 17
def txPreempt : Cause := txC 18
def txBackoff : Cause := txC 19
def txOrdKill : Cause := txC 20
def txOrdRange : Cause := txC 21
/-- ENGINE: unit × 8 + reason. -/
def engineC (unit reason : Nat) : Cause := cause 0xC0 (unit * 8 + reason)
def schedC (n : Nat) : Cause := cause 0xE0 n
def orderC (n : Nat) : Cause := cause 0x100 n
def privC (n : Nat) : Cause := cause 0x120 n
def debugC (n : Nat) : Cause := cause 0x140 n
def sysWatchdog : Cause := cause 0x160 0
def sysSpanFail : Cause := cause 0x160 1
def sysDeadline : Cause := cause 0x160 2
def sysUncorr : Cause := cause 0x160 3
def sysSvc : Cause := cause 0x160 4
def sysDblTrap : Cause := cause 0x160 5

/-- Whether a cause is a TRANS cause: its trap is a suspension, KIND 1 (28 R477). -/
def causeIsTrans (c : Cause) : Bool := 0x40 ≤ c.toNat && c.toNat < 0x60

/-! ### Where things are -/

/-- The die of a core (00 R2: 64 active cores a die). -/
def dieOf (core : Nat) : Nat := core / 64

/-- Cores of the device (00 R2). -/
def coreCount : Nat := 512

/-- The four cores of a core's cluster. -/
def clusterOf (core : Nat) : List Nat := (List.range 4).map (fun k => core / 4 * 4 + k)

def Fibre.isItem (f : Fibre) : Bool := f.id.crew.isItem

/-- Home wave and home lane (01 R13). -/
def Fibre.home (f : Fibre) : Nat := f.id.index / 32
def Fibre.lane (f : Fibre) : Nat := f.id.index % 32

def State.fibre? (s : State) (i : FibreId) : Option Fibre := s.fibres.find? (fun f => f.id == i)
def State.setFibre (s : State) (f : Fibre) : State :=
  { s with fibres := s.fibres.map (fun g => if g.id == f.id then f else g) }
def State.setFibres (s : State) (fs : List Fibre) : State := fs.foldl State.setFibre s
def State.dropFibre (s : State) (i : FibreId) : State := { s with fibres := s.fibres.filter (fun f => f.id != i) }

def State.wave? (s : State) (i : Nat) : Option Wave := s.waves.find? (fun w => w.id == i)
def State.setWave (s : State) (w : Wave) : State :=
  { s with waves := s.waves.map (fun v => if v.id == w.id then w else v) }
def State.dropWave (s : State) (i : Nat) : State := { s with waves := s.waves.filter (fun w => w.id != i) }

def State.team? (s : State) (launch team : Nat) : Option Team :=
  s.teams.find? (fun t => t.launch == launch && t.id == team)
def State.setTeam (s : State) (t : Team) : State :=
  { s with teams := s.teams.map (fun u => if u.launch == t.launch && u.id == t.id then t else u) }
def State.teamOf? (s : State) (c : CrewId) : Option Team :=
  match c with
  | .team l t _ => s.team? l t
  | .item .. => none

def State.gang? (s : State) (launch gang : Nat) : Option Gang :=
  s.gangs.find? (fun g => g.launch == launch && g.id == gang)
def State.setGang (s : State) (g : Gang) : State :=
  { s with gangs := s.gangs.map (fun h => if h.launch == g.launch && h.id == g.id then g else h) }

def State.launch? (s : State) (i : Nat) : Option Launch := s.launches.find? (fun l => l.id == i)
def State.setLaunch (s : State) (l : Launch) : State :=
  { s with launches := s.launches.map (fun m => if m.id == l.id then l else m) }
def State.object? (s : State) (i : Nat) : Option Object := s.objects.find? (fun o => o.id == i)

def State.core (s : State) (c : Nat) : Core := s.cores.getD c { phys := 0 }
def State.setCore (s : State) (c : Nat) (f : Core → Core) : State := { s with cores := updAt s.cores c f }
def State.queue (s : State) (q : Nat) : Queue := s.queues.getD q {}
def State.setQueue (s : State) (q : Nat) (f : Queue → Queue) : State := { s with queues := updAt s.queues q f }

/-- The item crew a crew name stands for. -/
def State.itemCrew? (s : State) (c : CrewId) : Option ItemCrew :=
  match c with
  | .item l core k => s.itemCrews.find? (fun i => i.launch == l && i.core == core && i.crew == k)
  | .team .. => none

/-- The core a crew runs on. -/
def State.coreOf (s : State) (c : CrewId) : Nat :=
  match c with
  | .team l t _ => ((s.team? l t).map Team.core).getD 0
  | .item _ core _ => core

/-- Where a crew is placed in its quadrant (01 R21; 02 R57). -/
def State.placeOf? (s : State) (c : CrewId) : Option CrewPlace :=
  match c with
  | .team l t k => (s.team? l t).bind (fun u => u.crews[k]?)
  | .item .. => (s.itemCrew? c).map ItemCrew.place

/-- A name that nothing holds yet. -/
def State.newId (s : State) : Nat × State := (s.nextId, { s with nextId := s.nextId + 1 })

/-- A request's flits are carried by the lowest port that is up (31 R504). -/
def Fabric.carry (f : Fabric) (i : Nat) : Fabric :=
  let p := ((List.range f.ports.length).find? (fun k => ((f.ports[k]?).map Port.up).getD false)).getD 0
  { f with ports := updAt f.ports p (fun x => { x with flits := x.flits ++ [i] }) }

/-- Whether some port carries traffic (31 R504). -/
def Fabric.linked (f : Fabric) : Bool := f.ports.any Port.up

/-- What a message on the fabric needs beside a port that is up: GO, unless it belongs to the admission itself (31 R509); none of the
other messages. -/
def Msg.onFabric : Msg → Option Bool
  | .spanReady .. | .spanCommit _ | .spanAck .. | .spanGo _ | .spanAbandon .. | .request _ | .reply .. => some true
  | .admitAck .. | .readmit => some false
  | _ => none

/-- Whether a message can leave now. -/
def Fabric.takes (f : Fabric) (m : Msg) : Bool :=
  match m.onFabric with
  | some needsGo => f.linked && (!needsGo || f.go)
  | none => true

/-- A message leaves the device, or waits until it can (31 R504, R509). -/
def State.send (s : State) (m : Msg) : State :=
  { s with
    sent := if s.fabric.takes m then m :: s.sent else s.sent
    fabric := if s.fabric.takes m then (match m with
        | .request i => s.fabric.carry i
        | _ => s.fabric)
      else { s.fabric with outbox := s.fabric.outbox ++ [m] } }

/-- Messages that waited leave, in their order, as far as they can. -/
def State.flush (s : State) : State := s.fabric.outbox.foldl State.send { s with fabric := { s.fabric with outbox := [] } }

/-- A request whose flits need no port any more: it has been answered, or refused here. -/
def State.ackFlit (s : State) (i : Nat) : State :=
  { s with fabric := { s.fabric with
      ports := s.fabric.ports.map (fun x => { x with flits := x.flits.filter (fun n => n != i) })
      outbox := s.fabric.outbox.filter (fun m => m != .request i) } }

/-- RTIME as a number of ticks (02 R65). -/
def State.rtime (s : State) : Nat := s.clk.rtime

/-- Whether the fibre's launch is deterministic (07). -/
def State.det (s : State) (launch : Nat) : Bool := ((s.launch? launch).map Launch.det).getD false

/-! ### Registers (01 R8 to R12; 28 R479) -/

/-- A register of a fibre: in the trap runtime 252 to 255 name its trap bank (28 R479). -/
def Fibre.reg (f : Fibre) (n : Nat) : Word :=
  if f.inTrap.isSome && 252 ≤ n then f.bank.getD (n - 252) 0 else f.regs.getD n 0

/-- A register written: bit 0 of v0 stays 1 (01 R9); it is poisoned no more (32 R517). -/
def Fibre.setReg (f : Fibre) (n : Nat) (v : Word) : Fibre :=
  if f.inTrap.isSome && 252 ≤ n then { f with bank := f.bank.set (n - 252) v }
  else { f with regs := f.regs.set n (if n == 0 then v ||| 1 else v), poison := f.poison.filter (fun k => k != n) }

/-- Whether a read of a register meets an uncorrectable error: the trap-bank words are none of the window's (28 R479; 32 R517). -/
def Fibre.badReg (f : Fibre) (n : Nat) : Bool := f.poison.contains n && !(f.inTrap.isSome && 252 ≤ n)

/-- Consecutive registers written. -/
def Fibre.setRegs (f : Fibre) (n : Nat) : List Word → Fibre
  | [] => f
  | v :: vs => (f.setReg n v).setRegs (n + 1) vs

/-- The registers named written with the values. -/
def Fibre.setList (f : Fibre) : List Nat → List Word → Fibre
  | n :: ns, v :: vs => (f.setReg n v).setList ns vs
  | _, _ => f

/-- A pair (01 R10). -/
def Fibre.pair (f : Fibre) (n : Nat) : DWord := .ofWords (f.reg n) (f.reg (n + 1))
def Fibre.setPair (f : Fibre) (n : Nat) (v : DWord) : Fibre := (f.setReg n v.lo).setReg (n + 1) v.hi

/-- A predicate bit of v0 (01 R9; 14 R275). -/
def Fibre.pred (f : Fibre) (k : Nat) : Bool := (f.reg 0).getLsbD k

/-- A word with bit k set to a value. -/
def setBit (w : Word) (k : Nat) (b : Bool) : Word :=
  if b then w ||| BitVec.ofNat 32 (2 ^ k) else w &&& ~~~ BitVec.ofNat 32 (2 ^ k)

/-- A bit of v0 written: a part of the word, which stays poisoned if it is (32 R517). -/
def Fibre.setPred (f : Fibre) (k : Nat) (b : Bool) : Fibre := { f.setReg 0 (setBit (f.reg 0) k b) with poison := f.poison }

/-- Whether a fibre is active under a guard (12 R242); a lane that waits at an object stays so, and one whose v0 the guard cannot read
is, too: it takes SYS.UNCORR (32 R517) [96]. -/
def Fibre.active (f : Fibre) (g : BitVec 6) : Bool :=
  f.pred (g.toNat % 32) != g.getLsbD 5 || f.objWait.isSome || (g.toNat % 32 != 0 && f.badReg 0)

/-- Registers written in the window, whatever the fibre is in (28 R479). -/
def Fibre.setOwn (f : Fibre) (ns : List Nat) (vs : List Word) : Fibre :=
  { ({ f with inTrap := none }.setList ns vs) with inTrap := f.inTrap }

/-- One pending destination written, with its flags (12 R248; 16 R322). -/
def Fibre.writePend (f : Fibre) (p : Pend) : Fibre :=
  let f := if p.own then f.setOwn p.dst p.vals else f.setList p.dst p.vals
  { f with fpstat := fpstatOr f.fpstat p.flags }

/-- Every pending destination written; windows close (12 R253). That of an ordered atomic stays pending until its round
closes (12 R249) [26]. -/
def Fibre.writeAllPend (f : Fibre) : Fibre :=
  let g := (f.pend.filter (fun p => p.ordered.isNone)).foldl Fibre.writePend f
  { g with pend := f.pend.filter (fun p => p.ordered.isSome), windows := [] }

/-- TXSTAT (06 R163). -/
def Fibre.txstat (f : Fibre) : Word :=
  let b := fun (c : Bool) (k : Nat) => if c then 2 ^ k else 0
  BitVec.ofNat 32 (f.txCause.toNat + b f.tx.isSome 9 + b f.txOrd 10 + b f.txIrrev 11 + f.txDefer % 8 * 2 ^ 12
    + f.txAborts % 256 * 2 ^ 16 + f.txAttempts % 256 * 2 ^ 24)

/-- MODE.PRIV (28 R477, R478): in a system launch, and in the trap runtime. -/
def State.priv (s : State) (f : Fibre) : Bool :=
  f.inTrap.isSome || ((s.launch? f.id.crew.launch).map Launch.system).getD false

/-! ### Waves -/

/-- The lane mask of fibres. -/
def lanesOf (fs : List Fibre) : Word := fs.foldl (fun m f => m ||| BitVec.ofNat 32 (2 ^ f.lane)) 0

/-- The fibres of a wave in ascending home lane (01 R14). -/
def State.waveFibres (s : State) (w : Wave) : List Fibre :=
  (List.range 32).filterMap (fun l => if w.lanes.getLsbD l then s.fibre? ⟨w.crew, w.home * 32 + l⟩ else none)

/-- Fibres that stand together: one PC, one object, in the trap runtime or not (01 R14, R15; 28 R478). -/
def sameStand (f g : Fibre) : Bool := f.pc == g.pc && f.obj == g.obj && f.inTrap.isSome == g.inTrap.isSome

/-- Fibres put into groups that stand together, in order of their lowest lane. -/
def standGroups : List Fibre → List (List Fibre) → List (List Fibre)
  | [], acc => acc
  | f :: fs, acc =>
    let rec place : List (List Fibre) → List (List Fibre)
      | [] => [[f]]
      | g :: gs => if g.any (sameStand f) then (g ++ [f]) :: gs else g :: place gs
    standGroups fs (place acc)

/-- New waves made of groups, each with the meet set of the parent (01 R19) and the staging region given with it (03 R68). -/
def State.addParts (s : State) (w : Wave) : List (List Fibre) → State
  | [] => s
  | g :: gs =>
    let (i, s) := s.newId
    let v : Wave := { id := i, crew := w.crew, home := w.home, lanes := lanesOf g, meet := w.meet
                      reissue := w.reissue, staged := w.staged }
    State.addParts { s with waves := s.waves ++ [v] } w gs

/-- A wave after its instruction: one wave per place where its fibres stand (01 R15); a transfer of control and a split end the
staging region (03 R68). `whole` is the lanes that the wave had: the end of some is a split (01 R15). -/
def State.regroup (s : State) (w : Wave) (whole : Word) (fs : List Fibre) (transfer : Bool) : State :=
  match standGroups fs [] with
  | [] => s.dropWave w.id
  | g :: gs =>
    let m := lanesOf g
    let keep := !transfer && gs.isEmpty && m == whole
    let w := { w with lanes := m, age := 0, wait := none, stalled := false, arrived := 0, parts := 0, record := none
                      staged := if keep then w.staged else none }
    (s.setWave w).addParts w gs

/-- Everything that waits may try again [9]. -/
def State.wake (s : State) : State := { s with waves := s.waves.map (fun w => { w with stalled := false }) }

/-- A wave that waits for GO takes its place in the order of its launch (01 R39). -/
def State.noteBlocked (s : State) (w : Wave) : State :=
  { s with launches := s.launches.map (fun l => if l.id == w.crew.launch then
      { l with span := l.span.map (fun p => if p.blocked.contains w.id then p else { p with blocked := p.blocked ++ [w.id] }) } else l) }

/-- A wave waits, and tries again when something completes [9]. -/
def State.park (s : State) (w : Wave) (why : Wait) : State :=
  (if why == .span then s.noteBlocked w else s).setWave
    { w with wait := some why, stalled := true, age := 0, since := if w.wait == some why then w.since else s.clk.rtime }

/-! ### Launch status, leaving -/

/-- The first nonzero cause of a launch (28 R480). -/
def Launch.record (l : Launch) (c : Cause) : Launch := if l.status == 0 then { l with status := c } else l

/-- The gang a team belongs to. -/
def State.gangOf (s : State) (launch team : Nat) : Nat := team / ((s.launch? launch).map Launch.gang).getD 1

/-- A fibre leaves every meet set (01 R19). -/
def State.leaveMeets (s : State) (i : FibreId) : State :=
  let off := fun (m : Word) => m &&& ~~~ BitVec.ofNat 32 (2 ^ (i.index % 32))
  { s with
    waves := s.waves.map (fun w => if w.crew == i.crew && w.home == i.index / 32 then { w with meet := off w.meet } else w)
    fibres := s.fibres.map (fun f =>
      if f.id.crew == i.crew && f.home == i.index / 32 then
        { f with inTrap := f.inTrap.map (fun t => { t with meet := off t.meet }), groupMeet := off f.groupMeet }
      else f) }

/-- Locks and the token that a fibre holds are released (06 R162). -/
def State.freeTx (s : State) (i : FibreId) : State :=
  { s with mem := { s.mem with
      locks := s.mem.locks.filter (fun k => k.owner != i)
      veins := s.mem.veins.map (fun v => if v.token == some i then { v with token := none } else v) } }

/-- Whether a launch may start items on a core: it has a team there, or an item crew that serves a vein (02 R64; 08 R200). -/
def State.itemsAt (s : State) (launch core : Nat) : Bool :=
  s.teams.any (fun t => t.launch == launch && t.core == core) ||
  s.itemCrews.any (fun i => i.launch == launch && i.core == core && i.pull.isSome)

/-- Items queued where no item may start any more move to their launch's sump (02 R64). -/
def State.sweepItems (s : State) (core : Nat) : State :=
  let out := (s.core core).items.filter (fun i => !s.itemsAt i.launch core)
  let s := s.setCore core (fun c => { c with items := c.items.filter (fun i => !out.any (fun o => o.id == i.id)) })
  { s with launches := s.launches.map (fun l => { l with sump := l.sump ++ out.filter (fun i => i.launch == l.id) }) }

/-- Item crews that run nothing are freed where the launch has no team and, for one that serves a vein, no item of it is spilled
(02 R64; 08 R200). -/
def State.freeCrews (s : State) : State :=
  { s with itemCrews := s.itemCrews.filter (fun i =>
      s.teams.any (fun t => t.launch == i.launch && t.core == i.core) ||
      s.fibres.any (fun f => match f.id.crew with
        | .item l c _ => l == i.launch && c == i.core
        | .team .. => false) ||
      (match i.pull with
        | some v => s.launches.any (fun l => l.id == i.launch && l.sump.any (fun x => x.vein == v))
        | none => false)) }

/-- The name of no fibre of a crew's launch and team: what an ended fibre left to be answered belongs to it, and to no fibre that
takes its slot. No crew has the index 1000. -/
def nobody : CrewId → FibreId
  | .team l t _ => ⟨.team l t 1000, 0⟩
  | .item l k _ => ⟨.item l k 1000, 0⟩

/-- What an ended fibre leaves: its posted stores and held releases are performed, its entries applied; answers, flags and faults
come to no fibre (05 R149; 07 R183; 11 R232). -/
def State.orphan (s : State) (f : Fibre) : State :=
  let team := match f.id.crew with
    | .team _ t _ => some t
    | .item .. => none
  { s with
    fwds := (s.fwds.filter (fun r => r.fibre != f.id || r.posted)).map (fun r => if r.fibre == f.id then { r with fibre := nobody f.id.crew } else r)
    tileOps := s.tileOps.map (fun o => { o with fibres := o.fibres.filter (fun i => i != f.id) })
    entries := s.entries.map (fun e => if e.fibre == f.id then { e with fibre := nobody f.id.crew } else e)
    left := s.left ++ f.held.map (fun h => { core := s.coreOf f.id.crew, launch := f.id.crew.launch, team := team, rel := h }) }

/-- A fibre ends: its slot is free, it is in no wave and no meet set (01 R19, R23; 14 R285). -/
def State.endFibre (s : State) (f : Fibre) : State :=
  let s := (s.dropFibre f.id).leaveMeets f.id |>.freeTx f.id
  let bit := BitVec.ofNat 32 (2 ^ f.lane)
  let ws := s.waves.map (fun w => if w.crew == f.id.crew && w.home == f.home then { w with lanes := w.lanes &&& ~~~ bit } else w)
  let s := ({ s with waves := ws.filter (fun w => w.lanes != 0) }).orphan f
  match f.id.crew with
  | .item _ core _ => (s.sweepItems core).freeCrews
  | .team .. => s

/-- A gang is to leave without saving: its fibres are gone, and TEAM_RETIRE does the rest (04 R122; 28 R480). Its open supervisions are
dropped and write no record [111]. -/
def State.retireGang (s : State) (launch gang : Nat) (c : Cause) : State :=
  let mine := fun (i : FibreId) => match i.crew with
    | .team l t _ => l == launch && s.gangOf l t == gang
    | .item .. => false
  let gone := s.fibres.filter (fun f => mine f.id)
  let s := gone.foldl State.endFibre s
  let s := { s with teams := s.teams.map (fun (t : Team) => if t.launch == launch && s.gangOf launch t.id == gang then { t with sup := none } else t) }
  match s.gang? launch gang with
  | some g => s.setGang { g with leaving := some (g.leaving.getD c) }
  | none => s

/-! ### Aborting a transaction (06 R154, R160, R161) -/

/-- Whether an abort cause is counted (06 R161). -/
def countedAbort (c : Cause) : Bool := c != txPreempt && c != txBackoff && c != txExplicit && c != txOrdKill

/-- The defer count of the k-th consecutive counted abort (06 R160). -/
def deferCount (k : Nat) : Nat := min (2 ^ (k - 1)) 8 - 1

/-- A fibre after its transaction aborts: the log is gone and it continues at the abort target (06 R154, R163). An ordered
attempt's counted abort sets its defer count too [101]. -/
def Fibre.aborted (f : Fibre) (c : Cause) : Fibre :=
  match f.tx with
  | none => f
  | some t =>
    let k := if countedAbort c then min (f.txAborts + 1) 255 else f.txAborts
    { f with tx := none, txSettled := none, txCause := c, txAborts := k
             txDefer := if countedAbort c then deferCount k else f.txDefer
             pc := t.target }

/-- A fibre aborts: also its locks and its token (06 R162). -/
def State.abort (s : State) (f : Fibre) (c : Cause) : State × Fibre := (s.freeTx f.id, f.aborted c)

/-! ### Tile registers (03 R79, R80) -/

/-- Bits of an element. -/
def Tile.wbits (t : Tile) : Nat := 4 * 2 ^ t.width.toNat

/-- Bits of the shape. -/
def Tile.size (t : Tile) : Nat := t.rows * t.cols * t.wbits

/-- The poisoned lines of a tile that a write of its low n bits leaves so: those it does not write whole (32 R517). -/
def Tile.poisonFrom (t : Tile) (n : Nat) : List Nat := t.poison.filter (fun k => n < 512 * (k + 1))

/-! ### Taking a trap (28 R478 to R480) -/

/-- What the fault of an instruction comes to in a fibre (06 R155, R162). -/
inductive FaultWay where
  | trap (pc : Word)          -- no transaction is open
  | abort                     -- absorbed by the abort
  | abortTrap (pc : Word)     -- traps after the abort, with this TRAPPC
deriving DecidableEq, Repr, Inhabited

/-- `plain`: the instruction's accesses are no transactional ones (04 R123; 18 R373); a deferred fault's were not either. -/
def Fibre.faultWay (f : Fibre) (d : Due) (plain : Bool) : FaultWay :=
  match f.tx with
  | none => .trap f.pc
  | some t =>
    if t.irrev then .abortTrap t.opener
    else if d.cause == sysWatchdog || (d.cause == sysUncorr && d.kind != 3 && !plain) then .abortTrap t.target
    else .abort

/-- A fibre as it enters the trap runtime (28 R478 steps 1 to 3; R479: the bank reads 0). -/
def Fibre.enter (f : Fibre) (l : Launch) (ringed : Bool) (meet : Word) (pc : Word) (d : Due) (r : Resume) : Fibre :=
  let g := f.writeAllPend
  { g with
    trap := { cause := d.cause, kind := if causeIsTrans d.cause && d.kind == 0 then 1 else d.kind
              lane := BitVec.ofNat 5 f.lane, pc := pc, addr := d.addr, info0 := d.info0, info1 := d.info1 }
    inTrap := some { resume := r, obj := f.obj, meet := meet, at_ := pc
                     runtime := if ringed then .toWrite else .none
                     phase := f.phase, objWait := f.objWait, txSettled := f.txSettled, txFault := f.txFault }
    txSettled := none
    txFault := false
    phase := none
    objWait := none
    walkTimeout := false
    bank := [0, 0, 0, 0]
    pc := l.trapEntry
    obj := l.trapObj.toNat }

/-- Whether the trap would be a double trap (28 R480). -/
def State.doubleTrap (s : State) (f : Fibre) : Bool :=
  f.inTrap.isSome ||
    (match s.launch? f.id.crew.launch with
      | some l => l.trapEntry.getLsbD 0 || (s.object? l.trapObj.toNat).isNone
      | none => true)

/-- The stores of a launch's item that the part ends are written back from its core later (04 R119, R125). -/
def State.owe (s : State) (f : Fibre) : State :=
  match f.id.crew with
  | .item l core _ => s.setCore core (fun c => { c with owed := if c.owed.contains l then c.owed else l :: c.owed })
  | .team .. => s

/-- What a double trap does: a team fibre's gang retires without saving, an item ends (28 R480). -/
def State.onDoubleTrap (s : State) (f : Fibre) : State :=
  let l := f.id.crew.launch
  let s := match s.launch? l with
    | some m => s.setLaunch (m.record sysDblTrap)
    | none => s
  match f.id.crew with
  | .team _ t _ => s.retireGang l (s.gangOf l t) sysDblTrap
  | .item .. => (s.owe f).endFibre f

/-- THE ONE trap entry: a fibre takes the trap d with TRAPPC pc and what ERET will do (28 R478). The fibre's wave is formed by
the caller. -/
def State.takeTrap (s : State) (f : Fibre) (meet : Word) (pc : Word) (d : Due) (r : Resume) : State :=
  if s.doubleTrap f then s.onDoubleTrap f
  else match s.launch? f.id.crew.launch with
    | some l => s.setFibre (f.enter l (((s.object? l.trapObj.toNat).map Object.ringed).getD false) meet pc d r)
    | none => s

/-- A pending destination that the runtime leaves behind: what named the trap bank names nothing any more (28 R479). -/
def Pend.leave (p : Pend) : Pend :=
  if p.own then p else { p with own := true, dst := p.dst.map (fun n => if 252 ≤ n then n + 256 else n) }

/-- A fibre as ERET leaves the runtime: its pending destinations are written, INTRAP is cleared and it stands at TRAPPC in the
object it trapped in (12 R253; 19 R413). -/
def Fibre.leave (f : Fibre) (t : InTrap) : Fibre :=
  let g := f.writeAllPend
  { g with inTrap := none, pc := f.trap.pc, obj := t.obj, pend := g.pend.map Pend.leave
           txSettled := if f.trap.pc == t.at_ then t.txSettled else none
           txFault := f.trap.pc == t.at_ && t.txFault
           phase := if f.trap.pc == t.at_ then t.phase else none
           objWait := if f.trap.pc == t.at_ then t.objWait else none }

/-- Waves of a quadrant that are in the trap runtime: they hold the bank (28 R479). -/
def State.bankUse (s : State) (core quad : Nat) (but : Nat) : Nat :=
  (s.waves.filter (fun w => w.id != but && s.coreOf w.crew == core && ((s.placeOf? w.crew).map CrewPlace.quad) == some quad
    && (s.waveFibres w).any (fun f => f.inTrap.isSome))).length

/-- Whether a wave that traps finds the bank full: it holds 8 waves (28 R479). -/
def State.bankFull (s : State) (w : Wave) : Bool :=
  match s.placeOf? w.crew with
  | some p => s.bankUse (s.coreOf w.crew) p.quad w.id ≥ 8
  | none => false

/-- Waves that the bank has room for beside those that it holds, a wave itself aside. -/
def State.bankRoom (s : State) (w : Wave) : Nat :=
  match s.placeOf? w.crew with
  | some p => 8 - s.bankUse (s.coreOf w.crew) p.quad w.id
  | none => 8

/-! ### Trap groups of a deterministic launch (28 R478) -/

/-- Fibres of a home wave put into waves by where they stand, with a meet set; one wave of them keeps the staging region (03 R68). -/
def State.formWaves (s : State) (crew : CrewId) (home : Nat) (meet : Word) (staged : Option (Nat × List Nat)) (fs : List Fibre) : State :=
  let gs := standGroups fs []
  s.addParts { id := 0, crew := crew, home := home, lanes := 0, meet := meet, staged := if gs.length ≤ 1 then staged else none } gs

/-- When every fibre of a group has reached its continuation, the wave goes on, divided by PC as at a branch. -/
def State.releaseGroup (s : State) (g : Nat) : State :=
  match s.fibres.filter (fun f => f.group == some g) with
  | [] => s
  | f :: fs =>
    let all := f :: fs
    if !all.all Fibre.parked then s
    else
      let gs := all.map (fun h => { h with group := none, parked := false, groupStaged := none })
      -- The region lasts where no wave of the group has ended it.
      let staged := if fs.all (fun h => h.groupStaged == f.groupStaged) then f.groupStaged else none
      (s.setFibres gs).formWaves f.id.crew f.home f.groupMeet staged gs

/-- Every group whose fibres have all reached their continuations goes on. -/
def State.releaseGroups (s : State) : State :=
  (s.fibres.filterMap Fibre.group).eraseDups.foldl State.releaseGroup s

/-! ### The monad of an instruction's effect -/

/-- Why a lane's effect does not come about now. -/
inductive Stop where
  /-- A fault of the lane. -/
  | trap (d : Due)
  /-- The lane's transaction aborts with this cause (06 R152, R153). -/
  | abort (c : Cause)
  /-- The wave waits; the accesses to be forwarded first (03 R93). -/
  | wait (w : Wait) (post : List Fwd)
  /-- An irrevocable attempt meets one of a lower-numbered vein: it restarts (06 R162). -/
  | restart
deriving DecidableEq, Repr

/-- An effect on the state that may stop; a stop leaves no effect. -/
abbrev M (α : Type) : Type := StateT State (Except Stop) α

def trapM {α : Type} (c : Cause) (addr : DWord := 0) : M α := throw (.trap { cause := c, addr := addr })
def abortM {α : Type} (c : Cause) : M α := throw (.abort c)
def waitM {α : Type} (w : Wait) : M α := throw (.wait w [])

/-- A fault with a cause unless the condition holds. -/
def checkM (c : Bool) (e : Cause) (addr : DWord := 0) : M Unit := if c then pure () else trapM e addr

/-- Runs an effect over a list from left to right. -/
def forM_ {α : Type} (l : List α) (f : α → M Unit) : M Unit :=
  match l with
  | [] => pure ()
  | x :: xs => do f x; forM_ xs f

/-- Runs an effect over a list and collects the answers. -/
def mapM_ {α β : Type} (l : List α) (f : α → M β) : M (List β) :=
  match l with
  | [] => pure []
  | x :: xs => do
    let y ← f x
    let ys ← mapM_ xs f
    pure (y :: ys)

end Sys2Proof.Machine
end

