-- ==== Sys2Proof/Machine/Global.lean ====
section
/-! DEFINITION. Global memory as an access meets it: translation (28 R468 to R476), the home slices and the L2 (03 R88; 29 R487
to R489), the decoded views (03 R89 to R92), the L1 (03 R86, R87), forwarded accesses (03 R93 to R95), releases and acquires
(04 R103 to R105). -/

namespace Sys2Proof.Machine

/-! ### Home slices (29 R487, R489) -/

/-- Bytes of a stack: 48 GiB. -/
def stackBytes : Nat := 0xC00000000

/-- Device memory ends here (03 R85). -/
def deviceBytes : Nat := 0x6000000000

/-- The vein whose stack range holds a device physical address (29 R487). -/
def MemSys.veinOfPa (m : MemSys) (pa : Nat) : Nat :=
  let d := pa / stackBytes
  if ((m.veins[2 * d + 1]?).map (fun v => v.hash.en)).getD false && pa % stackBytes ≥ 0x600000000 then 2 * d + 1 else 2 * d

/-- The positions of the set bits of a mask, upward. -/
def setBits (m : Nat) (n : Nat) : List Nat := (List.range n).filter (fun k => m.testBit k)

/-- h of R489: SALT XOR the nibbles P[4k+9:4k+6], k = 0 to 10. -/
def sliceHash (salt pa : Nat) : Nat := (List.range 11).foldl (fun h k => h ^^^ (pa / 2 ^ (4 * k + 6) % 16)) salt

/-- The home slice of a device physical address, 16 × die + slice (29 R489). -/
def MemSys.homeSlice (m : MemSys) (pa : Nat) : Nat :=
  match m.veins[m.veinOfPa pa]? with
  | some v =>
    let bits := setBits v.hash.mask.toNat 16
    16 * (pa / stackBytes) + bits.getD (sliceHash v.hash.salt.toNat pa % bits.length) 0
  | none => 0

/-- A vein a core belongs to: VEINID (01 R33; 29 R487). -/
def State.veinOfCore (s : State) (core : Nat) : Nat :=
  let d := dieOf core
  if ((s.mem.veins[2 * d + 1]?).map (fun v => v.hash.en)).getD false && core % 64 ≥ 32 then 2 * d + 1 else 2 * d

/-- Whether the vein that homes an address is held (19 R416). -/
def MemSys.heldAt (m : MemSys) (pa : Nat) : Bool :=
  ((m.veins[m.veinOfPa pa]?).map (fun v => v.hold.isSome)).getD false

/-! ### Lines at the L2. A line number is PA ÷ 64, plus 2^46 for a line of the decoded view. -/

def viewLine : Nat := 2 ^ 46

/-- The line number of a physical address in a view. -/
def lineNo (pa : Nat) (view : Bool) : Nat := pa / 64 + (if view then viewLine else 0)

/-- The physical address of a line. -/
def linePa (line : Nat) : Nat := line % viewLine * 64

/-- The L2 line that stands in its present home slice. -/
def MemSys.l2At (m : MemSys) (line : Nat) : Option L2Line :=
  let sl := m.homeSlice (linePa line)
  m.l2.find? (fun l => l.slice == sl && l.line == line)

/-- A raw byte as the L2 or the memory behind it holds it (03 R88). -/
def MemSys.rawByte (m : MemSys) (pa : Nat) : Byte :=
  match m.l2At (pa / 64) with
  | some l => BitVec.ofNat 8 (lineBytes l.data (pa % 64) 1)
  | none => m.hbm.get pa

/-- n raw bytes, little-endian. -/
def MemSys.rawN (m : MemSys) (pa : Nat) : Nat → Nat
  | 0 => 0
  | n + 1 => (m.rawByte pa).toNat + 256 * MemSys.rawN m (pa + 1) n

/-! ### Format regions (03 R89 to R92; 29 R493) -/

def Region.nf (r : Region) : Nf :=
  match r.fmt.toNat with
  | 0 => .e4m3
  | 1 => .e5m2
  | 2 => .i8
  | 3 => .i4
  | _ => .cb4

/-- The elements of a region: n = (FRLIMIT − FRBASE) × 8 ÷ b. -/
def Region.count (r : Region) : Nat := (r.limit.toNat - r.base.toNat) * 8 / r.nf.bits

/-- SADDR as an address. -/
def Region.side (r : Region) : Nat := r.saddr.toNat * 64

/-- Whether a physical address lies in the region's decoded extent. -/
def Region.covers (r : Region) (pa : Nat) : Bool := r.en && r.base.toNat ≤ pa && pa < r.base.toNat + 2 * r.count

/-- The region that decides a decoded address: the lowest-numbered enabled one (03 R89). -/
def MemSys.regionAt (m : MemSys) (pa : Nat) : Option Region := m.regions.find? (fun r => r.covers pa)

/-- The first element of a decoded line of a region. -/
def Region.elemAt (r : Region) (line : Nat) : Nat := (linePa line - r.base.toNat) / 2

/-- The codebook of a region: 32 bytes at SADDR (29 R494). -/
def MemSys.regionBook (m : MemSys) (r : Region) : List (BitVec 16) :=
  if r.nf == .cb4 then (List.range 16).map (fun k => BitVec.ofNat 16 (m.rawN (r.side + 2 * k) 2)) else []

/-- The block scale of element i (29 R494; 05 R132). -/
def MemSys.regionScale (m : MemSys) (r : Region) (i : Nat) : Option Nat :=
  if r.scaled then some (m.rawByte (r.side + i / 32)).toNat else none

/-- The raw code of element i (05 R130). -/
def MemSys.rawCode (m : MemSys) (r : Region) (i : Nat) : Nat :=
  if r.nf.bits == 8 then (m.rawByte (r.base.toNat + i)).toNat
  else (m.rawByte (r.base.toNat + i / 2)).toNat / (if i % 2 == 0 then 1 else 16) % 16

/-- Element i decoded and rounded once to BF16 by RNE; a CB4 code gives its entry as it stands (03 R90). -/
def MemSys.decodeElem (m : MemSys) (r : Region) (i : Nat) : Nat :=
  if r.nf == .cb4 then ((m.regionBook r).getD (m.rawCode r i) 0).toNat
  else (bf16.ofVal {} (r.nf.scaledVal (m.regionBook r) (m.rawCode r i) (m.regionScale r i))).1

/-- A decoded line, formed from the raw codes it covers (03 R90). -/
def MemSys.decodedLine (m : MemSys) (r : Region) (line : Nat) : BitVec 512 :=
  let i0 := r.elemAt line
  BitVec.ofNat 512 ((List.range 32).foldr (fun k acc => 65536 * acc + m.decodeElem r (i0 + k)) 0)

/-- The raw lines that hold a line's codes: itself, or those a decoded line covers (03 R90). -/
def MemSys.codeLines (m : MemSys) (line : Nat) : List Nat :=
  if line < viewLine then [line]
  else match m.regionAt (linePa line) with
    | some r =>
      let a := r.base.toNat + r.elemAt line * r.nf.bits / 8
      [a / 64, (a + 4 * r.nf.bits - 1) / 64].eraseDups
    | none => []

/-- The lines of the side area that a decoded line is formed from: its block scales and its codebook (29 R494). -/
def MemSys.sideLines (m : MemSys) (line : Nat) : List Nat :=
  if line < viewLine then []
  else match m.regionAt (linePa line) with
    | some r =>
      let i := r.elemAt line
      ((if r.scaled then [(r.side + i / 32) / 64, (r.side + (i + 31) / 32) / 64] else [])
        ++ (if r.nf == .cb4 then [r.side / 64] else [])).eraseDups
    | none => []

/-- The raw lines behind a line: those of its codes and of its side area. -/
def MemSys.behind (m : MemSys) (line : Nat) : List Nat := m.codeLines line ++ m.sideLines line

/-- Lines that the host holds are recalled before the device accesses them (27 R460). -/
def MemSys.recall (m : MemSys) (line : Nat) : MemSys :=
  if m.hostLines.isEmpty then m
  else
    let ls := m.hostLines.filter (fun l => (m.behind line).contains l)
    { m with hostLines := m.hostLines.filter (fun l => !ls.contains l), recalls := ls ++ m.recalls }

/-- A line filled into its home slice, stamped with the slice clock (03 R88). -/
def MemSys.l2Fill (m : MemSys) (line : Nat) : L2Line × MemSys :=
  let m := m.recall line
  match m.l2At line with
  | some l => (l, m)
  | none =>
    let sl := m.homeSlice (linePa line)
    let data := if line < viewLine then m.hbm.getLine (linePa line)
      else match m.regionAt (linePa line) with
        | some r => m.decodedLine r line
        | none => 0
    let l : L2Line := { slice := sl, line := line, data := data, dirty := 0, ver := BitVec.ofNat 16 (m.clocks.getD sl 0) }
    (l, { m with l2 := m.l2 ++ [l] })

/-- A write performed at the home slice: the clock advances and stamps the line; a write of the whole line clears poison
(03 R88; 32 R517). -/
def MemSys.l2Write (m : MemSys) (line : Nat) (mask : BitVec 64) (d : BitVec 512) : MemSys :=
  let (l, m) := m.l2Fill line
  let c := m.clocks.getD l.slice 0 + 1
  let l' := { l with data := mergeLine l.data d mask, dirty := l.dirty ||| mask, ver := BitVec.ofNat 16 c }
  { m with
    l2 := m.l2.map (fun k => if k.slice == l.slice && k.line == line then l' else k)
    clocks := updAt m.clocks l.slice (fun _ => c)
    poison := if mask == BitVec.allOnes 64 then m.poison.filter (fun p => p != line) else m.poison }

/-- A raw code of an element stored (03 R91; 05 R130). -/
def MemSys.putCode (m : MemSys) (r : Region) (i code : Nat) : MemSys :=
  let a := if r.nf.bits == 8 then r.base.toNat + i else r.base.toNat + i / 2
  let v := if r.nf.bits == 8 then code
    else
      let old := (m.rawByte a).toNat
      if i % 2 == 0 then old / 16 * 16 + code % 16 else old % 16 + 16 * (code % 16)
  m.l2Write (a / 64) (byteMask (a % 64) 1) (lineOf (a % 64) 1 v)

/-- The line of raw codes of an element of a decoded line that is poisoned is poisoned by the write-back (32 R517). -/
def MemSys.taint (m : MemSys) (r : Region) (line i : Nat) : MemSys :=
  let a := (r.base.toNat + i * r.nf.bits / 8) / 64
  if m.poison.contains line && !m.poison.contains a then { m with poison := m.poison ++ [a] } else m

/-- The dirty elements of a decoded line, from element k on, encoded into the raw codes (03 R91, R92). -/
def MemSys.encodeFrom (m : MemSys) (r : Region) (l : L2Line) (which : Nat → Bool) : Nat → Nat → MemSys
  | 0, _ => m
  | n + 1, k =>
    let i := r.elemAt l.line + k
    let m := if (l.dirty.getLsbD (2 * k) || l.dirty.getLsbD (2 * k + 1)) && which i then
        (m.putCode r i (r.nf.encodeRegion (m.regionBook r) (m.regionScale r i) (bf16.decode (lineBytes l.data (2 * k) 2)))).taint r l.line i
      else m
    MemSys.encodeFrom m r l which n (k + 1)

/-- Only a decoded line that the L2 holds is marked: what it is decoded from has marks of its own (32 R517). -/
def MemSys.sweepPoison (m : MemSys) : MemSys :=
  { m with poison := m.poison.filter (fun n => n < viewLine || m.l2.any (fun l => l.line == n)) }

/-- A line leaves the L2: dirty raw bytes go to memory, dirty decoded elements to the raw codes (03 R91; 19 R415). -/
def MemSys.l2Drop (m : MemSys) (slice line : Nat) : MemSys :=
  match m.l2.find? (fun l => l.slice == slice && l.line == line) with
  | none => m
  | some l =>
    let m := { m with l2 := m.l2.filter (fun k => !(k.slice == slice && k.line == line)) }
    if line < viewLine then { m with hbm := m.hbm.setLine (linePa line) l.data l.dirty }
    else (match m.regionAt (linePa line) with
      | some r => m.encodeFrom r l (fun _ => true) 32 0
      | none => m).sweepPoison

/-- Lines a slice holds: 2 MiB of 64 bytes (00 R2). -/
def sliceLines : Nat := 32768

/-- Whether the L2 may give a line up: it keeps the locked ones, and the versions that open transactions have logged (06 R157 to
R159; 21 R428). -/
def State.mayDrop (s : State) (line : Nat) : Bool :=
  !s.mem.locks.any (fun k => k.line == line) && !s.fibres.any (fun f => (f.tx.map (fun t => t.reads.any (fun r => r.line == line))).getD false)

/-- The oldest lines of slices that hold too many give way [12]. -/
def State.trimFrom (s : State) : List L2Line → State
  | [] => s
  | l :: r =>
    if sliceLines < (s.mem.l2.filter (fun k => k.slice == l.slice)).length && s.mayDrop l.line then
      State.trimFrom { s with mem := s.mem.l2Drop l.slice l.line } r
    else s.trimFrom r

def State.trim (s : State) : State := if s.mem.l2.length ≤ sliceLines then s else s.trimFrom s.mem.l2

/-! ### Whose access -/

/-- On whose behalf a global access is made. -/
structure Who where
  core : Nat
  queue : Nat
  launch : Nat
  fibre : FibreId
  pc : Word
  /-- Launch, team and rank, for the victim tags (02 R58); none for item fibres and engines. -/
  user : Option (Nat × Nat × Nat)
  engine : Bool := false
  /-- The walk has waited 100 µs (28 R471). -/
  timeout : Bool := false
  /-- Its own accesses pass a hold (19 R416: L2WB, GETP and SETP do). -/
  throughHold : Bool := false
  /-- A transactional load waits for no lock: R159 names plain accesses and first phases. -/
  throughLock : Bool := false
  /-- It is a TST's, of this tile (18 R374, R375). -/
  tile : Option Nat := none
  /-- The store is an Assay record's: its fault is the completion record's (11 R233). -/
  assay : Bool := false
  /-- It is an RLD, whose request is of 8 bytes (03 R94). -/
  rld : Bool := false
  /-- HINT of its instruction (13 R272). -/
  hint : Nat := 0
deriving DecidableEq, Repr, Inhabited

/-- A translated address: where it lies, and the leaf that maps it. -/
structure Phys where
  loc : Nat
  peer : Nat
  pa : Nat
  view : Bool
  leaf : Nat
deriving DecidableEq, Repr, Inhabited

/-- Whether a fibre's ordered iteration is earlier than that of a lock's holder in one ordered domain: an irrevocable ordered
iteration's locks refuse every party but those (06 R162, R167). -/
def State.earlierIter (s : State) (mine other : FibreId) : Bool :=
  match mine.crew, other.crew with
  | .team l t _, .team k u _ =>
    match (s.fibre? mine).bind Fibre.tx, (s.fibre? other).bind Fibre.tx with
    | some a, some b =>
      (match a.iter, b.iter with
        | some m, some n => l == k && t == u && n != m && (n - m).toNat < 2 ^ 23
        | _, _ => false)
    | _, _ => false
  | _, _ => false

/-- The fibre whose lock on a line refuses a fibre (06 R159, R162). -/
def State.lockedBy (s : State) (i : FibreId) (line : Nat) : Option FibreId :=
  (s.mem.locks.find? (fun k => k.line == line && k.owner != i && !s.earlierIter i k.owner)).map LineLock.owner

/-- The checks an access makes at its home slice: REPLAY under a hold, and a lock of another party (19 R416; 06 R159). -/
def gate (who : Who) (line : Nat) : M Unit := do
  let s ← get
  if s.mem.heldAt (linePa line) && !who.throughHold then waitM .line
  if !who.throughLock && (s.lockedBy who.fibre line).isSome then waitM .line

/-- Whether a line is marked by an uncorrectable error, or a line that a read of it uses (32 R517). -/
def MemSys.bad (m : MemSys) (line : Nat) : Bool := (line :: m.behind line).any (fun l => m.poison.contains l)

/-- A line read at its home slice; a poisoned one reports SYS.UNCORR (03 R85; 32 R517). -/
def l2Read (who : Who) (line : Nat) (va : DWord) : M (BitVec 512) := do
  gate who line
  let s ← get
  checkM (!s.mem.bad line) sysUncorr va
  let (l, m) := s.mem.l2Fill line
  modify (fun s => { s with mem := m })
  pure l.data

/-- Bytes written at the home slice. -/
def l2Store (who : Who) (line : Nat) (mask : BitVec 64) (d : BitVec 512) : M Unit := do
  gate who line
  modify (fun s => { s with mem := s.mem.l2Write line mask d })

/-! ### L1 (03 R86, R87; 02 R58, R60) -/

/-- Whether a core's cluster is fused (03 R87). -/
def State.fusedAt (s : State) (core : Nat) : Bool := (s.core core).fused.isSome

/-- The core whose L1 holds a line for accesses of a core (03 R87). -/
def State.l1Core (s : State) (core line : Nat) : Nat := if s.fusedAt core then core / 4 * 4 + line % 4 else core

/-- The cores whose L1s hold a core's lines. -/
def State.l1Cores (s : State) (core : Nat) : List Nat := if s.fusedAt core then clusterOf core else [core]

/-- The sum of a team's scores (02 R60). -/
def Team.scoreSum (t : Team) : Nat := t.scores.foldl (fun a p => a + p.2) 0

/-- ACTIVE after a change of scores or policy (02 R60). -/
def Team.throttle (t : Team) : Team :=
  if !t.polEn then { t with polActive := false }
  else if t.polActive then { t with polActive := t.scoreSum > t.thresh.toNat / 2 }
  else { t with polActive := t.scoreSum > t.thresh.toNat }

/-- A score raised by 1, saturating at 4,095 (02 R58). -/
def bumpScore (l : List (Nat × Nat)) (rank : Nat) : List (Nat × Nat) :=
  if l.any (fun p => p.1 == rank) then l.map (fun p => if p.1 == rank then (rank, min (p.2 + 1) 4095) else p)
  else l ++ [(rank, 1)]

/-- Before scores come to a core whose scores are all 0, the halvings that its cycles have brought are made (02 R58) [68]. -/
def State.catchUp (s : State) (core : Nat) : State :=
  if (s.teams.filter (fun t => t.core == core)).all (fun t => t.scores.isEmpty) then
    s.setCore core (fun c => { c with halved := s.clk.cycles.getD (dieOf core) 0 / 1024 })
  else s

/-- An L1 miss that hits the victim tag array, of the core or of its slice of a fused L1 (02 R58, R60). -/
def State.victimHit (s : State) (core line : Nat) : State :=
  match (s.core core).victims.find? (fun v => v.line == line) with
  | none => s
  | some v =>
    let s := s.setCore core (fun c => { c with victims := c.victims.filter (fun w => w.line != line) })
    match s.team? v.launch v.team with
    | some t => if t.polActive || coreCount ≤ t.core then s
      else (s.catchUp t.core).setTeam (Team.throttle { t with scores := bumpScore t.scores v.rank })
    | none => s

/-- The dirty bytes of an L1 line written back; a poisoned line is poisoned at its home too (32 R517). -/
def l1Back (who : Who) (l : L1Line) : M Unit := do
  l2Store who l.line l.dirty l.data
  if l.poison then modify (fun s => { s with mem := { s.mem with poison := l.line :: s.mem.poison.filter (fun p => p != l.line) } })

/-- An L1 line is given up: its dirty bytes are written back and its tag enters the victim array (03 R86; 02 R58). The entry names a
team and a rank: a line that an item fibre or an engine accessed last makes none [93]. -/
def l1Evict (who : Who) (core : Nat) (l : L1Line) : M Unit := do
  if l.dirty != 0 then l1Back who l
  let tag : List Victim := match l.user with
    | some (ln, tm, rk) => [{ line := l.line, launch := ln, team := tm, rank := rk }]
    | none => []
  modify (fun s => s.setCore core (fun c =>
    let vs := c.victims ++ tag
    { c with l1 := c.l1.filter (fun k => k.line != l.line), victims := vs.drop (vs.length - 512) }))

/-- Lines an L1 holds: 128 KiB of 64 bytes (00 R2). -/
def l1Lines : Nat := 2048

/-- The line that a full L1 gives up: the oldest `.stream` line, else the oldest that is not `.keep`, else the oldest (13 R272) [10]. -/
def l1Oldest (ls : List L1Line) : Option L1Line :=
  ls.find? (fun l => l.hint == 1) <|> ls.find? (fun l => l.hint != 2) <|> ls.head?

/-- A line put into an L1; one gives way when it is full. -/
def l1Put (who : Who) (core : Nat) (l : L1Line) : M Unit := do
  let s ← get
  let c := s.core core
  if c.l1.any (fun k => k.line == l.line) then
    modify (fun s => s.setCore core (fun c => { c with l1 := c.l1.map (fun k => if k.line == l.line then l else k) }))
  else
    match l1Oldest c.l1 with
    | some old => if c.l1.length ≥ l1Lines then l1Evict who core old
    | none => pure ()
    modify (fun s => s.setCore core (fun c => { c with l1 := c.l1 ++ [l] }))

/-- n bytes of a line read through the L1. A line that is poisoned there, or behind it, reports SYS.UNCORR, unless the L1 holds the whole
line written anew (32 R517). -/
def l1Read (who : Who) (line k n : Nat) (va : DWord) : M Nat := do
  let s ← get
  let core := s.l1Core who.core line
  let m := byteMask k n
  match (s.core core).l1.find? (fun l => l.line == line) with
  | some l =>
    checkM (!l.poison && (l.dirty == BitVec.allOnes 64 || !s.mem.bad line)) sysUncorr va
    if l.valid &&& m == m then
      l1Put who core { l with user := who.user, hint := who.hint }
      pure (lineBytes l.data k n)
    else
      let d ← l2Read who line va
      let d := mergeLine d l.data l.valid
      l1Put who core { l with data := d, valid := BitVec.allOnes 64, user := who.user, hint := who.hint }
      pure (lineBytes d k n)
  | none =>
    let d ← l2Read who line va
    modify (fun s => s.victimHit core line)
    l1Put who core { line := line, data := d, valid := BitVec.allOnes 64, dirty := 0, user := who.user, hint := who.hint }
    pure (lineBytes d k n)

/-- Bytes of a line written into the L1; they stay dirty there (03 R86). -/
def l1Write (who : Who) (line : Nat) (mask : BitVec 64) (d : BitVec 512) : M Unit := do
  let s ← get
  let core := s.l1Core who.core line
  match (s.core core).l1.find? (fun l => l.line == line) with
  | some l =>
    l1Put who core { l with data := mergeLine l.data d mask, valid := l.valid ||| mask, dirty := l.dirty ||| mask
                            user := who.user, poison := l.poison && mask != BitVec.allOnes 64, hint := who.hint }
  | none =>
    modify (fun s => s.victimHit core line)
    l1Put who core { line := line, data := d, valid := mask, dirty := mask, user := who.user, hint := who.hint }

/-- A line of the L1 written back and given up, before the core's own access at the L2 (04 R100; 17 R347). -/
def l1Flush (who : Who) (line : Nat) : M Unit := do
  let s ← get
  let core := s.l1Core who.core line
  match (s.core core).l1.find? (fun l => l.line == line) with
  | some l =>
    if l.dirty != 0 then l1Back who l
    modify (fun s => s.setCore core (fun c => { c with l1 := c.l1.filter (fun k => k.line != line) }))
  | none => pure ()

/-- Dirty bytes of the chosen lines of a core's L1 written back. -/
def wbLines (who : Who) (core : Nat) (which : Nat → Bool) : M Unit := do
  let s ← get
  forM_ ((s.core core).l1.filter (fun l => l.dirty != 0 && which l.line)) (fun l => do
    l1Back who l
    modify (fun s => s.setCore core (fun c => { c with l1 := c.l1.map (fun k => if k.line == l.line then { k with dirty := 0 } else k) })))

/-- Every dirty byte of a core's L1 written back (04 R104; R122). -/
def wbCore (who : Who) (core : Nat) : M Unit := wbLines who core (fun _ => true)

/-- What an L1 keeps when its clean bytes are invalidated: its dirty bytes (04 R104). -/
def keepDirty (ls : List L1Line) : List L1Line :=
  (ls.filter (fun l => l.dirty != 0)).map (fun l => { l with valid := l.dirty })

/-- A core's L1 gives up its clean bytes (04 R104). -/
def State.invalidateCore (s : State) (core : Nat) : State := s.setCore core (fun c => { c with l1 := keepDirty c.l1 })

/-- Whether an operation at a scope reaches beyond the core: VEIN and wider, GANG in a cluster that is not fused, and every
scope of an item fibre (04 R97, R104). -/
def State.wide (s : State) (who : Who) (scope : Nat) : Bool :=
  scope ≥ 3 || who.fibre.crew.isItem || (scope == 2 && !s.fusedAt who.core)

/-- A span-scope operation waits for GO (01 R39). -/
def spanGate (who : Who) (scope : Nat) : M Unit := do
  let s ← get
  match (s.launch? who.launch).bind Launch.span with
  | some sp => if scope ≥ 5 && sp.phase != .running then waitM .span
  | none => pure ()

/-- Whether a forwarded store, by name, is still to be acknowledged (04 R127). -/
def State.isOut (s : State) (id : Nat) : Bool := s.fwds.any (fun r => r.posted && r.id == id)

/-- The forwarded stores of a fibre that are not acknowledged. -/
def State.outstanding (s : State) (i : FibreId) : List Nat := (s.fwds.filter (fun r => r.posted && r.fibre == i)).map Fwd.id

/-- Whether a fibre has stores that are not acknowledged, refused ones that are still to be taken included (04 R127). -/
def State.storesOut (s : State) (i : FibreId) : Bool :=
  s.fwds.any (fun r => r.posted && r.fibre == i) ||
    ((s.fibre? i).map (fun f => f.dues.any (fun d => match d.2 with
      | .stores .. => true
      | _ => false))).getD false

/-- Whether a fibre has such stores, or a release held behind them. -/
def State.storesOpen (s : State) (i : FibreId) : Bool :=
  s.storesOut i || ((s.fibre? i).map (fun f => !f.held.isEmpty)).getD false

/-- A release: dirty L1 bytes go to the L2, and the fibre's forwarded stores have been acknowledged (04 R104, R105, R127). -/
def release (who : Who) (scope : Nat) : M Unit := do
  let s ← get
  if s.storesOpen who.fibre then waitM .stores
  if s.wide who scope then forM_ (s.l1Cores who.core) (fun c => wbCore who c)

/-- An acquire: the core's clean L1 lines are invalidated (04 R104). -/
def acquire (who : Who) (scope : Nat) : M Unit :=
  modify (fun s => if s.wide who scope then (s.l1Cores who.core).foldl State.invalidateCore s else s)

/-! ### Page tables (28 R468 to R476) -/

/-- A page-table entry (28 R469). -/
structure Pte where
  v : Bool
  leaf : Bool
  w : Bool
  loc : Nat
  mig : Bool
  acc : Nat
  pa : Nat
  rsv : Bool
  peer : Nat
deriving DecidableEq, Repr, Inhabited

/-- The fields of an entry. -/
def Pte.ofNat (x : Nat) : Pte where
  v := x.testBit 0
  leaf := x.testBit 1
  w := x.testBit 2
  loc := x / 32 % 4
  mig := x.testBit 7
  acc := x / 256 % 256
  pa := x / 32768 % 2 ^ 37 * 32768
  rsv := x / 2 ^ 52 % 16 != 0
  peer := x / 2 ^ 56 % 256

/-- Bytes a leaf at a level maps (28 R468). -/
def pageBytes (level : Nat) : Nat := 32768 * 4096 ^ level

/-- Whether a range lies wholly in device memory (03 R85). -/
def inDevice (pa n : Nat) : Bool := pa + n ≤ deviceBytes

/-- Whether an entry with V = 1 and a LOC other than 3 maps nothing all the same: a level-0 entry with LEAF = 0, PA bits that must be 0,
reserved bits, memory that this device does not have, a peer that there is not (28 R471). -/
def Pte.bad (e : Pte) (level : Nat) : Bool :=
  (level == 0 && !e.leaf) || (e.leaf && e.pa % pageBytes level != 0) || e.rsv
    || (e.loc == 0 && !inDevice e.pa (if e.leaf then pageBytes level else 32768)) || (e.loc == 2 && e.peer > 191)

/-- The same of QPTBR, in which only V, LOC, PA and, when LOC is 2, PEER may be set (28 R470). -/
def badRoot (x : Nat) : Bool :=
  let e := Pte.ofNat x
  x / 2 % 16 != 0 || x / 128 % 256 != 0 || e.rsv || (e.loc != 2 && e.peer != 0) || e.peer > 191 || (e.loc == 0 && !inDevice e.pa 32768)

/-- An entry's place as one number: PA + LOC × 2^52 + PEER × 2^54. -/
def placeNo (loc peer pa : Nat) : Nat := pa + loc * 2 ^ 52 + peer * 2 ^ 54

/-- The fibre name that stands for the walker's own posted atomics. -/
def walkerId (core : Nat) : FibreId := ⟨.item 0 core 99, 0⟩

/-- How many of a core's 1,024 request entries are free (03 R94). -/
def State.entriesLeft (s : State) (core : Nat) : Nat :=
  1024 - (s.fwds.filter (fun r => r.core == core && (r.reply.isNone && !r.dead || r.host))).length

/-- Whether an owner is dead for a launch: declared dead, or this device was while the launch ran (31 R507, R508). -/
def State.ownerDead (s : State) (launch dev : Nat) : Bool :=
  !(((s.fabric.agents[dev]?).map Agent.live).getD false) || ((s.launch? launch).map Launch.cut).getD false

/-- An access to a page that another device of the launch's span owns waits for GO (01 R39). -/
def ownerGate (who : Who) (dev : Nat) : M Unit := do
  let s ← get
  match (s.launch? who.launch).bind Launch.span with
  | some sp => if sp.agents.contains dev && sp.phase != .running then waitM .span
  | none => pure ()

/-- A forwarded access: its answer if it has come, else the wave waits and the request goes out (03 R93, R95). What an instruction
forwards is answered in order: each answer serves one access of it. An owner that is dead refuses what it has not answered (31 R507,
R508); a request to it is recorded as refused, so that the directory counts it with the others (28 R474). -/
def forward (who : Who) (dev pa bytes : Nat) (va : DWord) (op : FwdOp) (leaf : Option Nat := none) : M Reply := do
  let s ← get
  match s.fwds.find? (fun r => !r.posted && !r.used && r.fibre == who.fibre && r.pa == pa && r.dev == dev && r.bytes == bytes && r.op == op) with
  | some r =>
    match r.reply with
    | some .nak => trapM memRemoteNak va
    | some .frozen => trapM memFrozen va
    | some .uncorr => trapM sysUncorr va
    | some x => do
      modify (fun s => { s with fwds := s.fwds.map (fun q => if q.id == r.id then { q with used := true } else q) })
      pure x
    | none => if r.dead || s.ownerDead who.launch dev then trapM memOwnerDead va else waitM .remote
  | none =>
    let dead := s.ownerDead who.launch dev
    if dead && leaf.isNone then trapM memOwnerDead va
    if !dead then
      if !s.fabric.go then waitM .remote
      ownerGate who dev
    throw (.wait .remote [{ id := 0, fibre := who.fibre, core := who.core, dev := dev, pa := pa, va := va, bytes := bytes
                            op := op, pc := who.pc, posted := false, dead := dead, tile := who.tile, launch := who.launch, leaf := leaf }])

/-- The value of a reply. -/
def replyVal : Reply → Nat
  | .data v => v.toNat
  | _ => 0

/-- 8 bytes of a page-table node, read where the node lies (28 R471). -/
def readNode (who : Who) (loc peer pa : Nat) (va : DWord) : M Nat := do
  match loc with
  | 0 =>
    let d ← l2Read who (pa / 64) va
    pure (lineBytes d (pa % 64) 8)
  | 1 => do
    let s ← get
    pure (s.mem.host.getN pa 8)
  | _ => do
    let r ← forward who peer (pa / 64 * 64) 64 va .read
    pure (lineBytes (BitVec.ofNat 512 (replyVal r)) (pa % 64) 8)

/-- The request of a posted change of 8 bytes: a write goes at line grain (03 R93). -/
def nodeWire (pa : Nat) : FwdOp → Nat × Nat × FwdOp
  | .write m v => (pa / 64 * 64, 64, .write (m <<< (pa % 64)) (v <<< (8 * (pa % 64))))
  | op => (pa, 8, op)

/-- An atomic change of an entry at its home (28 R472, R474; 19 R417); an owner that is dead refuses it (31 R507). -/
def changeNode (who : Who) (loc peer pa : Nat) (f : Nat → Nat) (remote : FwdOp) (va : DWord := 0) : M Unit := do
  match loc with
  | 0 =>
    let d ← l2Read who (pa / 64) 0
    l2Store who (pa / 64) (byteMask (pa % 64) 8) (lineOf (pa % 64) 8 (f (lineBytes d (pa % 64) 8)))
  | 1 => modify (fun s => { s with mem := { s.mem with host := s.mem.host.setN pa 8 (f (s.mem.host.getN pa 8)) } })
  | _ => do
    let s ← get
    if s.ownerDead who.launch peer then trapM memOwnerDead va
    if !s.fabric.go then waitM .remote
    modify (fun s =>
      let (i, s) := s.newId
      let (at_, n, op) := nodeWire pa remote
      let r : Fwd := { id := i, fibre := walkerId who.core, core := who.core, dev := peer, pa := at_, va := 0, bytes := n, op := op
                       pc := 0, posted := true, launch := who.launch }
      State.send { s with fwds := s.fwds ++ [r] } (.request i))

/-- The change of an entry named by its place number. -/
def changeLeaf (who : Who) (leaf : Nat) (f : Nat → Nat) (remote : FwdOp) (va : DWord := 0) : M Unit :=
  changeNode who (leaf / 2 ^ 52 % 4) (leaf / 2 ^ 54) (leaf % 2 ^ 52) f remote va

/-- A TLB with an entry added, the newest last, at most n [11]. -/
def addTlb (n : Nat) (l : List TlbEntry) (e : TlbEntry) : List TlbEntry :=
  let l := (l.filter (fun k => !(k.queue == e.queue && k.page == e.page && k.level == e.level))) ++ [e]
  l.drop (l.length - n)

/-- A translation installed in the TLB of the access and in the die TLB (28 R475). -/
def State.installTlb (s : State) (who : Who) (e : TlbEntry) : State :=
  let s := s.setCore who.core (fun c =>
    if who.engine then { c with walkAhead := addTlb 512 c.walkAhead e } else { c with tlb := addTlb 2048 c.tlb e })
  { s with mem := { s.mem with dieTlb := updAt s.mem.dieTlb (dieOf who.core) (fun l => addTlb 65536 l e) } }

/-- Whether a table node lies in a page under migration (28 R471). -/
def MemSys.underMig (m : MemSys) (place : Nat) : Bool := m.migrating.any (fun r => place < r.1 + r.2 && r.1 < place + 32768)

/-- A walk whose next node is under migration waits, up to 100 µs. -/
def nodeGate (who : Who) (loc peer pa level : Nat) (va : DWord) (write : Bool) : M Unit := do
  let s ← get
  if s.mem.underMig (placeNo loc peer pa) then
    if who.timeout then trapM (trans 2 level write) va else waitM .walk

/-- A walk from a node down the levels given (28 R471); the answer is the translation, installed. -/
def walkFrom (who : Who) (va : DWord) (page : Nat) (write : Bool) (loc peer node : Nat) : List Nat → M TlbEntry
  | [] => trapM (trans 0 0 write) va
  | level :: rest => do
    let idx := page / 4096 ^ level % 4096
    let ea := node + 8 * idx
    let s ← get
    let pre := page / 4096 ^ level
    let die := dieOf who.core
    let cached := (s.mem.nodes.getD die []).find? (fun n => n.1 == who.queue && n.2.1 == level && n.2.2.1 == pre)
    let x ← match cached with
      | some n => pure n.2.2.2.toNat
      | none => readNode who loc peer ea va
    let e := Pte.ofNat x
    if !e.v || (e.leaf && e.loc == 3) then trapM (trans 0 level write) va
    if !e.leaf && e.loc == 3 then trapM (trans 1 level write) va
    if e.bad level then trapM (trans 0 level write) va
    if !e.leaf then
      nodeGate who e.loc e.peer e.pa level va write
      if cached.isNone then
        modify (fun s => { s with mem := { s.mem with nodes := updAt s.mem.nodes die (fun l => l ++ [(who.queue, level, pre, BitVec.ofNat 64 x)]) } })
      walkFrom who va page write e.loc e.peer e.pa rest
    else
      if e.mig then
        if who.timeout then trapM (trans 2 level write) va else waitM .walk
      if write && !e.w then trapM (trans 3 level write) va
      -- R472: A is set at every installation.
      changeNode who loc peer ea (fun y => y ||| 8) (.intAtomic 4 2 8) va
      let t : TlbEntry := { queue := who.queue, page := page / 4096 ^ level * 4096 ^ level, level := level, loc := e.loc
                            peer := e.peer, pa := e.pa, w := e.w, leaf := placeNo loc peer ea }
      modify (fun s => s.installTlb who t)
      pure t

/-- A walk (28 R470, R471): QPTBR stands for level 3. -/
def walk (who : Who) (va : DWord) (write : Bool) : M TlbEntry := do
  let s ← get
  let x := (s.queue who.queue).ptbr.toNat
  let e := Pte.ofNat x
  if !e.v then trapM (trans 0 3 write) va
  if e.loc == 3 then trapM (trans 1 3 write) va
  if badRoot x then trapM (trans 0 3 write) va
  nodeGate who e.loc e.peer e.pa 3 va write
  walkFrom who va (va.toNat / 32768 % 2 ^ 35) write e.loc e.peer e.pa [2, 1, 0]

/-- Whether a TLB entry translates a page for a queue. -/
def TlbEntry.hits (e : TlbEntry) (queue page : Nat) : Bool :=
  e.queue == queue && e.page ≤ page && page < e.page + 4096 ^ e.level

/-- What the directory keeps of a leaf, after a change (28 R473, R474). -/
def MemSys.setDir (m : MemSys) (leaf : Nat) (f : DirEntry → DirEntry) : MemSys :=
  if m.dir.any (fun d => d.leaf == leaf) then { m with dir := m.dir.map (fun d => if d.leaf == leaf then f d else d) }
  else { m with dir := m.dir ++ [f { leaf := leaf, count := 0, grants := [] }] }

/-- A grant of write ownership recorded for a page (28 R473). -/
def MemSys.grant (m : MemSys) (leaf page : Nat) : MemSys :=
  m.setDir leaf (fun d => { d with grants := if d.grants.contains page then d.grants else d.grants ++ [page] })

/-- The page of an address (28 R468). -/
def pageOf (va : DWord) : Nat := va.toNat / 32768 % 2 ^ 35

/-- The directory's count for a leaf. -/
def MemSys.countOf (m : MemSys) (leaf : Nat) : Nat := ((m.dir.find? (fun d => d.leaf == leaf)).map DirEntry.count).getD 0
def MemSys.setCount (m : MemSys) (leaf k : Nat) : MemSys := m.setDir leaf (fun d => { d with count := k })

/-- The add to ACC of a leaf, by the directory; the count is what stays when it is accepted, and 63 when its home refuses it. -/
def State.addAcc (s : State) (core launch leaf left : Nat) : State :=
  let who : Who := { core := core, queue := 0, launch := launch, fibre := walkerId core, pc := 0, user := none }
  let put := fun (s : State) (k : Nat) => { s with mem := s.mem.setCount leaf k }
  match (changeLeaf who leaf (fun x => if (Pte.ofNat x).acc == 255 then x else x + 256) (.intAtomic 0 2 256)).run s with
  | .ok (_, t) => put t left
  | .error (.trap _) => put s 63
  | .error _ => s

/-- The 64th counted access of a leaf: ACC is raised by an atomic add at the entry's home and the count restarts. At a peer ACC is read
first, since an add at 255 is skipped. While the home cannot be reached the count stands at 64 or above, and the add is tried again
[49]. -/
def State.raiseAcc (s : State) (core launch leaf : Nat) : State :=
  let n := s.mem.countOf leaf
  let peer := leaf / 2 ^ 54
  if n < 64 then s
  else if leaf / 2 ^ 52 % 4 != 2 then s.addAcc core launch leaf (n - 64)
  else if s.ownerDead launch peer then { s with mem := s.mem.setCount leaf 63 }
  else if !s.fabric.go then s
  else
    let (i, s) := s.newId
    let r : Fwd := { id := i, fibre := walkerId core, core := core, dev := peer, pa := leaf % 2 ^ 52 / 64 * 64, va := 0, bytes := 64
                     op := .read, pc := 0, posted := false, launch := launch, acc := some leaf }
    { s with mem := s.mem.setCount leaf (n - 64), fwds := s.fwds ++ [r] }.send (.request i)

/-- A forwarded access counted (28 R474). -/
def State.countFwd (s : State) (core launch leaf : Nat) : State :=
  { s with mem := s.mem.setCount leaf (s.mem.countOf leaf + 1) }.raiseAcc core launch leaf

def countForward (who : Who) (leaf : Nat) : M Unit := modify (fun s => s.countFwd who.core who.launch leaf)

/-- The translation of a virtual address (28 R468 to R475; 03 R84). A page written to is granted. -/
def translate (who : Who) (va : DWord) (write : Bool) : M Phys := do
  checkM (va.toNat / 2 ^ 51 == 0) memAddrBits va
  let page := pageOf va
  let s ← get
  let ok := fun (e : TlbEntry) => e.hits who.queue page && (!write || e.w)
  let own := if who.engine then (s.core who.core).walkAhead else (s.core who.core).tlb
  let t ← match own.find? ok with
    | some e => do
      checkM (!e.poison) sysUncorr va
      pure e
    | none => match (s.mem.dieTlb.getD (dieOf who.core) []).find? ok with
      | some e => do
        checkM (!e.poison) sysUncorr va
        changeLeaf who e.leaf (fun y => y ||| 8) (.intAtomic 4 2 8) va
        modify (fun s => s.installTlb who e)
        pure e
      | none => walk who va write
  if write && t.loc == 0 then modify (fun s => { s with mem := s.mem.grant t.leaf page })
  pure { loc := t.loc, peer := t.peer, pa := t.pa + va.toNat % 2 ^ 50 % pageBytes t.level, view := va.getLsbD 50, leaf := t.leaf }

/-! ### Accesses -/

/-- Where an access to device memory is performed: through the L1; at the L2, with the core's own line given up first; or at the L2
by an engine. -/
inductive Path where
  | l1 | l2 | engine
deriving DecidableEq, Repr, Inhabited

/-- The checks of 17 R344 and 03 R84 in their order: address bits, then alignment. -/
def checkGlobal (va : DWord) (bytes : Nat) : M Unit := do
  checkM (va.toNat / 2 ^ 51 == 0) memAddrBits va
  checkM (va.toNat % bytes == 0) (memAlign 0) va

/-- A decoded access must lie in an enabled region's decoded extent; host memory lies in none (03 R89; 27 R461). -/
def checkView (p : Phys) (va : DWord) : M Unit := do
  let s ← get
  if p.view then
    checkM (p.loc == 2 || (p.loc == 0 && (s.mem.regionAt p.pa).isSome)) memNoView va

/-- An access's physical number on the fabric: the view travels as bit 52. -/
def Phys.wire (p : Phys) : Nat := p.pa + (if p.view then 2 ^ 52 else 0)

/-- The line of an access on the fabric: reads and writes go at line grain (03 R93). -/
def Phys.wireLine (p : Phys) : Nat := p.wire / 64 * 64

/-- Bytes written at line grain. -/
def lineWrite (k n v : Nat) : FwdOp := .write (byteMask k n) (lineOf k n v)

/-- An access to host memory takes a request entry of its core, too; the lanes of an instruction hold theirs together (03 R94). -/
def entryGate (who : Who) (p : Phys) : M Unit := do
  let s ← get
  if s.entriesLeft who.core == 0 then waitM .remote
  if !who.engine && who.tile.isNone then
    modify (fun s => { s with fwds := s.fwds ++ [{ id := 0, fibre := who.fibre, core := who.core, dev := 0, pa := p.pa, va := 0, bytes := 0
                                                   op := .read, pc := who.pc, posted := false, reply := some .ack, used := true
                                                   launch := who.launch, host := true }] })

/-- A launch's sump and the spill area of its carts, whose reserve has 256 entries even where S is 0: the part's own while it runs, in an
order that the spec does not give (08 R197; 27 R464) [67]. Their places and sizes. -/
def Launch.areas (l : Launch) : List (Nat × Nat) :=
  (if l.sumpSize == 0 then [] else [(l.sumpBase.toNat, 4096 + 48 * l.sumpSize)])
  ++ (if !l.carts then [] else [(l.spillBase.toNat, 4096 + 16 * (if l.det then l.cores else l.nteams) * (256 + l.spill))])

/-- Whether an address lies in memory whose contents the spec leaves undefined: a grid's memory (09 R204), the first 4,096
bytes of a family, whose layout belongs to the part (10 R214), and a running launch's sump and spill area. -/
def State.undefinedAt (s : State) (queue : Nat) (va : DWord) : Bool :=
  s.launches.any (fun l => l.queue == queue && l.areas.any (fun a => a.1 ≤ va.toNat && va.toNat < a.1 + a.2)) ||
  s.grids.any (fun g => g.queue == queue && g.base.toNat ≤ va.toNat && va.toNat < g.base.toNat + g.bytes) ||
  s.families.any (fun f => f.queue == queue && f.state != 0 && f.base.toNat ≤ va.toNat && va.toNat < f.base.toNat + 4096)

/-- The free value of a byte with undefined contents. -/
def freeByte (s : State) (va : DWord) : Nat := (Config.freeWord (s.freeCtr * 2 ^ 64 + va.toNat)).toNat % 256

/-- Bytes from an address with each undefined one a free value. -/
def State.withFree (s : State) (queue : Nat) (va : DWord) (v : Nat) : Nat → Nat
  | 0 => 0
  | n + 1 =>
    (if s.undefinedAt queue va then freeByte s va else v % 256) + 256 * s.withFree queue (va + 1) (v / 256) n

/-- Bytes read at a translated address, within one line. -/
def readRaw (who : Who) (p : Phys) (va : DWord) (bytes : Nat) (path : Path) : M Nat := do
  checkView p va
  let line := lineNo p.pa p.view
  match p.loc with
  | 0 => match path with
    | .l1 => l1Read who line (p.pa % 64) bytes va
    | .l2 => do
      l1Flush who line
      let d ← l2Read who line va
      pure (lineBytes d (p.pa % 64) bytes)
    | .engine => do
      let d ← l2Read who line va
      pure (lineBytes d (p.pa % 64) bytes)
  | 1 => do
    entryGate who p
    countForward who p.leaf
    let s ← get
    pure (s.mem.host.getN p.pa bytes)
  | _ =>
    if who.rld then do
      let r ← forward who p.peer p.wire bytes va .read (some p.leaf)
      pure (replyVal r % 2 ^ (8 * bytes))
    else do
      let r ← forward who p.peer p.wireLine 64 va .read (some p.leaf)
      pure (lineBytes (BitVec.ofNat 512 (replyVal r)) (p.pa % 64) bytes)

/-- Bytes read at a translated address; undefined contents read as a free value. -/
def readPhys (who : Who) (p : Phys) (va : DWord) (bytes : Nat) (path : Path) : M Nat := do
  let v ← readRaw who p va bytes path
  let s ← get
  pure (if s.grids.isEmpty && s.families.isEmpty && s.launches.all (fun l => l.areas.isEmpty) then v else s.withFree who.queue va v bytes)

/-- A posted forwarded store (04 R127). A dead owner refuses it at once (03 R95). -/
def postStore (who : Who) (dev : Nat) (p : Phys) (bytes : Nat) (va : DWord) (v : Nat) : M Unit := do
  let s ← get
  let live := !s.ownerDead who.launch dev
  if live then
    if !s.fabric.go || s.entriesLeft who.core == 0 then waitM .remote
    ownerGate who dev
  modify (fun s =>
    let (i, s) := s.newId
    let r : Fwd := { id := i, fibre := who.fibre, core := who.core, dev := dev, pa := p.wireLine, va := va, bytes := 64
                     op := lineWrite (p.pa % 64) bytes v, pc := who.pc, posted := true, reply := none, dead := !live
                     assay := who.assay, launch := who.launch }
    let s := { s with fwds := s.fwds ++ [r] }
    if live then s.send (.request i) else s)

/-- Bytes written at a translated address, within one line. -/
def writePhys (who : Who) (p : Phys) (va : DWord) (bytes v : Nat) (path : Path) : M Unit := do
  checkView p va
  let line := lineNo p.pa p.view
  let k := p.pa % 64
  match p.loc with
  | 0 => match path with
    | .l1 => l1Write who line (byteMask k bytes) (lineOf k bytes v)
    | .l2 => do
      l1Flush who line
      l2Store who line (byteMask k bytes) (lineOf k bytes v)
    | .engine => l2Store who line (byteMask k bytes) (lineOf k bytes v)
  | 1 => do
    entryGate who p
    countForward who p.leaf
    modify (fun s => { s with mem := { s.mem with host := s.mem.host.setN p.pa bytes v } })
  | _ => do
    -- A store of an engine or of a TST is answered before the next: its refusal ends the operation (17 R358; 18 R375).
    if who.engine || who.tile.isSome then
      let _ ← forward who p.peer p.wireLine 64 va (lineWrite (p.pa % 64) bytes v) (some p.leaf)
    else do
      postStore who p.peer p bytes va v
      countForward who p.leaf

/-- A global load: the value of SZ bytes. -/
def loadG (who : Who) (va : DWord) (bytes : Nat) (path : Path) : M Nat := do
  checkGlobal va bytes
  let p ← translate who va false
  readPhys who p va bytes path

/-- A global store. -/
def storeG (who : Who) (va : DWord) (bytes v : Nat) (path : Path) : M Unit := do
  checkGlobal va bytes
  let p ← translate who va true
  writePhys who p va bytes v path

/-- A global atomic at the L2, or forwarded: the old value (04 R107; 03 R93). `new` answers what is written, if anything. In memory that
a grid or a family owns the old value is that of the bytes stored [56]. -/
def atomicG (who : Who) (va : DWord) (bytes : Nat) (new : Nat → Option Nat) (wire : FwdOp) : M Nat := do
  checkGlobal va bytes
  let p ← translate who va true
  checkView p va
  let line := lineNo p.pa p.view
  let k := p.pa % 64
  match p.loc with
  | 0 => do
    l1Flush who line
    let d ← l2Read who line va
    let old := lineBytes d k bytes
    match new old with
    | some v => l2Store who line (byteMask k bytes) (lineOf k bytes v)
    | none => pure ()
    pure old
  | 1 => do
    entryGate who p
    countForward who p.leaf
    let s ← get
    let old := s.mem.host.getN p.pa bytes
    match new old with
    | some v => modify (fun s => { s with mem := { s.mem with host := s.mem.host.setN p.pa bytes v } })
    | none => pure ()
    pure old
  | _ => do
    let r ← forward who p.peer p.wire bytes va wire (some p.leaf)
    pure (replyVal r % 2 ^ (8 * bytes))

/-- The parts of n bytes from an address that lie in one line each: their addresses and sizes (03 R93). -/
def linesFrom : Nat → Nat → Nat → List (Nat × Nat)
  | 0, _, _ => []
  | fuel + 1, a, n =>
    if n == 0 then [] else
      let k := min n (64 - a % 64)
      (a, k) :: linesFrom fuel (a + k) (n - k)

/-- Bytes read line by line, so a fault names the first byte that fails. -/
def loadBytes (who : Who) (va : DWord) (n : Nat) (path : Path) : M (List Byte) := do
  let l ← mapM_ (linesFrom n va.toNat n) (fun (u, k) => do
    let a := BitVec.ofNat 64 u
    let p ← translate who a false
    let v ← readPhys who p a k path
    pure (leBytes k v))
  pure l.flatten

/-- Bytes written from an address on, line by line. -/
def storeBytes (who : Who) (va : DWord) (bs : List Byte) (path : Path) : M Unit :=
  forM_ (linesFrom bs.length va.toNat bs.length) (fun (u, k) => do
    let a := BitVec.ofNat 64 u
    let p ← translate who a true
    writePhys who p a k (leNat ((bs.drop (u - va.toNat)).take k)) path)

/-- A byte at a host physical address, as the rings and completion records are reached: an HDM address lies in device memory
(27 R460, R462); where the HDM begins is the host's choice [33]. -/
def hostByte (s : State) (a : Nat) : Byte :=
  if s.hdmBase ≤ a && a < s.hdmBase + deviceBytes then s.mem.rawByte (a - s.hdmBase) else s.mem.host.get a

/-- n bytes from a host physical address, little-endian. -/
def hostN (s : State) (a : Nat) : Nat → Nat
  | 0 => 0
  | n + 1 => (hostByte s a).toNat + 256 * hostN s (a + 1) n

/-- A host physical address range lies in no vein that is held, so that it can be reached now (19 R416). -/
def hostReach (s : State) (a n : Nat) : Bool :=
  !((List.range n).any (fun i => s.hdmBase ≤ a + i && a + i < s.hdmBase + deviceBytes && s.mem.heldAt (a + i - s.hdmBase)))

/-- Before the device reads n bytes at a host physical address, the lines of its own memory that the host holds are recalled (27 R460). -/
def hostRecall (s : State) (a n : Nat) : State :=
  { s with mem := (List.range n).foldl (fun (m : MemSys) i =>
      if s.hdmBase ≤ a + i && a + i < s.hdmBase + deviceBytes then m.recall ((a + i - s.hdmBase) / 64) else m) s.mem }

/-- Bytes written at a host physical address, line by line. -/
def hostWrite (s : State) (a : Nat) (bs : List Byte) : State :=
  -- Shifted so that the lines are those of device memory.
  let sh := 64 - s.hdmBase % 64
  { s with mem := (linesFrom bs.length (a + sh) bs.length).foldl (fun (m : MemSys) (u, k) =>
      let h := u - sh
      let v := (bs.drop (h - a)).take k
      let p := h - s.hdmBase
      if s.hdmBase ≤ h && h < s.hdmBase + deviceBytes then m.l2Write (p / 64) (byteMask (p % 64) k) (lineOf (p % 64) k (leNat v))
      else { m with host := m.host.setBytes h v }) s.mem }

end Sys2Proof.Machine
end

