-- ==== Sys2Proof/Machine/Operands.lean ====
section
/-! DEFINITION. Operands: the value of every descriptor kind in every slot (12 R238), where results go (12 R239, R248), the
registers a slot names (12 R252), and the sizes of loads and stores (13 R272; 17 R345). -/

namespace Sys2Proof

/-- The registers a destination of a width spans. -/
def Width.regs (w : Width) (n : Nat) : List Nat :=
  match w with
  | .w32 => [n]
  | .w64 => [n, n + 1]
  | .w128 => [n, n + 1, n + 2, n + 3]

/-- The registers a slot reads or writes through its descriptor (12 R252): both halves of a pair, every register of a block,
and v0 behind a predicate-bit token. -/
def Slot.regs (s : Slot) (d : Desc) : List Nat :=
  let n := d.n.toNat
  match s with
  | .src w | .dst w => (match d.kind with
      | .special => []
      | _ => w.regs n)
  | .rmw => [n]
  | .blkSrc k | .blkDst k => (List.range k).map (fun i => n + i)
  | .pred _ _ r wr => if r || wr then [0] else []
  | _ => []

/-- Whether a slot is read uniformly: only the lowest active lane's registers (12 R251). -/
def Slot.uniform (s : Slot) (d : Desc) : Bool :=
  match s with
  | .src _ => d.kind == .uni
  | _ => false

/-- Whether an instruction reads what a slot names. -/
def Slot.isSource : Slot → Bool
  | .src _ | .rmw | .blkSrc _ => true
  | .pred _ _ r _ => r
  | _ => false

/-- The slots of a word with their descriptors, in the order D, A, B, fourth, and the number each has in a cause (28 R483). -/
def Op.slotList (op : Op) (w : Fields) : List (Nat × Slot × Desc) :=
  let s := op.slots w
  [(1, s.d, w.d), (2, s.a, w.a), (3, s.b, w.b)] ++
    (match s.imm with
      | .fourth t => [(3, t, w.c)]
      | _ => [])

/-- The destination registers of a word: of its D slot (12 R248). -/
def Op.dstRegs (op : Op) (w : Fields) : List Nat :=
  match (op.slots w).d with
  | .dst x => (Slot.dst x).regs w.d
  | .blkDst k => (Slot.blkDst k).regs w.d
  | _ => []

/-- Whether the guard reads v0 for lookahead and waiting: its bit is not 0 (12 R252). -/
def guardReads (w : Fields) : Bool := w.guard.toNat % 32 != 0

/-- v0, which SVMARK writes for a p other than 0 held in imm32 (11 R229; 12 R252). -/
def Op.implicitRegs (op : Op) (w : Fields) : List Nat := if op == .svmark && w.imm.toNat % 32 != 0 then [0] else []

/-- The slot INSN.LOOKAHEAD names, if the word touches any of the registers (12 R252; 28 R483). -/
def Op.breachSlot (op : Op) (w : Fields) (regs : List Nat) : Option Nat :=
  match (op.slotList w).find? (fun t => (t.2.1.regs t.2.2).any (fun r => regs.contains r)) with
  | some t => some t.1
  | none => if (guardReads w && regs.contains 0) || (op.implicitRegs w).any regs.contains then some 0 else none

/-- Whether a fibre waits for a pending destination at a word (12 R251): the slots it reads itself, and as the lowest active
lane the uniform ones. -/
def Op.waitsOn (op : Op) (w : Fields) (pend : List Nat) (isLow : Bool) : Bool :=
  (op.slotList w).any (fun t => (!t.2.1.uniform t.2.2 || isLow) && (t.2.1.regs t.2.2).any (fun r => pend.contains r))
    || (op.implicitRegs w).any pend.contains

end Sys2Proof

namespace Sys2Proof.Machine

/-- What an instruction's meaning sees of its issue: the word, the wave, the PC (of the instruction or its mark), the
fall-through, and its active fibres as they stood at issue. -/
structure Ctx where
  op : Op
  w : Fields
  wv : Wave
  pc : Word
  fall : Word
  core : Nat
  launch : Nat
  det : Bool
  /-- Every fibre of the wave in ascending home lane, as at issue. -/
  all : List Fibre
  /-- The active fibres whose instruction is not turned away before its own checks. -/
  act : List Fibre
  /-- The active fibre of the lowest home lane: the lane of uniform reads (12 R238). -/
  low : Option Fibre
deriving Repr, Inhabited

/-- The special operands in a 32-bit slot (12 R238). -/
def special32 (imm : Word) (f : Fibre) : Nat → Word
  | 0 => 0
  | 1 => imm
  | 2 => BitVec.ofNat 32 f.lane
  | 3 => BitVec.ofNat 32 f.id.index
  | _ => 0xFFFFFFFF

/-- A source in a 32-bit slot (12 R238). -/
def Ctx.val (c : Ctx) (f : Fibre) (d : Desc) : Word :=
  match d.kind with
  | .reg | .pair => f.reg d.n.toNat
  | .uni => (c.low.getD f).reg d.n.toNat
  | .special => special32 c.w.imm f d.n.toNat

/-- A source in a 64-bit slot (12 R238): special 1 is sign-extended unless the instruction states zero extension. -/
def Ctx.val64 (c : Ctx) (f : Fibre) (d : Desc) (zext : Bool := false) : DWord :=
  match d.kind with
  | .reg | .pair => f.pair d.n.toNat
  | .uni => (c.low.getD f).pair d.n.toNat
  | .special =>
    match d.n.toNat with
    | 1 => if zext then .zext c.w.imm else .sext c.w.imm
    | 4 => 0xFFFFFFFFFFFFFFFF
    | k => .zext (special32 c.w.imm f k)

/-- A source whose slot is 32-bit or 64-bit, as a number of that width; `sx` sign-extends special 1 in a 64-bit slot. -/
def Ctx.valW (c : Ctx) (f : Fibre) (d : Desc) (wide sx : Bool) : Nat :=
  if wide then (c.val64 f d (!sx)).toNat else (c.val f d).toNat

/-- The operands by name. -/
def Ctx.a (c : Ctx) (f : Fibre) : Word := c.val f c.w.a
def Ctx.b (c : Ctx) (f : Fibre) : Word := c.val f c.w.b
def Ctx.c4 (c : Ctx) (f : Fibre) : Word := c.val f c.w.c
def Ctx.a64 (c : Ctx) (f : Fibre) : DWord := c.val64 f c.w.a
def Ctx.b64 (c : Ctx) (f : Fibre) : DWord := c.val64 f c.w.b

/-- The fibre that gives an operand read from the lowest active home lane and applied to the whole wave (14 R274 "U"). -/
def Ctx.lead (c : Ctx) : Fibre := c.low.getD (c.all.headD default)

/-- Whether a fibre's read of its operands meets a register that an uncorrectable error has marked: a uniform slot reads the lowest
active lane's, the guard v0 (32 R517). -/
def Fibre.badRead (f low : Fibre) (op : Op) (w : Fields) : Bool :=
  (guardReads w && f.badReg 0) || (op.slotList w).any (fun t => t.2.1.isSource
    && (t.2.1.regs t.2.2).any (fun r => (if t.2.1.uniform t.2.2 then low else f).badReg r))

/-- Consecutive registers read. -/
def Fibre.block (f : Fibre) (n k : Nat) : List Word := (List.range k).map (fun i => f.reg (n + i))

/-- The words of a value, low word first (01 R10; 17 R345). -/
def words : Nat → Nat → List Word
  | 0, _ => []
  | k + 1, v => BitVec.ofNat 32 v :: words k (v / 2 ^ 32)

/-- The number that words stand for, low word first. -/
def wordsNat : List Word → Nat
  | [] => 0
  | w :: ws => w.toNat + 2 ^ 32 * wordsNat ws

/-- The registers that are pending in a fibre (12 R248). -/
def Fibre.pendRegs (f : Fibre) : List Nat := (f.pend.map Pend.dst).flatten

/-! ### Results -/

/-- A fibre after its instruction delivers words to its destination: at once on the short class, pending on the long class
(12 R248); a pending float result brings its flags with it (16 R322). -/
def Ctx.deliver (c : Ctx) (f : Fibre) (regs : List Nat) (ws : List Word) (flags : Word := 0) : Fibre :=
  if c.op.long then { f with pend := f.pend ++ [{ dst := regs, vals := ws, flags := flags, fp := c.op.floatChapter }] }
  else { f.setList regs ws with fpstat := fpstatOr (f.setList regs ws).fpstat flags }

/-- A 32-bit result. -/
def Ctx.putD (c : Ctx) (f : Fibre) (v : Word) (flags : Word := 0) : Fibre := c.deliver f [c.w.d.n.toNat] [v] flags

/-- A 64-bit result. -/
def Ctx.putD64 (c : Ctx) (f : Fibre) (v : DWord) (flags : Word := 0) : Fibre :=
  c.deliver f [c.w.d.n.toNat, c.w.d.n.toNat + 1] [v.lo, v.hi] flags

/-- A result of a slot whose width the word gives. -/
def Ctx.putW (c : Ctx) (f : Fibre) (wide : Bool) (v : Nat) (flags : Word := 0) : Fibre :=
  if wide then c.putD64 f (BitVec.ofNat 64 v) flags else c.putD f (BitVec.ofNat 32 v) flags

/-! ### Sizes of the mem layout (13 R272; 17 R345) -/

/-- Bytes of SZ. -/
def szBytes (m : Byte) : Nat :=
  match modField m 0 3 with
  | 0 | 1 => 1
  | 2 | 3 => 2
  | 4 => 4
  | 5 => 8
  | _ => 16

/-- The registers of SZ at a number. -/
def szRegs (m : Byte) (n : Nat) : List Nat := (szWidth m).regs n

/-- Words of a register data slot of SZ. -/
def szWords (m : Byte) : Nat := if szBytes m ≤ 4 then 1 else szBytes m / 4

/-- A loaded value as SZ extends it. -/
def szExtend (m : Byte) (v : Nat) : Nat :=
  match modField m 0 3 with
  | 1 => ((BitVec.ofNat 8 v).signExtend 32).toNat
  | 3 => ((BitVec.ofNat 16 v).signExtend 32).toNat
  | _ => v

/-- The value a store of SZ takes from its slot. -/
def Ctx.storeVal (c : Ctx) (f : Fibre) (d : Desc) : Nat :=
  match szBytes c.w.mod with
  | 16 => wordsNat (f.block d.n.toNat 4)
  | 8 => (c.val64 f d).toNat
  | n => (c.val f d).toNat % 2 ^ (8 * n)

end Sys2Proof.Machine
end

