-- ==== Sys2Proof/Machine/Issue.lean ====
section
/-! DEFINITION. How an instruction issues: the checks of 12 R245 from step 4 on, waits (12 R249, R251), what a transaction and
an open gather forbid (06 R152; 08 R186), the instruction's own effect over its active fibres, and after it the traps, aborts
and splits (01 R15, R16; 06 R154, R155; 28 R478). Every opcode's meaning is one call of `issue`. -/

namespace Sys2Proof

/-- What a transaction makes of an opcode: the cause it aborts with (06 R151, R152). -/
def Op.txAbort (op : Op) : Option Cause :=
  match op with
  | .txb | .txo => some Machine.txNest
  | .rld => some Machine.txRemote
  | .atom | .atomo | .red | .cas | .caso | .fred | .fredo | .fatom | .fatomo | .atoms | .freds | .aflush | .cass => some Machine.txAtomic
  | .bar => some Machine.txBar
  | .gbar => some Machine.txGbar
  | .spawn | .spawnt => some Machine.txSpawn
  | .glds => some Machine.txGlds
  | .tcopy | .icopy | .isect | .merge | .nbin | .npair | .nfix | .hcfg | .hprobe | .hins | .hdel | .hreh | .svopen |
    .svmark | .svclose | .nstat | .hqry | .svqry | .ncfg => some Machine.txEngine
  | .endF => some Machine.txEnd
  | .fork | .acq | .shed | .meet | .bari | .bara | .barw | .barx | .waitv | .ldfe | .hwait | .hdef | .hset | .fence |
    .dfence | .cwb | .cinv | .acqp => some Machine.txSync
  | .eret | .getp | .setp | .tlbi | .l2wb | .vhold | .harv | .ctxs | .ctxr | .migr | .trap | .bkpt | .svc | .hnot => some Machine.txPriv
  | _ => none

/-- What may not stand between a GLDS and its MEET: the number of SYNC.SPLITRULE (08 R186; 28 R483). -/
def Op.splitRule (op : Op) : Option Nat :=
  match op with
  | .bar => some 1
  | .gbar => some 2
  | .endF => some 3
  | .spawn | .spawnt => some 4
  | .txb | .txo => some 5
  | _ => none

/-- The opcodes that name what an item fibre has none of: a team's scratchpad, tiles, handles, barriers or allotment
(01 R26; 06 R166; 14 R284, R288 to R291; 16 R337; 17 R366; 18 R373; 19 R398). -/
def Op.teamOnly (op : Op) : Bool :=
  (0xC0 ≤ op.code && op.code ≤ 0xDA) ||
  (match op with
    | .fork | .acq | .shed | .bar | .gbar | .bara | .barw | .bari | .barx | .lds | .sts | .ldx | .stx | .ldfe | .stfe |
      .isect | .merge | .compact | .expand | .tcopy | .icopy | .hdef | .hwait | .hset | .hstat | .atoms | .freds | .cass |
      .txo | .atomo | .caso | .fredo | .fatomo | .aflush | .nbin | .npair | .nfix | .ncfg | .hprobe | .hins | .hdel | .hreh | .hcfg | .svopen | .svmark | .svclose |
      .svqry | .cbld | .cbenc | .cbdec | .ctxs | .ctxr | .migr => true
    | _ => false)

/-- The opcodes whose accesses are not transactional ones inside a transaction: all but those that R152 calls so and the commits that
validate their reads (04 R123; 06 R152, R155). -/
def Op.plainAccess (op : Op) : Bool := !([Op.ld, .st, .lda, .stl, .bsrch, .txe, .txoe].contains op)

/-- The control transfers that end a staging region (03 R68). -/
def Op.transfers (op : Op) : Bool := (0x01 ≤ op.code && op.code ≤ 0x07) || op.code == 0x0F

end Sys2Proof

namespace Sys2Proof.Machine

/-- What becomes of a lane whose effect did not come about. -/
inductive Way where
  /-- It takes a fault with this TRAPPC (28 R478), or its transaction absorbs it (06 R155). -/
  | trap (d : Due) (r : Resume) (pc : Word)
  | abort (c : Cause)
  /-- Its irrevocable attempt restarts (06 R162). -/
  | restart
  /-- It stays at the instruction and waits. -/
  | stay (w : Wait)
deriving DecidableEq, Repr

/-- Whether a way is a wait. -/
def Way.isStay : Way → Bool
  | .stay _ => true
  | _ => false

/-- What an instruction's own effect answers: the state, and the lanes that went another way. -/
abbrev Effect : Type := State × List (FibreId × Way)

/-- The own effect of an instruction: it may make the whole wave wait, with accesses to be forwarded first. -/
abbrev Body : Type := Ctx → State → Except (Wait × List Fwd) Effect

/-! ### Bodies -/

/-- What a stop of one lane comes to. -/
def Ctx.wayOf (c : Ctx) : Stop → Except (Wait × List Fwd) Way
  | .trap d => .ok (.trap d .atPc c.pc)
  | .abort e => .ok (.abort e)
  | .restart => .ok .restart
  | .wait w post => .error (w, post)

/-- The requests that lanes need to send, and how many of them need an entry for an access to host memory. -/
def laneNeeds (go : Fibre → State → Except (Wait × List Fwd) State) (s : State) : List Fibre → List Fwd × Nat
  | [] => ([], 0)
  | x :: xs =>
    let (ps, n) := laneNeeds go s xs
    match go x s with
    | .ok t => (ps, n + ((t.fwds.filter Fwd.host).length - (s.fwds.filter Fwd.host).length))
    | .error (_, post) => (post ++ ps, n)

/-- The requests of all lanes go out together, when their core has an entry free for each (03 R94). -/
def togetherFrom (core : Nat) (post : List Fwd) (needs : List Fwd × Nat) (s : State) : List Fwd :=
  let all := post ++ needs.1
  if s.entriesLeft core < (all.filter (fun r => !r.dead)).length + needs.2 then [] else all

/-- One lane's effect as it bears on requests. -/
def Ctx.lane (c : Ctx) (f : Ctx → Fibre → M Unit) (x : Fibre) (s : State) : Except (Wait × List Fwd) State :=
  match (f c ((s.fibre? x.id).getD x)).run s with
  | .ok (_, t) => .ok t
  | .error (.wait w post) => .error (w, post)
  | .error _ => .ok s

/-- Every active lane's effect in ascending home lane; a lane that stops leaves the state as it found it. Where one needs a forwarded
access, the requests of all go out together (03 R94). -/
def lanesFrom (c : Ctx) (f : Ctx → Fibre → M Unit) : List Fibre → State → Except (Wait × List Fwd) Effect
  | [], s => .ok (s, [])
  | x :: xs, s => do
    let cur := (s.fibre? x.id).getD x
    let (s, way) ← (match (f c cur).run s with
      | .ok (_, s') => .ok (s', none)
      | .error (.wait .remote post) => .error (.remote, togetherFrom c.core post (laneNeeds (c.lane f) s xs) s)
      | .error e => (c.wayOf e).map (fun w => (s, some w)))
    let (s, rest) ← lanesFrom c f xs s
    pure (s, (way.map (fun w => (x.id, w))).toList ++ rest)

/-- An instruction that acts lane by lane, the lanes of a wave in one step [98]. -/
def perLane (f : Ctx → Fibre → M Unit) : Body := fun c s => lanesFrom c f c.act s

/-- Lanes served so far by an instruction that holds its wave (01 R36; 03 R75; 08 R185). -/
def Ctx.served (c : Ctx) (f : Fibre) : Bool := c.wv.arrived.getLsbD f.lane

/-- The whole wave stays. -/
def Ctx.stayAll (c : Ctx) (why : Wait) : List (FibreId × Way) := c.all.map (fun f => (f.id, Way.stay why))

/-- The lanes of a wave that no other way takes stay, the inactive ones among them: the wave does not split (01 R15). -/
def Ctx.stayRest (c : Ctx) (ways : List (FibreId × Way)) (why : Wait) : List (FibreId × Way) :=
  ways ++ (c.all.filter (fun f => !ways.any (fun p => p.1 == f.id))).map (fun f => (f.id, Way.stay why))

/-- The wait of the lanes that stay. -/
def stayOf : List (FibreId × Way) → Option Wait
  | [] => none
  | (_, .stay w) :: _ => some w
  | _ :: r => stayOf r

/-- Lanes in ascending home lane: a lane that waits stays, the others act; those served already are passed over where `skip` is. No
lane passes one that waits at the same place (`key`): at each they act in order (14 R292). -/
def tryLanes (c : Ctx) (skip : Bool) (key : Fibre → Option Nat) (f : Ctx → Fibre → M Unit) (behind : List (Option Nat)) :
    List Fibre → State → State × List (FibreId × Way)
  | [], s => (s, [])
  | x :: xs, s =>
    if skip && c.served x then tryLanes c skip key f behind xs s
    else
      let act := if (key x).isSome && behind.contains (key x) then .error (Stop.wait .value []) else (f c ((s.fibre? x.id).getD x)).run s
      match act with
      | .ok (_, s') => tryLanes c skip key f behind xs s'
      | .error e =>
        let (way, behind) : Way × List (Option Nat) := match e with
          | .trap d => (.trap d .atPc c.pc, behind)
          | .abort k => (.abort k, behind)
          | .restart => (.restart, behind)
          | .wait w _ => (.stay w, key x :: behind)
        let (s, r) := tryLanes c skip key f behind xs s
        (s, (x.id, way) :: r)

/-- The newest pending destination written at once. -/
def Fibre.landLast (f : Fibre) : Fibre :=
  match f.pend.getLast? with
  | some p => { f.writePend p with pend := f.pend.dropLast }
  | none => f

/-- An instruction whose lanes act one by one as each can, while the wave holds until all have: an access to a sibling is performed at
that sibling's grant (01 R36). -/
def heldBy (key : Fibre → Option Nat) (f : Ctx → Fibre → M Unit) : Body := fun c s =>
  let (s', ways) := tryLanes c true key f [] c.act s
  match stayOf ways with
  | none => .ok (s', ways)
  | some why =>
    let done := c.act.filter (fun x => !c.served x && !ways.any (fun p => p.1 == x.id))
    let s' := if c.op.long then s'.setFibres ((done.filterMap (fun x => s'.fibre? x.id)).map Fibre.landLast) else s'
    .ok (s'.setWave { ((s'.wave? c.wv.id).getD c.wv) with arrived := c.wv.arrived ||| lanesOf done }, c.stayAll why)

def heldLanes (f : Ctx → Fibre → M Unit) : Body := heldBy (fun _ => none) f

/-- An instruction whose every lane computes on its own fibre alone and cannot stop. -/
def perFibre (f : Ctx → Fibre → Fibre) : Body := fun c s => .ok (c.act.foldl (fun s x => s.setFibre (f c x)) s, [])

/-- An instruction that acts for the wave; a stop comes to every active lane. -/
def perWave (f : Ctx → M Unit) : Body := fun c s =>
  match (f c).run s with
  | .ok (_, s') => .ok (s', [])
  | .error e => (c.wayOf e).map (fun w => (s, c.act.map (fun x => (x.id, w))))

/-! ### After the effect -/

/-- The wave's fibres as they are prepared to issue: at the fall-through, their lookahead windows counted (12 R250). -/
def Fibre.issued (f : Fibre) (fall : Word) : Fibre :=
  { f with pc := fall
           windows := (f.windows.map (fun w => { w with left := w.left - 1 })).filter (fun w => 0 < w.left) }

/-- One lane's other way carried out; the answer also says whether it is now in the trap runtime. -/
def State.wayOut (s : State) (c : Ctx) (orig : Fibre) (f : Fibre) : Way → State × Bool
  | .stay _ => (s.setFibre { f with pc := c.pc, windows := orig.windows }, false)
  | .abort e =>
    let (s, g) := s.abort f e
    (s.setFibre g, false)
  | .restart =>
    let back := (f.tx.map Tx.opener).getD c.pc
    let s := { s with mem := { s.mem with locks := s.mem.locks.filter (fun k => k.owner != f.id) } }
    (s.setFibre { f with tx := none, txSettled := none, pc := back }, false)
  | .trap d r pc =>
    match f.faultWay d c.op.plainAccess with
    | .trap _ => (s.takeTrap f c.wv.meet pc d r, true)
    | .abort =>
      let (s, g) := s.abort f d.cause
      -- A delayed fault is no instruction's of the transaction: it is taken after the abort, and ERET reissues its store.
      if d.kind == 2 then (s.takeTrap g c.wv.meet g.pc d r, true) else (s.setFibre g, false)
    | .abortTrap p =>
      let (s, g) := s.abort f d.cause
      (s.takeTrap g c.wv.meet p d (if d.kind == 2 then r else .atPc), true)

/-- Every lane's other way carried out, in ascending home lane. -/
def State.waysOut (s : State) (c : Ctx) (orig : List Fibre) : List (FibreId × Way) → State × List FibreId
  | [] => (s, [])
  | (i, w) :: rest =>
    let (s, t) := (match s.fibre? i with
      | some f => s.wayOut c ((orig.find? (fun (g : Fibre) => g.id == i)).getD f) f w
      | none => (s, false))
    let (s, ts) := s.waysOut c orig rest
    (s, if t then i :: ts else ts)

/-- Waves made of the parts; lanes that stay form one wave that waits at the instruction (01 R15; 03 R68). -/
def State.divide (s : State) (c : Ctx) (fs stay : List Fibre) (why : Option Wait) : State :=
  match s.wave? c.wv.id with
  | none => s
  | some w =>
    let gs := standGroups fs []
    if stay.isEmpty then s.regroup w c.wv.lanes fs c.op.transfers
    else
      let waiting : Wave := { w with lanes := lanesOf stay, wait := why, stalled := true, fall := c.fall, age := 0
                                     staged := if gs.isEmpty && !c.op.transfers && lanesOf stay == c.wv.lanes then w.staged else none }
      ((if why == some .span then s.noteBlocked w else s).setWave waiting).addParts { w with staged := none } gs

/-- A deterministic launch's wave that meets a trap: the trapping fibres enter the runtime as one wave, the others wait with
them (28 R478). At an ERET, a fibre that has left waits or issues again as it left. No trap divides the wave, so its staging region
lasts (03 R68). -/
def State.joinTrap (s : State) (c : Ctx) (ids : List FibreId) : State :=
  let (n, s) := s.newId
  let s := ids.foldl (fun s i => match s.fibre? i with
    | some f => s.setFibre { f with group := some (f.group.getD n), groupMeet := if f.group.isSome then f.groupMeet else c.wv.meet
                                    parked := f.inTrap.isNone && (c.op != .eret || f.parked)
                                    groupStaged := if c.op.transfers then none else c.wv.staged }
    | none => s) s
  match s.wave? c.wv.id with
  | none => s
  | some w =>
    let fs := (ids.filterMap s.fibre?).filter (fun f => f.inTrap.isSome)
    s.regroup { w with reissue := false } (lanesOf fs) fs c.op.transfers

/-- Fibres that have left the runtime of a trap group: those that issue their instruction again form a wave of their own, the
others have reached their continuation (28 R478). -/
def State.leftRuntime (s : State) (c : Ctx) (fs : List Fibre) : State :=
  let s := s.setFibres (fs.map (fun f => { f with groupStaged := c.wv.staged }))
  match fs.filter (fun f => !f.parked) with
  | [] => s
  | f :: r =>
    let gs := standGroups (f :: r) []
    s.addParts { c.wv with lanes := 0, reissue := true, staged := if gs.length ≤ 1 then c.wv.staged else none } gs

/-- A reissued instruction's fibres stand at their continuations, those that wait at a meeting point included. -/
def State.passGroup (s : State) (c : Ctx) (ids stays : List FibreId) (why : Option Wait) : State :=
  let meets := why == some .meet || why == some .bar || why == some .gbar
  let s := ids.foldl (fun s i => match s.fibre? i with
    | some f => if stays.contains i && !meets then s
      else s.setFibre { f with parked := true, groupStaged := if c.op.transfers then none else (s.wave? c.wv.id).bind Wave.staged }
    | none => s) s
  if stays.isEmpty || meets then s.dropWave c.wv.id else s.divide c [] (stays.filterMap s.fibre?) why

/-- What follows an instruction's effect: aborts, traps, splits, and the release of a trap group that is whole again. -/
def State.finishCore (s : State) (c : Ctx) (orig : List Fibre) (ways : List (FibreId × Way)) : State :=
  let (s, trapped) := s.waysOut c orig ways
  let ids := c.all.map Fibre.id
  let stays := (ways.filter (fun p => p.2.isStay)).map Prod.fst
  let s := { s with
    fwds := s.fwds.filter (fun r => r.posted || (r.reply.isNone && !r.dead) || !ids.contains r.fibre)
    fibres := s.fibres.map (fun (f : Fibre) => if ids.contains f.id && !stays.contains f.id then { f with walkTimeout := false } else f) }
  let s :=
    let out := fun (f : Fibre) => f.group.isSome && f.inTrap.isNone
    if c.det && !trapped.isEmpty then
      let s := s.joinTrap c ids
      s.leftRuntime c ((ids.filterMap s.fibre?).filter out)
    else if c.wv.reissue then s.passGroup c ids stays (stayOf ways)
    else
      let rest := (ids.filter (fun i => !stays.contains i)).filterMap s.fibre?
      (s.divide c (rest.filter (fun f => !out f)) (stays.filterMap s.fibre?) (stayOf ways)).leftRuntime c (rest.filter out)
  s.releaseGroups.wake

/-! ### MEET and barriers (01 R19, R20; 14 R283, R290) -/

/-- A wave whose fibres all take one fault at the instruction where they wait; with the trap bank full they take it when there is
room (28 R479). -/
def State.trapWave (s : State) (w : Wave) (e : Cause) : State :=
  match s.waveFibres w with
  | [] => s
  | f :: fs =>
    if s.bankFull w then
      (s.setFibres ((f :: fs).map (fun g => { g with dues := ({ cause := e }, .atPc) :: g.dues }))).park w .bank
    else
      let c : Ctx := { op := .meet, w := default, wv := w, pc := f.pc, fall := w.fall, core := s.coreOf w.crew
                       launch := w.crew.launch, det := s.det w.crew.launch, all := f :: fs, act := [], low := none }
      s.finishCore c (f :: fs) ((f :: fs).map (fun g => (g.id, Way.trap { cause := e } .atPc f.pc)))

/-- Whether a wave waits at MEET, BAR or GBAR, and at which instruction. -/
def State.meetPoint (s : State) (w : Wave) : Option (Wait × Word × Nat × Bool) :=
  match w.wait, s.waveFibres w with
  | some k, f :: _ => if k == .meet || k == .bar || k == .gbar then some (k, f.pc, f.obj, f.inTrap.isSome) else none
  | _, _ => none

/-- Waves of one home wave that meet at one instruction go on as one, whose meet set is its fibres (01 R17, R19). A MEET at the
innermost open label pops it (08 R184). -/
def State.merge (s : State) (ws : List Wave) : State :=
  match ws with
  | [] => s
  | w :: rest =>
    let lanes := ws.foldl (fun m v => m ||| v.lanes) 0
    let pop := fun (f : Fibre) => if w.wait == some .meet && f.labels.head? == some f.pc then f.labels.drop 1 else f.labels
    let fs := (ws.map (fun v => s.waveFibres v)).flatten
    let s := s.setFibres (fs.map (fun f => { f.issued w.fall with labels := pop f }))
    let s := rest.foldl (fun s v => s.dropWave v.id) s
    s.setWave { w with lanes := lanes, meet := lanes, wait := none, stalled := false, staged := none, age := 0 }

/-- The waves that hold the non-ended members of a meet set, and whether each member is in one. -/
def State.meetMembers (s : State) (w : Wave) : List Wave × Bool :=
  let same := s.waves.filter (fun v => v.crew == w.crew && v.home == w.home && v.lanes &&& w.meet != 0)
  let live := lanesOf (s.fibres.filter (fun f => f.id.crew == w.crew && f.home == w.home))
  (same, same.foldl (fun m v => m ||| v.lanes) 0 &&& w.meet == live &&& w.meet)

/-- A wave that waits at a MEET: it merges when its whole meet set waits there, and every MEET of the set raises SYNC.MEETMIX when
the set waits at different instructions (01 R19, R20). -/
def State.tryMeet (s : State) (i : Nat) : State :=
  match s.wave? i with
  | none => s
  | some w =>
    if w.wait != some .meet then s
    else
      let (ws, full) := s.meetMembers w
      let at_ := s.meetPoint w
      if !full || !ws.all (fun v => (s.meetPoint v).isSome) then s
      else if ws.all (fun v => s.meetPoint v == at_) then s.merge ws
      else (ws.filter (fun v => v.wait == some .meet)).foldl (fun s v => s.trapWave v syncMeetMix) s

/-- The waves of a team that wait at a barrier of these kinds, when every non-ended fibre of the team is in one. -/
def State.teamAt (s : State) (launch team : Nat) (kinds : List Wait) : Option (List Wave) :=
  let mine := fun (c : CrewId) => match c with
    | .team l t _ => l == launch && t == team
    | .item .. => false
  let ws := s.waves.filter (fun v => mine v.crew && (v.wait.map kinds.contains).getD false)
  let n := (ws.map (fun v => (s.waveFibres v).length)).sum
  if n == (s.fibres.filter (fun f => mine f.id.crew)).length && n != 0 then some ws else none

/-- SYNC.BARMIX: every non-ended fibre of a team waits at BAR or GBAR, not all at one kind (14 R290). -/
def State.tryMix (s : State) (launch team : Nat) : State :=
  match s.teamAt launch team [.bar, .gbar] with
  | none => s
  | some ws =>
    if ws.any (fun v => v.wait == some .bar) && ws.any (fun v => v.wait == some .gbar) then
      ws.foldl (fun s v => s.trapWave v (syncBarMix (if v.wait == some .bar then 1 else 2))) s
    else s

/-- Every meeting point looked at once: MEETs that are whole go on, mixed ones trap. -/
def State.meetings (s : State) : State :=
  let ids := (s.waves.filter (fun w => w.wait == some .meet)).map Wave.id
  let s := ids.foldl State.tryMeet s
  let teams := (s.waves.filterMap (fun w => if w.wait == some .bar || w.wait == some .gbar then
      (match w.crew with | .team l t _ => some (l, t) | .item .. => none) else none)).eraseDups
  teams.foldl (fun s p => s.tryMix p.1 p.2) s

/-- What follows an instruction's effect, the meetings that it completes included. -/
def State.finish (s : State) (c : Ctx) (orig : List Fibre) (ways : List (FibreId × Way)) : State :=
  (s.finishCore c orig ways).meetings

/-! ### Issue -/

/-- A fibre continues at an address outside an instruction of its own wave: in a wave of its own, or, where its wave waits at TXOE or
is the one that commits there (`here`), with that wave when it is settled (06 R162, R167, R168). -/
def State.sendTo (s : State) (here : List FibreId) (g : Fibre) (pc : Word) : State :=
  let holds := fun (w : Wave) => w.crew == g.id.crew && w.home == g.home && w.lanes.getLsbD g.lane
  if here.contains g.id || s.waves.any (fun w => w.wait == some .txoe && holds w) then s.setFibre { g with txSettled := some pc }
  else
    let h := { g with pc := pc }
    let s := s.setFibre h
    match s.waves.find? holds with
    | none => s
    | some w =>
      let left := w.lanes &&& ~~~ BitVec.ofNat 32 (2 ^ g.lane)
      let s := if left == 0 then s.dropWave w.id else s.setWave { w with lanes := left, staged := none }
      s.addParts { w with staged := none } [[h]]

/-- An irrevocable attempt restarts at its opener with its log discarded; it keeps the token and its count (06 R162). -/
def State.restartAt (s : State) (here : List FibreId) (f : Fibre) : State :=
  match f.tx with
  | none => s
  | some t =>
    ({ s with mem := { s.mem with locks := s.mem.locks.filter (fun k => k.owner != f.id) } }).sendTo here { f with tx := none } t.opener

/-- Requests go out together, when their core has an entry free for each (03 R94), and are counted (28 R474). -/
def State.sendAll (s : State) (post : List Fwd) : State :=
  let out := post.filter (fun r => !r.dead)
  if out.any (fun r => s.entriesLeft r.core < out.length) then s
  else post.foldl (fun s r =>
    let (i, s) := s.newId
    let s := (match r.leaf with
      | some l => s.countFwd r.core r.launch l
      | none => s)
    let s := { s with fwds := s.fwds ++ [{ r with id := i }] }
    -- A dead owner has refused it already.
    if r.dead then s else s.send (.request i)) s

/-- The whole wave waits at the instruction; forwarded accesses that it needs first go out (03 R93). An irrevocable attempt whose lock
an attempt of a lower-numbered vein has met restarts. -/
def State.waitAt (s : State) (w : Wave) (why : Wait) (post : List Fwd) : State :=
  let s := s.sendAll post
  match why with
  | .oust o => match s.fibre? o with
    | some f => (s.restartAt [] f).park w .line
    | none => s.park w .line
  | _ =>
    let t := s.park w why
    -- What has been refused already is not waited for.
    if post.any Fwd.dead then t.wake else t

/-- Whether any lane takes a trap. -/
def anyTrap (ways : List (FibreId × Way)) : Bool := ways.any (fun p => match p.2 with | .trap .. => true | _ => false)

/-- Fibres of a wave take faults instead of issuing: nothing of the instruction comes about. -/
def State.trapOnly (s : State) (c : Ctx) (ways : List (FibreId × Way)) : State :=
  if s.bankFull c.wv && anyTrap ways then s.park c.wv .bank
  else s.finish c c.all ways

/-- The slot of the first tile or handle that a fibre's instruction names and its team does not have, or that an item fibre names, which
has none (01 R29; 12 R241). -/
def State.unallotted (s : State) (op : Op) (w : Fields) (f : Fibre) : Option Nat :=
  let has := fun (p : Team → Bool) => ((s.teamOf? f.id.crew).map p).getD false
  ((op.slotList w).find? (fun p => match p.2.1 with
    | .tile => !has (fun t => ((t.tiles[p.2.2.n.toNat]?).map Tile.allot).getD false)
    | .handle => !has (fun t => ((t.handles[p.2.2.n.toNat]?).map Handle.allot).getD false)
    | _ => false)).map Prod.fst

/-- The first failing check of 12 R245 among steps 4 to 7, for the wave. -/
def decodeCheck (s : State) (op : Op) (w : Fields) (f : Fibre) : Option Cause :=
  match op.reservedSlot w with
  | some k => some (insnReserved k)
  | none =>
    if op.privileged && !s.priv f then some (privC 0)
    else if op.unguarded && w.guard != 0 then some insnGuard
    else (Option.merge min (op.operandSlot w f.regs.length f.inTrap.isSome) (s.unallotted op w f)).map insnOperand

/-- The registers of a fibre's open windows (12 R250). -/
def Fibre.windowRegs (f : Fibre) : List Nat := (f.windows.map Window.regs).flatten

/-- INSN.LOOKAHEAD of a fibre: the slot that breaches its windows (12 R252). -/
def breach (op : Op) (w : Fields) (f : Fibre) : Option Nat := op.breachSlot w f.windowRegs

/-- What turns an active fibre away before the instruction's own checks: a transaction, an open gather, an item crew [27], and at last an
operand whose register is poisoned, which is no transactional access (06 R155; 32 R517). -/
def turnedAway (op : Op) (w : Fields) (pc : Word) (low : Option Fibre) (f : Fibre) : Option Way :=
  let trap := fun (e : Cause) => some (Way.trap { cause := e } .atPc pc)
  match f.tx, op.txAbort with
  | some _, some e => some (.abort e)
  | _, _ =>
    if f.isItem && op.teamOnly then trap (insnOperand 0)
    else if !f.labels.isEmpty && op.splitRule.isSome then trap (syncSplit (op.splitRule.getD 0))
    else if op == .meet && !f.labels.isEmpty && f.labels.head? != some pc then trap (syncSplit 0)
    else if op == .glds && f.labels.length ≥ 2 then trap (syncSplit 6)
    else if f.badRead (low.getD f) op w then (if f.tx.map Tx.irrev == some false then some (.abort sysUncorr) else trap sysUncorr)
    else none

/-- What every path of an issue knows: the word, the wave, where it stands, its fibres; none of them active. -/
def baseCtx (op : Op) (w : Fields) (s : State) (wv : Wave) (fs : List Fibre) (pc fall : Word) : Ctx :=
  { op := op, w := w, wv := wv, pc := pc, fall := fall, core := s.coreOf wv.crew, launch := wv.crew.launch
    det := s.det wv.crew.launch, all := fs, act := [], low := none }

/-- The fall-through of an instruction at a PC: its length on (12 R236). -/
def State.fallOf (s : State) (pc : Word) : Word := pc + BitVec.ofNat 32 s.ilen

/-- What an instruction's own effect sees: the fibres prepared to issue, those active under the guard that nothing turns away
before the instruction's own checks, and the lowest active one (12 R238, R242). -/
def issueCtx (op : Op) (w : Fields) (s : State) (wv : Wave) (fs : List Fibre) (pc : Word) : Ctx :=
  let fall := s.fallOf pc
  let whole := fs.filter (fun f => (breach op w f).isNone)
  let active := whole.filter (fun f => f.active w.guard)
  let acts := active.filter (fun f => (turnedAway op w pc active.head? f).isNone)
  { baseCtx op w s wv fs pc fall with
    all := fs.map (fun f => f.issued fall), act := acts.map (fun f => f.issued fall)
    low := active.head?.map (fun f => f.issued fall) }

/-- Whether fibres of a wave wait for a pending destination at a word (12 R249, R251): a guard whose bit is not 0 reads v0. -/
def mustWait (op : Op) (w : Fields) (fs : List Fibre) : Bool :=
  let whole := fs.filter (fun f => (breach op w f).isNone)
  let active := whole.filter (fun f => f.active w.guard)
  (guardReads w && whole.any (fun f => f.pendRegs.contains 0))
    || active.any (fun f => op.waitsOn w f.pendRegs (active.head? == some f))
    || (op.long && active.any (fun f => f.pend.length ≥ 8))

/-- The lookahead windows that an instruction opens in fibres (12 R250). -/
def State.openWindows (s : State) (c : Ctx) (fs : List FibreId) : State :=
  if c.op.long && c.w.la != 0 then fs.foldl (fun s i => match s.fibre? i with
    | some f => s.setFibre { f with windows := f.windows ++ [{ left := c.w.la.toNat, regs := c.op.dstRegs c.w }] }
    | none => s) s
  else s

/-- Whether the SHED at which fibres wait has taken effect: it only completes (01 R31; 14 R289). -/
def State.shedOver (s : State) (fs : List Fibre) : Bool :=
  match fs.head? with
  | some f => match s.teamOf? f.id.crew with
    | some t => t.shedDone.any (fun i => ((s.wave? i).map (fun w => w.crew == f.id.crew && w.home == f.home && w.lanes.getLsbD f.lane)).getD false)
    | none => false
  | none => false

/-- A wave that traps withdraws the request of its SHED; issued again, it is a new request (14 R289) [112]. -/
def State.withdraw (s : State) (wave : Nat) : State :=
  { s with teams := s.teams.map (fun t => { t with sheds := t.sheds.filter (fun r => r.1 != wave) }) }

/-- The faults that are due in fibres, taken before the next instruction issues; an AFLUSH whose rounds have closed, or a SHED that has
taken effect, only completes (07 R183; 14 R289; 18 R375). -/
def State.duesAt (s : State) (op : Op) (launch : Nat) (fs : List Fibre) (pc : Word) : List (FibreId × Way) :=
  let closed := ((s.launch? launch).map Launch.closed).getD 0
  let done := op == .aflush && fs.all (fun (f : Fibre) => match f.phase with
    | some r => decide (r.toNat < closed)
    | none => false)
  if done || (op == .shed && s.shedOver fs) then [] else fs.filterMap (fun f => f.dues.head?.map (fun d => (f.id, Way.trap d.1 d.2 pc)))

/-- The word's effect on the wave that issues, from step 4 of 12 R245 on. -/
def issueWave (op : Op) (w : Fields) (body : Body) (s : State) (wv : Wave) (fs : List Fibre) (f0 : Fibre) : State :=
  let pc := f0.pc
  let fall := s.fallOf pc
  let base := baseCtx op w s wv fs pc fall
  let dues := s.duesAt op wv.crew.launch fs pc
  if !dues.isEmpty then
    if s.bankFull wv then s.park wv .bank
    else ((s.setFibres (fs.map (fun f => { f with dues := f.dues.drop 1 }))).withdraw wv.id).trapOnly base dues
  else match decodeCheck s op w f0 with
  | some e => s.trapOnly base (fs.map (fun f => (f.id, Way.trap { cause := e } .atPc pc)))
  | none =>
    if mustWait op w fs then s.park wv .pending
    else
      let c := issueCtx op w s wv fs pc
      let broken := fs.filterMap (fun f => (breach op w f).map (fun k => (f.id, Way.trap { cause := insnLookahead k } .atPc pc)))
      let active := (fs.filter (fun f => (breach op w f).isNone)).filter (fun f => f.active w.guard)
      let away := active.filterMap (fun f => (turnedAway op w pc active.head? f).map (fun x => (f.id, x)))
      -- With no active fibre the instruction does nothing, but that lanes settled at TXOE leave it (06 R168).
      match (if c.act.isEmpty && !(op == .txoe && fs.any (fun f => f.txSettled.isSome)) then .ok (s.setFibres c.all, []) else body c (s.setFibres c.all)) with
      | .error (why, post) => s.waitAt wv why post
      | .ok (s', ways) =>
        let all := broken ++ away
        let all := all ++ ways.filter (fun p => !all.any (fun q => q.1 == p.1))
        if s.bankFull wv && anyTrap all then s.park wv .bank
        else
          (s'.openWindows c ((c.act.filter (fun f => !(all.any (fun p => p.1 == f.id)))).map Fibre.id)).finish c fs all

/-- A fetch or decode cause in every fibre of the wave, after the faults that are due (12 R245 steps 1 to 3). -/
def failWave (e : Cause) (s : State) (wv : Wave) (fs : List Fibre) (f0 : Fibre) : State :=
  let c := baseCtx .nop default s wv fs f0.pc f0.pc
  let dues := fs.filterMap (fun f => f.dues.head?.map (fun d => (f.id, Way.trap d.1 d.2 f0.pc)))
  if dues.isEmpty then s.trapOnly c (fs.map (fun f => (f.id, Way.trap { cause := e } .atPc f0.pc)))
  else if s.bankFull wv then s.park wv .bank
  else ((s.setFibres (fs.map (fun f => { f with dues := f.dues.drop 1 }))).withdraw wv.id).trapOnly c dues

/-- The meaning of what is no instruction: its cause in every fibre of the wave. -/
def failIssue (e : Cause) (s : State) : Host.Outcome State Fault Refusal :=
  match s.cur.bind s.wave? with
  | none => .fault .noIssuingWave
  | some wv =>
    match s.waveFibres wv with
    | [] => .fault .noIssuingWave
    | f :: fs => .next (failWave e s wv (f :: fs) f)

/-- The meaning of an opcode: its word issued by the wave that the step has chosen. -/
def issue (op : Op) (w : Fields) (body : Body) (s : State) : Host.Outcome State Fault Refusal :=
  match s.cur.bind s.wave? with
  | none => .fault .noIssuingWave
  | some wv =>
    match s.waveFibres wv with
    | [] => .fault .noIssuingWave
    | f :: fs => .next (issueWave op w body s wv (f :: fs) f)

end Sys2Proof.Machine
end

