-- ==== Sys2Proof/Machine/Team.lean ====
section
/-! DEFINITION. A team's storage as its fibres reach it: scratchpad (03 R71 to R75), sibling scratchpads (01 R36; 03 R76), and the
allotment that ACQ grants (01 R28 to R31; 02 R55). -/

namespace Sys2Proof.Machine

/-- On whose behalf an active fibre accesses global memory. -/
def State.whoOf (s : State) (c : Ctx) (f : Fibre) : Who where
  core := c.core
  queue := ((s.launch? c.launch).map Launch.queue).getD 0
  launch := c.launch
  fibre := f.id
  pc := c.pc
  user := match f.id.crew with
    | .team l t k => some (l, t, k * 32 + f.home)
    | .item .. => none
  timeout := f.walkTimeout
  hint := if [Op.ld, .st, .glds, .tld, .tst].contains c.op then modField c.w.mod 6 2 else 0

def whoM (c : Ctx) (f : Fibre) : M Who := do
  let s ← get
  pure (s.whoOf c f)

/-- The fibre as it stands now. -/
def curF (f : Fibre) : M Fibre := do
  let s ← get
  pure ((s.fibre? f.id).getD f)

/-- A fibre's new contents. -/
def putF (f : Fibre) : M Unit := modify (fun s => s.setFibre f)

/-- The team of a fibre; an item fibre belongs to none (01 R26). -/
def teamM (f : Fibre) : M Team := do
  let s ← get
  match s.teamOf? f.id.crew with
  | some t => pure t
  | none => trapM (insnOperand 0)

/-- A fibre's own access waits for a held release to the same bytes, so that it follows it (04 R100, R127). -/
def heldClear (f : Fibre) (va : DWord) (bytes : Nat) : M Unit := do
  if f.held.any (fun h => h.va.toNat < va.toNat + bytes && va.toNat < h.va.toNat + h.bytes) then waitM .stores

def putT (t : Team) : M Unit := modify (fun s => s.setTeam t)

/-! ### Scratchpad -/

/-- Alignment, then range, of an access to the own scratchpad (17 R344; 03 R71). -/
def spCheck (t : Team) (a bytes : Nat) : M Unit := do
  checkM (a % bytes == 0) (memAlign 1) (BitVec.ofNat 64 a)
  checkM (a + bytes ≤ t.spSize) memSpRange (BitVec.ofNat 64 a)

/-- Whether bytes of scratchpad meet a poisoned line (32 R517). -/
def Team.bad (t : Team) (a n : Nat) : Bool := t.spPoison.any (fun k => k * 64 < a + n && a < k * 64 + 64 && n != 0)

/-- A read of scratchpad that meets a poisoned line reports SYS.UNCORR (32 R517). -/
def spSound (t : Team) (a n : Nat) : M Unit := checkM (!t.bad a n) sysUncorr (BitVec.ofNat 64 a)

/-- Scratchpad after n bytes at an address have been written: a line that is written whole is poisoned no more (32 R517). -/
def Team.wrote (t : Team) (a n : Nat) (m : Memory) : Team :=
  { t with sp := m, spPoison := t.spPoison.filter (fun k => !(a ≤ k * 64 && k * 64 + 64 ≤ a + n)) }

/-- Bytes read from the own scratchpad. -/
def spLoad (f : Fibre) (a bytes : Nat) : M Nat := do
  let t ← teamM f
  spCheck t a bytes
  spSound t a bytes
  pure (t.sp.getN a bytes)

/-- Bytes written to the own scratchpad. -/
def spStore (f : Fibre) (a bytes v : Nat) : M Unit := do
  let t ← teamM f
  spCheck t a bytes
  putT { t with sp := t.sp.setN a bytes v }

/-- Whether the granule of an address is full (03 R74). -/
def Team.isFull (t : Team) (a : Nat) : Bool := t.fulls.contains (a / 16)

/-- The granule of an address set full or empty; the list stays in ascending order. -/
def insertNat (n : Nat) : List Nat → List Nat
  | [] => [n]
  | x :: xs => if n < x then n :: x :: xs else if n = x then x :: xs else x :: insertNat n xs

def Team.setFull (t : Team) (a : Nat) (b : Bool) : Team :=
  { t with fulls := if b then insertNat (a / 16) t.fulls else t.fulls.filter (fun g => g != a / 16) }

/-! ### Siblings (01 R36) -/

/-- Whether a crew is one of a team's. -/
def crewIsOf (launch team : Nat) : CrewId → Bool
  | .team l t _ => l == launch && t == team
  | .item .. => false

def Team.owns (t : Team) (c : CrewId) : Bool := crewIsOf t.launch t.id c

/-- The fibres of a team that have not ended. -/
def State.teamFibres (s : State) (launch team : Nat) : List Fibre := s.fibres.filter (fun f => crewIsOf launch team f.id.crew)

/-- Whether a team has finished: its fibres have ended, and what they issued has reached a handle state (01 R24). -/
def State.teamDone (s : State) (t : Team) : Bool :=
  (s.teamFibres t.launch t.id).isEmpty && t.handles.all (fun h => h.state != .filling && h.state != .draining) &&
    !s.tileOps.any (fun o => o.launch == t.launch && o.team == t.id)

/-- The team at a gang position whose bytes an access reaches; it waits, or it is refused. -/
def siblingM (f : Fibre) (pos a bytes : Nat) : M Team := do
  let va := BitVec.ofNat 64 a
  checkM (a % bytes == 0) (memAlign 2) va
  let t ← teamM f
  let s ← get
  let size := ((s.launch? t.launch).map Launch.gang).getD 1
  checkM (pos < size) memSibRange va
  let full := (((s.launch? t.launch).bind (fun l => s.object? l.obj)).map Object.scratch).getD 4096
  match s.team? t.launch (t.id / size * size + pos) with
  | none => trapM memSibRange va
  | some u =>
    if a + bytes ≤ u.spSize then pure u
    else if full < a + bytes || u.acq == .granted || s.teamDone u then trapM memSibRange va
    else waitM .sibling

/-! ### Allotments (01 R28, R30) -/

/-- Whether a team's full allotment is reserved for it: its kernel contains AFLUSH (07 R177). -/
def State.reserves (s : State) (t : Team) : Bool :=
  t.acq != .granted && (((s.launch? t.launch).bind (fun l => s.object? l.obj)).map Object.aflush).getD false

/-- Registers a fibre of a team holds in its quadrant, the reserved ones included. -/
def State.heldWindow (s : State) (t : Team) : Nat :=
  if s.reserves t then (((s.launch? t.launch).bind (fun l => s.object? l.obj)).map Object.wfull).getD 0 else t.window

/-- Places of a quadrant's window words that are taken: first word and count of every piece of a crew resident there. -/
def State.quadUse (s : State) (core quad : Nat) (but : CrewId) : List (Nat × Nat) :=
  (s.teams.filter (fun t => t.core == core)).flatMap (fun t =>
    ((List.range t.crews.length).zip t.crews).flatMap (fun (k, p) =>
      if p.quad == quad && !(CrewId.team t.launch t.id k == but) then p.base else [])) ++
  (s.itemCrews.filter (fun i => i.core == core && i.place.quad == quad && !(CrewId.item i.launch i.core i.crew == but))).flatMap
    (fun i => i.place.base)

/-- An element put into a list before the first that it does not exceed. -/
def insertBy {α : Type} (key : α → Nat) (x : α) : List α → List α
  | [] => [x]
  | y :: ys => if key x ≤ key y then x :: y :: ys else y :: insertBy key x ys

def sortBy {α : Type} (key : α → Nat) (l : List α) : List α := l.foldr (insertBy key) []

/-- The free places of a quadrant from a word on, the pieces in use being in ascending order. -/
def freePlaces : Nat → List (Nat × Nat) → List (Nat × Nat)
  | b, [] => if b < 32768 then [(b, 32768 - b)] else []
  | b, u :: us => if b < u.1 then (b, u.1 - b) :: freePlaces (u.1 + u.2) us else freePlaces (max b (u.1 + u.2)) us

/-- n words taken from free places, the lowest first. -/
def takeWords : Nat → List (Nat × Nat) → List (Nat × Nat)
  | _, [] => []
  | n, g :: gs => if n ≤ g.2 then [(g.1, n)] else g :: takeWords (n - g.2) gs

/-- Where n words find room: in the lowest place that holds them in one piece, else in the lowest free words. No block that is in use
moves (01 R32) [28]. -/
def freeBase (used : List (Nat × Nat)) (n : Nat) : List (Nat × Nat) :=
  let free := freePlaces 0 (sortBy Prod.fst used)
  match free.find? (fun g => n ≤ g.2) with
  | some g => [(g.1, n)]
  | none => takeWords n free

/-- The k-th word of a block in pieces. -/
def wordAt : List (Nat × Nat) → Nat → Nat
  | [], _ => 0
  | p :: ps, k => if k < p.2 then p.1 + k else wordAt ps (k - p.2)

/-- The team's crews moved to where their full windows fit. -/
def State.moveCrews (s : State) (t : Team) (fibres win : Nat) : List Nat → Team
  | [] => t
  | k :: ks =>
    let t := s.moveCrews t fibres win ks
    match t.crews[k]? with
    | some p =>
      let b := freeBase (s.quadUse t.core p.quad (.team t.launch t.id k)) (fibres * win)
      { t with crews := t.crews.set k { p with base := b } }
    | none => t

/-- A tile at the grant: 1 × 1, 32 bits, contents 0 (01 R30). -/
def grantTile : Tile := { allot := true, rows := 1, cols := 1, width := 3, bits := 0, pivot := none }

/-- The grant of the full allotment: everything of 01 R30 at once. -/
def State.grant (s : State) (launch team : Nat) : State :=
  match s.team? launch team, (s.launch? launch).bind (fun l => s.object? l.obj) with
  | some t, some o =>
    let t := { t with
      acq := .granted
      window := o.wfull
      spSize := o.scratch
      sp := t.sp.filter (fun c => c.1 < 4096)
      spPoison := t.spPoison.filter (fun k => k < 64)
      fulls := t.fulls.filter (fun g => g < 256)
      tiles := (List.range 16).map (fun k => if k < o.tiles then grantTile else {})
      handles := (List.range 32).map (fun k => if k < 2 then t.handles.getD k {} else if k < o.handles then { allot := true } else {}) }
    let t := if o.wfull == o.wpro then t else s.moveCrews t o.fibres o.wfull (List.range t.crews.length)
    let mine := fun (i : FibreId) => match i.crew with
      | .team l u _ => l == launch && u == team
      | .item .. => false
    let s := s.setTeam t
    let s := s.setCore t.core (fun c => { c with acqs := c.acqs.filter (fun p => p != (launch, team)) })
    { s with fibres := s.fibres.map (fun (f : Fibre) =>
        if mine f.id then { f with regs := f.regs.take o.wpro ++ List.replicate (o.wfull - o.wpro) 0, poison := f.poison.filter (fun n => n < o.wpro) } else f) }.wake
  | _, _ => s

/-- A request's place in the core's order: by ascending team id among a deterministic launch's own (02 R55), ahead of another
launch's earlier request that stands behind a higher id [99]. -/
def placeAcq (det : Bool) (launch team : Nat) : List (Nat × Nat) → List (Nat × Nat)
  | [] => [(launch, team)]
  | p :: ps => if det && p.1 == launch && team < p.2 then (launch, team) :: p :: ps else p :: placeAcq det launch team ps

end Sys2Proof.Machine
end

