-- ==== Sys2Proof/Machine/Round.lean ====
section
/-! DEFINITION. How a fibre rounds (05 R134, R137, R138), and the fixed reduction tree (05 R146). -/

namespace Sys2Proof.Machine

/-- FPMODE.FTZ and FPMODE.ZPTRAP (05 R138). -/
def Fibre.ftz (f : Fibre) : Bool := f.fpmode.getLsbD 3
def Fibre.zptrap (f : Fibre) : Bool := f.fpmode.getLsbD 4

/-- The key of SrBits (05 R137). -/
def srKey (f : Fibre) : DWord :=
  match f.id.crew with
  | .team _ t k => BitVec.ofNat 64 (t % 2 ^ 32 * 2 ^ 32 + k % 4 * 1024 + f.id.index % 1024)
  | .item _ _ k => BitVec.ofNat 64 (0xFFFFFFFF * 2 ^ 32 + k % 4 * 1024 + f.id.index % 1024)

/-- The code a rounding code stands for in a fibre: DYN is FPMODE.RM (05 R134). -/
def Fibre.rcode (f : Fibre) (rc : Nat) : Nat := if rc == 5 then f.fpmode.toNat % 8 else rc

/-- Whether a fibre's instruction rounds stochastically: only where SR is defined (05 R134). -/
def Fibre.isSr (f : Fibre) (rc : Nat) (srOk : Bool) : Bool := srOk && f.rcode rc == 4

/-- The rounding mode of a code in a fibre, for the element e of its result; SR where it is not defined is RNE (05 R134). -/
def Fibre.rmode (f : Fibre) (rc : Nat) (srOk : Bool := false) (e : Nat := 0) : RMode :=
  match f.rcode rc with
  | 1 => .rtz
  | 2 => .rdn
  | 3 => .rup
  | 4 => if srOk then .sr (srBits f.srSeed (srKey f) f.srCtr e) else .rne
  | _ => .rne

/-- The SR counter after an instruction: it advances when the instruction rounds by SR (05 R137); under DYN each fibre's own RM says whether
it does [100]. -/
def Fibre.srStep (f : Fibre) (rc : Nat) (srOk : Bool) : Fibre := if f.isSr rc srOk then { f with srCtr := f.srCtr + 1 } else f

/-- One level of the fixed tree: a pair is added, a single term passes up unrounded (05 R146). -/
def treeLevel (fmt : Fmt) (c : RCtx) : List (Option Nat) → List (Option Nat) × Word
  | some a :: some b :: r =>
    let (x, fl) := fmt.add c a b
    let (ys, gl) := treeLevel fmt c r
    (some x :: ys, fl ||| gl)
  | some a :: none :: r => let (ys, gl) := treeLevel fmt c r; (some a :: ys, gl)
  | none :: b :: r => let (ys, gl) := treeLevel fmt c r; (b :: ys, gl)
  | [a] => ([a], 0)
  | [] => ([], 0)

/-- The tree's levels until one value remains. -/
def treeUp (fmt : Fmt) (c : RCtx) : Nat → List (Option Nat) → Option Nat × Word
  | 0, ts => (ts.headD none, 0)
  | n + 1, ts =>
    let (us, fl) := treeLevel fmt c ts
    let (r, gl) := treeUp fmt c n us
    (r, fl ||| gl)

/-- A reduction by the fixed tree over 2^levels places; a NaN result is canonical even when it met no addition, and every term
absent gives +0 (05 R146). -/
def treeSum (fmt : Fmt) (c : RCtx) (levels : Nat) (ts : List (Option Nat)) : FRes :=
  let sig := flagIf (ts.any (fun t => (t.map (fun a => (fmt.decode a).isSig)).getD false)) flagNV
  let (r, fl) := treeUp fmt { c with sat := false } levels ts
  match r with
  | none => (0, 0)
  | some x =>
    match fmt.decode x with
    | .nan _ => (fmt.nanBits, fl ||| sig)
    | .inf n => if c.sat then (fmt.signBit n + fmt.maxBits, fl ||| sig) else (x, fl ||| sig)
    | .num .. => (x, fl ||| sig)

end Sys2Proof.Machine
end

