-- ==== Sys2Proof/Machine/TxLog.lean ====
section
/-! DEFINITION. Loads and stores of a fibre: logged inside a transaction (06 R152, R153, R162), performed outside one
(03 R86, R93; 04 R103, R127). -/

namespace Sys2Proof.Machine

/-- The key of the 8-byte write word that holds byte k of a line (06 R153). -/
def wordKey (line k : Nat) : Nat := line * 8 + k / 8

/-- The byte that the write log holds. -/
def Tx.byteAt (t : Tx) (line k : Nat) : Option Byte :=
  match t.writes.find? (fun w => w.word == wordKey line k) with
  | some w => if w.mask.getLsbD (k % 8) then some (BitVec.ofNat 8 (w.data.toNat / 2 ^ (8 * (k % 8)))) else none
  | none => none

/-- n bytes from byte k of a line: the write log's where it holds them, else those of the line (06 R153). -/
def Tx.overlay (t : Tx) (line : Nat) (d : BitVec 512) : Nat → Nat → Nat
  | _, 0 => 0
  | k, n + 1 => ((t.byteAt line k).map BitVec.toNat).getD (lineBytes d k 1) + 256 * Tx.overlay t line d (k + 1) n

/-- An irrevocable attempt meets the lock of one of another vein: the one in the lower-numbered vein waits and the other restarts
(06 R162). -/
def meetLock (who : Who) (o : FibreId) : M Unit := do
  let s ← get
  let mine := s.veinOfCore who.core
  let other := s.veinOfCore (s.coreOf o.crew)
  if mine < other then waitM (.oust o) else if mine == other then waitM .line else throw .restart

/-- An irrevocable attempt locks a line at its first access. -/
def irrevLock (who : Who) (t : Tx) (line : Nat) : M Unit := do
  if t.irrev then
    let s ← get
    match s.lockedBy who.fibre line with
    | some o => meetLock who o
    | none =>
      if !s.mem.locks.any (fun k => k.line == line && k.owner == who.fibre) then
        modify (fun s => { s with mem := { s.mem with locks := s.mem.locks ++ [{ line := line, owner := who.fibre }] } })

/-- The fibre's own earlier dirty bytes of a line reach the L2 before a transactional read of it (04 R100). A line that a fibre
of its own home wave has locked was written back when that fibre locked it. -/
def txFlush (who : Who) (line : Nat) : M Unit := do
  let s ← get
  let near := match s.lockedBy who.fibre line with
    | some o => o.crew == who.fibre.crew && o.index / 32 == who.fibre.index / 32
    | none => false
  if !near then l1Flush who line

/-- The checks of a transactional access, and where it lies: a page that is not resident aborts (06 R152). -/
def txPlace (who : Who) (va : DWord) (bytes : Nat) (write : Bool) : M Phys := do
  checkGlobal va bytes
  let p ← translate who va write
  if p.loc != 0 then abortM txRemote
  checkView p va
  pure p

/-- A transactional load (06 R153). A line that is logged already is read again; bytes that its entry holds keep their logged
values there. -/
def logLoad (c : Ctx) (f : Fibre) (va : DWord) (bytes : Nat) : M Nat := do
  let f ← curF f
  heldClear f va bytes
  let who ← whoM c f
  let p ← txPlace who va bytes false
  match f.tx with
  | none => pure 0
  | some t => do
    let line := lineNo p.pa p.view
    let k := p.pa % 64
    let need := (List.range bytes).filter (fun i => (t.byteAt line (k + i)).isNone)
    if need.isEmpty then pure (t.overlay line 0 k bytes)
    else do
      let logged := t.reads.any (fun r => r.line == line)
      if !logged && t.reads.length ≥ 16 then abortM txCapacity
      irrevLock who t line
      txFlush who line
      let d ← l2Read { who with throughLock := true } line va
      let s ← get
      let mask := need.foldl (fun (m : BitVec 64) i => m ||| BitVec.ofNat 64 (2 ^ (k + i))) 0
      let slice := s.mem.homeSlice (linePa line)
      let fresh : TxRead := { line := line, mask := mask, data := d, ver := ((s.mem.l2At line).map L2Line.ver).getD 0
                              clock := s.mem.clocks.getD slice 0, slice := slice }
      let reads := if logged then t.reads.map (fun r => if r.line == line then
          { r with mask := r.mask ||| mask, data := mergeLine d r.data r.mask } else r)
        else t.reads ++ [fresh]
      putF { f with tx := some { t with reads := reads } }
      pure (t.overlay line d k bytes)

/-- One byte put into the write log. -/
def putWrite (ws : List TxWrite) (key j : Nat) (b : Nat) : List TxWrite :=
  let m : BitVec 8 := BitVec.ofNat 8 (2 ^ j)
  let d : DWord := BitVec.ofNat 64 (b % 256 * 2 ^ (8 * j))
  let off : DWord := BitVec.ofNat 64 (255 * 2 ^ (8 * j))
  if ws.any (fun w => w.word == key) then
    ws.map (fun w => if w.word == key then { w with mask := w.mask ||| m, data := (w.data &&& ~~~off) ||| d } else w)
  else ws ++ [{ word := key, mask := m, data := d }]

/-- Bytes of a value put into the write log from byte k of a line. -/
def putWrites (ws : List TxWrite) (line : Nat) : Nat → Nat → Nat → List TxWrite
  | _, 0, _ => ws
  | k, n + 1, v => putWrites (putWrite ws (wordKey line k) (k % 8) (v % 256)) line (k + 1) n (v / 256)

/-- A transactional store (06 R153). -/
def logStore (c : Ctx) (f : Fibre) (va : DWord) (bytes v : Nat) : M Unit := do
  let f ← curF f
  heldClear f va bytes
  let who ← whoM c f
  let p ← txPlace who va bytes true
  match f.tx with
  | none => pure ()
  | some t => do
    let line := lineNo p.pa p.view
    let ws := putWrites t.writes line (p.pa % 64) bytes v
    if ws.length > 8 then abortM txCapacity
    irrevLock who t line
    txFlush who line
    let page := (p.leaf, pageOf va)
    let ps := if p.loc != 0 || t.pages.contains page then t.pages else t.pages ++ [page]
    putF { f with tx := some { t with writes := ws, pages := ps } }

/-! ### Outside a transaction -/

/-- A load of a fibre (`rld`: an RLD's request is of its own size, 03 R94), inside a transaction or outside one. -/
def fibreLoad (c : Ctx) (f : Fibre) (va : DWord) (bytes : Nat) (path : Path) (rld : Bool := false) : M Nat := do
  let f ← curF f
  if f.tx.isSome then logLoad c f va bytes
  else do
    heldClear f va bytes
    let who ← whoM c f
    loadG { who with rld := rld } va bytes path

/-- A store of a fibre, inside a transaction or outside one. -/
def fibreStore (c : Ctx) (f : Fibre) (va : DWord) (bytes v : Nat) (path : Path) : M Unit := do
  let f ← curF f
  if f.tx.isSome then logStore c f va bytes v
  else do
    heldClear f va bytes
    let who ← whoM c f
    storeG who va bytes v path

/-- A scope that an access reaches beyond the core with is performed at the L2 (17 R346). -/
def State.scopePath (s : State) (who : Who) (scope : Nat) : Path := if s.wide who scope then .l2 else .l1

/-- Releases of a fibre that are still to be performed: those held, and those cancelled behind a refused store (04 R127). -/
def Resume.late : Resume → List LateStore
  | .stores st rel => if st.scope == 0 then rel else st :: rel
  | _ => []
def Fibre.late (f : Fibre) : List LateStore :=
  f.held ++ f.dues.flatMap (fun d => d.2.late) ++ ((f.inTrap.map (fun t => t.resume.late)).getD [])

/-- Whether a release waits for a forwarded store before it, or for a release of a lower lane at its bytes (04 R127; 03 R73). -/
def State.lateWaits (s : State) (h : LateStore) : Bool :=
  h.behind.any s.isOut || h.after.any (fun k => s.fibres.any (fun f => f.late.any (fun r => r.id == k)) || s.left.any (fun e => e.rel.id == k))

/-- A releasing store performed: the release, then the store (04 R104). -/
def performRelease (who : Who) (va : DWord) (bytes v scope : Nat) : M Unit := do
  let s ← get
  if s.wide who scope then forM_ (s.l1Cores who.core) (fun k => wbCore who k)
  storeG who va bytes v (s.scopePath who scope)

end Sys2Proof.Machine
end

