-- ==== Sys2Proof/Machine/Access.lean ====
section
/-! DEFINITION. The instructions 0x80 to 0x9C (17): loads and stores of every space, prefetch and cache ranges, split gathers,
copies, handles, stream helpers. -/

namespace Sys2Proof.Machine

/-! ### Addresses (17 R344) -/

/-- The signed byte offset of imm32. -/
def Ctx.off (c : Ctx) : DWord := .sext c.w.imm

/-- A global address: A + sext(imm32) modulo 2^64. -/
def Ctx.gaddr (c : Ctx) (f : Fibre) : DWord := c.a64 f + c.off

/-- A scratchpad, sibling or constant address: A + sext(imm32) modulo 2^32. -/
def Ctx.saddr (c : Ctx) (f : Fibre) : Nat := (c.a f + c.w.imm).toNat

/-- HINT `.nol1` performs the access at the L2 (17 R347). -/
def hintPath (m : Byte) : Path := if modField m 6 2 == 3 then .l2 else .l1

/-- SCOPE of the mem layout. -/
def memScope (m : Byte) : Nat := modField m 3 3

/-- A loaded value delivered as SZ says (17 R345). -/
def Ctx.putLoad (c : Ctx) (f : Fibre) (v : Nat) : Fibre :=
  c.deliver f (szRegs c.w.mod c.w.d.n.toNat) (words (szWords c.w.mod) (szExtend c.w.mod v))

/-- The fibre as it now stands, with a loaded value. -/
def putLoadM (c : Ctx) (f : Fibre) (v : Nat) : M Unit := do
  let f ← curF f
  putF (c.putLoad f v)

/-! ### Global loads and stores (17 R346, R349) -/

def laneLd (c : Ctx) (f : Fibre) : M Unit := do
  let v ← fibreLoad c f (c.gaddr f) (szBytes c.w.mod) (hintPath c.w.mod)
  putLoadM c f v

def laneSt (c : Ctx) (f : Fibre) : M Unit :=
  fibreStore c f (c.gaddr f) (szBytes c.w.mod) (c.storeVal f c.w.b) (hintPath c.w.mod)

/-- LDA acquires after its read (04 R104); inside a transaction it acts as LD (06 R152). -/
def laneLda (c : Ctx) (f : Fibre) : M Unit := do
  let who ← whoM c f
  let scope := memScope c.w.mod
  if f.tx.isSome then
    let v ← fibreLoad c f (c.gaddr f) (szBytes c.w.mod) .l2
    putLoadM c f v
  else do
    spanGate who scope
    let s ← get
    let v ← fibreLoad c f (c.gaddr f) (szBytes c.w.mod) (s.scopePath who scope)
    acquire who scope
    putLoadM c f v

/-- The releases at some bytes that the instruction holds for lanes below a lane's: its own is performed after them (03 R73). -/
def Ctx.heldBelow (c : Ctx) (s : State) (f : Fibre) (place n : Nat) : List Nat :=
  (c.act.filter (fun g => g.lane < f.lane)).flatMap (fun g =>
    ((((s.fibre? g.id).map Fibre.held).getD []).filter (fun h => h.pc == c.pc && h.place < place + n && place < h.place + h.bytes)).map LateStore.id)

/-- STL releases: it is held while an earlier store of the fibre is not acknowledged (04 R104, R127). -/
def laneStl (c : Ctx) (f : Fibre) : M Unit := do
  let who ← whoM c f
  let scope := memScope c.w.mod
  let va := c.gaddr f
  let n := szBytes c.w.mod
  let v := c.storeVal f c.w.b
  if f.tx.isSome then logStore c f va n v
  else do
    spanGate who scope
    checkGlobal va n
    let p ← translate who va true
    checkView p va
    let s ← get
    let place := placeNo p.loc p.peer p.pa
    let lower := c.heldBelow s f place n
    if s.storesOpen f.id || !lower.isEmpty then
      let (i, t) := s.newId
      set t
      let g ← curF f
      putF { g with held := g.held ++ [{ pc := c.pc, va := va, bytes := n, val := BitVec.ofNat 128 v, scope := scope
                                         behind := s.outstanding f.id, id := i, place := place, after := lower }] }
    else performRelease who va n v scope

def laneRld (c : Ctx) (f : Fibre) : M Unit := do
  let v ← fibreLoad c f (c.gaddr f) 8 .l2 true
  putLoadM c f v

/-- The line that PREF brings into a level. -/
def prefLine (c : Ctx) (f : Fibre) : M Unit := do
  let who ← whoM c f
  let va := c.gaddr f
  let p ← translate who va false
  checkM (p.loc == 0) (trans 0 0 false) va
  checkView p va
  let line := lineNo p.pa p.view
  if modField c.w.mod 6 2 == 0 then
    let _ ← l1Read who line 0 64 va
  else
    let _ ← l2Read who line va

/-- PREF changes no value and raises no fault: what cannot be done is left undone (17 R349). -/
def lanePref (c : Ctx) (f : Fibre) : M Unit := do
  let s ← get
  match (prefLine c f).run s with
  | .ok (_, t) => set t
  | .error _ => pure ()

def execLd (w : Fields) (s : State) : Host.Outcome State Fault Refusal := issue .ld w (perLane laneLd) s
def execSt (w : Fields) (s : State) : Host.Outcome State Fault Refusal := issue .st w (perLane laneSt) s
def execLda (w : Fields) (s : State) : Host.Outcome State Fault Refusal := issue .lda w (perLane laneLda) s
def execStl (w : Fields) (s : State) : Host.Outcome State Fault Refusal := issue .stl w (perLane laneStl) s
def execRld (w : Fields) (s : State) : Host.Outcome State Fault Refusal := issue .rld w (perLane laneRld) s
def execPref (w : Fields) (s : State) : Host.Outcome State Fault Refusal := issue .pref w (perLane lanePref) s

/-! ### Scratchpad, sibling and constant access (17 R348; 03 R71 to R78) -/

def laneLds (c : Ctx) (f : Fibre) : M Unit := do
  let v ← spLoad f (c.saddr f) (szBytes c.w.mod)
  putLoadM c f v

def laneSts (c : Ctx) (f : Fibre) : M Unit := spStore f (c.saddr f) (szBytes c.w.mod) (c.storeVal f c.w.b)

def laneLdx (c : Ctx) (f : Fibre) : M Unit := do
  let a := c.saddr f
  let u ← siblingM f c.w.b.n.toNat a (szBytes c.w.mod)
  spSound u a (szBytes c.w.mod)
  putLoadM c f (u.sp.getN a (szBytes c.w.mod))

def laneStx (c : Ctx) (f : Fibre) : M Unit := do
  let a := c.saddr f
  let u ← siblingM f c.w.d.n.toNat a (szBytes c.w.mod)
  putT { u with sp := u.sp.setN a (szBytes c.w.mod) (c.storeVal f c.w.b) }

/-- A byte of a launch's constant bank (03 R77). -/
def State.constByte (s : State) (launch a : Nat) : Byte :=
  match s.launch? launch with
  | some l => if a < 4096 then l.args.getD a 0
    else ((s.object? l.obj).map (fun o => o.consts.getD (a - 4096) 0)).getD 0
  | none => 0

def State.constN (s : State) (launch a : Nat) : Nat → Nat
  | 0 => 0
  | n + 1 => (s.constByte launch a).toNat + 256 * State.constN s launch (a + 1) n

def laneLdc (c : Ctx) (f : Fibre) : M Unit := do
  let a := c.saddr f
  let n := szBytes c.w.mod
  checkM (a % n == 0) (memAlign 3) (BitVec.ofNat 64 a)
  checkM (a < 65536) memConstRange (BitVec.ofNat 64 a)
  let s ← get
  putLoadM c f (s.constN c.launch a n)

/-- STFE stores, then sets full; it does not wait (03 R74). -/
def laneStfe (c : Ctx) (f : Fibre) : M Unit := do
  let a := c.saddr f
  spStore f a (szBytes c.w.mod) (c.storeVal f c.w.b)
  let t ← teamM f
  putT (t.setFull a true)

/-- The read of an LDFE whose granule is full; `.clr` empties it (03 R74, R75). -/
def laneLdfe (c : Ctx) (f : Fibre) : M Unit := do
  let a := c.saddr f
  let v ← spLoad f a (szBytes c.w.mod)
  let t ← teamM f
  if !t.isFull a then waitM .fill
  if modBit c.w.mod 6 then putT (t.setFull a false)
  putLoadM c f v

/-- LDFE: in an ordinary launch lanes on empty granules wait as a wave of their own; in a deterministic launch the wave holds,
and its served lanes keep what they read (01 R15, R16). -/
def bodyLdfe : Body := fun c s =>
  let (s', ways) := tryLanes c c.det (fun _ => none) laneLdfe [] c.act s
  let waits := ways.filter (fun p => p.2.isStay)
  if waits.isEmpty then .ok (s', ways)
  else if c.det then
    let open_ := fun (f : Fibre) => ways.any (fun p => p.1 == f.id)
    let done := lanesOf (c.act.filter (fun f => !open_ f))
    .ok (s'.setWave { ((s'.wave? c.wv.id).getD c.wv) with arrived := c.wv.arrived ||| done }, c.stayAll .fill)
  else if waits.length == c.act.length then .ok (s, c.stayAll .fill)
  else .ok (s', ways)

def execLds (w : Fields) (s : State) : Host.Outcome State Fault Refusal := issue .lds w (perLane laneLds) s
def execSts (w : Fields) (s : State) : Host.Outcome State Fault Refusal := issue .sts w (perLane laneSts) s
def execLdx (w : Fields) (s : State) : Host.Outcome State Fault Refusal := issue .ldx w (heldLanes laneLdx) s
def execStx (w : Fields) (s : State) : Host.Outcome State Fault Refusal := issue .stx w (heldLanes laneStx) s
def execLdc (w : Fields) (s : State) : Host.Outcome State Fault Refusal := issue .ldc w (perLane laneLdc) s
def execLdfe (w : Fields) (s : State) : Host.Outcome State Fault Refusal := issue .ldfe w bodyLdfe s
def execStfe (w : Fields) (s : State) : Host.Outcome State Fault Refusal := issue .stfe w (perLane laneStfe) s

/-! ### Cache ranges and ACQP (17 R350, R351; 04 R121) -/

/-- A translation for an instruction that skips a page that is not present (TRANS.NOTPRESENT); any other fault of the walk stays. -/
def translateOrSkip (who : Who) (va : DWord) : M (Option Phys) := do
  let s ← get
  match (translate who va false).run s with
  | .ok (p, t) => do
    set t
    pure (some p)
  | .error (.trap d) => if (List.range 4).any (fun l => d.cause == trans 0 l false) then pure none else throw (.trap d)
  | .error e => throw e

/-- Lines from one to another in an L1 written back, and given up as well under CINV. -/
def l1Range (who : Who) (core lo hi : Nat) (inv : Bool) : M Unit := do
  let inside := fun (l : Nat) => lo ≤ l && l ≤ hi
  wbLines who core inside
  if inv then modify (fun s => s.setCore core (fun c => { c with l1 := c.l1.filter (fun l => !inside l.line) }))

/-- The range of CWB and CINV page by page; pages that are not in device memory hold no L1 line. -/
def cacheRange (who : Who) (inv : Bool) (first last : Nat) : M Unit :=
  forM_ (List.range (last / 32768 - first / 32768 + 1)) (fun i => do
    let page := (first / 32768 + i) * 32768
    let a := max page first
    let b := min (page + 32767) last
    let r ← translateOrSkip who (BitVec.ofNat 64 a)
    match r with
    | some p =>
      if p.loc == 0 then do
        let s ← get
        forM_ (s.l1Cores who.core) (fun k => l1Range who k (lineNo p.pa p.view) (lineNo (p.pa + (b - a)) p.view) inv)
    | none => pure ())

/-- A byte range must lie in one view (03 R84). -/
def checkRange (a : DWord) (n : Nat) : M Unit := do
  checkM (n == 0 || (a.toNat + n ≤ 2 ^ 51 && a.toNat / 2 ^ 50 == (a.toNat + n - 1) / 2 ^ 50)) memAddrBits a

def laneCache (inv : Bool) (c : Ctx) (f : Fibre) : M Unit := do
  let who ← whoM c f
  let a := c.a64 f
  let n := (c.b f).toNat
  checkRange a n
  if n != 0 then cacheRange who inv a.toNat (a.toNat + n - 1)

/-- ACQP: the victim's core writes back and invalidates, then the acquire (04 R121). A team that is not resident holds no
unwritten store. -/
def laneAcqp (c : Ctx) (f : Fibre) : M Unit := do
  let s ← get
  let who := s.whoOf c f
  let v := (c.a f).toNat
  checkM (v < ((s.launch? c.launch).map Launch.nteams).getD 0) (insnOperand 2)
  match s.team? c.launch v with
  | some t =>
    let cores := s.l1Cores t.core
    forM_ cores (fun k => wbCore who k)
    modify (fun s => cores.foldl State.invalidateCore s)
  | none => pure ()
  acquire who 3

def execCwb (w : Fields) (s : State) : Host.Outcome State Fault Refusal := issue .cwb w (perLane (laneCache false)) s
def execCinv (w : Fields) (s : State) : Host.Outcome State Fault Refusal := issue .cinv w (perLane (laneCache true)) s
def execAcqp (w : Fields) (s : State) : Host.Outcome State Fault Refusal := issue .acqp w (perLane laneAcqp) s

/-! ### Split gathers (08 R184 to R188; 17 R352) -/

/-- A lane leaves a GLDS: its label is open, its element delivered; a fault of its load is KIND 4, and ERET performs that load
alone (19 R413). -/
def gldsLane (c : Ctx) (s : State) (f : Fibre) : Except (Wait × List Fwd) (State × List (FibreId × Way)) :=
  let va := c.a64 f
  let n := szBytes c.w.mod
  let f := { f with labels := (c.pc + c.w.imm) :: f.labels }
  let load : M Unit := do
    putF f
    let v ← fibreLoad c f va n (hintPath c.w.mod)
    putLoadM c f v
  match load.run s with
  | .ok (_, s') => .ok (s', [])
  | .error (.trap d) =>
    .ok (s.setFibre f, [(f.id, .trap { d with kind := 4 }
      (.gather va (modField c.w.mod 0 3) (szRegs c.w.mod c.w.d.n.toNat) (modField c.w.mod 6 2) c.fall) c.pc)])
  | .error (.abort e) => .ok (s, [(f.id, .abort e)])
  | .error .restart => .ok (s, [(f.id, .restart)])
  | .error (.wait w post) => .error (w, post)

/-- The lanes that leave; their requests go out together (03 R94). -/
def gldsLanes (c : Ctx) : List Fibre → State → Except (Wait × List Fwd) (State × List (FibreId × Way))
  | [], s => .ok (s, [])
  | f :: fs, s => do
    let (s, a) ← (match gldsLane c s f with
      | .error (.remote, post) => .error (.remote, togetherFrom c.core post (laneNeeds (fun g t => (gldsLane c t g).map Prod.fst) s fs) s)
      | x => x)
    let (s, b) ← gldsLanes c fs s
    pure (s, a ++ b)

/-- In an ordinary launch each lane that faults enters the runtime as a wave of its own: of some ways, those that find no room in the
trap bank stay at the GLDS, and hold no other lane (08 R188; 28 R479). -/
def roomFor : Nat → List (FibreId × Way) → List (FibreId × Way)
  | _, [] => []
  | n, (i, .trap d r pc) :: l => match n with
    | 0 => (i, .stay .gather) :: roomFor 0 l
    | m + 1 => (i, .trap d r pc) :: roomFor m l
  | n, p :: l => p :: roomFor n l

/-- GLDS: lanes leave in at most four parts as their data arrives; a deterministic launch's wave leaves whole (08 R185). What has
arrived is marked by GLDS_LANE_ARRIVAL. -/
def bodyGlds : Body := fun c s =>
  let here := c.act.filter c.served
  let rest := c.act.filter (fun f => !c.served f)
  let hold := !rest.isEmpty && (c.det || here.isEmpty || c.wv.parts ≥ 3)
  if hold then .ok (s, c.stayAll .gather)
  else do
    let (t, ways) ← gldsLanes c here s
    let ways := if c.det then ways else roomFor (s.bankRoom c.wv) ways
    let held := here.filter (fun f => ways.any (fun p => p.1 == f.id && p.2.isStay))
    if held.length == c.act.length then .error (.bank, [])
    else
      -- A lane that finds no room stands at the GLDS as before.
      let t := t.setFibres held
      let w := (t.wave? c.wv.id).getD c.wv
      pure (t.setWave { w with arrived := lanesOf held, parts := if held.length == here.length then w.parts else w.parts + 1 },
        ways ++ rest.map (fun f => (f.id, Way.stay .gather)))

/-- A wave of lanes that a GLDS has sent to the runtime together: each becomes a wave of its own (08 R188). -/
def State.splitFaults (before s : State) (wv : Wave) : State :=
  let new := fun (f : Fibre) => f.inTrap.isSome && ((before.fibre? f.id).map (fun g => g.inTrap.isNone)).getD false && f.trap.kind == 4
  (s.waves.filter (fun w => w.crew == wv.crew && w.home == wv.home && (s.waveFibres w).all new)).foldl (fun s w =>
    match s.waveFibres w with
    | f :: g :: r => (s.setWave { w with lanes := lanesOf [f], staged := none }).addParts { w with staged := none } ((g :: r).map (fun h => [h]))
    | _ => s) s

def execGlds (w : Fields) (s : State) : Host.Outcome State Fault Refusal :=
  match issue .glds w bodyGlds s, s.cur.bind s.wave? with
  | .next t, some wv => if s.det wv.crew.launch then .next t else .next (s.splitFaults t wv)
  | x, _ => x

/-! ### Handles (03 R81 to R83; 17 R353 to R362) -/

/-- A handle of a team. -/
def Team.handle (t : Team) (h : Nat) : Handle := t.handles.getD h {}
def Team.setHandle (t : Team) (h : Nat) (x : Handle) : Team := { t with handles := t.handles.set h x }

/-- Where a handle's buffer lies, in bytes. -/
def Handle.start (h : Handle) : Nat := h.base.toNat * 16
def Handle.bytes (h : Handle) : Nat := h.size.toNat * 16

/-- The record that HSTAT reads (03 R81). -/
def Handle.record (h : Handle) : DWord :=
  let st := match h.state with
    | .free => 0
    | .filling => 1
    | .full => 2
    | .draining => 3
  BitVec.ofNat 64 (st + 4 * h.paused.toNat + 16 * h.status.toNat + 2 ^ 13 * h.count + 2 ^ 32 * h.base.toNat + 2 ^ 48 * h.size.toNat)

/-- A join: the observer's clean L1 lines go (04 R114). -/
def joinM (c : Ctx) : M Unit := modify (fun s => (s.l1Cores c.core).foldl State.invalidateCore s)

/-- Whether HDEF and HSET wait for a handle. -/
def Handle.busy (h : Handle) : Bool := h.state == .filling || h.state == .draining

def waveHdef (c : Ctx) : M Unit := do
  let t ← teamM c.lead
  let h := t.handle c.w.d.n.toNat
  if h.busy then waitM .handle
  let a := (c.a c.lead).toNat
  let b := (c.b c.lead).toNat
  checkM (a % 16 == 0) (memAlign 1) (BitVec.ofNat 64 a)
  checkM (b % 16 == 0) (memAlign 1) (BitVec.ofNat 64 b)
  checkM (a + b ≤ t.spSize) memSpRange (BitVec.ofNat 64 a)
  putT (t.setHandle c.w.d.n.toNat { h with base := BitVec.ofNat 14 (a / 16), size := BitVec.ofNat 15 (b / 16) })

/-- HWAIT: FREE and FULL end it, a paused operation's FULL as well (R360; 03 R83) [103]. -/
def waveHwait (c : Ctx) : M Unit := do
  let t ← teamM c.lead
  let h := t.handle c.w.a.n.toNat
  if h.busy then waitM .handle
  if h.state == .full then joinM c

def waveHset (c : Ctx) : M Unit := do
  let t ← teamM c.lead
  let h := t.handle c.w.a.n.toNat
  if h.busy then waitM .handle
  if h.state == .full then
    putT (t.setHandle c.w.a.n.toNat (if h.paused then { h with state := .filling, paused := false, count := 0 }
      else { h with state := .free, count := 0 }))

def laneHstat (c : Ctx) (f : Fibre) : M Unit := do
  let t ← teamM f
  let h := t.handle c.w.a.n.toNat
  if h.state == .full then joinM c
  putF (c.putD64 f h.record)

def execHdef (w : Fields) (s : State) : Host.Outcome State Fault Refusal := issue .hdef w (perWave waveHdef) s
def execHwait (w : Fields) (s : State) : Host.Outcome State Fault Refusal := issue .hwait w (perWave waveHwait) s
def execHset (w : Fields) (s : State) : Host.Outcome State Fault Refusal := issue .hset w (perWave waveHset) s
def execHstat (w : Fields) (s : State) : Host.Outcome State Fault Refusal := issue .hstat w (perLane laneHstat) s

/-! ### Starting an engine operation (04 R113; 03 R82, R83; 17 R353) -/

/-- The buffer check of an engine operation. -/
def bufferCheck (t : Team) (h : Nat) : M Unit := do
  let x := t.handle h
  checkM (x.bytes != 0 && x.start + x.bytes ≤ t.spSize) memSpRange (BitVec.ofNat 64 x.start)

/-- The fork: earlier accesses of every active fibre are acknowledged, and the core writes back (04 R113). -/
def forkEdge (c : Ctx) : M Unit := do
  let s ← get
  if c.act.any (fun f => s.storesOpen f.id) then waitM .stores
  let who ← whoM c c.lead
  forM_ (s.l1Cores c.core) (fun k => wbCore who k)

/-- An operation enters its engine; operations of different cores arrive in the order of their issue [108]. -/
def pushOp (o : EngOp) : M Unit := modify (fun s =>
  let (i, s) := s.newId
  { s with ops := s.ops ++ [{ o with id := i }] })

/-- A wave that already waits for its handle checks nothing again before the wait ends (17 R353). -/
def stillWaits (c : Ctx) (h : Nat) : M Unit := do
  let t ← teamM c.lead
  if c.wv.wait == some .handle && (t.handle h).state != .free then waitM .handle

/-- An operation with a handle as destination: its buffer, the wait for a FREE handle, the fork; then FILLING. -/
def startEngine (c : Ctx) (h : Nat) (o : EngOp) : M Unit := do
  stillWaits c h
  let t ← teamM c.lead
  bufferCheck t h
  if (t.handle h).state != .free then waitM .handle
  forkEdge c
  let t ← teamM c.lead
  putT (t.setHandle h { t.handle h with state := .filling, status := 0, count := 0, paused := false })
  pushOp { o with launch := t.launch, team := t.id, core := t.core, handle := h }

/-- The checks of a stream at issue (08 R190). -/
def checkStream (base : DWord) (n : Nat) : M Unit := do
  checkM (base.toNat % 4 == 0) (memAlign 0) base
  checkM (base.toNat / 2 ^ 51 == 0) memAddrBits base
  checkRange base (4 * n)

/-- An engine operation that reads a record from scratchpad reads it once, when it issues, before any wait for its handle (17 R353,
R355). -/
def engineBody (prep : Ctx → M (List Byte)) (start : Ctx → List Byte → M Unit) : Body := fun c s =>
  let stop := fun (e : Stop) => (c.wayOf e).map (fun w => (s, c.act.map (fun x => (x.id, w))))
  let got : Except Stop (List Byte × State) := match c.wv.record with
    | some b => .ok (b, s)
    | none => (prep c).run s
  match got with
  | .error e => stop e
  | .ok (b, t) => match (start c b).run t with
    | .ok (_, u) => .ok (u, [])
    | .error (.wait .handle _) => .ok (s.setWave { ((s.wave? c.wv.id).getD c.wv) with record := some b }, c.stayAll .handle)
    | .error e => stop e

def waveStreams (k : EngKind) (c : Ctx) : M Unit := do
  let f := c.lead
  let a := c.a64 f
  let b := c.b64 f
  let n := f.reg c.w.c.n.toNat
  let m := f.reg (c.w.c.n.toNat + 1)
  checkStream a n.toNat
  checkStream b m.toNat
  startEngine c c.w.d.n.toNat { id := 0, kind := k, launch := 0, team := 0, core := 0, handle := 0, a := a, b := b, c := .zext n, d := .zext m }

def execIsect (w : Fields) (s : State) : Host.Outcome State Fault Refusal := issue .isect w (perWave (waveStreams .isect)) s
def execMerge (w : Fields) (s : State) : Host.Outcome State Fault Refusal := issue .merge w (perWave (waveStreams .merge)) s

/-- A copy record (17 R355). -/
structure CopyRec where
  gbase : DWord
  gstride : Int
  rows : Nat
  rowbytes : Nat
  idxoff : Nat
  spoff : Nat
  zero : Nat
  store : Bool
deriving DecidableEq, Repr, Inhabited

/-- A little-endian field of a block of bytes. -/
def field (b : List Byte) (k n : Nat) : Nat := ((b.drop k).take n).foldr (fun x acc => x.toNat + 256 * acc) 0

def CopyRec.ofBytes (b : List Byte) : CopyRec where
  gbase := BitVec.ofNat 64 (field b 0 8)
  gstride := (BitVec.ofNat 64 (field b 8 8)).toInt
  rows := field b 16 4
  rowbytes := field b 20 4
  idxoff := field b 24 4
  spoff := field b 28 4 % 2 ^ 18
  zero := field b 28 4 / 2 ^ 18 % 2 ^ 13
  store := field b 28 4 / 2 ^ 31 == 1

/-- Whether every field lies inside its limits (17 R355, R356). -/
def CopyRec.ok (r : CopyRec) (indexed : Bool) : Bool :=
  1 ≤ r.rows && r.rows ≤ 65536 && 4 ≤ r.rowbytes && r.rowbytes ≤ 65536 && r.rowbytes % 4 == 0
    && r.zero == 0 && (r.store || r.spoff == 0)
    && (if indexed then r.idxoff % 4 == 0
      else r.idxoff == 0 && r.gbase.toNat / 2 ^ 51 == 0 && r.gbase.toNat % 4 == 0 && r.gstride % 4 == 0)

/-- The record at a scratchpad offset that must be 16-byte aligned and lie within the current size. -/
def spBlock (t : Team) (a n : Nat) : M (List Byte) := do
  checkM (a % 16 == 0) (memAlign 1) (BitVec.ofNat 64 a)
  checkM (a + n ≤ t.spSize) memSpRange (BitVec.ofNat 64 a)
  spSound t a n
  pure (t.sp.getBytes a n)

/-- The record of a copy, and ICOPY's indices after it, with every check that is made before the wait. -/
def copyRecord (indexed : Bool) (c : Ctx) : M (List Byte) := do
  let t ← teamM c.lead
  bufferCheck t c.w.d.n.toNat
  let b ← spBlock t (c.a c.lead).toNat 32
  let r := CopyRec.ofBytes b
  checkM (r.ok indexed) (engineC 0 0)
  checkM (!indexed || r.idxoff + 4 * r.rows ≤ t.spSize) memSpRange (BitVec.ofNat 64 r.idxoff)
  checkM (!r.store || (r.spoff % 4 == 0 && r.spoff + r.rows * r.rowbytes ≤ t.spSize)) memSpRange (BitVec.ofNat 64 r.spoff)
  if indexed then spSound t r.idxoff (4 * r.rows)
  pure (if indexed then b ++ t.sp.getBytes r.idxoff (4 * r.rows) else b)

def startCopy (indexed : Bool) (c : Ctx) (b : List Byte) : M Unit := do
  let idx := if indexed then (List.range (CopyRec.ofBytes b).rows).map (fun k => field b (32 + 4 * k) 4) else []
  startEngine c c.w.d.n.toNat { id := 0, kind := if indexed then .icopy else .tcopy, launch := 0, team := 0, core := 0, handle := 0
                                block := b.take 32, idx := idx }

def execTcopy (w : Fields) (s : State) : Host.Outcome State Fault Refusal := issue .tcopy w (engineBody (copyRecord false) (startCopy false)) s
def execIcopy (w : Fields) (s : State) : Host.Outcome State Fault Refusal := issue .icopy w (engineBody (copyRecord true) (startCopy true)) s

/-! ### Stream helpers (08 R195; 17 R363 to R365) -/

/-- The checks of n consecutive words from a scratchpad base. -/
def wordsCheck (t : Team) (base n : Nat) : M Unit := do
  checkM (base % 4 == 0) (memAlign 1) (BitVec.ofNat 64 base)
  let fit := (t.spSize - base) / 4
  checkM (base ≤ t.spSize && n ≤ fit || n == 0) memSpRange (BitVec.ofNat 64 (base + 4 * fit))

def waveCompact (c : Ctx) : M Unit := do
  let t ← teamM c.lead
  let base := (c.a c.lead).toNat
  let who := c.act.filter (fun f => f.pred c.w.c.n.toNat)
  wordsCheck t base who.length
  let sp := ((List.range who.length).zip who).foldl (fun m (i, f) => Memory.setN m (base + 4 * i) 4 (c.b f).toNat) t.sp
  putT (t.wrote base (4 * who.length) sp)
  forM_ c.act (fun f =>
    let i := match who.findIdx? (fun g => g.lane == f.lane) with
      | some i => i
      | none => 0xFFFFFFFF
    putF (c.putD64 f (BitVec.ofNat 64 (i + 2 ^ 32 * who.length))))

def waveExpand (c : Ctx) : M Unit := do
  let t ← teamM c.lead
  let base := (c.a c.lead).toNat
  let who := c.act.filter (fun f => f.pred c.w.b.n.toNat)
  wordsCheck t base who.length
  spSound t base (4 * who.length)
  forM_ ((List.range who.length).zip who) (fun (i, f) => putF (c.putD f (BitVec.ofNat 32 (t.sp.getN (base + 4 * i) 4))))

/-- Segments of the active fibres: one begins at the first and at every fibre whose flag is set. -/
def segments (flag : Fibre → Bool) : List Fibre → List (List Fibre) → List (List Fibre)
  | [], acc => acc
  | f :: fs, acc => match acc with
    | [] => segments flag fs [[f]]
    | a => if flag f then segments flag fs (a ++ [[f]]) else segments flag fs (a.dropLast ++ [(a.getLast?.getD []) ++ [f]])

/-- The sum of a segment, one term at a time (17 R364). -/
def segrSum (c : Ctx) (seg : List Fibre) : FRes :=
  let xs := seg.map (fun f => (c.a f).toNat)
  let x0 := xs.headD 0
  let r := xs.drop 1
  if modField c.w.mod 3 2 != 0 then (r.foldl (fun a x => (a + x) % 2 ^ 32) x0, 0)
  else
    let ctx : RCtx := { mode := c.lead.rmode (modField c.w.mod 0 3) }
    if r.isEmpty then
      (match fp32.decode x0 with
        | .nan s => (fp32.nanBits, flagIf s flagNV)
        | _ => (x0, 0))
    else r.foldl (fun (a : FRes) x => let y := fp32.add ctx a.1 x; (y.1, a.2 ||| y.2)) (x0, 0)

def bodySegr : Body := fun c s =>
  let segs := segments (fun f => f.pred c.w.b.n.toNat) c.act []
  .ok (segs.foldl (fun s seg =>
    let r := segrSum c seg
    seg.foldl (fun s f => s.setFibre (c.putD f (BitVec.ofNat 32 r.1) r.2)) s) s, [])

/-- The binary search of 17 R365. -/
def bsrchFrom (c : Ctx) (f : Fibre) (base : DWord) (key : Nat) : Nat → Nat → Nat → M Nat
  | 0, lo, _ => pure lo
  | fuel + 1, lo, hi =>
    if lo < hi then do
      let mid := (lo + hi) / 2
      let x ← fibreLoad c f (base + BitVec.ofNat 64 (4 * mid)) 4 .l1
      if x ≥ key then bsrchFrom c f base key fuel lo mid else bsrchFrom c f base key fuel (mid + 1) hi
    else pure lo

def laneBsrch (c : Ctx) (f : Fibre) : M Unit := do
  let base := c.a64 f
  let n := (c.c4 f).toNat
  checkM (n == 0 || base.toNat / 2 ^ 51 == 0) memAddrBits base
  checkM (base.toNat % 4 == 0) (memAlign 0) base
  let q ← bsrchFrom c f base (c.b f).toNat 33 0 n
  let g ← curF f
  putF (c.putD g (BitVec.ofNat 32 q))

def execCompact (w : Fields) (s : State) : Host.Outcome State Fault Refusal := issue .compact w (perWave waveCompact) s
def execExpand (w : Fields) (s : State) : Host.Outcome State Fault Refusal := issue .expand w (perWave waveExpand) s
def execSegr (w : Fields) (s : State) : Host.Outcome State Fault Refusal := issue .segr w bodySegr s
def execBsrch (w : Fields) (s : State) : Host.Outcome State Fault Refusal := issue .bsrch w (perLane laneBsrch) s

end Sys2Proof.Machine
end

