-- ==== Sys2Proof/Machine/Fetch.lean ====
section
/-! DEFINITION. What precedes an instruction: time passes, a quadrant chooses a wave (02 R57 to R60), the wave's instruction is
fetched (12 R235, R236). -/

namespace Sys2Proof.Machine

/-! ### Time (02 R65, R66) -/

/-- Whether a fibre is suspended on a fault (02 R66; 28 R477); while it waits to write its fault record its watchdog counts
(28 R482). -/
def Fibre.suspended (f : Fibre) : Bool :=
  match f.inTrap with
  | some t => f.trap.kind == 1 && t.runtime != .toWrite
  | none => false

/-- Whether a team's watchdog counts: its gang is resident, no debugger halts it, and some live fibre is not suspended on a
fault. -/
def State.counts (s : State) (t : Team) : Bool :=
  let fs := s.fibres.filter (fun f => match f.id.crew with
    | .team l u _ => l == t.launch && u == t.id
    | .item .. => false)
  !t.halted && t.wdog != 0 &&
  ((s.gang? t.launch (s.gangOf t.launch t.id)).map (fun g => g.state == .placed || g.state == .started)).getD false &&
  fs.any (fun f => !f.suspended)

/-! ### Fetch -/

/-- The instruction at a PC of an object, and its length. -/
def Object.fetch (o : Object) (pc : Nat) : Instr × Nat :=
  if pc % 2 == 1 then (.oddOrOutOfCodeFetch, 12)
  else match decode ((o.code.drop pc).take 12) with
    | .ok (.dictionaryMark e x, _) => (.dictionaryMark e x, 2)
    | .ok (i, _) => (i, 12)
    | .error _ => (.oddOrOutOfCodeFetch, 12)

/-- The instruction that a wave issues next. -/
def State.fetch (s : State) (w : Wave) : Instr × Nat :=
  match (s.waveFibres w).head? with
  | none => (.oddOrOutOfCodeFetch, 12)
  | some f => match s.object? f.obj with
    | some o => o.fetch f.pc.toNat
    | none => (.oddOrOutOfCodeFetch, 12)

/-! ### The choice of a wave (02 R57 to R60; 12 R244) -/

/-- The memory instructions that throttling holds back (02 R58). -/
def Op.memory (op : Op) : Bool := (0x80 ≤ op.code && op.code ≤ 0xAC) || (0xB0 ≤ op.code && op.code ≤ 0xB8)

/-- A wave's rank. -/
def Wave.rank (w : Wave) : Nat := w.crew.crew * 32 + w.home

/-- The opcode and the fields a wave is about to execute, its mark looked up (12 R247). -/
def State.opFieldsAt (s : State) (w : Wave) : Option (Op × Fields) :=
  match (s.fetch w).1 with
  | .dictionaryMark e x =>
    (((s.waveFibres w).head?.bind (fun f => s.object? f.obj)).bind (fun o => o.dict[e.toNat * 256 + x.toNat]?)).bind
      (fun d => (Op.ofCode (d.toNat % 256)).map (fun op => (op, Fields.ofNat d.toNat)))
  | i => i.opFields

/-- The opcode a wave is about to execute. -/
def State.opAt (s : State) (w : Wave) : Option Op := (s.opFieldsAt w).map Prod.fst

/-- Whether throttling holds a wave back. -/
def State.throttled (s : State) (w : Wave) : Bool :=
  match s.teamOf? w.crew with
  | some t => t.polActive && t.nwave.toNat < w.rank && ((s.opAt w).map Op.memory).getD false
  | none => false

/-- Whether a wave stands at a TST that has begun to store to peers: it goes on until it has stored (11 R232; 18 R376). -/
def State.storesTile (s : State) (w : Wave) : Bool :=
  s.fwds.any (fun r => r.tile.isSome && r.fibre.crew == w.crew && r.fibre.index / 32 == w.home && w.lanes.getLsbD (r.fibre.index % 32))

/-- Whether a wave's crew runs: its gang has started, and does not leave but for a TST that goes on, and no debugger halts its team; an
item crew runs. -/
def State.running (s : State) (w : Wave) : Bool :=
  match w.crew with
  | .team l t _ =>
    ((s.gang? l (s.gangOf l t)).map (fun g => g.state == .started && (g.leaving.isNone || s.storesTile w))).getD false
      && ((s.team? l t).map (fun t => !t.halted)).getD false
  | .item .. => true

/-- Whether the firmware's own runtime has the wave's fibres; one that SYS.WATCHDOG is due in is woken to take it (02 R66). -/
def State.inRuntime (s : State) (w : Wave) : Bool :=
  (s.waveFibres w).any (fun f => (f.inTrap.map (fun t => t.runtime != .none)).getD false)
    && !(s.waveFibres w).any (fun f => f.dues.any (fun d => d.1.cause == sysWatchdog))

/-- Whether a wave may issue, or try the instruction at which it waits again [9]. -/
def State.ready (s : State) (w : Wave) : Bool :=
  !w.stalled && w.wait != some .meet && w.wait != some .bar && w.wait != some .gbar && s.running w && !s.inRuntime w && !s.throttled w

/-- A wave's quadrant. -/
def State.quadOf (s : State) (w : Wave) : Nat × Nat := (s.coreOf w.crew, ((s.placeOf? w.crew).map CrewPlace.quad).getD 0)

/-- The order of ties: crew slot, home wave, lowest fibre index. -/
def State.tieKey (s : State) (w : Wave) : Nat :=
  ((s.placeOf? w.crew).map CrewPlace.slot).getD 0 * 2048 + w.home * 64 + (((s.waveFibres w).head?).map Fibre.lane).getD 0

/-- The wave that has waited longest. -/
def State.longest (s : State) (ws : List Wave) : Option Wave :=
  ws.foldl (fun best w => match best with
    | none => some w
    | some b => if b.age < w.age || (b.age == w.age && s.tieKey w < s.tieKey b) then some w else best) none

/-- The choice of a quadrant among its ready waves. -/
def State.choose (s : State) (q : Nat × Nat) (ws : List Wave) : Option Wave :=
  let old := ws.filter (fun w => 64 ≤ w.age)
  if !old.isEmpty then s.longest old
  else
    let last := (s.core q.1).last.find? (fun l => l.1 == q.2)
    match last.bind (fun l => if l.2.2 then none else ws.find? (fun w => w.id == l.2.1)) with
    | some w => some w
    | none => s.longest ws

/-- A wave begins to issue: the state in which its instruction is executed, and the instruction. -/
def State.begin (s : State) (wave : Nat) : Option (Instr × State) :=
  match s.wave? wave with
  | none => none
  | some w =>
    if s.ready w && !(s.waveFibres w).isEmpty then
      let (i, n) := s.fetch w
      some (i, { s with cur := some wave, ilen := n })
    else none

/-- YLD of an instruction, and YIELD, of a dictionary entry as well (12 R244, R247; 14 R279). -/
def State.yields (s : State) (w : Wave) : Bool :=
  match s.opFieldsAt w with
  | some (op, f) => f.yld || op == .yield
  | none => false

end Sys2Proof.Machine
end

