-- ==== Sys2Proof/Machine/Atomic.lean ====
section
/-! DEFINITION. The instructions 0xA0 to 0xAC (17 R366 to R371): atomics at the L2, at the owner and in scratchpad, ordered atomics
(07 R175 to R179), AFLUSH. -/

namespace Sys2Proof.Machine

/-! ### What an atomic computes (17 R367 to R369) -/

/-- f(old, B) in the TY width. -/
def intAtom (op ty old b : Nat) : Nat :=
  let n := bitsOfTy ty
  let sg := ty % 2 == 1
  let e := fun (x : Nat) => if sg then signedOf n x else ((x % 2 ^ n : Nat) : Int)
  match op with
  | 0 => (old + b) % 2 ^ n
  | 1 => if e b < e old then b else old
  | 2 => if e old < e b then b else old
  | 3 => old &&& b
  | 4 => old ||| b
  | 5 => old ^^^ b
  | _ => b
where
  /-- The width of TY. -/
  bitsOfTy (ty : Nat) : Nat := if ty ≥ 2 then 64 else 32

/-- The FP32 forms: one rounding, subnormals honoured, no flag. -/
def fpAtom (op : Nat) (mode : RMode) (old b : Nat) : Nat :=
  match op with
  | 0 => (fp32.add { mode := mode } old b).1
  | 1 => (fp32.minmax {} false old b).1
  | _ => (fp32.minmax {} true old b).1

/-- A rounding mode by its code 0 to 3; every other rounds by RNE. -/
def modeOfCode (rc : Nat) : RMode :=
  match rc with
  | 1 => .rtz
  | 2 => .rdn
  | 3 => .rup
  | _ => .rne

/-- What an entry or an atomic writes over an old value, if anything. -/
def EntryOp.new (o : EntryOp) (old : Nat) : Option Nat :=
  match o with
  | .int op ty v => some (intAtom op ty old v.toNat)
  | .fp op rc v => some (fpAtom op (modeOfCode rc) old v.toNat)
  | .cas _ cmp new => if old == cmp.toNat then some new.toNat else none

/-- Bytes of the location. -/
def EntryOp.bytes : EntryOp → Nat
  | .int _ ty _ => if ty ≥ 2 then 8 else 4
  | .fp .. => 4
  | .cas ty _ _ => if ty ≥ 2 then 8 else 4

/-- The same operation as it is forwarded to an owner (03 R93). -/
def EntryOp.wire : EntryOp → FwdOp
  | .int op ty v => .intAtomic (BitVec.ofNat 3 op) (BitVec.ofNat 2 ty) v
  | .fp op rc v => .fpAtomic (BitVec.ofNat 2 op) (BitVec.ofNat 3 rc) v
  | .cas ty cmp new => .cas (ty ≥ 2) cmp new

/-! ### The operation of a word in a fibre -/

def aTy (m : Byte) : Nat := modField m 3 2
def aWide (m : Byte) : Bool := modBit m 4

/-- The integer forms. -/
def Ctx.intOp (c : Ctx) (f : Fibre) : EntryOp :=
  let m := c.w.mod
  .int (modField m 0 3) (aTy m) (BitVec.ofNat 64 (c.valW f c.w.b (aWide m) (modBit m 3)))

/-- The FP32 forms: RC is resolved in the fibre at issue. -/
def Ctx.fpOp (c : Ctx) (f : Fibre) : EntryOp :=
  let rc := f.rcode (modField c.w.mod 0 3)
  .fp (modField c.w.mod 3 2) (if rc ≤ 3 then rc else 0) (c.b f)

/-- The CAS forms. -/
def Ctx.casOp (c : Ctx) (f : Fibre) : EntryOp :=
  let m := c.w.mod
  let v := fun (d : Desc) => BitVec.ofNat 64 (c.valW f d (aWide m) (modBit m 3))
  .cas (aTy m) (v c.w.b) (v c.w.c)

/-! ### Global atomics (17 R366) -/

/-- One lane's atomic; with a destination the old value is delivered. -/
def laneAtomic (op : Ctx → Fibre → EntryOp) (dest : Bool) (c : Ctx) (f : Fibre) : M Unit := do
  let who ← whoM c f
  let o := op c f
  let va := c.a64 f
  heldClear f va o.bytes
  let old ← atomicG who va o.bytes o.new o.wire
  if dest then
    let g ← curF f
    putF (c.putW g (o.bytes == 8) old)

def execAtom (w : Fields) (s : State) : Host.Outcome State Fault Refusal := issue .atom w (perLane (laneAtomic Ctx.intOp true)) s
def execRed (w : Fields) (s : State) : Host.Outcome State Fault Refusal := issue .red w (perLane (laneAtomic Ctx.intOp false)) s
def execCas (w : Fields) (s : State) : Host.Outcome State Fault Refusal := issue .cas w (perLane (laneAtomic Ctx.casOp true)) s
def execFred (w : Fields) (s : State) : Host.Outcome State Fault Refusal := issue .fred w (perLane (laneAtomic Ctx.fpOp false)) s
def execFatom (w : Fields) (s : State) : Host.Outcome State Fault Refusal := issue .fatom w (perLane (laneAtomic Ctx.fpOp true)) s

/-! ### Scratchpad atomics -/

def laneSpAtomic (op : Ctx → Fibre → EntryOp) (dest : Bool) (c : Ctx) (f : Fibre) : M Unit := do
  let o := op c f
  let a := (c.a f).toNat
  let old ← spLoad f a o.bytes
  match o.new old with
  | some v => spStore f a o.bytes v
  | none => pure ()
  if dest then putF (c.putW f (o.bytes == 8) old)

def execAtoms (w : Fields) (s : State) : Host.Outcome State Fault Refusal := issue .atoms w (perLane (laneSpAtomic Ctx.intOp true)) s
def execFreds (w : Fields) (s : State) : Host.Outcome State Fault Refusal := issue .freds w (perLane (laneSpAtomic Ctx.fpOp false)) s
def execCass (w : Fields) (s : State) : Host.Outcome State Fault Refusal := issue .cass w (perLane (laneSpAtomic Ctx.casOp true)) s

/-! ### Ordered atomics (07 R175 to R179; 17 R370) -/

/-- The drainer of a team: its logical core in a deterministic launch, else itself (07 R178). -/
def Launch.drainerOf (l : Launch) (team : Nat) : Nat := if l.det && l.cores != 0 then team % l.cores else team

/-- The key of an entry (07 R175). -/
def entryKey (f : Fibre) (seq : Nat) : DWord :=
  match f.id.crew with
  | .team _ t k => BitVec.ofNat 64 (t % 2 ^ 32 * 2 ^ 32 + (k * 32 + f.home) % 128 * 2 ^ 25 + f.lane * 2 ^ 20 + seq % 2 ^ 20)
  | .item .. => 0

/-- Entries that a drainer holds unacknowledged. -/
def State.drainerHolds (s : State) (launch drainer : Nat) : Nat :=
  (s.entries.filter (fun e => e.launch == launch && e.drainer == drainer)).length

/-- Where a lane's location lies and its leaf entry, after the address checks and translation; whether its page is resident. -/
def orderedPlace (c : Ctx) (f : Fibre) (o : EntryOp) : M ((Nat × Nat) × Bool) := do
  let who ← whoM c f
  heldClear f (c.a64 f) o.bytes
  checkGlobal (c.a64 f) o.bytes
  let p ← translate who (c.a64 f) true
  if p.loc == 0 then
    checkView p (c.a64 f)
    let line := lineNo p.pa p.view
    l1Flush who line
    pure ((line * 64 + p.pa % 64, p.leaf), true)
  else pure ((0, 0), false)

/-- The lanes that pass their address checks, with their places, and those that fail. -/
def orderedLanes (c : Ctx) (op : Ctx → Fibre → EntryOp) :
    List Fibre → State → Except (Wait × List Fwd) (State × List (Fibre × (Nat × Nat) × Bool) × List (FibreId × Way))
  | [], s => .ok (s, [], [])
  | f :: fs, s => do
    match (orderedPlace c f (op c f)).run s with
    | .ok (p, s') =>
      let (s', ps, ws) ← orderedLanes c op fs s'
      pure (s', (f, p.1, p.2) :: ps, ws)
    | .error e =>
      let w ← c.wayOf e
      let (s', ps, ws) ← orderedLanes c op fs s
      pure (s', ps, (f.id, w) :: ws)

/-- The cause that a passing lane raises, the k-th of them (17 R370; 07 R175, R179). -/
def orderedCause (l : Launch) (held k : Nat) (f : Fibre) (resident : Bool) : Option Cause :=
  if !resident then some memOrdRemote
  else if f.seq ≥ 2 ^ 20 then some (orderC 2)
  else if held + k + 1 > 256 + l.spill then some (orderC 3)
  else none

/-- One lane's entry; its destination stays pending until the round closes (12 R249). -/
def addEntry (c : Ctx) (l : Launch) (op : Ctx → Fibre → EntryOp) (dest : Bool) (s : State) (f : Fibre) (at_ : Nat × Nat) : State :=
  let (n, s) := s.newId
  let team := match f.id.crew with
    | .team _ t _ => t
    | .item .. => 0
  let o := op c f
  let e : Entry := { id := n, launch := l.id, round := f.round, drainer := l.drainerOf team, key := entryKey f f.seq, pa := at_.1
                     va := c.a64 f, op := o, fibre := f.id, dest := dest, pc := c.pc, leaf := at_.2 }
  let d := c.w.d.n.toNat
  let regs := if o.bytes == 8 then [d, d + 1] else [d]
  let pend : List Pend := if dest then [{ dst := regs, vals := [], ordered := some n, own := f.inTrap.isNone }] else []
  ({ s with entries := s.entries ++ [e] }).setFibre { f with seq := f.seq + 1, pend := f.pend ++ pend }

/-- An ordered atomic: the address checks lane by lane, then the tests over the lanes that passed; where one of those raises its
cause no lane has an effect. -/
def bodyOrdered (op : Ctx → Fibre → EntryOp) (dest : Bool) : Body := fun c s => do
  match s.launch? c.launch with
  | none => pure (s, [])
  | some l =>
    let (s, ps, ways) ← orderedLanes c op c.act s
    let team := match c.wv.crew with
      | .team _ t _ => t
      | .item .. => 0
    let held := s.drainerHolds l.id (l.drainerOf team)
    let bad := ((List.range ps.length).zip ps).filterMap (fun (k, p) =>
      (orderedCause l held k p.1 p.2.2).map (fun e => (p.1.id, Way.trap { cause := e, addr := c.a64 p.1 } .atPc c.pc)))
    if !bad.isEmpty then pure (s, ways ++ bad)
    else pure (ps.foldl (fun s p => addEntry c l op dest s p.1 p.2.1) s, ways)

def execAtomo (w : Fields) (s : State) : Host.Outcome State Fault Refusal := issue .atomo w (bodyOrdered Ctx.intOp true) s
def execCaso (w : Fields) (s : State) : Host.Outcome State Fault Refusal := issue .caso w (bodyOrdered Ctx.casOp true) s
def execFredo (w : Fields) (s : State) : Host.Outcome State Fault Refusal := issue .fredo w (bodyOrdered Ctx.fpOp false) s
def execFatomo (w : Fields) (s : State) : Host.Outcome State Fault Refusal := issue .fatomo w (bodyOrdered Ctx.fpOp true) s

/-! ### AFLUSH (07 R176, R177; 17 R371) -/

/-- A fibre ends its current round, once for one execution. -/
def Fibre.endRound (f : Fibre) : Fibre :=
  if f.phase.isSome then f else { f with phase := some (BitVec.ofNat 32 f.round), round := f.round + 1, seq := 0 }

def bodyAflush : Body := fun c s =>
  let fs := c.act.map Fibre.endRound
  let s := s.setFibres fs
  let closed := ((s.launch? c.launch).map Launch.closed).getD 0
  if fs.all (fun f => ((f.phase.map BitVec.toNat).getD 0) < closed) then
    let s := s.setFibres (fs.map (fun f => { f with phase := none }))
    .ok (match (acquire (s.whoOf c c.lead) 4).run s with
      | .ok (_, t) => t
      | .error _ => s, [])
  else .ok (s, c.stayAll .round)

def execAflush (w : Fields) (s : State) : Host.Outcome State Fault Refusal := issue .aflush w bodyAflush s

end Sys2Proof.Machine
end

