-- ==== Sys2Proof/Machine/Control.lean ====
section
/-! DEFINITION. The instructions 0x00 to 0x1E (14): transfers of control, votes, MEET, FORK and END, spawning, ACQ and SHED, team
and gang barriers, barrier objects, WAITV and QSTAT. -/

namespace Sys2Proof.Machine

/-! ### Transfers of control (14 R277, R278) -/

/-- PC + sext(imm32) modulo 2^32 (12 R237). -/
def Ctx.target (c : Ctx) : Word := c.pc + c.w.imm

def fibreNop (_ : Ctx) (f : Fibre) : Fibre := f
def fibreBra (c : Ctx) (f : Fibre) : Fibre := { f with pc := c.target }
def fibreBrx (c : Ctx) (f : Fibre) : Fibre := { f with pc := c.a f }
def fibreCall (c : Ctx) (f : Fibre) : Fibre := { c.putD f c.fall with pc := c.target }
/-- A is read before vD is written. -/
def fibreCallx (c : Ctx) (f : Fibre) : Fibre := { c.putD f c.fall with pc := c.a f }

/-- LOOP tests the decremented value itself, whatever bit 0 of v0 then reads [29]. -/
def fibreLoop (c : Ctx) (f : Fibre) : Fibre :=
  let v := f.reg c.w.d.n.toNat - 1
  let g := c.putD f v
  { g with pc := if v != 0 then c.target else c.fall }

def fibreJtab (c : Ctx) (f : Fibre) : Fibre :=
  { f with pc := if (c.a f).toNat < (c.b f).toNat then c.target + 12 * c.a f else c.fall }

/-- NOP has no effect (14 R279). -/
def execNop (w : Fields) (s : State) : Host.Outcome State Fault Refusal := issue .nop w (perFibre fibreNop) s
def execBra (w : Fields) (s : State) : Host.Outcome State Fault Refusal := issue .bra w (perFibre fibreBra) s
def execBrx (w : Fields) (s : State) : Host.Outcome State Fault Refusal := issue .brx w (perFibre fibreBrx) s
def execCall (w : Fields) (s : State) : Host.Outcome State Fault Refusal := issue .call w (perFibre fibreCall) s
def execCallx (w : Fields) (s : State) : Host.Outcome State Fault Refusal := issue .callx w (perFibre fibreCallx) s
def execRet (w : Fields) (s : State) : Host.Outcome State Fault Refusal := issue .ret w (perFibre fibreBrx) s
def execLoop (w : Fields) (s : State) : Host.Outcome State Fault Refusal := issue .loop w (perFibre fibreLoop) s
def execJtab (w : Fields) (s : State) : Host.Outcome State Fault Refusal := issue .jtab w (perFibre fibreJtab) s
/-- YIELD's effect on issue selection is the step's (14 R279; 12 R244). -/
def execYield (w : Fields) (s : State) : Host.Outcome State Fault Refusal := issue .yield w (perFibre fibreNop) s

/-! ### RGN (14 R280; 03 R68, R70) -/

/-- The registers a mask names from a base. -/
def rgnRegs (base : Nat) (mask : Word) : List Nat :=
  ((List.range 32).filter (fun k => mask.getLsbD k)).map (fun k => base + k)

/-- The wave's staging region; the oldest region of the quadrant gives way when all 16 slots are held. -/
def bodyRgn : Body := fun c s =>
  let regs := rgnRegs c.w.a.n.toNat c.w.imm
  let (stamp, s) := s.newId
  let s := s.setWave { ((s.wave? c.wv.id).getD c.wv) with staged := if regs.isEmpty then none else some (stamp, regs) }
  let quad := (s.placeOf? c.wv.crew).map CrewPlace.quad
  let held := s.waves.filter (fun v => v.staged.isSome && v.id != c.wv.id && s.coreOf v.crew == c.core
    && (s.placeOf? v.crew).map CrewPlace.quad == quad)
  if regs.isEmpty || held.length < 16 then .ok (s, [])
  else
    let age := fun (v : Wave) => (v.staged.map Prod.fst).getD 0
    match held.foldl (fun (o : Option Wave) v => match o with
        | none => some v
        | some u => if age v < age u then some v else some u) none with
    | some v => .ok (s.setWave { v with staged := none }, [])
    | none => .ok (s, [])

def execRgn (w : Fields) (s : State) : Host.Outcome State Fault Refusal := issue .rgn w bodyRgn s

/-! ### TRAP and BKPT (14 R281) -/

/-- A call to the runtime in every active fibre: KIND 5, INFO0 the value of A. -/
def bodyDebug (code : Nat) : Body := fun c s =>
  .ok (s, c.act.map (fun f => (f.id, Way.trap { cause := debugC code, kind := 5, info0 := c.a f } .atPc c.pc)))

def execTrap (w : Fields) (s : State) : Host.Outcome State Fault Refusal := issue .trap w (bodyDebug 0) s
def execBkpt (w : Fields) (s : State) : Host.Outcome State Fault Refusal := issue .bkpt w (bodyDebug 1) s

/-! ### Votes (14 R282) -/

/-- vD with the masked bits taken from a vote. -/
def voteInto (old vote mask : Word) : Word := (old &&& ~~~mask) ||| (vote &&& mask)

def fibreVote (all : Bool) (c : Ctx) (f : Fibre) : Fibre :=
  let vote := if all then c.act.foldl (fun v g => v &&& c.a g) 0xFFFFFFFF else c.act.foldl (fun v g => v ||| c.a g) 0
  c.putD f (voteInto (f.reg c.w.d.n.toNat) vote (c.val c.lead c.w.b))

/-- One bit per home lane whose fibre is active and whose A has bit S. -/
def ballotMask (c : Ctx) : Word := lanesOf (c.act.filter (fun g => (c.a g).getLsbD c.w.b.n.toNat))

def fibreBallot (c : Ctx) (f : Fibre) : Fibre := c.putD f (ballotMask c)

def execVoteany (w : Fields) (s : State) : Host.Outcome State Fault Refusal := issue .voteany w (perFibre (fibreVote false)) s
def execVoteall (w : Fields) (s : State) : Host.Outcome State Fault Refusal := issue .voteall w (perFibre (fibreVote true)) s
def execBallot (w : Fields) (s : State) : Host.Outcome State Fault Refusal := issue .ballot w (perFibre fibreBallot) s

/-! ### MEET, BAR, GBAR (14 R283, R290): the wave waits, and what meets is looked at when the instruction is done -/

/-- The wave stays and waits. -/
def bodyStay (why : Wait) : Body := fun c s => .ok (s, c.act.map (fun f => (f.id, Way.stay why)))

def execMeet (w : Fields) (s : State) : Host.Outcome State Fault Refusal := issue .meet w (bodyStay .meet) s
def execBar (w : Fields) (s : State) : Host.Outcome State Fault Refusal := issue .bar w (bodyStay .bar) s
def execGbar (w : Fields) (s : State) : Host.Outcome State Fault Refusal := issue .gbar w (bodyStay .gbar) s

/-! ### FORK (14 R284) and END (14 R285) -/

/-- The lowest free slot of a crew with n slots (01 R23). -/
def State.freeSlot (s : State) (crew : CrewId) (n : Nat) : Option Nat :=
  (List.range n).find? (fun i => (s.fibre? ⟨crew, i⟩).isNone)

/-- A fibre as it is created: v0 is 1 and every other register 0 (01 R12). -/
def freshFibre (crew : CrewId) (index : Nat) (pc : Word) (obj win round : Nat) : Fibre :=
  { id := ⟨crew, index⟩, pc := pc, obj := obj, regs := (List.replicate win 0).set 0 1, round := round }

/-- The children of one fibre's FORK, and the slots they took. -/
def forkFrom (f : Fibre) (arg pc : Word) (slots : Nat) : Nat → Nat → State → State × List Nat
  | 0, _, s => (s, [])
  | n + 1, made, s =>
    match s.freeSlot f.id.crew slots with
    | none => (s, [])
    | some i =>
      let g := freshFibre f.id.crew i pc f.obj f.regs.length f.round
      let g := { g with regs := (g.regs.set 1 arg).set 2 (BitVec.ofNat 32 made) }
      let (s, is) := forkFrom f arg pc slots n (made + 1) { s with fibres := s.fibres ++ [g] }
      (s, i :: is)

/-- The waves of new children: one per home wave, whose meet set is its children (01 R23). -/
def State.childWaves (s : State) (crew : CrewId) (is : List Nat) : State :=
  ((is.map (fun i => i / 32)).eraseDups).foldl (fun s h =>
    let m := (is.filter (fun i => i / 32 == h)).foldl (fun m i => m ||| BitVec.ofNat 32 (2 ^ (i % 32))) 0
    let (n, s) := s.newId
    { s with waves := s.waves ++ [{ id := n, crew := crew, home := h, lanes := m, meet := m }] }) s

/-- Whether a target is even and inside the code (12 R236; 14 R284). -/
def codeOk (s : State) (obj : Nat) (pc : Word) : Bool :=
  pc.toNat % 2 == 0 && pc.toNat + 2 ≤ ((s.object? obj).map (fun o => o.code.length)).getD 0

/-- FORK over the active fibres: the fibres' counts are written, and the children of one home wave form one wave. -/
def forkAll (c : Ctx) (slots : Nat) : List Fibre → State → State × List Nat
  | [], s => (s, [])
  | f :: fs, s =>
    let (s, is) := forkFrom f (c.b f) c.target slots (c.a f).toNat 0 s
    let s := s.setFibre (c.putD f (BitVec.ofNat 32 is.length))
    let (s, js) := forkAll c slots fs s
    (s, is ++ js)

/-- FORK waits for its fibres' stores that are not acknowledged, so that the children come after them. -/
def bodyFork : Body := fun c s =>
  let slots := (((s.launch? c.launch).bind (fun l => s.object? l.obj)).map Object.fibres).getD 0
  if !codeOk s c.lead.obj c.target then .ok (s, c.act.map (fun f => (f.id, Way.trap { cause := insnPcRange } .atPc c.pc)))
  else if c.act.any (fun f => s.storesOpen f.id) then .error (.stores, [])
  else
    let (s, is) := forkAll c slots c.act s
    .ok (s.childWaves c.wv.crew is, [])

def execFork (w : Fields) (s : State) : Host.Outcome State Fault Refusal := issue .fork w bodyFork s

/-- END waits for the fibre's forwarded stores (04 R127); an item's end is a release at VEIN scope (04 R125). -/
def laneEnd (c : Ctx) (f : Fibre) : M Unit := do
  let s ← get
  if s.storesOpen f.id then waitM .stores
  if f.isItem then release (s.whoOf c f) 3
  modify (fun s => s.endFibre f)

def execEnd (w : Fields) (s : State) : Host.Outcome State Fault Refusal := issue .endF w (perLane laneEnd) s

/-! ### Spawning (08 R196 to R199; 14 R286, R287) -/

/-- A declared range rounded out to granules (08 R196). -/
def rangeOf (base : DWord) (len : Nat) : Range :=
  if len == 0 then {} else { first := base.toNat / 256, count := (base.toNat + len - 1) / 256 - base.toNat / 256 + 1 }

def laneTrng (c : Ctx) (f : Fibre) : M Unit := do
  let rb := c.val64 f c.w.d
  let rl := (c.a f).toNat
  let wb := c.b64 f
  let wl := (c.c4 f).toNat
  checkM (rb.toNat / 2 ^ 51 == 0) memAddrBits rb
  checkM ((rangeOf rb rl).count ≤ 2 ^ 21 - 1) (schedC 8)
  checkM (wb.toNat / 2 ^ 51 == 0) memAddrBits wb
  checkM ((rangeOf wb wl).count ≤ 2 ^ 21 - 1) (schedC 8)
  putF { f with rd := rangeOf rb rl, wr := rangeOf wb wl }

def execTrng (w : Fields) (s : State) : Host.Outcome State Fault Refusal := issue .trng w (perLane laneTrng) s

/-- Entries of a core's queue of items (08 R198). -/
def coreQueue : Nat := 256

/-- SPAWNER: TEAMID, the item flag, the crew and the fibre index (08 R197). -/
def spawnerWord (f : Fibre) : DWord :=
  match f.id.crew with
  | .team _ t k => BitVec.ofNat 64 (t % 2 ^ 32 * 2 ^ 32 + k * 1024 + f.id.index)
  | .item _ _ k => BitVec.ofNat 64 (0xFFFFFFFF * 2 ^ 32 + 4096 + k * 1024 + f.id.index)

/-- One item accepted by the vein's task scheduler, which stamps ASEQ, into the core's queue or the sump (08 R198). -/
def State.acceptItem (s : State) (c : Ctx) (f : Fibre) (queue : Bool) : State :=
  let (n, s) := s.newId
  let v := s.veinOfCore c.core
  let seq := ((s.mem.veins[v]?).map Vein.aseq).getD 0
  let it : Item := { id := n, launch := c.launch, vein := v, pcoff := c.target, aseq := seq
                     arg := f.block c.w.a.n.toNat 4, rd := f.rd, wr := f.wr, spawner := spawnerWord f, parent := f.item.map Item.id }
  let s := { s with mem := { s.mem with veins := updAt s.mem.veins v (fun x => { x with aseq := seq + 1 }) } }
  if queue then s.setCore c.core (fun k => { k with items := k.items ++ [it] })
  else match s.launch? c.launch with
    | some l => s.setLaunch { l with sump := l.sump ++ [it] }
    | none => s

/-- A spawn is a release at VEIN scope of the fibre's earlier accesses (04 R125); the declaration is consumed (08 R196). -/
def spawnOne (c : Ctx) (f : Fibre) (queue : Bool) (bit : Option (Nat × Bool)) : M Unit := do
  let s ← get
  release (s.whoOf c f) 3
  if bit.isNone || bit.any Prod.snd then modify (fun s => s.acceptItem c f queue)
  let g := { f with rd := {}, wr := {} }
  putF (match bit with
    | some (k, b) => g.setPred k b
    | none => g)

/-- The lanes of a spawn, with how many entries the queue has left. -/
def spawnLanes (c : Ctx) (bit : Option Nat) : List Fibre → Nat → M Unit
  | [], _ => pure ()
  | f :: fs, free => do
    spawnOne c f (0 < free) (bit.map (fun k => (k, 0 < free)))
    spawnLanes c bit fs (free - 1)

/-- What stops a SPAWN or a SPAWNT: the target; for SPAWN a sump that cannot take what must spill (08 R198; 14 R287). -/
def spawnFault (bit : Bool) (c : Ctx) (s : State) : Option Cause :=
  let spill := c.act.length - (coreQueue - (s.core c.core).items.length)
  if !codeOk s c.lead.obj c.target then some insnPcRange
  else match s.launch? c.launch with
    | some l => if bit || spill == 0 || l.sump.length + spill ≤ l.sumpSize then none else some (schedC 0)
    | none => none

/-- SPAWN and SPAWNT: one that traps queues nothing, and consumes the declaration all the same (08 R196). -/
def bodySpawn (bit : Bool) : Body := fun c s =>
  match spawnFault bit c s with
  | some e => .ok (s.setFibres (c.act.map (fun f => { f with rd := {}, wr := {} })),
      c.act.map (fun f => (f.id, Way.trap { cause := e } .atPc c.pc)))
  | none => perWave (fun c =>
      spawnLanes c (if bit then some c.w.b.n.toNat else none) c.act (coreQueue - (s.core c.core).items.length)) c s

def execSpawn (w : Fields) (s : State) : Host.Outcome State Fault Refusal := issue .spawn w (bodySpawn false) s
def execSpawnt (w : Fields) (s : State) : Host.Outcome State Fault Refusal := issue .spawnt w (bodySpawn true) s

/-! ### ACQ and SHED (01 R30, R31; 14 R288, R289) -/

/-- Whether the full allotment is the prologue (01 R30). -/
def Object.fullIsPrologue (o : Object) : Bool := o.wfull == o.wpro && o.scratch == 4096 && o.tiles == 0 && o.handles == 2

/-- ACQ. Its fibres note that they executed it before the grant: it stays part of the original request, whatever a SHED does between
the grant and its completion (01 R31). -/
def bodyAcq : Body := fun c s =>
  let note := fun (s : State) => s.setFibres (c.act.map (fun f => { f with phase := some 0 }))
  let done := s.setFibres (c.act.map (fun f => { f with phase := none }))
  let stay := c.act.map (fun f => (f.id, Way.stay .acq))
  match s.teamOf? c.wv.crew, (s.launch? c.launch) with
  | some t, some l =>
    if t.shed && !c.act.any (fun f => f.phase.isSome) then .ok (s, c.act.map (fun f => (f.id, Way.trap { cause := schedC 2 } .atPc c.pc)))
    else match t.acq with
      | .granted => .ok (done, [])
      | .pending => .ok (note s, stay)
      | .none =>
        if ((s.object? l.obj).map Object.fullIsPrologue).getD false then .ok (s.setTeam { t with acq := .granted }, [])
        else
          let s := (note s).setTeam { t with acq := .pending }
          .ok (s.setCore t.core (fun k => { k with acqs := placeAcq l.det t.launch t.id k.acqs }), stay)
  | _, _ => .ok (s, stay)

def execAcq (w : Fields) (s : State) : Host.Outcome State Fault Refusal := issue .acq w bodyAcq s

/-- The checks of SHED (14 R289). A resource that has been returned may be named again. -/
def shedCheck (o : Object) (t : Team) (keep : Nat) (tm hm : Word) : M Unit := do
  checkM (keep % 16 == 0 && 4096 ≤ keep && keep ≤ t.spSize) memSpRange (BitVec.ofNat 64 keep)
  let gone := t.shed && t.acq == .granted
  let tileOk := fun (k : Nat) => ((t.tiles[k]?).map Tile.allot).getD false || (gone && k < o.tiles)
  let handleOk := fun (k : Nat) => ((t.handles[k]?).map Handle.allot).getD false || (gone && k < o.handles)
  checkM ((List.range 32).all (fun k => !tm.getLsbD k || (k < 16 && tileOk k))) (insnOperand 3)
  checkM ((List.range 32).all (fun k => !hm.getLsbD k || (2 ≤ k && handleOk k))) (insnOperand 3)

def bodyShed : Body := fun c s =>
  let stay := c.act.map (fun f => (f.id, Way.stay .shed))
  let trapAll := fun (d : Due) => (s, c.act.map (fun f => (f.id, Way.trap d .atPc c.pc)))
  match s.teamOf? c.wv.crew, (s.launch? c.launch).bind (fun l => s.object? l.obj) with
  | some t, some o =>
    if t.shedDone.contains c.wv.id then .ok (s.setTeam { t with shedDone := t.shedDone.filter (fun i => i != c.wv.id) }, [])
    else if t.sheds.any (fun r => r.1 == c.wv.id) then .ok (s, stay)
    else
      let f := c.lead
      match (shedCheck o t (c.a f).toNat (c.b f) (c.c4 f)).run s with
      | .ok _ =>
        -- Before the grant it can name nothing, and returns nothing (01 R31).
        if t.acq != .granted then .ok (s, [])
        else .ok (s.setTeam { t with sheds := t.sheds ++ [(c.wv.id, (c.a f).toNat, c.b f, c.c4 f)] }, stay)
      | .error (.trap d) => .ok (trapAll d)
      | .error _ => .ok (s, stay)
  | _, _ => .ok (s, stay)

def execShed (w : Fields) (s : State) : Host.Outcome State Fault Refusal := issue .shed w bodyShed s

/-! ### Barrier objects (14 R291, R292) -/

/-- Where a barrier object lies: its offset, and the gang position of a sibling. -/
def objPlace (a : Word) : Nat × Option Nat :=
  (a.toNat % 2 ^ 18, if a.getLsbD 20 then some (a.toNat / 2 ^ 18 % 4) else none)

/-- The team whose scratchpad holds an object, after the checks of 14 R291. -/
def objTeam (f : Fibre) (a : Word) : M Team := do
  let (off, sib) := objPlace a
  checkM (a.toNat / 2 ^ 21 == 0) (insnOperand 2)
  match sib with
  | none => do
    let t ← teamM f
    spCheck t off 16
    pure t
  | some p => siblingM f p off 16

/-- The object that a lane's A names, its own team's position written out. -/
def State.objKey (s : State) (c : Ctx) (f : Fibre) : Option Nat :=
  let own := (s.teamOf? f.id.crew).map (fun t => t.id % ((s.launch? t.launch).map Launch.gang).getD 1)
  let (off, sib) := objPlace (c.a f)
  some (off * 4 + (sib.or own).getD 0)

/-- A barrier object's fields: EXPECT's count, SCOPE, ARRIVED, PHASE (14 R291). -/
structure BarObj where
  expect : Nat
  scope : Nat
  arrived : Nat
  phase : Word
deriving DecidableEq, Repr, Inhabited

def readObj (t : Team) (off : Nat) : M BarObj := do
  spSound t off 16
  let e := t.sp.getN off 4
  let r := t.sp.getN (off + 4) 4
  let z := t.sp.getN (off + 12) 4
  let o : BarObj := { expect := e % 2 ^ 20, scope := e / 2 ^ 20 % 8, arrived := r, phase := BitVec.ofNat 32 (t.sp.getN (off + 8) 4) }
  checkM (1 ≤ o.expect && 1 ≤ o.scope && o.scope ≤ 6 && e / 2 ^ 23 == 0 && r < o.expect && z == 0) syncBarObj
  pure o

def writeObj (t : Team) (off : Nat) (o : BarObj) : M Unit :=
  let sp := t.sp.setN off 4 (o.expect + 2 ^ 20 * o.scope)
  putT { t with sp := ((sp.setN (off + 4) 4 o.arrived).setN (off + 8) 4 o.phase.toNat).setN (off + 12) 4 0 }

def laneBari (c : Ctx) (f : Fibre) : M Unit := do
  let t ← objTeam f (c.a f)
  let n := (c.b f).toNat
  checkM (1 ≤ n && n < 2 ^ 20) syncBarObj
  writeObj t (objPlace (c.a f)).1 { expect := n, scope := modField c.w.mod 0 3, arrived := 0, phase := 0 }

/-- A wait that has ended by a phase of an object of that scope. -/
def ObjWait.over (w : ObjWait) (scope : Nat) : ObjWait := { w with released := true, scope := scope }

/-- The phase step of an object releases the fibres that wait there. -/
def State.releaseObj (s : State) (t : Team) (off scope : Nat) : State :=
  { s with fibres := s.fibres.map (fun (f : Fibre) => { f with objWait := f.objWait.map (fun w =>
      if w.launch == t.launch && w.team == t.id && w.at_ == off && !w.released then w.over scope else w) }) }

/-- An arrival: a release at the object's scope, then the count (14 R292; 04 R111). -/
def arrive (c : Ctx) (f : Fibre) : M Word := do
  let t ← objTeam f (c.a f)
  let off := (objPlace (c.a f)).1
  let o ← readObj t off
  let s ← get
  spanGate (s.whoOf c f) o.scope
  release (s.whoOf c f) o.scope
  let t ← objTeam f (c.a f)
  writeObj t off (if o.arrived + 1 == o.expect then { o with arrived := 0, phase := o.phase + 1 }
    else { o with arrived := o.arrived + 1 })
  if o.arrived + 1 == o.expect then modify (fun s => s.releaseObj t off o.scope)
  pure o.phase

def laneBara (c : Ctx) (f : Fibre) : M Unit := do
  let p ← arrive c f
  let g ← curF f
  putF (c.putD g p)

/-- The fibre's wait at the object that A names begins. -/
def beginWait (c : Ctx) (f : Fibre) (token : Word) : M Unit := do
  let t ← objTeam f (c.a f)
  let g ← curF f
  putF { g with objWait := some { launch := t.launch, team := t.id, at_ := (objPlace (c.a f)).1, token := token } }

/-- BARW begins its wait, once. -/
def laneBarwBegin (c : Ctx) (f : Fibre) : M Unit := do
  if f.objWait.isNone then
    let t ← objTeam f (c.a f)
    let _ ← readObj t (objPlace (c.a f)).1
    beginWait c f (c.b f)

/-- BARX arrives, writes the phase to vD and begins its wait, once. -/
def laneBarxBegin (c : Ctx) (f : Fibre) : M Unit := do
  if f.objWait.isNone then
    let p ← arrive c f
    beginWait c f p
    let g ← curF f
    putF (c.putD g p)

/-- A wait whose object's PHASE is no more its token is over; what a phase step has released stays so. -/
def laneObjLook (_ : Ctx) (f : Fibre) : M Unit := do
  match f.objWait with
  | some w => do
    let s ← get
    if !w.released then
      match s.team? w.launch w.team with
      | some t => do
        let o ← readObj t w.at_
        if o.phase != w.token then putF { f with objWait := some (w.over o.scope) }
        else waitM .value
      | none => waitM .value
  | none => pure ()

/-- The completing read of a wait: an acquire at the scope the object had when the wait ended. -/
def laneObjDone (c : Ctx) (f : Fibre) : M Unit := do
  match f.objWait with
  | some w => do
    let s ← get
    spanGate (s.whoOf c f) w.scope
    acquire (s.whoOf c f) w.scope
    let g ← curF f
    putF { g with objWait := none }
  | none => pure ()

/-- The lanes of an object wait that no way has yet taken. -/
def Ctx.untaken (c : Ctx) (ways : List (FibreId × Way)) : List Fibre := c.act.filter (fun f => !ways.any (fun p => p.1 == f.id))

/-- BARW and BARX: each lane arrives and waits as it can, none held back by another, and the wave goes on when every wait is over
[109]. -/
def bodyObjWait (begin_ : Ctx → Fibre → M Unit) : Body := fun c s =>
  let (s, began) := tryLanes c false (s.objKey c) begin_ [] c.act s
  let (s, looked) := tryLanes c false (fun _ => none) laneObjLook [] (c.untaken began) s
  let waits := (began ++ looked).filter (fun p => p.2.isStay)
  let out := (began ++ looked).filter (fun p => !p.2.isStay)
  match stayOf waits with
  | some why => pure (s, c.stayRest out (if waits.any (fun p => p.2 == .stay .sibling) then .sibling else why))
  | none =>
    match lanesFrom c laneObjDone (c.untaken out) s with
    | .ok (s, more) => pure (s, out ++ more)
    | .error (why, post) => if post.isEmpty then pure (s, c.stayRest out why) else .error (why, post)

def execBari (w : Fields) (s : State) : Host.Outcome State Fault Refusal := issue .bari w (fun c s => heldBy (s.objKey c) laneBari c s) s
def execBara (w : Fields) (s : State) : Host.Outcome State Fault Refusal := issue .bara w (fun c s => heldBy (s.objKey c) laneBara c s) s
def execBarw (w : Fields) (s : State) : Host.Outcome State Fault Refusal := issue .barw w (bodyObjWait laneBarwBegin) s
def execBarx (w : Fields) (s : State) : Host.Outcome State Fault Refusal := issue .barx w (bodyObjWait laneBarxBegin) s

/-! ### WAITV and QSTAT (14 R293, R294) -/

/-- The conditions of CC (13 R270): 0 eq, 1 ne, 2 lt, 3 le, 4 gt, 5 ge. -/
def ccHolds (cc : Nat) (lt eq : Bool) : Bool :=
  match cc with
  | 0 => eq
  | 1 => !eq
  | 2 => lt
  | 3 => lt || eq
  | 4 => !(lt || eq)
  | _ => !lt

/-- `word cc B`, signed with `.s`. -/
def waitHolds (m : Byte) (v b : Word) : Bool :=
  ccHolds (modField m 0 3) (if modBit m 6 then v.toInt < b.toInt else v.toNat < b.toNat) (v == b)

/-- One lane's read; what satisfies it is kept until the whole wave is satisfied. -/
def laneWaitv (c : Ctx) (f : Fibre) : M Unit := do
  if f.phase.isNone then
    let s ← get
    let who := s.whoOf c f
    spanGate who (modField c.w.mod 3 3)
    heldClear f (c.a64 f) 4
    let v ← loadG who (c.a64 f) 4 .l2
    if waitHolds c.w.mod (BitVec.ofNat 32 v) (c.b f) then
      acquire who (modField c.w.mod 3 3)
      putF { f with phase := some (BitVec.ofNat 32 v) }

/-- The wave continues when every active fibre is satisfied; it does not split. -/
def bodyWaitv : Body := fun c s => do
  let (s, ways) ← perLane laneWaitv c s
  let live := (c.act.filter (fun f => !ways.any (fun p => p.1 == f.id))).filterMap (fun f => s.fibre? f.id)
  if live.all (fun f => f.phase.isSome) then
    pure (live.foldl (fun s f => s.setFibre { c.putD f (f.phase.getD 0) with phase := none }) s, ways)
  else pure (s, c.stayRest ways .value)

def execWaitv (w : Fields) (s : State) : Host.Outcome State Fault Refusal := issue .waitv w bodyWaitv s

/-- Free slots of the launch's item crews on a core. -/
def State.freeItemSlots (s : State) (launch core : Nat) : Nat :=
  ((s.itemCrews.filter (fun i => i.launch == launch && i.core == core)).map (fun i =>
    i.slots - (s.fibres.filter (fun f => f.id.crew == .item i.launch i.core i.crew)).length)).sum

def laneQstat (c : Ctx) (f : Fibre) : M Unit := do
  let s ← get
  let k := c.a f
  checkM (k.toNat ≤ 3) (insnOperand 2)
  let n := (s.core c.core).items.length
  putF (c.putD f (BitVec.ofNat 32 (match k.toNat with
    | 0 => n
    | 1 => coreQueue - n
    | 2 => min (((s.launch? c.launch).map (fun l => l.sump.length)).getD 0) 0xFFFFFFFF
    | _ => s.freeItemSlots c.launch c.core)))

def execQstat (w : Fields) (s : State) : Host.Outcome State Fault Refusal := issue .qstat w (perLane laneQstat) s

end Sys2Proof.Machine
end

