-- ==== Sys2Proof/Machine/Integer.lean ====
section
/-! DEFINITION. The instructions 0x20 to 0x4F (15): integer, bit, compare, select, move, state-register and wave instructions. -/

namespace Sys2Proof.Machine

/-! ### Widths and extensions (15 R296, R298) -/

/-- TY at a bit of MOD: whether the slot is 64-bit and whether Ext is signed. -/
def tyWide (m : Byte) (lo : Nat) : Bool := modBit m (lo + 1)
def tySigned (m : Byte) (lo : Nat) : Bool := modBit m lo
def bitsOf (wide : Bool) : Nat := if wide then 64 else 32

/-- Ext: the value of n bits read as signed or unsigned (15 R298). -/
def ext (signed : Bool) (n x : Nat) : Int := if signed then signedOf n x else (x % 2 ^ n : Nat)

/-- The bounds of TY. -/
def tyMin (signed : Bool) (n : Nat) : Int := if signed then -(2 ^ (n - 1) : Int) else 0
def tyMax (signed : Bool) (n : Nat) : Int := if signed then (2 ^ (n - 1) : Int) - 1 else (2 ^ n : Int) - 1

/-- D of an exact result: modulo 2^n, or clamped under SAT (15 R298). -/
def narrow (signed sat : Bool) (n : Nat) (e : Int) : Nat :=
  twos n (if sat then max (tyMin signed n) (min (tyMax signed n) e) else e)

/-! ### Integer arithmetic (15 R298 to R303) -/

/-- A W-slot instruction of layout int over its exact result. -/
def fibreInt (e : Int → Int → Nat → Int) (c : Ctx) (f : Fibre) : Fibre :=
  let m := c.w.mod
  let wide := tyWide m 0
  let sg := tySigned m 0
  let n := bitsOf wide
  let a := ext sg n (c.valW f c.w.a wide sg)
  let b := ext sg n (c.valW f c.w.b wide sg)
  c.putW f wide (narrow sg (modBit m 2) n (e a b n))

def fibreImad (c : Ctx) (f : Fibre) : Fibre :=
  let m := c.w.mod
  let wide := tyWide m 0
  let sg := tySigned m 0
  let d := ext sg (bitsOf wide) (c.valW f c.w.c wide sg)
  fibreInt (fun a b _ => a * b + d) c f

/-- |Ext(A)|, clamped under SAT (15 R298). -/
def fibreIabs (c : Ctx) (f : Fibre) : Fibre :=
  let m := c.w.mod
  let wide := tyWide m 0
  let n := bitsOf wide
  c.putW f wide (narrow true (modBit m 2) n ((ext true n (c.valW f c.w.a wide true)).natAbs))

/-- IADC: the sum and its carry; ISBC: the difference and its borrow (15 R299). -/
def carryResult (sub : Bool) (n a b cin : Nat) : Nat × Bool :=
  if sub then ((a + 2 ^ (n + 1) - (b + cin)) % 2 ^ n, a < b + cin) else ((a + b + cin) % 2 ^ n, 2 ^ n ≤ a + b + cin)

/-- D is written first and v0[K] second. -/
def fibreCarry (sub : Bool) (c : Ctx) (f : Fibre) : Fibre :=
  let wide := tyWide c.w.mod 0
  let k := c.w.c.n.toNat
  let sg := tySigned c.w.mod 0
  let r := carryResult sub (bitsOf wide) (c.valW f c.w.a wide sg) (c.valW f c.w.b wide sg) (if f.pred k then 1 else 0)
  (c.putW f wide r.1).setPred k r.2

def fibreImadw (c : Ctx) (f : Fibre) : Fibre :=
  let sg := tySigned c.w.mod 0
  let e := ext sg 32 (c.a f).toNat * ext sg 32 (c.b f).toNat + ext sg 64 (c.val64 f c.w.c).toNat
  c.putD64 f (BitVec.ofNat 64 (narrow sg (modBit c.w.mod 2) 64 e))

/-- IDIV: truncation toward zero; a zero divisor gives all ones, −2^(n−1) ÷ −1 itself (15 R301). -/
def idivResult (signed : Bool) (n : Nat) (a b : Int) : Int :=
  if b == 0 then -1 else if signed && b == -1 && a == tyMin true n then a else a.tdiv b

/-- IREM: the remainder takes the sign of A; a zero divisor gives A (15 R301). -/
def iremResult (a b : Int) : Int := if b == 0 then a else a.tmod b

/-- Σ a_k × b_k over elements of some width (15 R302). -/
def dotSum (sa sb : Bool) (width count a b : Nat) : Int :=
  ((List.range count).map (fun k => ext sa width (a / 2 ^ (width * k)) * ext sb width (b / 2 ^ (width * k)))).foldl (· + ·) 0

def fibreDot (width count : Nat) (c : Ctx) (f : Fibre) : Fibre :=
  let m := c.w.mod
  let sg := modBit m 0 || modBit m 1
  let e := ext sg 32 (c.c4 f).toNat + dotSum (modBit m 0) (modBit m 1) width count (c.a f).toNat (c.b f).toNat
  c.putD f (BitVec.ofNat 32 (narrow sg (modBit m 2) 32 e))

def fibreLea (c : Ctx) (f : Fibre) : Fibre :=
  let b := c.b f
  let i : DWord := if modBit c.w.mod 4 then .sext b else .zext b
  c.putD64 f (c.a64 f + (i <<< modField c.w.mod 0 4))

def execIadd (w : Fields) (s : State) : Host.Outcome State Fault Refusal := issue .iadd w (perFibre (fibreInt (fun a b _ => a + b))) s
def execIsub (w : Fields) (s : State) : Host.Outcome State Fault Refusal := issue .isub w (perFibre (fibreInt (fun a b _ => a - b))) s
def execIadc (w : Fields) (s : State) : Host.Outcome State Fault Refusal := issue .iadc w (perFibre (fibreCarry false)) s
def execIsbc (w : Fields) (s : State) : Host.Outcome State Fault Refusal := issue .isbc w (perFibre (fibreCarry true)) s
def execImul (w : Fields) (s : State) : Host.Outcome State Fault Refusal := issue .imul w (perFibre (fibreInt (fun a b _ => a * b))) s
def execImulh (w : Fields) (s : State) : Host.Outcome State Fault Refusal := issue .imulh w (perFibre (fibreInt (fun a b n => (a * b).fdiv (2 ^ n)))) s
def execImad (w : Fields) (s : State) : Host.Outcome State Fault Refusal := issue .imad w (perFibre fibreImad) s
def execImadw (w : Fields) (s : State) : Host.Outcome State Fault Refusal := issue .imadw w (perFibre fibreImadw) s
def execIdiv (w : Fields) (s : State) : Host.Outcome State Fault Refusal :=
  issue .idiv w (perFibre (fun c => fibreInt (fun a b n => idivResult (tySigned c.w.mod 0) n a b) c)) s
def execIrem (w : Fields) (s : State) : Host.Outcome State Fault Refusal := issue .irem w (perFibre (fibreInt (fun a b _ => iremResult a b))) s
def execImin (w : Fields) (s : State) : Host.Outcome State Fault Refusal := issue .imin w (perFibre (fibreInt (fun a b _ => min a b))) s
def execImax (w : Fields) (s : State) : Host.Outcome State Fault Refusal := issue .imax w (perFibre (fibreInt (fun a b _ => max a b))) s
def execIabs (w : Fields) (s : State) : Host.Outcome State Fault Refusal := issue .iabs w (perFibre fibreIabs) s
def execIdp4 (w : Fields) (s : State) : Host.Outcome State Fault Refusal := issue .idp4 w (perFibre (fibreDot 8 4)) s
def execLea (w : Fields) (s : State) : Host.Outcome State Fault Refusal := issue .lea w (perFibre fibreLea) s
def execIdp2 (w : Fields) (s : State) : Host.Outcome State Fault Refusal := issue .idp2 w (perFibre (fibreDot 16 2)) s

/-! ### Bit operations (15 R304 to R309) -/

/-- WD: whether the W slots are 64-bit. -/
def wdWide (m : Byte) : Bool := modBit m 0

/-- A W-slot instruction over A and B of one width; special 1 is zero-extended (15 R296). -/
def fibreBits2 (g : Nat → Nat → Nat → Nat) (c : Ctx) (f : Fibre) : Fibre :=
  let wide := wdWide c.w.mod
  c.putW f wide (g (bitsOf wide) (c.valW f c.w.a wide false) (c.valW f c.w.b wide false))

/-- A W-slot instruction over A and a 32-bit B. -/
def fibreShift (g : Nat → Nat → Nat → Nat) (c : Ctx) (f : Fibre) : Fibre :=
  let wide := wdWide c.w.mod
  c.putW f wide (g (bitsOf wide) (c.valW f c.w.a wide false) (c.b f).toNat)

/-- Bits [n − 1 : 0] of a truth table over three words (15 R304). -/
def ternBits (fn : Byte) (a b c : Word) : Word :=
  (List.range 32).foldl (fun d i =>
    let k := (a.getLsbD i).toNat + 2 * (b.getLsbD i).toNat + 4 * (c.getLsbD i).toNat
    if fn.getLsbD k then d ||| BitVec.ofNat 32 (2 ^ i) else d) 0

def fibreTern (c : Ctx) (f : Fibre) : Fibre := c.putD f (ternBits c.w.mod (c.a f) (c.b f) (c.c4 f))

def shlN (n a k : Nat) : Nat := if k < n then a * 2 ^ k % 2 ^ n else 0
def shrN (n a k : Nat) : Nat := if k < n then a / 2 ^ k else 0
def sarN (n a k : Nat) : Nat := twos n ((signedOf n a).fdiv (2 ^ min k n))
def rotlN (n a k : Nat) : Nat := (a * 2 ^ (k % n) + a / 2 ^ (n - k % n)) % 2 ^ n

/-- BFX: the field of A at p of length m, extended (15 R306). -/
def bfxN (sx : Bool) (n a fld : Nat) : Nat :=
  let p := fld % 256
  let m := min (fld / 256 % 256) n
  if m == 0 then 0
  else
    let v := a / 2 ^ p % 2 ^ m
    if sx then twos n (signedOf m v) else v

/-- BFI: A with bits p to Min(p + m, n) − 1 replaced by B (15 R306). -/
def bfiN (n a b fld : Nat) : Nat :=
  let p := fld % 256
  let q := min (p + fld / 256 % 256) n
  if q ≤ p then a
  else
    let k := q - p
    a % 2 ^ p + 2 ^ p * (b % 2 ^ k) + 2 ^ q * (a / 2 ^ q)

def fibreBfi (c : Ctx) (f : Fibre) : Fibre :=
  let wide := wdWide c.w.mod
  c.putW f wide (bfiN (bitsOf wide) (c.valW f c.w.a wide false) (c.valW f c.w.b wide false) (c.c4 f).toNat)

def brevN (n a : Nat) : Nat := (List.range n).foldl (fun d i => 2 * d + a / 2 ^ i % 2) 0
def popcN (n a : Nat) : Nat := ((List.range n).filter (fun i => a.testBit i)).length
def clzN (n a : Nat) : Nat := if a % 2 ^ n == 0 then n else n - 1 - (a % 2 ^ n).log2
def ffsN (n a : Nat) : Nat := ((List.range n).find? (fun i => a.testBit i)).getD 0xFFFFFFFF

/-- BREV keeps the width; POPC, CLZ and FFS write one register (15 R307). -/
def fibreBrev (c : Ctx) (f : Fibre) : Fibre :=
  let wide := wdWide c.w.mod
  c.putW f wide (brevN (bitsOf wide) (c.valW f c.w.a wide false))

def fibreCount (g : Nat → Nat → Nat) (c : Ctx) (f : Fibre) : Fibre :=
  let wide := wdWide c.w.mod
  c.putD f (BitVec.ofNat 32 (g (bitsOf wide) (c.valW f c.w.a wide false)))

/-- BSEL: each byte of D by a source nibble and a fill bit (15 R308). -/
def bselN (a b c : Nat) : Nat :=
  ((List.range 4).map (fun k =>
    let sel := c / 2 ^ (4 * k) % 16
    let y := if sel < 4 then a / 256 ^ sel % 256 else if sel < 8 then b / 256 ^ (sel - 4) % 256 else 0
    let y := if c.testBit (16 + k) then (if y ≥ 128 then 255 else 0) else y
    y * 256 ^ k)).sum

def fibreBsel (c : Ctx) (f : Fibre) : Fibre := c.putD f (BitVec.ofNat 32 (bselN (c.a f).toNat (c.b f).toNat (c.c4 f).toNat))

/-- BEXT: the bits of A at the positions of B, gathered upward (15 R309). -/
def bextN (n a b : Nat) : Nat :=
  let ps := (List.range n).filter (fun i => b.testBit i)
  ((List.range ps.length).zip ps).foldl (fun d (j, i) => d + 2 ^ j * (a / 2 ^ i % 2)) 0

def execAnd (w : Fields) (s : State) : Host.Outcome State Fault Refusal := issue .andB w (perFibre (fibreBits2 (fun _ a b => a &&& b))) s
def execOr (w : Fields) (s : State) : Host.Outcome State Fault Refusal := issue .orB w (perFibre (fibreBits2 (fun _ a b => a ||| b))) s
def execXor (w : Fields) (s : State) : Host.Outcome State Fault Refusal := issue .xorB w (perFibre (fibreBits2 (fun _ a b => a ^^^ b))) s
def execTern (w : Fields) (s : State) : Host.Outcome State Fault Refusal := issue .tern w (perFibre fibreTern) s
def execShl (w : Fields) (s : State) : Host.Outcome State Fault Refusal := issue .shl w (perFibre (fibreShift shlN)) s
def execShr (w : Fields) (s : State) : Host.Outcome State Fault Refusal := issue .shr w (perFibre (fibreShift shrN)) s
def execSar (w : Fields) (s : State) : Host.Outcome State Fault Refusal := issue .sar w (perFibre (fibreShift sarN)) s
def execRotl (w : Fields) (s : State) : Host.Outcome State Fault Refusal := issue .rotl w (perFibre (fibreShift rotlN)) s
def execBfx (w : Fields) (s : State) : Host.Outcome State Fault Refusal := issue .bfx w (perFibre (fun c => fibreShift (bfxN (modBit c.w.mod 1)) c)) s
def execBfi (w : Fields) (s : State) : Host.Outcome State Fault Refusal := issue .bfi w (perFibre fibreBfi) s
def execBrev (w : Fields) (s : State) : Host.Outcome State Fault Refusal := issue .brev w (perFibre fibreBrev) s
def execPopc (w : Fields) (s : State) : Host.Outcome State Fault Refusal := issue .popc w (perFibre (fibreCount popcN)) s
def execClz (w : Fields) (s : State) : Host.Outcome State Fault Refusal := issue .clz w (perFibre (fibreCount clzN)) s
def execFfs (w : Fields) (s : State) : Host.Outcome State Fault Refusal := issue .ffs w (perFibre (fibreCount ffsN)) s
def execBsel (w : Fields) (s : State) : Host.Outcome State Fault Refusal := issue .bsel w (perFibre fibreBsel) s
def execBext (w : Fields) (s : State) : Host.Outcome State Fault Refusal := issue .bext w (perFibre (fibreBits2 bextN)) s

/-! ### Compare, select, move (15 R310 to R313) -/

/-- Bit K of D written, its other bits unchanged (15 R310). -/
def Ctx.putBit (c : Ctx) (f : Fibre) (k : Nat) (v : Bool) (flags : Word := 0) : Fibre :=
  c.putD f (setBit (f.reg c.w.d.n.toNat) k v) flags

def fibreIcmp (c : Ctx) (f : Fibre) : Fibre :=
  let m := c.w.mod
  let wide := tyWide m 3
  let sg := tySigned m 3
  let a := ext sg (bitsOf wide) (c.valW f c.w.a wide sg)
  let b := ext sg (bitsOf wide) (c.valW f c.w.b wide sg)
  c.putBit f c.w.c.n.toNat (ccHolds (modField m 0 3) (a < b) (a == b))

def fibreFcmp (c : Ctx) (f : Fibre) : Fibre :=
  let m := c.w.mod
  let (r, fl) := fp32.compare f.ftz (modBit m 3) (modField m 0 3) (c.a f).toNat (c.b f).toNat
  c.putBit f c.w.c.n.toNat r fl

def fibreSel (c : Ctx) (f : Fibre) : Fibre :=
  let wide := wdWide c.w.mod
  c.putW f wide (c.valW f (if f.pred c.w.c.n.toNat then c.w.a else c.w.b) wide false)

def fibreMov (c : Ctx) (f : Fibre) : Fibre :=
  let wide := wdWide c.w.mod
  c.putW f wide (c.valW f c.w.a wide false)

def execIcmp (w : Fields) (s : State) : Host.Outcome State Fault Refusal := issue .icmp w (perFibre fibreIcmp) s
def execFcmp (w : Fields) (s : State) : Host.Outcome State Fault Refusal := issue .fcmp w (perFibre fibreFcmp) s
def execSel (w : Fields) (s : State) : Host.Outcome State Fault Refusal := issue .sel w (perFibre fibreSel) s
def execMov (w : Fields) (s : State) : Host.Outcome State Fault Refusal := issue .mov w (perFibre fibreMov) s

/-! ### State registers (15 R314, R315) -/

/-- TSHAPE of a tile (03 R80). -/
def tshapeWord (t : Tile) : Word :=
  if t.allot then BitVec.ofNat 32 (2 ^ 31 + t.width.toNat * 65536 + (t.cols - 1) * 256 + (t.rows - 1)) else 0

/-- ISSUEPOL (02 R59). -/
def issuepolWord (t : Team) : Word :=
  BitVec.ofNat 32 (t.thresh.toNat + t.nwave.toNat * 2 ^ 16 + t.polEn.toNat * 2 ^ 24 + t.polActive.toNat * 2 ^ 25)

/-- TXCFG (06 R164). -/
def txcfgWord (t : Team) : Word := BitVec.ofNat 32 (t.ocur.toNat + t.nobo.toNat * 2 ^ 24)

/-- WINDOW (01 R32). -/
def windowWord (s : State) (f : Fibre) : Word :=
  let full := ((s.teamOf? f.id.crew).map (fun t => t.acq == .granted)).getD false
  let base := ((s.placeOf? f.id.crew).map CrewPlace.base).getD []
  BitVec.ofNat 32 (f.regs.length + full.toNat * 256 + wordAt base (f.id.index * f.regs.length) % 2 ^ 15 * 2 ^ 16)

/-- The identity and time registers (01 R33; 02 R65). -/
def identityWord (s : State) (f : Fibre) (idx : Nat) : Option Word :=
  let team := match f.id.crew with
    | .team _ t _ => some t
    | .item .. => none
  let l := s.launch? f.id.crew.launch
  let gang := (l.map Launch.gang).getD 1
  let core := s.coreOf f.id.crew
  let cyc := s.clk.cycles.getD (dieOf core) 0
  let n := fun (x : Nat) => some (BitVec.ofNat 32 x)
  match idx with
  | 0x000 => n f.id.index
  | 0x001 => n f.home
  | 0x002 => n f.lane
  | 0x003 => n (f.id.crew.crew + f.isItem.toNat * 4)
  | 0x004 => n (team.getD 0xFFFFFFFF)
  | 0x005 => n ((l.map Launch.nteams).getD 0)
  | 0x006 => n ((team.map (fun t => t / gang)).getD 0xFFFFFFFF)
  | 0x007 => n ((team.map (fun t => t % gang)).getD 0)
  | 0x008 => n (s.veinOfCore core)
  | 0x009 => n (((l.bind Launch.span).map Span.lode).getD 0)
  | 0x00A => n (cyc % 2 ^ 32)
  | 0x00B => some f.clockh
  | 0x00C => n (s.rtime % 2 ^ 32)
  | 0x00D => some f.rtimeh
  | 0x00E => n (match l, team with
      | some l, some t => if l.det then t % l.cores else 0xFFFFFFFF
      | _, _ => 0xFFFFFFFF)
  | 0x00F => n ((l.map (fun l => if l.det then l.cores else 0)).getD 0)
  | _ => none

/-- The value GETS reads; none where the index is outside the map (15 R314, R315). -/
def getsWord (s : State) (f : Fibre) (idx : Nat) : Option Word :=
  let t := s.teamOf? f.id.crew
  let dl := ((s.launch? f.id.crew.launch).map Launch.deadline).getD 0
  match idx with
  | 0x010 => some f.fpmode
  | 0x011 => some f.fpstat
  | 0x012 => some ((t.map Team.pivclamp).getD 0)
  | 0x013 => some ((t.map issuepolWord).getD 0)
  | 0x014 => some f.txstat
  | 0x015 => some ((t.map txcfgWord).getD 0)
  | 0x016 => some dl.lo
  | 0x017 => some dl.hi
  | 0x018 => some (windowWord s f)
  | _ =>
    if 0x020 ≤ idx && idx ≤ 0x02F then some ((t.map (fun t => tshapeWord (t.tiles.getD (idx - 0x020) {}))).getD 0)
    else identityWord s f idx

/-- A GETS of FPSTAT waits for the fibre's tile instructions and its pending float destinations (05 R149). -/
def fpstatWait (s : State) (f : Fibre) : M Unit := do
  if s.tileOps.any (fun o => o.fibres.contains f.id) then waitM .tile
  if f.pend.any Pend.fp then waitM .pending

def laneGets (c : Ctx) (f : Fibre) : M Unit := do
  let s ← get
  let idx := (c.a f).toNat
  if idx == 0x011 then fpstatWait s f
  match getsWord s f idx with
  | none => trapM insnStateIdx
  | some v =>
    -- CLOCK and RTIME latch their high halves (02 R65).
    let f := if idx == 0x00A then { f with clockh := BitVec.ofNat 32 (s.clk.cycles.getD (dieOf c.core) 0 / 2 ^ 32) } else f
    let f := if idx == 0x00C then { f with rtimeh := BitVec.ofNat 32 (s.rtime / 2 ^ 32) } else f
    putF (c.putD f v)

/-- Whether a fibre of a team has an ordered iteration open (06 R164). -/
def State.orderedOpen (s : State) (launch team : Nat) : Bool :=
  s.fibres.any (fun f => (match f.id.crew with
    | .team l t _ => l == launch && t == team
    | .item .. => false) && (f.tx.bind Tx.iter).isSome)

def laneSets (c : Ctx) (f : Fibre) : M Unit := do
  let s ← get
  let idx := (c.a f).toNat
  let v := c.b f
  let team := s.teamOf? f.id.crew
  match idx, team with
  | 0x010, _ => do
    checkM (v.toNat % 8 ≤ 4) (insnReserved 0)
    putF { f with fpmode := v &&& 0x1F }
  | 0x011, _ => putF { f with fpstat := fpstatClear f.fpstat v }
  | 0x012, some t => do
    checkM (v.toNat / 2 ^ 23 % 256 != 255) (insnOperand 3)
    putT { t with pivclamp := v &&& 0x7FFFFFFF }
  | 0x013, some t =>
    putT (Team.throttle { t with thresh := v.setWidth 16, nwave := BitVec.ofNat 7 (v.toNat / 2 ^ 16), polEn := v.getLsbD 24 })
  | 0x015, some t => do
    let o := BitVec.ofNat 24 v.toNat
    checkM (o == t.ocur || !s.orderedOpen t.launch t.id) txOrdRange
    putT { t with ocur := o, nobo := v.getLsbD 24 }
  | 0x012, none => trapM (insnOperand 2)
  | 0x013, none => trapM (insnOperand 2)
  | 0x015, none => trapM (insnOperand 2)
  | _, _ => trapM insnStateIdx

def execGets (w : Fields) (s : State) : Host.Outcome State Fault Refusal := issue .gets w (perLane laneGets) s
def execSets (w : Fields) (s : State) : Host.Outcome State Fault Refusal := issue .sets w (perLane laneSets) s

/-! ### Wave-wide instructions (15 R316 to R320) -/

/-- The source lane of a shuffle; none where it is invalid (15 R316). -/
def shflLane (op : Op) (l b : Nat) : Option Nat :=
  match op with
  | .shfli => some b
  | .shflu => if b ≤ l then some (l - b) else none
  | .shfld => some (l + b)
  | _ => if b < 32 then some (l ^^^ b) else none

def fibreShfl (c : Ctx) (f : Fibre) : Fibre :=
  let wide := wdWide c.w.mod
  let src := (shflLane c.op f.lane (c.b f).toNat).bind (fun l => c.act.find? (fun g => g.lane == l))
  c.putW f wide (c.valW (src.getD f) c.w.a wide false)

/-- The combination of an OP of wred, over values as Ext reads them (15 R317). -/
def wredOp (op n : Nat) (a b : Int) : Int :=
  match op with
  | 0 => a + b
  | 1 => min a b
  | 2 => max a b
  | 3 => (twos n a &&& twos n b : Nat)
  | 4 => (twos n a ||| twos n b : Nat)
  | _ => (twos n a ^^^ twos n b : Nat)

/-- The identity of an OP. -/
def wredId (op : Nat) (signed : Bool) (n : Nat) : Int :=
  match op with
  | 1 => tyMax signed n
  | 2 => tyMin signed n
  | 3 => -1
  | _ => 0

/-- The reduction of A over fibres. -/
def wredOver (c : Ctx) (fs : List Fibre) : Nat :=
  let m := c.w.mod
  let wide := tyWide m 3
  let sg := tySigned m 3
  let n := bitsOf wide
  let op := modField m 0 3
  twos n (fs.foldl (fun acc g => wredOp op n acc (ext sg n (c.valW g c.w.a wide sg))) (wredId op sg n))

def fibreWred (c : Ctx) (f : Fibre) : Fibre := c.putW f (tyWide c.w.mod 3) (wredOver c c.act)

def fibreWscan (c : Ctx) (f : Fibre) : Fibre :=
  let excl := modBit c.w.mod 5
  c.putW f (tyWide c.w.mod 3) (wredOver c (c.act.filter (fun g => g.lane < f.lane || (!excl && g.lane == f.lane))))

/-- FWRED over the home lanes; the rounding code is read from the lowest active lane (05 R134; 15 R318). -/
def fwredResult (c : Ctx) : FRes :=
  let rctx : RCtx := { mode := c.lead.rmode (modField c.w.mod 0 3), sat := modBit c.w.mod 3 }
  treeSum fp32 rctx 5 ((List.range 32).map (fun l => (c.act.find? (fun g => g.lane == l)).map (fun g => (c.a g).toNat)))

def fibreFwred (c : Ctx) (f : Fibre) : Fibre :=
  let r := fwredResult c
  c.putD f (BitVec.ofNat 32 r.1) r.2

/-- EL: elements of a register, their width, and whether the sign bit is ignored (15 R319). -/
def elWidth (el : Nat) : Nat × Bool :=
  match el with
  | 0 => (32, false)
  | 1 => (32, true)
  | 2 => (16, true)
  | 3 => (16, true)
  | 4 => (8, false)
  | 5 => (8, true)
  | _ => (4, false)

/-- Nonzero elements of a register (05 R150). -/
def nzOf (el : Nat) (v : Word) : Nat :=
  let (width, float) := elWidth el
  ((List.range (32 / width)).filter (fun i => nonzeroElem float width (v.toNat / 2 ^ (width * i) % 2 ^ width))).length

def fibreNzcnt (c : Ctx) (f : Fibre) : Fibre :=
  c.putD f (BitVec.ofNat 32 ((c.act.map (fun g => nzOf (modField c.w.mod 0 3) (c.a g))).sum))

def fibreNzmap (c : Ctx) (f : Fibre) : Fibre :=
  c.putD f (lanesOf (c.act.filter (fun g => nzOf (modField c.w.mod 0 3) (c.a g) != 0)))

def fibreMatch (c : Ctx) (f : Fibre) : Fibre :=
  let wide := wdWide c.w.mod
  let v := fun (g : Fibre) => c.valW g c.w.a wide false
  c.putD f (lanesOf (c.act.filter (fun g => v g == v f)))

def execShfli (w : Fields) (s : State) : Host.Outcome State Fault Refusal := issue .shfli w (perFibre fibreShfl) s
def execShflu (w : Fields) (s : State) : Host.Outcome State Fault Refusal := issue .shflu w (perFibre fibreShfl) s
def execShfld (w : Fields) (s : State) : Host.Outcome State Fault Refusal := issue .shfld w (perFibre fibreShfl) s
def execShflx (w : Fields) (s : State) : Host.Outcome State Fault Refusal := issue .shflx w (perFibre fibreShfl) s
def execWred (w : Fields) (s : State) : Host.Outcome State Fault Refusal := issue .wred w (perFibre fibreWred) s
def execWscan (w : Fields) (s : State) : Host.Outcome State Fault Refusal := issue .wscan w (perFibre fibreWscan) s
def execFwred (w : Fields) (s : State) : Host.Outcome State Fault Refusal := issue .fwred w (perFibre fibreFwred) s
def execNzcnt (w : Fields) (s : State) : Host.Outcome State Fault Refusal := issue .nzcnt w (perFibre fibreNzcnt) s
def execNzmap (w : Fields) (s : State) : Host.Outcome State Fault Refusal := issue .nzmap w (perFibre fibreNzmap) s
def execMatch (w : Fields) (s : State) : Host.Outcome State Fault Refusal := issue .matchL w (perFibre fibreMatch) s

end Sys2Proof.Machine
end

