-- ==== Sys2Proof/Machine/Engine.lean ====
section
/-! DEFINITION. The engine instructions 0xE0 to 0xEE as they issue: Sluice (09; 19 R405, R406), Dowser (10; 19 R407), Assay (11;
19 R408). What a queued operation does stands with the events that end it. -/

namespace Sys2Proof.Machine

/-! ### Bases and families of operations -/

/-- A grid or family base: address bits, then alignment (19 R405). -/
def baseCheck (a : DWord) : M Unit := do
  checkM (a.toNat / 2 ^ 51 == 0) memAddrBits a
  checkM (a.toNat % 4096 == 0) (memAlign 0) a

/-- The queue of a launch. -/
def State.queueOf (s : State) (launch : Nat) : Nat := ((s.launch? launch).map Launch.queue).getD 0

/-- The grid and the family at a base of a queue's space. -/
def State.grid? (s : State) (queue : Nat) (base : DWord) : Option Grid := s.grids.find? (fun g => g.queue == queue && g.base == base)
def State.family? (s : State) (queue : Nat) (base : DWord) : Option Family := s.families.find? (fun f => f.queue == queue && f.base == base)

/-- Operations on a grid, and on a family (09 R202; 10 R212). -/
def EngKind.isGrid (k : EngKind) : Bool := k == .nbin || k == .npair || k == .nfix || k == .ncfg
def EngKind.isFamily (k : EngKind) : Bool := k == .hcfg || k == .hprobe || k == .hins || k == .hdel || k == .hreh

/-- Whether an operation on a grid, or on a family, is queued or running. -/
def State.gridBusy (s : State) (queue : Nat) (base : DWord) : Bool :=
  s.ops.any (fun o => o.kind.isGrid && s.queueOf o.launch == queue && o.a == base)
def State.familyBusy (s : State) (queue : Nat) (base : DWord) : Bool :=
  s.ops.any (fun o => o.kind.isFamily && s.queueOf o.launch == queue && o.b == base)

/-! ### Sluice (09 R203 to R206) -/

/-- An FP32 encoding as an exact number of units of 2^−149. -/
def fx (x : Word) : Int := (fp32.decode x.toNat).scaled (-149)

def finite32 (x : Word) : Bool := match fp32.decode x.toNat with
  | .num .. => true
  | _ => false

/-- Finite and above 0. -/
def positive32 (x : Word) : Bool := finite32 x && 0 < fx x

/-- n_a of an axis: 1 to 256 cells (09 R204). An infinite edge makes one cell. -/
def cellsOn (l edge : Word) : Nat := if finite32 edge then min (max (fx l / fx edge).toNat 1) 256 else 1

/-- The grid that a configuration block describes. -/
def Grid.ofBlock (b : List Byte) (queue die : Nat) : Grid where
  base := BitVec.ofNat 64 (field b 40 8)
  die := die
  box := (List.range 3).map (fun k => BitVec.ofNat 32 (field b (4 * k) 4))
  edge := BitVec.ofNat 32 (field b 12 4)
  cut := BitVec.ofNat 32 (field b 16 4)
  skin := BitVec.ofNat 32 (field b 20 4)
  pos := BitVec.ofNat 64 (field b 24 8)
  stride := field b 32 4
  n := field b 36 4
  bytes := field b 48 8
  ovcap := field b 56 4
  flags := BitVec.ofNat 8 (field b 60 1)
  queue := queue

def Grid.len (g : Grid) (a : Nat) : Word := g.box.getD a 0
def Grid.cells (g : Grid) (a : Nat) : Nat := cellsOn (g.len a) g.edge
def Grid.periodic (g : Grid) (a : Nat) : Bool := g.flags.getLsbD a
def Grid.fix (g : Grid) : Bool := g.flags.getLsbD 3
def Grid.fullList (g : Grid) : Bool := g.flags.getLsbD 4

/-- GridBytes (09 R204). -/
def Grid.needed (g : Grid) : Nat := 4096 + 132 * (g.cells 0 * g.cells 1 * g.cells 2) + 32 * g.n + 8 * g.ovcap

/-- The limits of R203. -/
def Grid.ok (g : Grid) (b : List Byte) : Bool :=
  g.box.all positive32 && positive32 g.cut && finite32 g.skin && 0 ≤ fx g.skin
    && (fp32.compare false false 5 g.edge.toNat (fp32.add {} g.cut.toNat g.skin.toNat).1).1
    && g.pos.toNat % 4 == 0 && g.pos.toNat / 2 ^ 51 == 0 && g.stride % 4 == 0 && 12 ≤ g.stride
    && 1 ≤ g.n && g.n ≤ 2 ^ 24 && g.base.toNat % 4096 == 0 && g.ovcap ≤ 2 ^ 24 && field b 60 4 < 32
    && (List.range 3).all (fun a => !g.periodic a || 2 * (fx g.cut + fx g.skin) ≤ fx (g.len a))
    && g.needed ≤ g.bytes

/-- FamBytes (10 R214). -/
def Family.bits (f : Family) : Nat := if f.wta then f.k * f.wlog else f.k
def Family.bytes (f : Family) : Nat := 4096 + f.tables * 2 ^ f.bits * 64

/-- Whether a range of a queue's space meets another configured grid or family (19 R406). -/
def State.meetsOwned (s : State) (queue : Nat) (base : DWord) (n : Nat) : Bool :=
  let meet := fun (b : DWord) (k : Nat) => b != base && b.toNat < base.toNat + n && base.toNat < b.toNat + k
  s.grids.any (fun g => g.queue == queue && meet g.base g.bytes) ||
  s.families.any (fun f => f.queue == queue && f.state != 0 && meet f.base f.bytes)

/-- A grid configured: state UNBOUND, its Sluice kept if it has one. -/
def State.configure (s : State) (g : Grid) : State :=
  match s.grid? g.queue g.base with
  | some old => { s with grids := s.grids.map (fun h => if h.queue == g.queue && h.base == g.base then { g with die := old.die } else h) }
  | none => { s with grids := s.grids ++ [g] }

def waveNcfg (c : Ctx) : M Unit := do
  let t ← teamM c.lead
  let b ← spBlock t (c.a c.lead).toNat 64
  let s ← get
  let g := Grid.ofBlock b (s.queueOf c.launch) (dieOf c.core)
  checkM (g.base.toNat / 2 ^ 51 == 0) memAddrBits g.base
  checkM (g.ok b) (engineC 1 0)
  checkM (!s.meetsOwned g.queue g.base g.bytes) (engineC 1 0)
  if s.gridBusy g.queue g.base then
    pushOp { id := 0, kind := .ncfg, launch := t.launch, team := t.id, core := t.core, handle := 0, block := b, a := g.base }
  else modify (fun s => s.configure g)

/-- NBIN, NPAIR and NFIX. -/
def waveGrid (k : EngKind) (c : Ctx) : M Unit := do
  stillWaits c c.w.d.n.toNat
  let t ← teamM c.lead
  let a := c.a64 c.lead
  baseCheck a
  checkM (k != .npair || (t.handle c.w.d.n.toNat).size.toNat % 2 == 0) (memAlign 1)
  startEngine c c.w.d.n.toNat { id := 0, kind := k, launch := 0, team := 0, core := 0, handle := 0, a := a }

/-- The grid status of R206. -/
def State.gridStatus (s : State) (queue : Nat) (base : DWord) : DWord :=
  match s.grid? queue base with
  | none => 0
  | some g =>
    let st := match g.state with
      | .unbound => 0
      | .ready => 1
      | .overflow => 2
      | .stale => 3
      | .badpos => 4
    let used := match g.state with
      | .unbound | .ready => (g.parts.filter Particle.inList).length
      | _ => g.arg.toNat
    BitVec.ofNat 64 (st + 8 * g.fix.toNat + 16 * g.fullList.toNat + 32 * (s.gridBusy queue base).toNat + 2 ^ 32 * used)

def waveNstat (c : Ctx) : M Unit := do
  let s ← get
  let q := s.queueOf c.launch
  if !s.gridBusy q (c.a64 c.lead) then joinM c
  forM_ c.act (fun f => putF (c.putD64 f (s.gridStatus q (c.a64 c.lead))))

def execNbin (w : Fields) (s : State) : Host.Outcome State Fault Refusal := issue .nbin w (perWave (waveGrid .nbin)) s
def execNpair (w : Fields) (s : State) : Host.Outcome State Fault Refusal := issue .npair w (perWave (waveGrid .npair)) s
def execNfix (w : Fields) (s : State) : Host.Outcome State Fault Refusal := issue .nfix w (perWave (waveGrid .nfix)) s
def execNstat (w : Fields) (s : State) : Host.Outcome State Fault Refusal := issue .nstat w (perWave waveNstat) s
def execNcfg (w : Fields) (s : State) : Host.Outcome State Fault Refusal := issue .ncfg w (perWave waveNcfg) s

/-! ### Dowser (10 R213 to R225) -/

/-- The family that a configuration block describes. -/
def Family.ofBlock (b : List Byte) (queue die : Nat) : Family where
  base := BitVec.ofNat 64 (field b 24 8)
  die := die
  queue := queue
  wta := field b 0 1 % 2 == 1
  policy := field b 0 1 / 2 % 4
  tables := field b 1 1
  k := field b 2 1
  wlog := field b 3 1
  m := field b 4 2
  d := field b 8 4
  c := field b 12 4
  nrows := field b 16 4
  wstride := field b 20 4
  pbase := BitVec.ofNat 64 (field b 32 8)
  seed := BitVec.ofNat 64 (field b 40 8)
  wbase := BitVec.ofNat 64 (field b 48 8)
  old := BitVec.ofNat 64 (field b 56 8)

/-- INIT of a configuration block. -/
def blockInit (b : List Byte) : Bool := field b 0 1 / 8 % 2 == 1

/-- The limits of R213. -/
def Family.ok (f : Family) (b : List Byte) (base : DWord) : Bool :=
  f.policy != 3 && field b 0 1 < 16 && 1 ≤ f.tables && f.tables ≤ 32 && 1 ≤ f.k && f.k ≤ 16
    && (if f.wta then 1 ≤ f.wlog && f.wlog ≤ 4 else f.wlog == 0) && 1 ≤ f.m && f.m ≤ f.tables && field b 6 2 == 0
    && 1 ≤ f.d && f.d ≤ 4096 && 1 ≤ f.c && f.c ≤ 65536 && 1 ≤ f.nrows && f.nrows ≤ 2 ^ 24
    && f.wstride % 16 == 0 && 2 * f.d ≤ f.wstride && f.base.toNat % 4096 == 0 && f.base == base
    && f.pbase.toNat % 64 == 0 && f.wbase.toNat % 16 == 0 && f.bits ≤ 20
    && [f.base, f.pbase, f.wbase, f.old].all (fun a => a.toNat / 2 ^ 51 == 0)

/-- HCFG's block, with every check that is made before the wait. -/
def familyBlock (c : Ctx) : M (List Byte) := do
  let t ← teamM c.lead
  let base := c.b64 c.lead
  baseCheck base
  let b ← spBlock t (c.a c.lead).toNat 64
  bufferCheck t c.w.d.n.toNat
  checkM ((Family.ofBlock b 0 0).ok b base) (engineC 2 0)
  pure b

def startHcfg (c : Ctx) (b : List Byte) : M Unit :=
  startEngine c c.w.d.n.toNat { id := 0, kind := .hcfg, launch := 0, team := 0, core := 0, handle := 0, block := b, b := c.b64 c.lead }

/-- HPROBE, HINS and HDEL: the vector is checked with the D last configured (10 R216). -/
def waveVector (k : EngKind) (c : Ctx) : M Unit := do
  stillWaits c c.w.d.n.toNat
  let t ← teamM c.lead
  let base := c.b64 c.lead
  let a := (c.a c.lead).toNat
  baseCheck base
  checkM (a % 16 == 0) (memAlign 1) (BitVec.ofNat 64 a)
  let s ← get
  let d := ((s.family? (s.queueOf c.launch) base).map Family.d).getD 0
  checkM (a < t.spSize && a + 2 * d ≤ t.spSize) memSpRange (BitVec.ofNat 64 a)
  startEngine c c.w.d.n.toNat { id := 0, kind := k, launch := 0, team := 0, core := 0, handle := 0, a := BitVec.ofNat 64 a, b := base
                                c := if k == .hprobe then 0 else .zext (c.c4 c.lead) }

def waveHreh (c : Ctx) : M Unit := do
  let n := (c.a c.lead).toNat
  checkM (1 ≤ n && n ≤ 2 ^ 24) (insnOperand 2)
  baseCheck (c.b64 c.lead)
  startEngine c c.w.d.n.toNat { id := 0, kind := .hreh, launch := 0, team := 0, core := 0, handle := 0, a := BitVec.ofNat 64 n
                                b := c.b64 c.lead }

/-- The two words that HQRY's selector names (10 R225). -/
def State.familyWords (s : State) (queue : Nat) (base : DWord) (sel : Nat) : DWord :=
  match s.family? queue base with
  | none => 0
  | some f =>
    if f.state == 0 then 0
    else match sel with
    | 0 => BitVec.ofNat 64 (f.state + 4 * (s.familyBusy queue base).toNat + 2 ^ 32 * (if f.state == 2 then f.cursor else 0))
    | 1 => .ofWords f.inserts f.deletes
    | 2 => .ofWords f.drops f.displaced
    | _ => .ofWords f.probes f.misses

def waveHqry (c : Ctx) : M Unit := do
  let s ← get
  let q := s.queueOf c.launch
  let base := c.a64 c.lead
  if c.w.imm == 0 && !s.familyBusy q base then joinM c
  forM_ c.act (fun f => putF (c.putD64 f (s.familyWords q base c.w.imm.toNat)))

def execHprobe (w : Fields) (s : State) : Host.Outcome State Fault Refusal := issue .hprobe w (perWave (waveVector .hprobe)) s
def execHins (w : Fields) (s : State) : Host.Outcome State Fault Refusal := issue .hins w (perWave (waveVector .hins)) s
def execHdel (w : Fields) (s : State) : Host.Outcome State Fault Refusal := issue .hdel w (perWave (waveVector .hdel)) s
def execHreh (w : Fields) (s : State) : Host.Outcome State Fault Refusal := issue .hreh w (perWave waveHreh) s
def execHcfg (w : Fields) (s : State) : Host.Outcome State Fault Refusal := issue .hcfg w (engineBody familyBlock startHcfg) s
def execHqry (w : Fields) (s : State) : Host.Outcome State Fault Refusal := issue .hqry w (perWave waveHqry) s

/-! ### Assay (11 R227 to R233) -/

/-- The limits of a parameter block (11 R228). -/
def supOk (b : List Byte) : Bool :=
  !(fp32.decode (field b 8 4)).isNan && [16, 24, 32, 40].all (fun k => field b k 8 / 2 ^ 51 == 0) && field b 40 8 % 32 == 0
    && 3 ≤ field b 48 1 && field b 48 1 ≤ 6 && field b 49 15 == 0

/-- The supervision a block opens: buffer 0 is best with residual WRES. -/
def Supervision.ofBlock (b : List Byte) : Supervision where
  deadline := BitVec.ofNat 64 (field b 0 8)
  target := BitVec.ofNat 32 (field b 8 4)
  wbuf := BitVec.ofNat 64 (field b 16 8)
  buf1 := BitVec.ofNat 64 (field b 24 8)
  buf2 := BitVec.ofNat 64 (field b 32 8)
  record := BitVec.ofNat 64 (field b 40 8)
  scope := field b 48 1
  best := 0
  bestRes := BitVec.ofNat 32 (field b 12 4)
  marks := 0

/-- FP32 order with −0 equal to +0; a NaN is never lower. -/
def below32 (x y : Word) : Bool := (fp32.decode x.toNat).lt false (fp32.decode y.toNat)

/-- Whether the best residual meets the target. -/
def Supervision.met (u : Supervision) : Bool := (fp32.compare false false 3 u.bestRes.toNat u.target.toNat).1

/-- The best buffer's address. -/
def Supervision.bestAddr (u : Supervision) : DWord := if u.best == 0 then u.wbuf else if u.best == 1 then u.buf1 else u.buf2

/-- A mark of a buffer with a residual: the best is replaced by a strictly lower one (11 R229). -/
def Supervision.mark (u : Supervision) (a : Nat) (r : Word) : Supervision :=
  let v := if below32 r u.bestRes then { u with best := a, bestRes := r } else u
  { v with marks := v.marks + 1 }

/-- The next buffer, never the best. -/
def Supervision.next (u : Supervision) : Nat := if u.best == 1 then 2 else 1

/-- The Assay record's bytes as a number (11 R233). -/
def Supervision.bytes (u : Supervision) (outcome team rtime : Nat) : Nat :=
  u.bestAddr.toNat + 2 ^ 64 * u.bestRes.toNat + 2 ^ 96 * u.marks.toNat
    + 2 ^ 128 * (u.best + 4 * outcome + 16 * u.met.toNat) + 2 ^ 160 * (team % 2 ^ 32) + 2 ^ 192 * (rtime % 2 ^ 64)

/-- The record written with a release at SCOPE: its first half, then the second by the releasing store. -/
def writeAssay (who : Who) (u : Supervision) (outcome team : Nat) : M Unit := do
  let s ← get
  let v := u.bytes outcome team s.rtime
  let who := { who with assay := true }
  storeG who u.record 16 (v % 2 ^ 128) (s.scopePath who u.scope)
  performRelease who (u.record + 16) 16 (v / 2 ^ 128) u.scope

/-- The first cause of a failed record write of a launch (11 R233; 28 R480). -/
def State.assayFault (s : State) (launch : Nat) (e : Cause) : State :=
  match s.launch? launch with
  | some l => if l.assayFault == 0 then s.setLaunch { l with assayFault := e } else s
  | none => s

/-- A record write whose fault is the launch's to report. -/
def assayRecord (who : Who) (u : Supervision) (outcome team : Nat) : M Unit := do
  let s ← get
  match (writeAssay who u outcome team).run s with
  | .ok (_, t) => set t
  | .error (.trap d) => modify (fun s => s.assayFault who.launch d.cause)
  | .error e => throw e

/-- SVOPEN (11 R228): that a supervision is open already is found before anything about the block [110]. -/
def waveSvopen (c : Ctx) : M Unit := do
  let t ← teamM c.lead
  checkM t.sup.isNone (engineC 3 1)
  let b ← spBlock t (c.a c.lead).toNat 64
  checkM (supOk b) (engineC 3 0)
  forkEdge c
  let t ← teamM c.lead
  putT { t with sup := some (Supervision.ofBlock b) }

def waveSvmark (c : Ctx) : M Unit := do
  let t ← teamM c.lead
  match t.sup with
  | none => trapM (engineC 3 2)
  | some u => do
    let a := (c.a c.lead).toNat
    checkM (!(a == 0 || a > 2 || a == u.best)) (engineC 3 3)
    forM_ c.act (fun f => do
      let who ← whoM c f
      spanGate who u.scope
      release who u.scope)
    let v := u.mark a (c.b c.lead)
    let t ← teamM c.lead
    putT { t with sup := some v }
    forM_ c.act (fun f => do
      let f := c.putD f (BitVec.ofNat 32 v.next)
      putF (f.setPred c.w.imm.toNat v.met))

def waveSvclose (c : Ctx) : M Unit := do
  let t ← teamM c.lead
  match t.sup with
  | none => trapM (engineC 3 2)
  | some u => do
    let who ← whoM c c.lead
    spanGate who u.scope
    forkEdge c
    assayRecord who u 0 t.id
    let t ← teamM c.lead
    putT { t with sup := none }

/-- The two words that SVQRY's selector names (11 R230). -/
def Team.supWords (t : Team) (sel : Nat) : DWord :=
  match t.sup with
  | none => 0
  | some u =>
    match sel with
    | 0 => BitVec.ofNat 64 (u.best + 4 + 8 * u.met.toNat + 2 ^ 32 * u.marks.toNat)
    | 1 => .ofWords u.bestRes u.target
    | 2 => u.bestAddr
    | _ => u.deadline

def waveSvqry (c : Ctx) : M Unit := do
  let t ← teamM c.lead
  joinM c
  forM_ c.act (fun f => putF (c.putD64 f (t.supWords c.w.imm.toNat)))

def execSvopen (w : Fields) (s : State) : Host.Outcome State Fault Refusal := issue .svopen w (perWave waveSvopen) s
def execSvmark (w : Fields) (s : State) : Host.Outcome State Fault Refusal := issue .svmark w (perWave waveSvmark) s
def execSvclose (w : Fields) (s : State) : Host.Outcome State Fault Refusal := issue .svclose w (perWave waveSvclose) s
def execSvqry (w : Fields) (s : State) : Host.Outcome State Fault Refusal := issue .svqry w (perWave waveSvqry) s

end Sys2Proof.Machine
end

