-- ==== Sys2Proof/Machine/Tx.lean ====
section
/-! DEFINITION. The instructions 0xB0 to 0xB8 (19 R400 to R404): fences, the raw and decoded views joined, transactions and
ordered speculation (06), TXST, LDNT. -/

namespace Sys2Proof.Machine

/-! ### FENCE (19 R400; 04 R105) -/

def laneFence (c : Ctx) (f : Fibre) : M Unit := do
  let who ← whoM c f
  let scope := modField c.w.mod 0 3
  let kind := modField c.w.mod 3 2
  spanGate who scope
  if kind != 1 then release who scope
  if kind != 2 then acquire who scope

def execFence (w : Fields) (s : State) : Host.Outcome State Fault Refusal := issue .fence w (perLane laneFence) s

/-! ### DFENCE (03 R92; 04 R120; 19 R401) -/

/-- Elements of a region, the first and the last. -/
structure Span3 where
  region : Region
  lo : Nat
  hi : Nat
deriving DecidableEq, Repr, Inhabited

/-- The elements that a physical range covers: those whose raw code, or whose BF16 value, it meets. -/
def MemSys.covers (m : MemSys) (pa n : Nat) (view : Bool) : List Span3 :=
  m.regions.filterMap (fun r =>
    let b := r.base.toNat
    let top := if view then b + 2 * r.count else r.limit.toNat
    let lo := max pa b
    let hi := min (pa + n) top
    if r.en && lo < hi then
      some (if view then ⟨r, (lo - b) / 2, (hi - 1 - b) / 2⟩
        else ⟨r, (lo - b) * 8 / r.nf.bits, (hi - 1 - b) * 8 / r.nf.bits + (8 / r.nf.bits - 1)⟩)
    else none)

/-- The decoded lines and the raw lines of covered elements. -/
def Span3.viewLine (p : Span3) (line : Nat) : Bool :=
  lineNo (p.region.base.toNat + 2 * p.lo) true ≤ line && line ≤ lineNo (p.region.base.toNat + 2 * p.hi) true
def Span3.rawLine (p : Span3) (line : Nat) : Bool :=
  (p.region.base.toNat + p.lo * p.region.nf.bits / 8) / 64 ≤ line
    && line ≤ (p.region.base.toNat + p.hi * p.region.nf.bits / 8) / 64
def Span3.line (p : Span3) (line : Nat) : Bool := if line < Sys2Proof.Machine.viewLine then p.rawLine line else p.viewLine line

/-- The raw lines of the side area that covered elements are decoded by: their block scales, and the codebook (29 R494, R495). -/
def Span3.sideLine (p : Span3) (line : Nat) : Bool :=
  (p.region.scaled && (p.region.side + p.lo / 32) / 64 ≤ line && line ≤ (p.region.side + p.hi / 32) / 64)
    || (p.region.nf == .cb4 && line == p.region.side / 64)

/-- One decoded line: its covered dirty elements are encoded; the line goes, but for dirty elements that are not covered. -/
def MemSys.fenceLine (m : MemSys) (p : Span3) (l : L2Line) : MemSys :=
  let i0 := p.region.elemAt l.line
  let inside := fun (i : Nat) => p.lo ≤ i && i ≤ p.hi
  let m := m.encodeFrom p.region l inside 32 0
  let left : BitVec 64 := (List.range 32).foldl (fun k e =>
    if inside (i0 + e) then k else k ||| (l.dirty &&& byteMask (2 * e) 2)) 0
  if left == 0 then { m with l2 := m.l2.filter (fun k => !(k.slice == l.slice && k.line == l.line)) }.sweepPoison
  else
    let d := mergeLine (m.decodedLine p.region l.line) l.data left
    { m with l2 := m.l2.map (fun k => if k.slice == l.slice && k.line == l.line then
        { k with data := d, dirty := left, ver := BitVec.ofNat 16 (m.clocks.getD k.slice 0) } else k) }

/-- A raw line written back to memory. -/
def MemSys.cleanLine (m : MemSys) (l : L2Line) : MemSys :=
  { m with hbm := m.hbm.setLine (linePa l.line) l.data l.dirty
           l2 := m.l2.map (fun k => if k.slice == l.slice && k.line == l.line then { k with dirty := 0 } else k) }

/-- The steps of R92 over covered elements. -/
def MemSys.dfence (m : MemSys) (p : Span3) : MemSys :=
  let views := m.l2.filter (fun l => viewLine ≤ l.line && p.viewLine l.line && m.regionAt (linePa l.line) == some p.region)
  let m := views.foldl (fun m l => m.fenceLine p l) m
  (m.l2.filter (fun l => l.line < viewLine && p.rawLine l.line && l.dirty != 0)).foldl MemSys.cleanLine m

/-- DFENCE over a physical range: the core's own lines of either view, and of the side area, reach the L2 first, then the L2 does its steps. -/
def fenceRange (who : Who) (pa n : Nat) (view : Bool) : M Unit := do
  let s ← get
  let ps := s.mem.covers pa n view
  let mine := fun (l : Nat) => ps.any (fun p => p.line l)
  forM_ (s.l1Cores who.core) (fun k => do
    wbLines who k (fun l => mine l || ps.any (fun p => p.sideLine l))
    modify (fun s => s.setCore k (fun c => { c with l1 := c.l1.filter (fun l => !mine l.line) })))
  let s ← get
  forM_ (s.mem.l2.filter (fun l => mine l.line)) (fun l => gate who l.line)
  modify (fun s => { s with mem := ps.foldl MemSys.dfence s.mem })

/-- The pages of a virtual range, one by one; those that cannot be reached, or are not resident, are skipped. -/
def fencePages (who : Who) (a n : Nat) : M Unit :=
  forM_ (List.range ((a + n - 1) / 32768 - a / 32768 + 1)) (fun i => do
    let page := (a / 32768 + i) * 32768
    let lo := max page a
    let hi := min (page + 32768) (a + n)
    let r ← translateOrSkip who (BitVec.ofNat 64 lo)
    match r with
    | some p => if p.loc == 0 then fenceRange who p.pa (hi - lo) p.view
    | none => pure ())

def laneDfence (c : Ctx) (f : Fibre) : M Unit := do
  let who ← whoM c f
  let a := c.a64 f
  let n := (c.b f).toNat
  spanGate who (modField c.w.mod 0 3)
  checkM (n == 0 || a.toNat / 2 ^ 51 == 0) memAddrBits a
  checkRange a n
  if n != 0 then do
    heldClear f a n
    fencePages who a.toNat n

def execDfence (w : Fields) (s : State) : Host.Outcome State Fault Refusal := issue .dfence w (perLane laneDfence) s

/-! ### Opening (06 R151, R162, R163, R166) -/

/-- A fibre that opens a transaction; ATTEMPTS starts again after a commit, which adds 256 to the stored count. -/
def Fibre.openTx (f : Fibre) (t : Tx) : Fibre :=
  { f with tx := some t, txOrd := t.iter.isSome, txIrrev := t.irrev
           txAttempts := if f.txAttempts ≥ 256 then 1 else min (f.txAttempts + 1) 255
           txDefer := if t.irrev then 0 else f.txDefer }

/-- Whether a fibre needs the irrevocable token (06 R162). -/
def Fibre.needsToken (f : Fibre) : Bool := f.txAborts ≥ 8

/-- The wave's candidate: a lane that has kept the token, else the lowest that needs it. -/
def tokenCandidate (s : State) (fs : List Fibre) : Option Fibre :=
  let need := fs.filter Fibre.needsToken
  match need.find? (fun f => s.mem.veins.any (fun v => v.token == some f.id)) with
  | some f => some f
  | none => need.head?

/-- A request for the vein's token: granted, or queued behind the requests that reached it before (06 R162; 29 R491). -/
def State.askToken (s : State) (vein wave : Nat) (i : FibreId) : State × Bool :=
  match s.mem.veins[vein]? with
  | none => (s, true)
  | some v =>
    let live := v.tokenWaiters.filter (fun p => s.waves.any (fun w => w.id == p.1 && (p.1 == wave || w.wait == some .token)))
    let put := fun (x : Vein) => { s with mem := { s.mem with veins := updAt s.mem.veins vein (fun _ => x) } }
    if v.token == some i then (s, true)
    else if v.token.isNone && !((s.mem.veins.drop (vein / 2 * 2)).take 2).any (fun u => u.hold.isSome) && ((live.head?.map Prod.fst).getD wave == wave) then
      (put { v with token := some i, tokenWaiters := live.filter (fun p => p.1 != wave) }, true)
    else (put { v with tokenWaiters := if live.any (fun p => p.1 == wave) then live else live ++ [(wave, i)] }, false)

/-- TXB and TXO over the lanes that may open: the whole wave waits for its candidate's token, then every lane opens. -/
def openLanes (c : Ctx) (s : State) (fs : List Fibre) (mk : Fibre → Tx) (ways : List (FibreId × Way)) : Effect :=
  let cand := tokenCandidate s fs
  let (s, ok) := match cand with
    | some f => s.askToken (s.veinOfCore c.core) c.wv.id f.id
    | none => (s, true)
  if !ok then (s, c.stayAll .token)
  else
    let s := fs.foldl (fun s f => s.setFibre (f.openTx { mk f with irrev := some f.id == cand.map Fibre.id })) s
    (match (acquire (s.whoOf c c.lead) 4).run s with
      | .ok (_, t) => t
      | .error _ => s, ways)

def bodyTxb : Body := fun c s =>
  .ok (openLanes c s c.act (fun _ => { byVal := modField c.w.mod 0 1 == 0, iter := none, irrev := false
                                       target := c.pc + c.w.imm, opener := c.pc }) [])

/-- Iterations of a team that are open. -/
def State.openIters (s : State) (launch team : Nat) : List (BitVec 24) :=
  s.fibres.filterMap (fun f => match f.id.crew with
    | .team l t _ => if l == launch && t == team then f.tx.bind Tx.iter else none
    | .item .. => none)

/-- Lanes whose iteration is out of range, or open already; the later of two lanes with one iteration is refused. -/
def txoBad (ocur : BitVec 24) (c : Ctx) : List Fibre → List (BitVec 24) → List FibreId
  | [], _ => []
  | f :: fs, seen =>
    let n := (c.a f).setWidth 24
    if (n - ocur).toNat ≥ 2 ^ 23 || seen.contains n then f.id :: txoBad ocur c fs seen
    else txoBad ocur c fs (n :: seen)

def bodyTxo : Body := fun c s =>
  match s.teamOf? c.wv.crew with
  | none => .ok (s, [])
  | some t =>
    let bad := txoBad t.ocur c c.act (s.openIters t.launch t.id)
    let ways := bad.map (fun i => (i, Way.trap { cause := txOrdRange } .atPc c.pc))
    let fs := c.act.filter (fun f => !bad.contains f.id)
    .ok (openLanes c s fs (fun f => { byVal := true, iter := some ((c.a f).setWidth 24), irrev := false
                                      target := c.pc + c.w.imm, opener := c.pc }) ways)

def execTxb (w : Fields) (s : State) : Host.Outcome State Fault Refusal := issue .txb w bodyTxb s
def execTxo (w : Fields) (s : State) : Host.Outcome State Fault Refusal := issue .txo w bodyTxo s

/-! ### Committing (06 R156 to R159, R167) -/

/-- The lines that a transaction read, and those it wrote. -/
def Tx.readSet (t : Tx) : List Nat := t.reads.map TxRead.line
def Tx.writeSet (t : Tx) : List Nat := (t.writes.map (fun w => w.word / 8)).eraseDups
def Tx.lines (t : Tx) : List Nat := (t.readSet ++ t.writeSet).eraseDups

/-- Whether two sets of lines meet. -/
def meets (a b : List Nat) : Bool := a.any (fun x => b.contains x)

/-- The comparison of the conflict unit (06 R156). -/
def conflict (i j : Tx) : Bool :=
  meets i.writeSet j.readSet || meets i.writeSet j.writeSet || meets i.readSet j.writeSet

/-- The first phase for one read line (06 R157). -/
def MemSys.checkRead (m : MemSys) (byVal : Bool) (r : TxRead) : Option Cause :=
  if m.bad r.line then some sysUncorr
  else
    let (l, m) := m.l2Fill r.line
    if byVal then (if mergeLine 0 l.data r.mask == mergeLine 0 r.data r.mask then none else some txReadChg)
    else
      let slice := m.homeSlice (linePa r.line)
      let adv := m.clocks.getD slice 0 - r.clock
      if slice != r.slice then some txReadChg
      else if adv ≥ 32768 then some txStale
      else if l.ver != r.ver then some txReadChg
      else none

/-- The first phase over a lane's lines in ascending order: the first refusal's cause. An irrevocable attempt is not validated. -/
def State.firstPhase (s : State) (i : FibreId) (t : Tx) : Option Cause :=
  if t.irrev then none
  else
    let ls := (t.lines.foldl (fun acc n => insertNat n acc) []).map (fun line =>
      if (s.lockedBy i line).isSome then some txLocked
      else (t.reads.find? (fun r => r.line == line)).bind (s.mem.checkRead t.byVal))
    (ls.filterMap id).head?

/-- The bytes that a transaction writes to a line: their mask and a line that holds them. -/
def Tx.lineWrite (t : Tx) (line : Nat) : BitVec 64 × BitVec 512 :=
  (t.writes.filter (fun w => w.word / 8 == line)).foldl (fun (m, d) w =>
    let k := w.word % 8 * 8
    let mk : BitVec 64 := BitVec.ofNat 64 (w.mask.toNat * 2 ^ k)
    (m ||| mk, mergeLine d (lineOf k 8 w.data.toNat) mk)) (0, 0)

/-- The second phase: the logged bytes are written, their lines stamped and their pages granted for writing (28 R473); the core's own copies of those lines keep only their
dirty bytes (06 R157; 04 R100). -/
def State.secondPhase (s : State) (core : Nat) (t : Tx) : State :=
  let m := t.writeSet.foldl (fun m line => let (k, d) := t.lineWrite line; m.l2Write line k d) s.mem
  let s := { s with mem := t.pages.foldl (fun (m : MemSys) (p : Nat × Nat) => m.grant p.1 p.2) m }
  (s.l1Cores core).foldl (fun s k => s.setCore k (fun c =>
    { c with l1 := keepDirty (c.l1.filter (fun l => t.writeSet.contains l.line)) ++ c.l1.filter (fun l => !t.writeSet.contains l.line) })) s

/-- A fibre whose transaction has committed (06 R160, R161, R163). -/
def Fibre.committed (f : Fibre) : Fibre := { f with tx := none, txAborts := 0, txDefer := 0, txAttempts := f.txAttempts % 256 + 256 }

/-- A lane commits. -/
def State.commitLane (s : State) (c : Ctx) (f : Fibre) (t : Tx) : State :=
  (s.secondPhase c.core t).freeTx f.id |>.setFibre f.committed

/-- A commit is a release at LODE scope (04 R123): stores acknowledged, dirty L1 bytes written back; it waits for a lock on a dirty line
that a fibre outside its wave holds. A line that a lane of the wave has locked was written back at its lock; later bytes of it follow
that lane's commit, which comes first (06 R156). -/
def commitRelease (c : Ctx) (f : Fibre) (t : Tx) : M Unit := do
  let s ← get
  if s.storesOpen f.id then waitM .stores
  if t.lines.any (fun l => s.mem.heldAt (linePa l)) then waitM .line
  let who := s.whoOf c f
  let near := fun (k : LineLock) => c.all.any (fun g => g.id == k.owner)
  let dirty := fun (n : Nat) => (s.l1Cores c.core).any (fun k => (s.core k).l1.any (fun l => l.line == n && l.dirty != 0))
  match s.mem.locks.find? (fun k => !near k && dirty k.line) with
  | some k => if t.irrev then meetLock who k.owner else waitM .line
  | none => pure ()
  forM_ (s.l1Cores c.core) (fun k => wbLines who k (fun l => !s.mem.locks.any (fun x => x.line == l && x.owner != f.id)))

/-- The release for every lane that submits, before any commit. -/
def releaseAll (c : Ctx) : List (Fibre × Tx) → M Unit
  | [] => pure ()
  | p :: ps => do
    commitRelease c p.1 p.2
    releaseAll c ps

/-- Lanes in the rank of R156: irrevocable, then more aborts, then the lower home lane. -/
def rankInsert (p : Fibre × Tx) : List (Fibre × Tx) → List (Fibre × Tx)
  | [] => [p]
  | q :: qs =>
    let before := (p.2.irrev && !q.2.irrev) || (p.2.irrev == q.2.irrev && (p.1.txAborts > q.1.txAborts
      || (p.1.txAborts == q.1.txAborts && p.1.lane < q.1.lane)))
    if before then p :: q :: qs else q :: rankInsert p qs

def rankLanes (ps : List (Fibre × Tx)) : List (Fibre × Tx) := ps.foldl (fun acc p => rankInsert p acc) []

/-- The conflict unit: winners, and losers (06 R156). -/
def arbitrate : List (Fibre × Tx) → List (Fibre × Tx) → List (Fibre × Tx) × List (Fibre × Tx)
  | [], won => (won, [])
  | p :: ps, won =>
    if won.any (fun q => conflict p.2 q.2) then let (w, l) := arbitrate ps won; (w, p :: l)
    else arbitrate ps (won ++ [p])

/-- A lane's release once more before it submits: of lines that an earlier lane of the event had locked. -/
def State.releaseRest (s : State) (c : Ctx) (f : Fibre) (t : Tx) : State :=
  match (commitRelease c f t).run s with
  | .ok (_, s') => s'
  | .error _ => s

/-- The winners submit one after the other. -/
def submit (c : Ctx) : List (Fibre × Tx) → State → Effect
  | [], s => (s, [])
  | (f, t) :: ps, s =>
    let s := s.releaseRest c f t
    match s.firstPhase f.id t with
    | some e =>
      let way := if e == sysUncorr then Way.trap { cause := e } .atPc c.pc else Way.abort e
      let (s, ws) := submit c ps s
      (s, (f.id, way) :: ws)
    | none => submit c ps (s.commitLane c f t)

/-- After a commit event every lane of the home wave with a defer count loses 1 (06 R160); counts set by this event's aborts are
set afterwards. -/
def State.commitEvent (s : State) (w : Wave) : State :=
  { s with fibres := s.fibres.map (fun (f : Fibre) =>
      if f.id.crew == w.crew && f.home == w.home then { f with txDefer := f.txDefer - 1 } else f) }

def bodyTxe : Body := fun c s =>
  let none_ := c.act.filter (fun f => f.tx.isNone)
  let wrong := c.act.filter (fun f => (f.tx.bind Tx.iter).isSome)
  let parts := c.act.filterMap (fun f => match f.tx with
    | some t => if t.iter.isNone then some (f, t) else none
    | none => none)
  match (releaseAll c parts).run s with
  | .error (.wait w post) => .error (w, post)
  -- The irrevocable lane has met the lock of a lower-numbered vein: it restarts, and the others submit without it.
  | .error .restart => .ok (s, c.all.map (fun f => (f.id, if (f.tx.map Tx.irrev).getD false then Way.restart else .stay .line)))
  | .error _ => .ok (s, [])
  | .ok (_, s) =>
    let nobo := ((s.teamOf? c.wv.crew).map Team.nobo).getD false
    let ranked := rankLanes parts
    let defers := fun (p : Fibre × Tx) => !nobo && !p.2.irrev && p.1.txDefer > 0
    let in_ := ranked.filter (fun p => !defers p)
    let in_ := if in_.isEmpty then ranked.take 1 else in_
    let out := ranked.filter (fun p => !in_.any (fun q => q.1.id == p.1.id))
    let (won, lost) := arbitrate in_ []
    let (s, ways) := submit c won s
    .ok (s.commitEvent c.wv,
      ways ++ none_.map (fun f => (f.id, Way.trap { cause := txNoTx } .atPc c.pc)) ++ wrong.map (fun f => (f.id, Way.abort txNest))
        ++ out.map (fun p => (p.1.id, Way.abort txBackoff)) ++ lost.map (fun p => (p.1.id, Way.abort txConflict)))

def execTxe (w : Fields) (s : State) : Host.Outcome State Fault Refusal := issue .txe w bodyTxe s

def bodyTxa : Body := fun c s =>
  .ok (s, c.act.map (fun f => (f.id, if f.tx.isSome then Way.abort txExplicit else Way.trap { cause := txNoTx } .atPc c.pc)))

def execTxa (w : Fields) (s : State) : Host.Outcome State Fault Refusal := issue .txa w bodyTxa s

/-! ### TXOE (06 R167, R168) -/

/-- A fibre of a wave that waits at TXOE is settled there; another one continues at its abort target at once, in a wave of its
own place. -/
def State.killFibre (s : State) (here : List FibreId) (f : Fibre) : State :=
  match f.tx with
  | none => s
  | some t =>
    let s := { s with mem := { s.mem with locks := s.mem.locks.filter (fun k => k.owner != f.id) } }
    -- A killed irrevocable iteration keeps its token (06 R162).
    let s := if t.irrev then s else s.freeTx f.id
    s.sendTo here { f.aborted txOrdKill with pc := f.pc } t.target

/-- What the commit of iteration m kills: open later iterations of the team whose read set meets its write set (06 R167). -/
def State.killReaders (s : State) (here : List FibreId) (launch team : Nat) (m : BitVec 24) (t : Tx) : State :=
  let hit := fun (f : Fibre) => (match f.id.crew with
      | .team l u _ => l == launch && u == team
      | .item .. => false) && (match f.tx with
      | some x => (match x.iter with
          | some n => n != m && (n - m).toNat < 2 ^ 23 && meets x.readSet t.writeSet
          | none => false)
      | none => false)
  (s.fibres.filter hit).foldl (fun s f => s.killFibre here f) s

/-- The lane of the wave whose turn it is, tried until none is left: it commits, or is refused; either settles it. A release that must
wait ends the turns. -/
def txoeTurns (c : Ctx) (here : List FibreId) : Nat → State → State
  | 0, s => s
  | n + 1, s =>
    match s.teamOf? c.wv.crew with
    | none => s
    | some team =>
      let all := c.all.map Fibre.id
      let turn := (here.filterMap s.fibre?).find? (fun f => f.txSettled.isNone && f.tx.bind Tx.iter == some team.ocur)
      match turn, turn.bind Fibre.tx with
      | some f, some t =>
        (match (commitRelease c f t).run s with
          | .error (.wait (.oust o) _) => ((s.fibre? o).map (s.restartAt all)).getD s
          | .error .restart => txoeTurns c here n (s.restartAt all f)
          | .error _ => s
          | .ok (_, s) =>
            match s.firstPhase f.id t with
            | some e =>
              let (s, g) := s.abort f e
              txoeTurns c here n (s.setFibre { g with pc := f.pc, txSettled := some t.target, txFault := e == sysUncorr })
            | none =>
              -- The kill takes effect before the writes become visible.
              let s := s.killReaders all team.launch team.id team.ocur t
              let s := s.commitLane c f t
              let s := s.setFibre { ((s.fibre? f.id).getD f) with txSettled := some c.fall }
              txoeTurns c here n (s.setTeam { ((s.team? team.launch team.id).getD team) with ocur := team.ocur + 1 }))
      | _, _ => s

/-- The lanes of a wave that are settled leave TXOE: at the fall-through, at their abort targets, or into the trap that follows the
abort (06 R155, R168). A lane that is guarded off may have been killed. -/
def leaveTxoe (c : Ctx) (s : State) : Effect :=
  let out := (c.all.filterMap (fun f => s.fibre? f.id)).filter (fun f => f.txSettled.isSome)
  let at_ := fun (f : Fibre) => f.txSettled.getD c.fall
  (s.setFibres (out.map (fun f => { f with pc := at_ f, txSettled := none, txFault := false })),
    (out.filter Fibre.txFault).map (fun f => (f.id, Way.trap { cause := sysUncorr } .atPc (at_ f))))

def bodyTxoe : Body := fun c s => do
  let fresh := c.act.filter (fun f => f.txSettled.isNone)
  let none_ := fresh.filter (fun f => f.tx.isNone)
  let wrong := fresh.filter (fun f => match f.tx with
    | some t => t.iter.isNone
    | none => false)
  -- An unordered transaction is aborted with TX.NEST and settled.
  let s := wrong.foldl (fun s f =>
    let (s, g) := s.abort f txNest
    s.setFibre { g with pc := f.pc, txSettled := some ((f.tx.map Tx.target).getD c.fall) }) s
  let mine := c.act.filter (fun f => !none_.any (fun g => g.id == f.id))
  let here := mine.map Fibre.id
  let s := txoeTurns c here 65 s
  let traps := none_.map (fun f => (f.id, Way.trap { cause := txNoTx } .atPc c.pc))
  if (here.filterMap s.fibre?).all (fun f => f.txSettled.isSome) then
    let (s, faults) := leaveTxoe c s
    pure (s, traps ++ faults)
  else
    pure (s, traps ++ (c.stayAll .txoe).filter (fun p => !traps.any (fun q => q.1 == p.1)))

def execTxoe (w : Fields) (s : State) : Host.Outcome State Fault Refusal := issue .txoe w bodyTxoe s

/-! ### TXST and LDNT (19 R403, R404) -/

def Fibre.txst (f : Fibre) : Word :=
  match f.tx with
  | none => 0
  | some t => BitVec.ofNat 32 (t.reads.length + 256 * t.writes.length + 2 ^ 16 + 2 ^ 17 * t.iter.isSome.toNat + 2 ^ 18 * t.irrev.toNat)

def fibreTxst (c : Ctx) (f : Fibre) : Fibre := c.putD f f.txst

/-- A plain load at the L2; inside a transaction it is not logged, and a page that is not resident aborts. -/
def laneLdnt (c : Ctx) (f : Fibre) : M Unit := do
  let who ← whoM c f
  let va := c.gaddr f
  let n := szBytes c.w.mod
  heldClear f va n
  checkGlobal va n
  let p ← translate who va false
  if f.tx.isSome && p.loc != 0 then abortM txRemote
  let v ← readPhys who p va n .l2
  putLoadM c f v

def execTxst (w : Fields) (s : State) : Host.Outcome State Fault Refusal := issue .txst w (perFibre fibreTxst) s
def execLdnt (w : Fields) (s : State) : Host.Outcome State Fault Refusal := issue .ldnt w (perLane laneLdnt) s

end Sys2Proof.Machine
end

