-- ==== Sys2Proof/Machine/System.lean ====
section
/-! DEFINITION. The instructions 0xF0 to 0xFB (19 R409 to R420): calls, privileged registers, the return from a trap, translation
and L2 maintenance, vein holds, harvesting, and the engine operations CTXS, CTXR and MIGR as they issue. -/

namespace Sys2Proof.Machine

/-! ### SVC (19 R409) and HNOT (19 R410; 27 R467) -/

def bodySvc : Body := fun c s =>
  .ok (s, c.act.map (fun f => (f.id, Way.trap { cause := sysSvc, kind := 5, info0 := c.a f } .atPc c.fall)))

/-- The TEAMID of a crew; an item crew's is 0xFFFF_FFFF (01 R33). -/
def CrewId.teamId : CrewId → Nat
  | .team _ t _ => t
  | .item .. => 0xFFFFFFFF

/-- HNOT: a release at SYSTEM scope for every active fibre, then the entry waits for the ring. With no ring it sets COMPFAULT. -/
def waveHnot (c : Ctx) : M Unit := do
  forM_ c.act (fun f => do
    let who ← whoM c f
    spanGate who 6
    release who 6)
  let s ← get
  match s.launch? c.launch with
  | none => pure ()
  | some l =>
    let q := s.queue l.queue
    if q.nsize == 0 then
      modify (fun s => (s.setQueue l.queue (fun q => { q with compFault := true })).send (.interrupt q.vec))
    else do
      if q.ntail - q.nhead + BitVec.ofNat 32 q.notes.length == q.nsize then waitM .ring
      let e := (c.a c.lead, BitVec.ofNat 32 (CrewId.teamId c.wv.crew), l.seq)
      modify (fun s => s.setQueue l.queue (fun q => { q with notes := q.notes ++ [e] }))

def execSvc (w : Fields) (s : State) : Host.Outcome State Fault Refusal := issue .svc w bodySvc s
def execHnot (w : Fields) (s : State) : Host.Outcome State Fault Refusal := issue .hnot w (perWave waveHnot) s

/-! ### Registers that SETP and BAR0 share an effect with -/

/-- SYS.WATCHDOG raised in every live fibre of a team at its next issue; a fibre that waits is woken (02 R66). -/
def State.raiseWatchdog (s : State) (launch team : Nat) : State :=
  let mine := fun (i : CrewId) => match i with
    | .team l t _ => l == launch && t == team
    | .item .. => false
  { s with
    fibres := s.fibres.map (fun (f : Fibre) =>
      if mine f.id.crew then { f with dues := f.dues ++ [({ cause := sysWatchdog, kind := 6 }, .atPc)] } else f)
    waves := s.waves.map (fun w => if mine w.crew && w.wait != some .runtime then { w with wait := none, stalled := false } else w) }

/-- WDOG.REMAIN written: a nonzero value restarts the count, 0 raises SYS.WATCHDOG once more (19 R412). -/
def State.writeWdog (s : State) (launch team v : Nat) : State :=
  match s.team? launch team with
  | none => s
  | some t =>
    let v := v % 2 ^ 41
    let s := s.setTeam { t with wdog := v, spent := 0 }
    if v == 0 then s.raiseWatchdog launch team else s

/-- WDOG.REMAIN as it reads. -/
def Team.remain (t : Team) : Nat := t.wdog - t.spent

/-- FRFMT as it reads (29 R493). -/
def Region.fmtWord (r : Region) : DWord :=
  BitVec.ofNat 64 (r.fmt.toNat + 8 * r.scaled.toNat + 16 * r.en.toNat + 32 * r.err.toNat + 64 * r.saddr.toNat)

/-- Bytes of the side area: block scales, or a codebook (29 R494). -/
def Region.sideBytes (r : Region) : Nat := if r.scaled then (r.count + 31) / 32 else if r.fmt == 4 then 32 else 0

/-- Whether a range lies within one stack. -/
def oneStack (a n : Nat) : Bool := a + n ≤ deviceBytes && (n == 0 || a / stackBytes == (a + n - 1) / stackBytes)

/-- Whether a region may be enabled (29 R494). -/
def Region.valid (r : Region) : Bool :=
  r.base.toNat < r.limit.toNat && r.base.toNat % 4096 == 0 && r.limit.toNat % 4096 == 0 && r.fmt.toNat ≤ 4
    && !(r.scaled && r.fmt == 4)
    && oneStack r.base.toNat (r.limit.toNat - r.base.toNat) && oneStack r.base.toNat (2 * r.count)
    && (r.sideBytes == 0 || oneStack r.side r.sideBytes)

/-- A region changed. -/
def State.setRegion (s : State) (n : Nat) (f : Region → Region) : State :=
  { s with mem := { s.mem with regions := updAt s.mem.regions n f } }

/-- The fields of FRFMT taken from a write. -/
def Region.withFmt (r : Region) (v : DWord) : Region :=
  { r with fmt := BitVec.ofNat 3 v.toNat, scaled := v.getLsbD 3, saddr := BitVec.ofNat 46 (v.toNat / 64) }

/-- A write of FRFMT with EN = 1: the region is enabled, or refused with ERR; an enabled one keeps its fields (29 R494). -/
def Region.enable (r : Region) (v : DWord) : Region :=
  if r.en then { r with err := false }
  else
    let r := r.withFmt v
    if r.valid then { r with en := true, err := false } else { r with err := true }

/-- A write of FRFMT with EN = 0: an enabled region is first fenced at LODE scope, and its fields stay (29 R495). -/
def disableRegion (who : Who) (n : Nat) (v : DWord) : M Unit := do
  let s ← get
  match s.mem.regions[n]? with
  | none => pure ()
  | some r =>
    if r.en then do
      forM_ (List.range s.cores.length) (fun k =>
        wbLines who k (fun l => (s.mem.covers r.base.toNat (r.limit.toNat - r.base.toNat) false).any (fun p => p.line l || p.sideLine l)))
      fenceRange who r.base.toNat (r.limit.toNat - r.base.toNat) false
      modify (fun s => s.setRegion n (fun r => { r with en := false }))
    else modify (fun s => s.setRegion n (fun r => r.withFmt v))

/-- A write of FRFMT. -/
def writeFmt (who : Who) (n : Nat) (v : DWord) : M Unit :=
  if v.getLsbD 4 then modify (fun s => s.setRegion n (fun r => r.enable v)) else disableRegion who n v

/-- FRBASE or FRLIMIT written: ignored while the region is enabled. -/
def Region.setBound (r : Region) (limit : Bool) (v : DWord) : Region :=
  if r.en then r else if limit then { r with limit := BitVec.ofNat 52 v.toNat } else { r with base := BitVec.ofNat 52 v.toNat }

/-- SLICEHASH as a word, and read from one (29 R488). -/
def SliceHash.word (h : SliceHash) : DWord := BitVec.ofNat 64 (h.mask.toNat + 2 ^ 16 * h.salt.toNat + 2 ^ 20 * h.en.toNat)
def SliceHash.ofWord (even : Bool) (v : DWord) : SliceHash :=
  { mask := BitVec.ofNat 16 v.toNat, salt := BitVec.ofNat 4 (v.toNat / 2 ^ 16), en := even || v.getLsbD 20 }

/-- The veins of a die. -/
def MemSys.dieVeins (m : MemSys) (die : Nat) : List Vein := (m.veins.drop (2 * die)).take 2

/-! ### GETP and SETP (19 R411, R412) -/

/-- A privileged register as a fibre reads it; none for an index that the table does not list. An item fibre has no WDOG and
reads 0. -/
def State.getp (s : State) (f : Fibre) (i : Nat) : Option DWord :=
  let l := s.launch? f.id.crew.launch
  let ofL := fun (g : Launch → DWord) => some ((l.map g).getD 0)
  if i == 0x000 then ofL (fun l => .ofWords l.trapEntry l.trapObj)
  else if i == 0x001 then some (BitVec.ofNat 64 (f.trap.cause.toNat + 2 ^ 9 * f.trap.kind.toNat + 2 ^ 12 * f.trap.lane.toNat))
  else if i == 0x002 then some (.zext f.trap.pc)
  else if i == 0x003 then some f.trap.addr
  else if i == 0x004 then some (.ofWords f.trap.info0 f.trap.info1)
  else if i == 0x005 then ofL (fun l => BitVec.ofNat 64 ((s.priv f).toNat + 2 * l.system.toNat + 4 * f.inTrap.isSome.toNat))
  else if i == 0x006 then some (((s.teamOf? f.id.crew).map (fun t => BitVec.ofNat 64 t.remain)).getD 0)
  else if i == 0x007 then ofL (fun l => BitVec.ofNat 64 (l.spillBase.toNat % 2 ^ 51))
  else if i == 0x008 then ofL (fun l => BitVec.ofNat 64 (l.sumpBase.toNat % 2 ^ 51))
  else if 0x010 ≤ i && i < 0x020 then some (((s.mem.veins[i - 0x010]?).map (fun v => (v.staged.getD v.hash).word)).getD 0)
  else if 0x100 ≤ i && i < 0x140 then some (((s.mem.regions[i - 0x100]?).map (fun r => r.base.setWidth 64)).getD 0)
  else if 0x140 ≤ i && i < 0x180 then some (((s.mem.regions[i - 0x140]?).map (fun r => r.limit.setWidth 64)).getD 0)
  else if 0x180 ≤ i && i < 0x1C0 then some (((s.mem.regions[i - 0x180]?).map Region.fmtWord).getD 0)
  else none

def laneGetp (c : Ctx) (f : Fibre) : M Unit := do
  let s ← get
  match s.getp f (c.a f).toNat with
  | some v => putF (c.putD64 f v)
  | none => trapM insnStateIdx

/-- A privileged register written; read-only ones ignore it. -/
def laneSetp (c : Ctx) (f : Fibre) : M Unit := do
  let s ← get
  let i := (c.a f).toNat
  let v := c.b64 f
  checkM (s.getp f i).isSome insnStateIdx
  let who := { (s.whoOf c f) with throughHold := true }
  if i == 0x000 then
    match s.launch? c.launch with
    | some l => set (s.setLaunch { l with trapEntry := v.lo, trapObj := v.hi })
    | none => pure ()
  else if i == 0x002 then
    let g ← curF f
    putF { g with trap := { g.trap with pc := v.lo } }
  else if i == 0x006 then
    match f.id.crew with
    | .team l t _ => set (s.writeWdog l t v.toNat)
    | .item .. => pure ()
  else if 0x010 ≤ i && i < 0x020 then
    let n := i - 0x010
    checkM (((s.mem.dieVeins (n / 2)).filter (fun v => v.hash.en)).all (fun v => v.hold.isSome)) (privC 1)
    set { s with mem := { s.mem with veins := updAt s.mem.veins n (fun x => { x with staged := some (.ofWord (n % 2 == 0) v) }) } }
  else if 0x100 ≤ i && i < 0x140 then set (s.setRegion (i - 0x100) (fun r => r.setBound false v))
  else if 0x140 ≤ i && i < 0x180 then set (s.setRegion (i - 0x140) (fun r => r.setBound true v))
  else if 0x180 ≤ i && i < 0x1C0 then writeFmt who (i - 0x180) v

def execGetp (w : Fields) (s : State) : Host.Outcome State Fault Refusal := issue .getp w (perLane laneGetp) s
def execSetp (w : Fields) (s : State) : Host.Outcome State Fault Refusal := issue .setp w (perLane laneSetp) s

/-! ### ERET (19 R413; 28 R478) -/

/-- Lanes whose effect stays although they then take another way. -/
def lanesWay (c : Ctx) (f : Ctx → Fibre → M (Option Way)) : List Fibre → State → Except (Wait × List Fwd) Effect
  | [], s => .ok (s, [])
  | x :: xs, s => do
    let (s, way) ← (match (f c x).run s with
      | .ok (w, s') => .ok (s', w)
      | .error e => (c.wayOf e).map (fun w => (s, some w)))
    let (s, rest) ← lanesWay c f xs s
    pure (s, (way.map (fun w => (x.id, w))).toList ++ rest)

/-- Work that a lane does after it has left the runtime: a fault of it is a trap anew. -/
def thenTrap (x : M Unit) (way : Due → Way) : M (Option Way) := do
  let s ← get
  match x.run s with
  | .ok (_, t) => do
    set t
    pure none
  | .error (.trap d) => pure (some (way d))
  | .error e => throw e

/-- The load of a GLDS lane alone, its element delivered at once. -/
def gatherAlone (c : Ctx) (g : Fibre) (va : DWord) (sz hint : Nat) (dst : List Nat) : M Unit := do
  let m : Byte := BitVec.ofNat 8 (sz + 64 * hint)
  let v ← fibreLoad { c with op := .glds, w := { c.w with mod := m } } g va (szBytes m) (hintPath m)
  let g ← curF g
  putF (g.setList dst (words (szWords m) (szExtend m v)))

/-- Whether a due fault is that of a refused store which a release stands behind. -/
def refusedBefore (h : LateStore) (d : Due × Resume) : Bool :=
  match d.2 with
  | .stores st _ => h.behind.contains st.id
  | _ => false

/-- A release cancelled behind a refused store whose fault is still to be taken: the first of them. -/
def Fibre.cancelAgain (g : Fibre) (h : LateStore) : Fibre :=
  let k := g.dues.findIdx (refusedBefore h)
  { g with dues := updAt g.dues k (fun d => match d.2 with
      | .stores st rel => ({ d.1 with info1 := if rel.isEmpty then h.pc else d.1.info1 }, .stores st (rel ++ [h]))
      | _ => d) }

/-- Releases performed in their order, or held behind stores that are not acknowledged: those they stood behind, and those that have
been made since `old`; one that another refused store stands before is reissued after that one (04 R127). -/
def releasesAgain (c : Ctx) (g : Fibre) (old : List Nat) : List LateStore → M Unit
  | [] => pure ()
  | r :: rs => do
    let who ← whoM c g
    let s ← get
    let g ← curF g
    let out := s.outstanding g.id
    let refused := g.dues.filterMap (fun d => match d.2 with
      | .stores st _ => some st.id
      | _ => none)
    let h := { r with behind := out.filter (fun k => r.behind.contains k || !old.contains k) ++ refused.filter (fun k => r.behind.contains k) }
    if g.dues.any (refusedBefore h) then putF (g.cancelAgain h)
    else if !g.held.isEmpty || s.lateWaits h then putF { g with held := g.held ++ [h] }
    else performRelease { who with pc := r.pc } r.va r.bytes r.val.toNat r.scope
    releasesAgain c g old rs

/-- The refused store issued again, then the releases that it cancelled (04 R127). A store with a scope is a release. -/
def storesAgain (c : Ctx) (g : Fibre) (st : LateStore) (rel : List LateStore) : M Unit := do
  let who ← whoM c g
  let s ← get
  let old := s.outstanding g.id
  if st.scope == 0 then storeG { who with pc := st.pc } st.va st.bytes st.val.toNat .l1
  else performRelease { who with pc := st.pc } st.va st.bytes st.val.toNat st.scope
  releasesAgain c g old rel

/-- One fibre leaves the runtime. -/
def laneEret (c : Ctx) (f : Fibre) : M (Option Way) := do
  let f ← curF f
  match f.inTrap with
  | none => trapM (privC 2)
  | some t =>
    let again := (f.trap.kind == 0 || f.trap.kind == 1) && f.trap.pc == t.at_
    let g := f.leave t
    let g := { g with parked := g.group.isSome && !again }
    match t.resume with
    | .atPc => do
      putF g
      pure none
    | .gather va sz dst hint fall => do
      let g := { g with pc := fall }
      putF g
      thenTrap (gatherAlone c g va sz hint dst) (fun d => .trap { d with kind := 4 } t.resume f.trap.pc)
    | .stores st rel => do
      putF g
      thenTrap (storesAgain c g st rel) (fun d =>
        .trap { d with kind := 2, info0 := st.pc, info1 := (rel.head?.map LateStore.pc).getD 0 } t.resume f.trap.pc)

/-- A wave of fibres that have left the runtime holds the meet set they held when they trapped. -/
def State.restoreMeets (before s : State) (wv : Wave) : State :=
  { s with waves := s.waves.map (fun w =>
      if w.crew == wv.crew && w.home == wv.home then
        match (s.waveFibres w).head?.bind (fun f => if f.inTrap.isNone then (before.fibre? f.id).bind Fibre.inTrap else none) with
        | some t => { w with meet := t.meet }
        | none => w
      else w) }

def bodyEret : Body := fun c s => lanesWay c laneEret c.act s

def execEret (w : Fields) (s : State) : Host.Outcome State Fault Refusal :=
  match issue .eret w bodyEret s, s.cur.bind s.wave? with
  | .next t, some wv => .next (s.restoreMeets t wv)
  | x, _ => x

/-! ### TLBI (19 R414; 28 R475) -/

/-- A range of pages that TLBI acts on, and the queue whose translations it meets; none for every space. -/
structure TlbRange where
  first : Nat
  count : Nat
  queue : Option Nat
deriving DecidableEq, Repr, Inhabited

/-- Whether an entry of a queue that covers pages from one on is met. -/
def TlbRange.meets (r : TlbRange) (queue page pages : Nat) : Bool :=
  (r.queue.map (fun q => q == queue)).getD true && (r.count == 0 || (page < r.first + r.count && r.first < page + pages))

def TlbRange.keep (r : TlbRange) (l : List TlbEntry) : List TlbEntry := l.filter (fun e => !r.meets e.queue e.page (4096 ^ e.level))

/-- Translations given up by cores, walk-ahead TLBs of cores, and dies; the walk schedulers of the dies named give up the
non-leaf entries that cover the range. -/
def State.dropTlbs (s : State) (r : TlbRange) (cores ahead dies nodes : Nat → Bool) : State :=
  { s with
    cores := (List.range s.cores.length).zip s.cores |>.map (fun (k, c) =>
      { c with tlb := if cores k then r.keep c.tlb else c.tlb, walkAhead := if ahead k then r.keep c.walkAhead else c.walkAhead })
    mem := { s.mem with
      dieTlb := (List.range s.mem.dieTlb.length).zip s.mem.dieTlb |>.map (fun (d, l) => if dies d then r.keep l else l)
      nodes := (List.range s.mem.nodes.length).zip s.mem.nodes |>.map (fun (d, l) =>
        if nodes d then l.filter (fun n => !r.meets n.1 (n.2.2.1 * 4096 ^ n.2.1) (4096 ^ n.2.1)) else l) } }

/-- The TLBs of a scope (19 R414). -/
def State.tlbScope (s : State) (r : TlbRange) (core scope : Nat) : State :=
  let die := dieOf core
  let vein := s.veinOfCore core
  match scope with
  | 1 => s.dropTlbs r (fun k => k == core) (fun k => k == core) (fun _ => false) (fun d => d == die)
  | 2 => s.dropTlbs r (fun k => k / 4 == core / 4) (fun k => k / 4 == core / 4) (fun _ => false) (fun d => d == die)
  | 3 => s.dropTlbs r (fun k => s.veinOfCore k == vein) (fun k => s.veinOfCore k == vein) (fun d => d == die) (fun d => d == die)
  | _ => s.dropTlbs r (fun _ => true) (fun _ => true) (fun _ => true) (fun _ => true)

/-- A TLBI of SPAN or SYSTEM scope that runs on another device: it meets what is tagged with the queue that holds the same span launch here;
where a system launch runs it, every space. -/
def State.peerTlbi (s : State) (launch : Option Nat) (first count : Nat) : State :=
  let drop := fun (queue : Option Nat) => s.tlbScope { first := first, count := count, queue := queue } 0 4
  match launch with
  | none => drop none
  | some l => match s.launch? l with
    | some m => if m.span.isSome then drop (some m.queue) else s
    | none => s

/-- Whether a forwarded access made under a translation that the range meets is still to be performed. -/
def State.oldAccess (s : State) (r : TlbRange) : Bool :=
  s.fwds.any (fun x => x.reply.isNone && !x.dead && x.fibre != walkerId x.core
    && r.meets (s.queueOf x.fibre.crew.launch) (pageOf x.va) 1)

def laneTlbi (c : Ctx) (f : Fibre) : M Unit := do
  let scope := modField c.w.mod 0 3
  let a := (c.a64 f).toNat
  checkM (a / 2 ^ 50 == 0) memAddrBits (c.a64 f)
  checkM (a % 32768 == 0) (memAlign 0) (c.a64 f)
  let who ← whoM c f
  spanGate who scope
  release who (max scope 3)
  let s ← get
  let sys := ((s.launch? c.launch).map Launch.system).getD false
  let r : TlbRange := { first := a / 32768, count := (c.b f).toNat, queue := if sys then none else some (s.queueOf c.launch) }
  if s.oldAccess r then waitM .invalidation
  modify (fun s => s.tlbScope r c.core scope)

def execTlbi (w : Fields) (s : State) : Host.Outcome State Fault Refusal := issue .tlbi w (perLane laneTlbi) s

/-! ### L2WB (19 R415) -/

/-- A decoded line whose raw codes are met: its dirty elements are encoded. -/
def MemSys.encodeLine (m : MemSys) (l : L2Line) : MemSys :=
  match m.regionAt (linePa l.line) with
  | some r =>
    let m := m.encodeFrom r l (fun _ => true) 32 0
    { m with l2 := m.l2.map (fun k => if k.slice == l.slice && k.line == l.line then { k with dirty := 0 } else k) }
  | none => m

/-- The lines of a physical range written back, and given up under `.inv`. -/
def MemSys.l2wb (m : MemSys) (a n : Nat) (inv : Bool) : MemSys :=
  let raw := fun (l : Nat) => l < viewLine && a / 64 ≤ l && l < (a + n) / 64
  let view := fun (l : Nat) => viewLine ≤ l && (m.codeLines l).any raw
  let m := (m.l2.filter (fun l => view l.line)).foldl MemSys.encodeLine m
  let m := (m.l2.filter (fun l => raw l.line && l.dirty != 0)).foldl MemSys.cleanLine m
  if inv then { m with l2 := m.l2.filter (fun l => !(raw l.line || view l.line)) }.sweepPoison else m

def laneL2wb (c : Ctx) (f : Fibre) : M Unit := do
  let a := (c.a64 f).toNat
  let n := (c.b f).toNat
  checkM (a + n ≤ deviceBytes) memAddrBits (c.a64 f)
  checkM (a % 64 == 0 && n % 64 == 0) (memAlign 0) (c.a64 f)
  let s ← get
  -- A locked line of the range, or a decoded one whose raw codes meet it, is written back after the lock is released.
  if s.mem.locks.any (fun k => (s.mem.codeLines k.line).any (fun l => a / 64 ≤ l && l < (a + n) / 64)) then waitM .line
  modify (fun s => { s with mem := s.mem.l2wb a n (modBit c.w.mod 0) })

def execL2wb (w : Fields) (s : State) : Host.Outcome State Fault Refusal := issue .l2wb w (perLane laneL2wb) s

/-! ### VHOLD (19 R416; 29 R490, R491) -/

/-- The staged values that are to take effect: what each vein of a die would be. -/
def stagedHashes (vs : List Vein) : List SliceHash := vs.map (fun v => v.staged.getD v.hash)

/-- The check of R490. -/
def hashesOk (hs : List SliceHash) : Bool :=
  let on := hs.filter SliceHash.en
  let count := fun (h : SliceHash) => (setBits h.mask.toNat 16).length
  on.foldl (fun (m : BitVec 16) h => m ||| h.mask) 0 == 0xFFFF &&
    (match on with
      | [h] => count h == 16
      | [h, k] => count h == 8 && count k == 8
      | _ => false)

/-- The vein that a tag names once a die is joined. -/
def retag (die v : Nat) : Nat := if v == 2 * die + 1 then 2 * die else v

def Item.retag (die : Nat) (i : Item) : Item := { i with vein := Machine.retag die i.vein }

/-- Items of the odd vein of a die that is joined are tagged with the even one, those spilled and those that a core queues or runs, so
that their order holds (29 R491; 04 R126). -/
def State.retagItems (s : State) (die : Nat) : State :=
  { s with
    launches := s.launches.map (fun (l : Launch) => { l with sump := l.sump.map (Item.retag die) })
    cores := s.cores.map (fun (c : Core) => { c with items := c.items.map (Item.retag die) })
    fibres := s.fibres.map (fun (f : Fibre) => { f with item := f.item.map (Item.retag die) })
    itemCrews := s.itemCrews.map (fun (i : ItemCrew) => { i with pull := i.pull.map (retag die) }) }

/-- A vein released; at the last hold of its die the staged values take effect, or are discarded: the answer says which. -/
def State.unhold (s : State) (vein : Nat) : State × Bool :=
  let set1 := fun (s : State) (f : Vein → Vein) => { s with mem := { s.mem with veins := updAt s.mem.veins vein f } }
  let s := set1 s (fun v => { v with hold := none })
  let die := vein / 2
  let vs := s.mem.dieVeins die
  if vs.any (fun v => v.hold.isSome) || !vs.any (fun v => v.staged.isSome) then (s, true)
  else
    let hs := stagedHashes vs
    let ok := hashesOk hs
    let put := fun (s : State) (k : Nat) => { s with mem := { s.mem with veins := updAt s.mem.veins (2 * die + k) (fun v =>
      { v with hash := if ok then hs.getD k v.hash else v.hash, staged := none }) } }
    let s := put (put s 0) 1
    let joined := ok && !((hs[1]?).map SliceHash.en).getD false
    (if joined then s.retagItems die else s, ok)

def laneVhold (c : Ctx) (f : Fibre) : M (Option Way) := do
  let a := (c.a f).toNat
  let b := c.b f
  let s ← get
  checkM (((s.mem.veins[a]?).map (fun v => v.hash.en)).getD false) (insnOperand 2)
  checkM (b.toNat ≤ 1) (insnOperand 3)
  if b == 1 then do
    let h := (s.mem.veins[a]?).bind Vein.hold
    if h.isSome && h != some f.id then waitM .line
    if h.isNone && (s.mem.dieVeins (a / 2)).any (fun v => v.token.isSome) then waitM .token
    set { s with mem := { s.mem with veins := updAt s.mem.veins a (fun v => { v with hold := some f.id }) } }
    pure none
  else
    if ((s.mem.veins[a]?).bind Vein.hold).isSome then do
      let (s, ok) := s.unhold a
      set s
      pure (if ok then none else some (.trap { cause := insnOperand 0 } .atPc c.pc))
    else pure none

def execVhold (w : Fields) (s : State) : Host.Outcome State Fault Refusal := issue .vhold w (fun c s => lanesWay c laneVhold c.act s) s

/-! ### HARV (19 R417) -/

/-- The leaf entry that maps a page: where it stands and its level, or none for a page that is not present. An absent node raises
TRANS.TABLEABSENT. -/
def leafFrom (who : Who) (va : DWord) (page loc peer node : Nat) : List Nat → M (Option (Nat × Nat))
  | [] => pure none
  | level :: rest => do
    let ea := node + 8 * (page / 4096 ^ level % 4096)
    let x ← readNode who loc peer ea va
    let e := Pte.ofNat x
    if !e.v || (e.leaf && e.loc == 3) then pure none
    else if e.loc == 3 then trapM (trans 1 level false) va
    else if e.bad level then pure none
    else if e.leaf then pure (some (placeNo loc peer ea, level))
    else do
      nodeGate who e.loc e.peer e.pa level va false
      leafFrom who va page e.loc e.peer e.pa rest

/-- The leaf of a page of the launch's space. -/
def leafOf (who : Who) (page : Nat) : M (Option (Nat × Nat)) := do
  let s ← get
  let x := (s.queue who.queue).ptbr.toNat
  let e := Pte.ofNat x
  let va := BitVec.ofNat 64 (page * 32768)
  if !e.v then pure none
  else if e.loc == 3 then trapM (trans 1 3 false) va
  else if badRoot x then pure none
  else do
    nodeGate who e.loc e.peer e.pa 3 va false
    leafFrom who va page e.loc e.peer e.pa [2, 1, 0]

/-- Whether a page's grant is recorded under a leaf. -/
def MemSys.granted (m : MemSys) (leaf page : Nat) : Bool := m.dir.any (fun d => d.leaf == leaf && d.grants.contains page)

/-- Pages harvested one by one; the answer is the leaf entries whose D bit was set. -/
def harvest (who : Who) : List Nat → List Nat → M (List Nat)
  | [], done => pure done
  | p :: ps, done => do
    let x ← leafOf who p
    match x with
    | none => harvest who ps done
    | some (leaf, _) => do
      let s ← get
      if s.mem.granted leaf p then
        if !done.contains leaf then changeLeaf who leaf (fun y => y ||| 16) (.intAtomic 4 2 16)
        modify (fun s => { s with mem := s.mem.setDir leaf (fun d => { d with grants := d.grants.filter (fun g => g != p) }) })
        harvest who ps (if done.contains leaf then done else leaf :: done)
      else harvest who ps done

def laneHarv (c : Ctx) (f : Fibre) : M Unit := do
  let a := (c.a64 f).toNat
  let n := (c.b f).toNat
  checkM (1 ≤ n && n ≤ 2 ^ 20) (insnOperand 3)
  checkM (a / 2 ^ 51 == 0) memAddrBits (c.a64 f)
  checkM (a % 32768 == 0) (memAlign 0) (c.a64 f)
  let who ← whoM c f
  let done ← harvest who ((List.range n).map (fun k => (a / 32768 + k) % 2 ^ 35)) []
  let g ← curF f
  putF (c.putD64 g (BitVec.ofNat 64 done.length))

def execHarv (w : Fields) (s : State) : Host.Outcome State Fault Refusal := issue .harv w (perLane laneHarv) s

/-! ### CTXS, CTXR and MIGR (19 R418 to R420) -/

/-- The limits of a gang descriptor. -/
def gangDescOk (b : List Byte) : Bool :=
  field b 0 4 < 64 && field b 12 4 == 0 && field b 16 8 % 4096 == 0 && field b 16 8 / 2 ^ 51 == 0 && field b 24 8 == 0

/-- The page size of a migration descriptor, and its limits. -/
def migSize (b : List Byte) : Nat := pageBytes (field b 12 4 % 2)
def migDescOk (b : List Byte) : Bool :=
  field b 12 4 ≤ 1 && field b 0 8 % migSize b == 0 && field b 0 8 / 2 ^ 50 == 0 && field b 8 4 == 0
    && field b 16 8 % migSize b == 0 && inDevice (field b 16 8) (migSize b) && field b 24 8 == 0

/-- The descriptor, with every check that is made before the wait for the handle. -/
def descriptorM (ok : List Byte → Bool) (c : Ctx) : M (List Byte) := do
  let t ← teamM c.lead
  bufferCheck t c.w.d.n.toNat
  let b ← spBlock t (c.a c.lead).toNat 32
  checkM (ok b) (engineC 0 0)
  pure b

def startContext (k : EngKind) (c : Ctx) (b : List Byte) : M Unit :=
  startEngine c c.w.d.n.toNat { id := 0, kind := k, launch := 0, team := 0, core := 0, handle := 0, block := b }

def execCtxs (w : Fields) (s : State) : Host.Outcome State Fault Refusal := issue .ctxs w (engineBody (descriptorM gangDescOk) (startContext .ctxs)) s
def execCtxr (w : Fields) (s : State) : Host.Outcome State Fault Refusal := issue .ctxr w (engineBody (descriptorM gangDescOk) (startContext .ctxr)) s
def execMigr (w : Fields) (s : State) : Host.Outcome State Fault Refusal := issue .migr w (engineBody (descriptorM migDescOk) (startContext .migr)) s

end Sys2Proof.Machine
end

