-- ==== Sys2Proof/Machine/Float.lean ====
section
/-! DEFINITION. The instructions 0x50 to 0x7F (16): FP32 and packed 16-bit arithmetic, conversions, packing, block quantising,
codebooks, structured sparsity, the seed of stochastic rounding. -/

namespace Sys2Proof.Machine

/-! ### FP32 arithmetic (16 R324 to R326) -/

/-- The rounding of an arithmetic opcode: RC at bits [2:0], SAT at bit 3, FTZ of the fibre (13 R270; 05 R139). -/
def Ctx.arith (c : Ctx) (f : Fibre) : RCtx :=
  { mode := f.rmode (modField c.w.mod 0 3), sat := modBit c.w.mod 3, ftz := f.ftz }

/-- The functions of R143 round by RNE whatever FPMODE.RM holds. -/
def Ctx.func (c : Ctx) (f : Fibre) : RCtx := { mode := .rne, sat := modBit c.w.mod 3, ftz := f.ftz }

/-- A float result written with its flags. -/
def Ctx.putR (c : Ctx) (f : Fibre) (r : FRes) : Fibre := c.putD f (BitVec.ofNat 32 r.1) r.2

/-- An FP32 instruction of two sources. -/
def fibreF2 (g : RCtx → Nat → Nat → FRes) (c : Ctx) (f : Fibre) : Fibre :=
  c.putR f (g (c.arith f) (c.a f).toNat (c.b f).toNat)

def fibreFfma (c : Ctx) (f : Fibre) : Fibre :=
  c.putR f (fp32.fma (c.arith f) (c.a f).toNat (c.b f).toNat (c.c4 f).toNat)

/-- An FP32 instruction of one source, rounded under RC. -/
def fibreF1 (g : RCtx → Nat → FRes) (c : Ctx) (f : Fibre) : Fibre := c.putR f (g (c.arith f) (c.a f).toNat)

/-- A function of R143. -/
def fibreFn (g : RCtx → Nat → FRes) (c : Ctx) (f : Fibre) : Fibre := c.putR f (g (c.func f) (c.a f).toNat)

def fibreFscale (c : Ctx) (f : Fibre) : Fibre := c.putR f (fp32.scale (c.arith f) (c.a f).toNat (c.b f).toInt)

/-- The class bit of an encoding (16 R326). -/
def fclassBit (x : Nat) : Nat :=
  match fp32.decode x with
  | .nan s => if s then 8 else 9
  | .inf n => if n then 0 else 7
  | .num n m _ =>
    if m == 0 then (if n then 3 else 4) else if m < 2 ^ 23 then (if n then 2 else 5) else (if n then 1 else 6)

def fibreFclass (c : Ctx) (f : Fibre) : Fibre := c.putD f (BitVec.ofNat 32 (2 ^ fclassBit (c.a f).toNat))

def execFadd (w : Fields) (s : State) : Host.Outcome State Fault Refusal := issue .fadd w (perFibre (fibreF2 fp32.add)) s
def execFsub (w : Fields) (s : State) : Host.Outcome State Fault Refusal := issue .fsub w (perFibre (fibreF2 fp32.sub)) s
def execFmul (w : Fields) (s : State) : Host.Outcome State Fault Refusal := issue .fmul w (perFibre (fibreF2 fp32.mul)) s
def execFfma (w : Fields) (s : State) : Host.Outcome State Fault Refusal := issue .ffma w (perFibre fibreFfma) s
def execFmin (w : Fields) (s : State) : Host.Outcome State Fault Refusal := issue .fmin w (perFibre (fibreF2 (fun r => fp32.minmax r false))) s
def execFmax (w : Fields) (s : State) : Host.Outcome State Fault Refusal := issue .fmax w (perFibre (fibreF2 (fun r => fp32.minmax r true))) s
def execFdiv (w : Fields) (s : State) : Host.Outcome State Fault Refusal := issue .fdiv w (perFibre (fibreF2 fp32.div)) s
def execFsqrt (w : Fields) (s : State) : Host.Outcome State Fault Refusal := issue .fsqrt w (perFibre (fibreF1 fp32.sqrt)) s
def execFrcp (w : Fields) (s : State) : Host.Outcome State Fault Refusal := issue .frcp w (perFibre (fibreFn fp32.rcp)) s
def execFrsq (w : Fields) (s : State) : Host.Outcome State Fault Refusal := issue .frsq w (perFibre (fibreFn fp32.rsq)) s
def execFexp2 (w : Fields) (s : State) : Host.Outcome State Fault Refusal := issue .fexp2 w (perFibre (fibreFn fp32.exp2)) s
def execFlog2 (w : Fields) (s : State) : Host.Outcome State Fault Refusal := issue .flog2 w (perFibre (fibreFn fp32.log2)) s
def execFtanh (w : Fields) (s : State) : Host.Outcome State Fault Refusal := issue .ftanh w (perFibre (fibreFn fp32.tanh)) s
def execFrnd (w : Fields) (s : State) : Host.Outcome State Fault Refusal := issue .frnd w (perFibre (fibreF1 fp32.rint)) s
def execFclass (w : Fields) (s : State) : Host.Outcome State Fault Refusal := issue .fclass w (perFibre fibreFclass) s
def execFscale (w : Fields) (s : State) : Host.Outcome State Fault Refusal := issue .fscale w (perFibre fibreFscale) s

/-! ### Packed 16-bit arithmetic (16 R327 to R329) -/

/-- The half layout's FMT. -/
def halfFmt (m : Byte) : Fmt := if modBit m 4 then bf16 else fp16

/-- Element k of a register of 16-bit elements (05 R130). -/
def half (k : Nat) (v : Word) : Nat := v.toNat / 2 ^ (16 * k) % 2 ^ 16

/-- Two elements and the OR of their flags. -/
def packHalf (x y : FRes) : FRes := (x.1 + 2 ^ 16 * y.1, x.2 ||| y.2)

def fibreH2 (g : Fmt → RCtx → Nat → Nat → FRes) (c : Ctx) (f : Fibre) : Fibre :=
  let e := fun (k : Nat) => g (halfFmt c.w.mod) (c.arith f) (half k (c.a f)) (half k (c.b f))
  c.putR f (packHalf (e 0) (e 1))

def fibreHfma2 (c : Ctx) (f : Fibre) : Fibre :=
  let e := fun (k : Nat) => (halfFmt c.w.mod).fma (c.arith f) (half k (c.a f)) (half k (c.b f)) (half k (c.c4 f))
  c.putR f (packHalf (e 0) (e 1))

def fibreHfn (g : Fmt → RCtx → Nat → FRes) (c : Ctx) (f : Fibre) : Fibre :=
  let e := fun (k : Nat) => g (halfFmt c.w.mod) (c.func f) (half k (c.a f))
  c.putR f (packHalf (e 0) (e 1))

/-- C + a0 × b0 + a1 × b1 in FP32, one rounding. -/
def fibreHdot2 (c : Ctx) (f : Fibre) : Fibre :=
  let h := halfFmt c.w.mod
  let p := fun (k : Nat) => (h.decodeFtz f.ftz (half k (c.a f))).mul (h.decodeFtz f.ftz (half k (c.b f)))
  let z := fp32.decodeFtz f.ftz (c.c4 f).toNat
  c.putR f (fp32.sum (c.arith f) ((p 0).2 || (p 1).2) [z, (p 0).1, (p 1).1])

def fibreHcmp2 (c : Ctx) (f : Fibre) : Fibre :=
  let m := c.w.mod
  let r := fun (k : Nat) => (halfFmt m).compare f.ftz (modBit m 3) (modField m 0 3) (half k (c.a f)) (half k (c.b f))
  let k := c.w.c.n.toNat
  let d := setBit (setBit (f.reg c.w.d.n.toNat) k (r 0).1) (k + 1) (r 1).1
  c.putD f d ((r 0).2 ||| (r 1).2)

def execHadd2 (w : Fields) (s : State) : Host.Outcome State Fault Refusal := issue .hadd2 w (perFibre (fibreH2 Fmt.add)) s
def execHsub2 (w : Fields) (s : State) : Host.Outcome State Fault Refusal := issue .hsub2 w (perFibre (fibreH2 Fmt.sub)) s
def execHmul2 (w : Fields) (s : State) : Host.Outcome State Fault Refusal := issue .hmul2 w (perFibre (fibreH2 Fmt.mul)) s
def execHfma2 (w : Fields) (s : State) : Host.Outcome State Fault Refusal := issue .hfma2 w (perFibre fibreHfma2) s
def execHmin2 (w : Fields) (s : State) : Host.Outcome State Fault Refusal := issue .hmin2 w (perFibre (fibreH2 (fun t r => t.minmax r false))) s
def execHmax2 (w : Fields) (s : State) : Host.Outcome State Fault Refusal := issue .hmax2 w (perFibre (fibreH2 (fun t r => t.minmax r true))) s
def execHdot2 (w : Fields) (s : State) : Host.Outcome State Fault Refusal := issue .hdot2 w (perFibre fibreHdot2) s
def execHexp2 (w : Fields) (s : State) : Host.Outcome State Fault Refusal := issue .hexp2 w (perFibre (fibreHfn Fmt.exp2)) s
def execHcmp2 (w : Fields) (s : State) : Host.Outcome State Fault Refusal := issue .hcmp2 w (perFibre fibreHcmp2) s
def execHtanh2 (w : Fields) (s : State) : Host.Outcome State Fault Refusal := issue .htanh2 w (perFibre (fibreHfn Fmt.tanh)) s
def execHrcp2 (w : Fields) (s : State) : Host.Outcome State Fault Refusal := issue .hrcp2 w (perFibre (fibreHfn Fmt.rcp)) s
def execHrsq2 (w : Fields) (s : State) : Host.Outcome State Fault Refusal := issue .hrsq2 w (perFibre (fibreHfn Fmt.rsq)) s

/-! ### Conversions (16 R330 to R332; 05 R141, R142) -/

/-- The rounding of a conversion: SR where it is accepted, its element index e (05 R137; 16 R322). FTZ plays no part. -/
def Ctx.conv (c : Ctx) (f : Fibre) (sat srOk : Bool) (e : Nat) : RCtx :=
  { mode := f.rmode (modField c.w.mod 0 3) srOk e, sat := sat, conv := true }

/-- The result written, and the SR counter advanced if the instruction rounded by SR. -/
def Ctx.putSr (c : Ctx) (f : Fibre) (srOk : Bool) (r : FRes) : Fibre := (c.putR f r).srStep (modField c.w.mod 0 3) srOk

/-- CVTF's PAIR: destination and source (13 R271). -/
def cvtPair : Nat → Fmt × Fmt
  | 0 => (fp16, fp32)
  | 1 => (bf16, fp32)
  | 2 => (e4m3, fp32)
  | 3 => (e5m2, fp32)
  | 4 => (fp32, fp16)
  | 5 => (fp32, bf16)
  | 6 => (fp32, e4m3)
  | 7 => (fp32, e5m2)
  | 8 => (bf16, fp16)
  | 9 => (fp16, bf16)
  | 10 => (fp16, e4m3)
  | 11 => (fp16, e5m2)
  | 12 => (bf16, e4m3)
  | 13 => (bf16, e5m2)
  | 14 => (e4m3, bf16)
  | _ => (e5m2, bf16)

def fibreCvtf (c : Ctx) (f : Fibre) : Fibre :=
  let (dst, src) := cvtPair (modField c.w.mod 4 4)
  let srOk := dst != fp32
  c.putSr f srOk (convertFp dst src (c.conv f (modBit c.w.mod 3) srOk 0) ((c.a f).toNat % 2 ^ src.width))

/-- FLT of the i2f layout. -/
def fltFmt : Nat → Fmt
  | 0 => fp32
  | 1 => fp16
  | _ => bf16

def fibreI2f (c : Ctx) (f : Fibre) : Fibre :=
  let fmt := fltFmt (modField c.w.mod 4 2)
  let srOk := fmt != fp32
  let i : Int := if modBit c.w.mod 3 then (c.a f).toInt else (c.a f).toNat
  c.putSr f srOk (fmt.ofInt (c.conv f false srOk 0) i)

def fibreF2i (c : Ctx) (f : Fibre) : Fibre :=
  let fmt := fltFmt (modField c.w.mod 4 2)
  let sg := modBit c.w.mod 3
  let lo : Int := if sg then -(2 ^ 31) else 0
  let hi : Int := if sg then 2 ^ 31 - 1 else 2 ^ 32 - 1
  let r := toIntSat (c.conv f false true 0).mode lo hi (fmt.decode ((c.a f).toNat % 2 ^ fmt.width))
  c.putSr f true (twos 32 r.1, r.2)

def fibreIxt (c : Ctx) (f : Fibre) : Fibre :=
  let m := c.w.mod
  let n := 8 * 2 ^ modField m 0 2
  let wide := modBit m 3
  let v := (c.a f).toNat % 2 ^ n
  c.putW f wide (if modBit m 2 then twos 64 (signedOf n v) else v)

def execCvtf (w : Fields) (s : State) : Host.Outcome State Fault Refusal := issue .cvtf w (perFibre fibreCvtf) s
def execI2f (w : Fields) (s : State) : Host.Outcome State Fault Refusal := issue .i2f w (perFibre fibreI2f) s
def execF2i (w : Fields) (s : State) : Host.Outcome State Fault Refusal := issue .f2i w (perFibre fibreF2i) s
def execIxt (w : Fields) (s : State) : Host.Outcome State Fault Refusal := issue .ixt w (perFibre fibreIxt) s

/-! ### Packing narrow elements (16 R333, R334) -/

/-- A team's codebook slot (16 R337). -/
def Team.book (t : Team) (k : Nat) : List (BitVec 16) := t.books.getD k []

/-- The codebook that a CB4 form names; the form is INSN.OPERAND in an item fibre, which holds none. -/
def bookM (f : Fibre) (isCb4 : Bool) (slot : Nat) (place : Nat) : M (List (BitVec 16)) := do
  if isCb4 then
    let s ← get
    match s.teamOf? f.id.crew with
    | some t => pure (t.book slot)
    | none => trapM (insnOperand place)
  else pure []

/-- n elements packed from the low bits upward, with the OR of their flags. -/
def packElems (width : Nat) : List FRes → FRes
  | [] => (0, 0)
  | r :: rs => let p := packElems width rs; (r.1 + 2 ^ width * p.1, r.2 ||| p.2)

/-- PK8 and PK4: n FP32 values of the block. -/
def packFrom (c : Ctx) (f : Fibre) (nf : Nf) (book : List (BitVec 16)) (n : Nat) : Fibre :=
  let xs := f.block c.w.a.n.toNat n
  let rs := ((List.range n).zip xs).map (fun (k, v) =>
    nf.encode (c.conv f (modBit c.w.mod 3) true k) book (fp32.decode v.toNat))
  c.putSr f true (packElems nf.bits rs)

def fibrePk8 (c : Ctx) (f : Fibre) : Fibre := packFrom c f (.ofCode (modField c.w.mod 4 3)) [] 4

def lanePk4 (c : Ctx) (f : Fibre) : M Unit := do
  let nf := Nf.ofCode (modField c.w.mod 4 3)
  let book ← bookM f (nf == .cb4) ((c.b f).toNat % 8) 3
  putF (packFrom c f nf book 8)

/-- UPK8 and UPK4: elements 2q and 2q + 1 of A, exactly in FP32. -/
def unpackPair (c : Ctx) (f : Fibre) (nf : Nf) (book : List (BitVec 16)) (q : Nat) : Fibre :=
  let e := fun (k : Nat) =>
    fp32.ofVal { conv := true } (nf.decode book ((c.a f).toNat / 2 ^ (nf.bits * k) % 2 ^ nf.bits))
  let lo := e (2 * q)
  let hi := e (2 * q + 1)
  c.putD64 f (BitVec.ofNat 64 (lo.1 + 2 ^ 32 * hi.1)) (lo.2 ||| hi.2)

def fibreUpk8 (c : Ctx) (f : Fibre) : Fibre := unpackPair c f (.ofCode (modField c.w.mod 4 3)) [] ((c.b f).toNat % 2)

def laneUpk4 (c : Ctx) (f : Fibre) : M Unit := do
  let nf := Nf.ofCode (modField c.w.mod 4 3)
  let book ← bookM f (nf == .cb4) ((c.b f).toNat / 16 % 8) 3
  putF (unpackPair c f nf book ((c.b f).toNat % 4))

def execPk8 (w : Fields) (s : State) : Host.Outcome State Fault Refusal := issue .pk8 w (perFibre fibrePk8) s
def execPk4 (w : Fields) (s : State) : Host.Outcome State Fault Refusal := issue .pk4 w (perLane lanePk4) s
def execUpk8 (w : Fields) (s : State) : Host.Outcome State Fault Refusal := issue .upk8 w (perFibre fibreUpk8) s
def execUpk4 (w : Fields) (s : State) : Host.Outcome State Fault Refusal := issue .upk4 w (perLane laneUpk4) s

/-! ### Block quantise and dequantise (16 R335, R336) -/

/-- Each active lane's value with its rounding; DYN reads FPMODE of the lowest active lane (05 R134). -/
def qblkIn (c : Ctx) : List (FVal × RMode) :=
  let rc := c.lead.rcode (modField c.w.mod 0 3)
  c.act.map (fun g => (fp32.decode (c.a g).toNat, g.rmode rc true g.lane))

def bodyQblk : Body := fun c s =>
  let (codes, scale, fl) := qblk (.ofCode (modField c.w.mod 4 3)) (qblkIn c)
  let rc := c.lead.rcode (modField c.w.mod 0 3)
  let put := fun (s : State) (p : Fibre × Nat) =>
    s.setFibre ((c.putD64 p.1 (BitVec.ofNat 64 (p.2 + 2 ^ 32 * scale)) fl).srStep rc true)
  .ok ((c.act.zip codes).foldl put s, [])

def fibreDqblk (c : Ctx) (f : Fibre) : Fibre :=
  let nf := Nf.ofCode (modField c.w.mod 4 3)
  let v := nf.scaledVal [] ((c.a f).toNat % 2 ^ nf.bits) (some ((c.b f).toNat % 256))
  c.putR f (fp32.ofVal (c.conv f (modBit c.w.mod 3) false 0) v)

def execQblk (w : Fields) (s : State) : Host.Outcome State Fault Refusal := issue .qblk w bodyQblk s
def execDqblk (w : Fields) (s : State) : Host.Outcome State Fault Refusal := issue .dqblk w (perFibre fibreDqblk) s

/-! ### Codebooks (16 R337 to R339) -/

def laneCbenc (c : Ctx) (f : Fibre) : M Unit := do
  let t ← teamM f
  putF (c.putD f (BitVec.ofNat 32 (cb4Encode (t.book ((c.b f).toNat % 8)) (bf16.decode ((c.a f).toNat % 2 ^ 16)))))

def laneCbdec (c : Ctx) (f : Fibre) : M Unit := do
  let t ← teamM f
  putF (c.putD f (((t.book ((c.b f).toNat % 8)).getD ((c.a f).toNat % 16) 0).setWidth 32))

/-- A tile instruction in flight names a codebook slot that it reads as 64 + slot among the tiles it reads. -/
def bookRead (slot : Nat) : Nat := 64 + slot

/-- CBLD for the wave: INSN.OPERAND, then alignment, then range. -/
def waveCbld (c : Ctx) : M Unit := do
  let f := c.lead
  let a := (c.a f).toNat
  let b := (c.b f).toNat
  checkM (b < 8) (insnOperand 3)
  let t ← teamM f
  checkM (a % 16 == 0) (memAlign 1) (BitVec.ofNat 64 a)
  checkM (a + 32 ≤ t.spSize) memSpRange (BitVec.ofNat 64 a)
  spSound t a 32
  let s ← get
  if s.tileOps.any (fun o => o.launch == t.launch && o.team == t.id && o.reads.contains (bookRead b)) then waitM .tile
  putT { t with books := t.books.set b ((List.range 16).map (fun k => BitVec.ofNat 16 (t.sp.getN (a + 2 * k) 2))) }

def execCbenc (w : Fields) (s : State) : Host.Outcome State Fault Refusal := issue .cbenc w (perLane laneCbenc) s
def execCbdec (w : Fields) (s : State) : Host.Outcome State Fault Refusal := issue .cbdec w (perLane laneCbdec) s
def execCbld (w : Fields) (s : State) : Host.Outcome State Fault Refusal := issue .cbld w (perWave waveCbld) s

/-! ### Structured sparsity (16 R340, R341; 05 R133) -/

/-- N and the element width of the sparse layout. -/
def spN (m : Byte) : Nat := 2 * 2 ^ modField m 0 2
def spW (m : Byte) : Nat := 4 * 2 ^ modField m 2 2

/-- Registers of a dense group and of the kept values. -/
def spQ (m : Byte) : Nat := spW m / 2
def spK (m : Byte) : Nat := (spN m * spW m + 31) / 32

/-- Elements of a width packed into a number, the first lowest. -/
def packNat (width : Nat) : List Nat → Nat
  | [] => 0
  | x :: xs => x % 2 ^ width + 2 ^ width * packNat width xs

/-- Consecutive register numbers. -/
def regsFrom (n k : Nat) : List Nat := (List.range k).map (fun i => n + i)

def laneSppk (c : Ctx) (f : Fibre) : M Unit := do
  let m := c.w.mod
  let ps := setBits ((c.b f).toNat % 2 ^ 16) 16
  checkM (ps.length == spN m) (arithSpMeta 2)
  let g := wordsNat (f.block c.w.a.n.toNat (spQ m))
  let kept := packNat (spW m) (ps.map (fun p => g / 2 ^ (spW m * p) % 2 ^ spW m))
  putF (c.deliver f (regsFrom c.w.d.n.toNat (spK m + 1)) (words (spK m) kept ++ [BitVec.ofNat 32 (packNat 4 ps)]))

/-- Whether indices are strictly ascending (05 R133). -/
def ascending : List Nat → Bool
  | x :: y :: r => x < y && ascending (y :: r)
  | _ => true

def laneSpupk (c : Ctx) (f : Fibre) : M Unit := do
  let m := c.w.mod
  let kept := wordsNat (f.block c.w.a.n.toNat (spK m))
  let meta_ := (f.reg (c.w.a.n.toNat + spK m)).toNat
  let ps := (List.range (spN m)).map (fun k => meta_ / 16 ^ k % 16)
  checkM (ascending ps) (arithSpMeta 6)
  let dense := (List.range (spN m)).foldl (fun g k =>
    g + kept / 2 ^ (spW m * k) % 2 ^ spW m * 2 ^ (spW m * ps.getD k 0)) 0
  putF (c.deliver f (regsFrom c.w.d.n.toNat (spQ m)) (words (spQ m) dense))

def execSppk (w : Fields) (s : State) : Host.Outcome State Fault Refusal := issue .sppk w (perLane laneSppk) s
def execSpupk (w : Fields) (s : State) : Host.Outcome State Fault Refusal := issue .spupk w (perLane laneSpupk) s

/-! ### SRSEED (16 R342) -/

def fibreSrseed (c : Ctx) (f : Fibre) : Fibre := { f with srSeed := c.a64 f, srCtr := 0 }

def execSrseed (w : Fields) (s : State) : Host.Outcome State Fault Refusal := issue .srseed w (perFibre fibreSrseed) s

end Sys2Proof.Machine
end

