-- ==== Sys2Proof/Machine/Tile.lean ====
section
/-! DEFINITION. The tile and matrix instructions 0xC0 to 0xDA (18; 05 R133, R144 to R146, R150). What an instruction leaves in
its tiles is computed when it issues and stands in `State.tileOps` until MATRIX_OP_COMPLETE. -/

namespace Sys2Proof.Machine

/-! ### Elements (03 R79) -/

/-- n elements of a width, from the low bits upward. -/
def unpackNat (width : Nat) : Nat → Nat → List Nat
  | 0, _ => []
  | n + 1, x => x % 2 ^ width :: unpackNat width n (x / 2 ^ width)

/-- The elements of row i in ascending column. -/
def Tile.row (t : Tile) (i : Nat) : List Nat := unpackNat t.wbits t.cols (t.bits.toNat / 2 ^ (i * t.cols * t.wbits))

/-- The elements of the shape by rows. -/
def Tile.table (t : Tile) : List (List Nat) := (List.range t.rows).map t.row

/-- The low n bits of a tile replaced; its pivot record becomes invalid (18), and the lines written whole are poisoned no more
(32 R517). -/
def Tile.fill (t : Tile) (n v : Nat) : Tile :=
  { t with bits := BitVec.ofNat 65536 (t.bits.toNat / 2 ^ n * 2 ^ n + v % 2 ^ n), pivot := none, poison := t.poisonFrom n }

/-- Whether a read of a tile's shape meets a poisoned line (32 R517). -/
def Team.badTile (t : Team) (n : Nat) : Bool := (t.tiles[n]?.map (fun x => x.poison.any (fun k => 512 * k < x.size))).getD false

/-- The shape's elements replaced; bits beyond them are kept. -/
def Tile.setTable (t : Tile) (rows : List (List Nat)) : Tile := t.fill t.size (packNat t.wbits rows.flatten)

/-! ### Checks and order (18 R373 to R375) -/

/-- A tile of the team, named or implicit, with the slot of the operand it belongs to. -/
def tileM (t : Team) (n slot : Nat) : M Tile := do
  match t.tiles[n]? with
  | some x => if x.allot then pure x else trapM (insnOperand slot)
  | none => trapM (insnOperand slot)

/-- ARITH.SHAPE at a place unless the condition holds. -/
def shapeM (ok : Bool) (place : Nat) : M Unit := checkM ok (arithShape place)

/-- The tiles that a team's instructions in flight write. -/
def State.tilesBusy (s : State) (t : Team) : List Nat :=
  ((s.tileOps.filter (fun o => o.launch == t.launch && o.team == t.id)).map (fun o => o.writes.map Prod.fst)).flatten

/-- The tiles that TSTs of other waves of a team are still storing to peers. -/
def State.tilesStoring (s : State) (t : Team) (mine : List FibreId) : List Nat :=
  (s.fwds.filter (fun r => !mine.contains r.fibre && t.owns r.fibre.crew)).filterMap Fwd.tile

/-- The wait for earlier writers, and for earlier readers that have not read yet. -/
def tilesFree (c : Ctx) (t : Team) (ns : List Nat) : M Unit := do
  let s ← get
  if ns.any (fun n => (s.tilesBusy t).contains n || (s.tilesStoring t (c.all.map Fibre.id)).contains n) then waitM .tile

/-- A tile of the lead's team replaced at once. -/
def putTile (c : Ctx) (n : Nat) (x : Tile) : M Unit := do
  let t ← teamM c.lead
  putT { t with tiles := t.tiles.set n x }

/-- Whether an instruction reads the tiles it writes. -/
def Op.readsD (op : Op) : Bool := [Op.mma, .mmai, .mmas, .mmag, .mmaq, .ttrs, .tmv].contains op

/-- The tiles whose contents an instruction reads. -/
def Ctx.tileSources (c : Ctx) (reads : List Nat) (writes : List (Nat × Tile)) : List Nat :=
  reads ++ (if Op.readsD c.op then writes.map Prod.fst else [])

/-- An instruction enters the tile path or the matrix unit. Where a tile that it reads is poisoned it leaves its destinations as they
are, with SYS.UNCORR deferred (18 R375; 32 R517). -/
def pushTile (c : Ctx) (id : Nat) (reads : List Nat) (writes : List (Nat × Tile)) (flags : Word) (fault : Option Due) : M Unit := do
  let t ← teamM c.lead
  let bad := (c.tileSources reads writes).any t.badTile
  modify (fun s => { s with tileOps := s.tileOps ++ [{ id := id, launch := t.launch, team := t.id, wave := c.wv.id
                                                       fibres := c.act.map Fibre.id, pc := c.pc, reads := reads
                                                       writes := if bad then writes.map (fun p => (p.1, t.tiles.getD p.1 p.2)) else writes
                                                       flags := if bad then 0 else flags
                                                       fault := if bad then some { cause := sysUncorr } else fault }] })

/-- A name for the instruction. -/
def newIdM : M Nat := do
  let s ← get
  let (i, s) := s.newId
  set s
  pure i

/-- An instruction that writes only tiles, done when it completes. -/
def tileDone (c : Ctx) (reads : List Nat) (writes : List (Nat × Tile)) (flags : Word := 0) : M Unit := do
  let i ← newIdM
  pushTile c i reads writes flags none

/-- Faults that appear only during execution: they are deferred (18 R375). A frozen owner's refusal is one of them. -/
def deferrable (e : Cause) : Bool := e == sysUncorr || e == memRemoteNak || e == memOwnerDead || e == memFrozen

/-- An access whose deferrable fault becomes an answer and leaves no effect. -/
def deferring {α : Type} (x : M α) : M (Except Due α) := do
  let s ← get
  match x.run s with
  | .ok (v, t) => do
    set t
    pure (.ok v)
  | .error (.trap d) => if deferrable d.cause then pure (.error d) else throw (.trap d)
  | .error e => throw e

/-! ### Shapes and moves (18 R377 to R379) -/

/-- The shape that TCFG reads from A. -/
def shapeOf (a : Nat) : Nat × Nat × Nat := (a % 128 + 1, a / 256 % 128 + 1, a / 65536 % 4)

def waveTcfg (c : Ctx) : M Unit := do
  let t ← teamM c.lead
  let n := c.w.d.n.toNat
  let x ← tileM t n 1
  let a := (c.a c.lead).toNat
  checkM (a == a % 128 + a / 256 % 128 * 256 + a / 65536 % 4 * 65536) (insnOperand 2)
  let (r, k, w) := shapeOf a
  shapeM (r * k * (4 * 2 ^ w) ≤ 65536) 1
  tilesFree c t [n]
  putTile c n { x with rows := r, cols := k, width := BitVec.ofNat 2 w }

def waveTzero (c : Ctx) : M Unit := do
  let t ← teamM c.lead
  let n := c.w.d.n.toNat
  let x ← tileM t n 1
  tilesFree c t [n]
  putTile c n { x with bits := 0, pivot := none, poison := [] }

/-- Rows exchanged for columns. -/
def transpose (cols : Nat) (rows : List (List Nat)) : List (List Nat) :=
  (List.range cols).map (fun j => rows.map (fun r => r.getD j 0))

def waveTtrn (c : Ctx) : M Unit := do
  let t ← teamM c.lead
  let d := c.w.d.n.toNat
  let a := c.w.a.n.toNat
  let x ← tileM t d 1
  let y ← tileM t a 2
  shapeM (x.rows == y.cols && x.cols == y.rows && x.width == y.width) 0
  tilesFree c t [d, a]
  tileDone c [a] [(d, x.setTable (transpose y.cols y.table))]

/-- Word q of a tile, its shape regardless. -/
def Tile.word (t : Tile) (q : Nat) : Nat := t.bits.toNat / 2 ^ (32 * q) % 2 ^ 32

def Tile.setWord (t : Tile) (q v : Nat) : Tile :=
  let b := t.bits.toNat
  { t with bits := BitVec.ofNat 65536 (b / 2 ^ (32 * q + 32) * 2 ^ (32 * q + 32) + v % 2 ^ 32 * 2 ^ (32 * q) + b % 2 ^ (32 * q))
           pivot := none }

def waveTmovr (c : Ctx) : M Unit := do
  let t ← teamM c.lead
  let a := c.w.a.n.toNat
  let y ← tileM t a 2
  checkM (c.act.all (fun f => (c.b f).toNat < 2048)) (insnOperand 3)
  tilesFree c t [a]
  checkM (!c.act.any (fun f => y.poison.contains ((c.b f).toNat / 16))) sysUncorr
  forM_ c.act (fun f => putF (c.putD f (BitVec.ofNat 32 (y.word (c.b f).toNat))))

def waveTmovw (c : Ctx) : M Unit := do
  let t ← teamM c.lead
  let d := c.w.d.n.toNat
  let x ← tileM t d 1
  checkM (c.act.all (fun f => (c.b f).toNat < 2048)) (insnOperand 3)
  tilesFree c t [d]
  putTile c d (c.act.foldl (fun x f => x.setWord (c.b f).toNat (c.a f).toNat) x)

def execTcfg (w : Fields) (s : State) : Host.Outcome State Fault Refusal := issue .tcfg w (perWave waveTcfg) s
def execTzero (w : Fields) (s : State) : Host.Outcome State Fault Refusal := issue .tzero w (perWave waveTzero) s
def execTtrn (w : Fields) (s : State) : Host.Outcome State Fault Refusal := issue .ttrn w (perWave waveTtrn) s
def execTmovr (w : Fields) (s : State) : Host.Outcome State Fault Refusal := issue .tmovr w (perWave waveTmovr) s
def execTmovw (w : Fields) (s : State) : Host.Outcome State Fault Refusal := issue .tmovw w (perWave waveTmovw) s

/-! ### Tiles to and from memory (18 R380 to R382) -/

/-- A part of a global row within one line, translated: its address, bytes, and place. -/
abbrev Piece := DWord × Nat × Phys

/-- The rows checked as R380 and R391 have it, and every page translated before anything is performed. -/
def planRows (who : Who) (rows : List DWord) (n : Nat) (write : Bool) : M (List (List Piece)) :=
  mapM_ rows (fun a => mapM_ (linesFrom n a.toNat n) (fun (u, k) => do
    let va := BitVec.ofNat 64 u
    let p ← translate { who with engine := true } va write
    checkView p va
    pure (va, k, p)))

/-- Rows wait for the wave's own held releases to their bytes (04 R100, R127). -/
def heldRows (c : Ctx) (rows : List DWord) (n : Nat) : M Unit := forM_ c.act (fun f => forM_ rows (fun a => heldClear f a n))

/-- A planned row read. -/
def readRow (who : Who) (path : Path) : List Piece → M Nat
  | [] => pure 0
  | (va, k, p) :: r => do
    let v ← readPhys who p va k path
    let vs ← readRow who path r
    pure (v + 2 ^ (8 * k) * vs)

/-- Planned rows read, as numbers. -/
def readRows (who : Who) (path : Path) (rows : List (List Piece)) : M (List Nat) := mapM_ rows (readRow who path)

/-- Planned pieces written in order until one fails; what went before it stays. -/
def writePieces (who : Who) (path : Path) : List (Piece × Nat) → M (Option Due)
  | [] => pure none
  | ((va, k, p), v) :: r => do
    let x ← deferring (writePhys who p va k v path)
    match x with
    | .ok _ => writePieces who path r
    | .error d => pure (some d)

/-- The values of a row's pieces. -/
def pieceVals : List Piece → Nat → List (Piece × Nat)
  | [], _ => []
  | p :: r, v => (p, v % 2 ^ (8 * p.2.1)) :: pieceVals r (v / 2 ^ (8 * p.2.1))

/-- Whether A names a global address. -/
def globalForm (w : Fields) : Bool := w.a.kind == .pair || w.a.kind == .uni

/-- The stride: B as a signed number. -/
def Ctx.stride (c : Ctx) : Int := (c.b c.lead).toInt

/-- Bytes of a row; the row must be whole bytes. -/
def rowBytesM (x : Tile) : M Nat := do
  shapeM (x.cols * x.wbits % 8 == 0) 0
  pure (x.cols * x.wbits / 8)

/-- Row addresses of the scratchpad form, checked. -/
def spRows (t : Team) (base : Nat) (stride : Int) (rows n : Nat) : M (List Nat) := do
  checkM (base % 4 == 0 && stride % 4 == 0) (memAlign 1) (BitVec.ofNat 64 base)
  let rs := (List.range rows).map (fun (i : Nat) => (((base : Int) + i * stride) % 2 ^ 32).toNat)
  forM_ rs (fun a => checkM (a + n ≤ t.spSize) memSpRange (BitVec.ofNat 64 a))
  pure rs

/-- Row addresses of the global form, checked. -/
def globalRows (base : DWord) (stride : Int) (rows n : Nat) : M (List DWord) := do
  let rs := (List.range rows).map (fun (i : Nat) => base + BitVec.ofInt 64 (i * stride))
  forM_ rs (fun a => checkRange a n)
  checkM (base.toNat % 4 == 0 && stride % 4 == 0) (memAlign 0) base
  pure rs

/-- The rows of a tile as numbers of n bytes each. -/
def Tile.rowData (x : Tile) (n : Nat) : List Nat := unpackNat (8 * n) x.rows x.bits.toNat

/-- What a TLD or TCB reads: its rows as numbers, or its deferred fault. `off` is the offset it adds to A. -/
def tileRead (c : Ctx) (t : Team) (x : Tile) (off : Word) (path : Path) : M (Nat × Except Due (List Nat)) := do
  let n ← rowBytesM x
  let who ← whoM c c.lead
  if globalForm c.w then
    let rs ← globalRows (c.a64 c.lead + .sext off) c.stride x.rows n
    heldRows c rs n
    let ps ← planRows who rs n false
    let r ← deferring (readRows who path ps)
    pure (n, r)
  else
    let rs ← spRows t (c.a c.lead + off).toNat c.stride x.rows n
    let r ← deferring (do
      forM_ rs (fun a => spSound t a n)
      pure (rs.map (fun a => t.sp.getN a n)))
    pure (n, r)

def waveTld (c : Ctx) : M Unit := do
  let t ← teamM c.lead
  let d := c.w.d.n.toNat
  let x ← tileM t d 1
  tilesFree c t [d]
  let (n, r) ← tileRead c t x c.w.imm (hintPath c.w.mod)
  let i ← newIdM
  match r with
  | .ok rows => pushTile c i [] [(d, x.fill x.size (packNat (8 * n) rows))] 0 none
  | .error e => pushTile c i [] [(d, x)] 0 (some e)

def waveTst (c : Ctx) : M Unit := do
  let t ← teamM c.lead
  let d := c.w.d.n.toNat
  let x ← tileM t d 1
  tilesFree c t [d]
  let n ← rowBytesM x
  let who ← whoM c c.lead
  let i ← newIdM
  if globalForm c.w then
    let rs ← globalRows (c.a64 c.lead + c.off) c.stride x.rows n
    heldRows c rs n
    let ps ← planRows who rs n true
    let all := if t.badTile d then [] else ((ps.zip (x.rowData n)).map (fun (p, v) => pieceVals p v)).flatten
    let e ← writePieces { who with tile := some d } (hintPath c.w.mod) all
    pushTile c i [d] [] 0 e
  else
    let rs ← spRows t (c.a c.lead + c.w.imm).toNat c.stride x.rows n
    if !t.badTile d then putT ((rs.zip (x.rowData n)).foldl (fun t (a, v) => t.wrote a n (Memory.setN t.sp a n v)) t)
    pushTile c i [d] [] 0 none

def waveTcb (c : Ctx) : M Unit := do
  let t ← teamM c.lead
  let d := c.w.d.n.toNat
  let x ← tileM t d 1
  let k := (c.c4 c.lead).toNat
  checkM (k < 8) (insnOperand 3)
  shapeM (x.width == 2) 0
  tilesFree c t [d]
  -- The codes stand in rows of 4-bit elements.
  let (n, r) ← tileRead c t { x with width := 0 } 0 .l1
  let i ← newIdM
  match r with
  | .ok rows =>
    let vals := rows.map (fun v => (unpackNat 4 x.cols (v % 2 ^ (8 * n))).map (fun e => ((t.book k).getD e 0).toNat))
    pushTile c i [bookRead k] [(d, x.setTable vals)] 0 none
  | .error e => pushTile c i [bookRead k] [(d, x)] 0 (some e)

def execTld (w : Fields) (s : State) : Host.Outcome State Fault Refusal := issue .tld w (perWave waveTld) s
def execTst (w : Fields) (s : State) : Host.Outcome State Fault Refusal := issue .tst w (perWave waveTst) s
def execTcb (w : Fields) (s : State) : Host.Outcome State Fault Refusal := issue .tcb w (perWave waveTcb) s

/-! ### Elementwise operations, TNZ (18 R383, R384) -/

/-- The rounding of TSCAL, TADD and TRED: FTZ plays no part. -/
def Ctx.tileR (c : Ctx) : RCtx := { mode := c.lead.rmode (modField c.w.mod 0 3), sat := modBit c.w.mod 3 }

/-- Results element by element, and the OR of their flags. -/
def eachElem (g : Nat → Nat → FRes) (xs ys : List (List Nat)) : List (List Nat) × Word :=
  let rs := (xs.zip ys).map (fun (r, q) => (r.zip q).map (fun (x, y) => g x y))
  (rs.map (fun r => r.map Prod.fst), rs.foldl (fun a r => r.foldl (fun a x => a ||| x.2) a) 0)

def sameShape (x y : Tile) : Bool := x.rows == y.rows && x.cols == y.cols && x.width == y.width

def waveTscal (c : Ctx) : M Unit := do
  let t ← teamM c.lead
  let d := c.w.d.n.toNat
  let a := c.w.a.n.toNat
  let x ← tileM t d 1
  let y ← tileM t a 2
  shapeM (y.width == 3) 1
  shapeM (sameShape x y) 0
  tilesFree c t [d, a]
  let b := (c.b c.lead).toNat
  let (rs, fl) := eachElem (fun u _ => fp32.mul c.tileR u b) y.table y.table
  tileDone c [a] [(d, x.setTable rs)] fl

def waveTadd (c : Ctx) : M Unit := do
  let t ← teamM c.lead
  let d := c.w.d.n.toNat
  let a := c.w.a.n.toNat
  let b := c.w.b.n.toNat
  let x ← tileM t d 1
  let y ← tileM t a 2
  let z ← tileM t b 3
  shapeM (y.width == 3) 1
  shapeM (sameShape z y) 2
  shapeM (sameShape x y) 0
  tilesFree c t [d, a, b]
  let (rs, fl) := eachElem (fp32.add c.tileR) y.table z.table
  tileDone c [a, b] [(d, x.setTable rs)] fl

def waveTred (c : Ctx) : M Unit := do
  let t ← teamM c.lead
  let d := c.w.d.n.toNat
  let a := c.w.a.n.toNat
  let x ← tileM t d 1
  let y ← tileM t a 2
  shapeM (y.width == 3) 1
  shapeM (x.rows == y.rows && x.cols == 1 && x.width == 3 && d != a) 0
  tilesFree c t [d, a]
  let rs := y.table.map (fun r => treeSum fp32 c.tileR 7 (r.map some))
  tileDone c [a] [(d, x.setTable (rs.map (fun r => [r.1])))] (rs.foldl (fun w r => w ||| r.2) 0)

/-- Width code and floatness of EL. -/
def elTileWidth (e : Nat) : BitVec 2 := if e ≤ 1 then 3 else if e ≤ 3 then 2 else if e ≤ 5 then 1 else 0
def elTileFloat (e : Nat) : Bool := e == 1 || e == 2 || e == 3 || e == 5

def waveTnz (c : Ctx) : M Unit := do
  let t ← teamM c.lead
  let a := c.w.a.n.toNat
  let y ← tileM t a 2
  let el := modField c.w.mod 0 3
  shapeM (y.width == elTileWidth el) 1
  tilesFree c t [a]
  checkM (!t.badTile a) sysUncorr
  let counts := y.table.map (fun r => (r.filter (nonzeroElem (elTileFloat el) y.wbits)).length)
  let n := counts.foldl (fun s k => s + k) 0
  forM_ c.act (fun f =>
    let base := 32 * (f.lane % 4)
    let bm := (List.range 32).foldl (fun m r => if counts.getD (base + r) 0 != 0 then m + 2 ^ r else m) 0
    putF (c.putD64 f (BitVec.ofNat 64 (n + 2 ^ 32 * bm))))

def execTscal (w : Fields) (s : State) : Host.Outcome State Fault Refusal := issue .tscal w (perWave waveTscal) s
def execTadd (w : Fields) (s : State) : Host.Outcome State Fault Refusal := issue .tadd w (perWave waveTadd) s
def execTred (w : Fields) (s : State) : Host.Outcome State Fault Refusal := issue .tred w (perWave waveTred) s
def execTnz (w : Fields) (s : State) : Host.Outcome State Fault Refusal := issue .tnz w (perWave waveTnz) s

/-! ### Matrix multiply (05 R144, R145; 18 R385 to R391) -/

/-- The mma layout's fields (13 R270). -/
def mmaFuse (m : Byte) : Nat := modField m 0 2
def mmaIn (m : Byte) : Nat := modField m 2 3
def mmaAcc16 (m : Byte) : Bool := modBit m 5
def mmaN (m : Byte) : Nat := 2 * 2 ^ modField m 6 2

/-- The width code of the input, and the inner elements of an instruction. -/
def mmaWidth (m : Byte) : BitVec 2 := if mmaIn m ≤ 1 then 2 else if mmaIn m ≤ 4 then 1 else 0
def mmaK (m : Byte) : Nat := if mmaIn m ≤ 1 then 32 else if mmaIn m ≤ 4 then 64 else 128

/-- Output rows and columns of one operation (R385). -/
def mmaDims (fuse : Nat) : Nat × Nat :=
  match fuse with
  | 0 => (32, 128)
  | 1 => (64, 64)
  | 2 => (128, 32)
  | _ => (32, 32)

/-- An input element as a value, and as an integer. -/
def mmaVal (m : Byte) (x : Nat) : FVal :=
  match mmaIn m with
  | 0 => bf16.decode x
  | 1 => fp16.decode x
  | 2 => e4m3.decode x
  | 3 => e5m2.decode x
  | 4 => .ofInt (signedOf 8 x)
  | _ => .ofInt (signedOf 4 x)

def mmaInt (m : Byte) (x : Nat) : Int := if mmaIn m == 4 then signedOf 8 x else signedOf 4 x

/-- The accumulator's float format. -/
def mmaFmt (m : Byte) : Fmt := if mmaAcc16 m then (if mmaIn m == 0 then bf16 else fp16) else fp32

/-- Contributing terms by group of four inner positions. -/
def groupsOf {α : Type} : List (Nat × α) → List (Nat × List α)
  | [] => []
  | (k, x) :: r =>
    match groupsOf r with
    | (g, xs) :: gs => if g == k / 4 then (g, x :: xs) :: gs else (k / 4, [x]) :: (g, xs) :: gs
    | [] => [(k / 4, [x])]

/-- A term of a sum: an integer product that is 0 has no sign, and counts as +0 [92]. -/
def mmaTerm (int : Bool) : FVal → FVal
  | .num n m e => .num (n && !(int && m == 0)) m e
  | v => v

/-- One group: the exact sum with the accumulator, rounded once (R144). -/
def mmaGroup (f : Fmt) (int : Bool) (acc : FRes) (g : List (FVal × FVal)) : FRes :=
  let ps := g.map (fun (x, y) => let p := x.mul y; (mmaTerm int p.1, p.2))
  let r := f.sum {} (ps.any (fun p => p.2)) (f.decode acc.1 :: ps.map (fun p => p.1))
  (r.1, acc.2 ||| r.2)

/-- An output element of a float instruction: A's row as (inner position, value), B's column by inner position. -/
def mmaFloat (f : Fmt) (int : Bool) (acc : Nat) (row : List (Nat × FVal)) (col : List FVal) : FRes :=
  ((groupsOf (row.map (fun (k, x) => (k, (x, col.getD k (.num false 0 0)))))).map Prod.snd).foldl (mmaGroup f int) (acc, 0)

/-- An output element of an integer instruction (R145). -/
def mmaSum (acc : Nat) (row : List (Nat × Int)) (col : List Int) : FRes :=
  (twos 32 ((acc : Int) + row.foldl (fun a (k, x) => a + x * col.getD k 0) 0), 0)

/-- A row of outputs; those beyond B's columns keep their bits. -/
def mmaRow {α β : Type} (g : Nat → α → β → FRes) (a : α) : List Nat → List β → List FRes
  | c :: cs, b :: bs => g c a b :: mmaRow g a cs bs
  | cs, _ => cs.map (fun c => (c, 0))

/-- All outputs; rows beyond A's keep their bits. -/
def mmaTable {α β : Type} (g : Nat → α → β → FRes) (cols : List β) : List (List Nat) → List α → List (List FRes)
  | c :: cs, a :: as => mmaRow g a c cols :: mmaTable g cols cs as
  | cs, _ => cs.map (fun r => r.map (fun c => (c, 0)))

/-- One operation of an instruction: its accumulator tiles in row order, its A, and where B's columns come from. -/
structure MmaOp where
  acc : List (Nat × Tile)
  a : Tile
deriving Repr, Inhabited

/-- Tiles of accumulators replaced row by row. -/
def splitRows : List (Nat × Tile) → List (List Nat) → List (Nat × Tile)
  | [], _ => []
  | (n, t) :: ts, rows => (n, t.setTable (rows.take t.rows)) :: splitRows ts (rows.drop t.rows)

/-- The inner position of each of A's columns: kept elements stand where their metadata says (R389). -/
def innerAt (sparse : Option (Nat × List Nat)) (k : Nat) : Nat :=
  match sparse with
  | some (n, ms) => 16 * (k / n) + ms.getD k 0
  | none => k

/-- The work of one operation: A's rows with their inner positions, B's columns, and block scales (R144, R389, R390). -/
def mmaWork (m : Byte) (int : Bool) (op : MmaOp) (sparse : Option (Nat × List (List Nat)))
    (scale : Option ((Nat → Nat → Nat) × (Nat → Nat → Nat))) (cols : List (List Nat)) : List (Nat × Tile) × Word :=
  let accs := (op.acc.map (fun p => p.2.table)).flatten
  let rows := (List.range op.a.rows).map (fun i =>
    let ms := sparse.map (fun (n, t) => (n, t.getD i []))
    ((List.range op.a.cols).zip (op.a.row i)).map (fun (k, x) => (i, innerAt ms k, x)))
  let out :=
    if int then
      mmaTable mmaSum (cols.map (fun b => b.map (mmaInt m))) accs (rows.map (fun r => r.map (fun (_, k, x) => (k, mmaInt m x))))
    else
      let sc := fun (s : Option Nat) (v : FVal) => match s with
        | none => v
        | some 255 => .nan false
        | some e => v.shift ((e : Int) - 127)
      let as := rows.map (fun r => r.map (fun (i, k, x) => (k, sc (scale.map (fun s => s.1 i (k / 32))) (mmaVal m x))))
      let bs := ((List.range cols.length).zip cols).map (fun (j, b) =>
        ((List.range b.length).zip b).map (fun (k, x) => sc (scale.map (fun s => s.2 j (k / 32))) (mmaVal m x)))
      mmaTable (mmaFloat (mmaFmt m) (mmaIn m ≥ 4)) bs accs as
  (splitRows op.acc (out.map (fun r => r.map Prod.fst)), out.foldl (fun w r => r.foldl (fun w x => w ||| x.2) w) 0)

/-- Everything an MMA-family instruction has of operands, after its checks up to the overlaps. -/
structure MmaOperands where
  ops : List MmaOp
  srcs : List Nat
  bs : List Tile
  metas : List Tile
deriving Repr, Inhabited

/-- The shapes of operation q. In `.ind`, the tiles of the operations after the first are implicit ones (R373; 28 R483). -/
def mmaCheckOp (m : Byte) (sparse hasB : Bool) (q : Nat) (o : MmaOp) (b md : Option Tile) : M Unit := do
  let place := fun (k : Nat) => if q == 0 then k else 4
  let (mm, nn) := mmaDims (mmaFuse m)
  let ind := mmaFuse m == 3
  let want := fun (t : Tile) =>
    t.rows == (if ind || mmaAcc16 m then mm else mm / 2) && t.cols == nn && t.width == (if mmaAcc16 m then 2 else 3)
  shapeM ((o.acc.head?.map (fun p => want p.2)).getD true) (place 0)
  shapeM ((o.acc.drop 1).all (fun p => want p.2)) 4
  let n := mmaN m
  shapeM (o.a.width == mmaWidth m && o.a.rows ≤ mm &&
    (if sparse then o.a.cols % n == 0 && o.a.cols / n ≤ mmaK m / 16 else o.a.cols ≤ mmaK m)) (place 1)
  match md with
  | some x => shapeM (x.width == 0 && x.rows == o.a.rows && x.cols == o.a.cols) 4
  | none => pure ()
  match b with
  | some x =>
    if hasB then
      shapeM (x.width == mmaWidth m && x.rows == (if sparse then 16 * (o.a.cols / n) else o.a.cols) && x.cols ≤ nn) (place 2)
  | none => pure ()

/-- The operands of an MMA-family instruction (R373, R385, R386, R389, R390). `first` is checked before the shapes, and `shape` is one
more shape check (R391). -/
def mmaOperands (c : Ctx) (t : Team) (sparse hasB : Bool) (scale : Option Nat) (first shape : M Unit := pure ()) : M MmaOperands := do
  let m := c.w.mod
  let ind := mmaFuse m == 3
  let d := c.w.d.n.toNat
  let a := c.w.a.n.toNat
  let b := c.w.b.n.toNat
  checkM (!ind || d % 4 == 0) (insnOperand 1)
  checkM (!ind || a % 4 == 0) (insnOperand 2)
  checkM (!ind || !hasB || b % 4 == 0) (insnOperand 3)
  let qs := List.range (if ind then 4 else 1)
  let accNo := fun (q : Nat) => if ind then [d + q] else if mmaAcc16 m then [d] else [d, d + 1]
  let metaNo := fun (q : Nat) => if ind then a + 4 + q else a + 1
  let ops ← mapM_ qs (fun q => do
    let acc ← mapM_ (accNo q) (fun n => do
      let x ← tileM t n 1
      pure (n, x))
    let x ← tileM t (a + q) 2
    pure ({ acc := acc, a := x } : MmaOp))
  let metas ← if sparse then mapM_ qs (fun q => tileM t (metaNo q) 2) else pure []
  let bs ← if hasB then mapM_ qs (fun q => tileM t (b + q) 3) else pure []
  first
  forM_ ((List.range ops.length).zip ops) (fun (q, o) => mmaCheckOp m sparse hasB q o bs[q]? metas[q]?)
  match scale.bind (fun k => t.tiles[k]?) with
  | some x => shapeM (x.width == 1 && x.rows == 2 * mmaK m / 32 && x.cols == 128) 3
  | none => pure ()
  shape
  let srcs := qs.map (fun q => a + q) ++ (if hasB then qs.map (fun q => b + q) else []) ++ (if sparse then qs.map metaNo else [])
    ++ scale.toList
  checkM (!((qs.map accNo).flatten.any (fun n => srcs.contains n))) (insnOperand 1)
  tilesFree c t ((qs.map accNo).flatten ++ srcs)
  pure { ops := ops, srcs := srcs, bs := bs, metas := metas }

/-- B's columns. -/
def Tile.columns (b : Tile) : List (List Nat) := transpose b.cols b.table

/-- The work of every operation, put together. -/
def mmaAll (works : List (List (Nat × Tile) × Word)) : List (Nat × Tile) × Word :=
  ((works.map Prod.fst).flatten, works.foldl (fun w x => w ||| x.2) 0)

/-- MMA and MMAI. -/
def waveMma (int : Bool) (c : Ctx) : M Unit := do
  let t ← teamM c.lead
  let o ← mmaOperands c t false true none
  let (ws, fl) := mmaAll ((o.ops.zip o.bs).map (fun (p, b) => mmaWork c.w.mod int p none none b.columns))
  tileDone c o.srcs ws fl

/-- Whether every group's indices of a metadata tile ascend strictly (05 R133). -/
def metaOk (n : Nat) (x : Tile) : Bool :=
  x.table.all (fun r => (List.range (x.cols / n)).all (fun g => ascending ((r.drop (n * g)).take n)))

def waveMmas (c : Ctx) : M Unit := do
  let t ← teamM c.lead
  let o ← mmaOperands c t true true none
  let m := c.w.mod
  if !o.metas.all (metaOk (mmaN m)) then
    let i ← newIdM
    pushTile c i o.srcs ((o.ops.map MmaOp.acc).flatten) 0 (some { cause := arithSpMeta 4 })
  else
    let (ws, fl) := mmaAll ((o.ops.zip (o.bs.zip o.metas)).map (fun (p, b, x) =>
      mmaWork m (mmaIn m ≥ 4) p (some (mmaN m, x.table)) none b.columns))
    tileDone c o.srcs ws fl

def waveMmaq (c : Ctx) : M Unit := do
  let t ← teamM c.lead
  let k := c.w.c.n.toNat
  let sc ← tileM t k 3
  let o ← mmaOperands c t false true (some k)
  let s := sc.table
  let base := fun (q : Nat) => if mmaFuse c.w.mod == 3 then 32 * q else 0
  let (ws, fl) := mmaAll (((List.range o.ops.length).zip (o.ops.zip o.bs)).map (fun (q, p, b) =>
    mmaWork c.w.mod false p none
      (some (fun r g => (s.getD (2 * g) []).getD (base q + r) 0, fun j g => (s.getD (2 * g + 1) []).getD (base q + j) 0))
      b.columns))
  tileDone c o.srcs ws fl

/-- The gather record, at an offset that is aligned and within the current size (R391). -/
def gatherRecord (c : Ctx) (t : Team) : M (List Byte) := spBlock t (c.b c.lead).toNat 32

/-- NIDX and the reserved word, as R391 limits them. -/
def gatherShape (c : Ctx) (t : Team) : M Unit := do
  let r ← gatherRecord c t
  let m := c.w.mod
  shapeM (field r 20 4 ≤ (if mmaFuse m == 3 then 128 else (mmaDims (mmaFuse m)).2) && field r 28 4 == 0) 5

/-- The gather record's row addresses, checked in the order of R391. -/
def gatherRows (c : Ctx) (t : Team) : M (List DWord) := do
  gatherShape c t
  let r ← gatherRecord c t
  let rbase : DWord := BitVec.ofNat 64 (field r 0 8)
  let stride : DWord := BitVec.ofNat 64 (field r 8 8)
  let ioff := field r 16 4
  let nidx := field r 20 4
  let koff := field r 24 4
  checkM (rbase.toNat / 2 ^ 51 == 0) memAddrBits rbase
  let fits := ioff + 4 * nidx ≤ t.spSize
  let ids := if fits && ioff % 4 == 0 then (List.range nidx).map (fun j => t.sp.getN (ioff + 4 * j) 4) else []
  let rows := ids.map (fun i => rbase + BitVec.ofNat 64 i * stride + BitVec.ofNat 64 koff)
  forM_ rows (fun a => checkRange a 64)
  checkM (stride.toNat % 4 == 0 && koff % 4 == 0) (memAlign 0) rbase
  checkM (ioff % 4 == 0) (memAlign 1) (BitVec.ofNat 64 ioff)
  checkM fits memSpRange (BitVec.ofNat 64 ioff)
  spSound t ioff (4 * nidx)
  pure rows

def waveMmag (c : Ctx) : M Unit := do
  let t ← teamM c.lead
  let m := c.w.mod
  let o ← mmaOperands c t false false none (do
    let _ ← gatherRecord c t
    pure ()) (gatherShape c t)
  let rows ← gatherRows c t
  heldRows c rows 64
  let who ← whoM c c.lead
  let ps ← planRows who rows 64 false
  let r ← deferring (readRows who .l1 ps)
  match r with
  | .ok vs =>
    let cols := vs.map (fun v => unpackNat (4 * 2 ^ (mmaWidth m).toNat) (mmaK m) v)
    let mine := fun (q : Nat) => if mmaFuse m == 3 then (cols.drop (32 * q)).take 32 else cols
    let (ws, fl) := mmaAll (((List.range o.ops.length).zip o.ops).map (fun (q, p) => mmaWork m false p none none (mine q)))
    tileDone c o.srcs ws fl
  | .error e =>
    let i ← newIdM
    pushTile c i o.srcs ((o.ops.map MmaOp.acc).flatten) 0 (some e)

def execMma (w : Fields) (s : State) : Host.Outcome State Fault Refusal := issue .mma w (perWave (waveMma false)) s
def execMmai (w : Fields) (s : State) : Host.Outcome State Fault Refusal := issue .mmai w (perWave (waveMma true)) s
def execMmas (w : Fields) (s : State) : Host.Outcome State Fault Refusal := issue .mmas w (perWave waveMmas) s
def execMmag (w : Fields) (s : State) : Host.Outcome State Fault Refusal := issue .mmag w (perWave waveMmag) s
def execMmaq (w : Fields) (s : State) : Host.Outcome State Fault Refusal := issue .mmaq w (perWave waveMmaq) s

/-! ### Factorisations and solves (18 R392 to R397) -/

/-- A matrix of FP32 encodings, and the flags so far. -/
abbrev Mat := List (List Nat)

def Mat.at (a : Mat) (i j : Nat) : Nat := (a.getD i []).getD j 0
def Mat.put (a : Mat) (i j v : Nat) : Mat := a.set i ((a.getD i []).set j v)

/-- The tiles of a matrix operand (R392). -/
def matTiles (pair : Bool) (n : Nat) : List Nat := if pair then [n, n + 1] else [n]

/-- A matrix operand's tiles, the implicit one checked as R373 has it. -/
def matM (t : Team) (pair : Bool) (n slot : Nat) : M (List Tile) := mapM_ (matTiles pair n) (fun k => tileM t k slot)

/-- The widths and the pair's shapes. -/
def matCheck (ts : List Tile) (place : Nat) : M Unit := do
  shapeM ((ts.headD {}).width == 3) place
  match ts with
  | [x, y] =>
    let r := x.rows + y.rows
    shapeM (y.width == 3 && x.cols == y.cols && x.rows == (r + 1) / 2 && y.rows == r / 2) 4
  | _ => pure ()

def matRows (ts : List Tile) : Nat := (ts.map Tile.rows).sum
def matCols (ts : List Tile) : Nat := (ts.headD {}).cols
def matOf (ts : List Tile) : Mat := (ts.map Tile.table).flatten

/-- A matrix stored back into its tiles, with a pivot record on the first of them where there is one. -/
def matPut (pair : Bool) (n : Nat) (ts : List Tile) (a : Mat) (p : Option Pivot) : List (Nat × Tile) :=
  match splitRows ((matTiles pair n).zip ts) a with
  | (k, x) :: r => (k, { x with pivot := p }) :: r
  | [] => []

/-- One rounded operation by RNE. -/
def rne : RCtx := {}

/-- Round(z − x × y). -/
def fnmadd (x y z : Nat) : FRes := fp32.fma rne (x ^^^ 0x80000000) y z

/-- Whether an encoding is a zero. -/
def isZero32 (x : Nat) : Bool := x % 2 ^ 31 == 0

/-- Magnitude order with NaN below every number. -/
def absBelow (x y : Nat) : Bool :=
  let u := fp32.decode (x % 2 ^ 31)
  let v := fp32.decode (y % 2 ^ 31)
  !v.isNan && (u.isNan || u.lt false v)

/-- The lowest row from j on with the greatest magnitude in column j. -/
def pivotRow (a : Mat) (j n : Nat) : Nat :=
  (List.range n).foldl (fun p r => if j < r && absBelow (a.at p j) (a.at r j) then r else p) j

/-- Two entries of a list exchanged. -/
def swapAt {α : Type} (l : List α) (i j : Nat) : List α :=
  match l[i]?, l[j]? with
  | some x, some y => (l.set i y).set j x
  | _, _ => l

/-- A factorisation in progress. -/
structure Factor where
  a : Mat
  perm : List Nat
  zero : Option Nat := none
  clamped : Nat := 0
  flags : Word := 0
deriving Repr, Inhabited

/-- Whether a clamp applies: c > 0 and |piv| < c (R393). -/
def clamps (c piv : Nat) : Bool :=
  (FVal.num false 0 0).lt false (fp32.decode c) && (fp32.decode (piv % 2 ^ 31)).lt false (fp32.decode c)

/-- Elimination of one row below the pivot. -/
def luRow (piv : Nat) (prow : List Nat) (j : Nat) (row : List Nat) : List FRes :=
  let m := fp32.div rne (row.getD j 0) piv
  ((List.range row.length).zip row).map (fun (q, x) =>
    if q < j then (x, 0) else if q == j then m else fnmadd m.1 (prow.getD q 0) x)

/-- Column j of TLU. -/
def luStep (c n : Nat) (f : Factor) (j : Nat) : Factor :=
  if f.zero.isSome then f
  else
    let p := pivotRow f.a j n
    let a := swapAt f.a j p
    let perm := swapAt f.perm j p
    let piv := Mat.at a j j
    if isZero32 piv then { f with a := a, perm := perm, zero := some j, flags := f.flags ||| flagZP }
    else
      let cl := clamps c piv
      let piv := if cl then piv / 2 ^ 31 * 2 ^ 31 + c else piv
      let a := Mat.put a j j piv
      let prow := a.getD j []
      let rows := ((List.range n).zip a).map (fun (r, row) => if r ≤ j then row.map (fun x => (x, (0 : Word))) else luRow piv prow j row)
      { a := rows.map (fun r => r.map Prod.fst), perm := perm, zero := none, clamped := f.clamped + (if cl then 1 else 0)
        flags := rows.foldl (fun w r => r.foldl (fun w x => w ||| x.2) w) (f.flags ||| flagIf cl flagPC) }

/-- s minus the products of row i and row j of L over k below j, in ascending k. -/
def cholSum (a : Mat) (i j : Nat) : FRes :=
  (List.range j).foldl (fun (s : FRes) k => let r := fnmadd (a.at i k) (a.at j k) s.1; (r.1, s.2 ||| r.2)) (a.at i j, 0)

/-- Whether an encoding is at most 0; a NaN is not. -/
def atMost0 (x : Nat) : Bool := !(fp32.decode x).isNan && !(FVal.num false 0 0).lt false (fp32.decode x)

/-- Column j of TCHL. -/
def cholStep (c n : Nat) (f : Factor) (j : Nat) : Factor :=
  if f.zero.isSome then f
  else
    let d := cholSum f.a j j
    if atMost0 d.1 then { f with a := Mat.put f.a j j 0, zero := some j, flags := f.flags ||| d.2 ||| flagZP }
    else
      let l := fp32.sqrt rne d.1
      let cl := (FVal.num false 0 0).lt false (fp32.decode c) && (fp32.decode l.1).lt false (fp32.decode c)
      let l' := if cl then c else l.1
      let a := Mat.put f.a j j l'
      let col := (List.range n).map (fun i =>
        if i ≤ j then ((Mat.at a i j, (0 : Word)) : FRes)
        else
          let s := cholSum a i j
          let q := fp32.div rne s.1 l'
          (q.1, s.2 ||| q.2))
      { f with a := (a.zip col).map (fun (row, x) => row.set j x.1)
               clamped := f.clamped + (if cl then 1 else 0)
               flags := col.foldl (fun w x => w ||| x.2) (f.flags ||| d.2 ||| l.2 ||| flagIf cl flagPC) }

/-- TCHL writes +0 above the diagonal. -/
def lowerOnly (a : Mat) : Mat :=
  ((List.range a.length).zip a).map (fun (i, r) => ((List.range r.length).zip r).map (fun (j, x) => if i < j then 0 else x))

/-- TLU and TCHL: the pivot record is that of the operand's first tile, and stands with what was factorised up to a break. -/
def waveFactor (chol : Bool) (c : Ctx) : M Unit := do
  let t ← teamM c.lead
  let pair := modBit c.w.mod 0
  let d := c.w.d.n.toNat
  let ts ← matM t pair d 1
  matCheck ts 0
  let n := matRows ts
  shapeM (matCols ts == n && n ≤ 64) 0
  tilesFree c t (matTiles pair d)
  let f0 : Factor := { a := matOf ts, perm := List.range n }
  let f := (List.range n).foldl ((if chol then cholStep else luStep) t.pivclamp.toNat n) f0
  let p : Pivot := { perm := f.perm, zero := f.zero, n := n, clamped := f.clamped, chol := chol }
  let i ← newIdM
  pushTile c i (matTiles pair d) (matPut pair d ts (if chol then lowerOnly f.a else f.a) (some p)) f.flags
    (if f.zero.isSome && c.lead.zptrap then some { cause := arithZeroPivot 0 } else none)

def waveTpiv (c : Ctx) : M Unit := do
  let t ← teamM c.lead
  let a := c.w.a.n.toNat
  let y ← tileM t a 2
  tilesFree c t [a]
  forM_ c.act (fun f =>
    let v := match y.pivot with
      | none => 0x00FFFFFF
      | some p => p.perm.getD (2 * f.lane) 255 + 2 ^ 8 * p.perm.getD (2 * f.lane + 1) 255 + 2 ^ 16 * p.zero.getD 255
          + 2 ^ 24 * p.n + 2 ^ 32 * (p.clamped + 256 + 512 * p.chol.toNat)
    putF (c.putD64 f (BitVec.ofNat 64 v)))

/-- Row i of the solution, from the rows already solved (R396). -/
def solveRow (s : Nat → Nat → Nat) (unit lower : Bool) (n : Nat) (x : Mat) (i : Nat) : List FRes :=
  let ks := if lower then List.range i else ((List.range n).drop (i + 1)).reverse
  ((List.range (x.getD i []).length).zip (x.getD i [])).map (fun (q, v) =>
    let r := ks.foldl (fun (r : FRes) k => let y := fnmadd (s i k) (x.at k q) r.1; (y.1, r.2 ||| y.2)) (v, 0)
    if unit then r else let y := fp32.div rne r.1 (s i i); (y.1, r.2 ||| y.2))

def solveStep (s : Nat → Nat → Nat) (unit lower : Bool) (n : Nat) (x : Mat × Word) (i : Nat) : Mat × Word :=
  let r := solveRow s unit lower n x.1 i
  (x.1.set i (r.map Prod.fst), r.foldl (fun w y => w ||| y.2) x.2)

def waveTtrs (c : Ctx) : M Unit := do
  let t ← teamM c.lead
  let m := c.w.mod
  let pair := modBit m 3
  let d := c.w.d.n.toNat
  let a := c.w.a.n.toNat
  let ds ← matM t pair d 1
  let as ← matM t pair a 2
  matCheck as 1
  let n := matRows as
  shapeM (matCols as == n && n ≤ 64) 1
  matCheck ds 0
  shapeM (matRows ds == n && matCols ds ≤ 64) 0
  checkM (!(matTiles pair d).any (fun k => (matTiles pair a).contains k)) (insnOperand 1)
  tilesFree c t (matTiles pair d ++ matTiles pair a)
  let tr := modBit m 2
  let up := modBit m 0
  let lower := (!up) != tr
  let f := matOf as
  let s := fun i k => if tr then f.at k i else f.at i k
  let order := if lower then List.range n else (List.range n).reverse
  let (x, fl) := order.foldl (solveStep s (modBit m 1) lower n) (matOf ds, 0)
  tileDone c (matTiles pair a) (matPut pair d ds x none) fl

/-- Row i of D + A × B (R397). -/
def mulRow (arow : List Nat) (b : Mat) (drow : List Nat) : List FRes :=
  ((List.range drow.length).zip drow).map (fun (q, v) =>
    (arow.zip b).foldl (fun (r : FRes) (x, brow) => let y := fp32.fma rne x (brow.getD q 0) r.1; (y.1, r.2 ||| y.2)) (v, 0))

def waveTmv (c : Ctx) : M Unit := do
  let t ← teamM c.lead
  let pair := modBit c.w.mod 0
  let d := c.w.d.n.toNat
  let a := c.w.a.n.toNat
  let b := c.w.b.n.toNat
  let ds ← matM t pair d 1
  let as ← matM t pair a 2
  let bs ← matM t pair b 3
  matCheck as 1
  shapeM (matRows as ≤ 64 && matCols as ≤ 64) 1
  matCheck bs 2
  shapeM (matRows bs == matCols as && matCols bs ≤ 64) 2
  matCheck ds 0
  shapeM (matRows ds == matRows as && matCols ds == matCols bs) 0
  checkM (!(matTiles pair d).any (fun k => (matTiles pair a ++ matTiles pair b).contains k)) (insnOperand 1)
  tilesFree c t (matTiles pair d ++ matTiles pair a ++ matTiles pair b)
  let rs := ((matOf as).zip (matOf ds)).map (fun (x, y) => mulRow x (matOf bs) y)
  tileDone c (matTiles pair a ++ matTiles pair b) (matPut pair d ds (rs.map (fun r => r.map Prod.fst)) none)
    (rs.foldl (fun w r => r.foldl (fun w x => w ||| x.2) w) 0)

/-- MWAIT: the team's tile instructions have completed, and the faults that they deferred are delivered (R376). -/
def waveMwait (c : Ctx) : M Unit := do
  let t ← teamM c.lead
  let s ← get
  if s.tileOps.any (fun o => o.launch == t.launch && o.team == t.id) || !(s.tilesStoring t []).isEmpty
      || s.fibres.any (fun f => t.owns f.id.crew && f.dues.any (fun d => d.1.kind == 3)) then waitM .tile

def execTlu (w : Fields) (s : State) : Host.Outcome State Fault Refusal := issue .tlu w (perWave (waveFactor false)) s
def execTchl (w : Fields) (s : State) : Host.Outcome State Fault Refusal := issue .tchl w (perWave (waveFactor true)) s
def execTtrs (w : Fields) (s : State) : Host.Outcome State Fault Refusal := issue .ttrs w (perWave waveTtrs) s
def execTmv (w : Fields) (s : State) : Host.Outcome State Fault Refusal := issue .tmv w (perWave waveTmv) s
def execTpiv (w : Fields) (s : State) : Host.Outcome State Fault Refusal := issue .tpiv w (perWave waveTpiv) s
def execMwait (w : Fields) (s : State) : Host.Outcome State Fault Refusal := issue .mwait w (perWave waveMwait) s

end Sys2Proof.Machine
end

