-- ==== Sys2Proof/Machine/Mark.lean ====
section
/-! DEFINITION. The dictionary mark (12 R246, R247), the unassigned opcode (13 R264) and the fetch that finds no instruction
(12 R236). -/

namespace Sys2Proof.Machine

/-- The opcode's meaning for an entry of the dictionary: the meaning that the word has at a whole instruction. -/
def execEntry (op : Op) (w : Fields) (s : State) : Host.Outcome State Fault Refusal :=
  match op with
  | .nop => execNop w s
  | .bra => execBra w s
  | .brx => execBrx w s
  | .call => execCall w s
  | .callx => execCallx w s
  | .ret => execRet w s
  | .loop => execLoop w s
  | .meet => execMeet w s
  | .voteany => execVoteany w s
  | .voteall => execVoteall w s
  | .ballot => execBallot w s
  | .yield => execYield w s
  | .rgn => execRgn w s
  | .trap => execTrap w s
  | .bkpt => execBkpt w s
  | .jtab => execJtab w s
  | .fork => execFork w s
  | .endF => execEnd w s
  | .spawn => execSpawn w s
  | .spawnt => execSpawnt w s
  | .trng => execTrng w s
  | .acq => execAcq w s
  | .shed => execShed w s
  | .bar => execBar w s
  | .bara => execBara w s
  | .barw => execBarw w s
  | .bari => execBari w s
  | .barx => execBarx w s
  | .gbar => execGbar w s
  | .waitv => execWaitv w s
  | .qstat => execQstat w s
  | .iadd => execIadd w s
  | .isub => execIsub w s
  | .iadc => execIadc w s
  | .isbc => execIsbc w s
  | .imul => execImul w s
  | .imulh => execImulh w s
  | .imad => execImad w s
  | .imadw => execImadw w s
  | .idiv => execIdiv w s
  | .irem => execIrem w s
  | .imin => execImin w s
  | .imax => execImax w s
  | .iabs => execIabs w s
  | .idp4 => execIdp4 w s
  | .lea => execLea w s
  | .idp2 => execIdp2 w s
  | .andB => execAnd w s
  | .orB => execOr w s
  | .xorB => execXor w s
  | .tern => execTern w s
  | .shl => execShl w s
  | .shr => execShr w s
  | .sar => execSar w s
  | .rotl => execRotl w s
  | .bfx => execBfx w s
  | .bfi => execBfi w s
  | .brev => execBrev w s
  | .popc => execPopc w s
  | .clz => execClz w s
  | .ffs => execFfs w s
  | .bsel => execBsel w s
  | .bext => execBext w s
  | .icmp => execIcmp w s
  | .fcmp => execFcmp w s
  | .sel => execSel w s
  | .mov => execMov w s
  | .gets => execGets w s
  | .sets => execSets w s
  | .shfli => execShfli w s
  | .shflu => execShflu w s
  | .shfld => execShfld w s
  | .shflx => execShflx w s
  | .wred => execWred w s
  | .wscan => execWscan w s
  | .fwred => execFwred w s
  | .nzcnt => execNzcnt w s
  | .nzmap => execNzmap w s
  | .matchL => execMatch w s
  | .fadd => execFadd w s
  | .fsub => execFsub w s
  | .fmul => execFmul w s
  | .ffma => execFfma w s
  | .fmin => execFmin w s
  | .fmax => execFmax w s
  | .fdiv => execFdiv w s
  | .fsqrt => execFsqrt w s
  | .frcp => execFrcp w s
  | .frsq => execFrsq w s
  | .fexp2 => execFexp2 w s
  | .flog2 => execFlog2 w s
  | .ftanh => execFtanh w s
  | .frnd => execFrnd w s
  | .fclass => execFclass w s
  | .fscale => execFscale w s
  | .hadd2 => execHadd2 w s
  | .hsub2 => execHsub2 w s
  | .hmul2 => execHmul2 w s
  | .hfma2 => execHfma2 w s
  | .hmin2 => execHmin2 w s
  | .hmax2 => execHmax2 w s
  | .hdot2 => execHdot2 w s
  | .hexp2 => execHexp2 w s
  | .hcmp2 => execHcmp2 w s
  | .htanh2 => execHtanh2 w s
  | .hrcp2 => execHrcp2 w s
  | .hrsq2 => execHrsq2 w s
  | .cvtf => execCvtf w s
  | .i2f => execI2f w s
  | .f2i => execF2i w s
  | .ixt => execIxt w s
  | .pk8 => execPk8 w s
  | .upk8 => execUpk8 w s
  | .qblk => execQblk w s
  | .dqblk => execDqblk w s
  | .cbenc => execCbenc w s
  | .cbdec => execCbdec w s
  | .cbld => execCbld w s
  | .sppk => execSppk w s
  | .spupk => execSpupk w s
  | .srseed => execSrseed w s
  | .pk4 => execPk4 w s
  | .upk4 => execUpk4 w s
  | .ld => execLd w s
  | .st => execSt w s
  | .lda => execLda w s
  | .stl => execStl w s
  | .lds => execLds w s
  | .sts => execSts w s
  | .ldx => execLdx w s
  | .stx => execStx w s
  | .ldfe => execLdfe w s
  | .stfe => execStfe w s
  | .ldc => execLdc w s
  | .rld => execRld w s
  | .pref => execPref w s
  | .cwb => execCwb w s
  | .cinv => execCinv w s
  | .acqp => execAcqp w s
  | .glds => execGlds w s
  | .isect => execIsect w s
  | .merge => execMerge w s
  | .compact => execCompact w s
  | .expand => execExpand w s
  | .tcopy => execTcopy w s
  | .icopy => execIcopy w s
  | .hdef => execHdef w s
  | .hwait => execHwait w s
  | .hset => execHset w s
  | .hstat => execHstat w s
  | .segr => execSegr w s
  | .bsrch => execBsrch w s
  | .atom => execAtom w s
  | .atomo => execAtomo w s
  | .red => execRed w s
  | .cas => execCas w s
  | .caso => execCaso w s
  | .fred => execFred w s
  | .fredo => execFredo w s
  | .fatom => execFatom w s
  | .fatomo => execFatomo w s
  | .atoms => execAtoms w s
  | .freds => execFreds w s
  | .aflush => execAflush w s
  | .cass => execCass w s
  | .fence => execFence w s
  | .dfence => execDfence w s
  | .txb => execTxb w s
  | .txe => execTxe w s
  | .txa => execTxa w s
  | .txo => execTxo w s
  | .txoe => execTxoe w s
  | .txst => execTxst w s
  | .ldnt => execLdnt w s
  | .tcfg => execTcfg w s
  | .tld => execTld w s
  | .tst => execTst w s
  | .tzero => execTzero w s
  | .tmovr => execTmovr w s
  | .tmovw => execTmovw w s
  | .tcb => execTcb w s
  | .ttrn => execTtrn w s
  | .tscal => execTscal w s
  | .tadd => execTadd w s
  | .tred => execTred w s
  | .tnz => execTnz w s
  | .mma => execMma w s
  | .mmas => execMmas w s
  | .mmag => execMmag w s
  | .mmai => execMmai w s
  | .tlu => execTlu w s
  | .tchl => execTchl w s
  | .ttrs => execTtrs w s
  | .tmv => execTmv w s
  | .mwait => execMwait w s
  | .mmaq => execMmaq w s
  | .tpiv => execTpiv w s
  | .nbin => execNbin w s
  | .npair => execNpair w s
  | .nstat => execNstat w s
  | .ncfg => execNcfg w s
  | .hprobe => execHprobe w s
  | .hins => execHins w s
  | .hdel => execHdel w s
  | .hreh => execHreh w s
  | .hcfg => execHcfg w s
  | .hqry => execHqry w s
  | .svopen => execSvopen w s
  | .svmark => execSvmark w s
  | .svclose => execSvclose w s
  | .svqry => execSvqry w s
  | .nfix => execNfix w s
  | .svc => execSvc w s
  | .eret => execEret w s
  | .getp => execGetp w s
  | .setp => execSetp w s
  | .tlbi => execTlbi w s
  | .l2wb => execL2wb w s
  | .vhold => execVhold w s
  | .harv => execHarv w s
  | .ctxs => execCtxs w s
  | .ctxr => execCtxr w s
  | .migr => execMigr w s
  | .hnot => execHnot w s

/-- The entry a mark names: (low byte AND 3) × 256 + high byte. -/
def markIndex (e : BitVec 2) (x : BitVec 8) : Nat := e.toNat * 256 + x.toNat

/-- The 96 bits of an entry of the object that the issuing wave executes. -/
def State.entryAt (s : State) (i : Nat) : Option (BitVec 96) := do
  let wv ← s.cur.bind s.wave?
  let f ← (s.waveFibres wv).head?
  let o ← s.object? f.obj
  o.dict[i]?

/-- Executes the entry as if it stood at the mark; its fall-through is PC + 2 (`State.ilen`). -/
def execDictionaryMark (e : BitVec 2) (x : BitVec 8) (s : State) : Host.Outcome State Fault Refusal :=
  match s.entryAt (markIndex e x) with
  | none => failIssue insnDictBad s
  | some d =>
    let n := d.toNat
    let w := Fields.ofNat n
    if isMarkByte (BitVec.ofNat 8 n) || w.rsv != 0 then failIssue insnDictBad s
    else match Op.ofCode (n % 256) with
      | some op => execEntry op w { s with ilen := 2 }
      | none => failIssue insnIllegal s

def execUnassignedOpcode (_ : BitVec 8) (_ : Fields) (s : State) : Host.Outcome State Fault Refusal := failIssue insnIllegal s

def execOddOrOutOfCodeFetch (s : State) : Host.Outcome State Fault Refusal := failIssue insnPcRange s

end Sys2Proof.Machine
end

