-- ==== Sys2Proof/Machine/Arrive.lean ====
section
/-! DEFINITION. Events at waves and teams: results that arrive, waits that end, barriers, ACQ and SHED, tile instructions that
complete, the irrevocable token, walks (12 R248; 08 R185; 14 R290, R293; 01 R30, R31; 18 R375, R376; 06 R162; 28 R471). An event
that is not enabled changes nothing. -/

namespace Sys2Proof.Machine

/-- The names that the part's own accesses carry. -/
def isWalker (i : FibreId) : Bool :=
  match i.crew with
  | .item 0 _ 99 => true
  | _ => false

/-- Answers to the part's own accesses are used up. -/
def State.dropAnswers (s : State) : State :=
  { s with fwds := s.fwds.filter (fun r => r.posted || (r.reply.isNone && !r.dead) || !isWalker r.fibre) }

/-- Whether an access of the part itself has waited 100 µs for a page under migration (28 R471). -/
def State.walkOver (s : State) (k : Walker) : Bool := s.walkers.any (fun w => w.1 == k && w.2 + 10000 ≤ s.rtime)

/-- It waits for one, since now if not before; or it waits no longer. -/
def State.walkNote (s : State) (k : Walker) (waits : Bool) : State :=
  if !waits then { s with walkers := s.walkers.filter (fun w => w.1 != k) }
  else if s.walkers.any (fun w => w.1 == k) then s
  else { s with walkers := s.walkers ++ [(k, s.rtime)] }

/-- An effect of the part itself: it comes about whole, or not at all while something it needs is missing. -/
def State.attempt (s : State) (x : M Unit) : State :=
  match x.run s with
  | .ok (_, t) => t.dropAnswers.wake
  | .error (.wait _ post) => s.sendAll post
  | .error _ => s

/-- On whose behalf a core's write-backs and a die's units act. -/
def coreWho (s : State) (core launch : Nat) : Who where
  core := core
  queue := ((s.launch? launch).map Launch.queue).getD 0
  launch := launch
  fibre := walkerId core
  pc := 0
  user := none

/-- Whether stores of a launch's items that the part ended are still to be written back from a core. -/
def State.owes (s : State) (launch : Nat) : Bool := s.cores.any (fun c => c.owed.contains launch)

/-- An item that the part ends releases at VEIN scope, as END does (04 R119, R125, R126). -/
def payOwed (launch : Nat) : M Unit := do
  let s ← get
  if s.owes launch then
    forM_ ((List.range s.cores.length).filter (fun k => (s.core k).owed.contains launch)) (fun k => do
      let s ← get
      forM_ (s.l1Cores k) (fun c => wbCore (coreWho s k launch) c)
      modify (fun s => s.setCore k (fun c => { c with owed := c.owed.filter (fun l => l != launch) })))

/-! ### The records of spilled items (08 R197), and time -/

/-- RDRANGE and WRRANGE: the first granule, the count; 0 for empty. -/
def Range.word (r : Range) : Nat := if r.count == 0 then 0 else r.first % 2 ^ 43 + 2 ^ 43 * (r.count % 2 ^ 21)

/-- The 48 bytes of an item's record. -/
def Item.record (x : Item) : List Byte :=
  leBytes 4 x.pcoff.toNat ++ leBytes 4 x.aseq.toNat ++ x.arg.flatMap (fun v => leBytes 4 v.toNat)
  ++ leBytes 8 x.rd.word ++ leBytes 8 x.wr.word ++ leBytes 8 x.spawner.toNat

/-- A spilled item's record goes to a place of its launch's sump, if one is free: the lowest, behind the first 4,096 bytes. It waits
where memory makes it wait; where its page is not there, the part alone holds it [67]. -/
def State.layRecord (s : State) (p : Nat × Item) : State :=
  match s.launch? p.1 with
  | none => s
  | some l =>
    match (List.range l.sump.length).find? (fun k => k < l.sumpSize && !l.sump.any (fun y => y.slot == some k)) with
    | none => s
    | some k =>
      let placed := fun (t : State) => { t with launches := t.launches.map (fun (m : Launch) => if m.id == l.id then
        { m with sump := m.sump.map (fun y => if y.id == p.2.id then { y with slot := some k } else y) } else m) }
      match (storeBytes (coreWho s (32 * p.2.vein) l.id) (l.sumpBase + BitVec.ofNat 64 (4096 + 48 * k)) p.2.record .engine).run s with
      | .ok (_, t) => placed t.dropAnswers
      | .error (.wait _ post) => s.sendAll post
      | .error _ => placed s

/-- The records of items that have spilled and that no place of the sump holds yet. -/
def State.laySump (s : State) : State :=
  (s.launches.flatMap (fun (l : Launch) => (l.sump.filter (fun (x : Item) => x.slot.isNone)).map (fun x => (l.id, x)))).foldl State.layRecord s

/-- Time passes before a step, on the clock of each die as throttling has it (02 R65, R66; 32 R518): how much is open [3], [4]. Slices that
hold more lines than they have give some up (00 R2) [12], and what has spilled is written to the sump (08 R197) [67]; neither touches a team. -/
def State.tick (s : State) : State :=
  let k := s.freeCtr
  let ps := Config.elapsed k
  let run := fun (d : Nat) => s.clk.parts.getD d 0 + ps * s.clk.mhz.getD d 0
  let cyc := fun (d : Nat) => run d / 1000000
  { s.trim.laySump with
    freeCtr := k + 1
    clk := { s.clk with rtime := s.clk.rtime + (s.clk.part + ps) / 10000, part := (s.clk.part + ps) % 10000, begun := s.clk.rtime
                        cycles := ((List.range s.clk.cycles.length).zip s.clk.cycles).map (fun (d, n) => n + cyc d)
                        parts := (List.range s.clk.parts.length).map (fun d => run d % 1000000) }
    teams := s.teams.map (fun t => if s.counts t then { t with spent := t.spent + cyc (dieOf t.core) } else t) }

/-! ### Results (12 R248; 16 R322) -/

/-- The k-th pending destination of a fibre written, if its value has come. -/
def Fibre.deliverPend (f : Fibre) (k : Nat) : Fibre :=
  match f.pend[k]? with
  | some p => if p.ordered.isSome then f else { f.writePend p with pend := f.pend.eraseIdx k }
  | none => f

/-- Whether a crew is on its core: its gang is placed, or it runs items. The registers of another one are in its image (02 R63). -/
def State.onCore (s : State) (c : CrewId) : Bool :=
  match c with
  | .team l t _ => ((s.gang? l (s.gangOf l t)).map (fun g => g.state == .placed || g.state == .started)).getD false
  | .item .. => true

/-- LONG_RESULT_WRITE: of the fibre `fibre`, the pending destination `choice`. -/
def execLongResultWrite (s : State) : Host.Outcome State Fault Refusal :=
  match s.fibre? s.ev.fibre with
  | some f => if s.onCore f.id.crew then .next (s.setFibre (f.deliverPend s.ev.choice)).wake else .next s
  | none => .next s

/-! ### Waits that issue their instruction again [9] -/

/-- The instruction that a waiting wave issues again, when the wave waits for the reason given. -/
def State.again (s : State) (wave : Nat) (why : Wait) (run : Instr → State → Host.Outcome State Fault Refusal) :
    Host.Outcome State Fault Refusal :=
  match s.wave? wave with
  | none => .next s
  | some w =>
    if w.wait != some why || !s.running w || s.inRuntime w || (s.waveFibres w).isEmpty then .next s
    else
      let (i, n) := s.fetch w
      match run i { s with cur := some wave, ilen := n } with
      | .next t => .next { t with cur := none }
      | x => x

/-- A wave's lanes whose data has arrived. -/
def State.arrive (s : State) (wave : Nat) (lanes : Word) : State :=
  match s.wave? wave with
  | some w => if w.wait == some .gather then s.setWave { w with arrived := w.arrived ||| lanes, stalled := false } else s
  | none => s

/-- The gather issued again by what has arrived. -/
def runGlds (i : Instr) (s : State) : Host.Outcome State Fault Refusal :=
  match i with
  | .glds w => execGlds w s
  | .dictionaryMark e x => execDictionaryMark e x s
  | _ => .next s

/-- GLDS_LANE_ARRIVAL: of the wave `wave`, the lanes `lanes` (08 R185). -/
def execGldsLaneArrival (s : State) : Host.Outcome State Fault Refusal :=
  (s.arrive s.ev.wave s.ev.lanes).again s.ev.wave .gather runGlds

def runWaitv (i : Instr) (s : State) : Host.Outcome State Fault Refusal :=
  match i with
  | .waitv w => execWaitv w s
  | .dictionaryMark e x => execDictionaryMark e x s
  | _ => .next s

/-- WAITV_SATISFIED: the wave `wave` reads its words again (14 R293). -/
def execWaitvSatisfied (s : State) : Host.Outcome State Fault Refusal := s.again s.ev.wave .value runWaitv

def runOpen (i : Instr) (s : State) : Host.Outcome State Fault Refusal :=
  match i with
  | .txb w => execTxb w s
  | .txo w => execTxo w s
  | .dictionaryMark e x => execDictionaryMark e x s
  | _ => .next s

/-- IRREV_TOKEN_GRANT: the wave `wave`, which waits for its vein's token, asks for it again and opens when it has it (06 R162). -/
def execIrrevTokenGrant (s : State) : Host.Outcome State Fault Refusal := s.again s.ev.wave .token runOpen

/-! ### Barriers (14 R290; 04 R109, R110) -/

/-- Waves of one crew and home wave that stand at one instruction, put together in order. -/
def barGroups (s : State) : List Wave → List (List Wave) → List (List Wave)
  | [], acc => acc
  | w :: ws, acc =>
    let same := fun (v : Wave) => v.crew == w.crew && v.home == w.home && s.meetPoint v == s.meetPoint w
    let acc := if acc.any (fun g => g.any same) then acc.map (fun g => if g.any same then g ++ [w] else g) else acc ++ [[w]]
    barGroups s ws acc

/-- Waves at a barrier go on, merged by home wave and PC. -/
def State.pass (s : State) (ws : List Wave) : State := (barGroups s ws []).foldl State.merge s

/-- Whether a fibre of the waves has a store that is not acknowledged: the barrier's release waits for it (04 R127). -/
def State.openStores (s : State) (ws : List Wave) : Bool := ws.any (fun w => (s.waveFibres w).any (fun f => s.storesOpen f.id))

/-- A team's waves at BAR when the barrier is whole. -/
def State.barReady (s : State) (launch team : Nat) : Option (List Wave) :=
  match s.teamAt launch team [.bar, .gbar] with
  | some ws => if ws.all (fun w => w.wait == some .bar) && !s.openStores ws then some ws else none
  | none => none

/-- The teams of a gang that are placed. -/
def State.gangTeams (s : State) (launch gang : Nat) : List Team :=
  s.teams.filter (fun t => t.launch == launch && s.gangOf launch t.id == gang)

/-- A gang's waves at GBAR when the barrier is whole: a team whose fibres have all ended counts as present. -/
def State.gbarReady (s : State) (launch gang : Nat) : Option (List Wave) :=
  let live := (s.gangTeams launch gang).filter (fun t => !(s.teamFibres launch t.id).isEmpty)
  let wss := live.map (fun t => s.teamAt launch t.id [.bar, .gbar])
  let ws := (wss.map (fun o => o.getD [])).flatten
  if !live.isEmpty && wss.all Option.isSome && ws.all (fun w => w.wait == some .gbar) && !s.openStores ws then some ws else none

/-- The cores of a gang write back and invalidate, when its cluster is not fused (04 R110). -/
def gangVisible (launch : Nat) (cores : List Nat) : M Unit := do
  let s ← get
  forM_ (cores.filter (fun k => !s.fusedAt k)) (fun k => wbCore (coreWho s k launch) k)
  modify (fun s => (cores.filter (fun k => !s.fusedAt k)).foldl State.invalidateCore s)

/-- BARRIER_RELEASE: of the team `team`, or of the gang `gang` where `gangWide`, of the launch `launch`. -/
def execBarrierRelease (s : State) : Host.Outcome State Fault Refusal :=
  let e := s.ev
  if e.gangWide then
    match s.gbarReady e.launch e.gang with
    | some ws =>
      let cores := ((s.gangTeams e.launch e.gang).map Team.core).eraseDups
      .next (s.attempt (do
        gangVisible e.launch cores
        modify (fun s => s.pass ws)))
    | none => .next s
  else
    match s.barReady e.launch e.team with
    | some ws => .next (s.pass ws).wake
    | none => .next s

/-! ### ACQ and SHED (01 R30, R31; 02 R55) -/

/-- Register words and fibres that a quadrant's resident crews hold, but for one crew (01 R22). -/
def State.quadHeld (s : State) (core quad : Nat) (but : CrewId) : Nat := (s.quadUse core quad but).foldl (fun n u => n + u.2) 0

/-- Teams resident on a core. -/
def State.coreTeams (s : State) (core : Nat) : List Team := s.teams.filter (fun t => t.core == core)

/-- Scratchpad bytes and tiles that a team holds, the reserved ones included. -/
def State.spHeld (s : State) (t : Team) : Nat :=
  if s.reserves t then (((s.launch? t.launch).bind (fun l => s.object? l.obj)).map Object.scratch).getD 0 else t.spSize
def State.tilesHeld (s : State) (t : Team) : Nat :=
  if s.reserves t then (((s.launch? t.launch).bind (fun l => s.object? l.obj)).map Object.tiles).getD 0
  else (t.tiles.filter Tile.allot).length

/-- Whether a team's full allotment is free on its core (02 R55). -/
def State.canGrant (s : State) (t : Team) (o : Object) : Bool :=
  let others := (s.coreTeams t.core).filter (fun u => !(u.launch == t.launch && u.id == t.id))
  ((List.range t.crews.length).zip t.crews).all (fun (k, p) =>
    s.quadHeld t.core p.quad (.team t.launch t.id k) + o.fibres * o.wfull ≤ 32768)
  && (others.map s.spHeld).sum + o.scratch ≤ 262144
  && (others.map s.tilesHeld).sum + o.tiles ≤ 16

/-- The team at the head of a core's order whose allotment is free. -/
def State.acqHead (s : State) (core : Nat) : Option (Nat × Nat) :=
  match (s.core core).acqs with
  | (l, t) :: _ => match s.team? l t, (s.launch? l).bind (fun m => s.object? m.obj) with
    | some u, some o => if s.canGrant u o then some (l, t) else none
    | _, _ => none
  | [] => none

/-- The instructions that may wait for a sibling's grant. -/
def runSibling (i : Instr) (s : State) : Host.Outcome State Fault Refusal :=
  match i with
  | .ldx w => execLdx w s
  | .stx w => execStx w s
  | .bari w => execBari w s
  | .bara w => execBara w s
  | .barw w => execBarw w s
  | .barx w => execBarx w s
  | .dictionaryMark e x => execDictionaryMark e x s
  | _ => .next s

/-- Accesses that wait for a sibling's grant are performed at it, wave by wave (01 R36). -/
def State.siblingsGo (s : State) : List Nat → State
  | [] => s
  | w :: ws =>
    match s.again w .sibling runSibling with
    | .next t => t.siblingsGo ws
    | _ => s.siblingsGo ws

/-- ACQ_GRANT: the head request of the core `core`. -/
def execAcqGrant (s : State) : Host.Outcome State Fault Refusal :=
  match s.acqHead s.ev.core with
  | some (l, t) =>
    let s := s.grant l t
    .next (s.siblingsGo ((s.waves.filter (fun w => w.wait == some .sibling && w.crew.launch == l)).map Wave.id)).wake
  | none => .next s

/-- Whether what a SHED returns is idle (01 R31). -/
def State.shedIdle (s : State) (t : Team) (tm hm : Word) : Bool :=
  let using_ := (s.tileOps.filter (fun o => o.launch == t.launch && o.team == t.id)).flatMap (fun o => o.reads ++ o.writes.map Prod.fst)
  (List.range 16).all (fun k => !(tm.getLsbD k && using_.contains k))
  && (List.range 32).all (fun k => !(hm.getLsbD k && (t.handle k).busy))

/-- What a team has after a SHED takes effect. -/
def Team.doShed (t : Team) (wave keep : Nat) (tm hm : Word) : Team :=
  let gives := keep < t.spSize || (List.range 16).any (fun k => tm.getLsbD k && ((t.tiles[k]?).map Tile.allot).getD false)
    || (List.range 32).any (fun k => hm.getLsbD k && (t.handle k).allot)
  { t with
    spSize := min keep t.spSize
    spShed := t.spShed || keep < t.spSize
    sp := t.sp.filter (fun c => c.1 < keep)
    fulls := t.fulls.filter (fun g => g * 16 < keep)
    tiles := (List.range t.tiles.length).zip t.tiles |>.map (fun (k, x) => if tm.getLsbD k then { x with allot := false } else x)
    handles := (List.range t.handles.length).zip t.handles |>.map (fun (k, x) => if hm.getLsbD k then { x with allot := false } else x)
    shed := t.shed || (gives && t.acq == .granted)
    sheds := t.sheds.filter (fun r => r.1 != wave)
    shedDone := wave :: t.shedDone.filter (fun i => i != wave) }

/-- SHED_EFFECT: the request of the wave `wave` of the team `team` of the launch `launch`. -/
def execShedEffect (s : State) : Host.Outcome State Fault Refusal :=
  match s.team? s.ev.launch s.ev.team with
  | none => .next s
  | some t => match t.sheds.find? (fun r => r.1 == s.ev.wave) with
    | some (w, keep, tm, hm) => if s.shedIdle t tm hm then .next (s.setTeam (t.doShed w keep tm hm)).wake else .next s
    | none => .next s

/-! ### Tile instructions (18 R374 to R376) -/

/-- An instruction completes: its tiles, its flags, its deferred fault. -/
def State.completeTile (s : State) (o : TileOp) : State :=
  let s := match s.team? o.launch o.team with
    | some t => s.setTeam { t with tiles := o.writes.foldl (fun (ts : List Tile) (p : Nat × Tile) =>
        ts.set p.1 { p.2 with poison := (p.2.poison ++ (ts.getD p.1 {}).poisonFrom p.2.size).eraseDups }) t.tiles }
    | none => s
  let due := o.fault.map (fun d => ({ d with kind := 3, info0 := o.pc }, Resume.atPc))
  { s with
    tileOps := s.tileOps.filter (fun p => p.id != o.id)
    fibres := s.fibres.map (fun (f : Fibre) => if o.fibres.contains f.id then
        { f with fpstat := fpstatOr f.fpstat o.flags, dues := f.dues ++ due.toList } else f) }

/-- MATRIX_OP_COMPLETE: the instruction in flight `op`. -/
def execMatrixOpComplete (s : State) : Host.Outcome State Fault Refusal :=
  match s.tileOps.find? (fun o => o.id == s.ev.op) with
  | some o => .next (s.completeTile o).wake
  | none => .next s

/-- DEFERRED_TILE_FAULT: the wave `wave` takes the faults that are due instead of issuing. -/
def execDeferredTileFault (s : State) : Host.Outcome State Fault Refusal :=
  match s.wave? s.ev.wave with
  | none => .next s
  | some w =>
    match s.waveFibres w with
    | [] => .next s
    | f :: fs =>
      if s.ready w && (f :: fs).any (fun g => (g.dues.head?.map (fun d => d.1.kind == 3)).getD false)
        && ((s.opAt w).map (fun op => !(s.duesAt op w.crew.launch (f :: fs) f.pc).isEmpty)).getD true
      then .next (failWave insnIllegal s w (f :: fs) f) else .next s

/-! ### Walks (28 R471) -/

/-- The fibres of a wave end their wait for a page with WALKWAIT when they try again. -/
def State.timeoutWalk (s : State) (w : Wave) : State :=
  let s := s.setFibres ((s.waveFibres w).map (fun f => { f with walkTimeout := true }))
  s.setWave { w with stalled := false }

/-- WALK_WAIT_TIMEOUT: the wave `wave` has waited 100 µs. -/
def execWalkWaitTimeout (s : State) : Host.Outcome State Fault Refusal :=
  match s.wave? s.ev.wave with
  | some w => if w.wait == some .walk && w.since + 10000 ≤ s.rtime then .next (s.timeoutWalk w) else .next s
  | none => .next s

/-- PAGE_WALK: a walk for the page of `val` in the space of the queue `queue`, for a core `core`; what it installs stays, and a
fault of it is the access's own [13]. -/
def execPageWalk (s : State) : Host.Outcome State Fault Refusal :=
  let who : Who := { coreWho s s.ev.core 0 with queue := s.ev.queue }
  if s.ev.val.toNat / 2 ^ 50 != 0 then .next s
  else .next (s.attempt (do
    let _ ← walk who s.ev.val s.ev.write
    pure ()))

end Sys2Proof.Machine
end

