-- ==== Sys2Proof/Machine/Rounds.lean ====
section
/-! DEFINITION. Ordered rounds (07 R175 to R183): entries that arrive at their mills, the drainers' markers, and the close of a
round. -/

namespace Sys2Proof.Machine

/-- Whether a gang of a launch has been placed. -/
def Launch.wasPlaced (l : Launch) (gang : Nat) : Bool := gang < l.nextGang || l.early.contains gang

/-- Whether a team has ended a round: every live fibre has executed its AFLUSH, or the team has finished; a team not yet placed has
not (07 R176). -/
def State.teamEnded (s : State) (l : Launch) (team round : Nat) : Bool :=
  match s.team? l.id team with
  | some _ => (s.teamFibres l.id team).all (fun f => round < f.round)
  | none => l.wasPlaced (team / l.gang)

/-- The drainers of a launch: its logical cores, or its teams (07 R178). -/
def Launch.drainers (l : Launch) : Nat := if l.det then l.cores else l.nteams

/-- The teams of a drainer. -/
def Launch.drainerTeams (l : Launch) (d : Nat) : List Nat :=
  if l.det then (List.range l.nteams).filter (fun t => t % l.cores == d) else [d]

/-- Markers that a drainer has sent. -/
def Launch.markersOf (l : Launch) (d : Nat) : Nat := ((l.markers.find? (fun p => p.1 == d)).map Prod.snd).getD 0

/-- Whether a drainer may send the marker of the open round. -/
def State.markerDue (s : State) (l : Launch) (d : Nat) : Bool :=
  d < l.drainers && l.markersOf d ≤ l.closed && (l.drainerTeams d).all (fun t => s.teamEnded l t l.closed)

/-- A drainer's marker for the open round is sent. -/
def Launch.sendMarker (l : Launch) (d : Nat) : Launch :=
  { l with markers := (d, l.closed + 1) :: l.markers.filter (fun p => p.1 != d) }

/-- CART_ENTRY_ARRIVAL: the entry `op` reaches its mill, which holds or refuses it; until the round closes neither shows. -/
def execCartEntryArrival (s : State) : Host.Outcome State Fault Refusal :=
  .next { s with entries := s.entries.map (fun e => if e.id == s.ev.op then { e with arrived := true } else e) }

/-- DRAINER_MARKER: of the drainer `team` of the launch `launch`. -/
def execDrainerMarker (s : State) : Host.Outcome State Fault Refusal :=
  match s.launch? s.ev.launch with
  | some l => if s.markerDue l s.ev.team then .next (s.setLaunch (l.sendMarker s.ev.team)) else .next s
  | none => .next s

/-! ### The close of a round (07 R181 to R183) -/

/-- The entries of the open round of a launch. -/
def State.roundEntries (s : State) (l : Launch) : List Entry := s.entries.filter (fun e => e.launch == l.id && e.round == l.closed)

/-- Whether every marker of the open round has arrived, and every entry with it. -/
def State.roundReady (s : State) (l : Launch) : Bool :=
  (l.markers.filter (fun p => l.closed < p.2)).length == l.drainers && (s.roundEntries l).all Entry.arrived

/-- An entry put into an order. -/
def insertEntry (before : Entry → Entry → Bool) (e : Entry) : List Entry → List Entry
  | [] => [e]
  | x :: xs => if before e x then e :: x :: xs else x :: insertEntry before e xs

/-- Entries in an order: of two with equal keys the one issued later stands first [102]. -/
def sortEntries (before : Entry → Entry → Bool) (es : List Entry) : List Entry :=
  es.foldr (insertEntry before) []

/-- The order in which a line's entries are applied: key order for up to 16, else drainer by drainer (07 R181, R182). -/
def lineOrder (es : List Entry) : List Entry :=
  let byKey := fun (a b : Entry) => decide (a.key.toNat < b.key.toNat)
  let fallback := fun (a b : Entry) => a.drainer < b.drainer || (a.drainer == b.drainer && byKey a b)
  if es.length ≤ 16 then sortEntries byKey es else sortEntries fallback es

/-- One entry applied at its mill: the old value; a write is granted its page (28 R473). -/
def applyEntry (who : Who) (e : Entry) : M Nat := do
  let k := e.pa % 64
  let d ← l2Read who (e.pa / 64) e.va
  let old := lineBytes d k e.op.bytes
  match e.op.new old with
  | some v => do
    l2Store who (e.pa / 64) (byteMask k e.op.bytes) (lineOf k e.op.bytes v)
    modify (fun s => { s with mem := s.mem.grant e.leaf (pageOf e.va) })
  | none => pure ()
  pure old

/-- The entries of one line applied in their order; where the line is poisoned, that entry and the later ones are not. -/
def applyLine (who : Who) : List Entry → M (List (Entry × Option Nat))
  | [] => pure []
  | e :: es => do
    let s ← get
    match (applyEntry who e).run s with
    | .ok (v, t) => do
      set t
      let r ← applyLine who es
      pure ((e, some v) :: r)
    | .error (.trap _) => pure ((e :: es).map (fun x => (x, none)))
    | .error x => throw x

/-- What a lane with a destination receives, and the fault that a poisoned application leaves (07 R183). Of two such faults of a fibre in
one round the second is taken at its next issue, inside the runtime [105]. -/
def State.giveResult (s : State) (p : Entry × Option Nat) : State :=
  let (e, v) := p
  if !e.dest then s
  else match s.fibre? e.fibre with
    | none => s
    | some f =>
      let vals := words (e.op.bytes / 4) (v.getD 0)
      let dues := if v.isNone then [({ cause := sysUncorr, kind := 2, addr := e.va, info0 := e.pc : Due }, Resume.atPc)] else []
      let mine := fun (p : Pend) => p.ordered == some e.id
      s.setFibre { f with dues := f.dues ++ dues
                          pend := f.pend.map (fun p => if mine p then { p with vals := vals, ordered := none } else p) }

/-- The open round of a launch closes. -/
def closeRound (l : Launch) : M Unit := do
  let s ← get
  let es := s.roundEntries l
  let who := coreWho s 0 l.id
  let lines := (es.map (fun e => e.pa / 64)).eraseDups
  let rs ← mapM_ lines (fun n => applyLine who (lineOrder (es.filter (fun e => e.pa / 64 == n))))
  modify (fun s =>
    let s := rs.flatten.foldl State.giveResult s
    let s := { s with entries := s.entries.filter (fun e => !(e.launch == l.id && e.round == l.closed)) }
    s.setLaunch { l with closed := l.closed + 1 })

/-- ROUND_CLOSE: of the launch `launch`. -/
def execRoundClose (s : State) : Host.Outcome State Fault Refusal :=
  match s.launch? s.ev.launch with
  | some l => if s.roundReady l then .next (s.attempt (closeRound l)) else .next s
  | none => .next s

end Sys2Proof.Machine
end

