-- ==== Sys2Proof/Machine/Remote.lean ====
section
/-! DEFINITION. Forwarded accesses as they arrive, are answered and are refused (03 R93 to R95; 04 R127; 28 R474; 31 R510; 32 R514). -/

namespace Sys2Proof.Machine

/-! ### Messages and masters -/

/-- An agent as this device records it. -/
def State.agent (s : State) (a : Nat) : Agent := s.fabric.agents.getD a {}

/-- Whether a message of an agent is kept: the agent is live and its incarnation is the recorded one (31 R510). -/
def State.accepts (s : State) (a : Nat) (inc : Word) : Bool := (s.agent a).live && (s.agent a).inc == inc

/-- A message dropped and counted, saturating (31 R510, R511). -/
def State.dropMessage (s : State) : State :=
  let d := s.fabric.dropInc
  { s with fabric := { s.fabric with dropInc := if d == 0xFFFFFFFF then d else d + 1 } }

/-- Whether a master is frozen (32 R514). -/
def State.isFrozen (s : State) (m : Nat) : Bool := s.service.frozen.getLsbD m

/-- A violation freezes a master and is recorded in MFREEZE; a frozen master's request is only refused, and so is the one that would leave
no master unfrozen (32 R514, R515) [95]. -/
def State.freeze (s : State) (m addr : Nat) : State :=
  if s.isFrozen m || s.service.frozen ||| BitVec.ofNat 4 (2 ^ m) == BitVec.allOnes 4 then s
  else { s with service := { s.service with
    frozen := s.service.frozen ||| BitVec.ofNat 4 (2 ^ m), lastFrozen := BitVec.ofNat 3 m, frozenAddr := BitVec.ofNat 32 addr } }

/-! ### This device as an owner (03 R93) -/

/-- A forwarded atomic's operation. -/
def peerOp : FwdOp → Option EntryOp
  | .intAtomic op ty v => some (.int op.toNat ty.toNat v)
  | .fpAtomic op rm v => some (.fp op.toNat rm.toNat v)
  | .cas wide cmp new => some (.cas (if wide then 2 else 0) cmp new)
  | _ => none

/-- The access performed at the point of coherence, the home slice. -/
def peerPerform (who : Who) (a : PeerAccess) : M Reply := do
  let view := a.pa ≥ 2 ^ 52
  let pa := a.pa % 2 ^ 52
  let line := lineNo pa view
  let k := pa % 64
  let s ← get
  if (view && (s.mem.regionAt pa).isNone) || k + a.bytes > 64 then pure .nak
  else match a.op with
    | .read => do
      let d ← l2Read who line 0
      pure (.data (BitVec.ofNat 512 (lineBytes d k a.bytes)))
    | .write mask v => do
      l2Store who line (mask <<< k) (v <<< (8 * k))
      pure .ack
    | op => match peerOp op with
      | none => pure .nak
      | some o => do
        let d ← l2Read who line 0
        let old := lineBytes d k o.bytes
        match o.new old with
        | some v => l2Store who line (byteMask k o.bytes) (lineOf k o.bytes v)
        | none => pure ()
        pure (.data (BitVec.ofNat 512 old))

/-- The answer to a forwarded access, and the state after it; none while the line is locked or its vein held. -/
def State.peerAnswer (s : State) (a : PeerAccess) : Option (Reply × State) :=
  if s.isFrozen 2 then some (.frozen, s)
  else if !inDevice (a.pa % 2 ^ 52) a.bytes then some (.frozen, s.freeze 2 a.pa)
  else match (peerPerform (coreWho s 0 0) a).run s with
    | .ok (r, t) => some (r, t)
    | .error (.trap _) => some (.uncorr, s)
    | .error _ => none

/-- FORWARDED_ACCESS_RECEIVE: the access `access`. -/
def execForwardedAccessReceive (s : State) : Host.Outcome State Fault Refusal :=
  let a := s.ev.access
  if !s.fabric.linked then .next s
  else if !s.accepts a.source a.inc then .next s.dropMessage
  else match s.peerAnswer a with
    | some (r, t) => .next (t.send (.reply a.source r)).wake
    | none => .next s

/-! ### This device as an issuer (03 R94; 04 R127) -/

/-- A fibre that waits at BAR or GBAR has a fault to take: its wave issues again (04 R127). -/
def State.rouse (s : State) (i : FibreId) : State :=
  { s with waves := s.waves.map (fun w =>
      if w.crew == i.crew && w.home == i.index / 32 && w.lanes.getLsbD (i.index % 32) && (w.wait == some .bar || w.wait == some .gbar) then
        { w with wait := none, stalled := false } else w) }

/-- The releases that a fibre's stores held back, performed in their order while none of the stores that the first stands behind is out;
a store that a release itself forwards stands before the releases after it. A fault of one is the fibre's delayed fault [65]. -/
def State.releaseHeldFrom (s : State) (i : FibreId) : Nat → State
  | 0 => s
  | n + 1 =>
    match s.fibre? i with
    | none => s
    | some f => match f.held with
      | [] => s
      | h :: hs =>
        if s.lateWaits h then s
        else
          let who : Who := { coreWho s (s.coreOf i.crew) i.crew.launch with fibre := i, pc := h.pc, timeout := s.walkOver (.release i) }
          let x : M Unit := do
            putF { f with held := hs }
            performRelease who h.va h.bytes h.val.toNat h.scope
          match x.run s with
          | .ok (_, t) =>
            let t := t.walkNote (.release i) false
            let new := (t.outstanding i).filter (fun k => !(s.outstanding i).contains k)
            let t := match t.fibre? i with
              | some g => t.setFibre { g with held := g.held.map (fun (r : LateStore) => { r with behind := r.behind ++ new }) }
              | none => t
            t.releaseHeldFrom i n
          | .error (.trap d) =>
            let d : Due := { d with kind := 2, info0 := h.pc, info1 := (hs.head?.map LateStore.pc).getD 0 }
            ((s.setFibre { f with held := [], dues := f.dues ++ [(d, Resume.stores h hs)] }).rouse i).walkNote (.release i) false
          | .error (.wait .walk _) => s.walkNote (.release i) true
          | .error _ => s

def State.releaseHeld (s : State) (i : FibreId) : State :=
  s.releaseHeldFrom i (((s.fibre? i).map (fun f => f.held.length)).getD 0)

/-- Whether two held releases of ended fibres stand in one order: those of one team, or of the items of a core. -/
def LeftRelease.with_ (a b : LeftRelease) : Bool := a.core == b.core && a.launch == b.launch && a.team == b.team

/-- The releases that ended fibres left, as `releaseHeldFrom` performs those of a live one; a fault of one comes to no fibre. -/
def State.releaseLeftFrom (s : State) (stuck : List LeftRelease) : List LeftRelease → State
  | [] => s
  | e :: es =>
    if stuck.any e.with_ || s.lateWaits e.rel then s.releaseLeftFrom (e :: stuck) es
    else
      let crew : CrewId := match e.team with
        | some t => .team e.launch t 0
        | none => .item e.launch e.core 0
      let who : Who := { coreWho s e.core e.launch with fibre := nobody crew, pc := e.rel.pc, timeout := s.walkOver (.left e.core e.launch) }
      let u := { s with left := s.left.erase e }
      match (performRelease who e.rel.va e.rel.bytes e.rel.val.toNat e.rel.scope).run u with
      | .ok (_, t) =>
        let new := (t.outstanding who.fibre).filter (fun k => !(s.outstanding who.fibre).contains k)
        let t := t.walkNote (.left e.core e.launch) false
        let t := { t with left := t.left.map (fun (x : LeftRelease) => if x.with_ e then { x with rel := { x.rel with behind := x.rel.behind ++ new } } else x) }
        t.releaseLeftFrom (if new.isEmpty then stuck else e :: stuck) es
      | .error (.trap _) => (u.walkNote (.left e.core e.launch) false).releaseLeftFrom stuck es
      | .error (.wait .walk _) => (s.walkNote (.left e.core e.launch) true).releaseLeftFrom (e :: stuck) es
      | .error _ => s.releaseLeftFrom (e :: stuck) es

def State.releaseLeft (s : State) : State := s.releaseLeftFrom [] s.left

/-- A forwarded access leaves the list. -/
def State.dropFwd (s : State) (id : Nat) : State := ({ s with fwds := s.fwds.filter (fun r => r.id != id) }).ackFlit id

/-- ACC of a leaf has been read for the directory: the add follows, unless ACC is 255; a refused read leaves the count at 63 (28 R474). -/
def State.accRead (s : State) (r : Fwd) (leaf : Nat) : Reply → State
  | .data v =>
    if (Pte.ofNat (lineBytes v (leaf % 2 ^ 52 % 64) 8)).acc == 255 then s else s.addAcc r.core r.launch leaf (s.mem.countOf leaf)
  | _ => { s with mem := s.mem.setCount leaf 63 }

/-- An answer arrives for an outstanding access: a read or atomic keeps it for its wave, a store is acknowledged. -/
def State.answer (s : State) (r : Fwd) (x : Reply) : State :=
  if r.posted then
    match x with
    | .data _ | .ack => ((s.dropFwd r.id).releaseHeld r.fibre).releaseLeft.wake
    | _ => s
  else if let some leaf := r.acc then (s.dropFwd r.id).accRead r leaf x
  else ({ s with fwds := s.fwds.map (fun (q : Fwd) => if q.id == r.id then { q with reply := some x } else q) }.ackFlit r.id).wake

/-- FORWARDED_RESPONSE: to the access `req`, from its owner, the agent `agent` at incarnation `word`, the answer `reply`. -/
def execForwardedResponse (s : State) : Host.Outcome State Fault Refusal :=
  if !s.fabric.linked then .next s
  else match s.fwds.find? (fun r => r.id == s.ev.req) with
  | none => if s.accepts s.ev.agent s.ev.word then .next (s.ackFlit s.ev.req) else .next s.dropMessage
  | some r =>
    if !s.accepts r.dev s.ev.word then .next s.dropMessage
    else if r.reply.isSome || r.dead then .next s
    else .next (s.answer r s.ev.reply)

/-- The cause of an owner's refusal. -/
def refusalCause : Reply → Cause
  | .frozen => memFrozen
  | .uncorr => sysUncorr
  | _ => memRemoteNak

/-- A forwarded store as it was issued: its bytes are those of its mask (03 R93). -/
def Fwd.stored (r : Fwd) : LateStore :=
  let (n, v) := (match r.op with
    | .write mask v =>
      let bs := setBits mask.toNat 64
      (bs.length, lineBytes v (bs.headD 0) bs.length)
    | _ => (0, 0))
  { pc := r.pc, va := r.va, bytes := n, val := BitVec.ofNat 128 v, scope := 0, id := r.id }

/-- The first of some releases in program order: their names rise. -/
def firstLate (l : List LateStore) : Option LateStore :=
  l.foldl (fun b h => match b with
    | none => some h
    | some g => if h.id < g.id then some h else some g) none

/-- The PC that INFO1 records for a refused store: that of the first release behind it, 0 with none (04 R127). -/
def Fibre.releasePc (f : Fibre) (id : Nat) : Word :=
  ((firstLate (f.late.filter (fun h => h.behind.contains id))).map LateStore.pc).getD 0

/-- What a refused store comes to: an Assay record's fault, the directory's refused add, or the fibre's delayed fault, which cancels the
releases that stand behind it (04 R127); INFO1 has the PC of the first of them [65]. -/
def State.refuseStore (s : State) (r : Fwd) (e : Cause) : State :=
  let s := s.dropFwd r.id
  let s := { s with left := s.left.filter (fun x => !x.rel.behind.contains r.id) }
  if r.assay then s.assayFault r.launch e
  else match s.fibre? r.fibre with
    | some f =>
      let rel := f.held.filter (fun h => h.behind.contains r.id)
      let d : Due := { cause := e, kind := 2, addr := r.va, info0 := r.pc, info1 := f.releasePc r.id }
      let f := { f with held := f.held.filter (fun h => !h.behind.contains r.id), dues := f.dues ++ [(d, .stores r.stored rel)] }
      ((s.setFibre f).rouse f.id).releaseHeld f.id
    | none =>
      match r.op with
      | .intAtomic 0 _ _ => { s with mem := s.mem.setDir (placeNo 2 r.dev r.pa) (fun d => { d with count := 63 }) }
      | _ => s

/-- REMOTE_STORE_REFUSAL: the store `req` is refused with `reply` by the agent `agent` at incarnation `word`, or its owner is dead. -/
def execRemoteStoreRefusal (s : State) : Host.Outcome State Fault Refusal :=
  match s.fwds.find? (fun r => r.id == s.ev.req) with
  | none => if !s.fabric.linked || s.accepts s.ev.agent s.ev.word then .next s else .next s.dropMessage
  | some r =>
    if !r.posted then .next s
    else if r.dead then .next (s.refuseStore r memOwnerDead).releaseLeft.wake
    else if !s.fabric.linked then .next s
    else if !s.accepts r.dev s.ev.word then .next s.dropMessage
    else match s.ev.reply with
      | .data _ | .ack => .next s
      | x => .next (s.refuseStore r (refusalCause x)).releaseLeft.wake

end Sys2Proof.Machine
end

