-- ==== Sys2Proof/Machine/Stream.lean ====
section
/-! DEFINITION. What engine operations do to memory: the copies (17 R355 to R358), ISECT and MERGE (08 R190 to R194). Each works on
behalf of its operation, and a fault of it is a status, not a trap. -/

namespace Sys2Proof.Machine

/-! ### An operation's accesses -/

/-- The name an operation's own forwarded accesses carry. -/
def EngOp.fibre (o : EngOp) : FibreId := ⟨.team o.launch o.team 0, 1024 + o.id⟩

/-- The die whose unit performs an operation: that of the grid or the family it names, else that of the core that issued it (09 R202;
10 R212). -/
def State.dieOfOp (s : State) (o : EngOp) : Nat :=
  let q := s.queueOf o.launch
  if o.kind.isGrid then ((s.grid? q o.a).map Grid.die).getD (dieOf o.core)
  else if o.kind.isFamily then (match s.family? q o.b with
    | some f => if f.state == 0 then dieOf o.core else f.die
    | none => dieOf o.core)
  else dieOf o.core

/-- On whose behalf an operation accesses memory; its walks time out after 100 µs (28 R471). An operation forwarded to another die
acts there. -/
def State.whoEngine (s : State) (o : EngOp) : Who where
  core := if s.dieOfOp o == dieOf o.core then o.core else s.dieOfOp o * 64
  queue := s.queueOf o.launch
  launch := o.launch
  fibre := o.fibre
  pc := 0
  user := none
  engine := true
  timeout := (o.since.map (fun t => decide (t + 10000 ≤ s.rtime))).getD false

/-- An effect whose fault becomes a cause; the effect is then left out. -/
def tryM {α : Type} (x : M α) : M (Except Cause α) := do
  let s ← get
  match x.run s with
  | .ok (v, t) => do
    set t
    pure (.ok v)
  | .error (.trap d) => pure (.error d.cause)
  | .error e => throw e

/-- An engine's read and write of an aligned unit. -/
def engRead (o : EngOp) (va : DWord) (n : Nat) : M Nat := do
  let s ← get
  loadG (s.whoEngine o) va n .engine

def engWrite (o : EngOp) (va : DWord) (n v : Nat) : M Unit := do
  let s ← get
  storeG (s.whoEngine o) va n v .engine

/-! ### Copies (17 R355 to R358) -/

/-- G(k) of row k. -/
def CopyRec.row (r : CopyRec) (idx : List Nat) (indexed : Bool) (k : Nat) : DWord :=
  r.gbase + BitVec.ofInt 64 ((if indexed then idx.getD k 0 else k : Nat) * r.gstride)

def CopyRec.total (r : CopyRec) : Nat := r.rows * r.rowbytes

/-- Where the byte of the stream stands in global memory; a row that is not 4-byte aligned ends the operation there. -/
def copyPlace (o : EngOp) (r : CopyRec) (pos : Nat) : Except Cause DWord :=
  let g := r.row o.idx (o.kind == .icopy) (pos / r.rowbytes)
  if g.toNat % 4 != 0 then .error (memAlign 0) else .ok (g + BitVec.ofNat 64 (pos % r.rowbytes))

/-- Bytes of the stream from a position on, at most n units of 4 bytes; a fault ends them. -/
def copyIn (o : EngOp) (r : CopyRec) : Nat → Nat → M (List Byte × Cause)
  | 0, _ => pure ([], 0)
  | n + 1, pos =>
    if r.total ≤ pos then pure ([], 0)
    else match copyPlace o r pos with
      | .error e => pure ([], e)
      | .ok a => do
        let x ← tryM (engRead o a 4)
        match x with
        | .error e => pure ([], e)
        | .ok v => do
          let (bs, e) ← copyIn o r n (pos + 4)
          pure (leBytes 4 v ++ bs, e)

/-- The source written from a position on: the bytes written in all, and the cause that ended it. -/
def copyOut (o : EngOp) (r : CopyRec) (t : Team) : Nat → Nat → M (Nat × Cause)
  | 0, pos => pure (pos, 0)
  | n + 1, pos =>
    if r.total ≤ pos then pure (pos, 0)
    else match copyPlace o r pos with
      | .error e => pure (pos, e)
      | .ok a =>
        if t.bad (r.spoff + pos) 4 then pure (pos, sysUncorr)
        else do
          let x ← tryM (engWrite o a 4 (t.sp.getN (r.spoff + pos) 4))
          match x with
          | .error e => pure (pos, e)
          | .ok _ => copyOut o r t n (pos + 4)

/-- A store copy whole: its completion record. -/
def copyStore (o : EngOp) (r : CopyRec) (t : Team) : M (List Byte × Cause) := do
  let (n, e) ← copyOut o r t (r.total / 4) 0
  pure (leBytes 4 (n / r.rowbytes) ++ leBytes 4 n ++ leBytes 8 0, e)

/-! ### ISECT and MERGE (08 R190 to R194) -/

/-- A stream and the elements that have been read of it. -/
structure Stream where
  base : DWord
  n : Nat
  read : List (Nat × Nat) := []
deriving DecidableEq, Repr, Inhabited

def Stream.line (t : Stream) (k : Nat) : Nat := (t.base.toNat + 4 * k) / 64
/-- The lowest and highest indices in a line. -/
def Stream.first (t : Stream) (l : Nat) : Nat := (l * 64 - t.base.toNat + 3) / 4
def Stream.last (t : Stream) (l : Nat) : Nat := min (t.n - 1) ((l * 64 + 63 - t.base.toNat) / 4)

/-- What an operation on two streams has so far: the streams and its records. -/
structure Streams where
  a : Stream
  b : Stream
  out : List Byte := []
  /-- An element has been looked at since the last record: the operation had not ended at it (03 R83). -/
  late : Bool := false
deriving DecidableEq, Repr, Inhabited

/-- Work on streams: a cause ends it, and the records written before stay. -/
abbrev SM (α : Type) : Type := ExceptT Cause (StateT Streams M) α

/-- An element under the order check of R193. -/
def readElem (o : EngOp) (second : Bool) (k : Nat) : SM Nat := do
  let w ← (get : StateT Streams M Streams)
  let t := if second then w.b else w.a
  match t.read.find? (fun p => p.1 == k) with
  | some p => do
    (set { w with late := true } : StateT Streams M Unit)
    pure p.2
  | none => do
    let v ← (ExceptT.mk (StateT.lift (tryM (engRead o (t.base + BitVec.ofNat 64 (4 * k)) 4))) : SM Nat)
    if t.read.any (fun p => (p.1 < k && v ≤ p.2) || (k < p.1 && p.2 ≤ v)) then throw (engineC 0 1)
    else do
      let t := { t with read := (k, v) :: t.read }
      (set (if second then { w with b := t, late := true } else { w with a := t, late := true }) : StateT Streams M Unit)
      pure v

/-- A record of 16 bytes; an absent index is all ones. -/
def emit (x : Nat) (i j : Option Nat) (tag : Nat) : SM Unit := do
  let w ← (get : StateT Streams M Streams)
  let r := leBytes 4 x ++ leBytes 4 (i.getD 0xFFFFFFFF) ++ leBytes 4 (j.getD 0xFFFFFFFF) ++ leBytes 4 tag
  (set { w with out := w.out ++ r, late := false } : StateT Streams M Unit)

/-- The doubling probes of Gallop: the line whose last element is at or above the target and the lowest line left, or none. -/
def gallopUp (o : EngOp) (second : Bool) (t : Stream) (k target : Nat) : Nat → Nat → Nat → SM (Option (Nat × Nat))
  | 0, _, _ => pure none
  | n + 1, lo, d => do
    let stop := t.line (t.n - 1)
    let l := min (t.line k + d) stop
    let v ← readElem o second (t.last l)
    if v ≥ target then pure (some (lo, l))
    else if l == stop then pure none
    else gallopUp o second t k target n (l + 1) (2 * d)

/-- The binary search over lines. -/
def gallopDown (o : EngOp) (second : Bool) (t : Stream) (target : Nat) : Nat → Nat → Nat → SM Nat
  | 0, lo, _ => pure lo
  | n + 1, lo, hi =>
    if lo < hi then do
      let mid := (lo + hi) / 2
      let v ← readElem o second (t.last mid)
      if v ≥ target then gallopDown o second t target n lo mid else gallopDown o second t target n (mid + 1) hi
    else pure lo

/-- The scan of one line. -/
def gallopScan (o : EngOp) (second : Bool) (target : Nat) : Nat → Nat → SM Nat
  | 0, q => pure q
  | n + 1, q => do
    let v ← readElem o second q
    if v ≥ target then pure q else gallopScan o second target n (q + 1)

/-- Gallop: the lowest index above k whose element is at or above the target, or n. -/
def gallop (o : EngOp) (second : Bool) (k target : Nat) : SM Nat := do
  let w ← (get : StateT Streams M Streams)
  let t := if second then w.b else w.a
  let r ← gallopUp o second t k target 40 (t.line k) 1
  match r with
  | none => pure t.n
  | some (lo, hi) => do
    let l ← gallopDown o second t target 40 lo hi
    let q := max (t.first l) (k + 1)
    gallopScan o second target (t.last l + 1 - q) q

/-- The rest of one stream, by MERGE's last line. -/
def tailFrom (o : EngOp) (second : Bool) (n : Nat) : Nat → Nat → SM Unit
  | 0, _ => pure ()
  | fuel + 1, k =>
    if k < n then do
      let x ← readElem o second k
      if second then emit x none (some k) 2 else emit x (some k) none 1
      tailFrom o second n fuel (k + 1)
    else pure ()

/-- The main loop of R192: the indices at its end. -/
def mergeFrom (o : EngOp) (merge : Bool) (na nb : Nat) : Nat → Nat → Nat → SM (Nat × Nat)
  | 0, i, j => pure (i, j)
  | fuel + 1, i, j =>
    if i < na && j < nb then do
      let x ← readElem o false i
      let y ← readElem o true j
      if x == y then
        emit x (some i) (some j) 3
        mergeFrom o merge na nb fuel (i + 1) (j + 1)
      else if x < y then
        if merge then
          emit x (some i) none 1
          mergeFrom o merge na nb fuel (i + 1) j
        else do
          let i ← gallop o false i y
          mergeFrom o merge na nb fuel i j
      else if merge then
        emit y none (some j) 2
        mergeFrom o merge na nb fuel i (j + 1)
      else do
        let j ← gallop o true j x
        mergeFrom o merge na nb fuel i j
    else pure (i, j)

/-- ISECT and MERGE whole: the records, the cause that ended them, and whether they read on after the last record. -/
def runStreams (o : EngOp) : M ((List Byte × Cause) × Bool) := do
  let merge := o.kind == .merge
  let na := o.c.toNat
  let nb := o.d.toNat
  let body : SM Unit := do
    let (i, j) ← mergeFrom o merge na nb (na + nb + 1) 0 0
    if merge then
      tailFrom o false na na i
      tailFrom o true nb nb j
  let (r, w) ← (body.run).run { a := { base := o.a, n := na }, b := { base := o.b, n := nb } }
  pure ((w.out, match r with
    | .ok _ => 0
    | .error e => e), w.late)

end Sys2Proof.Machine
end

