-- ==== Sys2Proof/Machine/Sluice.lean ====
section
/-! DEFINITION. What Sluice does: binning (09 R205 to R207), the check of a pair stream and its records (R208 to R210), NFIX (R211). -/

namespace Sys2Proof.Machine

/-- ENGINE causes of a Sluice. -/
def sluiceC (reason : Nat) : Cause := engineC 1 reason

/-- The cause that a state other than READY ends an operation with (09 R208). -/
def GridState.cause : GridState → Cause
  | .unbound | .ready => sluiceC 1
  | .overflow => sluiceC 2
  | .badpos => sluiceC 3
  | .stale => sluiceC 4

/-! ### Positions and cells -/

/-- The cell of a coordinate on an axis, exactly (09 R205). -/
def Grid.cellOn (g : Grid) (a : Nat) (x : Word) : Nat :=
  let l := fx (g.len a)
  let n : Int := g.cells a
  let v := fx x
  if g.periodic a then
    let w := v - l * v.fdiv l
    (min ((w * n).fdiv l) (n - 1)).toNat
  else (min (max ((v * n).fdiv l) 0) (n - 1)).toNat

/-- The cell of a position. -/
def Grid.cellOf (g : Grid) (p : List Word) : Nat :=
  let c := fun (a : Nat) => g.cellOn a (p.getD a 0)
  (c 2 * g.cells 1 + c 1) * g.cells 0 + c 0

/-- Particle i's position, its words read once each. -/
def readPos (o : EngOp) (g : Grid) (i : Nat) : M (List Word) :=
  mapM_ [0, 4, 8] (fun k => do
    let v ← engRead o (g.pos + BitVec.ofNat 64 (i * g.stride + k)) 4
    pure (BitVec.ofNat 32 v))

/-- The displacement from one position to another, its image shifts, and r² (09 R209). -/
def Grid.disp (g : Grid) (x y : List Word) : List Word × Nat × Word :=
  let axis := fun (a : Nat) =>
    let l := g.len a
    let d := BitVec.ofNat 32 (fp32.sub {} (y.getD a 0).toNat (x.getD a 0).toNat).1
    let (d, sh) := if g.periodic a && 2 * fx d > fx l then (BitVec.ofNat 32 (fp32.sub {} d.toNat l.toNat).1, 3) else (d, 0)
    if g.periodic a && 2 * fx d < -fx l then (BitVec.ofNat 32 (fp32.add {} d.toNat l.toNat).1, 1) else (d, sh)
  let ds := (List.range 3).map axis
  let q := fun (a : Nat) => ((ds.getD a (0, 0)).1).toNat
  let t := (fp32.mul {} (q 0) (q 0)).1
  let t := (fp32.fma {} (q 1) (q 1) t).1
  let t := (fp32.fma {} (q 2) (q 2) t).1
  (ds.map Prod.fst, (ds.getD 0 (0, 0)).2 + 4 * (ds.getD 1 (0, 0)).2 + 16 * (ds.getD 2 (0, 0)).2, BitVec.ofNat 32 t)

/-- A place in a cell for one more particle: a slot, the overflow list, or none (09 R207). -/
def Grid.place (g : Grid) (ps : List Particle) (cell : Nat) : Option Bool :=
  if (ps.filter (fun p => p.cell == cell && !p.inList)).length < 32 then some false
  else if (ps.filter Particle.inList).length < g.ovcap then some true
  else none

/-! ### NBIN (09 R207) -/

/-- Particles placed from i on: those placed so far, how many found no place, and how it ended. All of a particle's words are read before
they are looked at, and a fault leaves ARG 0 [107]. -/
def binFrom (o : EngOp) (g : Grid) : Nat → Nat → List Particle → Nat → M (Grid × Cause)
  | 0, _, ps, lost =>
    pure (if lost == 0 then ({ g with state := .ready, arg := 0, parts := ps }, 0)
      else ({ g with state := .overflow, arg := BitVec.ofNat 32 lost, parts := [] }, sluiceC 2))
  | n + 1, i, ps, lost => do
    let r ← tryM (readPos o g i)
    match r with
    | .error e => pure ({ g with state := .unbound, arg := 0, parts := [] }, e)
    | .ok p =>
      if !p.all finite32 then pure ({ g with state := .badpos, arg := BitVec.ofNat 32 i, parts := [] }, sluiceC 3)
      else
        let c := g.cellOf p
        match g.place ps c with
        | some x => binFrom o g n (i + 1) (ps ++ [{ ref := p, cur := p, cell := c, inList := x }]) lost
        | none => binFrom o g n (i + 1) ps (lost + 1)

/-! ### Phase 1 of NPAIR, and NFIX (09 R208, R211) -/

/-- Round((SKIN ÷ 2)²). -/
def Grid.threshold (g : Grid) : Nat :=
  match fp32.decode g.skin.toNat with
  | .num _ m e => (fp32.ofVal {} (.num false (m * m) (2 * e - 2))).1
  | _ => 0

/-- A stale particle rebinned: its new place, or none. Its own place, in the overflow list too, is free for it [107]. -/
def Grid.rebin (g : Grid) (i : Nat) (p : Particle) : Option Particle :=
  let c := g.cellOf p.cur
  if c == p.cell then some { p with ref := p.cur }
  else (g.place (g.parts.eraseIdx i) c).map (fun x => { p with ref := p.cur, cell := c, inList := x })

/-- The check from particle i on: the grid, and the cause that ended it. -/
def checkFrom (o : EngOp) (fix : Bool) : Nat → Nat → Grid → M (Grid × Cause)
  | 0, _, g => pure (g, 0)
  | n + 1, i, g => do
    let r ← tryM (readPos o g i)
    match r with
    | .error e => pure (g, e)
    | .ok x =>
      if !x.all finite32 then pure ({ g with state := .badpos, arg := BitVec.ofNat 32 i }, sluiceC 3)
      else match g.parts[i]? with
        | none => checkFrom o fix n (i + 1) g
        | some p =>
          let p := { p with cur := x }
          let g := { g with parts := g.parts.set i p }
          let stale := (fp32.compare false false 4 (g.disp p.ref x).2.2.toNat g.threshold).1
          if !stale then checkFrom o fix n (i + 1) g
          else if !fix then pure ({ g with state := .stale, arg := BitVec.ofNat 32 i }, sluiceC 4)
          else match g.rebin i p with
            | some q => checkFrom o fix n (i + 1) { g with parts := g.parts.set i q }
            | none => pure ({ g with state := .overflow, arg := 1 }, sluiceC 2)

/-! ### Phase 2: the records (09 R209, R210) -/

/-- The coordinates that the stencil takes on an axis around one. -/
def Grid.around (g : Grid) (a k : Nat) : List Nat :=
  let n := g.cells a
  if g.periodic a then [(k + n - 1) % n, k, (k + 1) % n].eraseDups
  else ([k - 1, k, k + 1].eraseDups).filter (fun x => x < n)

/-- The distinct cells of the stencil of a cell. -/
def Grid.stencil (g : Grid) (c : Nat) : List Nat :=
  let nx := g.cells 0
  let ny := g.cells 1
  (g.around 2 (c / (nx * ny))).flatMap (fun z => (g.around 1 (c / nx % ny)).flatMap (fun y =>
    (g.around 0 (c % nx)).map (fun x => (z * ny + y) * nx + x)))

/-- The record of a pair, if it is closer than the cut-off. -/
def Grid.pair (g : Grid) (i j : Nat) (p q : Particle) : List Byte :=
  let (ds, sh, r2) := g.disp p.cur q.cur
  let cut2 := (fp32.mul {} g.cut.toNat g.cut.toNat).1
  if (fp32.compare false false 2 r2.toNat cut2).1 then
    leBytes 4 i ++ leBytes 4 j ++ (ds.map (fun d => leBytes 4 d.toNat)).flatten ++ leBytes 4 r2.toNat ++ leBytes 4 sh ++ leBytes 4 0
  else []

/-- The whole pair stream. -/
def Grid.pairs (g : Grid) : List Byte :=
  let ps := (List.range g.parts.length).zip g.parts
  let used := (ps.map (fun p => p.2.cell)).foldl (fun (l : List Nat) c => insertNat c l) []
  used.flatMap (fun c =>
    let st := g.stencil c
    let cand := ps.filter (fun q => st.contains q.2.cell)
    (ps.filter (fun p => p.2.cell == c)).flatMap (fun p =>
      (cand.filter (fun q => if g.fullList then q.1 != p.1 else p.1 < q.1)).flatMap (fun q => g.pair p.1 q.1 p.2 q.2)))

/-! ### The operations -/

/-- A grid put back. -/
def putGrid (g : Grid) : M Unit := modify (fun s =>
  { s with grids := s.grids.map (fun h => if h.queue == g.queue && h.base == g.base then g else h) })

/-- NBIN, NPAIR and NFIX whole: the records, and the status. -/
def runGrid (o : EngOp) : M (List Byte × Cause) := do
  let s ← get
  match s.grid? (s.queueOf o.launch) o.a with
  | none => pure ([], sluiceC 1)
  | some g =>
    match o.kind with
    | .nbin => do
      let (h, e) ← binFrom o g g.n 0 [] 0
      putGrid h
      pure ([], e)
    | .npair =>
      if g.state != .ready then pure ([], g.state.cause)
      else do
        let (h, e) ← checkFrom o g.fix g.n 0 g
        putGrid h
        pure (if e == 0 then (h.pairs, 0) else ([], e))
    | _ =>
      if g.state != .ready && g.state != .stale then pure ([], g.state.cause)
      else do
        let (h, e) ← checkFrom o true g.n 0 g
        putGrid (if h.state == .overflow || h.state == .badpos then h else { h with state := .ready, arg := 0 })
        pure ([], e)

end Sys2Proof.Machine
end

