-- ==== Sys2Proof/Machine/Dowser.lean ====
section
/-! DEFINITION. What Dowser does: configuration (10 R215), hashing (R216), buckets (R217 to R219), probing (R220), rehashing
(R222 to R224). -/

namespace Sys2Proof.Machine

/-- ENGINE causes of a Dowser: 0 BADCFG, 1 BADVEC, 2 ROWRANGE. -/
def dowserC (reason : Nat) : Cause := engineC 2 reason

/-- Work of a Dowser whose cause ends it; what it did before stays. -/
abbrev DM (α : Type) : Type := ExceptT Cause M α

/-- A read or a write whose fault is a cause. -/
def dRead (o : EngOp) (va : DWord) (n : Nat) : DM Nat := ExceptT.mk (tryM (engRead o va n))
def dWrite (o : EngOp) (va : DWord) (n v : Nat) : DM Unit := ExceptT.mk (tryM (engWrite o va n v))

/-- n answers in a list. -/
def dMap {α β : Type} (l : List α) (f : α → DM β) : DM (List β) :=
  match l with
  | [] => pure []
  | x :: xs => do
    let y ← f x
    let ys ← dMap xs f
    pure (y :: ys)

/-! ### Vectors and codes (10 R216) -/

def finite16 (x : Nat) : Bool := match bf16.decode x with
  | .num .. => true
  | _ => false

/-- A BF16 as an exact number of units of 2^−133. -/
def fx16 (x : Nat) : Int := (bf16.decode x).scaled (-133)

/-- The sign bit of an SRP sum under IEEE 754: 1 when it is above 0. -/
def srpBit (x p : List Nat) : Bool :=
  let terms := (x.zip p).map (fun (a, b) => (bf16.decode a).mul (bf16.decode b))
  let up := terms.any (fun t => match t.1 with
    | .inf n => !n
    | _ => false)
  let down := terms.any (fun t => match t.1 with
    | .inf n => n
    | _ => false)
  if terms.any (fun t => t.1.isNan || t.2) || (up && down) then false
  else if up then true
  else if down then false
  else 0 < (x.zip p).foldl (fun (s : Int) (a, b) => s + fx16 a * fx16 b) 0

/-- The lowest position of the window at which the vector is maximal. -/
def wtaBest (x : List Nat) (win : List Nat) : Nat :=
  (((List.range win.length).zip win).foldl (fun (best : Nat × Int) (q, i) =>
    let v := fx16 (x.getD i 0)
    if q == 0 || best.2 < v then (q, v) else best) (0, 0)).1

/-- The u16 elements from an index of the area at PBASE. -/
def readArea (o : EngOp) (f : Family) (from_ n : Nat) : DM (List Nat) :=
  dMap (List.range n) (fun k => dRead o (f.pbase + BitVec.ofNat 64 (2 * (from_ + k))) 2)

/-- The area that a family's functions take (10 R214). -/
def Family.areaWidth (f : Family) : Nat := if f.wta then 2 ^ f.wlog else f.d

/-- Table t's code of a vector. -/
def hashOne (o : EngOp) (f : Family) (x : List Nat) (t : Nat) : DM Nat := do
  let w := f.areaWidth
  let hs ← dMap (List.range f.k) (fun k => do
    let p ← readArea o f ((t * f.k + k) * w) w
    if f.wta then
      if p.any (fun i => f.d ≤ i) then throw (dowserC 0)
      else pure (wtaBest x p * 2 ^ (f.wlog * k))
    else pure ((srpBit x p).toNat * 2 ^ k))
  pure hs.sum

/-- The codes of a vector in every table. -/
def hashAll (o : EngOp) (f : Family) (x : List Nat) : DM (List Nat) := dMap (List.range f.tables) (hashOne o f x)

/-- A vector must be finite. -/
def checkVec (x : List Nat) : DM (List Nat) := if x.all finite16 then pure x else throw (dowserC 1)

/-- The vector in scratchpad, against the D in force and the size now. -/
def spVector (t : Team) (o : EngOp) (f : Family) : DM (List Nat) := do
  let a := o.a.toNat
  if t.spSize < a + 2 * f.d then throw memSpRange
  else if t.bad a (2 * f.d) then throw sysUncorr
  else checkVec ((List.range f.d).map (fun e => t.sp.getN (a + 2 * e) 2))

/-- Row r's vector in memory. -/
def rowVector (o : EngOp) (f : Family) (r : Nat) : DM (List Nat) := do
  let x ← dMap (List.range f.d) (fun e => dRead o (f.wbase + BitVec.ofNat 64 (r * f.wstride + 2 * e)) 2)
  checkVec x

/-! ### Buckets (10 R217, R218) -/

/-- A bucket: OVF, VER and the ids in its slots. -/
structure Bucket where
  ovf : Bool
  ver : Nat
  ids : List Nat
deriving DecidableEq, Repr, Inhabited

/-- Where a bucket stands. -/
def Family.bucketAt (f : Family) (t j : Nat) : DWord := f.base + BitVec.ofNat 64 (4096 + (t * 2 ^ f.bits + j) * 64)

def readBucket (o : EngOp) (f : Family) (t j : Nat) : DM Bucket := do
  let ws ← dMap (List.range 16) (fun k => dRead o (f.bucketAt t j + BitVec.ofNat 64 (4 * k)) 4)
  let h := ws.headD 0
  pure { ovf := h.testBit 4, ver := h / 65536, ids := (ws.drop 1).take (min (h % 16) 15) }

def Bucket.words (b : Bucket) : List Nat :=
  (b.ids.length + 16 * b.ovf.toNat + 65536 * (b.ver % 65536)) :: (b.ids ++ List.replicate (15 - b.ids.length) 0)

def writeBucket (o : EngOp) (f : Family) (t j : Nat) (b : Bucket) : DM Unit := do
  let _ ← dMap ((List.range 16).zip b.words) (fun (k, w) => dWrite o (f.bucketAt t j + BitVec.ofNat 64 (4 * k)) 4 w)
  pure ()

/-- What updates have come to so far: tables changed, dropped, the last id displaced and how many, present or missed. -/
structure Tally where
  changed : Nat := 0
  dropped : Nat := 0
  displaced : Option Nat := none
  moves : Nat := 0
  other : Nat := 0
deriving DecidableEq, Repr, Inhabited

/-- Prio(t, r), with r to break ties. -/
def Family.prio (f : Family) (t r : Nat) : Nat × Nat := (srBits f.seed (BitVec.ofNat 64 t) (BitVec.ofNat 32 r) 0, r)

/-- Lexicographic order of pairs. -/
def pairLe (x y : Nat × Nat) : Bool := x.1 < y.1 || (x.1 == y.1 && x.2 ≤ y.2)

/-- The slot whose priority is greatest. -/
def Family.worst (f : Family) (t : Nat) (ids : List Nat) : Nat :=
  (((List.range ids.length).zip ids).foldl (fun (w : Nat × Nat) (k, r) =>
    if k == 0 || !pairLe (f.prio t r) (f.prio t w.2) then (k, r) else w) (0, 0)).1

/-- Insert(t, j, id) on a bucket. -/
def Family.insert (f : Family) (t id : Nat) (b : Bucket) (y : Tally) : Bucket × Tally :=
  if b.ids.contains id then (b, { y with other := y.other + 1 })
  else if b.ids.length < 15 then
    ({ b with ids := b.ids ++ [id], ver := b.ver + 1 }, { y with changed := y.changed + 1 })
  else
    let b := { b with ovf := true }
    let swap := fun (ids : List Nat) (gone : Nat) =>
      ({ b with ids := ids, ver := b.ver + 1 },
        { y with changed := y.changed + 1, displaced := some gone, moves := y.moves + 1 })
    let drop := (b, { y with dropped := y.dropped + 1 })
    match f.policy with
    | 0 => drop
    | 1 => swap (b.ids.drop 1 ++ [id]) (b.ids.headD 0)
    | _ =>
      let s := f.worst t b.ids
      let old := b.ids.getD s 0
      if pairLe (f.prio t old) (f.prio t id) then drop else swap (b.ids.set s id) old

/-- The removal of an id from a bucket. -/
def Bucket.delete (b : Bucket) (id : Nat) (y : Tally) : Bucket × Tally :=
  if b.ids.contains id then ({ b with ids := b.ids.erase id, ver := b.ver + 1 }, { y with changed := y.changed + 1 })
  else (b, { y with other := y.other + 1 })

/-- The tables updated in ascending order; a fault ends it with what was done before. -/
def updateFrom (o : EngOp) (f : Family) (id : Nat) (del : Bool) : List (Nat × Nat) → Tally → M (Tally × Cause)
  | [], y => pure (y, 0)
  | (t, j) :: r, y => do
    let step : DM Tally := do
      let b ← readBucket o f t j
      let (c, z) := if del then b.delete id y else f.insert t id b y
      if c != b then writeBucket o f t j c
      pure z
    let x ← step.run
    match x with
    | .ok z => updateFrom o f id del r z
    | .error e => pure (y, e)

/-- Every table's bucket of a vector updated. -/
def updateAll (o : EngOp) (f : Family) (id : Nat) (del : Bool) (codes : List Nat) : M (Tally × Cause) :=
  updateFrom o f id del ((List.range codes.length).zip codes) {}

/-! ### Families in the state -/

/-- The family that an operation names, after it has been configured. -/
def State.famOf (s : State) (o : EngOp) : Option Family := s.family? (s.queueOf o.launch) o.b

/-- A family put in place of the one at its base. -/
def putFamily (f : Family) : M Unit := modify (fun s =>
  match s.family? f.queue f.base with
  | some _ => { s with families := s.families.map (fun g => if g.queue == f.queue && g.base == f.base then f else g) }
  | none => { s with families := s.families ++ [f] })

/-- A family whose state allows operations; the family it replaces goes with it. -/
def openFamily (o : EngOp) : DM (Family × Option Family) := do
  let s ← (get : M State)
  match s.famOf o with
  | none => throw (dowserC 0)
  | some f =>
    if f.state == 0 || f.captured then throw (dowserC 0)
    else pure (f, if f.state == 2 then s.family? f.queue f.old else none)

/-- The family in which a row is judged: below the cursor the new one, else the old one (10 R222). -/
def sideOf (f : Family) (old : Option Family) (id : Nat) : Family :=
  match old with
  | some g => if id < f.cursor then f else g
  | none => f

/-- Counters of a family changed. -/
def bumpFamily (base : DWord) (queue : Nat) (g : Family → Family) : M Unit := modify (fun s =>
  { s with families := s.families.map (fun f => if f.queue == queue && f.base == base then g f else f) })

/-! ### The operations -/

/-- HCFG (10 R215). An OLD that is the family's own base is answered BADCFG [54]. -/
def runHcfg (o : EngOp) : M Cause := do
  let s ← get
  let q := s.queueOf o.launch
  let before := s.family? q o.b
  let f := Family.ofBlock o.block q (dieOf o.core)
  let old := if f.old == 0 then none else s.family? q f.old
  let oldOk := match old with
    | some g => g.state == 1 && !g.captured && g.nrows == f.nrows && f.old != f.base
    | none => f.old == 0
  if (before.map Family.captured).getD false || !oldOk then pure (dowserC 0)
  else do
    let body : DM Unit := do
      let area ← readArea o f 0 (f.tables * f.k * f.areaWidth)
      if f.wta then
        if area.any (fun i => f.d ≤ i) then throw (dowserC 0)
      else if !area.all finite16 then throw (dowserC 0)
      if blockInit o.block then
        let _ ← dMap (List.range (f.tables * 2 ^ f.bits * 16)) (fun k => dWrite o (f.base + BitVec.ofNat 64 (4096 + 4 * k)) 4 0)
    let r ← body.run
    let free := fun (g : Family) => { g with captured := false }
    -- A family that this one had captured goes free with its configuration.
    match before with
    | some b => if b.state == 2 then bumpFamily b.old q free
    | none => pure ()
    match r with
    | .error e => do
      putFamily { f with state := 0 }
      pure e
    | .ok _ => do
      if f.old != 0 then bumpFamily f.old q (fun g => { g with captured := true })
      putFamily { f with state := if f.old == 0 then 1 else 2, cursor := 0 }
      pure 0

/-- The counts of ids over the buckets of a vector, each id kept where `side` says. -/
def probeIn (o : EngOp) (f : Family) (x : List Nat) (side : Nat → Bool) : DM (List (Nat × Nat)) := do
  let codes ← hashAll o f x
  let bs ← dMap ((List.range codes.length).zip codes) (fun (t, j) => readBucket o f t j)
  let all := (bs.map Bucket.ids).flatten
  let ids := (all.eraseDups).filter side
  pure ((ids.map (fun i => (i, (bs.filter (fun b => b.ids.contains i)).length))).filter (fun p => f.m ≤ p.2))

/-- Kept ids cut to the C with the highest counts, the lower ids among equals; then in ascending order. -/
def keepBest (c : Nat) (ps : List (Nat × Nat)) : List Nat :=
  let before := fun (x y : Nat × Nat) => y.2 < x.2 || (x.2 == y.2 && x.1 < y.1)
  let ins := fun (p : Nat × Nat) (l : List (Nat × Nat)) => l.takeWhile (fun q => before q p) ++ [p] ++ l.dropWhile (fun q => before q p)
  let best := (ps.foldl (fun l p => ins p l) []).take c
  best.foldl (fun (l : List Nat) p => insertNat p.1 l) []

/-- HPROBE (10 R220, R224). -/
def runHprobe (t : Team) (o : EngOp) : DM (List Byte) := do
  let (f, old) ← openFamily o
  let x ← spVector t o f
  let ps ← probeIn o f x (fun i => old.isNone || i < f.cursor)
  let qs ← match old with
    | none => pure []
    | some g => do
      let y ← spVector t o g
      probeIn o g y (fun i => f.cursor ≤ i)
  ExceptT.lift (bumpFamily f.base f.queue (fun g => { g with probes := g.probes + 1 }))
  pure ((keepBest f.c (ps ++ qs)).flatMap (fun i => leBytes 4 i))

/-- The record of R219. -/
def Tally.record (y : Tally) : List Byte :=
  leBytes 4 y.changed ++ leBytes 4 y.dropped ++ leBytes 4 (y.displaced.getD 0xFFFFFFFF) ++ leBytes 4 y.other

/-- HINS and HDEL (10 R218, R219). -/
def runUpdate (t : Team) (o : EngOp) (del : Bool) : M (List Byte × Cause) := do
  let id := o.c.toNat
  let prep : DM (Family × Family × List Nat) := do
    let (f, old) ← openFamily o
    if f.nrows ≤ id then throw (dowserC 2)
    else do
      let g := sideOf f old id
      let x ← spVector t o g
      let codes ← hashAll o g x
      pure (f, g, codes)
  let p ← prep.run
  match p with
  | .error e => pure (({} : Tally).record, e)
  | .ok (f, g, codes) => do
    let (y, e) ← updateAll o g id del codes
    let n := BitVec.ofNat 32
    bumpFamily f.base f.queue (fun h => { h with
      inserts := if !del && e == 0 then h.inserts + 1 else h.inserts
      deletes := if del && e == 0 then h.deletes + 1 else h.deletes
      drops := h.drops + n y.dropped
      displaced := h.displaced + n y.moves
      misses := if del then h.misses + n y.other else h.misses })
    pure (y.record, e)

/-- The row at the cursor migrated: the tables that dropped it, and the cause that ended it (10 R223). -/
def migrateRow (o : EngOp) (f : Family) : M (Nat × Cause) := do
  let prep : DM (List Nat) := do
    let x ← rowVector o f f.cursor
    hashAll o f x
  let p ← prep.run
  match p with
  | .error e => pure (0, e)
  | .ok codes => do
    let (y, e) ← updateAll o f f.cursor false codes
    bumpFamily f.base f.queue (fun h => { h with
      drops := h.drops + BitVec.ofNat 32 y.dropped
      displaced := h.displaced + BitVec.ofNat 32 y.moves
      cursor := if e == 0 then f.cursor + 1 else h.cursor })
    pure (y.dropped, e)

/-- HREH's record: rows migrated, the cursor, tables that dropped rows. -/
def rehashRecord (k c d : Nat) : List Byte := leBytes 4 k ++ leBytes 4 c ++ leBytes 4 d ++ leBytes 4 0

/-- The next row of an HREH, which counts as one operation for each (10 R212, R223): the operation that is still to go on, or its record
and status. `done` counts its rows and `idx` holds the tables that dropped them. -/
def runHreh (o : EngOp) : M (Option EngOp × List Byte × Cause) := do
  let p ← (openFamily o).run
  match p with
  | .error e => pure (none, rehashRecord o.done 0 (o.idx.headD 0), e)
  | .ok (f, _) =>
    if f.state == 1 then pure (none, rehashRecord o.done 0 (o.idx.headD 0), 0)
    else do
      let (y, e) ← migrateRow o f
      let d := o.idx.headD 0 + y
      if e != 0 then pure (none, rehashRecord o.done f.cursor d, e)
      else do
        let c := f.cursor + 1
        if c == f.nrows then do
          bumpFamily f.base f.queue (fun h => { h with state := 1, cursor := 0 })
          bumpFamily f.old f.queue (fun h => { h with state := 0, captured := false })
        if c == f.nrows || o.done + 1 == o.a.toNat then pure (none, rehashRecord (o.done + 1) c d, 0)
        else pure (some { o with done := o.done + 1, idx := [d] }, [], 0)

/-- An operation on a family, HREH aside, whole: the bytes for its handle, and the status. -/
def runFamily (t : Team) (o : EngOp) : M (List Byte × Cause) :=
  match o.kind with
  | .hcfg => do
    let e ← runHcfg o
    pure ([], e)
  | .hprobe => do
    let r ← (runHprobe t o).run
    pure (match r with
      | .ok bs => (bs, 0)
      | .error e => ([], e))
  | .hins => runUpdate t o false
  | _ => runUpdate t o true

end Sys2Proof.Machine
end

