-- ==== Sys2Proof/Machine/EngineCore.lean ====
section
/-! DEFINITION. The engine operations as they fill their buffers, pause and end (03 R83; 17 R356 to R358; 08 R191 to R194; 09 R202 to
R211; 10 R212 to R224). An event whose operation would not end that way changes nothing. -/

namespace Sys2Proof.Machine

/-! ### Which operation may run -/

/-- Whether two operations are on one grid or one family: those run one after another (09 R202; 10 R212). -/
def State.sameUnit (s : State) (o p : EngOp) : Bool :=
  s.queueOf o.launch == s.queueOf p.launch &&
    ((o.kind.isGrid && p.kind.isGrid && o.a == p.a) || (o.kind.isFamily && p.kind.isFamily && o.b == p.b))

/-- The unit whose microcode runs an operation (32 R512). -/
def State.unitOf (s : State) (o : EngOp) : FwUnit :=
  if o.kind.isGrid then .sluice (s.dieOfOp o) else if o.kind.isFamily then .dowser (s.dieOfOp o) else .copyEngine o.core

/-- Whether an operation arrived while its engine waits for its quiesce point (32 R512). -/
def State.heldBack (s : State) (o : EngOp) : Bool := s.service.quiesce.any (fun q => q.1 == s.unitOf o && !q.2.contains o.id)

/-- Whether an operation is behind none of its grid or family, and its engine takes it. -/
def State.firstOfUnit (s : State) (o : EngOp) : Bool :=
  !s.heldBack o && !(s.ops.takeWhile (fun p => p.id != o.id)).any (fun p => s.sameUnit o p)

/-- The operations of this file: those that deliver into a buffer by themselves. -/
def EngKind.delivers (k : EngKind) : Bool := !(k == .ctxs || k == .ctxr || k == .migr || k == .ncfg)

/-- The team of an operation, when it may run: its team is on a core and its handle is FILLING. -/
def State.runner (s : State) (o : EngOp) : Option Team :=
  match s.team? o.launch o.team with
  | some t => if t.core < 512 && (t.handle o.handle).state == .filling && s.firstOfUnit o then some t else none
  | none => none

/-! ### One fill -/

/-- What an operation puts into its buffer, and the operation as it pauses, or the status with which it ends. -/
structure Fill where
  data : List Byte
  paused : Option EngOp := none
  /-- It goes on: an HREH that has done one of its rows, each of which counts as an operation (10 R212), or a copy under way. -/
  again : Option EngOp := none
  status : Cause := 0
deriving Repr, Inhabited

/-- A stream that is already formed, cut to a buffer. Records that fill it exactly pause an operation that still reads on, or is to meet
a fault (08 R191; 03 R83). -/
def cutFill (o : EngOp) (size : Nat) (r : List Byte × Cause) : Fill :=
  let more := size < r.1.length || (r.1.length == size && (o.late || r.2 != 0) && (o.kind == .isect || o.kind == .merge))
  if more then { data := r.1.take size, paused := some { o with out := some (r.1.drop size, r.2) } }
  else { data := r.1, status := r.2 }

/-- The bytes that a copy delivers of what its fill still takes: all, or, where `choice` is odd, a number of granules (04 R101, R115)
[19]. -/
def copyNow (choice left : Nat) : Nat := if choice % 2 == 1 then min left (16 * (choice / 2 % 2 ^ 28 + 1)) else left

/-- The next fill of an operation (17 R356, R357; 08 R191; 09 R209; 10 R219, R220). -/
def fillOf (t : Team) (o : EngOp) (size : Nat) : M Fill := do
  let r := CopyRec.ofBytes o.block
  match o.kind, o.out with
  | _, some x => pure (cutFill o size x)
  | .tcopy, none | .icopy, none =>
    if r.store then do
      let x ← copyStore o r t
      pure (cutFill o size x)
    else do
      let s ← get
      let n := copyNow s.ev.choice (min (size - o.part) (r.total - (o.done + o.part)))
      let (bs, e) ← copyIn o r (n / 4) (o.done + o.part)
      let all := o.part + bs.length
      if bs.length == n && all < size && o.done + all < r.total then pure { data := bs, again := some { o with part := all } }
      else if all == size && o.done + size < r.total then pure { data := bs, paused := some { o with done := o.done + size, part := 0 } }
      else pure { data := bs, status := e }
  | .isect, none | .merge, none => do
    let (x, late) ← runStreams o
    pure (cutFill { o with late := late } size x)
  | .nbin, none | .npair, none | .nfix, none => do
    let x ← runGrid o
    pure (cutFill o size x)
  | .hreh, none => do
    let (p, bs, e) ← runHreh o
    pure { data := bs, again := p, status := e }
  | _, none => do
    let x ← runFamily t o
    pure (cutFill o size x)

/-- Bytes delivered into the buffer of a handle behind those that are there; the granules they reach become full (03 R74). -/
def Team.deliver (t : Team) (h : Handle) (part : Nat) (bs : List Byte) : Team :=
  let a := h.base.toNat * 16 + part
  let n := min bs.length (t.spSize - a)
  { t.wrote a n (t.sp.setBytes a (bs.take n)) with
    fulls := (List.range ((n + 15) / 16)).foldl (fun (l : List Nat) k => insertNat (a / 16 + k) l) t.fulls }

/-! ### NCFG behind other operations (09 R202) -/

/-- Configurations whose turn has come are carried out. -/
def State.runNcfg (s : State) : Nat → State
  | 0 => s
  | n + 1 =>
    match s.ops.find? (fun o => o.kind == .ncfg && s.firstOfUnit o) with
    | none => s
    | some o =>
      let s := s.configure (Grid.ofBlock o.block (s.queueOf o.launch) (dieOf o.core))
      State.runNcfg { s with ops := s.ops.filter (fun p => p.id != o.id) } n

/-- An operation leaves: its answers go, and what waited behind it may go on. -/
def State.dropOp (s : State) (o : EngOp) : State :=
  let s := { s with
    ops := s.ops.filter (fun p => p.id != o.id)
    fwds := s.fwds.filter (fun r => r.posted || r.fibre != o.fibre) }
  s.runNcfg s.ops.length

/-- An operation put in its place. -/
def State.setOp (s : State) (o : EngOp) : State := { s with ops := s.ops.map (fun p => if p.id == o.id then o else p) }

/-- What an operation waits for: the requests it needs go out, and a wait for a page is timed (28 R471). -/
def State.opWaits (s : State) (o : EngOp) (why : Wait) (post : List Fwd) : State :=
  let s := s.sendAll post
  if why == .walk && o.since.isNone then s.setOp { o with since := some s.rtime } else s

/-- An operation that has done a row keeps its place. Where `yields`, those of other gangs that have arrived meanwhile, with which no
program order joins it, come first (10 R212) [19]. -/
def State.takeTurn (s : State) (p : EngOp) (yields : Bool) : State :=
  let passes := fun (q : EngOp) => !s.sameUnit q p || (yields && !s.heldBack q && (q.launch != p.launch || s.gangOf q.launch q.team != s.gangOf p.launch p.team))
  let behind := (s.ops.dropWhile (fun q => q.id != p.id)).drop 1
  { s with
    ops := s.ops.takeWhile (fun q => q.id != p.id) ++ behind.takeWhile passes ++ { p with since := none } :: behind.dropWhile passes
    fwds := s.fwds.filter (fun r => r.posted || r.fibre != p.fibre) }

/-- An operation does its next fill; whether it is to pause or to end so. -/
def State.runOp (s : State) (o : EngOp) (pause : Bool) : State :=
  match s.runner o with
  | none => s
  | some t =>
    let h := t.handle o.handle
    match (fillOf t o (h.size.toNat * 16)).run s with
    | .error (.wait why post) => s.opWaits o why post
    | .error _ => s
    | .ok (f, s') =>
      if f.paused.isSome != pause then s
      else if let some p := f.again then
        let u := if f.data.isEmpty then s' else s'.setTeam (((s'.team? o.launch o.team).getD t).deliver h o.part f.data)
        (u.takeTurn p (s.ev.choice % 2 == 1)).wake
      else
        let t := (s'.team? o.launch o.team).getD t
        let t := t.deliver h o.part f.data
        let s' := s'.setTeam (t.setHandle o.handle { h with
          state := .full, paused := pause, status := f.status, count := o.part + f.data.length })
        (match f.paused with
          | some p => s'.setOp { p with since := none }
          | none => s'.dropOp o).wake

/-- The event of an operation of one kind. -/
def endOp (k : EngKind) (s : State) : Host.Outcome State Fault Refusal :=
  match s.ops.find? (fun o => o.id == s.ev.op && o.kind == k) with
  | some o => .next (s.runOp o false)
  | none => .next s

/-- ENGINE_BUFFER_PAUSE: the operation `op` fills its buffer and has not ended. -/
def execEngineBufferPause (s : State) : Host.Outcome State Fault Refusal :=
  match s.ops.find? (fun o => o.id == s.ev.op && o.kind.delivers) with
  | some o => .next (s.runOp o true)
  | none => .next s

/-- The ends of the operation `op`. -/
def execTcopyEnd (s : State) : Host.Outcome State Fault Refusal := endOp .tcopy s
def execIcopyEnd (s : State) : Host.Outcome State Fault Refusal := endOp .icopy s
def execIsectEnd (s : State) : Host.Outcome State Fault Refusal := endOp .isect s
def execMergeEnd (s : State) : Host.Outcome State Fault Refusal := endOp .merge s
def execNbinEnd (s : State) : Host.Outcome State Fault Refusal := endOp .nbin s
def execNpairEnd (s : State) : Host.Outcome State Fault Refusal := endOp .npair s
def execNfixEnd (s : State) : Host.Outcome State Fault Refusal := endOp .nfix s
def execHcfgEnd (s : State) : Host.Outcome State Fault Refusal := endOp .hcfg s
def execHprobeEnd (s : State) : Host.Outcome State Fault Refusal := endOp .hprobe s
def execHinsEnd (s : State) : Host.Outcome State Fault Refusal := endOp .hins s
def execHdelEnd (s : State) : Host.Outcome State Fault Refusal := endOp .hdel s
def execHrehEnd (s : State) : Host.Outcome State Fault Refusal := endOp .hreh s

end Sys2Proof.Machine
end

