-- ==== Sys2Proof/Machine/Placement.lean ====
section
/-! DEFINITION. Where gangs, and the item crews of launches, find room, and the deficit round robin that places them (01 R21, R22,
R25, R34; 02 R46 to R53; 07 R177; 08 R200; 29 R496). -/

namespace Sys2Proof.Machine

/-! ### Positions -/

/-- The positions of a gang of 1, 2 or 4 teams: gang position k stands on core k of the position (02 R50). -/
def positions (size : Nat) : List (List Nat) :=
  (List.range (coreCount / size)).map (fun k => (List.range size).map (fun j => k * size + j))

/-- The object a launch runs. -/
def State.objOf (s : State) (launch : Nat) : Option Object := (s.launch? launch).bind (fun l => s.object? l.obj)

/-- A crew that does not exist. -/
def noCrew : CrewId := .item 0 0 99

/-- Fibre slots taken in a quadrant (01 R22). -/
def State.quadFibres (s : State) (core quad : Nat) : Nat :=
  ((s.coreTeams core).map (fun t =>
    (t.crews.filter (fun p => p.quad == quad)).length * ((s.objOf t.launch).map Object.fibres).getD 0)).sum
  + ((s.itemCrews.filter (fun i => i.core == core && i.place.quad == quad)).map ItemCrew.slots).sum

/-- The lowest slot number of a quadrant that no resident crew holds (02 R57). -/
def State.freeSlotNo (s : State) (core quad : Nat) : Nat :=
  let taken := (s.coreTeams core).flatMap (fun t => (t.crews.filter (fun p => p.quad == quad)).map CrewPlace.slot)
    ++ (s.itemCrews.filter (fun i => i.core == core && i.place.quad == quad)).map (fun i => i.place.slot)
  ((List.range 1024).find? (fun k => !taken.contains k)).getD 0

/-- The quadrants for n crews of so many fibres and words each, when the launch's item crew must find room in all four as well:
those with the most room are taken (01 R21, R25). -/
def State.crewQuads (s : State) (core n words fibres iwords islots : Nat) : Option (List Nat) :=
  let used := fun (q : Nat) => s.quadHeld core q noCrew + iwords
  let slots := fun (q : Nat) => s.quadFibres core q + islots
  if !(List.range 4).all (fun q => used q ≤ 32768 && slots q ≤ 1024) then none
  else
    let fit := (List.range 4).filter (fun q => used q + words ≤ 32768 && slots q + fibres ≤ 1024)
    if n ≤ fit.length then some ((sortBy used fit).take n) else none

/-- Whether a launch still needs an item crew on a core. -/
def State.needsItems (s : State) (l : Launch) (o : Object) (core : Nat) : Bool :=
  0 < o.ifib && !s.itemCrews.any (fun i => i.launch == l.id && i.core == core)

/-- Kernel objects that occupy a core's two dictionary banks (02 R52). -/
def State.banks (s : State) (core : Nat) : List Nat :=
  (((s.coreTeams core).map Team.launch ++ (s.itemCrews.filter (fun i => i.core == core)).map ItemCrew.launch).map
    (fun l => ((s.launch? l).map Launch.obj).getD 0)).eraseDups

/-- L1FUSE.DIS of a core's cluster (29 R496). -/
def State.fuseOff (s : State) (core : Nat) : Bool := (s.fuseDis.getD (dieOf core) 0).getLsbD (core % 64 / 4)

/-- Whether fusion lets a team of a launch stand on a core (02 R50). -/
def State.fuseAllows (s : State) (l : Launch) (core : Nat) : Bool :=
  let others := (clusterOf core).any (fun c => (s.coreTeams c).any (fun t => t.launch != l.id))
  if l.fuse then !others && !s.fuseOff core
  else !s.fusedAt core

/-- The launch's item crews on a core: crew k in quadrant k (01 R25, R33). -/
def State.seatItems (s : State) (l : Launch) (o : Object) (core : Nat) (pull : Option Nat) : State :=
  (List.range 4).foldl (fun s q =>
    let n := o.ifib * o.iwin
    let place : CrewPlace := { quad := q, slot := s.freeSlotNo core q, base := freeBase (s.quadUse core q noCrew) n }
    { s with itemCrews := s.itemCrews ++ [{ launch := l.id, core := core, crew := q, place := place, slots := o.ifib
                                            window := o.iwin, pull := pull }] }) s

/-- A team as the state holds it, put in or added. -/
def State.putTeam (s : State) (t : Team) : State :=
  if (s.team? t.launch t.id).isSome then s.setTeam t else { s with teams := s.teams ++ [t] }

/-- A team takes a core, with what it holds or has reserved, when there is room (02 R50): blocks that are resident stay where they are
[28]. -/
def State.seat (s : State) (l : Launch) (o : Object) (t : Team) (core : Nat) : Option State :=
  let items := s.needsItems l o core
  let win := s.heldWindow t
  let n := if o.crews == 0 then 1 else o.crews
  if !s.fuseAllows l core || 2 < (insertNat l.obj ((s.banks core).foldl (fun (a : List Nat) x => insertNat x a) [])).length
      || 262144 < ((s.coreTeams core).map s.spHeld).sum + s.spHeld t || 16 < ((s.coreTeams core).map s.tilesHeld).sum + s.tilesHeld t
  then none
  else match s.crewQuads core n (o.fibres * win) o.fibres (if items then o.ifib * o.iwin else 0) (if items then o.ifib else 0) with
    | none => none
    | some qs =>
      let crews := qs.map (fun q => ({ quad := q, slot := s.freeSlotNo core q
                                       base := freeBase (s.quadUse core q noCrew) (o.fibres * win) } : CrewPlace))
      let s := s.putTeam { t with core := core, crews := crews, since := s.clk.cycles.getD (dieOf core) 0, waived := false }
      some (if items then s.seatItems l o core none else s)

/-- Teams take the cores of a position one by one. -/
def State.seatTeams (s : State) (l : Launch) (o : Object) : List (Team × Nat) → Option State
  | [] => some s
  | (t, c) :: r => (s.seat l o t c).bind (fun s => s.seatTeams l o r)

/-- The four L1s of a cluster write back and invalidate before the cluster changes mode (29 R496). -/
def changeMode (launch core : Nat) (gang : Option (Nat × Nat)) : M Unit := do
  let s ← get
  forM_ (clusterOf core) (fun k => wbCore (coreWho s core launch) k)
  modify (fun s => (clusterOf core).foldl (fun s k => (s.invalidateCore k).setCore k (fun c => { c with fused := gang })) s)

/-- A gang takes a position: its teams, and the mode of a fused cluster. -/
def State.seatGang (s : State) (l : Launch) (o : Object) (gang : Nat) (ts : List Team) (cores : List Nat) : Option State :=
  match s.seatTeams l o (ts.zip cores) with
  | none => none
  | some t =>
    let core := cores.headD 0
    if l.fuse && !t.fusedAt core then
      match (changeMode l.id core (some (l.id, gang))).run t with
      | .ok (_, u) => some u
      | .error _ => none
    else some t

/-- The part's choice among fitting positions: the remainder of a number, whose quotient decides the next choice (02 R51). -/
def pick {α : Type} (l : List α) (choice : Nat) : Option (α × Nat) := (l[choice % max l.length 1]?).map (fun x => (x, choice / max l.length 1))

/-- A gang takes one of the positions where it fits, if there is one. -/
def State.seatAny (s : State) (l : Launch) (o : Object) (gang : Nat) (ts : List Team) (choice : Nat) : Option (State × Nat) :=
  let fit := (positions l.gang).filterMap (fun p => s.seatGang l o gang ts p)
  pick fit choice

/-! ### New gangs -/

/-- A team at its placement: its prologue allotment (01 R28), its registers at their reset values. -/
def newTeam (l : Launch) (o : Object) (id : Nat) : Team where
  launch := l.id
  id := id
  core := coreCount
  crews := []
  window := o.wpro
  tiles := List.replicate 16 {}
  handles := (List.range 32).map (fun k => { allot := k < 2 })
  books := List.replicate 8 (List.replicate 16 0)
  wdog := l.wdog

/-- The teams of a gang. -/
def gangIds (l : Launch) (gang : Nat) : List Nat := (List.range l.gang).map (fun k => gang * l.gang + k)

/-- The fibres of a crew at its start, and their waves: every slot live, at the kernel's entry (01 R12, R14, R23). -/
def State.startCrew (s : State) (l : Launch) (o : Object) (crew : CrewId) : State :=
  let s := { s with fibres := s.fibres ++ (List.range o.fibres).map (fun i => freshFibre crew i 0 l.obj o.wpro 0) }
  s.childWaves crew (List.range o.fibres)

/-- Gangs of a launch. -/
def Launch.gangs (l : Launch) : Nat := l.nteams / max l.gang 1

/-- A gang counted as placed: the lowest gang that is not placed moves up. -/
def Launch.raise (l : Launch) : Nat → Launch
  | 0 => l
  | n + 1 => if l.early.contains l.nextGang then
      Launch.raise { l with nextGang := l.nextGang + 1, early := l.early.filter (fun g => g != l.nextGang) } n
    else l

def Launch.placed (l : Launch) (gang : Nat) : Launch := Launch.raise { l with early := gang :: l.early } (l.early.length + 1)

/-- A gang that has not been placed takes a position. -/
def State.placeGang (s : State) (l : Launch) (o : Object) (gang choice : Nat) : Option (State × Nat) :=
  match s.seatAny l o gang ((gangIds l gang).map (newTeam l o)) choice with
  | none => none
  | some (s, choice) =>
    let (n, s) := s.newId
    let crews := (gangIds l gang).flatMap (fun t => (List.range o.crews).map (fun k => CrewId.team l.id t k))
    let s := crews.foldl (fun s c => s.startCrew l o c) s
    let l' := ((s.launch? l.id).getD l).placed gang
    some ({ s.setLaunch l' with gangs := s.gangs ++ [{ launch := l.id, id := gang, state := .placed, stamp := n }] }, choice)

/-- All gangs of a launch that contains AFLUSH, together (07 R177). -/
def State.placeAll (s : State) (l : Launch) (o : Object) : Nat → Nat → Nat → Option (State × Nat)
  | 0, _, choice => some (s, choice)
  | n + 1, gang, choice => (s.placeGang l o gang choice).bind (fun p => p.1.placeAll l o n (gang + 1) p.2)

/-- The groups of a deterministic launch: C ÷ s of them (02 R53). -/
def Launch.groups (l : Launch) : Nat := l.cores / max l.gang 1

/-- The lowest gang of a group that is not placed, starting at a gang of the group. -/
def Launch.nextOf (l : Launch) (gang : Nat) : Nat → Nat
  | 0 => gang
  | n + 1 => if l.early.contains gang then Launch.nextOf l (gang + l.groups) n else gang

/-- The gang of a launch that may be placed next: in a deterministic launch that of a group whose earlier gang has retired. -/
def State.nextGangOf (s : State) (l : Launch) : Option Nat :=
  if !l.det then (if l.nextGang < l.gangs then some l.nextGang else none)
  else
    let m := l.groups
    let first := fun (r : Nat) => l.nextOf (l.nextGang + (r + m - l.nextGang % max m 1) % max m 1) (l.early.length + 1)
    let free := fun (r : Nat) => !s.gangs.any (fun g => g.launch == l.id && g.id % max m 1 == r)
    ((List.range (min m l.gangs)).filter free).map first |>.find? (fun g => g < l.gangs)

/-- Whether gangs of a launch may be placed: it is not ending, and a span has been committed (01 R38). -/
def Launch.mayPlace (l : Launch) : Bool :=
  !l.ending && (match l.span with
    | none => true
    | some sp => sp.phase == .committed || sp.phase == .running)

/-- One new gang of a launch placed; a launch with AFLUSH whole. -/
def State.placeNext (s : State) (l : Launch) (choice : Nat) : Option (State × Nat) :=
  match s.object? l.obj, s.nextGangOf l with
  | some o, some g => if o.aflush then s.placeAll l o l.gangs 0 choice else s.placeGang l o g choice
  | _, _ => none

/-! ### Pre-empted gangs -/

/-- A pre-empted gang takes a position again; its image is still to be read. -/
def State.placeAgain (s : State) (g : Gang) (choice : Nat) : Option (State × Nat) :=
  match s.launch? g.launch, s.objOf g.launch with
  | some l, some o =>
    let ts := (gangIds l g.id).filterMap (fun t => s.team? l.id t)
    (s.seatAny l o g.id ts choice).map (fun p =>
      let (n, s) := p.1.newId
      (s.setGang { g with state := .restoring, stamp := n, was := g.stamp }, p.2))
  | _, _ => none

/-- The pre-empted gangs of a queue, the oldest pre-emption first. -/
def State.preemptedOf (s : State) (queue : Nat) : List Gang :=
  sortBy Gang.stamp (s.gangs.filter (fun g => g.state == .preempted && g.leaving.isNone && s.queueOf g.launch == queue &&
    ((s.launch? g.launch).map (fun l => !l.ending)).getD false))

/-- The launches of a queue in the order of their records. -/
def State.launchesOf (s : State) (queue : Nat) : List Launch := s.launches.filter (fun l => l.queue == queue && l.mayPlace)

/-- The first answer of a list. -/
def firstSome {α β : Type} (f : α → Option β) : List α → Option β
  | [] => none
  | x :: xs => match f x with
    | some y => some y
    | none => firstSome f xs

/-- One gang of a queue takes a position: pre-empted gangs come before any new one (02 R49). -/
def State.placeOne (s : State) (queue choice : Nat) : Option (State × Nat) :=
  match s.preemptedOf queue with
  | [] => firstSome (fun l => s.placeNext l choice) (s.launchesOf queue)
  | gs => firstSome (fun g => s.placeAgain g choice) gs

/-! ### Deficit round robin (02 R46, R48) -/

/-- Whether a queue holds a gang that is not placed, or a pre-empted one. -/
def State.queueReady (s : State) (queue : Nat) : Bool :=
  !(s.preemptedOf queue).isEmpty || (s.launchesOf queue).any (fun l => l.nextGang < l.gangs)

/-- The ready queues of a class. -/
def State.readyOf (s : State) (cls : Nat) : List Nat :=
  (List.range 64).filter (fun q => (s.queue q).cls.toNat == cls && s.queueReady q)

/-- The highest class that has a ready queue. -/
def State.topClass (s : State) : Option Nat := [3, 2, 1, 0].find? (fun c => !(s.readyOf c).isEmpty)

/-- The first of some queues at or after a number, wrapping from 63 to 0. -/
def firstFrom (qs : List Nat) (p : Nat) : Option Nat :=
  match qs.find? (fun q => p ≤ q) with
  | some q => some q
  | none => qs.head?

/-- Pointers move on from queues that are not ready. -/
def State.movePointers (s : State) : State :=
  { s with pointers := ((List.range s.pointers.length).zip s.pointers).map (fun (c, p) => (firstFrom (s.readyOf c) p).getD p) }

/-- Replenishment: every ready queue of the class adds its quantum, at once as often as it takes until one is positive. -/
def State.replenish (s : State) (qs : List Nat) : State :=
  if qs.any (fun q => 0 < (s.queue q).deficit) then s
  else
    -- A queue turns positive after −deficit ÷ quantum + 1 additions; the first to do so decides.
    let need := fun (q : Nat) => ((-(s.queue q).deficit) / (max (s.queue q).quant.toNat 1 : Nat)).toNat + 1
    let k := (qs.map need).foldl min ((qs.map need).headD 0)
    qs.foldl (fun s q => s.setQueue q (fun u => { u with deficit := u.deficit + (k * u.quant.toNat : Nat) })) s

/-- Whether a queue holds an unplaced gang or a pre-empted one; a span that is not committed yet holds its own (02 R48). -/
def State.holdsGang (s : State) (queue : Nat) : Bool :=
  !(s.preemptedOf queue).isEmpty || s.launches.any (fun l => l.queue == queue && l.nextGang < l.gangs)

/-- A queue with no gang to place has its deficit set to 0, and the charges of its teams in flight are discarded (02 R48). -/
def State.clearDeficit (s : State) (queue : Nat) : State :=
  if s.holdsGang queue then s
  else
    let s := s.setQueue queue (fun u => { u with deficit := 0 })
    { s with teams := s.teams.map (fun (t : Team) => if t.core < coreCount && s.queueOf t.launch == queue then { t with waived := true } else t) }

/-- After gangs have left their queues: queues that hold none have no deficit, and pointers move on from those that are not ready
(02 R46, R48). -/
def State.idleQueues (s : State) : State := ((List.range 64).foldl State.clearDeficit s).movePointers

/-- The visits of a pass: fuel, queues visited in a row that placed nothing, the part's choices. -/
def State.visits (s : State) : Nat → Nat → Nat → State
  | 0, _, _ => s
  | n + 1, idle, choice =>
    match s.topClass with
    | none => s
    | some c =>
      let qs := s.readyOf c
      if qs.length ≤ idle then s
      else
        let s := s.replenish qs
        match firstFrom qs (s.pointers.getD c 0) with
        | none => s
        | some q =>
          let next := { s with pointers := updAt s.pointers c (fun _ => (q + 1) % 64) }
          if 0 < (s.queue q).deficit then
            match next.placeOne q choice with
            | some (t, choice) => (t.clearDeficit q).visits n 0 choice
            | none => next.visits n (idle + 1) choice
          else next.visits n (idle + 1) choice

/-! ### Item crews without a team (08 R200) -/

/-- Whether a launch has a team resident in a vein. -/
def State.inVein (s : State) (launch vein : Nat) : Bool :=
  s.teams.any (fun t => t.launch == launch && t.core < coreCount && s.veinOfCore t.core == vein)

/-- The veins with spilled items that no team and no item crew of the launch serves. -/
def State.lonelyVeins (s : State) (l : Launch) : List Nat :=
  ((l.sump.map Item.vein).eraseDups).filter (fun v => !s.inVein l.id v && !s.itemCrews.any (fun i => i.launch == l.id && i.pull == some v))

/-- Item crews of a launch for a vein, on a core where they fit. -/
def State.seatPullers (s : State) (l : Launch) (o : Object) (vein choice : Nat) : State :=
  let fits := (List.range coreCount).filter (fun c =>
    s.needsItems l o c && !s.fusedAt c && (insertNat l.obj ((s.banks c).foldl (fun (a : List Nat) x => insertNat x a) [])).length ≤ 2
      && (s.crewQuads c 0 0 0 (o.ifib * o.iwin) o.ifib).isSome)
  match pick fits choice with
  | some (c, _) => s.seatItems l o c (some vein)
  | none => s

def State.placePullers (s : State) (choice : Nat) : State :=
  s.launches.foldl (fun s l => match s.object? l.obj with
    | some o => if l.ending then s else (s.lonelyVeins l).foldl (fun s v => s.seatPullers l o v choice) s
    | none => s) s

/-- PLACEMENT_PASS: the visits of one pass, with the part's choices in `choice`. -/
def execPlacementPass (s : State) : Host.Outcome State Fault Refusal :=
  let t := (((s.movePointers).visits 2097216 0 s.ev.choice).placePullers s.ev.choice).idleQueues
  .next (if t.gangs == s.gangs && t.itemCrews == s.itemCrews then t else t.wake)

/-! ### The start edge (01 R35; 07 R177) -/

/-- Whether a gang that is placed may start: a launch with AFLUSH starts when all its gangs are resident. -/
def State.mayStart (s : State) (g : Gang) : Bool :=
  g.state == .placed && (match s.launch? g.launch, s.objOf g.launch with
    | some l, some o => !o.aflush || l.nextGang == l.gangs
    | _, _ => false)

/-- A gang starts: the launch's start acquires the host's earlier writes (04 R119). -/
def State.startGang (s : State) (g : Gang) : State :=
  let cores := (((s.gangTeams g.launch g.id).map Team.core).flatMap s.l1Cores).eraseDups
  (cores.foldl State.invalidateCore s).setGang { g with state := .started }

/-- GANG_START_EDGE: of the gang `gang` of the launch `launch`. -/
def execGangStartEdge (s : State) : Host.Outcome State Fault Refusal :=
  match s.gang? s.ev.launch s.ev.gang with
  | some g => if s.mayStart g then .next (s.startGang g).wake else .next s
  | none => .next s

end Sys2Proof.Machine
end

