-- ==== Sys2Proof/Machine/Retire.lean ====
section
/-! DEFINITION. How gangs leave their cores and launches end early, the packing unit, and the events of scores, watchdogs and
deadlines (01 R24, R26; 02 R47, R48, R58, R62, R64, R66, R67; 04 R122; 08 R200; 11 R231, R232). -/

namespace Sys2Proof.Machine

/-! ### A gang leaves (02 R47, R64; 04 R122) -/

/-- The queue's deficit falls by the cycles a team was resident (02 R47); with nothing left to place it is 0 (02 R48). -/
def State.charge (s : State) (t : Team) : State :=
  if coreCount ≤ t.core || t.waived then s
  else
    let q := s.queueOf t.launch
    let used := s.clk.cycles.getD (dieOf t.core) 0 - t.since
    (s.setQueue q (fun u => { u with deficit := u.deficit - (used : Nat) })).clearDeficit q

/-- The cores of a gang's teams. -/
def State.gangCores (s : State) (launch gang : Nat) : List Nat :=
  (((s.gangTeams launch gang).map Team.core).filter (fun c => c < coreCount)).eraseDups

/-- The L1s that a gang leaves are written back; a cluster that its launch leaves is fused no longer (04 R122; 29 R496). -/
def leaveL1 (launch gang : Nat) : M Unit := do
  let s ← get
  let cores := s.gangCores launch gang
  forM_ (cores.flatMap s.l1Cores).eraseDups (fun c => wbCore (coreWho s c launch) c)
  let fused := cores.filter (fun c => (s.core c).fused.isSome &&
    !(s.teams.any (fun (t : Team) => t.launch == launch && s.gangOf launch t.id != gang && (clusterOf c).contains t.core)))
  match fused with
  | c :: _ => changeMode launch c none
  | [] => pure ()

/-- A gang's teams leave their cores: charged, out of the orders of ACQ; items and item crews follow (02 R55, R64). -/
def State.leaveCores (s : State) (launch gang : Nat) : State :=
  let ts := (s.gangTeams launch gang).filter (fun t => t.core < coreCount)
  let cores := (ts.map Team.core).eraseDups
  let s := ts.foldl State.charge s
  let s := ts.foldl (fun s t => s.setCore t.core (fun c => { c with acqs := c.acqs.filter (fun p => p != (t.launch, t.id)) })) s
  let s := { s with teams := s.teams.map (fun (t : Team) => if ts.any (fun u => u.launch == t.launch && u.id == t.id) then
      { t with core := coreCount, crews := [] } else t) }
  let s := { s with itemCrews := s.itemCrews.map (fun (i : ItemCrew) =>
      if i.launch == launch && cores.contains i.core && !s.teams.any (fun (t : Team) => t.launch == launch && t.core == i.core) then { i with pull := none } else i) }
  (cores.foldl State.sweepItems s).freeCrews

/-- Whether stores of a crew's team are still to be acknowledged, or to be performed at its end: its record is a release behind them (11
R231, R232). -/
def State.storesLeft (s : State) (launch : Nat) (mine : Nat → Bool) : Bool :=
  let own := fun (c : CrewId) => match c with
    | .team l t _ => l == launch && mine t
    | .item .. => false
  s.left.any (fun e => e.launch == launch && (e.team.map mine).getD false) || s.fwds.any (fun r => r.posted && own r.fibre.crew)

/-- Whether a fibre is one of a gang's. -/
def State.isOf (s : State) (g : Gang) (f : Fibre) : Bool :=
  match f.id.crew with
  | .team l t _ => l == g.launch && s.gangOf l t == g.id
  | .item .. => false

/-- The fibres of a gang that is to leave end, but those that a TST still has to store for (11 R232). -/
def State.endLeft (s : State) (g : Gang) : State :=
  (s.fibres.filter (fun f => s.isOf g f && !s.waves.any (fun w => s.storesTile w && w.crew == f.id.crew && w.home == f.home && w.lanes.getLsbD f.lane))).foldl
    State.endFibre s

/-- Whether nothing of a gang is left to do: its teams have finished and their stores are performed; a gang that is to leave waits only
for what its TSTs still store and for its engine operations (01 R24; 11 R232). -/
def State.gangDone (s : State) (g : Gang) : Bool :=
  let ts := s.gangTeams g.launch g.id
  !s.storesLeft g.launch (fun t => s.gangOf g.launch t == g.id) &&
  if g.leaving.isSome then !s.fibres.any (s.isOf g) && ts.all (fun t => t.handles.all (fun h => h.state != .filling && h.state != .draining))
  else (g.state == .started || g.state == .placed) && ts.all s.teamDone

/-- The Assay record of a team's open supervision, which it ends (11 R231 to R233). -/
def writeRecord (t : Team) : M Unit := do
  match t.sup with
  | some u => do
    let s ← get
    let who : Who := { coreWho s (if t.core < coreCount then t.core else 0) t.launch with
      fibre := walkerId t.core, timeout := s.walkOver (.assay t.launch t.id) }
    assayRecord who u t.outcome t.id
    modify (fun s => s.walkNote (.assay t.launch t.id) false)
    putT { t with sup := none }
  | none => pure ()

/-- The Assay records of a gang's open supervisions. -/
def writeRecords (launch gang : Nat) : M Unit := do
  let s ← get
  forM_ (s.gangTeams launch gang) writeRecord

/-- Whether an L1 that a core's accesses use holds a dirty byte. -/
def State.dirtyAt (s : State) (core : Nat) : Bool := (s.l1Cores core).any (fun c => (s.core c).l1.any (fun l => l.dirty != 0))

/-- The team of a gang that has finished with a supervision open or with dirty bytes in its L1 (11 R231; 04 R122). -/
def State.toClose (s : State) (g : Gang) : Option Team :=
  (s.gangTeams g.launch g.id).find? (fun t => s.teamDone t && !s.storesLeft t.launch (fun k => k == t.id)
    && (t.sup.isSome || (t.core < coreCount && s.dirtyAt t.core)))

/-- A team finishes before the others of its gang: its record, and its write-back; its place stays the gang's (01 R34; 20 R423). -/
def closeTeam (t : Team) : M Unit := do
  writeRecord t
  let s ← get
  if t.core < coreCount then forM_ (s.l1Cores t.core) (fun c => wbCore (coreWho s c t.launch) c)

/-- A gang is gone. -/
def State.dropGang (s : State) (g : Gang) : State :=
  let ids := (s.gangTeams g.launch g.id).map Team.id
  let mine := fun (l t : Nat) => l == g.launch && ids.contains t
  -- A configuration that stands behind another gang's operation takes its place there all the same (09 R202).
  let s := (s.ops.filter (fun (o : EngOp) => mine o.launch o.team && o.kind != .ncfg)).foldl State.dropOp s
  let s := { s with
    teams := s.teams.filter (fun (t : Team) => !mine t.launch t.id)
    tileOps := s.tileOps.filter (fun (o : TileOp) => !mine o.launch o.team)
    gangs := s.gangs.filter (fun (h : Gang) => !(h.launch == g.launch && h.id == g.id)) }
  (match s.launch? g.launch with
    | some l => s.setLaunch { l with retired := l.retired + ids.length }
    | none => s).idleQueues

/-- A gang retires: its records, its write-backs, then its place. -/
def retire (g : Gang) : M Unit := do
  writeRecords g.launch g.id
  leaveL1 g.launch g.id
  modify (fun s => (s.leaveCores g.launch g.id).dropGang g)

/-- An effect that writes the records of some teams; the one whose page is under migration is timed (28 R471). -/
def State.recording (s : State) (ts : List Team) (x : M Unit) : State :=
  match x.run s with
  | .error (.wait .walk _) =>
    (match ts.find? (fun t => match (writeRecord t).run s with
        | .error (.wait .walk _) => true
        | _ => false) with
      | some t => s.walkNote (.assay t.launch t.id) true
      | none => s)
  | _ => s.attempt x

/-- TEAM_RETIRE: the teams of the gang `gang` of the launch `launch`, together; a team that finishes before the others of its gang writes
its record and its L1 back then. -/
def execTeamRetire (s : State) : Host.Outcome State Fault Refusal :=
  match s.gang? s.ev.launch s.ev.gang with
  | some g =>
    let s := if g.leaving.isSome then s.endLeft g else s
    if s.gangDone g then .next (s.recording (s.gangTeams g.launch g.id) (retire g))
    else match s.toClose g with
      | some t => .next (s.recording [t] (closeTeam t))
      | none => .next s
  | none => .next s

/-! ### The end of a launch before its time (02 R67; 01 R40) -/

/-- The outcome of an open supervision at a tick (11 R232). -/
def State.tickOutcome (s : State) (t : Team) : Nat :=
  match t.sup with
  | none => 0
  | some u => if u.marks == 0 then 3
    else if s.tileOps.any (fun (o : TileOp) => o.launch == t.launch && o.team == t.id) || !(s.tilesStoring t []).isEmpty then 2 else 1

/-- The outcomes of a gang's supervisions stand, its fibres are gone, but those of a TST that is storing, its tile instructions are
abandoned; TEAM_RETIRE does the rest. The cause is none of the launch's. A team that has finished keeps CLOSED. -/
def State.dismiss (s : State) (g : Gang) : State :=
  let mine := fun (l t : Nat) => l == g.launch && s.gangOf l t == g.id
  let s := { s with teams := s.teams.map (fun (t : Team) => if mine t.launch t.id && !s.teamDone t then { t with outcome := s.tickOutcome t } else t) }
  let s := s.endLeft g
  let s := { s with tileOps := s.tileOps.filter (fun (o : TileOp) => !mine o.launch o.team) }
  (s.setGang { g with leaving := some (g.leaving.getD 0) }).idleQueues

/-- A launch ends as at its deadline: unplaced teams, entries of open rounds and items are discarded, gangs retire without saving,
and the completion record carries the cause, if it is the first. -/
def State.endLaunch (s : State) (launch : Nat) (c : Cause) : State :=
  match s.launch? launch with
  | none => s
  | some l =>
    let s := s.setLaunch { l.record c with ending := true, nextGang := l.gangs, early := [], sump := [] }
    let s := (s.gangs.filter (fun (g : Gang) => g.launch == launch && g.leaving.isNone)).foldl State.dismiss s
    let items := s.fibres.filter (fun (f : Fibre) => f.isItem && f.id.crew.launch == launch)
    let s := items.foldl (fun s f => (s.owe f).endFibre f) s
    let s := { s with
      entries := s.entries.filter (fun (e : Entry) => e.launch != launch)
      cores := s.cores.map (fun (c : Core) => { c with items := c.items.filter (fun (i : Item) => i.launch != launch) })
      launches := s.launches.map (fun (m : Launch) => if m.id == launch then { m with sump := [] } else m) }
    s.freeCrews.idleQueues.wake

/-- LAUNCH_DEADLINE: of the launch `launch`, when RTIME has reached it. -/
def execLaunchDeadline (s : State) : Host.Outcome State Fault Refusal :=
  match s.launch? s.ev.launch with
  | some l =>
    if !l.ending && l.deadline != 0 && l.deadline.toNat ≤ s.rtime then .next (s.endLaunch l.id sysDeadline) else .next s
  | none => .next s

/-- ASSAY_DEADLINE: of the supervision of the team `team` of the launch `launch`: its gang retires without saving (11 R232). -/
def execAssayDeadline (s : State) : Host.Outcome State Fault Refusal :=
  match s.team? s.ev.launch s.ev.team, s.gang? s.ev.launch (s.gangOf s.ev.launch s.ev.team) with
  | some t, some g => match t.sup with
    | some u =>
      if g.leaving.isNone && u.deadline != 0 && u.deadline.toNat ≤ s.rtime then .next (s.dismiss g).wake else .next s
    | none => .next s
  | _, _ => .next s

/-! ### Scores and watchdogs (02 R58, R60, R66) -/

/-- A team's scores halved, rounding down. -/
def Team.halve (t : Team) : Team :=
  Team.throttle { t with scores := (t.scores.map (fun p => (p.1, p.2 / 2))).filter (fun p => p.2 != 0) }

/-- SCORE_HALVING: on the core `core`, once for every 1,024 cycles of it. -/
def execScoreHalving (s : State) : Host.Outcome State Fault Refusal :=
  let c := s.core s.ev.core
  if s.ev.core < coreCount && (c.halved + 1) * 1024 ≤ s.clk.cycles.getD (dieOf s.ev.core) 0 then
    let s' := s.setCore s.ev.core (fun c => { c with halved := c.halved + 1 })
    .next { s' with teams := s'.teams.map (fun (t : Team) => if t.core == s.ev.core then t.halve else t) }.wake
  else .next s

/-- WATCHDOG_EXPIRY: the count of the team `team` of the launch `launch` reaches its limit, and stops. -/
def execWatchdogExpiry (s : State) : Host.Outcome State Fault Refusal :=
  match s.team? s.ev.launch s.ev.team with
  | some t =>
    if t.wdog != 0 && t.wdog ≤ t.spent then .next ((s.setTeam { t with wdog := 0, spent := 0 }).raiseWatchdog t.launch t.id).wake
    else .next s
  | none => .next s

/-! ### The packing unit (02 R62; 01 R26; 04 R125, R126; 08 R197 to R200) -/

/-- Whether two ranges share a granule. -/
def Range.meets (a b : Range) : Bool := 0 < a.count && 0 < b.count && a.first < b.first + b.count && b.first < a.first + a.count

/-- Whether two items conflict: overlapping ranges, one of them a write range (04 R126). -/
def Item.conflicts (a b : Item) : Bool := a.wr.meets b.wr || a.wr.meets b.rd || a.rd.meets b.wr

/-- Whether an item was accepted before another of its vein. -/
def Item.before (a b : Item) : Bool := a.aseq != b.aseq && (b.aseq - a.aseq).toNat < 2 ^ 31

/-- The items of a launch that have not ended. -/
def State.liveItems (s : State) (launch : Nat) : List Item :=
  s.cores.flatMap (fun (c : Core) => c.items.filter (fun (i : Item) => i.launch == launch))
  ++ ((s.launch? launch).map Launch.sump).getD []
  ++ s.fibres.filterMap (fun (f : Fibre) => if f.id.crew.launch == launch then f.item else none)

/-- Whether the order of declared ranges lets an item start: after those its vein accepted before it, and after the item that spawned
it, whatever vein that one was accepted in (04 R126). -/
def State.startable (s : State) (i : Item) : Bool :=
  !(s.liveItems i.launch).any (fun j => j.id != i.id && ((j.vein == i.vein && j.before i) || i.parent == some j.id) && j.conflicts i)

/-- The free slots of a home wave of an item crew, lowest first. -/
def State.freeSlots (s : State) (i : ItemCrew) (home : Nat) : List Nat :=
  (List.range 32).map (fun k => home * 32 + k) |>.filter (fun n =>
    n < i.slots && (s.fibre? ⟨.item i.launch i.core i.crew, n⟩).isNone)

/-- The home waves of a launch's item crews on a core, with their free slots. -/
def State.itemHomes (s : State) (launch core : Nat) : List (ItemCrew × Nat × List Nat) :=
  (s.itemCrews.filter (fun (i : ItemCrew) => i.launch == launch && i.core == core)).flatMap (fun i =>
    (List.range ((i.slots + 31) / 32)).map (fun h => (i, h, s.freeSlots i h)))
  |>.filter (fun p => !p.2.2.isEmpty)

/-- An item's fibre: its argument in v1 to v4, at the kernel's entry plus its PC offset (01 R26). -/
def itemFibre (i : ItemCrew) (index obj : Nat) (x : Item) : Fibre :=
  let f := freshFibre (.item i.launch i.core i.crew) index x.pcoff obj i.window 0
  { f.setRegs 1 x.arg with item := some x }

/-- Items started as one wave in the slots given; each start is an acquire at VEIN scope. -/
def startItems (i : ItemCrew) (home : Nat) (slots : List Nat) (xs : List Item) : M Unit := do
  payOwed i.launch
  let s ← get
  let obj := ((s.launch? i.launch).map Launch.obj).getD 0
  let crew : CrewId := .item i.launch i.core i.crew
  let fs := (slots.zip xs).map (fun (n, x) => itemFibre i n obj x)
  let (n, t) := s.newId
  let u : State := { t with
    fibres := t.fibres ++ fs
    waves := t.waves ++ [{ id := n, crew := crew, home := home, lanes := lanesOf fs, meet := lanesOf fs }]
    cores := t.cores.map (fun (c : Core) => { c with items := c.items.filter (fun (y : Item) => !xs.any (fun x => x.id == y.id)) })
    launches := t.launches.map (fun (l : Launch) => { l with sump := l.sump.filter (fun (y : Item) => !xs.any (fun x => x.id == y.id)) }) }
  set u
  let who : Who := { coreWho s i.core i.launch with fibre := ⟨crew, 0⟩ }
  acquire who 3

/-- What the packing unit looks at: the core's queue, else the spilled items of its vein, of every launch, in their order. -/
def State.itemQueue (s : State) (core : Nat) : List Item :=
  let q := (s.core core).items
  if !q.isEmpty then q
  else
    let vein := s.veinOfCore core
    let mine := fun (i : Item) =>
      i.vein == vein || s.itemCrews.any (fun (k : ItemCrew) => k.launch == i.launch && k.core == core && k.pull == some i.vein)
    (s.launches.flatMap (fun (l : Launch) => l.sump.filter mine)).foldl (fun (acc : List Item) x =>
      acc.takeWhile (fun y => y.before x) ++ [x] ++ acc.dropWhile (fun y => y.before x)) []

/-- The items that start together, and where: the oldest that may start, up to 31 further ones with its PC offset, a home wave with
enough free slots, else the one with the most. -/
def State.pack (s : State) (core choice : Nat) : Option (ItemCrew × Nat × List Nat × List Item) :=
  let q := (s.itemQueue core).filter (fun i => s.itemsAt i.launch core && !(s.itemHomes i.launch core).isEmpty && s.startable i)
  match q with
  | [] => none
  | x :: _ =>
    let xs := (q.filter (fun y => y.launch == x.launch && y.pcoff == x.pcoff)).take 32
    let homes := s.itemHomes x.launch core
    let most := (homes.map (fun p => p.2.2.length)).foldl max 0
    let n := min xs.length most
    let fit := homes.filter (fun p => n ≤ p.2.2.length)
    (pick fit choice).map (fun p => (p.1.1, p.1.2.1, p.1.2.2.take n, xs.take n))

/-- ITEM_PLACEMENT: on the core `core`, the home wave by `choice` among those that serve. -/
def execItemPlacement (s : State) : Host.Outcome State Fault Refusal :=
  match s.pack s.ev.core s.ev.choice with
  | some (i, h, slots, xs) => .next (s.attempt (startItems i h slots xs))
  | none => .next s

end Sys2Proof.Machine
end

