-- ==== Sys2Proof/Machine/FaultRing.lean ====
section
/-! DEFINITION. The runtime that firmware supplies: fault records, and the driver's answers (28 R480 to R482, R486; 04 R119). -/

namespace Sys2Proof.Machine

/-! ### Writing a record (28 R482) -/

/-- TRAPCAUSE[31:0]. -/
def TrapRegs.word (t : TrapRegs) : Nat := t.cause.toNat + 2 ^ 9 * t.kind.toNat + 2 ^ 12 * t.lane.toNat

/-- A fault record. -/
def faultRecord (l : Launch) (f : Fibre) (k : Word) : List Byte :=
  let t := f.trap
  leBytes 8 t.addr.toNat ++ leBytes 4 t.word ++ leBytes 4 t.pc.toNat ++ leBytes 4 t.info0.toNat ++ leBytes 4 t.info1.toNat
    ++ leBytes 4 l.seq.toNat ++ leBytes 1 l.queue ++ leBytes 3 0 ++ leBytes 4 (CrewId.teamId f.id.crew)
    ++ leBytes 4 (f.id.crew.crew * 1024 + f.id.index) ++ leBytes 20 0 ++ leBytes 4 (k ^^^ 0xFFFFFFFF).toNat

/-- Whether the ring takes one more record: it has slots, and the oldest record without an answer leaves one free. -/
def Ring.room (r : Ring) : Bool :=
  r.en && r.size != 0 && (match r.open_.head? with
    | some (k, _) => r.tail - k != r.size
    | none => true)

/-- Where the next record stands. -/
def Ring.slotAt (r : Ring) : Nat := r.base.toNat + 64 * (r.tail.toNat % max r.size.toNat 1)

/-- Whether a fibre's crew is resident and runs. -/
def State.resident (s : State) (i : FibreId) : Bool :=
  match i.crew with
  | .team l t _ => ((s.gang? l (s.gangOf l t)).map (fun (g : Gang) => g.state == .started && g.leaving.isNone)).getD false
  | .item .. => true

/-- A change of the fault ring's registers. -/
def State.setRing (s : State) (f : Ring → Ring) : State := { s with ring := f s.ring }

/-- What the fibre's runtime does next. -/
def Fibre.withRuntime (f : Fibre) (r : Runtime) : Fibre := { f with inTrap := f.inTrap.map (fun t => { t with runtime := r }) }

/-- A record written at FTAIL, MARK last, by a release at SYSTEM scope; the fibre then waits for its answer. -/
def writeFault (l : Launch) (f : Fibre) : M Unit := do
  let s ← get
  let who : Who := { coreWho s (s.coreOf f.id.crew) l.id with fibre := f.id, pc := f.pc }
  spanGate who 6
  release who 6
  modify (fun s =>
    let k := s.ring.tail
    let s := hostWrite s s.ring.slotAt (faultRecord l f k)
    let s := s.setRing (fun r => { r with tail := k + 1, open_ := r.open_ ++ [(k, f.id, f.trap.cause)] })
    (s.setFibre (f.withRuntime (.waiting k))).send (.interrupt s.ring.vec))

/-- A failed record write stops the ring; FTAIL stays. -/
def State.faultWriteFails (s : State) : State :=
  (s.setRing (fun r => { r with en := false, wfault := true })).send (.interrupt s.ring.vec)

/-- FAULT_RING_WRITE: of the fibre `fibre`; its write may fail (`fails`). -/
def execFaultRingWrite (s : State) : Host.Outcome State Fault Refusal :=
  match s.fibre? s.ev.fibre, s.launch? s.ev.fibre.crew.launch with
  | some f, some l =>
    if (f.inTrap.map InTrap.runtime) == some .toWrite && s.resident f.id && s.ring.room && hostReach s s.ring.slotAt 64 then
      if s.ev.fails then .next s.faultWriteFails else .next (s.attempt (writeFault l f))
    else .next s
  | _, _ => .next s

/-! ### Answers (28 R482, R486) -/

/-- The wave of a fibre as it stands in the runtime, for an operation of the runtime on that fibre alone. -/
def State.runtimeCtx (s : State) (op : Op) (f : Fibre) : Option Ctx :=
  (s.waves.find? (fun (w : Wave) => w.crew == f.id.crew && w.home == f.home && w.lanes.getLsbD f.lane)).map (fun w =>
    { op := op, w := default, wv := w, pc := f.pc, fall := f.pc, core := s.coreOf f.id.crew, launch := f.id.crew.launch
      det := s.det f.id.crew.launch, all := s.waveFibres w, act := [f], low := some f })

/-- The runtime's operation on one fibre; what it needs first goes out, and the second answer is false. -/
def State.runtimeDo (s : State) (c : Ctx) (x : Except (Wait × List Fwd) Effect) : State × Bool :=
  match x with
  | .error (_, post) => (s.sendAll post, false)
  | .ok (t, ways) =>
    if s.bankFull c.wv && ways.any (fun p => match p.2 with | .trap .. => true | _ => false) then (s, false)
    else (t.finish c c.all ways, true)

/-- RESUME: the fibre leaves the runtime as at ERET (19 R413). -/
def State.answerResume (s : State) (f : Fibre) : State × Bool :=
  match s.runtimeCtx .eret f with
  | none => (s, true)
  | some c =>
    let (t, ok) := s.runtimeDo c (lanesWay c laneEret c.act s)
    (if ok then s.restoreMeets t c.wv else t, ok)

/-- END: the fibre ends as at END (14 R285). -/
def State.answerEnd (s : State) (f : Fibre) : State × Bool :=
  match s.runtimeCtx .endF f with
  | none => (s, true)
  | some c => s.runtimeDo c (perLane laneEnd c s)

/-- An answer acts on the fibre that waits for it; ABORT ends the launch with the record's cause. -/
def State.actAnswer (s : State) (f : Fibre) (answer : BitVec 2) (c : Cause) : State × Bool :=
  match answer.toNat with
  | 1 => s.answerResume f
  | 2 => s.answerEnd f
  | 3 => (s.endLaunch f.id.crew.launch c, true)
  | _ => (s, true)

/-- Answers that have come: each acts when its fibre's gang is resident, and is kept until then; a fibre that is gone takes none. -/
def State.actKept (s : State) : List ((Word × FibreId × Cause) × BitVec 2) → State
  | [] => s
  | ((k, i, c), answer) :: rest =>
    let drop := fun (s : State) => s.setRing (fun r => { r with kept := r.kept.filter (fun p => p.1.1 != k) })
    match s.fibre? i with
    | none => (drop s).actKept rest
    | some f =>
      if (f.inTrap.map InTrap.runtime) != some (.waiting k) then (drop s).actKept rest
      else if !s.resident i then s.actKept rest
      else
        let (t, done) := s.actAnswer f answer c
        (if done then drop t else t).actKept rest

/-- Every kept answer tried. -/
def State.tryKept (s : State) : State := s.actKept s.ring.kept

/-- The host's earlier writes are seen by the device's later walks and accesses: L1s give up clean bytes, walk schedulers the entries
they hold (04 R119; 28 R482). -/
def State.hostVisible (s : State) : State :=
  let s := (List.range s.cores.length).foldl State.invalidateCore s
  { s with mem := { s.mem with nodes := s.mem.nodes.map (fun _ => []) } }

/-- A write of FACK: the answer goes to the record it names, if that waits for one. -/
def State.fack (s : State) (k : Word) (answer : BitVec 2) : State :=
  let s := s.hostVisible.setRing (fun r => { r with ackIndex := k, ackAnswer := answer })
  if answer == 0 then s
  else match s.ring.open_.find? (fun p => p.1 == k) with
    | none => s
    | some p =>
      let s := s.setRing (fun r => { r with open_ := r.open_.filter (fun q => q.1 != k), kept := r.kept ++ [(p, answer)] })
      s.tryKept.wake

/-- FACK_RESUME, FACK_END, FACK_ABORT: the answer to record `word`; a frozen host's write is refused (32 R514). -/
def execFackResume (s : State) : Host.Outcome State Fault Refusal :=
  .next (if s.service.frozen.getLsbD 0 then s.send .unsupported else s.fack s.ev.word 1)
def execFackEnd (s : State) : Host.Outcome State Fault Refusal :=
  .next (if s.service.frozen.getLsbD 0 then s.send .unsupported else s.fack s.ev.word 2)
def execFackAbort (s : State) : Host.Outcome State Fault Refusal :=
  .next (if s.service.frozen.getLsbD 0 then s.send .unsupported else s.fack s.ev.word 3)

end Sys2Proof.Machine
end

