-- ==== Sys2Proof/Machine/Shake.lean ====
section
/-! DEFINITION. SHAKE256, which the spec names for context images, firmware digests and attestation (28 R485; 32 R512, R513), as
FIPS 202 defines it. -/

namespace Sys2Proof.Machine

/-- A lane of the sponge's state, by its place x + 5y. -/
abbrev Lanes := List DWord

def laneAt (a : Lanes) (x y : Nat) : DWord := a.getD (x % 5 + 5 * (y % 5)) 0

def rotl64 (v : DWord) (n : Nat) : DWord := (v <<< (n % 64)) ||| (v >>> ((64 - n % 64) % 64))

/-- A state made lane by lane. -/
def lanesBy (f : Nat → Nat → DWord) : Lanes := (List.range 25).map (fun k => f (k % 5) (k / 5))

/-- The walk through the 24 lanes other than the one at the origin, from (1, 0) on, with each lane's rotation (t + 1)(t + 2) / 2. -/
def rhoWalk : Nat → Nat → Nat → Nat → List (Nat × Nat)
  | 0, _, _, _ => []
  | n + 1, t, x, y => (x + 5 * y, (t + 1) * (t + 2) / 2) :: rhoWalk n (t + 1) y ((2 * x + 3 * y) % 5)

/-- The rotation of each lane, by x + 5y. -/
def rhoOffsets : List Nat :=
  let walk := rhoWalk 24 0 1 0
  (List.range 25).map (fun k => ((walk.find? (fun p => p.1 == k)).map Prod.snd).getD 0)

/-- The shift register behind the round constants, one step: division by x^8 + x^6 + x^5 + x^4 + 1. -/
def lfsrStep (r : Nat) : Nat := if r < 128 then 2 * r else (2 * r % 256) ^^^ 0x71

/-- One round constant: seven outputs of the register, output j at bit 2^j − 1; and the register after them. -/
def roundConstant (r : Nat) : DWord × Nat :=
  (List.range 7).foldl (fun (c : DWord × Nat) j =>
    (if c.2 % 2 == 1 then c.1 ||| (1 <<< (2 ^ j - 1)) else c.1, lfsrStep c.2)) (0, r)

/-- The constants of n rounds from a register on. -/
def constantsFrom : Nat → Nat → List DWord
  | 0, _ => []
  | n + 1, r => (roundConstant r).1 :: constantsFrom n (roundConstant r).2

/-- The constants of the 24 rounds. -/
def roundConstants : List DWord := constantsFrom 24 1

/-- One round of the permutation. -/
def keccakRound (a : Lanes) (rc : DWord) : Lanes :=
  let c := (List.range 5).map (fun x => laneAt a x 0 ^^^ laneAt a x 1 ^^^ laneAt a x 2 ^^^ laneAt a x 3 ^^^ laneAt a x 4)
  let d := fun (x : Nat) => c.getD ((x + 4) % 5) 0 ^^^ rotl64 (c.getD ((x + 1) % 5) 0) 1
  let t := lanesBy (fun x y => rotl64 (laneAt a x y ^^^ d x) (rhoOffsets.getD (x + 5 * y) 0))
  -- The lane at (x, y) goes to (y, 2x + 3y): the lane that arrives at (u, v) comes from (u + 3v, u).
  let b := lanesBy (fun u v => laneAt t (u + 3 * v) u)
  let e := lanesBy (fun x y => laneAt b x y ^^^ (~~~ laneAt b (x + 1) y &&& laneAt b (x + 2) y))
  match e with
  | l :: ls => (l ^^^ rc) :: ls
  | [] => []

def keccak (a : Lanes) : Lanes := roundConstants.foldl keccakRound a

/-- Little-endian bytes as a lane, and a lane as bytes. -/
def laneOf (b : List Byte) : DWord := BitVec.ofNat 64 (b.foldr (fun x acc => x.toNat + 256 * acc) 0)
def laneByte (a : Lanes) (k : Nat) : Byte := ((a.getD (k / 8) 0) >>> (8 * (k % 8))).setWidth 8

/-- A block of 136 bytes taken in. -/
def absorb (a : Lanes) (block : List Byte) : Lanes :=
  keccak ((List.range 25).map (fun k => a.getD k 0 ^^^ (if k < 17 then laneOf ((block.drop (8 * k)).take 8) else 0)))

/-- The message with its padding: 0x1F, zeros, and the last byte's top bit. -/
def padded (m : List Byte) : List Byte :=
  let r := m.length % 136
  if r == 135 then m ++ [0x9F] else m ++ 0x1F :: List.replicate (134 - r) 0 ++ [0x80]

def absorbAll : Nat → Lanes → List Byte → Lanes
  | 0, a, _ => a
  | n + 1, a, m => absorbAll n (absorb a (m.take 136)) (m.drop 136)

/-- The first n bytes of SHAKE256, n up to 136. -/
def shake256 (m : List Byte) (n : Nat) : List Byte :=
  let p := padded m
  let a := absorbAll (p.length / 136) (List.replicate 25 0) p
  (List.range n).map (laneByte a)

end Sys2Proof.Machine
end

