-- ==== Sys2Proof/Machine/Preempt.lean ====
section
/-! DEFINITION. Pre-emption, the context image, restoration, and the engine operations CTXS, CTXR and MIGR as they end (02 R49, R63;
06 R169; 08 R189; 19 R418 to R420; 28 R484 to R486). A gang keeps what its image has no laid-out field for in the state: the bytes
of the image that belong to the part are free values named by the gang's save. -/

namespace Sys2Proof.Machine

/-! ### Settling (02 R63; 08 R189) -/

/-- Whether a crew belongs to a gang. -/
def State.ofGang (s : State) (launch gang : Nat) (c : CrewId) : Bool :=
  match c with
  | .team l t _ => l == launch && s.gangOf l t == gang
  | .item .. => false

/-- A gang's tile instructions complete. -/
def State.settleTiles (s : State) (launch gang : Nat) : State :=
  (s.tileOps.filter (fun (o : TileOp) => s.ofGang launch gang (.team o.launch o.team 0))).foldl State.completeTile s

/-- Whether a wave stands at a GLDS that it has issued: it waits for its data, or for what a lane's load or fault needs (08 R189). -/
def State.inGather (s : State) (w : Wave) : Bool :=
  s.opAt w == some .glds && (w.wait.map (fun k => [Wait.gather, .walk, .remote, .line, .stores, .bank].contains k)).getD false

/-- The data of a gang's open gathers arrives, wave by wave. -/
def State.settleGathers (s : State) : List Nat → State
  | [] => s
  | i :: ws =>
    match s.wave? i with
    | some w => match (s.setWave { w with arrived := BitVec.allOnes 32, stalled := false }).again i (w.wait.getD .gather) runGlds with
      | .next t => t.settleGathers ws
      | _ => s.settleGathers ws
    | none => s.settleGathers ws

/-- A gang's engine operations reach a handle state. -/
def State.settleOps (s : State) (launch gang : Nat) : State :=
  (s.ops.filter (fun (o : EngOp) => s.ofGang launch gang (.team o.launch o.team 0) && o.kind.delivers)).foldl
    (fun s o => (s.runOp o false).runOp o true) s

/-- Everything of a gang that must be settled before it is saved, as far as it can be now. -/
def State.settle (s : State) (launch gang : Nat) : State :=
  let gathers := (s.waves.filter (fun (w : Wave) => s.ofGang launch gang w.crew && s.inGather w)).map Wave.id
  ((s.settleTiles launch gang).settleGathers gathers).settleOps launch gang

/-- Whether a gang is settled: its forwarded accesses have been answered as well. -/
def State.settled (s : State) (launch gang : Nat) : Bool :=
  let mine := s.ofGang launch gang
  !s.tileOps.any (fun (o : TileOp) => mine (.team o.launch o.team 0))
  && !s.waves.any (fun (w : Wave) => mine w.crew && s.inGather w)
  && (s.gangTeams launch gang).all (fun t => t.handles.all (fun h => h.state != .filling && h.state != .draining))
  && !s.fwds.any (fun (r : Fwd) => mine r.fibre.crew && (r.posted || r.reply.isNone || r.tile.isSome))
  && (s.fibres.filter (fun (f : Fibre) => mine f.id.crew)).all (fun f => f.held.isEmpty)

/-! ### Transactions abort (06 R169) -/

/-- One wave whose open transactions have aborted: it divides by PC; lanes that waited at TXOE after settling stay settled. -/
def State.abortWave (s : State) (w : Wave) : State :=
  let fs := s.waveFibres w
  if !fs.any (fun f => f.tx.isSome) then s.setWave { w with staged := none }
  else
    let s := (fs.filter (fun f => f.tx.isSome)).foldl (fun s f =>
      let p := s.abort f txPreempt
      p.1.setFibre p.2) s
    s.regroup w w.lanes (fs.filterMap (fun f => s.fibre? f.id)) true

/-- Every open transaction of a gang aborts with TX.PREEMPT, which is not counted. -/
def State.abortGang (s : State) (launch gang : Nat) : State :=
  let s := (s.waves.filter (fun (w : Wave) => s.ofGang launch gang w.crew)).foldl State.abortWave s
  (s.fibres.filter (fun (f : Fibre) => s.ofGang launch gang f.id.crew && f.tx.isSome)).foldl (fun s f =>
    let p := s.abort f txPreempt
    p.1.setFibre p.2) s

/-! ### The image (28 R484, R485) -/

/-- The sizes of R484. -/
def Object.fullEmpty (o : Object) : Nat := 16 * ((o.scratch + 2047) / 2048)
def Object.fibreBytes (o : Object) : Nat := (128 + 4 * o.wfull + 15) / 16 * 16
def Object.teamBytes (o : Object) : Nat :=
  2048 + o.scratch + o.fullEmpty + 8192 * o.tiles + 4096 + o.crews * o.fibres * o.fibreBytes
/-- G, the bytes of one gang's image. -/
def Object.gangBytes (o : Object) : Nat := 256 + o.gang * o.teamBytes

/-- A byte of an image: laid out for software, or the part's own. -/
inductive ImageByte where
  | laid (b : Byte)
  | own (b : Byte)
deriving DecidableEq, Repr, Inhabited

def ImageByte.byte : ImageByte → Byte
  | .laid b => b
  | .own b => b

/-- Laid-out words and other values. -/
def laid (n v : Nat) : List ImageByte := (leBytes n v).map .laid
def laidWords (ws : List Word) : List ImageByte := ws.flatMap (fun w => laid 4 w.toNat)
/-- n bytes that the part owns. -/
def owned (save off n : Nat) : List ImageByte := (List.range n).map (fun k => .own (Config.imageByte save (off + k)))
/-- n laid-out bytes that nothing defines. -/
def undefinedBytes (save off n : Nat) : List ImageByte := (List.range n).map (fun k => .laid (Config.imageByte save (off + k)))

/-- A fibre record; off is its place in the image. -/
def fibreImage (o : Object) (save off : Nat) (f : Option Fibre) : List ImageByte :=
  let pad := o.fibreBytes - 128 - 4 * o.wfull
  match f with
  | none =>
    -- No window is saved: every vn is 0.
    undefinedBytes save off 28 ++ laid 4 0 ++ undefinedBytes save (off + 32) 24 ++ owned save (off + 56) 8
      ++ undefinedBytes save (off + 64) 16 ++ owned save (off + 80) 48 ++ laid (4 * o.wfull) 0
      ++ owned save (off + 128 + 4 * o.wfull) pad
  | some f =>
    let cause := f.trap.cause.toNat + 2 ^ 9 * f.trap.kind.toNat + 2 ^ 12 * f.trap.lane.toNat
    laidWords [f.pc, f.fpmode, f.fpstat, f.txstat, f.srSeed.lo, f.srSeed.hi, f.srCtr, BitVec.ofNat 32 (1 + 2 * f.inTrap.isSome.toNat)]
      ++ laidWords [f.trap.addr.lo, f.trap.addr.hi, f.trap.info0, f.trap.info1, f.trap.pc, BitVec.ofNat 32 cause]
      ++ owned save (off + 56) 8 ++ laidWords f.bank ++ owned save (off + 80) 48
      ++ laidWords ((List.range o.wfull).map (fun n => f.regs.getD n 0)) ++ owned save (off + 128 + 4 * o.wfull) pad

/-- A team's part of the image. -/
def State.teamImage (s : State) (o : Object) (save off : Nat) (t : Team) : List ImageByte :=
  let spAt := off + 2048
  let feAt := spAt + o.scratch
  let tileAt := feAt + o.fullEmpty
  let fibAt := tileAt + 8192 * o.tiles + 4096
  owned save off 256
    ++ t.handles.flatMap (fun h => laid 8 h.record.toNat)
    ++ t.books.flatMap (fun b => b.flatMap (fun e => laid 2 e.toNat))
    ++ laidWords (t.tiles.map tshapeWord)
    ++ laidWords [txcfgWord t, t.pivclamp, issuepolWord t, BitVec.ofNat 32 t.remain]
    ++ owned save (off + 0x350) (2048 - 0x350)
    ++ (List.range o.scratch).map (fun a => .laid (if a < t.spSize then t.sp.get a else Config.imageByte save (spAt + a)))
    ++ (List.range o.fullEmpty).map (fun k => .laid (if 128 * k < t.spSize then
        BitVec.ofNat 8 ((List.range 8).foldl (fun a i => if t.fulls.contains (8 * k + i) then a + 2 ^ i else a) 0)
      else Config.imageByte save (feAt + k)))
    ++ (List.range o.tiles).flatMap (fun k =>
        let x := t.tiles.getD k {}
        if x.allot then laid 8192 x.bits.toNat else undefinedBytes save (tileAt + 8192 * k) 8192)
    ++ owned save (tileAt + 8192 * o.tiles) 4096
    ++ (List.range (o.crews * o.fibres)).flatMap (fun k =>
        fibreImage o save (fibAt + k * o.fibreBytes) (s.fibre? ⟨.team t.launch t.id (k / o.fibres), k % o.fibres⟩))

/-- The part's own bytes of an image. -/
def ownBytes (l : List ImageByte) : List Byte := l.filterMap (fun b => match b with
  | .own b => some b
  | .laid _ => none)

/-- A gang's image: the header holds the check word over the part's own bytes. -/
def State.gangImage (s : State) (l : Launch) (o : Object) (gang save : Nat) : List Byte :=
  let teams := (gangIds l gang).zip (List.range l.gang) |>.flatMap (fun (t, k) => match s.team? l.id t with
    | some u => s.teamImage o save (256 + k * o.teamBytes) u
    | none => [])
  let tail := owned save 24 232
  let check := shake256 (ownBytes (tail ++ teams)) 8
  leBytes 4 1 ++ leBytes 4 gang ++ leBytes 8 l.seq.toNat ++ check ++ (tail ++ teams).map ImageByte.byte

/-- Where a gang's image lies. -/
def imageAt (l : Launch) (o : Object) (gang : Nat) : DWord := l.ctx + BitVec.ofNat 64 (gang * o.gangBytes)

/-- Whose accesses a save and a restoration are; their walks time out after 100 µs (28 R471). -/
def State.whoSaver (s : State) (g : Gang) : Who :=
  { coreWho s 0 g.launch with engine := true, timeout := (g.walking.map (fun t => decide (t + 10000 ≤ s.rtime))).getD false }

/-- Bytes written at L2, the header of 256 bytes last. -/
def writeImage (who : Who) (at_ : DWord) (bs : List Byte) : M Unit := do
  storeBytes who (at_ + 256) (bs.drop 256) .engine
  storeBytes who at_ (bs.take 256) .engine

/-- A save or a restoration comes about whole, or not at all while something it needs is missing; a wait for a page is timed. -/
def State.attemptFor {α : Type} (s : State) (g : Gang) (x : M α) : State :=
  match x.run s with
  | .error (.wait .walk _) => if g.walking.isNone then s.setGang { g with walking := some s.rtime } else s
  | _ => s.attempt (do let _ ← x)

/-- What one save leaves of a gang in the part's own bytes. -/
def State.shadow (s : State) (g : Gang) (save : Nat) : Shadow where
  save := save
  teams := s.gangTeams g.launch g.id
  fibres := s.fibres.filter (fun (f : Fibre) => s.ofGang g.launch g.id f.id.crew)
  waves := s.waves.filter (fun (w : Wave) => s.ofGang g.launch g.id w.crew)

/-! ### Pre-emption (02 R63; 04 R122) -/

/-- A settled gang leaves its cores with its state written out; a fault while saving is a double trap (28 R480, R486), and its cause
is the answer [104]. -/
def saveGang (l : Launch) (o : Object) (g : Gang) (held : Bool) : M (Option Cause) := do
  modify (fun s =>
    let s := s.abortGang l.id g.id
    let s := { s with fibres := s.fibres.map (fun (f : Fibre) => if s.ofGang l.id g.id f.id.crew then { f.writeAllPend with groupStaged := none } else f) }
    { s with waves := s.waves.map (fun (w : Wave) => if s.ofGang l.id g.id w.crew then { w with staged := none, stalled := false } else w) })
  leaveL1 l.id g.id
  let s ← get
  let save := s.nextId
  let x ← (match (writeImage (s.whoSaver g) (imageAt l o g.id) (s.gangImage l o g.id save)).run s with
    | .ok (_, t) => do
      set t
      pure none
    | .error (.trap d) => pure (some d.cause)
    | .error e => throw e)
  if x.isNone then
    modify (fun s =>
      let (n, s) := (s.leaveCores l.id g.id).newId
      (s.setGang { g with state := if held then .held else .preempted, stamp := n, save := save, walking := none
                          saves := g.saves ++ [s.shadow g save] }).idleQueues)
  else
    modify (fun s =>
      let s := match s.launch? l.id with
        | some m => s.setLaunch (m.record sysDblTrap)
        | none => s
      s.retireGang l.id g.id sysDblTrap)
  pure x

/-- A gang is pre-empted, when it is settled and its write-backs can be performed now. -/
def State.preempt (s : State) (g : Gang) (held : Bool) : State :=
  match s.launch? g.launch, s.objOf g.launch with
  | some l, some o =>
    let s := s.settle l.id g.id
    if s.settled l.id g.id then s.attemptFor g (saveGang l o g held) else s
  | _, _ => s

/-- Gangs that may be pre-empted for a class: the lowest class first, there the latest placed first (02 R49). -/
def State.victims (s : State) (cls : Nat) : List Gang :=
  let of := fun (g : Gang) => (s.queue (s.queueOf g.launch)).cls.toNat
  let gs := s.gangs.filter (fun (g : Gang) => (g.state == .placed || g.state == .started) && g.leaving.isNone && of g < cls)
  (List.range 4).flatMap (fun c => (sortBy Gang.stamp (gs.filter (fun g => of g == c))).reverse)

/-- The state in which some gangs hold nothing. -/
def State.without (s : State) (gs : List Gang) : State :=
  let s := gs.foldl (fun s g => s.leaveCores g.launch g.id) s
  -- A cluster that its launch has left is fused no longer (29 R496).
  { s with cores := ((List.range s.cores.length).zip s.cores).map (fun (k, c) =>
      if (clusterOf k).any (fun i => !(s.coreTeams i).isEmpty) then c else { c with fused := none }) }

/-- The gang that the scheduler pre-empts next: a ready queue of the highest class finds no place for its gang, and the lower classes
hold enough to free one. -/
def State.nextVictim (s : State) : Option Gang :=
  match s.topClass with
  | none => none
  | some c =>
    let vs := s.victims c
    if (s.readyOf c).any (fun q => (s.placeOne q 0).isNone && ((s.without vs).placeOne q 0).isSome) then vs.head? else none

/-- GANG_PREEMPT: the gang `gang` of the launch `launch`, when it is the one to be pre-empted. -/
def execGangPreempt (s : State) : Host.Outcome State Fault Refusal :=
  match s.nextVictim with
  | some g => if g.launch == s.ev.launch && g.id == s.ev.gang then .next (s.preempt g false) else .next s
  | none => .next s

/-! ### Restoration (28 R485, R486; 02 R63) -/

/-- A handle record read back. -/
def Handle.ofRecord (h : Handle) (v : Nat) : Handle :=
  let st := match v % 4 with
    | 0 => HState.free
    | 1 => .filling
    | 2 => .full
    | _ => .draining
  { h with state := st, paused := v.testBit 2, status := BitVec.ofNat 9 (v / 16), count := v / 2 ^ 13 % 2 ^ 19
           base := BitVec.ofNat 14 (v / 2 ^ 32), size := BitVec.ofNat 15 (v / 2 ^ 48) }

/-- A shape register read back (03 R80). -/
def Tile.ofShape (x : Tile) (v : Nat) : Tile :=
  if x.allot then { x with rows := v % 128 + 1, cols := v / 256 % 128 + 1, width := BitVec.ofNat 2 (v / 65536) } else x

/-- The flags of a record: live, and in the trap runtime (28 R485). -/
def recordLive (b : List Byte) : Bool := (field b 28 4).testBit 0
def recordInTrap (b : List Byte) : Bool := (field b 28 4).testBit 1

/-- A fibre with the laid-out fields of its record. What the record has no field for is the fibre's own; a flag that software has
changed takes it into the runtime of a trap whose ERET continues at TRAPPC, or out of the runtime; an RM of 5 to 7 is held, and DYN then
rounds by RNE (05 R138) [94]. -/
def Fibre.ofImage (f : Fibre) (b : List Byte) : Fibre :=
  let w := fun (k : Nat) => BitVec.ofNat 32 (field b k 4)
  let x := field b 12 4
  let cause := field b 52 4
  let regs := (List.range f.regs.length).map (fun n => if n == 0 then w 128 ||| 1 else w (128 + 4 * n))
  { f with
    pc := w 0, fpmode := w 4 &&& 0x1F, fpstat := w 8 &&& 0xFF
    txCause := BitVec.ofNat 9 x, txOrd := x.testBit 10, txIrrev := x.testBit 11, txDefer := x / 2 ^ 12 % 8
    txAborts := x / 2 ^ 16 % 256, txAttempts := x / 2 ^ 24 % 256 + f.txAttempts / 256 * 256
    srSeed := .ofWords (w 16) (w 20), srCtr := w 24
    trap := { addr := .ofWords (w 32) (w 36), info0 := w 40, info1 := w 44, pc := w 48
              cause := BitVec.ofNat 9 cause, kind := BitVec.ofNat 3 (cause / 2 ^ 9), lane := BitVec.ofNat 5 (cause / 2 ^ 12) }
    bank := [w 64, w 68, w 72, w 76]
    regs := regs
    inTrap := if !recordInTrap b then none else some (f.inTrap.getD { resume := .atPc, obj := f.obj, meet := BitVec.allOnes 32, at_ := w 48 })
    obj := match f.inTrap with
      | some t => if recordInTrap b then f.obj else t.obj
      | none => f.obj }

/-- A team with the laid-out fields of its header, its scratchpad, its full-empty bits and its tiles. -/
def Team.ofImage (t : Team) (o : Object) (b : List Byte) : Team :=
  let w := fun (k : Nat) => field b k 4
  let feAt := 2048 + o.scratch
  let tileAt := feAt + o.fullEmpty
  let n := min t.spSize o.scratch
  let tiles := (List.range t.tiles.length).zip t.tiles |>.map (fun (k, x) =>
    let x := x.ofShape (w (0x300 + 4 * k))
    if x.allot && k < o.tiles then { x with bits := BitVec.ofNat 65536 (field b (tileAt + 8192 * k) 8192) } else x)
  let left := t.remain / 2 ^ 32 * 2 ^ 32 + w 0x34C
  { t with
    handles := (List.range t.handles.length).zip t.handles |>.map (fun (k, h) => h.ofRecord (field b (0x100 + 8 * k) 8))
    books := (List.range 8).map (fun i => (List.range 16).map (fun j => BitVec.ofNat 16 (field b (0x200 + 32 * i + 2 * j) 2)))
    tiles := tiles
    ocur := BitVec.ofNat 24 (w 0x340), nobo := (w 0x340).testBit 24
    pivclamp := BitVec.ofNat 32 (w 0x344) &&& 0x7FFFFFFF
    thresh := BitVec.ofNat 16 (w 0x348), nwave := BitVec.ofNat 7 (w 0x348 / 2 ^ 16), polEn := (w 0x348).testBit 24
    polActive := (w 0x348).testBit 25
    wdog := left, spent := 0
    sp := Memory.setBytes [] 0 ((b.drop 2048).take n)
    fulls := (List.range ((n + 15) / 16)).filter (fun g => (field b (feAt + g / 8) 1).testBit (g % 8)) }

/-- A fibre's record in its team's part of an image. -/
def Object.record (o : Object) (b : List Byte) (i : FibreId) : List Byte :=
  let at_ := 2048 + o.scratch + o.fullEmpty + 8192 * o.tiles + 4096
  (b.drop (at_ + (i.crew.crew * o.fibres + i.index) * o.fibreBytes)).take o.fibreBytes

/-- The fibres of a team read back; a wave whose fibres no longer stand together divides. A fibre whose record software has made dead
is gone, and one that it has made live begins as its record says, in a wave of its own [94]. -/
def State.restoreFibres (s : State) (o : Object) (obj : Nat) (t : Team) (b : List Byte) : State :=
  let s := ((s.teamFibres t.launch t.id).filter (fun f => !recordLive (o.record b f.id))).foldl State.endFibre s
  let mine := s.teamFibres t.launch t.id
  let s := s.setFibres (mine.map (fun f => f.ofImage (o.record b f.id)))
  let slots := (List.range (o.crews * o.fibres)).map (fun k => (⟨.team t.launch t.id (k / o.fibres), k % o.fibres⟩ : FibreId))
  let s := (slots.filter (fun i => recordLive (o.record b i) && (s.fibre? i).isNone)).foldl (fun s i =>
    let f := (freshFibre i.crew i.index 0 obj t.window 0).ofImage (o.record b i)
    { s with fibres := s.fibres ++ [f] }.formWaves i.crew f.home (lanesOf [f]) none [f]) s
  let stand := fun (f : Fibre) => ((s.fibre? f.id).map (fun g => g.pc != f.pc || g.obj != f.obj || g.inTrap.isSome != f.inTrap.isSome)).getD false
  let moved := mine.filter stand
  (s.waves.filter (fun (w : Wave) => moved.any (fun f => f.id.crew == w.crew && f.home == w.home && w.lanes.getLsbD f.lane))).foldl
    (fun s w => s.regroup w w.lanes (s.waveFibres w) true) s

/-- The part's own bytes of an image, each with its place. -/
def ownOf (o : Object) (gang : Nat) (b : List Byte) : List (Nat × Byte) :=
  let b := (List.range b.length).zip b
  let ownTeam := fun (t : List (Nat × Byte)) =>
    let fibAt := 2048 + o.scratch + o.fullEmpty + 8192 * o.tiles + 4096
    t.take 256 ++ (t.drop 0x350).take (2048 - 0x350) ++ (t.drop (fibAt - 4096)).take 4096
      ++ (List.range (o.crews * o.fibres)).flatMap (fun k =>
        let r := (t.drop (fibAt + k * o.fibreBytes)).take o.fibreBytes
        (r.drop 56).take 8 ++ (r.drop 80).take 48 ++ r.drop (128 + 4 * o.wfull))
  (b.drop 24).take 232 ++ (List.range gang).flatMap (fun k => ownTeam ((b.drop (256 + k * o.teamBytes)).take o.teamBytes))

/-- Whether an image's check word holds. -/
def checkImage (o : Object) (gang : Nat) (b : List Byte) : Bool :=
  shake256 ((ownOf o gang b).map Prod.snd) 8 == (b.drop 16).take 8

/-- The save that an image comes from, by the part's own bytes of it: the latest that they match [94]. -/
def Gang.savedAs (g : Gang) (o : Object) (gang : Nat) (b : List Byte) : Option Shadow :=
  let own := ownOf o gang b
  g.saves.reverse.find? (fun x => own.all (fun p => p.2 == Config.imageByte x.save p.1))

/-- A gang as an earlier save left it: its teams keep the cores that they have now. -/
def State.goBack (s : State) (g : Gang) (x : Shadow) : State :=
  let place := fun (t : Team) => match s.team? t.launch t.id with
    | some u => { t with core := u.core, crews := u.crews, waived := u.waived, since := u.since }
    | none => t
  { s with
    teams := s.teams.map (fun (t : Team) => ((x.teams.find? (fun u => u.launch == t.launch && u.id == t.id)).map place).getD t)
    fibres := s.fibres.filter (fun (f : Fibre) => !s.ofGang g.launch g.id f.id.crew) ++ x.fibres
    waves := s.waves.filter (fun (w : Wave) => !s.ofGang g.launch g.id w.crew) ++ x.waves }

/-- A gang that has a position again resumes: its teams and fibres as the image holds them; a pending ACQ takes its place again; kept
answers act. -/
def State.resume (s : State) (l : Launch) (o : Object) (g : Gang) (b : List Byte) : State :=
  let s := match g.savedAs o l.gang b with
    | some x => if x.save == g.save then s else s.goBack g x
    | none => s
  let s := (gangIds l g.id).zip (List.range l.gang) |>.foldl (fun s (t, k) => match s.team? l.id t with
    | some u =>
      let tb := (b.drop (256 + k * o.teamBytes)).take o.teamBytes
      let u := { u.ofImage o tb with since := s.clk.cycles.getD (dieOf u.core) 0 }
      let s := if u.scores.isEmpty then s else (s.setTeam { u with scores := [] }).catchUp u.core
      let s := (s.setTeam u).restoreFibres o l.obj u tb
      if u.acq == .pending then s.setCore u.core (fun c => { c with acqs := placeAcq l.det l.id t c.acqs }) else s
    | none => s) s
  (s.setGang { g with state := .started, walking := none }).tryKept.wake

/-- A gang that has a position again and does not resume there leaves it: it is pre-empted as before, in its old place (02 R49). -/
def State.unseat (s : State) (g : Gang) : State :=
  let s := (s.gangTeams g.launch g.id).foldl (fun s t => s.setTeam { t with since := s.clk.cycles.getD (dieOf t.core) 0 }) s
  (s.leaveCores g.launch g.id).setGang { g with state := .preempted, stamp := g.was, walking := none }

/-- A gang gives a position up: the L1s that it leaves are written back, and its cluster is fused no longer (04 R122; 29 R496). -/
def giveUp (g : Gang) : M Unit := do
  leaveL1 g.launch g.id
  modify (fun s => s.unseat g)

/-- The restoration of a gang: its image is read; a check word that fails leaves it pre-empted, a fault ends the launch. -/
def restoreGang (l : Launch) (o : Object) (g : Gang) : M Unit := do
  let s ← get
  match (loadBytes (s.whoSaver g) (imageAt l o g.id) o.gangBytes .engine).run s with
  | .ok (b, t) => do
    set t
    if checkImage o l.gang b then modify (fun s => s.resume l o g b)
    else giveUp g
  | .error (.trap d) => modify (fun s => s.endLaunch l.id d.cause)
  | .error e => throw e

/-- GANG_RESTORE: the gang `gang` of the launch `launch`, which has its position (PLACEMENT_PASS). -/
def execGangRestore (s : State) : Host.Outcome State Fault Refusal :=
  match s.gang? s.ev.launch s.ev.gang, s.launch? s.ev.launch, s.objOf s.ev.launch with
  | some g, some l, some o =>
    if g.state == .restoring && g.leaving.isNone then .next (s.attemptFor g (restoreGang l o g)) else .next s
  | _, _, _ => .next s

end Sys2Proof.Machine
end

