-- ==== Sys2Proof/Machine/Context.lean ====
section
/-! DEFINITION. The ends of CTXS, CTXR and MIGR (19 R418 to R420). -/

namespace Sys2Proof.Machine

/-- An operation of this file ends: its 16-byte record with the bytes moved, or the cause alone. -/
def State.endWith (s : State) (o : EngOp) (r : Except Cause Nat) : State :=
  match s.team? o.launch o.team with
  | none => s.dropOp o
  | some t =>
    let h := t.handle o.handle
    let (bs, e) := (match r with
      | .ok n => (leBytes 8 n ++ leBytes 8 0, (0 : Cause))
      | .error e => ([], e))
    let t := (t.deliver h 0 bs).setHandle o.handle { h with state := .full, paused := false, status := e, count := bs.length }
    ((s.setTeam t).dropOp o).wake

/-- An effect of an operation that ends it, unless it must wait. -/
def State.endBy (s : State) (o : EngOp) (x : M Nat) : State :=
  match x.run s with
  | .ok (n, t) => t.endWith o (.ok n)
  | .error (.trap d) => s.endWith o (.error d.cause)
  | .error (.wait why post) => s.opWaits o why post
  | .error _ => s

/-- The operation of an event, when it may run. -/
def State.opOf (s : State) (k : EngKind) : Option EngOp :=
  (s.ops.find? (fun (o : EngOp) => o.id == s.ev.op && o.kind == k)).bind (fun o => (s.runner o).map (fun _ => o))

/-! ### CTXS and CTXR -/

/-- SCHED.NOGANG and SCHED.CTXBAD. -/
def noGang : Cause := schedC 9
def ctxBad : Cause := schedC 16

/-- The gang that a descriptor names (19 R418). -/
def State.namedGang (s : State) (b : List Byte) : Option (Launch × Object × Gang) :=
  match s.launches.find? (fun (l : Launch) => l.queue == field b 0 4 && l.seq.toNat == field b 4 4) with
  | none => none
  | some l => match s.object? l.obj, s.gang? l.id (field b 8 4) with
    | some o, some g => if g.leaving.isNone then some (l, o, g) else none
    | _, _ => none

/-- The address of a descriptor's context area. -/
def contextAt (b : List Byte) : DWord := BitVec.ofNat 64 (field b 16 8)

/-- Whose accesses to a named gang's context area are: the operation's, in the gang's own space. -/
def State.gangWho (s : State) (o : EngOp) (l : Launch) : Who := { s.whoEngine o with queue := l.queue, launch := l.id }

/-- A saved image copied from a gang's context area to the address named. -/
def copyOutImage (o : EngOp) (l : Launch) (x : Object) (g : Gang) : M Nat := do
  let s ← get
  let b ← loadBytes (s.gangWho o l) (imageAt l x g.id) x.gangBytes .engine
  storeBytes (s.whoEngine o) (contextAt o.block + 256) (b.drop 256) .engine
  storeBytes (s.whoEngine o) (contextAt o.block) (b.take 256) .engine
  modify (fun s => s.setGang { g with state := .held })
  pure x.gangBytes

/-- A gang that CTXS names leaves its cores, or its new position, and is held; its queue may hold no other. -/
def State.hold (s : State) (g : Gang) : State :=
  let held := fun (s : State) => match s.gang? g.launch g.id with
    | some h => if h.state == .preempted then (s.setGang { h with state := .held }).idleQueues else s
    | none => s
  match g.state with
  | .placed | .started => s.preempt g true
  | .restoring => held (s.attemptFor g (giveUp g))
  | .preempted | .held => held s

/-- The cause with which the save of a gang ends that is still on its cores and is settled, if a fault ends it (28 R486) [104]. -/
def State.saveFault (s : State) (l : Launch) (o : Object) (g : Gang) : Option Cause :=
  let s := s.settle l.id g.id
  if (g.state == .placed || g.state == .started) && s.settled l.id g.id then
    match (saveGang l o g true).run s with
    | .ok (e, _) => e
    | .error _ => none
  else none

/-- CTXS_END: of the operation `op`. -/
def execCtxsEnd (s : State) : Host.Outcome State Fault Refusal :=
  match s.opOf .ctxs with
  | none => .next s
  | some o => match s.namedGang o.block with
    | none => .next (s.endWith o (.error noGang))
    | some (l, x, g) =>
      if l.id == o.launch && g.id == s.gangOf o.launch o.team then .next (s.endWith o (.error noGang))
      else
        let t := s.hold g
        match s.saveFault l x g with
        | some e => .next (t.endWith o (.error e))
        | none => match t.gang? l.id g.id with
          | some h => if h.state == .held then .next (t.endBy o (copyOutImage o l x h)) else .next t
          | none => .next t

/-- An image read from the address named into the gang's context area; the gang is pre-empted again. -/
def copyInImage (o : EngOp) (l : Launch) (x : Object) (g : Gang) : M Nat := do
  let s ← get
  let b ← loadBytes (s.whoEngine o) (contextAt o.block) x.gangBytes .engine
  checkM (checkImage x l.gang b) ctxBad
  writeImage (s.gangWho o l) (imageAt l x g.id) b
  modify (fun s => s.setGang { g with state := .preempted })
  pure x.gangBytes

/-- CTXR_END: of the operation `op`. -/
def execCtxrEnd (s : State) : Host.Outcome State Fault Refusal :=
  match s.opOf .ctxr with
  | none => .next s
  | some o => match s.namedGang o.block with
    | none => .next (s.endWith o (.error noGang))
    | some (l, x, g) =>
      if g.state != .held then .next (s.endWith o (.error noGang))
      else .next (s.endBy o (copyInImage o l x g)).movePointers

/-! ### MIGR (19 R420) -/

/-- The page of a migration: virtual page, bytes, destination. -/
def migPage (b : List Byte) : Nat := field b 0 8 / 32768
def migTo (b : List Byte) : Nat := field b 16 8

/-- The translations of the page. -/
def State.migRange (s : State) (o : EngOp) : TlbRange :=
  let sys := ((s.launch? o.launch).map Launch.system).getD false
  { first := migPage o.block, count := migSize o.block / 32768, queue := if sys then none else some (s.queueOf o.launch) }

/-- A leaf's entry read at its home. -/
def readLeaf (who : Who) (leaf : Nat) : M Nat := readNode who (leaf / 2 ^ 52 % 4) (leaf / 2 ^ 54) (leaf % 2 ^ 52) 0

/-- A leaf's entry replaced. -/
def writeLeaf (who : Who) (leaf x : Nat) : M Unit := changeLeaf who leaf (fun _ => x) (lineWrite 0 8 x)

/-- The first steps: the leaf is marked and the page's translations are invalidated. The operation keeps the leaf and its entry. -/
def migMark (o : EngOp) : M EngOp := do
  let s ← get
  let who := s.whoEngine o
  let x ← leafOf who (migPage o.block)
  match x with
  | none => trapM (trans 0 0 false)
  | some (leaf, level) => do
    checkM (pageBytes level == migSize o.block) (trans 0 level false)
    let y ← readLeaf who leaf
    let e := Pte.ofNat y
    checkM (e.pa % pageBytes level == 0 && !e.rsv && (e.loc != 0 || inDevice e.pa (pageBytes level)) && (e.loc != 2 || e.peer ≤ 191))
      (trans 0 level false)
    if e.mig then waitM .walk
    changeLeaf who leaf (fun y => y ||| 128) (.intAtomic 4 2 128)
    let r := s.migRange o
    modify (fun s =>
      let s := { s with mem := { s.mem with migrating := (placeNo e.loc e.peer e.pa, migSize o.block) :: s.mem.migrating } }
      s.tlbScope r o.core 4)
    pure { o with done := 1, idx := [leaf, y], since := none }

/-- A line of the old page. -/
def migRead (o : EngOp) (e : Pte) (k : Nat) : M (BitVec 512) := do
  let s ← get
  let who := s.whoEngine o
  let pa := e.pa + k
  match e.loc with
  | 0 => l2Read who (pa / 64) 0
  | 1 => pure (BitVec.ofNat 512 (s.mem.host.getN pa 64))
  | _ => do
    let r ← forward who e.peer pa 64 0 .read
    pure (BitVec.ofNat 512 (replyVal r))

/-- Lines copied to the destination. -/
def migCopy (o : EngOp) (e : Pte) : Nat → Nat → M Unit
  | 0, _ => pure ()
  | n + 1, k => do
    let d ← migRead o e k
    let s ← get
    l2Store (s.whoEngine o) ((migTo o.block + k) / 64) (BitVec.allOnes 64) d
    migCopy o e n (k + 64)

/-- Dirty bytes of the page, decoded ones included, written back from every L1 and encoded or cleaned at the L2. -/
def migClean (o : EngOp) (e : Pte) : M Unit := do
  let s ← get
  let size := migSize o.block
  let raw := fun (l : Nat) => l < viewLine && e.pa / 64 ≤ l && l < (e.pa + size) / 64
  let which := fun (l : Nat) => raw l || (viewLine ≤ l && (s.mem.codeLines l).any raw)
  forM_ (List.range s.cores.length) (fun k => wbLines (s.whoEngine o) k which)
  modify (fun s => { s with mem := s.mem.l2wb e.pa size false })

/-- The last steps: the page is copied, and the new entry written. -/
def migMove (o : EngOp) (leaf y : Nat) : M Nat := do
  let s ← get
  let e := Pte.ofNat y
  let size := migSize o.block
  if e.loc == 0 then migClean o e
  migCopy o e (size / 64) 0
  -- V, LEAF, W, A and D stay; MIG, LOC, ACC and PEER are 0.
  let z ← readLeaf (s.whoEngine o) leaf
  writeLeaf (s.whoEngine o) leaf (z % 32 + migTo o.block)
  modify (fun s => { s with mem := s.mem.setDir leaf (fun d => { d with count := 0 }) })
  pure size

/-- The page is no longer under migration. -/
def State.unmark (s : State) (o : EngOp) (y : Nat) : State :=
  let e := Pte.ofNat y
  { s with mem := { s.mem with migrating := s.mem.migrating.erase (placeNo e.loc e.peer e.pa, migSize o.block) } }.wake

/-- A fault leaves the old mapping in force. -/
def migUndo (o : EngOp) (leaf : Nat) : M Unit := do
  let s ← get
  changeLeaf (s.whoEngine o) leaf (fun z => z / 256 * 256 + z % 128) (.intAtomic 3 2 (~~~ 128))

/-- The second half of a migration. -/
def State.migFinish (s : State) (o : EngOp) (leaf y : Nat) : State :=
  if s.oldAccess (s.migRange o) then s
  else match (migMove o leaf y).run s with
    | .ok (n, t) => (t.endWith o (.ok n)).unmark o y
    | .error (.trap d) => match (migUndo o leaf).run s with
      | .ok (_, t) => (t.endWith o (.error d.cause)).unmark o y
      | .error (.wait why post) => s.opWaits o why post
      | .error _ => (s.endWith o (.error d.cause)).unmark o y
    | .error (.wait why post) => s.opWaits o why post
    | .error _ => s

/-- MIGR_END: of the operation `op`: first its page is marked, then it is moved. -/
def execMigrEnd (s : State) : Host.Outcome State Fault Refusal :=
  match s.opOf .migr with
  | none => .next s
  | some o => match o.idx with
    | [leaf, y] => .next (s.migFinish o leaf y)
    | _ => match (migMark o).run s with
      | .ok (p, t) => .next (t.setOp p)
      | .error (.trap d) => .next (s.endWith o (.error d.cause))
      | .error (.wait why post) => .next (s.opWaits o why post)
      | .error _ => .next s

end Sys2Proof.Machine
end

