-- ==== Sys2Proof/Machine/Fabric.lean ====
section
/-! DEFINITION. The fabric: ports, heartbeats, the death and the admission of agents (31 R503 to R511). No message arrives while every
port is down. -/

namespace Sys2Proof.Machine

/-! ### Ports (31 R503, R504) -/

def State.port (s : State) (p : Nat) : Port := s.fabric.ports.getD p {}
def State.setPort (s : State) (p : Nat) (f : Port → Port) : State :=
  { s with fabric := { s.fabric with ports := updAt s.fabric.ports p f } }

/-- The link protocol versions the part offers: 1 and 2. -/
def offeredVersions : BitVec 16 := 0x0006

/-- The highest version set in both maps. -/
def commonVersion (peer : BitVec 16) : Option Nat :=
  ((List.range 16).reverse).find? (fun n => (offeredVersions &&& peer).getLsbD n)

/-- PORTSTAT.REASON. -/
def reasonCode : PortReason → BitVec 3
  | .none => 0
  | .noVer => 1
  | .noSignal => 2
  | .failed => 3
  | .disabled => 4

/-- Flits that a port cannot deliver are sent on another port that is up; with none they wait. -/
def State.moveFlits (s : State) (p : Nat) : State :=
  match (List.range s.fabric.ports.length).find? (fun k => k != p && (s.port k).up) with
  | none => s
  | some k =>
    let fl := (s.port p).flits
    (s.setPort p (fun x => { x with flits := [] })).setPort k (fun x => { x with flits := x.flits ++ fl })

/-- A port goes down. -/
def State.portDown (s : State) (p : Nat) (why : PortReason) : State :=
  (s.setPort p (fun x => { x with up := false, ver := 0, reason := reasonCode why })).moveFlits p

/-- Flits that waited for a port that is up. -/
def State.gatherFlits (s : State) : State :=
  (List.range s.fabric.ports.length).foldl (fun s k => if (s.port k).up || (s.port k).flits.isEmpty then s else s.moveFlits k) s

/-- What a port comes to after training. -/
def State.trainPort (s : State) (p : Nat) : PortPeer → State
  | .noSignal => s.portDown p .noSignal
  | .failed => s.portDown p .failed
  | .versions m => match commonVersion m with
    | none => s.portDown p .noVer
    | some v => (s.setPort p (fun x => { x with up := true, ver := BitVec.ofNat 2 v, reason := 0 })).gatherFlits.flush

/-- PORT_TRAINING: of the port `port`, with what its other side offers; a port that DIS holds down does not train. -/
def execPortTraining (s : State) : Host.Outcome State Fault Refusal :=
  let p := s.port s.ev.port
  if 16 ≤ s.ev.port || p.up || p.dis then .next s else .next (s.trainPort s.ev.port s.ev.peer)

/-- PORT_DOWN: the port `port` fails for the reason `why`. -/
def execPortDown (s : State) : Host.Outcome State Fault Refusal :=
  if (s.port s.ev.port).up then .next (s.portDown s.ev.port s.ev.why) else .next s

/-! ### Heartbeats (31 R506) -/

/-- FABCFG.VEC raised (31 R511). -/
def State.fabricIrq (s : State) : State := s.send (.interrupt s.fabric.vec)

def State.setAgent (s : State) (a : Nat) (f : Agent → Agent) : State :=
  { s with fabric := { s.fabric with agents := updAt s.fabric.agents a f } }

/-- SELF.ID as a number. -/
def State.selfId (s : State) : Nat := s.fabric.self.toNat

/-- Ticks of 125 µs. -/
def beatTicks : Nat := 12500

/-- HEARTBEAT_SEND: once every 125 µs on every port that is up, while this device is a live agent. -/
def execHeartbeatSend (s : State) : Host.Outcome State Fault Refusal :=
  if (s.agent s.selfId).live && s.fabric.beats < s.rtime / beatTicks then
    let ports := (List.range s.fabric.ports.length).filter (fun p => (s.port p).up)
    let s := { s with fabric := { s.fabric with beats := s.rtime / beatTicks } }
    .next (ports.foldl (fun s p => s.send (.heartbeat p)) s)
  else .next s

/-! ### Death (31 R507, R508; 03 R95; 01 R40) -/

/-- Accesses that are out are refused with MEM.OWNERDEAD; the directory's own read of ACC leaves its count at 63 (28 R474). -/
def State.refuseOut (s : State) (which : Fwd → Bool) : State :=
  let accs := s.fwds.filter (fun (r : Fwd) => which r && r.acc.isSome)
  let s := { s with
    mem := accs.foldl (fun m (r : Fwd) => m.setCount (r.acc.getD 0) 63) s.mem
    fwds := s.fwds.filter (fun (r : Fwd) => !accs.any (fun (q : Fwd) => q.id == r.id)) }
  let s := accs.foldl (fun s (r : Fwd) => s.ackFlit r.id) s
  let ids := (s.fwds.filter (fun r => which r && r.reply.isNone)).map Fwd.id
  let s := { s with fwds := s.fwds.map (fun (r : Fwd) => if ids.contains r.id then { r with dead := true } else r) }
  ids.foldl State.ackFlit s

/-- A span launch ends with SYS.SPANFAIL and lodes added to its map (01 R40). -/
def State.failSpan (s : State) (l : Launch) (map : BitVec 192) : State :=
  (s.setLaunch { l with span := l.span.map (fun p => { p with map := p.map ||| map }) }).endLaunch l.id sysSpanFail

/-- The lodes of a span that agents hold, as a map. -/
def Span.lodesOf (p : Span) (which : Nat → Bool) : BitVec 192 :=
  ((List.range p.agents.length).zip p.agents).foldl (fun m (n, a) => if which a then m ||| BitVec.ofNat 192 (2 ^ n) else m) 0

/-- Running span launches that include an agent of some kind end. -/
def State.failSpans (s : State) (which : Nat → Bool) : State :=
  s.launches.foldl (fun s l => match l.span with
    | some p => if p.phase == .running && !l.ending && p.agents.any which then s.failSpan l (p.lodesOf which) else s
    | none => s) s

/-- An agent is dead for this device. -/
def State.declareDead (s : State) (a : Nat) : State :=
  let s := s.setAgent a (fun x => { x with live := false })
  let s := s.refuseOut (fun r => r.dev == a)
  (s.failSpans (fun b => b == a)).fabricIrq.wake

/-- Whether 1,000 µs have passed without a heartbeat of a live agent. -/
def State.overdue (s : State) (a : Nat) : Bool := (s.agent a).live && a != s.selfId && (s.agent a).heard + 100000 ≤ s.rtime

/-- HEARTBEAT_RECEIVE: from the agent `agent` at incarnation `word`, on the port `port`; one that comes after 1,000 µs comes from
a dead agent. -/
def execHeartbeatReceive (s : State) : Host.Outcome State Fault Refusal :=
  let a := s.ev.agent
  if !(s.port s.ev.port).up then .next s
  else if !s.accepts a s.ev.word then .next s.dropMessage
  else if s.overdue a then .next (s.declareDead a).dropMessage
  else .next (s.setAgent a (fun x => { x with heard := s.rtime }))

/-- AGENT_DEATH_DECLARE: 1,000 µs have passed without a heartbeat of the agent `agent`. -/
def execAgentDeathDeclare (s : State) : Host.Outcome State Fault Refusal :=
  let a := s.ev.agent
  if s.overdue a then .next (s.declareDead a) else .next s

/-- This device has been declared dead: every other agent is dead for its running launches, and it asks to be admitted again. -/
def State.selfDead (s : State) : State :=
  let me := s.selfId
  let s := s.setAgent me (fun x => { x with live := false })
  let s := { s with fabric := { s.fabric with go := false }, launches := s.launches.map (fun (l : Launch) =>
    { l with cut := l.cut || 0 < l.nextGang || !l.early.isEmpty }) }
  let s := s.refuseOut (fun _ => true)
  ((s.failSpans (fun b => b != me)).send .readmit).fabricIrq.wake

/-- DEAD_MESSAGE: the fabric manager's DEAD for the agent `agent` at incarnation `word`. -/
def execDeadMessage (s : State) : Host.Outcome State Fault Refusal :=
  let a := s.ev.agent
  if !s.fabric.linked then .next s
  else if a == s.selfId then
    if s.fabric.selfInc == s.ev.word && (s.agent a).live then .next s.selfDead else .next s.fabricIrq
  else if s.accepts a s.ev.word then .next (s.declareDead a)
  else .next s.fabricIrq

/-! ### Admission (31 R505, R509, R510) -/

/-- ADMIT recorded: the incarnation, and that the agent lives; `mine` says that it gives this device its own id. -/
def State.admitAgent (s : State) (a : Nat) (inc : Word) (mine : Bool) : State :=
  let s := s.setAgent a (fun _ => { live := true, inc := inc, heard := s.rtime })
  let f := s.fabric
  let s := if mine then { s with fabric := { f with self := BitVec.ofNat 8 a, selfInc := inc, go := false, beats := s.rtime / beatTicks } } else s
  (s.send (.admitAck a inc)).fabricIrq.wake

/-- ADMIT_MESSAGE: the agent `agent` at incarnation `word`; `write` where it names this device. -/
def execAdmitMessage (s : State) : Host.Outcome State Fault Refusal :=
  if s.fabric.linked && s.ev.agent ≤ 192 then .next (s.admitAgent s.ev.agent s.ev.word (s.ev.write || s.ev.agent == s.selfId)) else .next s

/-- ADMISSION_GO: this device may send every kind of message. -/
def execAdmissionGo (s : State) : Host.Outcome State Fault Refusal :=
  if s.fabric.linked && (s.agent s.selfId).live then .next ({ s with fabric := { s.fabric with go := true } }.flush).wake else .next s

/-- FABRIC_MESSAGE_RECEIVE: any message of the agent `agent` at incarnation `word`: it is dropped and counted, or its own row says
what it does. -/
def execFabricMessageReceive (s : State) : Host.Outcome State Fault Refusal :=
  if !s.fabric.linked || s.accepts s.ev.agent s.ev.word then .next s else .next s.dropMessage

end Sys2Proof.Machine
end

