-- ==== Sys2Proof/Machine/Loader.lean ====
section
/-! DEFINITION. The loader's checks of a kernel object, in their order (26 R447 to R450; 12 R254; 07 R171, R172; 08 R184). -/

namespace Sys2Proof

/-- Opcodes that carry a static target. -/
def Op.hasTarget (op : Op) : Bool :=
  match op with
  | .bra | .call | .loop | .fork | .spawn | .spawnt | .txb | .txo | .glds | .jtab => true
  | _ => false

/-- What ends the lookahead walk after it: control transfers and END (12 R254). -/
def Op.endsWalk (op : Op) : Bool := op.transfers || op == .endF

end Sys2Proof

namespace Sys2Proof.Machine

/-- SCHED and ORDER causes of the loader. -/
def objFormat : Cause := schedC 10
def objLimit : Cause := schedC 11

/-! ### The header (26 R447, R448) -/

/-- The header's fields. -/
structure ObjHead where
  magic : Nat
  ver : Nat
  flags : Nat
  codesz : Nat
  dictn : Nat
  constsz : Nat
  crews : Nat
  fibres : Nat
  gang : Nat
  wpro : Nat
  wfull : Nat
  tiles : Nat
  handles : Nat
  iwin : Nat
  ifib : Nat
  scratch : Nat
  sump : Nat
  argsz : Nat
  codeoff : Nat
  dictoff : Nat
  constoff : Nat
  zero : Nat
deriving DecidableEq, Repr, Inhabited

def ObjHead.ofBytes (b : List Byte) : ObjHead where
  magic := field b 0 4
  ver := field b 4 2
  flags := field b 6 2
  codesz := field b 8 4
  dictn := field b 12 4
  constsz := field b 16 4
  crews := field b 20 2
  fibres := field b 22 2
  gang := field b 24 1
  wpro := field b 25 1
  wfull := field b 26 1
  tiles := field b 27 1
  handles := field b 28 1
  iwin := field b 29 1
  ifib := field b 30 2
  scratch := field b 32 4
  sump := field b 36 4
  argsz := field b 40 4
  codeoff := field b 44 4
  dictoff := field b 48 4
  constoff := field b 52 4
  zero := field b 60 4

/-- Whether a section of n bytes at an offset lies in an image, after the header. -/
def sectionIn (size off n : Nat) : Bool := n == 0 || (off % 16 == 0 && 64 ≤ off && off + n ≤ size)

/-- Whether two sections share no byte. -/
def sectionsApart (a m b n : Nat) : Bool := m == 0 || n == 0 || a + m ≤ b || b + n ≤ a

/-- Step 1 of R449: magic, version, reserved bits, section sizes and places. -/
def ObjHead.formatOk (h : ObjHead) (size : Nat) : Bool :=
  h.magic == 0x314D4B56 && h.ver == 1 && h.flags / 4 == 0 && h.zero == 0
    && h.codesz % 2 == 0 && 2 ≤ h.codesz && h.codesz ≤ 2 ^ 24 && h.dictn ≤ 1024
    && sectionIn size h.codeoff h.codesz && sectionIn size h.dictoff (16 * h.dictn) && sectionIn size h.constoff h.constsz
    && sectionsApart h.codeoff h.codesz h.dictoff (16 * h.dictn) && sectionsApart h.codeoff h.codesz h.constoff h.constsz
    && sectionsApart h.dictoff (16 * h.dictn) h.constoff h.constsz

/-- Step 2: shape fields, R22 for both crew kinds, R28 and R77. -/
def ObjHead.limitsOk (h : ObjHead) : Bool :=
  1 ≤ h.crews && h.crews ≤ 4 && 1 ≤ h.fibres && h.fibres ≤ 1024 && (h.gang == 1 || h.gang == 2 || h.gang == 4)
    && 1 ≤ h.wpro && h.wpro ≤ 16 && h.wpro ≤ h.wfull && h.wfull ≤ 255 && h.tiles ≤ 16 && 2 ≤ h.handles && h.handles ≤ 32
    && h.constsz ≤ 61440 && h.argsz ≤ 4096 && 4096 ≤ h.scratch && h.scratch ≤ 262144 && h.scratch % 16 == 0
    && ((h.iwin == 0 && h.ifib == 0) || (5 ≤ h.iwin && h.iwin ≤ 255 && 1 ≤ h.ifib && h.ifib ≤ 1024))
    && h.fibres * h.wfull ≤ 32768 && h.ifib * h.iwin ≤ 32768

/-! ### The code walk (26 R450) -/

/-- An instruction that the walk visits: its offset, and its word where it is usable. -/
structure Visit where
  pc : Nat
  op : Option Op
  w : Fields
  /-- A mark that is unusable (12 R246). -/
  bad : Bool := false
deriving DecidableEq, Repr, Inhabited

/-- A word as the walk sees it. -/
def visitWord (pc n : Nat) : Visit := { pc := pc, op := Op.ofCode (n % 256), w := Fields.ofNat n }

/-- The entry that a mark names. -/
def visitMark (dict : List (BitVec 96)) (pc i : Nat) : Visit :=
  match dict[i]? with
  | some d =>
    let v := visitWord pc d.toNat
    { v with bad := isMarkByte (BitVec.ofNat 8 d.toNat) || v.w.rsv != 0 }
  | none => { pc := pc, op := none, w := Fields.ofNat 0, bad := true }

/-- The instructions from an offset on, and whether the walk ends exactly at the end of the code. -/
def codeWalk (dict : List (BitVec 96)) : Nat → Nat → List Byte → List Visit × Bool
  | 0, _, c => ([], c.isEmpty)
  | _ + 1, _, [] => ([], true)
  | _ + 1, pc, [_] => ([{ pc := pc, op := none, w := Fields.ofNat 0, bad := true }], false)
  | n + 1, pc, b0 :: b1 :: r =>
    if isMarkByte b0 then
      let (vs, ok) := codeWalk dict n (pc + 2) r
      (visitMark dict pc (markIndex (b0.setWidth 2) b1) :: vs, ok)
    else if r.length < 10 then ([], false)
    else
      let (vs, ok) := codeWalk dict n (pc + 12) (r.drop 10)
      (visitWord pc (leNat (b0 :: b1 :: r.take 10)) :: vs, ok)

/-- The static target of a visited instruction (12 R237, R247). -/
def Visit.target (v : Visit) : Option Nat :=
  match v.op with
  | some op => if op.hasTarget && !v.bad then some ((BitVec.ofNat 32 v.pc + v.w.imm).toNat) else none
  | none => none

/-- The slot at which the instructions after a long one breach its window, if any does. -/
def lookBreach (regs : List Nat) : List Visit → Option Nat
  | [] => none
  | v :: vs =>
    if v.bad then none
    else match v.op with
      | none => lookBreach regs vs
      | some op => match op.breachSlot v.w regs with
        | some k => some k
        | none => if op.endsWalk then none else lookBreach regs vs

/-- Step 7: the first breach among the code's instructions, in their order. -/
def firstBreach : List Visit → Option Nat
  | [] => none
  | v :: vs =>
    match v.op with
    | some op =>
      if !v.bad && op.long && v.w.la != 0 then
        match lookBreach (op.dstRegs v.w) (vs.take v.w.la.toNat) with
        | some k => some k
        | none => firstBreach vs
      else firstBreach vs
    | none => firstBreach vs

/-- The opcodes that count for the promise: of every whole instruction and every entry (07 R171). -/
def opcodesOf (vs : List Visit) (code : List Byte) (dict : List (BitVec 96)) : List Op :=
  (vs.filter (fun v => !isMarkByte (code.getD v.pc 0))).filterMap Visit.op ++ dict.filterMap (fun d => Op.ofCode (d.toNat % 256))

/-! ### Loading (26 R449) -/

/-- Steps 3 to 8, and the object. -/
def loadObject (h : ObjHead) (id : Nat) (code : List Byte) (dict : List (BitVec 96)) (consts : List Byte) : Except Cause Object :=
  let (vs, ends) := codeWalk dict (code.length + 1) 0 code
  let ops := opcodesOf vs code dict
  let starts := vs.map Visit.pc
  let targets := vs.filterMap Visit.target
  let labels := (vs.filter (fun v => v.op == some .glds)).filterMap Visit.target
  let isMeet := fun (t : Nat) => vs.any (fun v => v.pc == t && v.op == some .meet && !v.bad)
  let bitwise := !ops.any Op.unordered
  if !ends then .error insnPcRange
  else if !targets.all starts.contains then .error insnPcRange
  else if !labels.all isMeet then .error (syncSplit 7)
  else if ops.any (fun o => o == .spawn || o == .spawnt) && h.ifib == 0 then .error (schedC 1)
  else match firstBreach vs with
    | some k => .error (insnLookahead k)
    | none =>
      if h.flags.testBit 0 && h.flags.testBit 1 != bitwise then .error (orderC 1)
      else .ok { id := id, code := code, dict := dict, consts := consts, crews := h.crews, fibres := h.fibres, gang := h.gang
                 wpro := h.wpro, wfull := h.wfull, tiles := h.tiles, handles := h.handles, iwin := h.iwin, ifib := h.ifib
                 scratch := h.scratch, sump := h.sump, bitwise := bitwise, aflush := ops.contains .aflush
                 ordered := ops.any (fun o => o == .atomo || o == .caso || o == .fredo || o == .fatomo) }

/-- An image of `size` bytes, read byte by byte, loaded under a name. -/
def loadImage (id size : Nat) (read : Nat → Byte) : Except Cause Object :=
  let bytes := fun (k n : Nat) => (List.range n).map (fun i => read (k + i))
  if size < 64 then .error objFormat
  else
    let h := ObjHead.ofBytes (bytes 0 64)
    if !h.formatOk size then .error objFormat
    else
      let entries := (List.range h.dictn).map (fun j => bytes (h.dictoff + 16 * j) 16)
      if entries.any (fun e => field e 12 4 != 0) then .error objFormat
      else if !h.limitsOk then .error objLimit
      else loadObject h id (bytes h.codeoff h.codesz) (entries.map (fun e => BitVec.ofNat 96 (field e 0 12))) (bytes h.constoff h.constsz)

end Sys2Proof.Machine
end

