-- ==== Sys2Proof/Machine/Program.lean ====
section
/-! DEFINITION. A program placed for the next step: a loaded object and a system launch of one team whose fibre 0 stands at its
first instruction [7]. The part itself loads objects by load records and places teams (26; 02), which the rows LOAD_RECORD,
LAUNCH_RECORD and PLACEMENT_PASS model. -/

namespace Sys2Proof.Machine

/-- Firmware's own trap runtime: an object whose traps the driver answers (28 R482) [8]. -/
def runtimeObject (id : Nat) : Object := { id := id, code := [], dict := [], ringed := true }

/-- A one-crew object with the code given: 32 fibres of 64 registers, 16 tiles, 32 handles, 64 KiB of scratchpad. -/
def programObject (id : Nat) (code : List Byte) : Object :=
  { id := id, code := code, dict := [], fibres := 32, wpro := 64, wfull := 64, tiles := 16, handles := 32, scratch := 65536 }

/-- The team of a placed program, its full allotment granted. Its watchdog has expired and no write has restarted it (02 R66), so that none
comes before its first instruction [7]. -/
def programTeam (launch : Nat) : Team :=
  { launch := launch, id := 0, core := 0, crews := [{ quad := 0, slot := 0, base := [(0, 2048)] }], window := 64, acq := .granted
    spSize := 65536, tiles := List.replicate 16 grantTile, handles := List.replicate 32 { allot := true }
    books := List.replicate 8 (List.replicate 16 0), wdog := 0 }

/-- A program's first instruction stands where the next step fetches. -/
def State.withProgram (s : State) (code : List Byte) : State :=
  let n := s.nextId
  let crew : CrewId := .team n 0 0
  { s with
    nextId := n + 4
    agenda := .issue (n + 1) :: s.agenda
    objects := s.objects ++ [programObject (n + 2) code, runtimeObject (n + 3)]
    launches := s.launches ++ [{ id := n, queue := 0, seq := 1, obj := n + 2, nteams := 1, gang := 1, system := true
                                 cores := 1, nextGang := 1, trapObj := BitVec.ofNat 32 (n + 3) }]
    teams := s.teams ++ [programTeam n]
    gangs := s.gangs ++ [{ launch := n, id := 0, state := .started, stamp := 0 }]
    fibres := s.fibres ++ [freshFibre crew 0 0 (n + 2) 64 0]
    -- It has waited longest, so its quadrant chooses it (02 R57).
    waves := s.waves ++ [{ id := n + 1, crew := crew, home := 0, lanes := 1, meet := 1, age := (s.waves.map Wave.age).foldl max 64 + 1 }] }

end Sys2Proof.Machine
end

