-- ==== Sys2Proof/Machine/Records.lean ====
section
/-! DEFINITION. Records as the device reads them, launches as they are checked and accepted, completion records and notifications
(27 R463 to R467; 02 R44, R45; 07 R177; 30 R497). -/

namespace Sys2Proof.Machine

/-! ### Errors of a queue (27 R462, R463) -/

/-- The error bits of QERR. -/
inductive QErr where
  | tailBad | ringFault | compFault
deriving DecidableEq, Repr, Inhabited

/-- An error bit is set, and raises QCFG.VEC. -/
def State.queueError (s : State) (q : Nat) (e : QErr) : State :=
  let s := s.setQueue q (fun u => match e with
    | .tailBad => { u with tailBad := true }
    | .ringFault => { u with ringFault := true }
    | .compFault => { u with compFault := true })
  s.send (.interrupt (s.queue q).vec)

/-- Whether a host physical range holds a poisoned line of device memory: its read fails (32 R517). -/
def State.poisonAt (s : State) (a n : Nat) : Bool :=
  (List.range n).any (fun i => s.hdmBase ≤ a + i && a + i < s.hdmBase + deviceBytes && s.mem.poison.contains ((a + i - s.hdmBase) / 64))

/-! ### Reading a record (27 R463, R464) -/

/-- Where the queue's next record stands. -/
def Queue.slotAt (u : Queue) : Nat := u.base.toNat + 128 * (u.head.toNat % max u.size.toNat 1)

/-- The queue's next record, when the device may read it now. -/
def State.nextRecord (s : State) (q : Nat) : Option (List Byte) :=
  let u := s.queue q
  if u.en && u.head != u.tail && hostReach s u.slotAt 128 then some ((List.range 128).map (fun i => hostByte s (u.slotAt + i)))
  else none

/-- QHEAD after a record has been copied. -/
def State.advance (s : State) (q : Nat) : State := s.setQueue q (fun u => { u with head := u.head + 1 })

/-- A failed read of a record clears EN and sets RINGFAULT; QHEAD stays. -/
def State.ringFault (s : State) (q : Nat) : State := (s.setQueue q (fun u => { u with en := false })).queueError q .ringFault

/-- A record finished: its completion record is to be written. -/
def State.finishRecord (s : State) (q : Nat) (b : List Byte) (status : Cause) (low high : Nat) : State :=
  let (i, s) := s.newId
  { s with finished := s.finished ++ [{ id := i, queue := q, seq := BitVec.ofNat 32 (field b 4 4), comp := BitVec.ofNat 64 (field b 88 8)
                                        acceptedAt := BitVec.ofNat 64 s.rtime, status := status, low := low, high := high }] }

/-- The bytes of a record are zero. -/
def zeros (b : List Byte) (k n : Nat) : Bool := field b k n == 0

/-- Step 1 of R465 for any record: VER, TYPE, the zero fields, COMP. -/
def formatOk (b : List Byte) : Bool :=
  field b 0 2 == 1 && field b 2 1 ≤ 2 && zeros b 52 4 && zeros b 102 2 && zeros b 108 20 && field b 88 8 % 64 == 0
    && (field b 2 1 == 0 || (zeros b 3 1 && zeros b 20 1 && zeros b 22 2 && zeros b 24 64 && zeros b 96 12))
    && (field b 2 1 != 2 || zeros b 16 4)

/-- Step 1 for a launch record. -/
def launchFormatOk (b : List Byte) : Bool :=
  let span := field b 3 1 / 4 % 2 == 1
  let n := field b 101 1
  let w := field b 104 4
  field b 3 1 < 8 && field b 16 4 != 0 && field b 32 4 ≤ 4096 && field b 64 8 % 4096 == 0 && field b 80 8 < 2 ^ 41
    && (if span then 1 ≤ n && n ≤ 192 && field b 100 1 < n && (w == 0 || (100 ≤ w && w ≤ 1000000)) else zeros b 96 12)

/-! ### Step 4: the checks of R44, R45 and R177 -/

/-- Whether a team, with the launch's item crews, fits on a core that holds nothing (02 R45). -/
def Object.fitsCore (o : Object) : Bool :=
  o.fibres * o.wfull + o.ifib * o.iwin ≤ 32768 && o.fibres + o.ifib ≤ 1024 && o.scratch ≤ 262144 && o.tiles ≤ 16 && o.crews ≤ 4

/-- Teams with their full allotments that fit on a core that holds nothing else: T teams of c crews in distinct quadrants fit when
T × c ≤ 4 × m, m crews to a quadrant (07 R177). -/
def Object.perCore (o : Object) : Nat :=
  let m := min ((32768 - o.ifib * o.iwin) / max (o.fibres * o.wfull) 1) ((1024 - o.ifib) / max o.fibres 1)
  let t := min (4 * m / max o.crews 1) (262144 / max o.scratch 1)
  if o.tiles == 0 then t else min t (16 / o.tiles)

/-- The first failing check of step 4. FLUSHFIT of a fused launch counts every cluster, those whose fuses are disabled among them
[106]. -/
def launchCheck (b : List Byte) (o : Object) : Option Cause :=
  let det := field b 3 1 % 2 == 1
  let fuse := field b 3 1 / 2 % 2 == 1
  let n := field b 16 4
  let g := field b 20 1
  let c := field b 22 2
  if n % max o.gang 1 != 0 || g != o.gang then some (schedC 3)
  else if det && !o.bitwise then some (orderC 0)
  else if det && !(1 ≤ c && c ≤ 512 && c % max g 1 == 0) then some (schedC 4)
  else if field b 36 4 < o.sump then some (schedC 5)
  else if fuse && g != 4 then some (schedC 6)
  else if !o.fitsCore then some (schedC 7)
  else if o.aflush && ((det && c < n) || coreCount / max g 1 * o.perCore < n / max g 1) then some (orderC 4)
  else none

/-! ### Step 5: areas that must be mapped -/

/-- Whether the page of an address is present. -/
def present (who : Who) (a : DWord) : M Bool := do
  let x ← tryM (translate who a false)
  pure (match x with
    | .ok _ => true
    | .error _ => false)

/-- The areas of a launch: base and size; of size 0 where nothing is needed. -/
def areasOf (b : List Byte) (o : Object) : List (Nat × Nat) :=
  let d := if field b 3 1 % 2 == 1 then field b 22 2 else field b 16 4
  [(field b 40 8, 4096 + 48 * field b 36 4),
   (field b 56 8, if o.ordered then 4096 + 16 * d * (256 + field b 48 4) else 0),
   (field b 64 8, o.gangBytes * (field b 16 4 / max o.gang 1))]

/-- The first and last bytes of every area lie in present pages. -/
def areasPresent (who : Who) : List (Nat × Nat) → M Bool
  | [] => pure true
  | (a, n) :: r => do
    if n == 0 then areasPresent who r
    else do
      let x ← present who (BitVec.ofNat 64 a)
      let y ← present who (BitVec.ofNat 64 (a + n - 1))
      let z ← areasPresent who r
      pure (x && y && z)

/-- The argument block copied, and whether step 5 holds. -/
def readAreas (who : Who) (b : List Byte) (o : Object) : M (Except Cause (List Byte)) := do
  let args ← tryM (loadBytes who (BitVec.ofNat 64 (field b 24 8)) (field b 32 4) .engine)
  let ok ← areasPresent who (areasOf b o)
  pure (match args, ok with
    | .ok a, true => .ok a
    | _, _ => .error (schedC 15))

/-! ### Accepting a launch -/

/-- The launch that a record describes. -/
def launchOf (s : State) (id q : Nat) (b : List Byte) (args : List Byte) : Launch :=
  let flag := fun (k : Nat) => field b 3 1 / 2 ^ k % 2 == 1
  let w := field b 104 4
  { id := id, queue := q, seq := BitVec.ofNat 32 (field b 4 4), obj := field b 8 8, nteams := field b 16 4, gang := field b 20 1
    det := flag 0, fuse := flag 1, system := q == 0, cores := if flag 0 then field b 22 2 else 0, args := args
    sumpSize := field b 36 4, sumpBase := BitVec.ofNat 64 (field b 40 8), spill := field b 48 4
    carts := ((s.object? (field b 8 8)).map Object.ordered).getD false
    spillBase := BitVec.ofNat 64 (field b 56 8), ctx := BitVec.ofNat 64 (field b 64 8), deadline := BitVec.ofNat 64 (field b 72 8)
    wdog := if field b 80 8 == 0 then 2 ^ 40 else field b 80 8, comp := BitVec.ofNat 64 (field b 88 8), trapObj := s.rtobj
    acceptedAt := BitVec.ofNat 64 s.rtime
    span := if flag 2 then some { id := BitVec.ofNat 32 (field b 96 4), lode := field b 100 1, nlodes := field b 101 1
                                  window := (if w == 0 then 2000 else w) * 100 } else none }

/-- A launch record checked: its refusal, or the launch accepted. Nothing happens while a page it needs cannot be looked at. -/
def State.launchRecord (s : State) (q : Nat) (b : List Byte) : State :=
  let done := s.advance q
  let refuse := fun (c : Cause) => done.finishRecord q b c 0 0
  if !formatOk b || !launchFormatOk b then refuse (schedC 12)
  else if field b 21 1 != (s.queue q).cls.toNat then refuse (schedC 13)
  else match s.objects.find? (fun (o : Object) => o.id == field b 8 8 && !o.unloading) with
    | none => refuse (schedC 14)
    | some o => match launchCheck b o with
      | some c => refuse c
      | none =>
        let who : Who := { coreWho s 0 0 with queue := q, engine := true, timeout := s.walkOver (.record q) }
        let done := done.walkNote (.record q) false
        match (readAreas who b o).run done with
        | .ok (.error c, t) => t.dropAnswers.finishRecord q b c 0 0
        | .ok (.ok args, t) =>
          let (i, t) := t.dropAnswers.newId
          { t with launches := t.launches ++ [launchOf t i q b args] }.movePointers
        | .error (.wait why post) => (s.sendAll post).walkNote (.record q) (why == .walk)
        | .error _ => s

/-- The next record of the queue `queue`, when it is of the type given; a failed read (`fails`) stops the queue. -/
def readRecord (s : State) (types : Nat → Bool) (act : State → Nat → List Byte → State) : State :=
  let q := s.ev.queue
  match s.nextRecord q with
  | none => s
  | some b =>
    if !types (field b 2 1) then s
    else
      let s := hostRecall s (s.queue q).slotAt 128
      if s.ev.fails || s.poisonAt (s.queue q).slotAt 128 then (s.ringFault q).wake else (act s q b).wake

/-- LAUNCH_RECORD: a record of TYPE 0, and one of no TYPE, which is refused. -/
def execLaunchRecord (s : State) : Host.Outcome State Fault Refusal :=
  .next (readRecord s (fun t => t == 0 || 2 < t) State.launchRecord)

/-! ### Loads and unloads (27 R465) -/

/-- A load record: the image checked and loaded, or refused. -/
def State.loadRecord (s : State) (q : Nat) (b : List Byte) : State :=
  let done := s.advance q
  let a := field b 8 8
  let n := field b 16 4
  if !formatOk b then done.finishRecord q b (schedC 12) 0 0
  else if field b 21 1 != (s.queue q).cls.toNat then done.finishRecord q b (schedC 13) 0 0
  else if !hostReach s a n then s
  else if s.poisonAt a n then done.finishRecord q b sysUncorr 0 0
  else
    let done := hostRecall done a n
    let (i, t) := done.newId
    match loadImage i n (fun k => hostByte s (a + k)) with
    | .error c => done.finishRecord q b c 0 0
    | .ok o => { t with objects := t.objects ++ [o] }.finishRecord q b 0 o.id o.gangBytes

/-- LOAD_RECORD: a record of TYPE 1. -/
def execLoadRecord (s : State) : Host.Outcome State Fault Refusal :=
  .next (readRecord s (fun t => t == 1) State.loadRecord)

/-- An unload record: the object takes no further launch. -/
def State.unloadRecord (s : State) (q : Nat) (b : List Byte) : State :=
  let done := s.advance q
  let k := field b 8 8
  if !formatOk b then done.finishRecord q b (schedC 12) 0 0
  else if field b 21 1 != (s.queue q).cls.toNat then done.finishRecord q b (schedC 13) 0 0
  else match s.objects.find? (fun (o : Object) => o.id == k && !o.unloading) with
    | none => done.finishRecord q b (schedC 14) 0 0
    | some _ =>
      { done with
        objects := done.objects.map (fun (o : Object) => if o.id == k then { o with unloading := true } else o)
        unloads := done.unloads ++ [{ queue := q, seq := BitVec.ofNat 32 (field b 4 4), obj := k, comp := BitVec.ofNat 64 (field b 88 8)
                                      acceptedAt := BitVec.ofNat 64 s.rtime }] }

/-- Unloads whose object has no accepted launch left: the object is gone. -/
def State.unloadReady (s : State) : State :=
  let idle := fun (u : Unload) => !s.launches.any (fun (l : Launch) => l.obj == u.obj)
  let go := s.unloads.filter idle
  go.foldl (fun s u =>
    let (i, s) := s.newId
    { s with
      objects := s.objects.filter (fun (o : Object) => o.id != u.obj)
      unloads := s.unloads.filter (fun v => v.obj != u.obj)
      finished := s.finished ++ [{ id := i, queue := u.queue, seq := u.seq, comp := u.comp, acceptedAt := u.acceptedAt }] }) s

/-- UNLOAD_RECORD: a record of TYPE 2 is read; objects whose last launch has finished are unloaded. -/
def execUnloadRecord (s : State) : Host.Outcome State Fault Refusal :=
  .next (readRecord s (fun t => t == 2) State.unloadRecord).unloadReady

/-! ### Completion records (27 R466) -/

/-- Bytes 0 to 59 of a completion record. -/
def completionBytes (seq : Word) (status : Cause) (low acceptedAt now map high : Nat) : List Byte :=
  leBytes 4 seq.toNat ++ leBytes 4 status.toNat ++ leBytes 8 low ++ leBytes 8 acceptedAt ++ leBytes 8 now ++ leBytes 24 map ++ leBytes 4 high

/-- A completion record written, MARK last; CIRQ raises the vector. A refused write sets COMPFAULT. -/
def State.complete (s : State) (q : Nat) (comp : DWord) (seq : Word) (bs : List Byte) (fails : Bool) : State :=
  let s := if fails then s.queueError q .compFault
    else hostWrite (hostWrite s comp.toNat bs) (comp.toNat + 60) (leBytes 4 (seq ^^^ 0xFFFFFFFF).toNat)
  if (s.queue q).cirq then s.send (.interrupt (s.queue q).vec) else s

/-- Whether a launch is finished: every team has retired, no item remains, its last round has closed and its stores and releases are
performed. -/
def State.launchDone (s : State) (l : Launch) : Bool :=
  (l.ending || l.retired == l.nteams) && l.nextGang == l.gangs
    && !s.gangs.any (fun (g : Gang) => g.launch == l.id)
    && (s.liveItems l.id).isEmpty
    && !s.entries.any (fun (e : Entry) => e.launch == l.id)
    && !s.fwds.any (fun (r : Fwd) => r.posted && ((r.fibre.crew.launch == l.id && !isWalker r.fibre) || (r.assay && r.launch == l.id)))
    && !s.left.any (fun (e : LeftRelease) => e.launch == l.id)
    && !s.ops.any (fun (o : EngOp) => o.launch == l.id)

/-- The holds that a launch's fibres took are released when it ends (19 R416). -/
def State.dropHolds (s : State) (launch : Nat) : State :=
  (List.range 16).foldl (fun s v =>
    if ((s.mem.veins[v]?).bind Vein.hold).any (fun i => i.crew.launch == launch) then (s.unhold v).1 else s) s

/-- A launch leaves with its completion record. MARK is a release: what its items left in L1s is written back first (04 R119; 27 R466). -/
def State.completeLaunch (s : State) (l : Launch) : State :=
  let s := s.dropHolds l.id
  let bs := completionBytes l.seq l.status l.retired l.acceptedAt.toNat s.rtime ((l.span.map (fun p => p.map.toNat)).getD 0) l.assayFault.toNat
  let s := s.complete l.queue l.comp l.seq bs s.ev.fails
  { s with launches := s.launches.filter (fun (m : Launch) => m.id != l.id) }.freeCrews

/-- LAUNCH_COMPLETION: of the launch or record named `launch`. -/
def execLaunchCompletion (s : State) : Host.Outcome State Fault Refusal :=
  match s.launch? s.ev.launch with
  | some l =>
    if s.launchDone l && hostReach s l.comp.toNat 64 then
      match (payOwed l.id).run s with
      | .ok (_, t) => .next (t.completeLaunch l).wake
      | .error _ => .next s
    else .next s
  | none => match s.finished.find? (fun f => f.id == s.ev.launch) with
    | some f =>
      if hostReach s f.comp.toNat 64 then
        let s := { s with finished := s.finished.filter (fun g => g.id != f.id) }
        let bs := completionBytes f.seq f.status f.low f.acceptedAt.toNat s.rtime 0 f.high
        .next (s.complete f.queue f.comp f.seq bs s.ev.fails).wake
      else .next s
    | none => .next s

/-! ### Notifications (27 R467) -/

/-- The oldest entry that waits is written when the ring has room. -/
def State.postNote (s : State) (q : Nat) (a t seq : Word) : State :=
  let u := s.queue q
  let at_ := u.nbase.toNat + 16 * (u.ntail.toNat % max u.nsize.toNat 1)
  let s := s.setQueue q (fun u => { u with notes := u.notes.drop 1 })
  if s.ev.fails then s.queueError q .compFault
  else
    let bs := leBytes 4 a.toNat ++ leBytes 4 t.toNat ++ leBytes 4 seq.toNat ++ leBytes 4 (u.ntail ^^^ 0xFFFFFFFF).toNat
    let s := (hostWrite s at_ bs).setQueue q (fun u => { u with ntail := u.ntail + 1 })
    if u.nirq then s.send (.interrupt u.vec) else s

/-- NOTIFICATION_POST: of the queue `queue`. -/
def execNotificationPost (s : State) : Host.Outcome State Fault Refusal :=
  let q := s.ev.queue
  let u := s.queue q
  match u.notes with
  | (a, t, seq) :: _ =>
    let at_ := u.nbase.toNat + 16 * (u.ntail.toNat % max u.nsize.toNat 1)
    if u.ntail - u.nhead != u.nsize && hostReach s at_ 16 then .next (s.postNote q a t seq).wake else .next s
  | [] => .next s

end Sys2Proof.Machine
end

