-- ==== Sys2Proof/Machine/Registers.lean ====
section
/-! DEFINITION. The registers of BAR0 and the host's accesses (27 R460 to R463, R519; 28 R470, R481; 29 R493 to R496; 31 R511;
32 R514, R515; 00 R6). -/

namespace Sys2Proof.Machine

/-! ### Reading (BAR0 in units of 8 bytes) -/

/-- Bits as a number. -/
def bits (b : Bool) (k : Nat) : Nat := if b then 2 ^ k else 0

def Queue.cfgWord (u : Queue) : Nat :=
  bits u.en 0 + 2 * u.cls.toNat + bits u.cirq 3 + bits u.nirq 4 + 2 ^ 16 * u.vec.toNat
def Queue.errWord (u : Queue) : Nat := bits u.tailBad 0 + bits u.ringFault 1 + bits u.compFault 2

/-- The unit k of a queue's 64 bytes of registers (27 R462). -/
def Queue.unit (u : Queue) (k : Nat) : Nat :=
  match k with
  | 0 => u.base.toNat
  | 1 => u.size.toNat + 2 ^ 32 * u.cfgWord
  | 2 => u.tail.toNat + 2 ^ 32 * u.head.toNat
  | 3 => u.quant.toNat + 2 ^ 32 * u.errWord
  | 4 => u.nbase.toNat
  | 5 => u.nsize.toNat + 2 ^ 32 * u.nhead.toNat
  | 6 => u.ntail.toNat
  | _ => u.ptbr.toNat

def Ring.cfgWord (r : Ring) : Nat := bits r.en 0 + 2 * r.vec.toNat + bits r.wfault 12

def Port.word (p : Port) : Nat := bits p.up 0 + 2 * p.ver.toNat + 8 * p.reason.toNat + bits p.dis 6

/-- L1FUSE of a die: DIS, and the clusters that are fused now (29 R496). -/
def State.fuseWord (s : State) (die : Nat) : Nat :=
  (s.fuseDis.getD die 0).toNat + 2 ^ 16 * ((List.range 16).map (fun k => bits (s.fusedAt (die * 64 + k * 4)) k)).sum

def Service.freezeWord (v : Service) : Nat := v.frozen.toNat + 2 ^ 8 * v.lastFrozen.toNat + 2 ^ 32 * v.frozenAddr.toNat

/-- The 8 bytes of BAR0 at 8 × n; what no register occupies reads 0 (27 R519). -/
def State.bar0 (s : State) (n : Nat) : Nat :=
  let off := 8 * n
  if off == 0 then s.rtime % 2 ^ 64
  else if off == 0x8 then s.rtobj.toNat
  else if off == 0x100 then s.ring.base.toNat
  else if off == 0x108 then s.ring.size.toNat + 2 ^ 32 * s.ring.tail.toNat
  else if off == 0x110 then s.ring.cfgWord
  else if off == 0x118 then s.ring.ackIndex.toNat + 2 ^ 32 * s.ring.ackAnswer.toNat
  else if 0x200 ≤ off && off < 0x240 then s.fuseWord ((off - 0x200) / 8)
  else if 0x1000 ≤ off && off < 0x1080 then (s.port ((off - 0x1000) / 8)).word
  else if off == 0x1080 then s.fabric.self.toNat + 2 ^ 32 * s.fabric.selfInc.toNat
  else if off == 0x1088 then s.fabric.vec.toNat
  else if off == 0x1090 then s.fabric.dropInc.toNat
  else if 0x2000 ≤ off && off < 0x2608 then
    let a := s.agent ((off - 0x2000) / 8)
    bits a.live 0 + 2 ^ 32 * a.inc.toNat
  else if off == 0x3000 then s.service.freezeWord
  else if 0x10000 ≤ off && off < 0x11000 then (s.queue ((off - 0x10000) / 64)).unit ((off - 0x10000) / 8 % 8)
  else 0

/-! ### Writing -/

/-- What a write brings to a unit of 8 bytes: its bytes, and which of them are written. -/
structure RegWrite where
  val : Nat
  mask : BitVec 8
deriving DecidableEq, Repr, Inhabited

/-- Whether the write touches byte k, or the low or high half. -/
def RegWrite.byte (w : RegWrite) (k : Nat) : Bool := w.mask.getLsbD k
def RegWrite.low (w : RegWrite) : Bool := w.mask.toNat % 16 != 0
def RegWrite.high (w : RegWrite) : Bool := w.mask.toNat / 16 != 0

/-- The unit after the write, as RW fields take it: bytes that are not written stay. -/
def RegWrite.merge (w : RegWrite) (old : Nat) : Nat :=
  ((List.range 8).map (fun k => (if w.byte k then w.val else old) / 256 ^ k % 256 * 256 ^ k)).sum

/-- The ones that the write brings; bytes that are not written bring none (00 R6, W1C). -/
def RegWrite.ones (w : RegWrite) : Nat := w.merge 0

def low32 (n : Nat) : Word := BitVec.ofNat 32 n
def high32 (n : Nat) : Word := BitVec.ofNat 32 (n / 2 ^ 32)

/-- A power of two between bounds. -/
def powerIn (n lo hi : Nat) : Bool := lo ≤ n && n ≤ hi && (List.range 17).any (fun k => n == 2 ^ k)

/-- A new QTAIL: accepted, or refused with TAILBAD (27 R463). -/
def State.writeTail (s : State) (q : Nat) (t : Word) : State :=
  let u := s.queue q
  if (t - u.head).toNat ≤ u.size.toNat then (s.setQueue q (fun u => { u with tail := t })).wake else s.queueError q .tailBad

/-- A new NHEAD: what waits for room may go on (27 R467). -/
def State.writeNhead (s : State) (q : Nat) (h : Word) : State := (s.setQueue q (fun u => { u with nhead := h })).wake

/-- Every space: what TLBs hold of a queue is invalid (28 R470). -/
def State.forgetQueue (s : State) (q : Nat) : State :=
  s.dropTlbs { first := 0, count := 0, queue := some q } (fun _ => true) (fun _ => true) (fun _ => true) (fun _ => true)

/-- A new QPTBR; ignored while EN is 1. -/
def State.writePtbr (s : State) (q : Nat) (v : DWord) : State :=
  if (s.queue q).en then s else (s.setQueue q (fun u => { u with ptbr := v })).forgetQueue q

/-- Firmware loads the trap runtime before any queue is enabled (27 R462). -/
def State.loadRuntime (s : State) : State :=
  if s.rtobj != 0 then s
  else
    let (i, s) := s.newId
    { s with objects := s.objects ++ [runtimeObject i], rtobj := BitVec.ofNat 32 i }

/-- QCFG written; the class is looked at when the queue is next visited. -/
def State.writeQcfg (s : State) (q : Nat) (v : Nat) : State :=
  let s := if v.testBit 0 then s.loadRuntime else s
  (s.setQueue q (fun u => { u with en := v.testBit 0, cls := BitVec.ofNat 2 (v / 2), cirq := v.testBit 3, nirq := v.testBit 4
                                   vec := BitVec.ofNat 11 (v / 2 ^ 16) })).movePointers.wake

/-- A write to the unit k of a queue's registers (27 R462). -/
def State.writeQueue (s : State) (q k : Nat) (w : RegWrite) : State :=
  let u := s.queue q
  let v := w.merge (u.unit k)
  let lo := low32 v
  let hi := high32 v
  match k with
  | 0 => if u.en then s else s.setQueue q (fun u => { u with base := BitVec.ofNat 64 v })
  | 1 =>
    let s := if w.low && !u.en && powerIn lo.toNat 16 65536 then s.setQueue q (fun u => { u with size := lo }) else s
    if w.high then s.writeQcfg q hi.toNat else s
  | 2 => if w.low then s.writeTail q lo else s
  | 3 =>
    let s := if w.low && lo != 0 then s.setQueue q (fun u => { u with quant := lo }) else s
    let ones := w.ones / 2 ^ 32
    s.setQueue q (fun u => { u with
      tailBad := u.tailBad && !ones.testBit 0, ringFault := u.ringFault && !ones.testBit 1, compFault := u.compFault && !ones.testBit 2 })
  | 4 => if u.en then s else s.setQueue q (fun u => { u with nbase := BitVec.ofNat 64 v })
  | 5 =>
    let s := if w.low && !u.en && (lo == 0 || powerIn lo.toNat 1 65536) then s.setQueue q (fun u => { u with nsize := lo }) else s
    if w.high then s.writeNhead q hi else s
  | 6 => s
  | _ => s.writePtbr q (BitVec.ofNat 64 v)

/-- FCFG written (28 R481). -/
def State.writeFcfg (s : State) (v ones : Nat) : State :=
  (s.setRing (fun r => { r with en := v.testBit 0, vec := BitVec.ofNat 11 (v / 2), wfault := r.wfault && !ones.testBit 12 })).wake

/-- PORTSTAT.DIS written: 1 takes the port down and holds it there (31 R511). -/
def State.writeDis (s : State) (p : Nat) (on : Bool) : State :=
  let s := s.setPort p (fun x => { x with dis := on })
  if on then s.portDown p .disabled else s

/-- Bits of FROZEN cleared (32 R515). -/
def State.thaw (s : State) (ones : Nat) : State :=
  { s with service := { s.service with frozen := s.service.frozen &&& ~~~ BitVec.ofNat 4 ones } }

/-- A write to the 8 bytes of BAR0 at 8 × n; what no register occupies, and what is read only, ignores it. -/
def State.setBar0 (s : State) (n : Nat) (w : RegWrite) : State :=
  let off := 8 * n
  let v := w.merge (s.bar0 n)
  if off == 0x100 then if s.ring.en then s else s.setRing (fun r => { r with base := BitVec.ofNat 64 v })
  else if off == 0x108 then
    if w.low && !s.ring.en && powerIn (low32 v).toNat 16 65536 then s.setRing (fun r => { r with size := low32 v }) else s
  else if off == 0x110 then if w.low then s.writeFcfg v w.ones else s
  else if off == 0x118 then
    if w.byte 4 then s.fack (low32 v) (BitVec.ofNat 2 (v / 2 ^ 32))
    else s.hostVisible.setRing (fun r => { r with ackIndex := low32 v })
  else if 0x200 ≤ off && off < 0x240 then
    { s with fuseDis := updAt s.fuseDis ((off - 0x200) / 8) (fun _ => BitVec.ofNat 16 v) }
  else if 0x1000 ≤ off && off < 0x1080 then if w.byte 0 then s.writeDis ((off - 0x1000) / 8) (v.testBit 6) else s
  else if off == 0x1088 then { s with fabric := { s.fabric with vec := BitVec.ofNat 11 v } }
  else if off == 0x1090 then { s with fabric := { s.fabric with dropInc := low32 v } }
  else if off == 0x3000 then s.thaw (w.ones % 16)
  else if 0x10000 ≤ off && off < 0x11000 then s.writeQueue ((off - 0x10000) / 64) ((off - 0x10000) / 8 % 8) w
  else s

/-- The unit n of a write of bytes at an offset. -/
def regPart (off bytes val n : Nat) : RegWrite :=
  let at_ := fun (k : Nat) => decide (off ≤ 8 * n + k ∧ 8 * n + k < off + bytes)
  { val := ((List.range 8).map (fun k => if at_ k then val / 256 ^ (8 * n + k - off) % 256 * 256 ^ k else 0)).sum
    mask := BitVec.ofNat 8 ((List.range 8).map (fun k => if at_ k then 2 ^ k else 0)).sum }

/-- A write of bytes of BAR0, in units of 8 by ascending offset [38]. -/
def State.writeReg (s : State) (off bytes val : Nat) : State :=
  (List.range ((off + bytes - 1) / 8 + 1 - off / 8)).foldl (fun s k => s.setBar0 (off / 8 + k) (regPart off bytes val (off / 8 + k))) s

/-- Bytes read from BAR0. -/
def State.readReg (s : State) (off bytes : Nat) : Nat :=
  ((List.range (bytes / 8 + 2)).map (fun k => 2 ^ (64 * k) * s.bar0 (off / 8 + k))).sum / 256 ^ (off % 8) % 256 ^ bytes

/-- Whether an access stands in BAR0: 1 MiB. -/
def inBar0 (off bytes : Nat) : Bool := 1 ≤ bytes && off + bytes ≤ 2 ^ 20

/-- Whether a register occupies an offset (27 R462, R519; 28 R481; 29 R496; 31 R511; 32 R515). -/
def occupied (off : Nat) : Bool :=
  off < 0x10 || (0x100 ≤ off && off < 0x114) || (0x118 ≤ off && off < 0x120) || (0x200 ≤ off && off < 0x240) || (0x1000 ≤ off && off < 0x1098)
    || (0x2000 ≤ off && off < 0x2608) || (0x3000 ≤ off && off < 0x3008)
    || (0x10000 ≤ off && off < 0x11000 && !(0x34 ≤ off % 64 && off % 64 < 0x38))

/-! ### The host's accesses; a frozen host's are refused (32 R514) -/

/-- The host's access, unless the host is frozen. -/
def byHost (s : State) (x : State) : Host.Outcome State Fault Refusal := .next (if s.isFrozen 0 then s.send .unsupported else x)

/-- The data of a read of BAR0. -/
def State.sendReg (s : State) (off bytes : Nat) : State := s.send (.registerData (s.readReg off bytes))

/-- REGISTER_WRITE: at the offset `pa`, `bytes` bytes: a write of `data` where `write`, else a read, whose data goes to the host; where
`agent` is 1, the side port's, whose role allows it MFREEZE: an access elsewhere freezes it (32 R514, R515). An access at offsets that no
register occupies completes, for a frozen master too (27 R519). -/
def execRegisterWrite (s : State) : Host.Outcome State Fault Refusal :=
  let e := s.ev
  if !inBar0 e.pa e.bytes || 1 < e.agent then .next s
  else
    let access := if e.write then s.writeReg e.pa e.bytes e.data else s.sendReg e.pa e.bytes
    if !(List.range e.bytes).any (fun k => occupied (e.pa + k)) then .next (if e.write then s else s.sendReg e.pa e.bytes)
    else if e.agent == 1 then
      .next (if s.isFrozen 1 then s else if e.pa < 0x3000 || 0x3008 < e.pa + e.bytes then s.freeze 1 e.pa else access)
    else byHost s access

/-- QTAIL_WRITE: of the queue `queue`, the value `word`. -/
def execQtailWrite (s : State) : Host.Outcome State Fault Refusal :=
  if s.ev.queue < 64 then byHost s (s.writeTail s.ev.queue s.ev.word) else .next s

/-- NHEAD_WRITE: of the queue `queue`, the value `word`. -/
def execNheadWrite (s : State) : Host.Outcome State Fault Refusal :=
  if s.ev.queue < 64 then byHost s (s.writeNhead s.ev.queue s.ev.word) else .next s

/-- QPTBR_WRITE: of the queue `queue`, the value `val`. -/
def execQptbrWrite (s : State) : Host.Outcome State Fault Refusal :=
  if s.ev.queue < 64 then byHost s (s.writePtbr s.ev.queue s.ev.val) else .next s

/-- Bytes of one line of HDM read or written at its home slice; a locked line or a held vein is met again later. -/
def hdmAccess (p bytes : Nat) (write : Bool) (v : Nat) : M Nat := do
  let s ← get
  let who : Who := { coreWho s 0 0 with engine := true }
  if write then do
    l2Store who (p / 64) (byteMask (p % 64) bytes) (lineOf (p % 64) bytes v)
    pure 0
  else do
    let d ← l2Read who (p / 64) 0
    pure (lineBytes d (p % 64) bytes)

/-- Whether the host holds a line of device memory in its own cache (27 R460). -/
def MemSys.setHostLine (m : MemSys) (line : Nat) (on : Bool) : MemSys :=
  let ls := m.hostLines.filter (fun l => l != line)
  { m with hostLines := if on then ls ++ [line] else ls }

/-- HOST_HDM_ACCESS: at the host physical address `pa`, `bytes` bytes of one line; `write` with `data`, or a read. The host holds the line
after it where `choice` is not 0: a store to a line that it holds is such an access too [97]. -/
def execHostHdmAccess (s : State) : Host.Outcome State Fault Refusal :=
  let e := s.ev
  let p := e.pa - s.hdmBase
  if e.pa < s.hdmBase || s.hdmBase + deviceBytes < e.pa + e.bytes || e.bytes == 0 || 64 < p % 64 + e.bytes then .next s
  else if s.isFrozen 0 then .next (s.send .unsupported)
  else match (hdmAccess p e.bytes e.write e.data).run { s with mem := s.mem.setHostLine (p / 64) false } with
    | .ok (v, t) =>
      let t := { t with mem := t.mem.setHostLine (p / 64) (e.choice != 0) }
      .next (if e.write then t else t.send (.hdmData (BitVec.ofNat 512 v))).wake
    | .error (.trap _) => .next (s.send .uncorr)
    | .error _ => .next s

/-! ### Format regions and watchdogs, as SETP writes them (29 R494, R495; 19 R412; 02 R66) -/

/-- A write of FRFMT of the region `choice`, the value `val`, on the core `core`. -/
def frfmt (s : State) (v : DWord) : State :=
  s.attempt (writeFmt { coreWho s s.ev.core 0 with throughHold := true } s.ev.choice v)

/-- FRFMT_ENABLE: with EN 1; FRFMT_DISABLE: with EN 0. -/
def execFrfmtEnable (s : State) : Host.Outcome State Fault Refusal := .next (frfmt s (s.ev.val ||| 16))
def execFrfmtDisable (s : State) : Host.Outcome State Fault Refusal := .next (frfmt s (s.ev.val &&& ~~~16))

/-- WDOG_RESTART: WDOG.REMAIN of the team `team` of the launch `launch` written with the value `val`, not 0. -/
def execWdogRestart (s : State) : Host.Outcome State Fault Refusal :=
  if s.ev.val.toNat % 2 ^ 41 == 0 then .next s else .next (s.writeWdog s.ev.launch s.ev.team s.ev.val.toNat).wake

/-- WDOG_ZERO_WRITE: written with 0. -/
def execWdogZeroWrite (s : State) : Host.Outcome State Fault Refusal := .next (s.writeWdog s.ev.launch s.ev.team 0).wake

end Sys2Proof.Machine
end

