-- ==== Sys2Proof/Machine/Service.lean ====
section
/-! DEFINITION. Firmware images, attestation, masters and freezing, spare cores, memory errors, telemetry, and device reset (32 R512 to
R518; 02 R65; 27 R462). -/

namespace Sys2Proof.Machine

def State.setService (s : State) (f : Service → Service) : State := { s with service := f s.service }

/-! ### Firmware (32 R512) -/

/-- The digest and the signature of an image hold; whether the signature does is Falcon's own [20]. -/
def imageOk (i : FwImage) : Bool := shake256 i.bytes 64 == i.digest && Config.falconValid i.digest i.signature

/-- The refusal that a frozen master's request meets: the host's is an unsupported-request completion, a peer's an answer to its access
(32 R514). -/
def State.turnAway (s : State) (m : Nat) : State :=
  if m == 0 then s.send .unsupported else if m == 2 then s.send (.reply s.ev.access.source .frozen) else s

/-- Units no longer wait for their quiesce points: what they held back may go on. -/
def State.endQuiesce (s : State) (which : FwUnit → Bool) : State :=
  let t := s.setService (fun v => { v with quiesce := v.quiesce.filter (fun q => !which q.1) })
  (t.runNcfg t.ops.length).wake

/-- The staged image is gone: units that waited for their quiesce point keep the image they run. -/
def State.discardImage (s : State) : State := ((s.setService (fun v => { v with staged := none })).send .imageRefused).endQuiesce (fun _ => true)

/-- FW_IMAGE_STAGE: the image `image`, by the master `agent`: 1 through the side port, 0 through the host. A failed check discards the
staged image; an unusable slot takes one from the side port only, and `fails` says that the slot proves unusable. -/
def execFwImageStage (s : State) : Host.Outcome State Fault Refusal :=
  let m := s.ev.agent
  if 1 < m then .next s
  else if s.isFrozen m then .next (s.turnAway m)
  else if m == 0 && !s.service.slotUsable then .next (s.send .imageRefused)
  else if s.ev.fails then .next (s.setService (fun v => { v with slotUsable := false })).discardImage
  else if imageOk s.ev.image then
    .next (s.setService (fun v => { v with images := v.images ++ [s.ev.image], staged := some (v.images.length + 1), slotUsable := true }))
  else .next s.discardImage

/-- The gangs with a team on a core. -/
def State.gangsOn (s : State) (core : Nat) : List Gang :=
  s.gangs.filter (fun (g : Gang) => (s.gangTeams g.launch g.id).any (fun t => t.core == core))

/-- The gangs of a core are pre-empted, as far as they are settled; one that has a new position and is not restored gives it up. -/
def State.clearCore (s : State) (core : Nat) : State :=
  (s.gangsOn core).foldl (fun s g =>
    if g.state == .restoring then s.attemptFor g (giveUp g) else if g.leaving.isSome then s else s.preempt g false) s

/-- A unit runs an image. -/
def State.runImage (s : State) (n : Nat) : FwUnit → State
  | .controller => s.setService (fun v => { v with running := n })
  | .core c => s.setCore c (fun k => { k with image := n })
  | .copyEngine c => s.setCore c (fun k => { k with copyImage := n })
  | .assay c => s.setCore c (fun k => { k with assayImage := n })
  | .sluice d => s.setService (fun v => { v with sluices := updAt v.sluices d (fun _ => n) })
  | .dowser d => s.setService (fun v => { v with dowsers := updAt v.dowsers d (fun _ => n) })

/-- The operations that a unit has queued or running. -/
def State.opsOf (s : State) (u : FwUnit) : List Nat := (s.ops.filter (fun (o : EngOp) => s.unitOf o == u)).map EngOp.id

/-- A unit reaches its quiesce point, or waits for it: operations that arrive at an engine meanwhile wait. -/
def State.activate (s : State) (n : Nat) (u : FwUnit) : State :=
  match u with
  | .core c =>
    let s := s.clearCore c
    if (s.gangsOn c).isEmpty then (s.runImage n u).wake else s
  | _ =>
    match s.service.quiesce.find? (fun q => q.1 == u) with
    | none =>
      if (s.opsOf u).isEmpty then s.runImage n u else s.setService (fun v => { v with quiesce := v.quiesce ++ [(u, s.opsOf u)] })
    | some (_, ids) =>
      if ids.any (fun i => (s.opsOf u).contains i) then s
      else (s.runImage n u).endQuiesce (fun x => x == u)

/-- Whether a unit exists. -/
def unitExists : FwUnit → Bool
  | .controller => true
  | .core c | .copyEngine c | .assay c => c < coreCount
  | .sluice d | .dowser d => d < 8

/-- FW_UNIT_ACTIVATE: the unit `unit` takes the staged image at its quiesce point. -/
def execFwUnitActivate (s : State) : Host.Outcome State Fault Refusal :=
  match s.service.staged with
  | some n => if unitExists s.ev.unit then .next (s.activate n s.ev.unit) else .next s
  | none => .next s

/-! ### SPDM (32 R513) [21] -/

/-- An SPDM response: its code, and a body that the standard and the certificates decide from what is given. -/
def State.respond (s : State) (code : Nat) (ps : List Nat) : State := s.send (.spdm code (Config.spdmBody code ps))

/-- SPDM's ERROR response to a request out of its order. -/
def State.spdmError (s : State) : State := s.respond 0x7F [4]

/-- A request of the side port's master; a frozen one is refused. -/
def spdm (s : State) (x : State) : Host.Outcome State Fault Refusal := .next (if s.isFrozen 1 then s else x)

/-- GET_VERSION: 1.3; what was negotiated before is forgotten. -/
def execGetVersion (s : State) : Host.Outcome State Fault Refusal :=
  spdm s ((s.setService (fun v => { v with spdmVersion := true, spdmCaps := false, spdmAlgs := false })).respond 0x04 [0x13])

def execGetCapabilities (s : State) : Host.Outcome State Fault Refusal :=
  spdm s (if s.service.spdmVersion then (s.setService (fun v => { v with spdmCaps := true })).respond 0x61 [] else s.spdmError)

/-- NEGOTIATE_ALGORITHMS: Falcon-1024 as the vendor-defined algorithm, SHAKE256 with 64-byte output. -/
def execNegotiateAlgorithms (s : State) : Host.Outcome State Fault Refusal :=
  spdm s (if s.service.spdmCaps then (s.setService (fun v => { v with spdmAlgs := true })).respond 0x63 [1024, 64] else s.spdmError)

def execGetDigests (s : State) : Host.Outcome State Fault Refusal :=
  spdm s (if s.service.spdmAlgs then s.respond 0x01 [] else s.spdmError)

def execGetCertificate (s : State) : Host.Outcome State Fault Refusal :=
  spdm s (if s.service.spdmAlgs then s.respond 0x02 [] else s.spdmError)

/-- CHALLENGE: over the nonce that `val` stands for, signed with Falcon-1024. -/
def execChallenge (s : State) : Host.Outcome State Fault Refusal :=
  spdm s (if s.service.spdmAlgs then s.respond 0x03 [s.ev.val.toNat] else s.spdmError)

/-- The bytes of an image by its number. -/
def Service.imageBytes (v : Service) (n : Nat) : List Byte := if n == 0 then Config.bootImage else (v.images.getD (n - 1) ⟨[], [], []⟩).bytes

/-- What a measurement block is taken of, as it is in force now: 1 the image that the firmware controller runs, 2 the engines' microcode,
the images that the engines run in their order, 3 the fuses and the spare cores [21]. -/
def State.measuredBytes (s : State) (k : Nat) : Option (List Byte) :=
  let v := s.service
  match k with
  | 1 => some (v.imageBytes v.running)
  | 2 => some (((v.sluices ++ v.dowsers ++ s.cores.flatMap (fun (c : Core) => [c.copyImage, c.assayImage])).eraseDups).flatMap
      v.imageBytes)
  | 3 => some (Config.fuses ++ (s.cores.map Core.phys ++ v.spares.flatten).flatMap (leBytes 4))
  | _ => none

/-- A measurement: SHAKE256 with 64 bytes of output (32 R513). -/
def State.measured (s : State) (k : Nat) : Option (List Nat) := (s.measuredBytes k).map (fun b => (shake256 b 64).map BitVec.toNat)

/-- GET_MEASUREMENTS: of the block `choice`. -/
def execGetMeasurements (s : State) : Host.Outcome State Fault Refusal :=
  spdm s (match s.service.spdmAlgs, s.measured s.ev.choice with
    | true, some ps => s.respond 0x60 (s.ev.choice :: ps)
    | _, _ => s.spdmError)

/-! ### Masters (32 R514, R515) -/

/-- MASTER_FREEZE: the master `agent` violates protection at the address `pa`, a peer with the access `access`; its request is refused.
Where `agents` names others that would violate it at the same instant, the freeze refuses what they had pending: they stay unfrozen. -/
def execMasterFreeze (s : State) : Host.Outcome State Fault Refusal :=
  if s.ev.agent < 4 then
    .next ((s.ev.agents.filter (fun m => m != s.ev.agent && m < 4)).foldl State.turnAway ((s.freeze s.ev.agent s.ev.pa).turnAway s.ev.agent))
  else .next s

/-- MFREEZE_THAW: the master `agent` writes the bits `word` to MFREEZE.FROZEN, a peer with the access `access`; a frozen master's write is
refused. -/
def execMfreezeThaw (s : State) : Host.Outcome State Fault Refusal :=
  if s.ev.agent < 4 then .next (if s.isFrozen s.ev.agent then s.turnAway s.ev.agent else s.thaw (s.ev.word.toNat % 16)) else .next s

/-! ### Spare cores and memory errors (32 R516, R517) -/

/-- A spare of the die takes a core's place: its arrays hold nothing, and the core's place, queue and orders stay. -/
def State.putSpare (s : State) (core : Nat) (spare : Nat) : State :=
  let die := dieOf core
  let s := s.setCore core (fun c => { c with phys := spare, l1 := [], tlb := [], walkAhead := [], victims := [] })
  s.setService (fun v => { v with spares := updAt v.spares die (fun l => l.filter (fun p => p != spare)) })

/-- The dirty lines of a core are written back before it is replaced. -/
def replaceCore (core spare : Nat) : M Unit := do
  let s ← get
  forM_ (s.l1Cores core) (fun k => wbCore (coreWho s k 0) k)
  modify (fun s => s.putSpare core spare)

/-- SPARE_CORE_REPLACE: the core `core` by the spare `choice` of its die, once its gangs are pre-empted and no item runs there. -/
def execSpareCoreReplace (s : State) : Host.Outcome State Fault Refusal :=
  let c := s.ev.core
  match (s.service.spares.getD (dieOf c) [])[s.ev.choice]? with
  | none => .next s
  | some spare =>
    if coreCount ≤ c then .next s
    else
      let s := s.clearCore c
      if (s.gangsOn c).isEmpty && !s.itemCrews.any (fun (i : ItemCrew) => i.core == c) then .next (s.attempt (replaceCore c spare))
      else .next s

/-- A count of soft errors, saturating. -/
def countUp (l : List Nat) (k : Nat) : List Nat := updAt l k (fun n => min (n + 1) (2 ^ 32 - 1))

/-- ECC_CORRECTED: of the die `die`, or of its stack where `write`: repaired in place and counted. -/
def execEccCorrected (s : State) : Host.Outcome State Fault Refusal :=
  .next (s.setService (fun v =>
    if s.ev.write then { v with stackErrors := countUp v.stackErrors s.ev.die } else { v with dieErrors := countUp v.dieErrors s.ev.die }))

/-- A line added to those that are poisoned. -/
def poisonLine (l : List Nat) (n : Nat) : List Nat := if l.contains n then l else l ++ [n]

/-- A line of a core's L1 poisoned. -/
def Core.poisonL1 (c : Core) (n : Nat) : Core := { c with l1 := c.l1.map (fun (l : L1Line) => if l.line == n then { l with poison := true } else l) }

/-- The entries of a TLB that translate a page poisoned. -/
def poisonTlb (l : List TlbEntry) (queue page : Nat) : List TlbEntry := l.map (fun e => if e.hits queue page then { e with poison := true } else e)

/-- ECC_POISON: an uncorrectable error marks a line: of device memory at `pa`, as a line of it stands in memory or in the L2; where
`choice` is 1, the line that the core `core` holds of `pa` in its L1; 2, the line at the offset `pa` of the scratchpad of the team `team` of
the launch `launch`; 3, the register `word` of the fibre `fibre`; 4, the line at the byte offset `pa` of that team's tile `word`; 5 and 6,
the entry of the core's TLBs, or of the die `die`'s TLB, for the page of `val` in the address space of the queue `queue`; 7, the decoded
line of `pa` that the L2 holds [96]. -/
def execEccPoison (s : State) : Host.Outcome State Fault Refusal :=
  let line := s.ev.pa / 64
  let n := s.ev.word.toNat
  let page := pageOf s.ev.val
  match s.ev.choice with
  | 1 => .next (s.setCore s.ev.core (fun c => c.poisonL1 line))
  | 2 => match s.team? s.ev.launch s.ev.team with
    | some t => .next (if s.ev.pa < t.spSize then s.setTeam { t with spPoison := poisonLine t.spPoison line } else s)
    | none => .next s
  | 3 => match s.fibre? s.ev.fibre with
    | some f => .next (if n < f.regs.length then s.setFibre { f with poison := poisonLine f.poison n } else s)
    | none => .next s
  | 4 => match s.team? s.ev.launch s.ev.team with
    | some t => .next (if line < 128 then s.setTeam { t with tiles := updAt t.tiles n (fun x => { x with poison := poisonLine x.poison line }) } else s)
    | none => .next s
  | 5 => .next (s.setCore s.ev.core (fun c =>
      { c with tlb := poisonTlb c.tlb s.ev.queue page, walkAhead := poisonTlb c.walkAhead s.ev.queue page }))
  | 6 => .next { s with mem := { s.mem with dieTlb := updAt s.mem.dieTlb s.ev.die (fun l => poisonTlb l s.ev.queue page) } }
  | 7 =>
    let view := lineNo s.ev.pa true
    .next (if s.mem.l2.any (fun l => l.line == view) then { s with mem := { s.mem with poison := poisonLine s.mem.poison view } } else s)
  | _ => .next (if s.ev.pa < deviceBytes then { s with mem := { s.mem with poison := poisonLine s.mem.poison line } } else s)

/-- Lines that are poisoned. -/
def State.poisoned (s : State) : Nat :=
  s.mem.poison.length + (s.cores.map (fun (c : Core) => (c.l1.filter L1Line.poison).length)).sum
    + (s.teams.map (fun (t : Team) => t.spPoison.length + (t.tiles.map (fun (x : Tile) => x.poison.length)).sum)).sum
    + (s.fibres.map (fun (f : Fibre) => f.poison.length)).sum
    + (s.cores.map (fun (c : Core) => ((c.tlb ++ c.walkAhead).filter TlbEntry.poison).length)).sum
    + (s.mem.dieTlb.map (fun l => (l.filter TlbEntry.poison).length)).sum

/-! ### Telemetry (32 R518) [22] -/

/-- Whether a sample slows the arithmetic clock of a compute die: the die is at its limit, or an I/O die, which has no such clock, or the
module is above its power [22]. -/
def slowed (r : Readings) (d : Nat) : Bool := r.hot.getD d false || r.hot.getD 8 false || r.hot.getD 9 false || 1400 < r.power

/-- The clock of a die after a sample: down a step of 50 MHz at a limit, else up a step, between 300 and 700 MHz. -/
def stepClock (mhz : Nat) (limit : Bool) : Nat := if limit then max 300 (mhz - 50) else min 700 (mhz + 50)

/-- What monitoring reports at a sample. -/
def State.sensors (s : State) (r : Readings) : Msg :=
  .sensors r.power r.temps s.clk.mhz (s.service.stackErrors ++ s.service.dieErrors) s.poisoned

/-- One sample taken. -/
def State.sample (s : State) (r : Readings) : State :=
  let s := s.send (s.sensors r)
  let s := s.setService (fun v => { v with power := r.power, temps := r.temps, hot := r.hot, sampled := v.sampled + 1 })
  { s with clk := { s.clk with mhz := ((List.range s.clk.mhz.length).zip s.clk.mhz).map (fun (d, m) => stepClock m (slowed r d)) } }

/-- SENSOR_SAMPLE: every 1 ms of reference time, with what the sensors read: a sample for each that has passed since the last. -/
def execSensorSample (s : State) : Host.Outcome State Fault Refusal :=
  .next ((List.range (s.rtime / 100000 - s.service.sampled)).foldl (fun t _ => t.sample s.ev.readings) s)

/-! ### Reset (02 R65; 27 R462) -/

/-- Every line of the L2 that holds raw bytes written back: what device memory holds after a reset. -/
def MemSys.drain (m : MemSys) : Memory :=
  (m.l2.filter (fun l => l.line < viewLine)).foldl (fun h l => h.setLine (linePa l.line) l.data l.dirty) m.hbm

/-- The state after a reset of the device: every register at its reset value, the clocks from 0; the contents of memory, the fuses, the
images and the counts of the service unit stay. -/
def State.afterReset (s : State) : State :=
  let r := State.reset
  { r with
    agenda := s.agenda
    freeCtr := s.freeCtr
    nextId := s.nextId
    hdmBase := s.hdmBase
    sent := s.sent
    mem := { r.mem with hbm := s.mem.drain, host := s.mem.host, poison := s.mem.poison.filter (fun n => n < viewLine) }
    cores := ((List.range r.cores.length).zip r.cores).map (fun (k, c) =>
      { c with phys := (s.core k).phys, image := (s.core k).image, copyImage := (s.core k).copyImage, assayImage := (s.core k).assayImage })
    service := { s.service with frozen := 0, lastFrozen := 0, frozenAddr := 0, spdmVersion := false, spdmCaps := false, spdmAlgs := false, sampled := 0
                                quiesce := [] } }

/-- DEVICE_RESET: every register takes its reset value; then firmware loads the trap runtime and sets RTOBJ. -/
def execDeviceReset (s : State) : Host.Outcome State Fault Refusal := .next s.afterReset.loadRuntime

end Sys2Proof.Machine
end

