-- ==== Sys2Proof/Machine/Span.lean ====
section
/-! DEFINITION. Span launches: the two phases, GO, and abandonment (01 R38 to R41). -/

namespace Sys2Proof.Machine

/-- A bit of a span map. -/
def lodeBit (n : Nat) : BitVec 192 := BitVec.ofNat 192 (2 ^ n)

/-- A span changed. -/
def State.setSpan (s : State) (l : Launch) (p : Span) : State := s.setLaunch { l with span := some p }

/-- Whether span messages may leave: a span of one lode needs none (31 R509). -/
def State.spanSends (s : State) (p : Span) : Bool := s.fabric.go || p.nlodes == 1

/-- The launch of a span event, with its span, while it has not ended. -/
def State.spanOf (s : State) : Option (Launch × Span) :=
  match s.launch? s.ev.launch with
  | none => none
  | some l => if l.ending then none else l.span.map (fun p => (l, p))

/-- A span message of the lode `lode`: from this device itself, or by the fabric from the agent `agent` at incarnation `word`, dropped and
counted where that is not the one recorded (31 R504, R510). -/
def spanRow (s : State) (lode : Nat) (x : Launch → Span → State) : Host.Outcome State Fault Refusal :=
  match s.spanOf with
  | some (l, p) =>
    if lode == p.lode || (s.fabric.linked && s.accepts s.ev.agent s.ev.word) then .next (x l p)
    else .next (if s.fabric.linked then s.dropMessage else s)
  | none => .next (if s.fabric.linked && !s.accepts s.ev.agent s.ev.word then s.dropMessage else s)

/-- SPAN_PREPARE: the launch `launch` has its kernel and its resources; `agents` names the agents that hold the span's lodes. The
device reports that it is ready. -/
def execSpanPrepare (s : State) : Host.Outcome State Fault Refusal :=
  match s.spanOf with
  | some (l, p) =>
    if p.phase == .preparing && s.spanSends p && s.ev.agents.length == p.nlodes then
      .next ((s.setSpan l { p with phase := .ready, agents := s.ev.agents }).send (.spanReady p.id p.lode)).wake
    else .next s
  | none => .next s

/-- A lode added to a list of those that have reported. -/
def addLode (n : Nat) (l : List Nat) : List Nat := if l.contains n then l else l ++ [n]

/-- Whether every lode is in a list. -/
def Span.all (p : Span) (l : List Nat) : Bool := (List.range p.nlodes).all (fun n => l.contains n)

/-- SPAN_READY_REPORT: the coordinator receives the report of the lode `lode`; the last one makes it send commit to every device. -/
def execSpanReadyReport (s : State) : Host.Outcome State Fault Refusal :=
  spanRow s s.ev.lode (fun l p =>
    if p.lode != 0 || p.nlodes ≤ s.ev.lode || p.all p.readies then s
    else
      let q := { p with readies := addLode s.ev.lode p.readies }
      if q.all q.readies then ((s.setSpan l { q with commitAt := s.rtime }).send (.spanCommit p.id)).wake
      else (s.setSpan l q).wake)

/-- SPAN_COMMIT: this device receives commit, acknowledges, and may place gangs. -/
def execSpanCommit (s : State) : Host.Outcome State Fault Refusal :=
  spanRow s 0 (fun l p =>
    if p.phase != .ready || (p.lode == 0 && !p.all p.readies) then s
    else
      let q := { p with phase := .committed, commitAt := if p.lode == 0 then p.commitAt else s.rtime }
      ((s.setSpan l q).send (.spanAck p.id p.lode)).movePointers.wake)

/-- SPAN_COMMIT_ACKNOWLEDGEMENT: the coordinator receives the acknowledgement of the lode `lode`; within the window the last one makes
it send GO. -/
def execSpanCommitAcknowledgement (s : State) : Host.Outcome State Fault Refusal :=
  spanRow s s.ev.lode (fun l p =>
    if p.lode != 0 || p.nlodes ≤ s.ev.lode || !p.all p.readies || p.all p.acks || p.commitAt + p.window < s.rtime then s
    else
      let q := { p with acks := addLode s.ev.lode p.acks }
      let s := s.setSpan l q
      (if q.all q.acks then s.send (.spanGo p.id) else s).wake)

/-- SPAN_GO: this device receives GO; the waves that waited for it go on in the order in which they began to wait. -/
def execSpanGo (s : State) : Host.Outcome State Fault Refusal :=
  spanRow s 0 (fun l p =>
    if p.phase != .committed || (p.lode == 0 && !p.all p.acks) then s
    else
      let waits := p.blocked.filter (fun i => ((s.wave? i).bind Wave.wait) == some .span)
      let s := (s.setSpan l { p with phase := .running, blocked := [] }).wake
      { s with agenda := waits.map Move.issue ++ s.agenda })

/-- The launch is abandoned with a map of missing lodes (01 R40). -/
def State.abandon (s : State) (l : Launch) (map : BitVec 192) : State := s.failSpan l map

/-- SPAN_ABANDON: this device receives ABANDON with the map `map`. -/
def execSpanAbandon (s : State) : Host.Outcome State Fault Refusal :=
  spanRow s 0 (fun l p => if p.phase == .running then s else s.abandon l s.ev.map)

/-- The lodes that have not acknowledged. -/
def Span.missing (p : Span) : BitVec 192 :=
  (List.range p.nlodes).foldl (fun m n => if p.acks.contains n then m else m ||| lodeBit n) 0

/-- SPAN_WINDOW_EXPIRY: at the coordinator, without every acknowledgement: ABANDON goes to every device, and it abandons itself. -/
def execSpanWindowExpiry (s : State) : Host.Outcome State Fault Refusal :=
  match s.spanOf with
  | some (l, p) =>
    if p.lode == 0 && p.all p.readies && !p.all p.acks && p.commitAt + p.window ≤ s.rtime then
      .next ((s.send (.spanAbandon p.id p.missing)).abandon l p.missing)
    else .next s
  | none => .next s

/-- SPAN_LOCAL_TIMEOUT: neither GO nor ABANDON within the window plus 1 ms of this device's receipt of commit: the coordinator is
missing. -/
def execSpanLocalTimeout (s : State) : Host.Outcome State Fault Refusal :=
  match s.spanOf with
  | some (l, p) =>
    if p.phase == .committed && p.lode != 0 && p.commitAt + p.window + 100000 ≤ s.rtime then .next (s.abandon l (lodeBit 0))
    else .next s
  | none => .next s

end Sys2Proof.Machine
end

