-- ==== Sys2Proof/Machine/Dispatch.lean ====
section
/-! DEFINITION. One arm per constructor of Instr: the meaning of each row of the opcode table. -/

namespace Sys2Proof.Machine

/-- The meaning of an instruction or event at a state. -/
def exec (i : Instr) (s : State) : Host.Outcome State Fault Refusal :=
  match i with
  | .nop w => Sys2Proof.Machine.execNop w s
  | .bra w => Sys2Proof.Machine.execBra w s
  | .brx w => Sys2Proof.Machine.execBrx w s
  | .call w => Sys2Proof.Machine.execCall w s
  | .callx w => Sys2Proof.Machine.execCallx w s
  | .ret w => Sys2Proof.Machine.execRet w s
  | .loop w => Sys2Proof.Machine.execLoop w s
  | .meet w => Sys2Proof.Machine.execMeet w s
  | .voteany w => Sys2Proof.Machine.execVoteany w s
  | .voteall w => Sys2Proof.Machine.execVoteall w s
  | .ballot w => Sys2Proof.Machine.execBallot w s
  | .yield w => Sys2Proof.Machine.execYield w s
  | .rgn w => Sys2Proof.Machine.execRgn w s
  | .trap w => Sys2Proof.Machine.execTrap w s
  | .bkpt w => Sys2Proof.Machine.execBkpt w s
  | .jtab w => Sys2Proof.Machine.execJtab w s
  | .fork w => Sys2Proof.Machine.execFork w s
  | .endF w => Sys2Proof.Machine.execEnd w s
  | .spawn w => Sys2Proof.Machine.execSpawn w s
  | .spawnt w => Sys2Proof.Machine.execSpawnt w s
  | .trng w => Sys2Proof.Machine.execTrng w s
  | .acq w => Sys2Proof.Machine.execAcq w s
  | .shed w => Sys2Proof.Machine.execShed w s
  | .bar w => Sys2Proof.Machine.execBar w s
  | .bara w => Sys2Proof.Machine.execBara w s
  | .barw w => Sys2Proof.Machine.execBarw w s
  | .bari w => Sys2Proof.Machine.execBari w s
  | .barx w => Sys2Proof.Machine.execBarx w s
  | .gbar w => Sys2Proof.Machine.execGbar w s
  | .waitv w => Sys2Proof.Machine.execWaitv w s
  | .qstat w => Sys2Proof.Machine.execQstat w s
  | .iadd w => Sys2Proof.Machine.execIadd w s
  | .isub w => Sys2Proof.Machine.execIsub w s
  | .iadc w => Sys2Proof.Machine.execIadc w s
  | .isbc w => Sys2Proof.Machine.execIsbc w s
  | .imul w => Sys2Proof.Machine.execImul w s
  | .imulh w => Sys2Proof.Machine.execImulh w s
  | .imad w => Sys2Proof.Machine.execImad w s
  | .imadw w => Sys2Proof.Machine.execImadw w s
  | .idiv w => Sys2Proof.Machine.execIdiv w s
  | .irem w => Sys2Proof.Machine.execIrem w s
  | .imin w => Sys2Proof.Machine.execImin w s
  | .imax w => Sys2Proof.Machine.execImax w s
  | .iabs w => Sys2Proof.Machine.execIabs w s
  | .idp4 w => Sys2Proof.Machine.execIdp4 w s
  | .lea w => Sys2Proof.Machine.execLea w s
  | .idp2 w => Sys2Proof.Machine.execIdp2 w s
  | .andB w => Sys2Proof.Machine.execAnd w s
  | .orB w => Sys2Proof.Machine.execOr w s
  | .xorB w => Sys2Proof.Machine.execXor w s
  | .tern w => Sys2Proof.Machine.execTern w s
  | .shl w => Sys2Proof.Machine.execShl w s
  | .shr w => Sys2Proof.Machine.execShr w s
  | .sar w => Sys2Proof.Machine.execSar w s
  | .rotl w => Sys2Proof.Machine.execRotl w s
  | .bfx w => Sys2Proof.Machine.execBfx w s
  | .bfi w => Sys2Proof.Machine.execBfi w s
  | .brev w => Sys2Proof.Machine.execBrev w s
  | .popc w => Sys2Proof.Machine.execPopc w s
  | .clz w => Sys2Proof.Machine.execClz w s
  | .ffs w => Sys2Proof.Machine.execFfs w s
  | .bsel w => Sys2Proof.Machine.execBsel w s
  | .bext w => Sys2Proof.Machine.execBext w s
  | .icmp w => Sys2Proof.Machine.execIcmp w s
  | .fcmp w => Sys2Proof.Machine.execFcmp w s
  | .sel w => Sys2Proof.Machine.execSel w s
  | .mov w => Sys2Proof.Machine.execMov w s
  | .gets w => Sys2Proof.Machine.execGets w s
  | .sets w => Sys2Proof.Machine.execSets w s
  | .shfli w => Sys2Proof.Machine.execShfli w s
  | .shflu w => Sys2Proof.Machine.execShflu w s
  | .shfld w => Sys2Proof.Machine.execShfld w s
  | .shflx w => Sys2Proof.Machine.execShflx w s
  | .wred w => Sys2Proof.Machine.execWred w s
  | .wscan w => Sys2Proof.Machine.execWscan w s
  | .fwred w => Sys2Proof.Machine.execFwred w s
  | .nzcnt w => Sys2Proof.Machine.execNzcnt w s
  | .nzmap w => Sys2Proof.Machine.execNzmap w s
  | .matchL w => Sys2Proof.Machine.execMatch w s
  | .fadd w => Sys2Proof.Machine.execFadd w s
  | .fsub w => Sys2Proof.Machine.execFsub w s
  | .fmul w => Sys2Proof.Machine.execFmul w s
  | .ffma w => Sys2Proof.Machine.execFfma w s
  | .fmin w => Sys2Proof.Machine.execFmin w s
  | .fmax w => Sys2Proof.Machine.execFmax w s
  | .fdiv w => Sys2Proof.Machine.execFdiv w s
  | .fsqrt w => Sys2Proof.Machine.execFsqrt w s
  | .frcp w => Sys2Proof.Machine.execFrcp w s
  | .frsq w => Sys2Proof.Machine.execFrsq w s
  | .fexp2 w => Sys2Proof.Machine.execFexp2 w s
  | .flog2 w => Sys2Proof.Machine.execFlog2 w s
  | .ftanh w => Sys2Proof.Machine.execFtanh w s
  | .frnd w => Sys2Proof.Machine.execFrnd w s
  | .fclass w => Sys2Proof.Machine.execFclass w s
  | .fscale w => Sys2Proof.Machine.execFscale w s
  | .hadd2 w => Sys2Proof.Machine.execHadd2 w s
  | .hsub2 w => Sys2Proof.Machine.execHsub2 w s
  | .hmul2 w => Sys2Proof.Machine.execHmul2 w s
  | .hfma2 w => Sys2Proof.Machine.execHfma2 w s
  | .hmin2 w => Sys2Proof.Machine.execHmin2 w s
  | .hmax2 w => Sys2Proof.Machine.execHmax2 w s
  | .hdot2 w => Sys2Proof.Machine.execHdot2 w s
  | .hexp2 w => Sys2Proof.Machine.execHexp2 w s
  | .hcmp2 w => Sys2Proof.Machine.execHcmp2 w s
  | .htanh2 w => Sys2Proof.Machine.execHtanh2 w s
  | .hrcp2 w => Sys2Proof.Machine.execHrcp2 w s
  | .hrsq2 w => Sys2Proof.Machine.execHrsq2 w s
  | .cvtf w => Sys2Proof.Machine.execCvtf w s
  | .i2f w => Sys2Proof.Machine.execI2f w s
  | .f2i w => Sys2Proof.Machine.execF2i w s
  | .ixt w => Sys2Proof.Machine.execIxt w s
  | .pk8 w => Sys2Proof.Machine.execPk8 w s
  | .upk8 w => Sys2Proof.Machine.execUpk8 w s
  | .qblk w => Sys2Proof.Machine.execQblk w s
  | .dqblk w => Sys2Proof.Machine.execDqblk w s
  | .cbenc w => Sys2Proof.Machine.execCbenc w s
  | .cbdec w => Sys2Proof.Machine.execCbdec w s
  | .cbld w => Sys2Proof.Machine.execCbld w s
  | .sppk w => Sys2Proof.Machine.execSppk w s
  | .spupk w => Sys2Proof.Machine.execSpupk w s
  | .srseed w => Sys2Proof.Machine.execSrseed w s
  | .pk4 w => Sys2Proof.Machine.execPk4 w s
  | .upk4 w => Sys2Proof.Machine.execUpk4 w s
  | .ld w => Sys2Proof.Machine.execLd w s
  | .st w => Sys2Proof.Machine.execSt w s
  | .lda w => Sys2Proof.Machine.execLda w s
  | .stl w => Sys2Proof.Machine.execStl w s
  | .lds w => Sys2Proof.Machine.execLds w s
  | .sts w => Sys2Proof.Machine.execSts w s
  | .ldx w => Sys2Proof.Machine.execLdx w s
  | .stx w => Sys2Proof.Machine.execStx w s
  | .ldfe w => Sys2Proof.Machine.execLdfe w s
  | .stfe w => Sys2Proof.Machine.execStfe w s
  | .ldc w => Sys2Proof.Machine.execLdc w s
  | .rld w => Sys2Proof.Machine.execRld w s
  | .pref w => Sys2Proof.Machine.execPref w s
  | .cwb w => Sys2Proof.Machine.execCwb w s
  | .cinv w => Sys2Proof.Machine.execCinv w s
  | .acqp w => Sys2Proof.Machine.execAcqp w s
  | .glds w => Sys2Proof.Machine.execGlds w s
  | .isect w => Sys2Proof.Machine.execIsect w s
  | .merge w => Sys2Proof.Machine.execMerge w s
  | .compact w => Sys2Proof.Machine.execCompact w s
  | .expand w => Sys2Proof.Machine.execExpand w s
  | .tcopy w => Sys2Proof.Machine.execTcopy w s
  | .icopy w => Sys2Proof.Machine.execIcopy w s
  | .hdef w => Sys2Proof.Machine.execHdef w s
  | .hwait w => Sys2Proof.Machine.execHwait w s
  | .hset w => Sys2Proof.Machine.execHset w s
  | .hstat w => Sys2Proof.Machine.execHstat w s
  | .segr w => Sys2Proof.Machine.execSegr w s
  | .bsrch w => Sys2Proof.Machine.execBsrch w s
  | .atom w => Sys2Proof.Machine.execAtom w s
  | .atomo w => Sys2Proof.Machine.execAtomo w s
  | .red w => Sys2Proof.Machine.execRed w s
  | .cas w => Sys2Proof.Machine.execCas w s
  | .caso w => Sys2Proof.Machine.execCaso w s
  | .fred w => Sys2Proof.Machine.execFred w s
  | .fredo w => Sys2Proof.Machine.execFredo w s
  | .fatom w => Sys2Proof.Machine.execFatom w s
  | .fatomo w => Sys2Proof.Machine.execFatomo w s
  | .atoms w => Sys2Proof.Machine.execAtoms w s
  | .freds w => Sys2Proof.Machine.execFreds w s
  | .aflush w => Sys2Proof.Machine.execAflush w s
  | .cass w => Sys2Proof.Machine.execCass w s
  | .fence w => Sys2Proof.Machine.execFence w s
  | .dfence w => Sys2Proof.Machine.execDfence w s
  | .txb w => Sys2Proof.Machine.execTxb w s
  | .txe w => Sys2Proof.Machine.execTxe w s
  | .txa w => Sys2Proof.Machine.execTxa w s
  | .txo w => Sys2Proof.Machine.execTxo w s
  | .txoe w => Sys2Proof.Machine.execTxoe w s
  | .txst w => Sys2Proof.Machine.execTxst w s
  | .ldnt w => Sys2Proof.Machine.execLdnt w s
  | .tcfg w => Sys2Proof.Machine.execTcfg w s
  | .tld w => Sys2Proof.Machine.execTld w s
  | .tst w => Sys2Proof.Machine.execTst w s
  | .tzero w => Sys2Proof.Machine.execTzero w s
  | .tmovr w => Sys2Proof.Machine.execTmovr w s
  | .tmovw w => Sys2Proof.Machine.execTmovw w s
  | .tcb w => Sys2Proof.Machine.execTcb w s
  | .ttrn w => Sys2Proof.Machine.execTtrn w s
  | .tscal w => Sys2Proof.Machine.execTscal w s
  | .tadd w => Sys2Proof.Machine.execTadd w s
  | .tred w => Sys2Proof.Machine.execTred w s
  | .tnz w => Sys2Proof.Machine.execTnz w s
  | .mma w => Sys2Proof.Machine.execMma w s
  | .mmas w => Sys2Proof.Machine.execMmas w s
  | .mmag w => Sys2Proof.Machine.execMmag w s
  | .mmai w => Sys2Proof.Machine.execMmai w s
  | .tlu w => Sys2Proof.Machine.execTlu w s
  | .tchl w => Sys2Proof.Machine.execTchl w s
  | .ttrs w => Sys2Proof.Machine.execTtrs w s
  | .tmv w => Sys2Proof.Machine.execTmv w s
  | .mwait w => Sys2Proof.Machine.execMwait w s
  | .mmaq w => Sys2Proof.Machine.execMmaq w s
  | .tpiv w => Sys2Proof.Machine.execTpiv w s
  | .nbin w => Sys2Proof.Machine.execNbin w s
  | .npair w => Sys2Proof.Machine.execNpair w s
  | .nstat w => Sys2Proof.Machine.execNstat w s
  | .ncfg w => Sys2Proof.Machine.execNcfg w s
  | .hprobe w => Sys2Proof.Machine.execHprobe w s
  | .hins w => Sys2Proof.Machine.execHins w s
  | .hdel w => Sys2Proof.Machine.execHdel w s
  | .hreh w => Sys2Proof.Machine.execHreh w s
  | .hcfg w => Sys2Proof.Machine.execHcfg w s
  | .hqry w => Sys2Proof.Machine.execHqry w s
  | .svopen w => Sys2Proof.Machine.execSvopen w s
  | .svmark w => Sys2Proof.Machine.execSvmark w s
  | .svclose w => Sys2Proof.Machine.execSvclose w s
  | .svqry w => Sys2Proof.Machine.execSvqry w s
  | .nfix w => Sys2Proof.Machine.execNfix w s
  | .svc w => Sys2Proof.Machine.execSvc w s
  | .eret w => Sys2Proof.Machine.execEret w s
  | .getp w => Sys2Proof.Machine.execGetp w s
  | .setp w => Sys2Proof.Machine.execSetp w s
  | .tlbi w => Sys2Proof.Machine.execTlbi w s
  | .l2wb w => Sys2Proof.Machine.execL2wb w s
  | .vhold w => Sys2Proof.Machine.execVhold w s
  | .harv w => Sys2Proof.Machine.execHarv w s
  | .ctxs w => Sys2Proof.Machine.execCtxs w s
  | .ctxr w => Sys2Proof.Machine.execCtxr w s
  | .migr w => Sys2Proof.Machine.execMigr w s
  | .hnot w => Sys2Proof.Machine.execHnot w s
  | .dictionaryMark e x => Sys2Proof.Machine.execDictionaryMark e x s
  | .longResultWrite => Sys2Proof.Machine.execLongResultWrite s
  | .gldsLaneArrival => Sys2Proof.Machine.execGldsLaneArrival s
  | .waitvSatisfied => Sys2Proof.Machine.execWaitvSatisfied s
  | .barrierRelease => Sys2Proof.Machine.execBarrierRelease s
  | .acqGrant => Sys2Proof.Machine.execAcqGrant s
  | .shedEffect => Sys2Proof.Machine.execShedEffect s
  | .engineBufferPause => Sys2Proof.Machine.execEngineBufferPause s
  | .tcopyEnd => Sys2Proof.Machine.execTcopyEnd s
  | .icopyEnd => Sys2Proof.Machine.execIcopyEnd s
  | .isectEnd => Sys2Proof.Machine.execIsectEnd s
  | .mergeEnd => Sys2Proof.Machine.execMergeEnd s
  | .nbinEnd => Sys2Proof.Machine.execNbinEnd s
  | .npairEnd => Sys2Proof.Machine.execNpairEnd s
  | .nfixEnd => Sys2Proof.Machine.execNfixEnd s
  | .hcfgEnd => Sys2Proof.Machine.execHcfgEnd s
  | .hprobeEnd => Sys2Proof.Machine.execHprobeEnd s
  | .hinsEnd => Sys2Proof.Machine.execHinsEnd s
  | .hdelEnd => Sys2Proof.Machine.execHdelEnd s
  | .hrehEnd => Sys2Proof.Machine.execHrehEnd s
  | .ctxsEnd => Sys2Proof.Machine.execCtxsEnd s
  | .ctxrEnd => Sys2Proof.Machine.execCtxrEnd s
  | .migrEnd => Sys2Proof.Machine.execMigrEnd s
  | .matrixOpComplete => Sys2Proof.Machine.execMatrixOpComplete s
  | .deferredTileFault => Sys2Proof.Machine.execDeferredTileFault s
  | .irrevTokenGrant => Sys2Proof.Machine.execIrrevTokenGrant s
  | .cartEntryArrival => Sys2Proof.Machine.execCartEntryArrival s
  | .drainerMarker => Sys2Proof.Machine.execDrainerMarker s
  | .roundClose => Sys2Proof.Machine.execRoundClose s
  | .forwardedAccessReceive => Sys2Proof.Machine.execForwardedAccessReceive s
  | .forwardedResponse => Sys2Proof.Machine.execForwardedResponse s
  | .remoteStoreRefusal => Sys2Proof.Machine.execRemoteStoreRefusal s
  | .pageWalk => Sys2Proof.Machine.execPageWalk s
  | .walkWaitTimeout => Sys2Proof.Machine.execWalkWaitTimeout s
  | .faultRingWrite => Sys2Proof.Machine.execFaultRingWrite s
  | .fackResume => Sys2Proof.Machine.execFackResume s
  | .fackEnd => Sys2Proof.Machine.execFackEnd s
  | .fackAbort => Sys2Proof.Machine.execFackAbort s
  | .placementPass => Sys2Proof.Machine.execPlacementPass s
  | .gangPreempt => Sys2Proof.Machine.execGangPreempt s
  | .gangRestore => Sys2Proof.Machine.execGangRestore s
  | .gangStartEdge => Sys2Proof.Machine.execGangStartEdge s
  | .teamRetire => Sys2Proof.Machine.execTeamRetire s
  | .itemPlacement => Sys2Proof.Machine.execItemPlacement s
  | .scoreHalving => Sys2Proof.Machine.execScoreHalving s
  | .watchdogExpiry => Sys2Proof.Machine.execWatchdogExpiry s
  | .launchDeadline => Sys2Proof.Machine.execLaunchDeadline s
  | .assayDeadline => Sys2Proof.Machine.execAssayDeadline s
  | .launchRecord => Sys2Proof.Machine.execLaunchRecord s
  | .loadRecord => Sys2Proof.Machine.execLoadRecord s
  | .unloadRecord => Sys2Proof.Machine.execUnloadRecord s
  | .launchCompletion => Sys2Proof.Machine.execLaunchCompletion s
  | .notificationPost => Sys2Proof.Machine.execNotificationPost s
  | .qtailWrite => Sys2Proof.Machine.execQtailWrite s
  | .nheadWrite => Sys2Proof.Machine.execNheadWrite s
  | .qptbrWrite => Sys2Proof.Machine.execQptbrWrite s
  | .registerWrite => Sys2Proof.Machine.execRegisterWrite s
  | .hostHdmAccess => Sys2Proof.Machine.execHostHdmAccess s
  | .frfmtEnable => Sys2Proof.Machine.execFrfmtEnable s
  | .frfmtDisable => Sys2Proof.Machine.execFrfmtDisable s
  | .wdogRestart => Sys2Proof.Machine.execWdogRestart s
  | .wdogZeroWrite => Sys2Proof.Machine.execWdogZeroWrite s
  | .spanPrepare => Sys2Proof.Machine.execSpanPrepare s
  | .spanCommit => Sys2Proof.Machine.execSpanCommit s
  | .spanGo => Sys2Proof.Machine.execSpanGo s
  | .spanAbandon => Sys2Proof.Machine.execSpanAbandon s
  | .spanWindowExpiry => Sys2Proof.Machine.execSpanWindowExpiry s
  | .spanLocalTimeout => Sys2Proof.Machine.execSpanLocalTimeout s
  | .portTraining => Sys2Proof.Machine.execPortTraining s
  | .portDown => Sys2Proof.Machine.execPortDown s
  | .heartbeatSend => Sys2Proof.Machine.execHeartbeatSend s
  | .heartbeatReceive => Sys2Proof.Machine.execHeartbeatReceive s
  | .agentDeathDeclare => Sys2Proof.Machine.execAgentDeathDeclare s
  | .deadMessage => Sys2Proof.Machine.execDeadMessage s
  | .admitMessage => Sys2Proof.Machine.execAdmitMessage s
  | .admissionGo => Sys2Proof.Machine.execAdmissionGo s
  | .fabricMessageReceive => Sys2Proof.Machine.execFabricMessageReceive s
  | .fwImageStage => Sys2Proof.Machine.execFwImageStage s
  | .fwUnitActivate => Sys2Proof.Machine.execFwUnitActivate s
  | .getVersion => Sys2Proof.Machine.execGetVersion s
  | .getCapabilities => Sys2Proof.Machine.execGetCapabilities s
  | .negotiateAlgorithms => Sys2Proof.Machine.execNegotiateAlgorithms s
  | .getDigests => Sys2Proof.Machine.execGetDigests s
  | .getCertificate => Sys2Proof.Machine.execGetCertificate s
  | .challenge => Sys2Proof.Machine.execChallenge s
  | .getMeasurements => Sys2Proof.Machine.execGetMeasurements s
  | .masterFreeze => Sys2Proof.Machine.execMasterFreeze s
  | .mfreezeThaw => Sys2Proof.Machine.execMfreezeThaw s
  | .spareCoreReplace => Sys2Proof.Machine.execSpareCoreReplace s
  | .eccCorrected => Sys2Proof.Machine.execEccCorrected s
  | .eccPoison => Sys2Proof.Machine.execEccPoison s
  | .sensorSample => Sys2Proof.Machine.execSensorSample s
  | .deviceReset => Sys2Proof.Machine.execDeviceReset s
  | .unassignedOpcode opc w => Sys2Proof.Machine.execUnassignedOpcode opc w s
  | .oddOrOutOfCodeFetch => Sys2Proof.Machine.execOddOrOutOfCodeFetch s
  | .spanReadyReport => Sys2Proof.Machine.execSpanReadyReport s
  | .spanCommitAcknowledgement => Sys2Proof.Machine.execSpanCommitAcknowledgement s

end Sys2Proof.Machine
end

