-- ==== Sys2Proof/Machine/Auto.lean ====
section
/-! DEFINITION. What happens next: the head of the agenda; with none, the events that the state itself brings about and the waves that are
ready take turns; with neither, what was turned away tries again [1], [2]. -/

namespace Sys2Proof.Machine

/-! ### Events that the state brings about -/

/-- An event and what it brings. -/
abbrev Happening : Type := Instr × EventArgs

/-- What the part chooses freely comes from the counter [3]. -/
def State.freeArgs (s : State) : EventArgs := { choice := (Config.freeWord s.freeCtr).toNat }

/-- What the sensors read, when the agenda does not say it [22]. -/
def State.freeReadings (s : State) : Readings :=
  let w := fun (k : Nat) => (Config.freeWord (s.freeCtr * 2 ^ 64 + 2 ^ 60 + k)).toNat
  { power := w 0, temps := (List.range 10).map (fun d => w (1 + d)), hot := (List.range 10).map (fun d => (w (11 + d)).testBit 0) }

/-- Events at waves. -/
def State.waveEvents (s : State) (a : EventArgs) : List Happening :=
  s.waves.flatMap (fun (w : Wave) => match w.wait with
    | some .gather => [(.gldsLaneArrival, { a with wave := w.id, lanes := BitVec.allOnes 32 })]
    | some .value => [(.waitvSatisfied, { a with wave := w.id })]
    | some .token => [(.irrevTokenGrant, { a with wave := w.id })]
    | some .walk => [(.walkWaitTimeout, { a with wave := w.id })]
    | _ => [])

/-- Events at fibres: results, and fault records. -/
def State.fibreEvents (s : State) (a : EventArgs) : List Happening :=
  s.fibres.flatMap (fun (f : Fibre) =>
    (List.range f.pend.length).map (fun k => (.longResultWrite, { a with fibre := f.id, choice := k }))
    ++ (if (f.inTrap.map InTrap.runtime) == some .toWrite then [(.faultRingWrite, { a with fibre := f.id })] else []))

/-- Events at teams and gangs. -/
def State.teamEvents (s : State) (a : EventArgs) : List Happening :=
  s.teams.flatMap (fun (t : Team) =>
    let b := { a with launch := t.launch, team := t.id }
    [(.barrierRelease, b), (.watchdogExpiry, b), (.assayDeadline, b)] ++ t.sheds.map (fun r => (.shedEffect, { b with wave := r.1 })))
  ++ s.gangs.flatMap (fun (g : Gang) =>
    let b := { a with launch := g.launch, gang := g.id }
    [(.barrierRelease, { b with gangWide := true }), (.gangPreempt, b), (.gangRestore, b), (.gangStartEdge, b), (.teamRetire, b)])

/-- Events at cores. -/
def State.coreEvents (s : State) (a : EventArgs) : List Happening :=
  (List.range s.cores.length).flatMap (fun c =>
    let k := s.core c
    let b := { a with core := c }
    (if k.acqs.isEmpty then [] else [(.acqGrant, b)])
    ++ (if (s.coreTeams c).any (fun t => !t.scores.isEmpty) then [(.scoreHalving, b)] else [])
    ++ (if s.itemCrews.any (fun (i : ItemCrew) => i.core == c) then [(.itemPlacement, b)] else []))

/-- The end of an engine operation. -/
def EngKind.endEvent : EngKind → Option Instr
  | .tcopy => some .tcopyEnd
  | .icopy => some .icopyEnd
  | .isect => some .isectEnd
  | .merge => some .mergeEnd
  | .nbin => some .nbinEnd
  | .npair => some .npairEnd
  | .nfix => some .nfixEnd
  | .hcfg => some .hcfgEnd
  | .hprobe => some .hprobeEnd
  | .hins => some .hinsEnd
  | .hdel => some .hdelEnd
  | .hreh => some .hrehEnd
  | .ctxs => some .ctxsEnd
  | .ctxr => some .ctxrEnd
  | .migr => some .migrEnd
  | .ncfg => none

/-- Events of operations, tile instructions, ordered entries and refused stores. -/
def State.opEvents (s : State) (a : EventArgs) : List Happening :=
  s.ops.flatMap (fun (o : EngOp) => match o.kind.endEvent with
    | some i => [(i, { a with op := o.id }), (.engineBufferPause, { a with op := o.id })]
    | none => [])
  ++ s.tileOps.map (fun (o : TileOp) => (.matrixOpComplete, { a with op := o.id }))
  ++ (s.entries.filter (fun (e : Entry) => !e.arrived)).map (fun e => (.cartEntryArrival, { a with op := e.id }))
  ++ (s.fwds.filter (fun (r : Fwd) => r.posted && r.dead)).map (fun r => (.remoteStoreRefusal, { a with req := r.id }))

/-- Events of launches, queues and the device. -/
def State.launchEvents (s : State) (a : EventArgs) : List Happening :=
  s.launches.flatMap (fun (l : Launch) =>
    let b := { a with launch := l.id }
    let marks := if ((s.object? l.obj).map (fun o => o.ordered || o.aflush)).getD false then
        ((List.range l.drainers).filter (s.markerDue l)).map (fun d => (Instr.drainerMarker, { b with team := d })) else []
    marks ++ [(.roundClose, b), (.launchDeadline, b), (.launchCompletion, b), (.spanWindowExpiry, b), (.spanLocalTimeout, b)])
  ++ s.finished.map (fun f => (.launchCompletion, { a with launch := f.id }))
  ++ (List.range s.queues.length).flatMap (fun q =>
    let u := s.queue q
    let b := { a with queue := q }
    (if u.en && u.head != u.tail then [(.launchRecord, b), (.loadRecord, b), (.unloadRecord, b)] else [])
    ++ (if u.notes.isEmpty then [] else [(.notificationPost, b)]))
  ++ (if s.unloads.isEmpty then [] else [(.unloadRecord, a)])
  ++ (if s.launches.isEmpty then [] else [(.placementPass, a)])
  ++ s.service.quiesce.map (fun q => (.fwUnitActivate, { a with unit := q.1 }))
  ++ [(.heartbeatSend, a)]
  ++ (List.range s.fabric.agents.length).map (fun n => (.agentDeathDeclare, { a with agent := n }))

/-- Every event that the state may bring about by itself. -/
def State.candidates (s : State) : List Happening :=
  let a := s.freeArgs
  s.fibreEvents a ++ s.waveEvents a ++ s.teamEvents a ++ s.opEvents a ++ s.launchEvents a ++ s.coreEvents a

/-- The state in which an event happens. -/
def State.withEvent (s : State) (a : EventArgs) : State := { s with cur := none, ev := a }

/-- Whether an event comes about: it changes the state. -/
def State.happens (s : State) (h : Happening) : Bool :=
  match exec h.1 (s.withEvent h.2) with
  | .next t => t != s.withEvent h.2
  | _ => true

/-- A list that begins elsewhere. -/
def rotate {α : Type} (l : List α) (k : Nat) : List α := l.drop (k % max l.length 1) ++ l.take (k % max l.length 1)

/-- What acts before anything else: a team that finishes writes its Assay record, a deadline is reached in the first tick whose RTIME is
not below it, a watchdog's count reaches its limit, scores are halved once for each 1,024 cycles, an agent that has been silent for
1,000 µs is dead, and the sensors are sampled once a millisecond, in the first step that begins after it, as the agenda says if that comes
next (11 R228, R231, R232; 02 R58, R66, R67; 31 R507; 32 R518) [22]. -/
def State.urgent (s : State) : List Happening :=
  let a := s.freeArgs
  let reached := fun (d : DWord) => d != 0 && d.toNat ≤ s.rtime
  (s.teams.filter (fun (t : Team) => t.sup.isSome && s.teamDone t)).map (fun t =>
    (.teamRetire, { a with launch := t.launch, gang := s.gangOf t.launch t.id }))
  ++ (s.teams.filter (fun (t : Team) => (t.sup.map (fun u => reached u.deadline)).getD false)).map (fun t =>
    (.assayDeadline, { a with launch := t.launch, team := t.id }))
  ++ (s.launches.filter (fun (l : Launch) => reached l.deadline)).map (fun l => (.launchDeadline, { a with launch := l.id }))
  ++ (s.teams.filter (fun (t : Team) => t.wdog != 0 && t.wdog ≤ t.spent)).map (fun t =>
    (.watchdogExpiry, { a with launch := t.launch, team := t.id }))
  ++ (((s.teams.filter (fun (t : Team) => t.core < coreCount && !t.scores.isEmpty)).map Team.core).eraseDups.filter (fun c =>
      ((s.core c).halved + 1) * 1024 ≤ s.clk.cycles.getD (dieOf c) 0)).map (fun c => (.scoreHalving, { a with core := c }))
  ++ ((List.range s.fabric.agents.length).filter s.overdue).map (fun n => (.agentDeathDeclare, { a with agent := n }))
  ++ (match s.agenda.head? with
    | some (.event .sensorSample _) => []
    | _ => if s.service.sampled < s.clk.begun / 100000 then [(.sensorSample, { a with readings := s.freeReadings })] else [])

/-- The event that comes about next: they take turns. -/
def State.nextEvent (s : State) : Option Happening := (rotate s.candidates (s.turn / 3)).find? s.happens

/-! ### Which wave issues (02 R57) -/

/-- Whether a wave's next instruction may have to wait for its operands or for a scoreboard: results that are pending, tiles in use
(12 R249, R251; 18 R374). -/
def State.mayBlock (s : State) (w : Wave) : Bool :=
  (s.waveFibres w).any (fun f => !f.pend.isEmpty) || ((s.opAt w).map (fun op => decide (0xC0 ≤ op.code && op.code ≤ 0xDA))).getD false

/-- Whether a wave that waits would still wait if it tried its instruction again, or one that does not would have to wait for operands
or a scoreboard: it has not become ready (02 R57). -/
def State.staysWaiting (s : State) (w : Wave) : Bool :=
  (w.wait.isSome || s.mayBlock w) &&
    (match s.begin w.id with
      | some (i, t) => (match exec i t with
        | .next u => ((u.wave? w.id).map (fun v => v.lanes == w.lanes &&
            (if w.wait.isSome then v.wait.isSome else v.wait == some .pending || v.wait == some .tile))).getD false
        | _ => false)
      | none => true)

/-- Whether a wave is ready in the sense of R57. -/
def State.trulyReady (s : State) (w : Wave) : Bool := s.ready w && !s.staysWaiting w

/-- The choice of the quadrant of a wave. -/
def State.choiceAt (s : State) (q : Nat × Nat) : Option Wave := s.choose q (s.waves.filter (fun w => s.quadOf w == q && s.trulyReady w))

/-- The wave that issues when the agenda leaves the choice open: quadrants that have a ready wave take turns [2]. -/
def State.nextWave (s : State) : Option Wave :=
  let quads := ((s.waves.filter s.trulyReady).map s.quadOf).eraseDups
  match quads[s.turn / 3 % max quads.length 1]? with
  | some q => s.choiceAt q
  | none => none

/-- A wave that tries the instruction at which it still waits: no issue, but accesses that it needs may go out [9]. -/
def State.nextRetry (s : State) : Option Wave :=
  (rotate (s.waves.filter (fun w => s.ready w && (w.wait.isSome || s.mayBlock w))) (s.turn / 3)).find? (fun w => s.staysWaiting w)

/-- After a wave has issued: the others of its quadrant that were ready have waited a cycle longer, those that were not begin to wait
when they become ready, and it issued last there (02 R57). -/
def State.noteIssue (before s : State) (wave : Nat) : State :=
  match before.wave? wave with
  | none => s
  | some w =>
    let q := before.quadOf w
    let others := (before.waves.filter (fun v => v.id != wave && before.quadOf v == q && before.trulyReady v)).map Wave.id
    let idle := (before.waves.filter (fun v => v.id != wave && before.quadOf v == q && !before.trulyReady v)).map Wave.id
    let older := fun (v : Wave) =>
      if others.contains v.id then { v with age := v.age + 1 } else if idle.contains v.id then { v with age := 0 } else v
    let s := { s with waves := s.waves.map older, turn := s.turn + 1, cur := none }
    s.setCore q.1 (fun c => { c with last := (q.2, wave, before.yields w) :: c.last.filter (fun l => l.1 != q.2) })

/-! ### What was turned away -/

/-- Releases held back, kept answers and waves that wait try again [9]. -/
def State.retry (s : State) : State :=
  let held := (s.fibres.filter (fun (f : Fibre) => !f.held.isEmpty)).map Fibre.id
  let s := held.foldl State.releaseHeld s
  -- Adds to ACC that could not be made (28 R474).
  let s := (s.mem.dir.filter (fun d => 64 ≤ d.count)).foldl (fun s d => s.raiseAcc 0 0 d.leaf) s
  s.releaseLeft.tryKept.wake

/-! ### Choices of the part that no row names -/

/-- The bytes of the aligned 8-byte units that a mask meets: no write-back tears one (04 R101). -/
def wholeUnits (mask : BitVec 64) : BitVec 64 :=
  BitVec.ofNat 64 (((List.range 8).map (fun k => if mask.toNat / 256 ^ k % 256 == 0 then 0 else 255 * 256 ^ k)).sum)

/-- Some dirty bytes of an L1 line written back, whole units of them: they are clean then. -/
def backPart (who : Who) (core : Nat) (l : L1Line) (mask : BitVec 64) : M Unit := do
  let mask := wholeUnits mask
  if l.dirty &&& mask != 0 then l1Back who { l with dirty := l.dirty &&& mask }
  modify (fun s => s.setCore core (fun c => { c with l1 := c.l1.map (fun (k : L1Line) => if k.line == l.line then { k with dirty := k.dirty &&& ~~~mask } else k) }))

/-- A cache or a TLB gives up an entry (03 R86, R91; 28 R475); SPDM's ERROR for a request that is not supported (32 R513); a debugger halts a
team or lets it go on (02 R66); a peer's TLBI (19 R414). -/
def State.move (s : State) : Move → State
  | .dropL1 c n => match (s.core c).l1.find? (fun (l : L1Line) => l.line == n) with
    | some l => s.attempt (l1Evict (coreWho s c 0) c l)
    | none => s
  | .backL1 c n mask => match (s.core c).l1.find? (fun (l : L1Line) => l.line == n) with
    | some l => s.attempt (backPart (coreWho s c 0) c l mask)
    | none => s
  | .dropL2 sl n => if s.mayDrop n then { s with mem := s.mem.l2Drop sl n } else s
  | .dropTlb c page => s.setCore c (fun k => { k with
      tlb := k.tlb.filter (fun e => !(e.page ≤ page && page < e.page + 4096 ^ e.level))
      walkAhead := k.walkAhead.filter (fun e => !(e.page ≤ page && page < e.page + 4096 ^ e.level)) })
  | .otherSpdm => if s.isFrozen 1 then s else s.respond 0x7F [7]
  | .peerTlbi l first count => s.peerTlbi l first count
  | .halt l t on => match s.team? l t with
    | some u => (s.setTeam { u with halted := on }).wake
    | none => s
  | _ => s

/-! ### The plan -/

/-- What a step is about to do. -/
inductive Plan where
  /-- A wave issues. -/
  | issue (wave : Nat) (i : Instr) (s : State)
  /-- An event happens. -/
  | event (i : Instr) (s : State)
  /-- Nothing that a row names. -/
  | quiet (s : State)
deriving Repr

/-- A wave issues if it is its quadrant's choice; one that still waits only tries again. -/
def State.planIssue (s : State) (wave : Nat) : Plan :=
  match s.wave? wave, s.begin wave with
  | some w, some (i, t) =>
    if s.staysWaiting w then .event i { t with turn := t.turn + 1 }
    else if (s.choiceAt (s.quadOf w)).map Wave.id == some wave then .issue wave i t
    else .quiet s
  | _, _ => .quiet s

/-- An event of the state, if one comes about. -/
def State.planEvent (s : State) : Option Plan := s.nextEvent.map (fun h => .event h.1 ({ s with turn := s.turn + 1 }.withEvent h.2))

/-- A wave that is ready, if there is one. -/
def State.planWave (s : State) : Option Plan := s.nextWave.map (fun w => s.planIssue w.id)

/-- A wave that waits and tries again, if there is one. -/
def State.planRetry (s : State) : Option Plan := s.nextRetry.map (fun w => s.planIssue w.id)

/-- What the step does when the agenda is empty: events, waves that are ready and waves that wait take turns [2]. -/
def State.planFree (s : State) : Plan :=
  let quiet := Plan.quiet { s.retry with turn := s.turn + 1 }
  (match s.turn % 3 with
    | 0 => s.planEvent <|> s.planWave <|> s.planRetry
    | 1 => s.planWave <|> s.planRetry <|> s.planEvent
    | _ => s.planRetry <|> s.planEvent <|> s.planWave).getD quiet

/-- What the next step does when nothing is urgent. -/
def State.planNext (s : State) : Plan :=
  match s.agenda with
  | .issue w :: r => ({ s with agenda := r }).planIssue w
  | .event i a :: r => .event i ({ s with agenda := r }.withEvent a)
  | m :: r => .quiet ({ s with agenda := r }.move m)
  | [] => s.planFree

/-- What the next step does. -/
def State.plan (s : State) : Plan :=
  match s.urgent.find? s.happens with
  | some h => .event h.1 (s.withEvent h.2)
  | none => s.planNext

end Sys2Proof.Machine
end

