-- ==== Sys2Proof/Machine/Step.lean ====
section
/-! DEFINITION. One step: time passes, then the next move is made; and the state in which a given instruction is the next. -/

namespace Sys2Proof.Machine

/-- A move made: an issue is noted (02 R57). -/
def Plan.carryOut : Plan → Host.Outcome State Fault Refusal
  | .issue wave i t =>
    match exec i t with
    | .next u => .next (State.noteIssue t u wave)
    | x => x
  | .event i t => exec i t
  | .quiet t => .next t

/-- One step of the device. -/
def step (s : State) : Host.Outcome State Fault Refusal := s.tick.plan.carryOut

/-- The state with an instruction placed where the next step fetches one: the bits of w as spec/opcode_table.json numbers
them (`State.withProgram`) [7]. -/
def State.withFetchWord (s : State) (nbits w : Nat) : State := s.withProgram (leBytes 12 (w % 2 ^ nbits))

end Sys2Proof.Machine
end

