-- ==== Sys2Proof/Safety.lean ====
section
/-! DEFINITION. What claims speak in: a safe run, the invariant that steps keep, a wave that is ready to issue an instruction,
and the state in which an instruction leaves the device when nothing turns its lanes another way. -/

namespace Sys2Proof.Machine

/-- The memories of a state in canonical form: device memory, host memory, and every team's scratchpad. -/
def State.MemWf (s : State) : Prop := s.mem.hbm.wf ∧ s.mem.host.wf ∧ ∀ t ∈ s.teams, t.sp.wf

/-- A run of n steps from a state ends in a next state: no fault and no refusal stops it. -/
def State.Runs (n : Nat) (s : State) : Prop := ∃ t, Host.Core.run Sys2Proof.core n s = .next t

/-- The wave that issues, its fibres in ascending home lane, and the first of them; nothing keeps the word from them: no fault
is due, the checks of 12 R245 pass, nothing it reads or writes is pending, no lookahead window is breached, and no transaction,
gather, allotment or poisoned operand turns a fibre away. At least one fibre is active. -/
abbrev Ready (op : Op) (w : Fields) (s : State) (wv : Wave) (fs : List Fibre) (f : Fibre) : Prop :=
  s.cur.bind s.wave? = some wv ∧ s.waveFibres wv = fs ∧ fs.head? = some f
    ∧ s.duesAt op wv.crew.launch fs f.pc = [] ∧ decodeCheck s op w f = none ∧ mustWait op w fs = false
    ∧ (∀ g ∈ fs, breach op w g = none) ∧ (∀ g ∈ fs, turnedAway op w f.pc (fs.filter (fun g => g.active w.guard)).head? g = none) ∧ (∃ g ∈ fs, g.active w.guard = true)

/-- A ready wave of one fibre, which is active. -/
abbrev Solo (op : Op) (w : Fields) (s : State) (wv : Wave) (f : Fibre) : Prop := Ready op w s wv [f] f

/-- What the effect of an instruction sees at a wave of one fibre. -/
abbrev soloCtx (op : Op) (w : Fields) (s : State) (wv : Wave) (f : Fibre) : Ctx := issueCtx op w s wv [f] f.pc

/-- The state an instruction's own effect starts from: every fibre of the wave stands at the fall-through. -/
abbrev State.begun (s : State) (c : Ctx) : State := s.setFibres c.all

/-- The state after an effect that turned no lane another way: lookahead windows open, the wave goes on. -/
def State.done (s : State) (c : Ctx) (fs : List Fibre) : State := (s.openWindows c (c.act.map Fibre.id)).finish c fs []

/-- A fibre after an instruction of it has completed: a long destination opens its lookahead window (12 R250), and it waits on no
walk any more. -/
def Fibre.ended (op : Op) (w : Fields) (f : Fibre) : Fibre :=
  { f with windows := if op.long && w.la != 0 then f.windows ++ [{ left := w.la.toNat, regs := op.dstRegs w }] else f.windows
           walkTimeout := false }

/-- A fibre that an instruction passes by: it goes on at the fall-through, its windows counted. -/
def Fibre.passed (fall : Word) (f : Fibre) : Fibre := { f.issued fall with walkTimeout := false }

/-- A fibre of a wave after an instruction whose lanes each do `act`: the fibres the guard leaves out are passed by (12 R242). -/
def Fibre.after (op : Op) (w : Fields) (fall : Word) (act : Fibre → Fibre) (f : Fibre) : Fibre :=
  if f.active w.guard then (act (f.issued fall)).ended op w else f.passed fall

/-- t differs from u in waves, fibres, names and forwarded answers only: memory, cores, teams, launches, engines, registers of
the device and what it has sent are u's. -/
def SameBut (u t : State) : Prop :=
  t = { u with waves := t.waves, fibres := t.fibres, fwds := t.fwds, nextId := t.nextId }

/-- An outcome is a next state: the fibres `fs` are as `after` says, every other fibre of `s` is untouched, and the rest is u's. -/
def Ends (o : Host.Outcome State Fault Refusal) (s : State) (fs : List Fibre) (after : Fibre → Fibre) (u : State) : Prop :=
  ∃ t, o = .next t ∧ SameBut u t ∧ (∀ g ∈ fs, t.fibre? g.id = some (after g)) ∧ ∀ k, (∀ g ∈ fs, g.id ≠ k) → t.fibre? k = s.fibre? k

/-- No wave stands at a meeting point, and no fibre belongs to a trap group: an instruction's end lets nothing else go on. -/
abbrev State.Calm (s : State) : Prop :=
  (∀ w ∈ s.waves, w.wait ≠ some .meet ∧ w.wait ≠ some .bar ∧ w.wait ≠ some .gbar) ∧ ∀ f ∈ s.fibres, f.group = none

/-- The fibres of a wave can take a trap as 28 R478 tells it: the launch is an ordinary one whose runtime can be entered, the
trap bank has room, and none of them is in the runtime or in a transaction. -/
abbrev Trappable (s : State) (wv : Wave) (fs : List Fibre) (l : Launch) (o : Object) : Prop :=
  s.launch? wv.crew.launch = some l ∧ l.det = false ∧ l.trapEntry.getLsbD 0 = false ∧ s.object? l.trapObj.toNat = some o
    ∧ s.bankFull wv = false ∧ ∀ g ∈ fs, g.inTrap = none ∧ g.tx = none

/-- A wave that issues an instruction with nothing in its way, in a state where only this wave's fibres can go on through it. -/
abbrev Issues (op : Op) (w : Fields) (s : State) (wv : Wave) (fs : List Fibre) (f : Fibre) : Prop :=
  Ready op w s wv fs f ∧ wv.reissue = false ∧ s.Calm

/-- The same of a wave of one fibre. -/
abbrev IssuesOne (op : Op) (w : Fields) (s : State) (wv : Wave) (f : Fibre) : Prop := Issues op w s wv [f] f

/-- An opcode completes in every wave that issues it: each active fibre becomes what G makes of it, the wave's other fibres are
passed by, and nothing else of the device changes. -/
abbrev LaneRule (op : Op) (G : Ctx → Fibre → Fibre) : Prop :=
  ∀ w s wv fs f, Issues op w s wv fs f →
    Ends (exec (op.instr w) s) s fs (Fibre.after op w (s.fallOf f.pc) (G (issueCtx op w s wv fs f.pc))) s

/-- An opcode completes for a wave as a whole: under P the device becomes U, and the wave's fibres only go on. -/
abbrev WaveRule (op : Op) (P : Ctx → State → Prop) (U : Ctx → State → State) : Prop :=
  ∀ w s wv fs f, Issues op w s wv fs f → P (issueCtx op w s wv fs f.pc) s →
    Ends (exec (op.instr w) s) s fs (Fibre.after op w (s.fallOf f.pc) id) (U (issueCtx op w s wv fs f.pc) s)

/-- The same where each active fibre also becomes G of what it was at the fall-through. -/
abbrev GroupRule (op : Op) (P : Ctx → State → Prop) (G : Ctx → State → Fibre → Fibre) (U : Ctx → State → State) : Prop :=
  ∀ w s wv fs f, Issues op w s wv fs f → P (issueCtx op w s wv fs f.pc) s →
    Ends (exec (op.instr w) s) s fs (Fibre.after op w (s.fallOf f.pc) (G (issueCtx op w s wv fs f.pc) s)) (U (issueCtx op w s wv fs f.pc) s)

/-- An opcode completes in a wave of one fibre: under P the fibre becomes G of what it was at the fall-through, the device U. -/
abbrev OneRule (op : Op) (P : Ctx → State → Fibre → Prop) (G : Ctx → State → Fibre → Fibre) (U : Ctx → State → Fibre → State) : Prop :=
  ∀ w s wv f, IssuesOne op w s wv f → P (soloCtx op w s wv f) s (f.issued (s.fallOf f.pc)) →
    Ends (exec (op.instr w) s) s [f] (fun _ => (G (soloCtx op w s wv f) s (f.issued (s.fallOf f.pc))).ended op w)
      (U (soloCtx op w s wv f) s (f.issued (s.fallOf f.pc)))

/-! ### Where an access lies -/

/-- The physical address that a TLB entry gives a virtual address, and its line in the address's view (28 R475; 03 R84). -/
def TlbEntry.at_ (e : TlbEntry) (va : DWord) : Nat := e.pa + va.toNat % 2 ^ 50 % pageBytes e.level
def TlbEntry.line (e : TlbEntry) (va : DWord) : Nat := lineNo (e.at_ va) (va.getLsbD 50)

/-- No bytes of memory belong to a grid, to a family or to a launch that keeps their contents undefined (08 R197). -/
abbrev Unowned (s : State) : Prop := s.grids = [] ∧ s.families = [] ∧ ∀ l ∈ s.launches, l.areas = []

/-- A fibre that is in no transaction and has no release held, in a state where no memory is owned: its accesses meet plain memory. -/
abbrev Plain (s : State) (f : Fibre) : Prop := f.tx = none ∧ f.held = [] ∧ Unowned s

/-- An access of these bytes is aligned and its page is in the core's TLB as device memory, in an entry that is sound (32 R517); a decoded
address lies in a region. -/
abbrev Resident (s : State) (c : Ctx) (va : DWord) (bytes : Nat) (write : Bool) (e : TlbEntry) : Prop :=
  va.toNat < 2 ^ 51 ∧ va.toNat % bytes = 0
    ∧ (s.core c.core).tlb.find? (fun e => e.hits (s.queueOf c.launch) (pageOf va) && (!write || e.w)) = some e ∧ e.loc = 0 ∧ e.poison = false
    ∧ (va.getLsbD 50 = true → (s.mem.regionAt (e.at_ va)).isSome = true)

/-- A line can be used at its home slice: its vein is not held, no other fibre's lock refuses, neither it nor anything behind it is
poisoned. -/
abbrev AtHome (s : State) (i : FibreId) (line : Nat) : Prop :=
  s.mem.heldAt (linePa line) = false ∧ (∀ k ∈ s.mem.locks, k.line = line → k.owner = i) ∧ s.mem.bad line = false

/-- A line of an L1 may be read there: nothing of it is poisoned, or it is written anew as a whole (32 R517). -/
abbrev SoundL1 (s : State) (line : Nat) (l : L1Line) : Prop := l.poison = false ∧ (l.dirty = BitVec.allOnes 64 ∨ s.mem.bad line = false)

/-- The line of a core's L1 that serves its accesses to a line (03 R87). -/
def State.l1Line? (s : State) (core line : Nat) : Option L1Line := (s.core (s.l1Core core line)).l1.find? (fun l => l.line == line)

/-- The device after a page has been written to: the write ownership is granted (28 R473). -/
def State.granted (s : State) (e : TlbEntry) (va : DWord) : State := { s with mem := s.mem.grant e.leaf (pageOf va) }

/-- The device with other memory. -/
def State.withMem (s : State) (m : MemSys) : State := { s with mem := m }

/-- The device with a line of an L1 replaced. -/
def State.withL1 (s : State) (core : Nat) (l : L1Line) : State :=
  s.setCore (s.l1Core core l.line) (fun c => { c with l1 := c.l1.map (fun k => if k.line == l.line then l else k) })

/-- No L1 that a core's accesses use holds a dirty byte. -/
abbrev CleanL1 (s : State) (core : Nat) : Prop := ∀ k ∈ s.l1Cores core, ∀ l ∈ (s.core k).l1, l.dirty = 0

/-- Nothing that a release waits for or writes back: no store of the fibre is unacknowledged or refused, no release of it is held, and
the L1s are clean (04 R104, R127). -/
abbrev Quiet (s : State) (core : Nat) (f : Fibre) : Prop :=
  f.dues = [] ∧ f.held = [] ∧ (∀ r ∈ s.fwds, r.posted = false ∨ r.fibre ≠ f.id) ∧ CleanL1 s core

/-- The device after an acquire that reaches beyond the core: its L1s keep only their dirty bytes (04 R104). -/
def State.acquired (s : State) (core : Nat) : State := (s.l1Cores core).foldl State.invalidateCore s

/-- The launch of a wave is no span's (01 R39). -/
abbrev NoSpan (s : State) (c : Ctx) : Prop := (s.launch? c.launch).bind Launch.span = none

/-- A fibre's team, in whose scratchpad bytes lie, aligned to their number, on no poisoned line (03 R71; 17 R344; 32 R517). -/
abbrev OwnBytes (s : State) (f : Fibre) (t : Team) (a n : Nat) : Prop :=
  s.teamOf? f.id.crew = some t ∧ a % n = 0 ∧ a + n ≤ t.spSize ∧ t.bad a n = false

/-- A sibling at a gang position, in whose scratchpad bytes lie (03 R76). -/
abbrev SiblingBytes (s : State) (f : Fibre) (t u : Team) (pos a n : Nat) : Prop :=
  s.teamOf? f.id.crew = some t ∧ a % n = 0 ∧ pos < ((s.launch? t.launch).map Launch.gang).getD 1
    ∧ s.team? t.launch (t.id / ((s.launch? t.launch).map Launch.gang).getD 1 * ((s.launch? t.launch).map Launch.gang).getD 1 + pos) = some u
    ∧ a + n ≤ u.spSize ∧ u.bad a n = false

/-- A barrier object stands at an offset of a scratchpad with legal fields (14 R291). -/
abbrev ObjAt (t : Team) (off : Nat) (o : BarObj) : Prop :=
  t.sp.getN off 4 = o.expect + 2 ^ 20 * o.scope ∧ t.sp.getN (off + 4) 4 = o.arrived ∧ t.sp.getN (off + 8) 4 = o.phase.toNat
    ∧ t.sp.getN (off + 12) 4 = 0 ∧ 1 ≤ o.expect ∧ o.expect < 2 ^ 20 ∧ 1 ≤ o.scope ∧ o.scope ≤ 6 ∧ o.arrived < o.expect

/-- A team with a barrier object written. -/
def Team.putObj (t : Team) (off : Nat) (o : BarObj) : Team :=
  { t with sp := (((t.sp.setN off 4 (o.expect + 2 ^ 20 * o.scope)).setN (off + 4) 4 o.arrived).setN (off + 8) 4 o.phase.toNat).setN (off + 12) 4 0 }

/-- An object after one arrival: the last one starts the next phase (14 R291). -/
def BarObj.arrive (o : BarObj) : BarObj :=
  if o.arrived + 1 = o.expect then { o with arrived := 0, phase := o.phase + 1 } else { o with arrived := o.arrived + 1 }

/-- An address operand names an object in the fibre's own scratchpad. -/
abbrev OwnObj (s : State) (f : Fibre) (t : Team) (a : Word) : Prop :=
  a.toNat < 2 ^ 20 ∧ OwnBytes s f t (a.toNat % 2 ^ 18) 16

/-- The wave is the only one of its name and of its home wave, and its lanes are its fibres. -/
abbrev Alone (s : State) (wv : Wave) (fs : List Fibre) : Prop :=
  s.waves.filter (fun v => v.id == wv.id || (v.crew == wv.crew && v.home == wv.home)) = [wv] ∧ wv.lanes = lanesOf fs

/-- A fibre in the trap runtime with a cause, a KIND, a TRAPPC and INFO0 (28 R478). -/
abbrev InRuntime (f g : Fibre) (l : Launch) (c : Cause) (kind : Nat) (pc info : Word) : Prop :=
  g.id = f.id ∧ g.inTrap.isSome = true ∧ g.pc = l.trapEntry ∧ g.obj = l.trapObj.toNat ∧ g.bank = [0, 0, 0, 0]
    ∧ g.trap.cause = c ∧ g.trap.kind = kind ∧ g.trap.lane.toNat = f.lane ∧ g.trap.pc = pc ∧ g.trap.info0 = info
    ∧ (f.pend = [] → g.regs = f.regs)

/-- Every active fibre is quiet. -/
abbrev AllQuiet (s : State) (c : Ctx) : Prop := ∀ x ∈ c.act, Quiet s c.core x

/-- A handle that an engine operation may take now: its buffer is in the scratchpad, it is FREE, and the fork has nothing to wait
for or write back (17 R353; 04 R113). -/
abbrev Startable (s : State) (c : Ctx) (t : Team) : Prop :=
  s.teamOf? c.lead.id.crew = some t ∧ (t.handle c.w.d.n.toNat).bytes ≠ 0
    ∧ (t.handle c.w.d.n.toNat).start + (t.handle c.w.d.n.toNat).bytes ≤ t.spSize ∧ (t.handle c.w.d.n.toNat).state = .free ∧ AllQuiet s c

/-- The device after an engine operation has entered its engine: the handle is FILLING with count and status 0 (03 R82). -/
def State.startedOp (s : State) (c : Ctx) (t : Team) (o : EngOp) : State :=
  let h := c.w.d.n.toNat
  let u := s.setTeam (t.setHandle h { t.handle h with state := .filling, status := 0, count := 0, paused := false })
  { u with ops := u.ops ++ [{ o with id := s.nextId, launch := t.launch, team := t.id, core := t.core, handle := h }] }

/-- A tile of a team that is allotted and that no instruction in flight writes (18 R373 to R375). -/
abbrev TileAt (s : State) (t : Team) (n : Nat) (x : Tile) : Prop := t.tiles[n]? = some x ∧ x.allot = true ∧ n ∉ s.tilesBusy t ∧ n ∉ s.tilesStoring t []

/-- The tiles of a matrix operand, with the widths and shapes of 18 R392. -/
abbrev MatrixAt (s : State) (t : Team) (pair : Bool) (n : Nat) (ts : List Tile) : Prop :=
  (matTiles pair n).map (fun k => t.tiles[k]?) = ts.map some ∧ (∀ x ∈ ts, x.allot = true) ∧ (∀ k ∈ matTiles pair n, k ∉ s.tilesBusy t ∧ k ∉ s.tilesStoring t [])
    ∧ (∀ x ∈ ts, x.width = 3)
    ∧ ∀ x y, ts = [x, y] → x.cols = y.cols ∧ x.rows = (x.rows + y.rows + 1) / 2 ∧ y.rows = (x.rows + y.rows) / 2

/-- The device after a tile instruction has entered its unit (18 R374): one that reads a poisoned tile leaves its destinations as they
are and defers SYS.UNCORR (32 R517). -/
def State.pushedTile (s : State) (c : Ctx) (t : Team) (reads : List Nat) (writes : List (Nat × Tile)) (flags : Word) (fault : Option Due) : State :=
  let bad := (c.tileSources reads writes).any t.badTile
  { s with tileOps := s.tileOps ++ [{ id := s.nextId, launch := t.launch, team := t.id, wave := c.wv.id, fibres := c.act.map Fibre.id, pc := c.pc
                                      reads := reads
                                      writes := if bad then writes.map (fun p => (p.1, t.tiles.getD p.1 p.2)) else writes
                                      flags := if bad then 0 else flags
                                      fault := if bad then some { cause := sysUncorr } else fault }] }

/-- The same with one tile replaced at once. -/
def State.withTile (s : State) (t : Team) (n : Nat) (x : Tile) : State := s.setTeam { t with tiles := t.tiles.set n x }

/-- A page that tile rows reach is in the core's walk-ahead TLB as device memory, in a row of n bytes within one line (18 R380). -/
abbrev RowAhead (s : State) (c : Ctx) (va : DWord) (n : Nat) (write : Bool) (e : TlbEntry) : Prop :=
  va.toNat < 2 ^ 51 ∧ 0 < n ∧ va.toNat % 64 + n ≤ 64
    ∧ (s.core c.core).walkAhead.find? (fun e => e.hits (s.queueOf c.launch) (pageOf va) && (!write || e.w)) = some e ∧ e.loc = 0 ∧ e.poison = false ∧ e.pa % 64 = 0
    ∧ (va.getLsbD 50 = true → (s.mem.regionAt (e.at_ va)).isSome = true)

/-- The bytes an instruction takes in memory: a mark is one parcel (12 R235, R236). -/
def length (i : Instr) : Nat :=
  match i with
  | .dictionaryMark .. => 2
  | _ => 12

end Sys2Proof.Machine
end

