-- ==== Sys2Proof/Certificates/Slice0/Obligations.lean ====
section
/-! DEFINITION. The statements for the provers. Instructions are stated over waves that issue with nothing in their way
(`Issues`), and each such statement says the whole next state: what the wave's fibres become, that every other fibre is untouched,
and what the rest of the device is (`Ends`). -/

open Sys2Proof Sys2Proof.Machine

/-! ### Decoding and stepping -/

/-- Before a step time passes. What is urgent then comes first: a finished team's record, a deadline that is reached (log 2). Else, when the
agenda lets a wave issue that is ready and that its quadrant chooses (02 R57), and the bytes of its object's code at its PC decode to an
instruction, the step is that instruction's meaning, then the note of who issued last; a wave that would wait on only tries its
instruction, and one that is not its quadrant's choice does not issue. When the agenda brings an event, the step is the event's meaning.
The agenda is the model's own (log 1).
Log 3 (how much time passes), 2 (what is urgent comes first, turns) and 9 (a waiting wave tries again) are the model's choices too. -/
def Obligations.StepRunsDecoded : Prop :=
  (∀ (s : State) (h : Happening), s.tick.urgent.find? s.tick.happens = some h → step s = exec h.1 (s.tick.withEvent h.2)) ∧
  (∀ (s : State) (i : Nat) (ms : List Move) (wv : Wave) (f : Fibre) (fs : List Fibre) (o : Object) (ins : Instr) (rest : List Byte),
    let u := { s.tick with agenda := ms }
    let t := { u with cur := some i, ilen := length ins }
    s.tick.urgent.find? s.tick.happens = none → s.agenda = .issue i :: ms → u.wave? i = some wv → u.waveFibres wv = f :: fs →
    u.object? f.obj = some o → f.pc.toNat % 2 = 0 → decode ((o.code.drop f.pc.toNat).take 12) = .ok (ins, rest) → u.ready wv = true →
    (u.staysWaiting wv = false → (u.choiceAt (u.quadOf wv)).map Wave.id = some i →
      step s = match exec ins t with
        | .next v => .next (State.noteIssue t v i)
        | x => x) ∧
    (u.staysWaiting wv = false → (u.choiceAt (u.quadOf wv)).map Wave.id ≠ some i → step s = .next u) ∧
    (u.staysWaiting wv = true → step s = exec ins { t with turn := t.turn + 1 })) ∧
  (∀ (s : State) (i : Instr) (a : EventArgs) (ms : List Move), s.tick.urgent.find? s.tick.happens = none → s.agenda = .event i a :: ms →
    step s = exec i ({ s.tick with agenda := ms }.withEvent a))

/-- Words written out from the encodings and examples of the spec decode to the instructions they stand for: a guarded BRA (12 R237),
FFMA (13 R273), LOOP (14 R278), IADC (15 R299), PK8 (16 R333), LDA (17 R346), MMA (18 R391), FENCE (19 R400), TXO (19 R402), SVMARK
(19 R408), a dictionary mark (12 R246) and an unassigned opcode (13 R264). -/
def Obligations.WordsDecode : Prop :=
  decode [0x01, 0x00, 0x00, 0x00, 0x00, 0x40, 0x01, 0x00, 0xC0, 0xFF, 0xFF, 0xFF]
    = .ok (.bra ⟨0, ⟨.reg, 0⟩, ⟨.reg, 0⟩, ⟨.reg, 0⟩, 5, 0, false, 0, 0xFFFFFFC0⟩, []) ∧
  decode [0x53, 0x09, 0x04, 0x14, 0x60, 0x00, 0x00, 0x00, 0x07, 0x00, 0x00, 0x00]
    = .ok (.ffma ⟨9, ⟨.reg, 4⟩, ⟨.reg, 5⟩, ⟨.reg, 6⟩, 0, 0, false, 0, 7⟩, []) ∧
  decode [0x06, 0x00, 0x06, 0x00, 0x00, 0x00, 0x00, 0x00, 0xD0, 0xFF, 0xFF, 0xFF]
    = .ok (.loop ⟨0, ⟨.reg, 6⟩, ⟨.reg, 0⟩, ⟨.reg, 0⟩, 0, 0, false, 0, 0xFFFFFFD0⟩, []) ∧
  decode [0x22, 0x02, 0x0C, 0x11, 0x84, 0x10, 0x00, 0x00, 0x02, 0x00, 0x00, 0x00]
    = .ok (.iadc ⟨2, ⟨.pair, 12⟩, ⟨.pair, 4⟩, ⟨.pair, 8⟩, 0, 0, false, 0, 2⟩, []) ∧
  decode [0x74, 0x08, 0x09, 0x10, 0x00, 0x00, 0x00, 0x00, 0x00, 0x00, 0x00, 0x00]
    = .ok (.pk8 ⟨8, ⟨.reg, 9⟩, ⟨.reg, 4⟩, ⟨.reg, 0⟩, 0, 0, false, 0, 0⟩, []) ∧
  decode [0x82, 0x1C, 0x05, 0x20, 0x04, 0x00, 0x00, 0x00, 0x10, 0x00, 0x00, 0x00]
    = .ok (.lda ⟨0x1C, ⟨.reg, 5⟩, ⟨.pair, 8⟩, ⟨.reg, 0⟩, 0, 0, false, 0, 16⟩, []) ∧
  decode [0xD0, 0x01, 0x04, 0x00, 0x20, 0x00, 0x00, 0x00, 0x00, 0x00, 0x00, 0x00]
    = .ok (.mma ⟨1, ⟨.reg, 4⟩, ⟨.reg, 0⟩, ⟨.reg, 2⟩, 0, 0, false, 0, 0⟩, []) ∧
  decode [0xB0, 0x14, 0x00, 0x00, 0x00, 0x00, 0x00, 0x00, 0x00, 0x00, 0x00, 0x00]
    = .ok (.fence ⟨0x14, ⟨.reg, 0⟩, ⟨.reg, 0⟩, ⟨.reg, 0⟩, 0, 0, false, 0, 0⟩, []) ∧
  decode [0xB5, 0x00, 0x00, 0x0C, 0x00, 0x00, 0x00, 0x00, 0xA0, 0xFF, 0xFF, 0xFF]
    = .ok (.txo ⟨0, ⟨.reg, 0⟩, ⟨.reg, 3⟩, ⟨.reg, 0⟩, 0, 0, false, 0, 0xFFFFFFA0⟩, []) ∧
  decode [0xEB, 0x00, 0x07, 0x20, 0x90, 0x00, 0x00, 0x00, 0x05, 0x00, 0x00, 0x00]
    = .ok (.svmark ⟨0, ⟨.reg, 7⟩, ⟨.reg, 8⟩, ⟨.reg, 9⟩, 0, 0, false, 0, 5⟩, []) ∧
  decode [0xFE, 0x15, 0x0C] = .ok (.dictionaryMark 2 0x15, [0x0C]) ∧
  decode [0xBB, 0x00, 0x00, 0x00, 0x00, 0x00, 0x00, 0x00, 0x00, 0x00, 0x00, 0x00]
    = .ok (.unassignedOpcode 0xBB ⟨0, ⟨.reg, 0⟩, ⟨.reg, 0⟩, ⟨.reg, 0⟩, 0, 0, false, 0, 0⟩, [])

/-- DECODE OF ENCODE. The bytes of every well-formed instruction decode to it, whatever follows them: no bit of MOD, of a
descriptor, GUARD, LA, YLD, the reserved field or imm32 is dropped or moved (12 R235, R236). -/
def Obligations.DecodeEncode : Prop :=
  ∀ (i : Instr) (bs rest : List Byte), i.wellFormed = true → encode i = some bs → decode (bs ++ rest) = .ok (i, rest)

/-- ENCODE OF DECODE. Whatever bytes decode are the bytes of the instruction they decode to, and then the rest: two words never
stand for one instruction (12 R235, R236). -/
def Obligations.EncodeDecode : Prop :=
  ∀ (bs rest : List Byte) (i : Instr), decode bs = .ok (i, rest) → ∃ e, encode i = some e ∧ bs = e ++ rest ∧ e.length = length i

/-! ### Memory and reset -/

/-- Every step keeps device memory, host memory and every scratchpad in their canonical form. -/
def Obligations.StepKeepsMemory : Prop := ∀ s t : State, s.MemWf → step s = .next t → t.MemWf

/-- The memories are in canonical form at reset.
That unwritten bytes read 0, and so need no entry, is the model's choice (log 5). -/
def Obligations.ResetMemory : Prop := State.reset.MemWf

/-- What the spec gives the machine at reset: every vein 2d exists with MASK 0xFFFF, every vein 2d + 1 does not (29 R488); the format
regions are disabled (29 R493); queues are disabled (27 R462); no port is up and every agent is dead (31 R511); the fault ring is
disabled (28 R481); no master is frozen (32 R515); no fibre, wave, team or launch exists. -/
def Obligations.ResetValues : Prop :=
  (∀ v x, State.reset.mem.veins[v]? = some x → x.hash = if v % 2 = 0 then ⟨0xFFFF, 0, true⟩ else ⟨0, 0, false⟩) ∧
  State.reset.mem.veins.length = 16 ∧
  (∀ r ∈ State.reset.mem.regions, r.en = false) ∧
  (∀ q ∈ State.reset.queues, q.en = false ∧ q.head = 0 ∧ q.tail = 0) ∧
  (∀ p ∈ State.reset.fabric.ports, p.up = false) ∧ (∀ a ∈ State.reset.fabric.agents, a.live = false) ∧
  State.reset.ring.en = false ∧ State.reset.service.frozen = 0 ∧
  State.reset.fibres = [] ∧ State.reset.waves = [] ∧ State.reset.teams = [] ∧ State.reset.launches = []

/-- v0 is the predicate word (01 R9): bit 0 reads as 1 after any write, every other bit reads as written, guard bit 0 unnegated is
always met and negated never (but that a lane waiting at a barrier object stays in its wait); every instruction may read or write it like any register.
A 64-bit value occupies a pair: the low word in vN, the high word in vN+1 (01 R10); w0 reads bit 0 as 1. A uniform read gives
every active fibre the value in the active fibre of the lowest home lane. A register that an uncorrectable error has marked is sound again once it is written (32 R517). -/
def Obligations.RegisterWords : Prop :=
  (∀ (f : Fibre) (v : Word), 0 < f.regs.length → (f.setReg 0 v).reg 0 = v ||| 1) ∧
  (∀ (f : Fibre) (n : Nat) (v : Word), (f.reg 0).getLsbD 0 = true → ((f.setReg n v).reg 0).getLsbD 0 = true) ∧
  (∀ (f : Fibre), (f.reg 0).getLsbD 0 = true → f.objWait = none → f.active 0 = true ∧ f.active 32 = false) ∧
  (∀ (f : Fibre) (k : Nat) (b : Bool), 0 < k → k < 32 → 0 < f.regs.length →
    (f.setPred k b).pred k = b ∧ ∀ j, j ≠ k → 0 < j → j < 32 → (f.setPred k b).pred j = f.pred j) ∧
  (∀ (f : Fibre) (n : Nat) (v : DWord), n + 1 < f.regs.length → n + 1 < 252 →
    (f.setPair n v).pair n = (if n = 0 then v ||| 1 else v) ∧ (f.setPair n v).reg (n + 1) = v.hi) ∧
  (∀ (c : Ctx) (f g : Fibre) (n : Byte), c.low = some g → c.val f ⟨.uni, n⟩ = g.reg n.toNat ∧ c.val64 f ⟨.uni, n⟩ = g.pair n.toNat) ∧
  (∀ (f : Fibre) (n k : Nat) (v : Word), (f.setReg n v).badReg k = (f.badReg k && k != n))

/-! ### Integer, bit, compare and move instructions (15) -/

/-- The exact results of 15 R298 and R301, as functions of Ext(A), Ext(B) and n, for the opcodes of two W operands. -/
def intRules : List (Op × (Bool → Int → Int → Nat → Int)) :=
  [(.iadd, fun _ a b _ => a + b), (.isub, fun _ a b _ => a - b), (.imul, fun _ a b _ => a * b),
   (.imulh, fun _ a b n => (a * b) / 2 ^ n), (.imin, fun _ a b _ => if a ≤ b then a else b), (.imax, fun _ a b _ => if a ≤ b then b else a),
   (.idiv, fun sg a b n => if b = 0 then -1 else if sg && a == -(2 ^ (n - 1) : Int) && b == -1 then a else a.tdiv b),
   (.irem, fun _ a b _ => if b = 0 then a else a.tmod b)]

/-- D of an exact result: modulo 2^n, or clamped to the range of TY under SAT (15 R298). -/
def intResult (signed sat : Bool) (n : Nat) (e : Int) : Int :=
  let lo : Int := if signed then -(2 ^ (n - 1)) else 0
  let hi : Int := if signed then 2 ^ (n - 1) - 1 else 2 ^ n - 1
  (if sat then max lo (min hi e) else e) % 2 ^ n

/-- The eight integer instructions of two operands complete with the exact result of 15 R298 (IDIV and IREM: R301) narrowed to
TY's width, for every TY, both SAT forms and every operand kind. -/
def Obligations.IntegerResults : Prop :=
  ∀ p ∈ intRules, LaneRule p.1 (fun c x =>
    let wide := tyWide c.w.mod 0
    let sg := tySigned c.w.mod 0
    let n := if wide then 64 else 32
    let a := ext sg n (c.valW x c.w.a wide sg)
    let b := ext sg n (c.valW x c.w.b wide sg)
    c.putW x wide (intResult sg (modBit c.w.mod 2) n (p.2 sg a b n)).toNat)

/-- IADC, ISBC (R299), IMAD, IABS (R298), IMADW (R300), IDP4, IDP2 (R302) and LEA (R303) complete with the stated results; the carry
goes to v0[K] after D. With R298's, R299's and R301's worked cases. -/
def Obligations.CarryAndWideResults : Prop :=
  (∀ p ∈ [(Op.iadc, false), (Op.isbc, true)], LaneRule p.1 (fun c x =>
    let wide := tyWide c.w.mod 0
    let n := if wide then 64 else 32
    let k := c.w.c.n.toNat
    let a := c.valW x c.w.a wide (tySigned c.w.mod 0)
    let b := c.valW x c.w.b wide (tySigned c.w.mod 0)
    let i := if x.pred k then 1 else 0
    if p.2 then (c.putW x wide ((2 ^ (n + 1) + a - (b + i)) % 2 ^ n)).setPred k (a < b + i)
    else (c.putW x wide ((a + b + i) % 2 ^ n)).setPred k (2 ^ n ≤ a + b + i))) ∧
  LaneRule .imad (fun c x =>
    let wide := tyWide c.w.mod 0
    let sg := tySigned c.w.mod 0
    let n := if wide then 64 else 32
    let v := fun (d : Desc) => ext sg n (c.valW x d wide sg)
    c.putW x wide (intResult sg (modBit c.w.mod 2) n (v c.w.a * v c.w.b + v c.w.c)).toNat) ∧
  LaneRule .iabs (fun c x =>
    let wide := tyWide c.w.mod 0
    let n := if wide then 64 else 32
    c.putW x wide (intResult true (modBit c.w.mod 2) n (ext true n (c.valW x c.w.a wide true)).natAbs).toNat) ∧
  LaneRule .imadw (fun c x =>
    let sg := tySigned c.w.mod 0
    let e := ext sg 32 (c.a x).toNat * ext sg 32 (c.b x).toNat + ext sg 64 (c.val64 x c.w.c).toNat
    c.putD64 x (BitVec.ofNat 64 (intResult sg (modBit c.w.mod 2) 64 e).toNat)) ∧
  (∀ p ∈ [(Op.idp4, 8, 4), (Op.idp2, 16, 2)], LaneRule p.1 (fun c x =>
    let sa := modBit c.w.mod 0
    let sb := modBit c.w.mod 1
    let term := fun (k : Nat) => ext sa p.2.1 ((c.a x).toNat / 2 ^ (p.2.1 * k)) * ext sb p.2.1 ((c.b x).toNat / 2 ^ (p.2.1 * k))
    let e := ext (sa || sb) 32 (c.c4 x).toNat + ((List.range p.2.2).map term).foldl (· + ·) 0
    c.putD x (BitVec.ofNat 32 (intResult (sa || sb) (modBit c.w.mod 2) 32 e).toNat))) ∧
  LaneRule .lea (fun c x =>
    let i : DWord := if modBit c.w.mod 4 then (c.b x).signExtend 64 else (c.b x).setWidth 64
    c.putD64 x (c.a64 x + i <<< modField c.w.mod 0 4)) ∧
  intResult true true 32 (0x10000 * 0x8000) = 0x7FFFFFFF ∧ intResult true false 32 (0x10000 * 0x8000) = 0x80000000 ∧
  carryResult false 64 0xFFFFFFFFFFFFFFFF 2 0 = (1, true) ∧ carryResult false 64 1 0 1 = (2, false) ∧
  idivResult true 32 (-7) 2 = -3 ∧ iremResult (-7) 2 = -1

/-- SHL, SHR, SAR and ROTL complete with the shifts of R305: the count is B as u32, whole; n is the width; a count of n or more
gives 0, 0, the sign everywhere, and the rotation by the count modulo n.
The bit operations of R304 and R306 to R309 complete: AND, OR, XOR, BEXT, TERN, BFX, BFI, BREV, POPC, CLZ, FFS and BSEL, each with
its rule's worked cases. -/
def Obligations.BitResults : Prop :=
  LaneRule .shl (fun c x =>
    let n := if wdWide c.w.mod then 64 else 32
    c.putW x (wdWide c.w.mod) (BitVec.ofNat n (c.valW x c.w.a (wdWide c.w.mod) false) <<< (c.b x).toNat).toNat) ∧
  LaneRule .shr (fun c x =>
    let n := if wdWide c.w.mod then 64 else 32
    c.putW x (wdWide c.w.mod) (BitVec.ofNat n (c.valW x c.w.a (wdWide c.w.mod) false) >>> (c.b x).toNat).toNat) ∧
  LaneRule .sar (fun c x =>
    let n := if wdWide c.w.mod then 64 else 32
    c.putW x (wdWide c.w.mod) ((BitVec.ofNat n (c.valW x c.w.a (wdWide c.w.mod) false)).sshiftRight (c.b x).toNat).toNat) ∧
  LaneRule .rotl (fun c x =>
    let n := if wdWide c.w.mod then 64 else 32
    c.putW x (wdWide c.w.mod) ((BitVec.ofNat n (c.valW x c.w.a (wdWide c.w.mod) false)).rotateLeft (c.b x).toNat).toNat) ∧
  (∀ p ∈ [(Op.andB, fun (_ : Nat) (a b : Nat) => a &&& b), (Op.orB, fun _ a b => a ||| b), (Op.xorB, fun _ a b => a ^^^ b), (Op.bext, bextN)],
    LaneRule p.1 (fun c x =>
      let wide := wdWide c.w.mod
      c.putW x wide (p.2 (if wide then 64 else 32) (c.valW x c.w.a wide false) (c.valW x c.w.b wide false)))) ∧
  LaneRule .tern (fun c x => c.putD x (ternBits c.w.mod (c.a x) (c.b x) (c.c4 x))) ∧
  LaneRule .bfx (fun c x =>
    let wide := wdWide c.w.mod
    c.putW x wide (bfxN (modBit c.w.mod 1) (if wide then 64 else 32) (c.valW x c.w.a wide false) (c.b x).toNat)) ∧
  LaneRule .bfi (fun c x =>
    let wide := wdWide c.w.mod
    c.putW x wide (bfiN (if wide then 64 else 32) (c.valW x c.w.a wide false) (c.valW x c.w.b wide false) (c.c4 x).toNat)) ∧
  LaneRule .brev (fun c x =>
    let wide := wdWide c.w.mod
    c.putW x wide (brevN (if wide then 64 else 32) (c.valW x c.w.a wide false))) ∧
  (∀ p ∈ [(Op.popc, popcN), (Op.clz, clzN), (Op.ffs, ffsN)], LaneRule p.1 (fun c x =>
    let wide := wdWide c.w.mod
    c.putD x (BitVec.ofNat 32 (p.2 (if wide then 64 else 32) (c.valW x c.w.a wide false))))) ∧
  LaneRule .bsel (fun c x => c.putD x (BitVec.ofNat 32 (bselN (c.a x).toNat (c.b x).toNat (c.c4 x).toNat))) ∧
  (∀ a b c : Word, ternBits 0x96 a b c = a ^^^ b ^^^ c ∧ ternBits 0xAA a b c = a
    ∧ ternBits 0xE8 a b c = (a &&& b) ||| (a &&& c) ||| (b &&& c) ∧ ternBits 0xCA a b c = (b &&& c) ||| (a &&& ~~~c)) ∧
  (∀ n, clzN n 0 = n) ∧ ffsN 32 0 = 0xFFFFFFFF ∧ bextN 32 0xF0F0 0x0FF0 = 0xF ∧
  (∀ a b : Word, bselN a.toNat b.toNat 0x3210 = a.toNat) ∧ (∀ a b : Nat, bselN a b 0x8854 = b % 65536) ∧
  (∀ n a f : Nat, f / 256 % 256 = 0 → bfxN true n a f = 0 ∧ bfiN n a f f = a)

/-- ICMP (R311) and FCMP (R312) write bit K of D and leave D's other bits; MOV and SEL (R313) copy an operand, SEL by v0[K] as it was
before D is written; an FCMP with a NaN gives UNORD under every cc. -/
def Obligations.CompareAndMove : Prop :=
  LaneRule .icmp (fun c x =>
    let wide := tyWide c.w.mod 3
    let sg := tySigned c.w.mod 3
    let n := if wide then 64 else 32
    let a := ext sg n (c.valW x c.w.a wide sg)
    let b := ext sg n (c.valW x c.w.b wide sg)
    let r : Bool := match modField c.w.mod 0 3 with
      | 0 => a = b
      | 1 => a ≠ b
      | 2 => a < b
      | 3 => a ≤ b
      | 4 => b < a
      | _ => b ≤ a
    c.putD x (setBit (x.reg c.w.d.n.toNat) c.w.c.n.toNat r)) ∧
  LaneRule .fcmp (fun c x =>
    let r := fp32.compare x.ftz (modBit c.w.mod 3) (modField c.w.mod 0 3) (c.a x).toNat (c.b x).toNat
    c.putD x (setBit (x.reg c.w.d.n.toNat) c.w.c.n.toNat r.1) r.2) ∧
  LaneRule .mov (fun c x => c.putW x (wdWide c.w.mod) (c.valW x c.w.a (wdWide c.w.mod) false)) ∧
  LaneRule .sel (fun c x =>
    c.putW x (wdWide c.w.mod) (c.valW x (if x.pred c.w.c.n.toNat then c.w.a else c.w.b) (wdWide c.w.mod) false)) ∧
  (∀ (ftz un : Bool) (cc a b : Nat), (∃ q, fp32.decode a = .nan q) → (fp32.compare ftz un cc a b).1 = un) ∧
  (∀ (c : Ctx) (x : Fibre), c.val x ⟨.special, 0⟩ = 0 ∧ c.val x ⟨.special, 1⟩ = c.w.imm ∧ c.val x ⟨.special, 2⟩ = BitVec.ofNat 32 (x.id.index % 32)
    ∧ c.val x ⟨.special, 3⟩ = BitVec.ofNat 32 x.id.index ∧ c.val x ⟨.special, 4⟩ = 0xFFFFFFFF)

/-- The active fibre of a home lane. -/
def laneOf (c : Ctx) (l : Nat) : Option Fibre := c.act.find? (fun g => g.id.index % 32 == l)

/-- The wave-wide instructions complete over the active fibres of the issuing wave alone (R18): shuffles (R316), MATCH (R320), BALLOT
and the votes (R282), WRED and WSCAN (R317), FWRED (R318), NZCNT and NZMAP (R319). -/
def Obligations.WaveWideResults : Prop :=
  (∀ p ∈ [(Op.shfli, fun (_ b : Nat) => some b), (Op.shflu, fun l b => if b ≤ l then some (l - b) else none), (Op.shfld, fun l b => some (l + b)),
      (Op.shflx, fun l b => if b < 32 then some (l ^^^ b) else none)],
    LaneRule p.1 (fun c x => c.putW x (wdWide c.w.mod)
      (c.valW (((p.2 (x.id.index % 32) (c.b x).toNat).bind (laneOf c)).getD x) c.w.a (wdWide c.w.mod) false))) ∧
  LaneRule .matchL (fun c x => c.putD x (lanesOf (c.act.filter (fun g =>
    c.valW g c.w.a (wdWide c.w.mod) false == c.valW x c.w.a (wdWide c.w.mod) false)))) ∧
  LaneRule .ballot (fun c x => c.putD x (lanesOf (c.act.filter (fun g => (c.a g).getLsbD c.w.b.n.toNat)))) ∧
  LaneRule .voteany (fun c x =>
    let m := c.val c.lead c.w.b
    let old := x.reg c.w.d.n.toNat
    c.putD x ((old &&& ~~~m) ||| (c.act.foldl (fun v g => v ||| c.a g) 0 &&& m))) ∧
  LaneRule .voteall (fun c x =>
    let m := c.val c.lead c.w.b
    let old := x.reg c.w.d.n.toNat
    c.putD x ((old &&& ~~~m) ||| (c.act.foldl (fun v g => v &&& c.a g) 0xFFFFFFFF &&& m))) ∧
  LaneRule .wred (fun c x => c.putW x (tyWide c.w.mod 3) (wredOver c c.act)) ∧
  LaneRule .wscan (fun c x => c.putW x (tyWide c.w.mod 3) (wredOver c (c.act.filter (fun g =>
    if modBit c.w.mod 5 then g.lane < x.lane else g.lane ≤ x.lane)))) ∧
  LaneRule .fwred (fun c x =>
    let r := treeSum fp32 { mode := c.lead.rmode (modField c.w.mod 0 3), sat := modBit c.w.mod 3 } 5
      ((List.range 32).map (fun l => (laneOf c l).map (fun g => (c.a g).toNat)))
    c.putD x (BitVec.ofNat 32 r.1) r.2) ∧
  LaneRule .nzcnt (fun c x => c.putD x (BitVec.ofNat 32 ((c.act.map (fun g => nzOf (modField c.w.mod 0 3) (c.a g))).sum))) ∧
  LaneRule .nzmap (fun c x => c.putD x (lanesOf (c.act.filter (fun g => nzOf (modField c.w.mod 0 3) (c.a g) != 0))))

/-- The transfers of control complete where 14 R277 and R278 say, each fibre by itself: a target counts from the instruction or its
mark, modulo 2^32; CALL and CALLX leave the fall-through in D; LOOP decrements D and branches unless the new value is 0; JTAB
chooses a 12-byte slot below its bound. NOP and YIELD change nothing else (R279).
That LOOP on v0 tests the decremented value is log 29. -/
def Obligations.TransfersOfControl : Prop :=
  (∀ p ∈ [Op.nop, Op.yield], LaneRule p (fun _ x => x)) ∧
  LaneRule .bra (fun c x => { x with pc := c.pc + c.w.imm }) ∧
  (∀ p ∈ [Op.brx, Op.ret], LaneRule p (fun c x => { x with pc := c.a x })) ∧
  LaneRule .call (fun c x => { c.putD x c.fall with pc := c.pc + c.w.imm }) ∧
  LaneRule .callx (fun c x => { c.putD x c.fall with pc := c.a x }) ∧
  LaneRule .loop (fun c x =>
    let v := x.reg c.w.d.n.toNat - 1
    { c.putD x v with pc := if v = 0 then c.fall else c.pc + c.w.imm }) ∧
  LaneRule .jtab (fun c x => { x with pc := if (c.a x).toNat < (c.b x).toNat then c.pc + c.w.imm + 12 * c.a x else c.fall }) ∧
  (∀ (op : Op) (w : Fields) (s : State) (wv : Wave) (fs : List Fibre) (f : Fibre), (issueCtx op w s wv fs f.pc).pc = f.pc ∧ (issueCtx op w s wv fs f.pc).fall = f.pc + BitVec.ofNat 32 s.ilen)

/-! ### Float and conversion instructions (16) -/

/-- The FP32 instructions (R324 to R326) complete: the operation of chapter 05 under the form's rounding, saturation and FTZ, the
result in D, its flags ORed into FPSTAT, both pending together for the long class (R322). -/
def Obligations.FloatResults : Prop :=
  (∀ p ∈ [(Op.fadd, fp32.add), (Op.fsub, fp32.sub), (Op.fmul, fp32.mul), (Op.fdiv, fp32.div), (Op.fmin, fun r => fp32.minmax r false),
      (Op.fmax, fun r => fp32.minmax r true)],
    LaneRule p.1 (fun c x => c.putR x (p.2 (c.arith x) (c.a x).toNat (c.b x).toNat))) ∧
  LaneRule .ffma (fun c x => c.putR x (fp32.fma (c.arith x) (c.a x).toNat (c.b x).toNat (c.c4 x).toNat)) ∧
  (∀ p ∈ [(Op.fsqrt, fp32.sqrt), (Op.frnd, fp32.rint)], LaneRule p.1 (fun c x => c.putR x (p.2 (c.arith x) (c.a x).toNat))) ∧
  (∀ p ∈ [(Op.frcp, fp32.rcp), (Op.frsq, fp32.rsq), (Op.fexp2, fp32.exp2), (Op.flog2, fp32.log2), (Op.ftanh, fp32.tanh)],
    LaneRule p.1 (fun c x => c.putR x (p.2 (c.func x) (c.a x).toNat))) ∧
  LaneRule .fscale (fun c x => c.putR x (fp32.scale (c.arith x) (c.a x).toNat (c.b x).toInt)) ∧
  LaneRule .fclass (fun c x => c.putD x (BitVec.ofNat 32 (2 ^ fclassBit (c.a x).toNat))) ∧
  2 ^ fclassBit 0x80000001 = 4 ∧
  (∀ (c : Ctx) (x : Fibre) (v fl : Word), c.op.long = false → (c.putD x v fl).fpstat = x.fpstat ||| fl) ∧
  (∀ (c : Ctx) (x : Fibre) (v fl : Word), c.op.long = true → (c.putD x v fl).regs = x.regs ∧ (c.putD x v fl).fpstat = x.fpstat ∧
    (c.putD x v fl).pend = x.pend ++ [{ dst := [c.w.d.n.toNat], vals := [v], flags := fl, fp := c.op.floatChapter }])

/-- The packed 16-bit instructions (R327 to R329) complete element by element; HDOT2 rounds once in FP32; HCMP2 writes bits K and
K + 1 of D.
The conversions complete: CVTF, I2F and F2I (R330, R331), IXT (R332), PK8 and UPK8 (R333, R334), DQBLK (R336), SRSEED (R342), TXST (19
R403). Cases of the rules: HDOT2 of finite terms rounds their exact sum once, 1 + 2^-24 + 2^-24 being 1 + 2^-23, and +Inf with -Inf is invalid
beside a NaN too (R328); CVTF of a NaN is the canonical NaN, invalid if it signals, and of an infinity to E4M3 a NaN or the saturated value
(05 R141); I2F rounds once; F2I stays within its format's bounds (05 R142); R334's PK8 example, saturation to INT8, and what UPK8 makes of
codes; DQBLK's example, its NaN scale and its SAT (R336). -/
def Obligations.PackedAndConversionResults : Prop :=
  (∀ (c : Ctx) (x : Fibre) (n k l : Bool) (m i j : Nat) (e f g : Int),
    fp32.decodeFtz x.ftz (c.c4 x).toNat = .num n m e →
    ((halfFmt c.w.mod).decodeFtz x.ftz (half 0 (c.a x))).mul ((halfFmt c.w.mod).decodeFtz x.ftz (half 0 (c.b x))) = (.num k i f, false) →
    ((halfFmt c.w.mod).decodeFtz x.ftz (half 1 (c.a x))).mul ((halfFmt c.w.mod).decodeFtz x.ftz (half 1 (c.b x))) = (.num l j g, false) →
    m ≠ 0 → i ≠ 0 → j ≠ 0 →
    let q := min 0 (min e (min f g))
    let units := fun (neg : Bool) (a : Nat) (b : Int) => (if neg then -1 else 1 : Int) * (a * 2 ^ (b - q).toNat : Nat)
    let sum := units n m e + units k i f + units l j g
    sum ≠ 0 → fibreHdot2 c x = c.putR x (fp32.round (c.arith x) (sum < 0) sum.natAbs q)) ∧
  (∀ p ∈ [((0x0C000C00, 0x0C000C00, 0x3F800000), (0x3F800001, 0)), ((0x7C007C00, 0xBC003C00, 0x7FC00000), (0x7FC00000, flagNV))],
    ∀ (c : Ctx) (x : Fibre), c.w.mod = 0 → x.ftz = false → (c.a x, c.b x, c.c4 x) = p.1 → fibreHdot2 c x = c.putD x p.2.1 p.2.2) ∧
  (∀ p ∈ [((0x00, 0x7F800001), (0x7E00, flagNV)), ((0x00, 0x7FC00000), (0x7E00, 0)), ((0x40, 0x7D00), (0x7FC00000, flagNV)),
      ((0x20, 0x7F800000), (0x7F, 0)), ((0x28, 0xFF800000), (0xFE, flagQC)), ((0x20, 0x43FA0000), (0x7F, flagOF ||| flagNX))],
    ∀ (c : Ctx) (x : Fibre), (c.w.mod, c.a x) = p.1 → fibreCvtf c x = c.putD x p.2.1 p.2.2) ∧
  (∀ p ∈ [((0x00, 0xFFFFFFFF), (0x4F800000, flagNX)), ((0x08, 0xFFFFFFFF), (0xBF800000, 0)), ((0x01, 0xFFFFFFFF), (0x4F7FFFFF, flagNX)),
      ((0x18, 0x80000000), (0xFC00, flagOF ||| flagNX)), ((0x20, 0), (0, 0))],
    ∀ (c : Ctx) (x : Fibre), (c.w.mod, c.a x) = p.1 → fibreI2f c x = c.putD x p.2.1 p.2.2) ∧
  (∀ p ∈ [((0x08, 0x4F000000), (0x7FFFFFFF, flagNV ||| flagQC)), ((0x00, 0x4F000000), (0x80000000, 0)), ((0x00, 0xBF800000), (0, flagNV ||| flagQC)),
      ((0x08, 0xFF800000), (0x80000000, flagNV ||| flagQC)), ((0x08, 0x7FC00000), (0, flagNV)), ((0x08, 0x3FC00000), (2, flagNX)),
      ((0x09, 0xBFC00000), (0xFFFFFFFF, flagNX))],
    ∀ (c : Ctx) (x : Fibre), (c.w.mod, c.a x) = p.1 → fibreF2i c x = c.putD x p.2.1 p.2.2) ∧
  (∀ (c : Ctx) (x : Fibre), ∃ (r : Int) (fl : Word), fibreF2i c x = c.putSr x true ((r % 2 ^ 32).toNat, fl) ∧
    (if modBit c.w.mod 3 then -(2 ^ 31) ≤ r ∧ r < 2 ^ 31 else 0 ≤ r ∧ r < 2 ^ 32)) ∧
  (∀ p ∈ [((0x00, [0x3F800000, 0x43FA0000, 0x80000000, 0x7FC00000]), (0x7F807F38, flagOF ||| flagNX)),
      ((0x08, [0x3F800000, 0x43FA0000, 0x80000000, 0x7FC00000]), (0x7F807E38, flagOF ||| flagNX ||| flagQC)),
      ((0x20, [0x43480000, 0xC3480000, 0x7FC00000, 0x3FC00000]), (0x0200807F, flagNV ||| flagQC ||| flagNX))],
    ∀ (c : Ctx) (x : Fibre), (c.w.mod, x.block c.w.a.n.toNat 4) = p.1 → fibrePk8 c x = c.putD x p.2.1 p.2.2) ∧
  (∀ p ∈ [((0x00, 0x7F807F38, 0), 0x7FC000003F800000), ((0x00, 0x7F807F38, 1), 0x7FC0000080000000), ((0x20, 0x0000FF80, 0), 0xBF800000C3000000)],
    ∀ (c : Ctx) (x : Fibre), (c.w.mod, c.a x, c.b x) = p.1 → fibreUpk8 c x = c.putD64 x p.2 0) ∧
  (∀ p ∈ [((0x00, 0x40, 0x80), (0x40800000, 0)), ((0x00, 0x40, 0xFF), (0x7FC00000, 0)), ((0x00, 0x7F, 0x7F), (0x7FC00000, 0)),
      ((0x20, 0x7F, 0xFE), (0x7F800000, flagOF ||| flagNX)), ((0x28, 0x80, 0xFE), (0xFF7FFFFF, flagOF ||| flagNX ||| flagQC))],
    ∀ (c : Ctx) (x : Fibre), (c.w.mod, c.a x, c.b x) = p.1 → fibreDqblk c x = c.putD x p.2.1 p.2.2) ∧
  (∀ p ∈ [(Op.hadd2, Fmt.add), (Op.hsub2, Fmt.sub), (Op.hmul2, Fmt.mul), (Op.hmin2, fun t r => t.minmax r false), (Op.hmax2, fun t r => t.minmax r true)],
    LaneRule p.1 (fun c x =>
      let e := fun (k : Nat) => p.2 (halfFmt c.w.mod) (c.arith x) (half k (c.a x)) (half k (c.b x))
      c.putR x ((e 0).1 + 65536 * (e 1).1, (e 0).2 ||| (e 1).2))) ∧
  LaneRule .hfma2 (fun c x =>
    let e := fun (k : Nat) => (halfFmt c.w.mod).fma (c.arith x) (half k (c.a x)) (half k (c.b x)) (half k (c.c4 x))
    c.putR x ((e 0).1 + 65536 * (e 1).1, (e 0).2 ||| (e 1).2)) ∧
  (∀ p ∈ [(Op.hexp2, Fmt.exp2), (Op.htanh2, Fmt.tanh), (Op.hrcp2, Fmt.rcp), (Op.hrsq2, Fmt.rsq)], LaneRule p.1 (fun c x =>
    let e := fun (k : Nat) => p.2 (halfFmt c.w.mod) (c.func x) (half k (c.a x))
    c.putR x ((e 0).1 + 65536 * (e 1).1, (e 0).2 ||| (e 1).2))) ∧
  LaneRule .hdot2 fibreHdot2 ∧
  LaneRule .hcmp2 (fun c x =>
    let r := fun (k : Nat) => (halfFmt c.w.mod).compare x.ftz (modBit c.w.mod 3) (modField c.w.mod 0 3) (half k (c.a x)) (half k (c.b x))
    let k := c.w.c.n.toNat
    c.putD x (setBit (setBit (x.reg c.w.d.n.toNat) k (r 0).1) (k + 1) (r 1).1) ((r 0).2 ||| (r 1).2)) ∧
  LaneRule .cvtf fibreCvtf ∧ LaneRule .i2f fibreI2f ∧ LaneRule .f2i fibreF2i ∧
  LaneRule .ixt (fun c x =>
    let n := 8 * 2 ^ modField c.w.mod 0 2
    let v : Nat := (c.a x).toNat % 2 ^ n
    let e : Int := if modBit c.w.mod 2 && 2 ^ (n - 1) ≤ v then Int.ofNat v - 2 ^ n else Int.ofNat v
    c.putW x (modBit c.w.mod 3) (Int.emod e (2 ^ 64)).toNat) ∧
  LaneRule .pk8 fibrePk8 ∧ LaneRule .upk8 fibreUpk8 ∧ LaneRule .dqblk fibreDqblk ∧
  LaneRule .srseed (fun c x => { x with srSeed := c.a64 x, srCtr := 0 }) ∧
  LaneRule .txst (fun c x => c.putD x x.txst)

/-! ### Loads and stores of device memory (17) -/

/-- LD and RLD (17 R346) in a wave of one fibre complete with the bytes of the line, extended as SZ says (R345): from the L1 where it
holds them; from the home slice into an L1 with room; from the home slice alone under `.nol1` and for RLD.
The model's choices it rests on: the L1's victim (log 10), what the L2 keeps (log 12), the walk inside the access (log 13), the value taken
at issue (log 16), bytes never written read 0 (log 5). -/
def Obligations.LoadResults : Prop :=
  (∀ e l, OneRule .ld
    (fun c s x => Plain s x ∧ Resident s c (c.gaddr x) (szBytes c.w.mod) false e ∧ modField c.w.mod 6 2 ≠ 3
      ∧ s.l1Line? c.core (e.line (c.gaddr x)) = some l ∧ SoundL1 s (e.line (c.gaddr x)) l
      ∧ l.valid &&& byteMask (e.at_ (c.gaddr x) % 64) (szBytes c.w.mod) = byteMask (e.at_ (c.gaddr x) % 64) (szBytes c.w.mod))
    (fun c _ x => c.putLoad x (lineBytes l.data (e.at_ (c.gaddr x) % 64) (szBytes c.w.mod)))
    (fun c s x => s.withL1 c.core { l with user := (s.whoOf c x).user, hint := (s.whoOf c x).hint })) ∧
  (∀ e, OneRule .ld
    (fun c s x => Plain s x ∧ Resident s c (c.gaddr x) (szBytes c.w.mod) false e ∧ modField c.w.mod 6 2 ≠ 3
      ∧ s.l1Line? c.core (e.line (c.gaddr x)) = none ∧ AtHome s x.id (e.line (c.gaddr x))
      ∧ (s.core (s.l1Core c.core (e.line (c.gaddr x)))).l1.length < l1Lines
      ∧ ∀ v ∈ (s.core (s.l1Core c.core (e.line (c.gaddr x)))).victims, v.line ≠ e.line (c.gaddr x))
    (fun c s x => c.putLoad x (lineBytes (s.mem.l2Fill (e.line (c.gaddr x))).1.data (e.at_ (c.gaddr x) % 64) (szBytes c.w.mod)))
    (fun c s x => (s.withMem (s.mem.l2Fill (e.line (c.gaddr x))).2).setCore (s.l1Core c.core (e.line (c.gaddr x)))
      (fun k => { k with l1 := k.l1 ++ [{ line := e.line (c.gaddr x), data := (s.mem.l2Fill (e.line (c.gaddr x))).1.data
                                          valid := BitVec.allOnes 64, dirty := 0, user := (s.whoOf c x).user, hint := (s.whoOf c x).hint }] }))) ∧
  (∀ e, ∀ p ∈ [(Op.ld, fun (m : Byte) => szBytes m), (Op.rld, fun _ => 8)], OneRule p.1
    (fun c s x => Plain s x ∧ Resident s c (c.gaddr x) (p.2 c.w.mod) false e ∧ (p.1 = .ld → modField c.w.mod 6 2 = 3)
      ∧ s.l1Line? c.core (e.line (c.gaddr x)) = none ∧ AtHome s x.id (e.line (c.gaddr x)))
    (fun c s x => c.putLoad x (lineBytes (s.mem.l2Fill (e.line (c.gaddr x))).1.data (e.at_ (c.gaddr x) % 64) (p.2 c.w.mod)))
    (fun c s x => s.withMem (s.mem.l2Fill (e.line (c.gaddr x))).2))

/-- LDA (17 R346; 04 R104) completes with its value and then acquires: at a scope that reaches beyond the core it reads at the home
slice and the core's L1s keep only their dirty bytes; at a narrower one it reads through the L1 as LD does. PREF (17 R349) of a line
that the L1 holds changes no value.
The model's choices it rests on: log 12, 13, 16 as for loads, and that an acquire keeps dirty bytes (log 71). -/
def Obligations.AcquireResults : Prop :=
  (∀ e, OneRule .lda
    (fun c s x => Plain s x ∧ Resident s c (c.gaddr x) (szBytes c.w.mod) false e ∧ s.wide (s.whoOf c x) (memScope c.w.mod) = true
      ∧ (s.launch? c.launch).bind Launch.span = none
      ∧ s.l1Line? c.core (e.line (c.gaddr x)) = none ∧ AtHome s x.id (e.line (c.gaddr x)))
    (fun c s x => c.putLoad x (lineBytes (s.mem.l2Fill (e.line (c.gaddr x))).1.data (e.at_ (c.gaddr x) % 64) (szBytes c.w.mod)))
    (fun c s x => (s.withMem (s.mem.l2Fill (e.line (c.gaddr x))).2).acquired c.core)) ∧
  (∀ e l, OneRule .lda
    (fun c s x => Plain s x ∧ Resident s c (c.gaddr x) (szBytes c.w.mod) false e ∧ s.wide (s.whoOf c x) (memScope c.w.mod) = false
      ∧ (s.launch? c.launch).bind Launch.span = none ∧ s.l1Line? c.core (e.line (c.gaddr x)) = some l ∧ SoundL1 s (e.line (c.gaddr x)) l
      ∧ l.valid &&& byteMask (e.at_ (c.gaddr x) % 64) (szBytes c.w.mod) = byteMask (e.at_ (c.gaddr x) % 64) (szBytes c.w.mod))
    (fun c _ x => c.putLoad x (lineBytes l.data (e.at_ (c.gaddr x) % 64) (szBytes c.w.mod)))
    (fun c s x => s.withL1 c.core { l with user := (s.whoOf c x).user, hint := (s.whoOf c x).hint })) ∧
  (∀ e l, OneRule .pref
    (fun c s x => Resident s c (c.gaddr x) 1 false e ∧ modField c.w.mod 6 2 = 0 ∧ s.l1Line? c.core (e.line (c.gaddr x)) = some l
      ∧ SoundL1 s (e.line (c.gaddr x)) l ∧ l.valid = BitVec.allOnes 64)
    (fun _ _ x => x) (fun c s x => s.withL1 c.core { l with user := (s.whoOf c x).user, hint := (s.whoOf c x).hint }))

/-- ST (17 R346; 03 R86) completes: the page is granted, and the L1 holds the bytes as dirty, or under `.nol1` the home slice
does. STL (04 R104) with nothing of the fibre's unacknowledged, and no dirty byte to write back before it, completes at the home slice
at a scope that reaches beyond the core. Every other byte reads as before: only these bytes of the one line are merged.
The model's choices it rests on: log 10, 12, 13 as for loads. -/
def Obligations.StoreResults : Prop :=
  (∀ e l, OneRule .st
    (fun c s x => Plain s x ∧ Resident s c (c.gaddr x) (szBytes c.w.mod) true e ∧ modField c.w.mod 6 2 ≠ 3
      ∧ s.l1Line? c.core (e.line (c.gaddr x)) = some l)
    (fun _ _ x => x)
    (fun c s x =>
      let m := byteMask (e.at_ (c.gaddr x) % 64) (szBytes c.w.mod)
      (s.granted e (c.gaddr x)).withL1 c.core { l with
        data := mergeLine l.data (lineOf (e.at_ (c.gaddr x) % 64) (szBytes c.w.mod) (c.storeVal x c.w.b)) m
        valid := l.valid ||| m, dirty := l.dirty ||| m, user := (s.whoOf c x).user, hint := (s.whoOf c x).hint
        poison := l.poison && m != BitVec.allOnes 64 })) ∧
  (∀ e, OneRule .st
    (fun c s x => Plain s x ∧ Resident s c (c.gaddr x) (szBytes c.w.mod) true e ∧ modField c.w.mod 6 2 = 3
      ∧ s.l1Line? c.core (e.line (c.gaddr x)) = none ∧ AtHome s x.id (e.line (c.gaddr x)))
    (fun _ _ x => x)
    (fun c s x => s.withMem ((s.granted e (c.gaddr x)).mem.l2Write (e.line (c.gaddr x))
      (byteMask (e.at_ (c.gaddr x) % 64) (szBytes c.w.mod)) (lineOf (e.at_ (c.gaddr x) % 64) (szBytes c.w.mod) (c.storeVal x c.w.b))))) ∧
  (∀ e, OneRule .stl
    (fun c s x => Plain s x ∧ Resident s c (c.gaddr x) (szBytes c.w.mod) true e ∧ s.wide (s.whoOf c x) (memScope c.w.mod) = true
      ∧ (s.launch? c.launch).bind Launch.span = none ∧ x.dues = [] ∧ (∀ r ∈ s.fwds, r.posted = false ∨ r.fibre ≠ x.id) ∧ CleanL1 s c.core
      ∧ s.l1Line? c.core (e.line (c.gaddr x)) = none ∧ AtHome s x.id (e.line (c.gaddr x)))
    (fun _ _ x => x)
    (fun c s x => s.withMem (((s.granted e (c.gaddr x)).granted e (c.gaddr x)).mem.l2Write (e.line (c.gaddr x))
      (byteMask (e.at_ (c.gaddr x) % 64) (szBytes c.w.mod)) (lineOf (e.at_ (c.gaddr x) % 64) (szBytes c.w.mod) (c.storeVal x c.w.b))))) ∧
  (∀ (old : BitVec 512) (k n v j : Nat), k + n ≤ 64 → j < 64 →
    lineBytes (mergeLine old (lineOf k n v) (byteMask k n)) j 1 = if k ≤ j ∧ j < k + n then v / 2 ^ (8 * (j - k)) % 256 else lineBytes old j 1)

/-! ### Scratchpad and constants (17 R348) -/

/-- LDS, LDFE, LDX and LDC complete with the bytes they name; STS, STFE and STX with those bytes stored in the one team's scratchpad,
STFE's granule full, an LDFE of a full granule emptied under `.clr` (03 R71 to R78). Every other byte reads as before.
The scratchpad atomics complete: the location takes what the operation writes over the old value, and ATOMS and CASS deliver the
old value.
That the value is taken at issue and pends from then on is log 16; that an LDFE that waits tries again, log 9. -/
def Obligations.ScratchpadResults : Prop :=
  (∀ t, OneRule .lds (fun c s x => OwnBytes s x t (c.saddr x) (szBytes c.w.mod))
    (fun c _ x => c.putLoad x (t.sp.getN (c.saddr x) (szBytes c.w.mod))) (fun _ s _ => s)) ∧
  (∀ t, OneRule .sts (fun c s x => OwnBytes s x t (c.saddr x) (szBytes c.w.mod)) (fun _ _ x => x)
    (fun c s x => s.setTeam { t with sp := t.sp.setN (c.saddr x) (szBytes c.w.mod) (c.storeVal x c.w.b) })) ∧
  (∀ t, OneRule .ldfe (fun c s x => OwnBytes s x t (c.saddr x) (szBytes c.w.mod) ∧ t.isFull (c.saddr x) = true ∧ c.det = false)
    (fun c _ x => c.putLoad x (t.sp.getN (c.saddr x) (szBytes c.w.mod)))
    (fun c s x => if modBit c.w.mod 6 then s.setTeam (t.setFull (c.saddr x) false) else s)) ∧
  (∀ t, OneRule .stfe (fun c s x => OwnBytes s x t (c.saddr x) (szBytes c.w.mod)) (fun _ _ x => x)
    (fun c s x => s.setTeam (({ t with sp := t.sp.setN (c.saddr x) (szBytes c.w.mod) (c.storeVal x c.w.b) } : Team).setFull (c.saddr x) true))) ∧
  (∀ t u, OneRule .ldx (fun c s x => SiblingBytes s x t u c.w.b.n.toNat (c.saddr x) (szBytes c.w.mod) ∧ c.served x = false)
    (fun c _ x => c.putLoad x (u.sp.getN (c.saddr x) (szBytes c.w.mod))) (fun _ s _ => s)) ∧
  (∀ t u, OneRule .stx (fun c s x => SiblingBytes s x t u c.w.d.n.toNat (c.saddr x) (szBytes c.w.mod) ∧ c.served x = false) (fun _ _ x => x)
    (fun c s x => s.setTeam { u with sp := u.sp.setN (c.saddr x) (szBytes c.w.mod) (c.storeVal x c.w.b) })) ∧
  OneRule .ldc (fun c _ x => c.saddr x % szBytes c.w.mod = 0 ∧ c.saddr x < 65536)
    (fun c s x => c.putLoad x (s.constN c.launch (c.saddr x) (szBytes c.w.mod))) (fun _ s _ => s) ∧
  (∀ (m : Memory) (a n v : Nat), m.wf → (m.setN a n v).wf ∧ (m.setN a n v).getN a n = v % 2 ^ (8 * n) ∧
    ∀ b, (b < a ∨ a + n ≤ b) → (m.setN a n v).get b = m.get b) ∧
  (∀ p ∈ [(Op.atoms, Ctx.intOp, true), (Op.freds, Ctx.fpOp, false), (Op.cass, Ctx.casOp, true)], ∀ t,
    OneRule p.1 (fun c s x => OwnBytes s x t (c.a x).toNat (p.2.1 c x).bytes)
      (fun c _ x => if p.2.2 then c.putW x ((p.2.1 c x).bytes == 8) (t.sp.getN (c.a x).toNat (p.2.1 c x).bytes) else x)
      (fun c s x => match (p.2.1 c x).new (t.sp.getN (c.a x).toNat (p.2.1 c x).bytes) with
        | some v => s.setTeam { t with sp := t.sp.setN (c.a x).toNat (p.2.1 c x).bytes v }
        | none => s))

/-! ### Atomics (17 R366 to R371) -/

/-- The global atomics complete at the home slice (04 R107): one read and one write of the location's bytes in the line, after the page
is granted; ATOM, CAS and FATOM deliver the old value.
What the atomics compute (17 R367 to R369).
The model's choices it rests on: log 12, 13, 16 as for loads. -/
def Obligations.AtomicResults : Prop :=
  (∀ p ∈ [(Op.atom, Ctx.intOp, true), (Op.red, Ctx.intOp, false), (Op.cas, Ctx.casOp, true), (Op.fred, Ctx.fpOp, false),
      (Op.fatom, Ctx.fpOp, true)], ∀ e,
    let n := fun (c : Ctx) x => (p.2.1 c x).bytes
    let line := fun (c : Ctx) x => e.line (c.a64 x)
    let k := fun (c : Ctx) x => e.at_ (c.a64 x) % 64
    let old := fun (c : Ctx) (s : State) x => lineBytes ((s.granted e (c.a64 x)).mem.l2Fill (line c x)).1.data (k c x) (n c x)
    OneRule p.1
      (fun c s x => Plain s x ∧ Resident s c (c.a64 x) (n c x) true e ∧ s.l1Line? c.core (line c x) = none ∧ AtHome s x.id (line c x))
      (fun c s x => if p.2.2 then c.putW x (n c x == 8) (old c s x) else x)
      (fun c s x =>
        let m := ((s.granted e (c.a64 x)).mem.l2Fill (line c x)).2
        s.withMem (match (p.2.1 c x).new (old c s x) with
          | some v => m.l2Write (line c x) (byteMask (k c x) (n c x)) (lineOf (k c x) (n c x) v)
          | none => m))) ∧
  (∀ ty old b, intAtom 0 ty old b = (old + b) % 2 ^ (if ty ≥ 2 then 64 else 32)) ∧
  (∀ ty old b, intAtom 3 ty old b = old &&& b ∧ intAtom 4 ty old b = old ||| b ∧ intAtom 5 ty old b = old ^^^ b ∧ intAtom 6 ty old b = b) ∧
  (∀ old b, old < 2 ^ 32 → b < 2 ^ 32 → intAtom 1 0 old b = min old b ∧ intAtom 2 0 old b = max old b) ∧
  (∀ (old b : Word), ((BitVec.ofNat 32 (intAtom 1 1 old.toNat b.toNat)).toInt = min old.toInt b.toInt) ∧
    ((BitVec.ofNat 32 (intAtom 2 1 old.toNat b.toNat)).toInt = max old.toInt b.toInt)) ∧
  (∀ ty cmp new old, (EntryOp.cas ty cmp new).new old = if old = cmp.toNat then some new.toNat else none)

/-- The ordered atomics complete with one entry of the fibre's round, stamped with the key of 07 R175, and the fibre's next
sequence number; a destination stays pending until the round closes. AFLUSH of a round that has closed completes with an acquire.
That the destination pends until the close whatever happens is log 26; the order of an ordered atomic's checks, log 89. -/
def Obligations.OrderedResults : Prop :=
  (∀ p ∈ [(Op.atomo, Ctx.intOp, true), (Op.caso, Ctx.casOp, true), (Op.fredo, Ctx.fpOp, false), (Op.fatomo, Ctx.fpOp, true)], ∀ e l tm,
    OneRule p.1
      (fun c s x => x.held = [] ∧ Resident s c (c.a64 x) (p.2.1 c x).bytes true e ∧ s.l1Line? c.core (e.line (c.a64 x)) = none
        ∧ s.launch? c.launch = some l ∧ s.teamOf? c.wv.crew = some tm ∧ x.seq < 2 ^ 20
        ∧ s.drainerHolds l.id (l.drainerOf (match c.wv.crew with | .team _ t _ => t | .item .. => 0)) + 1 ≤ 256 + l.spill)
      (fun c s x =>
        let d := c.w.d.n.toNat
        let pend : List Pend := if p.2.2 then
          [{ dst := if (p.2.1 c x).bytes == 8 then [d, d + 1] else [d], vals := [], ordered := some s.nextId, own := x.inTrap.isNone }] else []
        { x with seq := x.seq + 1, pend := x.pend ++ pend })
      (fun c s x =>
        let team := match x.id.crew with | .team _ t _ => t | .item .. => 0
        { s.granted e (c.a64 x) with
          entries := s.entries ++ [{ id := s.nextId, launch := l.id, round := x.round, drainer := l.drainerOf team, key := entryKey x x.seq
                                     pa := e.line (c.a64 x) * 64 + e.at_ (c.a64 x) % 64, va := c.a64 x, op := p.2.1 c x, fibre := x.id
                                     dest := p.2.2, pc := c.pc, leaf := e.leaf }] })) ∧
  OneRule .aflush
    (fun c s x => ((x.endRound.phase.map BitVec.toNat).getD 0) < ((s.launch? c.launch).map Launch.closed).getD 0)
    (fun _ _ x => { x.endRound with phase := none }) (fun c s _ => s.acquired c.core)

/-! ### Fences, caches, transactions (19 R400 to R404; 06) -/

/-- FENCE with nothing to wait for or write back completes: its acquire half, at a scope beyond the core, leaves the L1s their dirty
bytes only. DFENCE, CWB and CINV of no byte do nothing; CWB of a page with clean L1s does nothing, and CINV drops the lines it names
(17 R350). ACQP acquires on both sides (R351).
That an acquire keeps dirty bytes is log 71. -/
def Obligations.SynchronisationResults : Prop :=
  OneRule .fence (fun c s x => Quiet s c.core x ∧ NoSpan s c) (fun _ _ x => x)
    (fun c s x => if modField c.w.mod 3 2 ≠ 2 ∧ s.wide (s.whoOf c x) (modField c.w.mod 0 3) = true then s.acquired c.core else s) ∧
  (∀ op ∈ [Op.cwb, Op.cinv], OneRule op (fun c _ x => (c.b x).toNat = 0) (fun _ _ x => x) (fun _ s _ => s)) ∧
  OneRule .dfence (fun c s x => (c.b x).toNat = 0 ∧ NoSpan s c) (fun _ _ x => x) (fun _ s _ => s) ∧
  (∀ e, ∀ p ∈ [(Op.cwb, false), (Op.cinv, true)], OneRule p.1
    (fun c s x => Resident s c (c.a64 x) 1 false e ∧ CleanL1 s c.core ∧ (c.b x).toNat ≠ 0
      ∧ (c.a64 x).toNat / 32768 = ((c.a64 x).toNat + (c.b x).toNat - 1) / 32768)
    (fun _ _ x => x)
    (fun c s x =>
      let lo := e.line (c.a64 x)
      let hi := lineNo (e.at_ (c.a64 x) + ((c.b x).toNat - 1)) ((c.a64 x).getLsbD 50)
      if p.2 then (s.l1Cores c.core).foldl (fun s k => s.setCore k (fun r => { r with l1 := r.l1.filter (fun l => !(lo ≤ l.line && l.line ≤ hi)) })) s
      else s)) ∧
  OneRule .acqp (fun c s x => (c.a x).toNat < ((s.launch? c.launch).map Launch.nteams).getD 0 ∧ s.team? c.launch (c.a x).toNat = none)
    (fun _ _ x => x) (fun c s _ => s.acquired c.core) ∧
  (∀ t, OneRule .acqp (fun c s x => (c.a x).toNat < ((s.launch? c.launch).map Launch.nteams).getD 0 ∧ s.team? c.launch (c.a x).toNat = some t
      ∧ CleanL1 s t.core)
    (fun _ _ x => x) (fun c s _ => (s.acquired t.core).acquired c.core))

/-- Transactions (06 R151 to R163) in a wave of one fibre complete: TXB and TXO open one and acquire at LODE scope; TXE and TXOE, with
nothing to wait for and a first phase that refuses nothing, write the logged bytes, free the fibre's locks and token, and TXOE advances
OCUR; TXA goes to the abort target with TX.EXPLICIT. LDNT reads at the home slice and logs nothing.
The model's choices it rests on: a commit is one step (log 17), TXO acquires (log 86), how attempts are counted (log 62), an ordered
attempt's defer count (log 101), and log 12, 13, 16 for LDNT. -/
def Obligations.TransactionResults : Prop :=
  OneRule .txb (fun _ _ x => x.needsToken = false)
    (fun c _ x => x.openTx { byVal := modField c.w.mod 0 1 == 0, iter := none, irrev := false, target := c.pc + c.w.imm, opener := c.pc })
    (fun c s _ => s.acquired c.core) ∧
  (∀ t, OneRule .txo (fun c s x => x.needsToken = false ∧ s.teamOf? c.wv.crew = some t ∧ ((c.a x).setWidth 24 - t.ocur).toNat < 2 ^ 23
      ∧ (s.openIters t.launch t.id).contains ((c.a x).setWidth 24) = false)
    (fun c _ x => x.openTx { byVal := true, iter := some ((c.a x).setWidth 24), irrev := false, target := c.pc + c.w.imm, opener := c.pc })
    (fun c s _ => s.acquired c.core)) ∧
  (∀ t, OneRule .txe (fun c s x => x.tx = some t ∧ t.iter = none ∧ Quiet s c.core x ∧ (∀ l ∈ t.lines, s.mem.heldAt (linePa l) = false)
      ∧ s.firstPhase x.id t = none ∧ ∀ g ∈ s.fibres, g.id ≠ x.id → g.id.crew = c.wv.crew → g.home = c.wv.home → g.txDefer = 0)
    (fun _ _ x => x.committed) (fun c s x => (s.secondPhase c.core t).freeTx x.id)) ∧
  (∀ t tm, OneRule .txoe (fun c s x => x.tx = some t ∧ t.iter = some tm.ocur ∧ x.txSettled = none ∧ s.teamOf? c.wv.crew = some tm
      ∧ Quiet s c.core x ∧ (∀ l ∈ t.lines, s.mem.heldAt (linePa l) = false) ∧ s.firstPhase x.id t = none
      ∧ ∀ g ∈ s.fibres, g.tx = none ∨ g.tx = some t)
    (fun _ _ x => { x.committed with txSettled := none, txFault := false })
    (fun c s x => ((s.secondPhase c.core t).freeTx x.id).setTeam { tm with ocur := tm.ocur + 1 })) ∧
  OneRule .txa (fun _ _ x => x.tx.isSome) (fun _ _ x => x.aborted txExplicit) (fun _ s x => s.freeTx x.id) ∧
  (∀ e, OneRule .ldnt
    (fun c s x => x.held = [] ∧ Unowned s ∧ Resident s c (c.gaddr x) (szBytes c.w.mod) false e
      ∧ s.l1Line? c.core (e.line (c.gaddr x)) = none ∧ AtHome s x.id (e.line (c.gaddr x)))
    (fun c s x => c.putLoad x (lineBytes (s.mem.l2Fill (e.line (c.gaddr x))).1.data (e.at_ (c.gaddr x) % 64) (szBytes c.w.mod)))
    (fun c s x => s.withMem (s.mem.l2Fill (e.line (c.gaddr x))).2))

/-! ### Checks before the effect, and the trap runtime (12 R243, R245; 28 R478; 19 R409, R413) -/

/-- An instruction that fails a check of steps 4 to 7 of 12 R245 has no effect but the trap: every fibre of the wave, active or
not, stands in the runtime with the first failing cause and TRAPPC at the instruction. The same of what is no instruction: an unassigned
opcode (INSN.ILLEGAL), and a fetch from an odd address or outside the code (INSN.PCRANGE). A read of a register that an uncorrectable
error has marked traps with SYS.UNCORR (32 R517); where it is found is log 96. -/
def Obligations.FailedChecksTrap : Prop :=
  (∀ (op : Op) (w : Fields) (s : State) (wv : Wave) (fs : List Fibre) (f : Fibre) (e : Cause) (l : Launch) (o : Object),
    s.cur.bind s.wave? = some wv → s.waveFibres wv = f :: fs → s.duesAt op wv.crew.launch (f :: fs) f.pc = [] → wv.reissue = false →
    s.Calm → Trappable s wv (f :: fs) l o → decodeCheck s op w f = some e →
    Ends (exec (op.instr w) s) s (f :: fs) (fun g => g.enter l o.ringed wv.meet f.pc { cause := e } .atPc) s) ∧
  (∀ (op : Op) (w : Fields) (s : State) (f : Fibre), op.reservedSlot w = none → op.privileged = true → s.priv f = false →
    decodeCheck s op w f = some (privC 0)) ∧
  (∀ (s : State) (wv : Wave) (fs : List Fibre) (f : Fibre) (l : Launch) (o : Object) (b : Byte) (w : Fields),
    s.cur.bind s.wave? = some wv → s.waveFibres wv = f :: fs → (∀ g ∈ f :: fs, g.dues = []) → wv.reissue = false → s.Calm →
    Trappable s wv (f :: fs) l o →
    Ends (exec (.unassignedOpcode b w) s) s (f :: fs) (fun g => g.enter l o.ringed wv.meet f.pc { cause := insnIllegal } .atPc) s ∧
    Ends (exec .oddOrOutOfCodeFetch s) s (f :: fs) (fun g => g.enter l o.ringed wv.meet f.pc { cause := insnPcRange } .atPc) s) ∧
  (∀ (op : Op) (w : Fields) (s : State) (wv : Wave) (f : Fibre) (l : Launch) (o : Object),
    s.cur.bind s.wave? = some wv → s.waveFibres wv = [f] → s.duesAt op wv.crew.launch [f] f.pc = [] → decodeCheck s op w f = none →
    mustWait op w [f] = false → breach op w f = none → f.active w.guard = true → f.labels = [] → (f.isItem && op.teamOnly) = false →
    f.txSettled = none → f.badRead f op w = true → wv.reissue = false → s.Calm → Trappable s wv [f] l o →
    Ends (exec (op.instr w) s) s [f] (fun g => (g.issued (s.fallOf f.pc)).enter l o.ringed wv.meet f.pc { cause := sysUncorr } .atPc) s)

/-- RGN, MEET, ACQ, SHED, BAR, GBAR and AFLUSH take no guard: any GUARD but 0 raises INSN.GUARD, in every fibre of the wave (12 R243). -/
def Obligations.UnguardedOpcodes : Prop :=
  ∀ op ∈ [Op.rgn, .meet, .acq, .shed, .bar, .gbar, .aflush], ∀ (w : Fields) (s : State) (wv : Wave) (fs : List Fibre) (f : Fibre) (l : Launch)
    (o : Object), s.cur.bind s.wave? = some wv → s.waveFibres wv = f :: fs → s.duesAt op wv.crew.launch (f :: fs) f.pc = [] →
    wv.reissue = false → s.Calm → Trappable s wv (f :: fs) l o → op.reservedSlot w = none → w.guard ≠ 0 →
    Ends (exec (op.instr w) s) s (f :: fs) (fun g => g.enter l o.ringed wv.meet f.pc { cause := insnGuard } .atPc) s

/-- With no active fibre an instruction completes without an effect: every fibre goes on at the fall-through (12 R242). A TXOE that
has settled lanes and waits for the others ends for them there (06 R168): they are not spoken of. -/
def Obligations.GuardedOff : Prop :=
  ∀ (op : Op) (w : Fields) (s : State) (wv : Wave) (fs : List Fibre) (f : Fibre),
    s.cur.bind s.wave? = some wv → s.waveFibres wv = fs → fs.head? = some f → s.duesAt op wv.crew.launch fs f.pc = [] →
    decodeCheck s op w f = none → mustWait op w fs = false → (∀ g ∈ fs, breach op w g = none) → (∀ g ∈ fs, g.active w.guard = false) →
    (op = .txoe → ∀ g ∈ fs, g.txSettled = none) → wv.reissue = false → s.Calm → Ends (exec (op.instr w) s) s fs (Fibre.passed (s.fallOf f.pc)) s

/-- TRAP and BKPT (14 R281) call the runtime in each active fibre: KIND 5, INFO0 the value of A, TRAPPC the instruction. What a fibre
holds in the runtime (28 R478, R479): the handler's PC and object, the trap registers, its bank at 0, its other registers kept. -/
def Obligations.CallsToTheRuntime : Prop :=
  (∀ p ∈ [(Op.trap, 0), (Op.bkpt, 1)], ∀ (w : Fields) (s : State) (wv : Wave) (fs : List Fibre) (f : Fibre) (l : Launch) (o : Object),
    Issues p.1 w s wv fs f → Trappable s wv fs l o →
    let c := issueCtx p.1 w s wv fs f.pc
    Ends (exec (p.1.instr w) s) s fs (fun g => if g.active w.guard then
      (g.issued c.fall).enter l o.ringed wv.meet f.pc { cause := debugC p.2, kind := 5, info0 := c.a (g.issued c.fall) } .atPc
      else g.passed c.fall) s) ∧
  (∀ (f : Fibre) (l : Launch) (b : Bool) (m pc : Word) (d : Due) (r : Resume), causeIsTrans d.cause = false →
    InRuntime f (f.enter l b m pc d r) l d.cause d.kind.toNat pc d.info0) ∧
  (∀ (f : Fibre) (l : Launch) (b : Bool) (m pc : Word) (d : Due) (r : Resume), causeIsTrans d.cause = true → d.kind = 0 →
    (f.enter l b m pc d r).trap.kind = 1)

/-- SVC raises SYS.SVC in each active fibre and passes A as TRAP passes its code; TRAPPC is the fall-through, PC + 12, or PC + 2 after a
mark (19 R409). -/
def Obligations.SystemCall : Prop :=
  ∀ (w : Fields) (s : State) (wv : Wave) (fs : List Fibre) (f : Fibre) (l : Launch) (o : Object),
    Issues .svc w s wv fs f → Trappable s wv fs l o →
    let c := issueCtx .svc w s wv fs f.pc
    (s.ilen = 12 ∨ s.ilen = 2) →
    c.fall = f.pc + BitVec.ofNat 32 s.ilen ∧
    Ends (exec (.svc w) s) s fs (fun g => if g.active w.guard then
      (g.issued c.fall).enter l o.ringed wv.meet c.fall { cause := sysSvc, kind := 5, info0 := c.a (g.issued c.fall) } .atPc
      else g.passed c.fall) s

/-- ERET leaves the runtime: INTRAP is cleared, the fibre stands at TRAPPC in the object it trapped in (19 R413; 28 R478). -/
def Obligations.ReturnFromTrap : Prop :=
  ∀ r, OneRule .eret (fun _ _ x => x.inTrap = some r ∧ r.resume = .atPc) (fun _ _ x => { x.leave r with parked := false }) (fun _ s _ => s) ∧
    ∀ x : Fibre, (x.leave r).inTrap = none ∧ (x.leave r).pc = x.trap.pc ∧ (x.leave r).obj = r.obj ∧ (∀ p ∈ (x.leave r).pend, p.ordered.isSome = true) ∧
      (x.pend = [] → (x.leave r).regs = x.regs)

/-! ### State registers and codebooks (15 R314, R315; 16 R333 to R341; 19 R411, R412) -/

/-- GETS delivers the register of 15 R314 that A names, and CLOCK and RTIME latch their high halves (02 R65); SETS writes FPMODE, FPSTAT,
PIVCLAMP, ISSUEPOL and TXCFG with the bits their tables give.
The privileged registers (19 R411, R412): GETP delivers the register that A names; SETP of TRAPPC and TRAPBASE writes them, of a
read-only one nothing, and of a SLICEHASH stages it while its die's veins are held.
One cycle count per die is log 4; the latches' values before the first GETS, log 24; WDOG of an item fibre, log 51. -/
def Obligations.SpecialRegisters : Prop :=
  (∀ v, OneRule .gets
    (fun c s x => getsWord s x (c.a x).toNat = some v ∧ ((c.a x).toNat = 0x011 → (∀ o ∈ s.tileOps, x.id ∉ o.fibres) ∧ ∀ p ∈ x.pend, p.fp = false))
    (fun c s x =>
      let x := if (c.a x).toNat = 0x00A then { x with clockh := BitVec.ofNat 32 (s.clk.cycles.getD (dieOf c.core) 0 / 2 ^ 32) } else x
      let x := if (c.a x).toNat = 0x00C then { x with rtimeh := BitVec.ofNat 32 (s.rtime / 2 ^ 32) } else x
      c.putD x v) (fun _ s _ => s)) ∧
  OneRule .sets (fun c _ x => (c.a x).toNat = 0x010 ∧ (c.b x).toNat % 8 ≤ 4) (fun c _ x => { x with fpmode := c.b x &&& 0x1F }) (fun _ s _ => s) ∧
  OneRule .sets (fun c _ x => (c.a x).toNat = 0x011) (fun c _ x => { x with fpstat := fpstatClear x.fpstat (c.b x) }) (fun _ s _ => s) ∧
  (∀ t, OneRule .sets (fun c s x => s.teamOf? x.id.crew = some t ∧ (c.a x).toNat = 0x012 ∧ (c.b x).toNat / 2 ^ 23 % 256 ≠ 255)
    (fun _ _ x => x) (fun c s x => s.setTeam { t with pivclamp := c.b x &&& 0x7FFFFFFF })) ∧
  (∀ t, OneRule .sets (fun c s x => s.teamOf? x.id.crew = some t ∧ (c.a x).toNat = 0x013) (fun _ _ x => x)
    (fun c s x => s.setTeam (Team.throttle { t with thresh := (c.b x).setWidth 16, nwave := BitVec.ofNat 7 ((c.b x).toNat / 2 ^ 16)
                                                    polEn := (c.b x).getLsbD 24 }))) ∧
  (∀ t, OneRule .sets (fun c s x => s.teamOf? x.id.crew = some t ∧ (c.a x).toNat = 0x015 ∧ s.orderedOpen t.launch t.id = false) (fun _ _ x => x)
    (fun c s x => s.setTeam { t with ocur := BitVec.ofNat 24 (c.b x).toNat, nobo := (c.b x).getLsbD 24 })) ∧
  (∀ v, OneRule .getp (fun c s x => s.getp x (c.a x).toNat = some v) (fun c _ x => c.putD64 x v) (fun _ s _ => s)) ∧
  OneRule .setp (fun c _ x => (c.a x).toNat = 0x002) (fun c _ x => { x with trap := { x.trap with pc := (c.b64 x).lo } }) (fun _ s _ => s) ∧
  (∀ l, OneRule .setp (fun c s x => (c.a x).toNat = 0x000 ∧ s.launch? c.launch = some l) (fun _ _ x => x)
    (fun c s x => s.setLaunch { l with trapEntry := (c.b64 x).lo, trapObj := (c.b64 x).hi })) ∧
  (∀ i ∈ [0x001, 0x003, 0x004, 0x005, 0x007, 0x008], OneRule .setp (fun c _ x => (c.a x).toNat = i) (fun _ _ x => x) (fun _ s _ => s)) ∧
  (∀ n, n < 16 → OneRule .setp (fun c s x => (c.a x).toNat = 0x010 + n ∧ ∀ v ∈ s.mem.dieVeins (n / 2), v.hash.en = true → v.hold.isSome = true)
    (fun _ _ x => x)
    (fun c s x =>
      let put := fun (v : Vein) => { v with staged := some (SliceHash.ofWord (n % 2 == 0) (c.b64 x)) }
      s.withMem { s.mem with veins := updAt s.mem.veins n put })) ∧
  (∀ n, n < 64 → OneRule .setp (fun c _ x => (c.a x).toNat = 0x100 + n) (fun _ _ x => x)
    (fun c s x => s.setRegion n (fun r => if r.en then r else { r with base := BitVec.ofNat 52 (c.b64 x).toNat })))

/-- PK4, UPK4, CBENC, CBDEC and QBLK complete in a wave of one fibre with the values of 16 R333 to R339, and CBLD loads a codebook slot
from 32 bytes of scratchpad (R337). SPPK completes whenever the mask of every active lane holds exactly N ones (R340), and SPUPK whenever
the positions of every active lane ascend (R341), each with its lane's own values. -/
def Obligations.CodebookResults : Prop :=
  (∀ t, ∀ p ∈ [(Op.pk4, fun (c : Ctx) x => packFrom c x (.ofCode (modField c.w.mod 4 3)) (if Nf.ofCode (modField c.w.mod 4 3) == .cb4 then t.book ((c.b x).toNat % 8) else []) 8),
      (Op.upk4, fun c x => unpackPair c x (.ofCode (modField c.w.mod 4 3)) (if Nf.ofCode (modField c.w.mod 4 3) == .cb4 then t.book ((c.b x).toNat / 16 % 8) else [])
        ((c.b x).toNat % 4)),
      (Op.cbenc, fun c x => c.putD x (BitVec.ofNat 32 (cb4Encode (t.book ((c.b x).toNat % 8)) (bf16.decode ((c.a x).toNat % 2 ^ 16))))),
      (Op.cbdec, fun c x => c.putD x (((t.book ((c.b x).toNat % 8)).getD ((c.a x).toNat % 16) 0).setWidth 32))],
    OneRule p.1 (fun _ s x => s.teamOf? x.id.crew = some t) (fun c _ x => p.2 c x) (fun _ s _ => s)) ∧
  GroupRule .sppk (fun c _ => ∀ x ∈ c.act, ((List.range 16).filter (fun k => (c.b x).getLsbD k)).length = spN c.w.mod)
    (fun c _ x =>
      let m := c.w.mod
      let ps := (List.range 16).filter (fun k => (c.b x).getLsbD k)
      let g := wordsNat (x.block c.w.a.n.toNat (spQ m))
      c.deliver x (regsFrom c.w.d.n.toNat (spK m + 1)) (words (spK m) (packNat (spW m) (ps.map (fun p => g / 2 ^ (spW m * p) % 2 ^ spW m)))
        ++ [BitVec.ofNat 32 (packNat 4 ps)])) (fun _ s => s) ∧
  GroupRule .spupk (fun c _ => ∀ x ∈ c.act,
      ascending ((List.range (spN c.w.mod)).map (fun k => (x.reg (c.w.a.n.toNat + spK c.w.mod)).toNat / 16 ^ k % 16)) = true)
    (fun c _ x =>
      let m := c.w.mod
      let kept := wordsNat (x.block c.w.a.n.toNat (spK m))
      let ps := (List.range (spN m)).map (fun k => (x.reg (c.w.a.n.toNat + spK m)).toNat / 16 ^ k % 16)
      c.deliver x (regsFrom c.w.d.n.toNat (spQ m)) (words (spQ m) ((List.range (spN m)).foldl (fun g k =>
        g + kept / 2 ^ (spW m * k) % 2 ^ spW m * 2 ^ (spW m * ps.getD k 0)) 0))) (fun _ s => s) ∧
  OneRule .qblk (fun _ _ _ => True)
    (fun c _ x =>
      let rc := x.rcode (modField c.w.mod 0 3)
      let r := qblk (.ofCode (modField c.w.mod 4 3)) [(fp32.decode (c.a x).toNat, x.rmode rc true x.lane)]
      (c.putD64 x (BitVec.ofNat 64 (r.1.headD 0 + 2 ^ 32 * r.2.1)) r.2.2).srStep rc true) (fun _ s _ => s) ∧
  (∀ t, WaveRule .cbld
    (fun c s => (c.b c.lead).toNat < 8 ∧ s.teamOf? c.lead.id.crew = some t ∧ (c.a c.lead).toNat % 16 = 0 ∧ (c.a c.lead).toNat + 32 ≤ t.spSize
      ∧ t.bad (c.a c.lead).toNat 32 = false ∧ ∀ o ∈ s.tileOps, o.launch = t.launch → o.team = t.id → bookRead (c.b c.lead).toNat ∉ o.reads)
    (fun c s =>
      let book := (List.range 16).map (fun k => BitVec.ofNat 16 (t.sp.getN ((c.a c.lead).toNat + 2 * k) 2))
      s.setTeam { t with books := t.books.set (c.b c.lead).toNat book }))

/-! ### Waves, teams and items (14) -/

/-- A dictionary mark executes the entry that it names as if it stood at the mark, with the fall-through 2 bytes on (12 R246, R247): an
entry that decodes does what its word does, a bad one traps with INSN.DICTBAD; so a mark of a NOP completes. -/
def Obligations.DictionaryMarks : Prop :=
  (∀ (e : BitVec 2) (x : BitVec 8) (s : State) (d : BitVec 96) (op : Op), s.entryAt (256 * e.toNat + x.toNat) = some d →
    isMarkByte (BitVec.ofNat 8 d.toNat) = false → (Fields.ofNat d.toNat).rsv = 0 → Op.ofCode (d.toNat % 256) = some op →
    exec (.dictionaryMark e x) s = exec (op.instr (Fields.ofNat d.toNat)) { s with ilen := 2 }) ∧
  (∀ (e : BitVec 2) (x : BitVec 8) (s : State), s.entryAt (256 * e.toNat + x.toNat) = none →
    exec (.dictionaryMark e x) s = failIssue insnDictBad s) ∧
  (∀ (e : BitVec 2) (x : BitVec 8) (s : State) (d : BitVec 96) (wv : Wave) (fs : List Fibre) (f : Fibre),
    s.entryAt (256 * e.toNat + x.toNat) = some d → d.toNat % 256 = 0 → (Fields.ofNat d.toNat).rsv = 0 →
    Issues .nop (Fields.ofNat d.toNat) { s with ilen := 2 } wv fs f →
    Ends (exec (.dictionaryMark e x) s) s fs (Fibre.after .nop (Fields.ofNat d.toNat) (f.pc + 2) id) { s with ilen := 2 })

/-- RGN (14 R280) of a wave of one fibre declares the wave's staging region: the registers that imm32 marks from A on. MEET (R283) of a
wave whose whole meet set is itself completes at once. BAR and GBAR (R290) put the wave at its barrier; when the barrier is whole,
BARRIER_RELEASE lets its fibres go on at their fall-through. -/
def Obligations.MeetingPoints : Prop :=
  (∀ (w : Fields) (s : State) (wv : Wave) (f : Fibre), IssuesOne .rgn w s wv f → wv.lanes = lanesOf [f] →
    ∃ t, exec (.rgn w) s = .next t ∧ SameBut s t ∧ t.fibre? f.id = some (f.passed (s.fallOf f.pc)) ∧
      ((t.wave? wv.id).bind Wave.staged).map Prod.snd = if rgnRegs w.a.n.toNat w.imm = [] then none else some (rgnRegs w.a.n.toNat w.imm)) ∧
  (∀ (w : Fields) (s : State) (wv : Wave) (f : Fibre), IssuesOne .meet w s wv f → Alone s wv [f] → wv.meet = wv.lanes →
    ∃ t, exec (.meet w) s = .next t ∧ SameBut s t ∧
      t.fibre? f.id = some { f.issued (s.fallOf f.pc) with labels := if f.labels.head? = some f.pc then f.labels.drop 1 else f.labels } ∧
      (t.wave? wv.id).map Wave.wait = some none) ∧
  (∀ p ∈ [(Op.bar, Wait.bar), (Op.gbar, Wait.gbar)], ∀ (w : Fields) (s : State) (wv : Wave) (f : Fibre), IssuesOne p.1 w s wv f →
    ∃ t, exec (p.1.instr w) s = .next t ∧ SameBut s t ∧ t.fibre? f.id = some f ∧
      ∃ v, t.wave? wv.id = some v ∧ v.wait = some p.2 ∧ v.fall = s.fallOf f.pc) ∧
  (∀ (s : State) (v : Wave) (f : Fibre), s.ev.gangWide = false → s.barReady s.ev.launch s.ev.team = some [v] → s.waveFibres v = [f] →
    ∃ t, exec .barrierRelease s = .next t ∧ t.fibre? f.id = some (f.issued v.fall) ∧ (t.wave? v.id).map Wave.wait = some none) ∧
  (∀ (s : State) (v : Wave) (f : Fibre), s.ev.gangWide = true → s.gbarReady s.ev.launch s.ev.gang = some [v] → s.waveFibres v = [f] →
    (∀ k ∈ s.cores, ∀ l ∈ k.l1, l.dirty = 0) →
    ∃ t, exec .barrierRelease s = .next t ∧ t.fibre? f.id = some (f.issued v.fall) ∧ (t.wave? v.id).map Wave.wait = some none)

/-- FORK (14 R284) creates children in the lowest free slots of the crew, as many as A asks and slots allow: each stands at the target in
the parent's object with v0 = 1, v1 = B and v2 its number, every other register 0; D is how many.
END (14 R285) of a team fibre with no store unacknowledged: the fibre is gone, with its locks and its token (06 R162); the other
fibres lose it from their meet sets only. An item fibre's END is also a release; the fibre is gone. -/
def Obligations.ForkAndEnd : Prop :=
  (∀ (w : Fields) (s : State) (wv : Wave) (f : Fibre), IssuesOne .fork w s wv f →
    let c := soloCtx .fork w s wv f
    let x := f.issued c.fall
    let slots := (((s.launch? c.launch).bind (fun l => s.object? l.obj)).map Object.fibres).getD 0
    let free := (List.range slots).filter (fun i => (s.fibre? ⟨f.id.crew, i⟩).isNone)
    let is := free.take (c.a x).toNat
    codeOk s f.obj (f.pc + w.imm) = true → f.dues = [] → f.held = [] → (∀ r ∈ s.fwds, r.posted = false ∨ r.fibre ≠ f.id) →
    ∃ t, exec (.fork w) s = .next t ∧ SameBut s t ∧
      t.fibre? f.id = some ((c.putD x (BitVec.ofNat 32 is.length)).ended .fork w) ∧
      (∀ k i, is[k]? = some i → t.fibre? ⟨f.id.crew, i⟩ = some
        { id := ⟨f.id.crew, i⟩, pc := f.pc + w.imm, obj := f.obj, round := f.round
          regs := (((List.replicate f.regs.length 0).set 0 1).set 1 (c.b x)).set 2 (BitVec.ofNat 32 k) }) ∧
      ∀ j, j ≠ f.id → (∀ i ∈ is, j ≠ ⟨f.id.crew, i⟩) → t.fibre? j = s.fibre? j) ∧
  (∀ (w : Fields) (s : State) (wv : Wave) (f : Fibre), IssuesOne .endF w s wv f → f.isItem = false → f.dues = [] → f.held = [] →
    (∀ r ∈ s.fwds, r.posted = false ∨ r.fibre ≠ f.id) →
    ∃ t, exec (.endF w) s = .next t ∧ SameBut ((s.freeTx f.id).orphan f) t ∧ t.fibre? f.id = none ∧
      ∀ k, k ≠ f.id → t.fibre? k = (s.leaveMeets f.id).fibre? k) ∧
  (∀ (w : Fields) (s : State) (wv : Wave) (f : Fibre), IssuesOne .endF w s wv f → f.isItem = true →
    Quiet s (s.coreOf wv.crew) f → ∃ t, exec (.endF w) s = .next t ∧ t.fibre? f.id = none)

/-- TRNG declares granules (08 R196; 14 R286); SPAWN and SPAWNT (R287) with room in the core's queue hand over one item of the
declaration and four registers, which the vein stamps with its sequence number, and consume the declaration; SPAWNT writes p = 1, and
with a full queue p = 0 and nothing else. A SPAWN with a full queue spills to the sump, where an item's record has the
layout of 08 R197. QSTAT (R294) reads the four counts.
That a SPAWN that traps consumes the declaration is log 73; the form of an item, log 67. -/
def Obligations.Spawning : Prop :=
  OneRule .trng (fun c _ x => (c.val64 x c.w.d).toNat < 2 ^ 51 ∧ (c.b64 x).toNat < 2 ^ 51
      ∧ (rangeOf (c.val64 x c.w.d) (c.a x).toNat).count ≤ 2 ^ 21 - 1 ∧ (rangeOf (c.b64 x) (c.c4 x).toNat).count ≤ 2 ^ 21 - 1)
    (fun c _ x => { x with rd := rangeOf (c.val64 x c.w.d) (c.a x).toNat, wr := rangeOf (c.b64 x) (c.c4 x).toNat }) (fun _ s _ => s) ∧
  (∀ l, OneRule .spawn (fun c s x => codeOk s x.obj (c.pc + c.w.imm) = true ∧ s.launch? c.launch = some l ∧ Quiet s c.core x
      ∧ ((s.core c.core).items.length < coreQueue ∨ l.sump.length + 1 ≤ l.sumpSize))
    (fun _ _ x => { x with rd := {}, wr := {} })
    (fun c s x => s.acceptItem c x ((s.core c.core).items.length < coreQueue))) ∧
  (∀ l, OneRule .spawnt (fun c s x => codeOk s x.obj (c.pc + c.w.imm) = true ∧ s.launch? c.launch = some l ∧ Quiet s c.core x)
    (fun c s x => Fibre.setPred { x with rd := {}, wr := {} } c.w.b.n.toNat ((s.core c.core).items.length < coreQueue))
    (fun c s x => if (s.core c.core).items.length < coreQueue then s.acceptItem c x true else s)) ∧
  (∀ (s : State) (c : Ctx) (f : Fibre), c.core < s.cores.length → s.veinOfCore c.core < s.mem.veins.length →
    let t := s.acceptItem c f true
    let it := (t.core c.core).items.getLast?
    (t.core c.core).items.length = (s.core c.core).items.length + 1 ∧
    it.map Item.pcoff = some (c.pc + c.w.imm) ∧ it.map Item.arg = some (f.block c.w.a.n.toNat 4) ∧ it.map Item.rd = some f.rd ∧
    it.map Item.wr = some f.wr ∧ it.map Item.parent = some (f.item.map Item.id) ∧ it.map Item.aseq = (s.mem.veins[s.veinOfCore c.core]?).map Vein.aseq ∧
    (t.mem.veins[s.veinOfCore c.core]?).map Vein.aseq = (s.mem.veins[s.veinOfCore c.core]?).map (fun v => v.aseq + 1)) ∧
  (∀ x : Item, x.arg.length = 4 → x.record.length = 48 ∧ field x.record 0 4 = x.pcoff.toNat ∧ field x.record 4 4 = x.aseq.toNat ∧
    field x.record 24 8 = (if x.rd.count = 0 then 0 else x.rd.first % 2 ^ 43 + 2 ^ 43 * (x.rd.count % 2 ^ 21)) ∧
    field x.record 40 8 = x.spawner.toNat) ∧
  OneRule .qstat (fun c _ x => (c.a x).toNat ≤ 3)
    (fun c s x =>
      let n := (s.core c.core).items.length
      c.putD x (BitVec.ofNat 32 (if c.a x = 0 then n else if c.a x = 1 then 256 - n
        else if c.a x = 2 then min (((s.launch? c.launch).map (fun l => l.sump.length)).getD 0) 0xFFFFFFFF
        else s.freeItemSlots c.launch c.core))) (fun _ s _ => s)

/-- ACQ (01 R30; 14 R288) of a team that has its full allotment, or whose full allotment is the prologue, completes at once; otherwise
the request joins the core's order, and ACQ_GRANT at its head gives everything together. SHED (01 R31; 14 R289) after the
grant is a request, which SHED_EFFECT carries out when what it returns is idle; then the SHED completes. Before the grant it returns
nothing and completes.
The place of a deterministic launch's request among other launches' is log 99; where window blocks lie, log 28;
that a wave waits by trying again, log 9. -/
def Obligations.Allotments : Prop :=
  (∀ t l, GroupRule .acq (fun c s => s.teamOf? c.wv.crew = some t ∧ s.launch? c.launch = some l ∧ t.acq = .granted
      ∧ (t.shed = false ∨ ∃ x ∈ c.act, x.phase.isSome = true)) (fun _ _ x => { x with phase := none }) (fun _ s => s)) ∧
  (∀ t l o, WaveRule .acq (fun c s => s.teamOf? c.wv.crew = some t ∧ s.launch? c.launch = some l ∧ t.shed = false ∧ t.acq = .none
      ∧ s.object? l.obj = some o ∧ o.fullIsPrologue = true) (fun _ s => s.setTeam { t with acq := .granted })) ∧
  (∀ (w : Fields) (s : State) (wv : Wave) (fs : List Fibre) (f : Fibre) (t : Team) (l : Launch) (o : Object),
    Issues .acq w s wv fs f → (∀ g ∈ fs, g.active w.guard = true) → s.teamOf? wv.crew = some t → s.launch? wv.crew.launch = some l →
    s.object? l.obj = some o → o.fullIsPrologue = false → t.shed = false → t.acq = .none → t.core < s.cores.length →
    ∃ u, exec (.acq w) s = .next u ∧ (∀ g ∈ fs, u.fibre? g.id = some { g with pc := f.pc, phase := some 0 }) ∧
      (u.wave? wv.id).bind Wave.wait = some .acq ∧ (u.team? t.launch t.id).map Team.acq = some .pending ∧
      (u.core t.core).acqs = placeAcq l.det t.launch t.id (s.core t.core).acqs) ∧
  (∀ (w : Fields) (s : State) (wv : Wave) (fs : List Fibre) (f : Fibre) (t : Team) (o : Object),
    Issues .shed w s wv fs f → (∀ g ∈ fs, g.active w.guard = true) → s.teamOf? wv.crew = some t → t.acq = .granted →
    (s.launch? wv.crew.launch).bind (fun l => s.object? l.obj) = some o → t.shedDone.contains wv.id = false → (∀ r ∈ t.sheds, r.1 ≠ wv.id) →
    let c := issueCtx .shed w s wv fs f.pc
    let keep := (c.a c.lead).toNat
    let gone := t.shed = true
    keep % 16 = 0 → 4096 ≤ keep → keep ≤ t.spSize →
    (∀ k, k < 32 → (c.b c.lead).getLsbD k = true → k < 16 ∧ ((t.tiles[k]?).map Tile.allot = some true ∨ gone ∧ k < o.tiles)) →
    (∀ k, k < 32 → (c.c4 c.lead).getLsbD k = true → 2 ≤ k ∧ ((t.handles[k]?).map Handle.allot = some true ∨ gone ∧ k < o.handles)) →
    ∃ u, exec (.shed w) s = .next u ∧ (∀ g ∈ fs, u.fibre? g.id = some { g with pc := f.pc }) ∧ (u.wave? wv.id).bind Wave.wait = some .shed ∧
      (u.team? t.launch t.id).map Team.sheds = some (t.sheds ++ [(wv.id, keep, c.b c.lead, c.c4 c.lead)])) ∧
  (∀ t, WaveRule .shed (fun c s => s.teamOf? c.wv.crew = some t ∧ t.acq ≠ .granted ∧ t.shedDone.contains c.wv.id = false
      ∧ (∀ r ∈ t.sheds, r.1 ≠ c.wv.id) ∧ ((s.launch? c.launch).bind (fun l => s.object? l.obj)).isSome = true
      ∧ (c.a c.lead).toNat % 16 = 0 ∧ 4096 ≤ (c.a c.lead).toNat ∧ (c.a c.lead).toNat ≤ t.spSize ∧ c.b c.lead = 0 ∧ c.c4 c.lead = 0)
    (fun _ s => s)) ∧
  (∀ t, WaveRule .shed (fun c s => s.teamOf? c.wv.crew = some t ∧ t.shedDone.contains c.wv.id = true
      ∧ ((s.launch? c.launch).bind (fun l => s.object? l.obj)).isSome = true)
    (fun c s => s.setTeam { t with shedDone := t.shedDone.filter (fun i => i != c.wv.id) })) ∧
  (∀ (s : State) (l t : Nat), s.acqHead s.ev.core = some (l, t) → exec .acqGrant s =
    .next ((s.grant l t).siblingsGo (((s.grant l t).waves.filter (fun w => w.wait == some .sibling && w.crew.launch == l)).map Wave.id)).wake) ∧
  (∀ (s : State) (l tm : Nat) (t : Team) (m : Launch) (o : Object), s.team? l tm = some t → s.launch? l = some m → s.object? m.obj = some o →
    ∃ u, (s.grant l tm).team? l tm = some u ∧ u.acq = .granted ∧ u.window = o.wfull ∧ u.spSize = o.scratch ∧ u.tiles.length = 16 ∧
      (∀ k, k < 16 → (u.tiles[k]?).map Tile.allot = some (decide (k < o.tiles))) ∧
      (∀ f ∈ s.fibres, ∀ k, f.id.crew = .team l tm k →
        ∃ g ∈ (s.grant l tm).fibres, g = { f with regs := f.regs.take o.wpro ++ List.replicate (o.wfull - o.wpro) 0
                                                  poison := f.poison.filter (fun n => n < o.wpro) })) ∧
  (∀ (s : State) (t : Team) (r : Nat × Nat × Word × Word), s.team? s.ev.launch s.ev.team = some t → t.sheds.find? (fun r => r.1 == s.ev.wave) = some r →
    s.shedIdle t r.2.2.1 r.2.2.2 = true →
    exec .shedEffect s = .next (s.setTeam (t.doShed r.1 r.2.1 r.2.2.1 r.2.2.2)).wake ∧
    (t.doShed r.1 r.2.1 r.2.2.1 r.2.2.2).spSize = min r.2.1 t.spSize ∧ (t.doShed r.1 r.2.1 r.2.2.1 r.2.2.2).shedDone.contains r.1 = true)

/-- Barrier objects (14 R291, R292) in the own scratchpad: BARI writes one; BARA releases, counts an arrival and delivers the phase; BARW
of another phase acquires; BARX that arrives last does both. WAITV (R293) whose condition holds delivers the word read at the home slice.
That a wave waits by trying again is log 9. -/
def Obligations.BarrierObjects : Prop :=
  (∀ t, OneRule .bari (fun c s x => OwnObj s x t (c.a x) ∧ c.served x = false ∧ 1 ≤ (c.b x).toNat ∧ (c.b x).toNat < 2 ^ 20) (fun _ _ x => x)
    (fun c s x => s.setTeam (t.putObj ((c.a x).toNat % 2 ^ 18) { expect := (c.b x).toNat, scope := modField c.w.mod 0 3, arrived := 0, phase := 0 }))) ∧
  (∀ t o, OneRule .bara (fun c s x => OwnObj s x t (c.a x) ∧ ObjAt t ((c.a x).toNat % 2 ^ 18) o ∧ Quiet s c.core x ∧ NoSpan s c
      ∧ c.served x = false ∧ (o.arrived + 1 ≠ o.expect ∨ ∀ g ∈ s.fibres, g.objWait = none))
    (fun c _ x => c.putD x o.phase) (fun c s x => s.setTeam (t.putObj ((c.a x).toNat % 2 ^ 18) o.arrive))) ∧
  (∀ t o, OneRule .barw (fun c s x => OwnObj s x t (c.a x) ∧ ObjAt t ((c.a x).toNat % 2 ^ 18) o ∧ NoSpan s c ∧ x.objWait = none ∧ o.phase ≠ c.b x)
    (fun _ _ x => x) (fun c s x => if s.wide (s.whoOf c x) o.scope then s.acquired c.core else s)) ∧
  (∀ t o, OneRule .barx (fun c s x => OwnObj s x t (c.a x) ∧ ObjAt t ((c.a x).toNat % 2 ^ 18) o ∧ Quiet s c.core x ∧ NoSpan s c
      ∧ (∀ g ∈ s.fibres, g.objWait = none) ∧ o.arrived + 1 = o.expect ∧ t.sp.wf = true)
    (fun c _ x => c.putD x o.phase)
    (fun c s x =>
      let u := s.setTeam (t.putObj ((c.a x).toNat % 2 ^ 18) o.arrive)
      if s.wide (s.whoOf c x) o.scope then u.acquired c.core else u)) ∧
  (∀ e, OneRule .waitv (fun c s x => Unowned s ∧ x.held = [] ∧ NoSpan s c ∧ x.phase = none ∧ Resident s c (c.a64 x) 4 false e
      ∧ s.l1Line? c.core (e.line (c.a64 x)) = none ∧ AtHome s x.id (e.line (c.a64 x))
      ∧ waitHolds c.w.mod (BitVec.ofNat 32 (lineBytes (s.mem.l2Fill (e.line (c.a64 x))).1.data (e.at_ (c.a64 x) % 64) 4)) (c.b x) = true)
    (fun c s x => { c.putD x (BitVec.ofNat 32 (lineBytes (s.mem.l2Fill (e.line (c.a64 x))).1.data (e.at_ (c.a64 x) % 64) 4)) with phase := none })
    (fun c s x =>
      let u := s.withMem (s.mem.l2Fill (e.line (c.a64 x))).2
      if s.wide (s.whoOf c x) (modField c.w.mod 3 3) then u.acquired c.core else u)) ∧
  (∀ (s : State) (t : Team) (off k : Nat) (f : Fibre) (v : ObjWait), s.fibre? f.id = some f → f.objWait = some v →
    (s.releaseObj t off k).fibre? f.id = some (if v.launch = t.launch ∧ v.team = t.id ∧ v.at_ = off ∧ v.released = false then
      { f with objWait := some { v with released := true, scope := k } } else f))

/-! ### Handles, engines, streams (17 R352 to R365; 19 R405 to R408, R418 to R420) -/

/-- HDEF defines a handle's buffer; HWAIT of a handle at rest completes, and at FULL its join acquires; HSET takes FULL to FREE, or a
paused one back to FILLING with count 0; HSTAT delivers the record (17 R359 to R362; 03 R81 to R83; 04 R114).
That HWAIT of a paused handle completes is log 103. -/
def Obligations.Handles : Prop :=
  (∀ t, WaveRule .hdef (fun c s => s.teamOf? c.lead.id.crew = some t ∧ (t.handle c.w.d.n.toNat).busy = false ∧ (c.a c.lead).toNat % 16 = 0
      ∧ (c.b c.lead).toNat % 16 = 0 ∧ (c.a c.lead).toNat + (c.b c.lead).toNat ≤ t.spSize)
    (fun c s => s.setTeam (t.setHandle c.w.d.n.toNat { t.handle c.w.d.n.toNat with
      base := BitVec.ofNat 14 ((c.a c.lead).toNat / 16), size := BitVec.ofNat 15 ((c.b c.lead).toNat / 16) }))) ∧
  (∀ t, WaveRule .hwait (fun c s => s.teamOf? c.lead.id.crew = some t ∧ (t.handle c.w.a.n.toNat).busy = false)
    (fun c s => if (t.handle c.w.a.n.toNat).state = .full then s.acquired c.core else s)) ∧
  (∀ t, WaveRule .hset (fun c s => s.teamOf? c.lead.id.crew = some t ∧ (t.handle c.w.a.n.toNat).state = .full)
    (fun c s =>
      let h := t.handle c.w.a.n.toNat
      s.setTeam (t.setHandle c.w.a.n.toNat (if h.paused then { h with state := .filling, paused := false, count := 0 } else { h with state := .free, count := 0 })))) ∧
  (∀ t, WaveRule .hset (fun c s => s.teamOf? c.lead.id.crew = some t ∧ (t.handle c.w.a.n.toNat).state = .free) (fun _ s => s)) ∧
  (∀ t, OneRule .hstat (fun _ s x => s.teamOf? x.id.crew = some t) (fun c _ x => c.putD64 x (t.handle c.w.a.n.toNat).record)
    (fun c s _ => if (t.handle c.w.a.n.toNat).state = .full then s.acquired c.core else s))

/-- The engine operation that an opcode starts, from its operands, and what it checks first besides the handle: ISECT and MERGE. -/
def streamOp (k : EngKind) (c : Ctx) : EngOp :=
  { id := 0, kind := k, launch := 0, team := 0, core := 0, handle := 0, a := c.a64 c.lead, b := c.b64 c.lead
    c := .zext (c.lead.reg c.w.c.n.toNat), d := .zext (c.lead.reg (c.w.c.n.toNat + 1)) }

/-- A stream's base is aligned and its words lie in one view (08 R190). -/
abbrev StreamOk (a : DWord) (n : Nat) : Prop :=
  a.toNat % 4 = 0 ∧ a.toNat < 2 ^ 51 ∧ (n = 0 ∨ (a.toNat + 4 * n ≤ 2 ^ 51 ∧ a.toNat / 2 ^ 50 = (a.toNat + 4 * n - 1) / 2 ^ 50))

/-- A block of bytes at a scratchpad offset. -/
abbrev BlockAt (t : Team) (a n : Nat) : Prop := a % 16 = 0 ∧ a + n ≤ t.spSize ∧ t.bad a n = false

/-- Every engine start completes when its handle is FREE: the operation, made of the operands as they are now, enters its engine
and the handle is FILLING; nothing else changes (17 R353 to R358, 08 R190, 09 R202, 10 R212, 19 R418 to R420).
That a record is read before the wait for the handle is log 85. -/
def Obligations.EngineStarts : Prop :=
  (∀ t, ∀ p ∈ [(Op.isect, EngKind.isect), (Op.merge, EngKind.merge)], WaveRule p.1
    (fun c s => Startable s c t ∧ StreamOk (c.a64 c.lead) (c.lead.reg c.w.c.n.toNat).toNat
      ∧ StreamOk (c.b64 c.lead) (c.lead.reg (c.w.c.n.toNat + 1)).toNat)
    (fun c s => s.startedOp c t (streamOp p.2 c))) ∧
  (∀ t, ∀ p ∈ [(Op.tcopy, false), (Op.icopy, true)], WaveRule p.1
    (fun c s =>
      let r := CopyRec.ofBytes (t.sp.getBytes (c.a c.lead).toNat 32)
      Startable s c t ∧ BlockAt t (c.a c.lead).toNat 32 ∧ r.ok p.2 = true ∧ c.wv.record = none
        ∧ (p.2 = true → r.idxoff + 4 * r.rows ≤ t.spSize ∧ t.bad r.idxoff (4 * r.rows) = false)
        ∧ (r.store = true → r.spoff % 4 = 0 ∧ r.spoff + r.rows * r.rowbytes ≤ t.spSize))
    (fun c s =>
      let b := t.sp.getBytes (c.a c.lead).toNat 32
      let r := CopyRec.ofBytes b
      s.startedOp c t { id := 0, kind := if p.2 then .icopy else .tcopy, launch := 0, team := 0, core := 0, handle := 0, block := b
                        idx := if p.2 then (List.range r.rows).map (fun k => t.sp.getN (r.idxoff + 4 * k) 4) else [] })) ∧
  (∀ t, ∀ p ∈ [(Op.nbin, EngKind.nbin), (Op.npair, .npair), (Op.nfix, .nfix)], WaveRule p.1
    (fun c s => Startable s c t ∧ (c.a64 c.lead).toNat < 2 ^ 51 ∧ (c.a64 c.lead).toNat % 4096 = 0
      ∧ (p.1 = .npair → (t.handle c.w.d.n.toNat).size.toNat % 2 = 0))
    (fun c s => s.startedOp c t { id := 0, kind := p.2, launch := 0, team := 0, core := 0, handle := 0, a := c.a64 c.lead })) ∧
  (∀ t, WaveRule .hcfg
    (fun c s => Startable s c t ∧ (c.b64 c.lead).toNat < 2 ^ 51 ∧ (c.b64 c.lead).toNat % 4096 = 0 ∧ BlockAt t (c.a c.lead).toNat 64 ∧ c.wv.record = none
      ∧ (Family.ofBlock (t.sp.getBytes (c.a c.lead).toNat 64) 0 0).ok (t.sp.getBytes (c.a c.lead).toNat 64) (c.b64 c.lead) = true)
    (fun c s => s.startedOp c t { id := 0, kind := .hcfg, launch := 0, team := 0, core := 0, handle := 0
                                  block := t.sp.getBytes (c.a c.lead).toNat 64, b := c.b64 c.lead })) ∧
  (∀ t, ∀ p ∈ [(Op.hprobe, EngKind.hprobe), (Op.hins, .hins), (Op.hdel, .hdel)], WaveRule p.1
    (fun c s => Startable s c t ∧ (c.b64 c.lead).toNat < 2 ^ 51 ∧ (c.b64 c.lead).toNat % 4096 = 0 ∧ (c.a c.lead).toNat % 16 = 0
      ∧ (c.a c.lead).toNat < t.spSize
      ∧ (c.a c.lead).toNat + 2 * ((s.family? (s.queueOf c.launch) (c.b64 c.lead)).map Family.d).getD 0 ≤ t.spSize)
    (fun c s => s.startedOp c t { id := 0, kind := p.2, launch := 0, team := 0, core := 0, handle := 0, a := BitVec.ofNat 64 (c.a c.lead).toNat
                                  b := c.b64 c.lead, c := if p.1 = .hprobe then 0 else .zext (c.c4 c.lead) })) ∧
  (∀ t, WaveRule .hreh
    (fun c s => Startable s c t ∧ (c.b64 c.lead).toNat < 2 ^ 51 ∧ (c.b64 c.lead).toNat % 4096 = 0 ∧ 1 ≤ (c.a c.lead).toNat ∧ (c.a c.lead).toNat ≤ 2 ^ 24)
    (fun c s => s.startedOp c t { id := 0, kind := .hreh, launch := 0, team := 0, core := 0, handle := 0
                                  a := BitVec.ofNat 64 (c.a c.lead).toNat, b := c.b64 c.lead })) ∧
  (∀ t, ∀ p ∈ [(Op.ctxs, EngKind.ctxs, gangDescOk), (Op.ctxr, .ctxr, gangDescOk), (Op.migr, .migr, migDescOk)], WaveRule p.1
    (fun c s => Startable s c t ∧ BlockAt t (c.a c.lead).toNat 32 ∧ c.wv.record = none ∧ p.2.2 (t.sp.getBytes (c.a c.lead).toNat 32) = true)
    (fun c s => s.startedOp c t { id := 0, kind := p.2.1, launch := 0, team := 0, core := 0, handle := 0
                                  block := t.sp.getBytes (c.a c.lead).toNat 32 }))

/-- NCFG configures a grid that no operation uses; NSTAT and HQRY deliver their words; SVOPEN opens a supervision from its block, SVMARK
keeps the lowest residual and delivers the next buffer and whether the target is met, SVQRY delivers its words, and SVCLOSE writes the
record at its home line and closes (19 R405 to R408; 11 R228 to R233).
That NSTAT and HQRY wait is log 83; for which fibres SVMARK releases, log 52; high bits of a base, log 80. -/
def Obligations.GridsFamiliesSupervisions : Prop :=
  (∀ t, WaveRule .ncfg
    (fun c s =>
      let b := t.sp.getBytes (c.a c.lead).toNat 64
      let g := Grid.ofBlock b (s.queueOf c.launch) (dieOf c.core)
      s.teamOf? c.lead.id.crew = some t ∧ BlockAt t (c.a c.lead).toNat 64 ∧ g.base.toNat < 2 ^ 51 ∧ g.ok b = true
        ∧ s.meetsOwned g.queue g.base g.bytes = false ∧ s.gridBusy g.queue g.base = false)
    (fun c s => s.configure (Grid.ofBlock (t.sp.getBytes (c.a c.lead).toNat 64) (s.queueOf c.launch) (dieOf c.core)))) ∧
  GroupRule .nstat (fun _ _ => True) (fun c s x => c.putD64 x (s.gridStatus (s.queueOf c.launch) (c.a64 c.lead)))
    (fun c s => if s.gridBusy (s.queueOf c.launch) (c.a64 c.lead) then s else s.acquired c.core) ∧
  GroupRule .hqry (fun _ _ => True) (fun c s x => c.putD64 x (s.familyWords (s.queueOf c.launch) (c.a64 c.lead) c.w.imm.toNat))
    (fun c s => if c.w.imm = 0 ∧ s.familyBusy (s.queueOf c.launch) (c.a64 c.lead) = false then s.acquired c.core else s) ∧
  (∀ t, WaveRule .svopen (fun c s => s.teamOf? c.lead.id.crew = some t ∧ t.sup = none ∧ BlockAt t (c.a c.lead).toNat 64
      ∧ supOk (t.sp.getBytes (c.a c.lead).toNat 64) = true ∧ AllQuiet s c ∧ CleanL1 s c.core)
    (fun c s => s.setTeam { t with sup := some (Supervision.ofBlock (t.sp.getBytes (c.a c.lead).toNat 64)) })) ∧
  (∀ t u, GroupRule .svmark (fun c s => s.teamOf? c.lead.id.crew = some t ∧ t.sup = some u ∧ ((c.a c.lead).toNat = 1 ∨ (c.a c.lead).toNat = 2)
      ∧ (c.a c.lead).toNat ≠ u.best ∧ AllQuiet s c ∧ NoSpan s c)
    (fun c _ x => (c.putD x (BitVec.ofNat 32 (u.mark (c.a c.lead).toNat (c.b c.lead)).next)).setPred c.w.imm.toNat (u.mark (c.a c.lead).toNat (c.b c.lead)).met)
    (fun c s => s.setTeam { t with sup := some (u.mark (c.a c.lead).toNat (c.b c.lead)) })) ∧
  (∀ t, GroupRule .svqry (fun c s => s.teamOf? c.lead.id.crew = some t) (fun c _ x => c.putD64 x (t.supWords c.w.imm.toNat)) (fun c s => s.acquired c.core)) ∧
  (∀ t u e, WaveRule .svclose (fun c s => s.teamOf? c.lead.id.crew = some t ∧ t.sup = some u ∧ AllQuiet s c ∧ CleanL1 s c.core ∧ NoSpan s c
      ∧ s.wide (s.whoOf c c.lead) u.scope = true ∧ u.record.toNat % 64 = 0 ∧ Resident s c u.record 16 true e ∧ Resident s c (u.record + 16) 16 true e
      ∧ e.pa % 64 = 0 ∧ s.l1Line? c.core (e.line u.record) = none ∧ AtHome s c.lead.id (e.line u.record))
    (fun _ s =>
      let v := u.bytes 0 t.id s.rtime
      let m := (s.granted e u.record).mem.l2Write (e.line u.record) (byteMask 0 16) (lineOf 0 16 (v % 2 ^ 128))
      let m := ((s.withMem m).granted e (u.record + 16)).mem.l2Write (e.line u.record) (byteMask 16 16) (lineOf 16 16 (v / 2 ^ 128))
      (s.withMem m).setTeam { t with sup := none })) ∧
  (∀ (u : Supervision) (a : Nat) (r : Word), (u.mark a r).marks = u.marks + 1 ∧ (u.mark a r).next ≠ (u.mark a r).best ∧
    (if below32 r u.bestRes then (u.mark a r).best = a ∧ (u.mark a r).bestRes = r else (u.mark a r).best = u.best ∧ (u.mark a r).bestRes = u.bestRes))

/-- COMPACT writes the B of the lanes whose predicate holds to consecutive words and delivers each lane's index and the count; EXPAND
reads such words back; SEGR delivers each segment's sum; BSRCH of no word delivers 0, and of one word in the L1 compares it (17 R363 to
R365). A lane of a GLDS whose data has arrived leaves with its value and its label open (17 R352; 08 R184).
Which lanes of a GLDS arrive together is log 30; that a value is taken at issue, log 16. -/
def Obligations.StreamHelpers : Prop :=
  (∀ t, GroupRule .compact
    (fun c s => s.teamOf? c.lead.id.crew = some t ∧ (c.a c.lead).toNat % 4 = 0
      ∧ (c.a c.lead).toNat + 4 * (c.act.filter (fun f => f.pred c.w.c.n.toNat)).length ≤ t.spSize)
    (fun c _ x =>
      let who := c.act.filter (fun f => f.pred c.w.c.n.toNat)
      c.putD64 x (BitVec.ofNat 64 ((match who.findIdx? (fun g => g.lane == x.lane) with | some i => i | none => 0xFFFFFFFF) + 2 ^ 32 * who.length)))
    (fun c s =>
      let who := c.act.filter (fun f => f.pred c.w.c.n.toNat)
      let put := fun (m : Memory) (p : Nat × Fibre) => m.setN ((c.a c.lead).toNat + 4 * p.1) 4 (c.b p.2).toNat
      s.setTeam (t.wrote (c.a c.lead).toNat (4 * who.length) (((List.range who.length).zip who).foldl put t.sp)))) ∧
  (∀ t, GroupRule .expand
    (fun c s => s.teamOf? c.lead.id.crew = some t ∧ (c.a c.lead).toNat % 4 = 0
      ∧ (c.a c.lead).toNat + 4 * (c.act.filter (fun f => f.pred c.w.b.n.toNat)).length ≤ t.spSize
      ∧ t.bad (c.a c.lead).toNat (4 * (c.act.filter (fun f => f.pred c.w.b.n.toNat)).length) = false)
    (fun c _ x => match (c.act.filter (fun f => f.pred c.w.b.n.toNat)).findIdx? (fun g => g.lane == x.lane) with
      | some i => c.putD x (BitVec.ofNat 32 (t.sp.getN ((c.a c.lead).toNat + 4 * i) 4))
      | none => x) (fun _ s => s)) ∧
  GroupRule .segr (fun _ _ => True)
    (fun c _ x => match (segments (fun f => f.pred c.w.b.n.toNat) c.act []).find? (fun seg => seg.any (fun g => g.lane == x.lane)) with
      | some seg => c.putD x (BitVec.ofNat 32 (segrSum c seg).1) (segrSum c seg).2
      | none => x) (fun _ s => s) ∧
  OneRule .bsrch (fun c _ x => (c.c4 x).toNat = 0 ∧ (c.a64 x).toNat % 4 = 0) (fun c _ x => c.putD x 0) (fun _ s _ => s) ∧
  (∀ e l, OneRule .bsrch (fun c s x => Plain s x ∧ (c.c4 x).toNat = 1 ∧ Resident s c (c.a64 x) 4 false e ∧ s.l1Line? c.core (e.line (c.a64 x)) = some l
      ∧ SoundL1 s (e.line (c.a64 x)) l ∧ l.valid &&& byteMask (e.at_ (c.a64 x) % 64) 4 = byteMask (e.at_ (c.a64 x) % 64) 4)
    (fun c _ x => c.putD x (if (c.b x).toNat ≤ lineBytes l.data (e.at_ (c.a64 x) % 64) 4 then 0 else 1))
    (fun c s x => s.withL1 c.core { l with user := (s.whoOf c x).user, hint := (s.whoOf c x).hint })) ∧
  (∀ e l, OneRule .glds (fun c s x => Plain s x ∧ c.wv.arrived.getLsbD x.lane = true ∧ Resident s c (c.a64 x) (szBytes c.w.mod) false e
      ∧ modField c.w.mod 6 2 ≠ 3 ∧ s.l1Line? c.core (e.line (c.a64 x)) = some l ∧ SoundL1 s (e.line (c.a64 x)) l
      ∧ l.valid &&& byteMask (e.at_ (c.a64 x) % 64) (szBytes c.w.mod) = byteMask (e.at_ (c.a64 x) % 64) (szBytes c.w.mod))
    (fun c _ x => c.putLoad { x with labels := (c.pc + c.w.imm) :: x.labels } (lineBytes l.data (e.at_ (c.a64 x) % 64) (szBytes c.w.mod)))
    (fun c s x => s.withL1 c.core { l with user := (s.whoOf c x).user, hint := (s.whoOf c x).hint }))

/-! ### Tiles and the matrix unit (18) -/

/-- The tile moves complete: TCFG gives a shape and keeps the contents, TZERO clears, TMOVW writes words in lane order, TMOVR reads them,
TTRN enters the tile path with the transpose, TNZ counts and maps nonzero elements, TPIV delivers the pivot record, MWAIT of a team
with nothing in flight goes on (18 R376 to R379, R384, R395); an instruction that reads a poisoned tile defers SYS.UNCORR (32 R517).
TTRN writes D[j][i] = A[i][j] (18 R378): every element of the transpose is the element of A with row and column exchanged.
That a tile instruction reads and computes at issue is log 18; that TCFG keeps a pivot record, log 77. -/
def Obligations.TileMoves : Prop :=
  (∀ t x, WaveRule .tcfg
    (fun c s =>
      let a := (c.a c.lead).toNat
      s.teamOf? c.lead.id.crew = some t ∧ TileAt s t c.w.d.n.toNat x ∧ a = a % 128 + a / 256 % 128 * 256 + a / 65536 % 4 * 65536
        ∧ (a % 128 + 1) * (a / 256 % 128 + 1) * (4 * 2 ^ (a / 65536 % 4)) ≤ 65536)
    (fun c s =>
      let a := (c.a c.lead).toNat
      s.withTile t c.w.d.n.toNat { x with rows := a % 128 + 1, cols := a / 256 % 128 + 1, width := BitVec.ofNat 2 (a / 65536 % 4) })) ∧
  (∀ t x, WaveRule .tzero (fun c s => s.teamOf? c.lead.id.crew = some t ∧ TileAt s t c.w.d.n.toNat x)
    (fun c s => s.withTile t c.w.d.n.toNat { x with bits := 0, pivot := none, poison := [] })) ∧
  (∀ t x, WaveRule .tmovw (fun c s => s.teamOf? c.lead.id.crew = some t ∧ TileAt s t c.w.d.n.toNat x ∧ ∀ f ∈ c.act, (c.b f).toNat < 2048)
    (fun c s => s.withTile t c.w.d.n.toNat (c.act.foldl (fun x f => x.setWord (c.b f).toNat (c.a f).toNat) x))) ∧
  (∀ t y, GroupRule .tmovr (fun c s => s.teamOf? c.lead.id.crew = some t ∧ TileAt s t c.w.a.n.toNat y
      ∧ ∀ f ∈ c.act, (c.b f).toNat < 2048 ∧ (c.b f).toNat / 16 ∉ y.poison)
    (fun c _ x => c.putD x (BitVec.ofNat 32 (y.word (c.b x).toNat))) (fun _ s => s)) ∧
  (∀ t x y, WaveRule .ttrn (fun c s => s.teamOf? c.lead.id.crew = some t ∧ TileAt s t c.w.d.n.toNat x ∧ TileAt s t c.w.a.n.toNat y
      ∧ x.rows = y.cols ∧ x.cols = y.rows ∧ x.width = y.width)
    (fun c s => s.pushedTile c t [c.w.a.n.toNat] [(c.w.d.n.toNat, x.setTable (transpose y.cols y.table))] 0 none)) ∧
  (∀ t y, GroupRule .tnz (fun c s => s.teamOf? c.lead.id.crew = some t ∧ TileAt s t c.w.a.n.toNat y ∧ y.width = elTileWidth (modField c.w.mod 0 3)
      ∧ t.badTile c.w.a.n.toNat = false)
    (fun c _ x =>
      let counts := y.table.map (fun r => (r.filter (nonzeroElem (elTileFloat (modField c.w.mod 0 3)) y.wbits)).length)
      c.putD64 x (BitVec.ofNat 64 (counts.foldl (fun s k => s + k) 0
        + 2 ^ 32 * (List.range 32).foldl (fun m r => if counts.getD (32 * (x.lane % 4) + r) 0 != 0 then m + 2 ^ r else m) 0))) (fun _ s => s)) ∧
  (∀ t y p, GroupRule .tpiv (fun c s => s.teamOf? c.lead.id.crew = some t ∧ TileAt s t c.w.a.n.toNat y ∧ y.pivot = p)
    (fun c _ x => c.putD64 x (BitVec.ofNat 64 (match p with
      | none => 0x00FFFFFF
      | some p => p.perm.getD (2 * x.lane) 255 + 2 ^ 8 * p.perm.getD (2 * x.lane + 1) 255 + 2 ^ 16 * p.zero.getD 255
          + 2 ^ 24 * p.n + 2 ^ 32 * (p.clamped + 256 + 512 * p.chol.toNat)))) (fun _ s => s)) ∧
  (∀ t, WaveRule .mwait (fun c s => s.teamOf? c.lead.id.crew = some t ∧ (∀ o ∈ s.tileOps, ¬(o.launch = t.launch ∧ o.team = t.id))
      ∧ s.tilesStoring t [] = [] ∧ ∀ f ∈ s.fibres, t.owns f.id.crew = true → ∀ d ∈ f.dues, d.1.kind ≠ 3) (fun _ s => s)) ∧
  (∀ (y : Tile) (i j : Nat), i < y.rows → j < y.cols →
    (((transpose y.cols y.table).getD j []).getD i 0) = ((y.table.getD i []).getD j 0) ∧
    ((y.table.getD i []).getD j 0) = y.bits.toNat / 2 ^ ((i * y.cols + j) * y.wbits) % 2 ^ y.wbits)

/-- TLD, TST and TCB complete between a tile and rows of the scratchpad, at the stride in B, and between a tile of one row and
device memory through the L1 (18 R380 to R382).
That a tile instruction reads, computes and stores at issue is log 18; log 10, 12, 13 as for loads. -/
def Obligations.TileTransfers : Prop :=
  let row := fun (base : Nat) (stride : Int) (i : Nat) => (((base : Int) + i * stride) % 2 ^ 32).toNat
  (∀ t x, WaveRule .tld
    (fun c s =>
      let n := x.cols * x.wbits / 8
      let base := (c.a c.lead + c.w.imm).toNat
      s.teamOf? c.lead.id.crew = some t ∧ TileAt s t c.w.d.n.toNat x ∧ globalForm c.w = false ∧ x.cols * x.wbits % 8 = 0
        ∧ base % 4 = 0 ∧ c.stride % 4 = 0 ∧ ∀ i, i < x.rows → row base c.stride i + n ≤ t.spSize ∧ t.bad (row base c.stride i) n = false)
    (fun c s =>
      let n := x.cols * x.wbits / 8
      let rows := (List.range x.rows).map (fun i => t.sp.getN (row (c.a c.lead + c.w.imm).toNat c.stride i) n)
      s.pushedTile c t [] [(c.w.d.n.toNat, x.fill x.size (packNat (8 * n) rows))] 0 none)) ∧
  (∀ t x, WaveRule .tst
    (fun c s =>
      let n := x.cols * x.wbits / 8
      let base := (c.a c.lead + c.w.imm).toNat
      s.teamOf? c.lead.id.crew = some t ∧ TileAt s t c.w.d.n.toNat x ∧ t.badTile c.w.d.n.toNat = false ∧ globalForm c.w = false
        ∧ x.cols * x.wbits % 8 = 0 ∧ base % 4 = 0 ∧ c.stride % 4 = 0 ∧ ∀ i, i < x.rows → row base c.stride i + n ≤ t.spSize)
    (fun c s =>
      let n := x.cols * x.wbits / 8
      let rs := (List.range x.rows).map (row (c.a c.lead + c.w.imm).toNat c.stride)
      let put := fun (t : Team) (p : Nat × Nat) => t.wrote p.1 n (t.sp.setN p.1 n p.2)
      (s.setTeam ((rs.zip (x.rowData n)).foldl put t)).pushedTile c t [c.w.d.n.toNat] [] 0 none)) ∧
  (∀ t x, WaveRule .tcb
    (fun c s =>
      let n := x.cols * 4 / 8
      let base := (c.a c.lead).toNat
      s.teamOf? c.lead.id.crew = some t ∧ TileAt s t c.w.d.n.toNat x ∧ globalForm c.w = false ∧ x.cols * 4 % 8 = 0 ∧ x.width = 2
        ∧ (c.c4 c.lead).toNat < 8 ∧ base % 4 = 0 ∧ c.stride % 4 = 0
        ∧ ∀ i, i < x.rows → row base c.stride i + n ≤ t.spSize ∧ t.bad (row base c.stride i) n = false)
    (fun c s =>
      let n := x.cols * 4 / 8
      let rows := (List.range x.rows).map (fun i => t.sp.getN (row (c.a c.lead).toNat c.stride i) n)
      let vals := rows.map (fun v => (unpackNat 4 x.cols (v % 2 ^ (8 * n))).map (fun e => ((t.book (c.c4 c.lead).toNat).getD e 0).toNat))
      s.pushedTile c t [bookRead (c.c4 c.lead).toNat] [(c.w.d.n.toNat, x.setTable vals)] 0 none)) ∧
  (∀ t x e l, WaveRule .tld
    (fun c s =>
      let n := x.cols * x.wbits / 8
      let va := c.a64 c.lead + .sext c.w.imm
      s.teamOf? c.lead.id.crew = some t ∧ TileAt s t c.w.d.n.toNat x ∧ globalForm c.w = true ∧ x.rows = 1 ∧ x.cols * x.wbits % 8 = 0
        ∧ va.toNat % 4 = 0 ∧ c.stride % 4 = 0 ∧ RowAhead s c va n false e ∧ Unowned s
        ∧ (∀ f ∈ c.act, f.held = []) ∧ SoundL1 s (e.line va) l ∧ modField c.w.mod 6 2 ≠ 3 ∧ s.l1Line? c.core (e.line va) = some l ∧ l.valid &&& byteMask (e.at_ va % 64) n = byteMask (e.at_ va % 64) n)
    (fun c s =>
      let n := x.cols * x.wbits / 8
      let va := c.a64 c.lead + .sext c.w.imm
      (s.withL1 c.core { l with user := (s.whoOf c c.lead).user, hint := (s.whoOf c c.lead).hint }).pushedTile c t []
        [(c.w.d.n.toNat, x.fill x.size (packNat (8 * n) [lineBytes l.data (e.at_ va % 64) n]))] 0 none)) ∧
  (∀ t x e l, WaveRule .tst
    (fun c s =>
      let n := x.cols * x.wbits / 8
      let va := c.a64 c.lead + .sext c.w.imm
      s.teamOf? c.lead.id.crew = some t ∧ TileAt s t c.w.d.n.toNat x ∧ globalForm c.w = true ∧ x.rows = 1 ∧ x.cols * x.wbits % 8 = 0
        ∧ va.toNat % 4 = 0 ∧ c.stride % 4 = 0 ∧ RowAhead s c va n true e ∧ t.badTile c.w.d.n.toNat = false
        ∧ (∀ f ∈ c.act, f.held = []) ∧ modField c.w.mod 6 2 ≠ 3 ∧ s.l1Line? c.core (e.line va) = some l)
    (fun c s =>
      let n := x.cols * x.wbits / 8
      let va := c.a64 c.lead + .sext c.w.imm
      let m := byteMask (e.at_ va % 64) n
      ((s.granted e va).withL1 c.core { l with
        data := mergeLine l.data (lineOf (e.at_ va % 64) n (x.bits.toNat % 2 ^ (8 * n))) m
        valid := l.valid ||| m, dirty := l.dirty ||| m, user := (s.whoOf c c.lead).user, hint := (s.whoOf c c.lead).hint
        poison := l.poison && m != BitVec.allOnes 64 }).pushedTile c t [c.w.d.n.toNat] [] 0 none)) ∧
  (∀ t x e l, WaveRule .tcb
    (fun c s =>
      let n := x.cols * 4 / 8
      let va := c.a64 c.lead
      s.teamOf? c.lead.id.crew = some t ∧ TileAt s t c.w.d.n.toNat x ∧ globalForm c.w = true ∧ x.rows = 1 ∧ x.cols * 4 % 8 = 0 ∧ x.width = 2
        ∧ (c.c4 c.lead).toNat < 8 ∧ va.toNat % 4 = 0 ∧ c.stride % 4 = 0 ∧ RowAhead s c va n false e ∧ Unowned s
        ∧ (∀ f ∈ c.act, f.held = []) ∧ SoundL1 s (e.line va) l ∧ s.l1Line? c.core (e.line va) = some l ∧ l.valid &&& byteMask (e.at_ va % 64) n = byteMask (e.at_ va % 64) n)
    (fun c s =>
      let n := x.cols * 4 / 8
      let va := c.a64 c.lead
      let vals := (unpackNat 4 x.cols (lineBytes l.data (e.at_ va % 64) n)).map (fun e => ((t.book (c.c4 c.lead).toNat).getD e 0).toNat)
      (s.withL1 c.core { l with user := (s.whoOf c c.lead).user, hint := (s.whoOf c c.lead).hint }).pushedTile c t [bookRead (c.c4 c.lead).toNat]
        [(c.w.d.n.toNat, x.setTable [vals])] 0 none))

/-- TSCAL, TADD and TRED complete element by element, each element rounded once under the form's rounding and saturation, and enter the
tile path (18 R383).
That a tile instruction reads and computes at issue is log 18. -/
def Obligations.TileArithmetic : Prop :=
  (∀ t x y, WaveRule .tscal (fun c s => s.teamOf? c.lead.id.crew = some t ∧ TileAt s t c.w.d.n.toNat x ∧ TileAt s t c.w.a.n.toNat y
      ∧ y.width = 3 ∧ sameShape x y = true)
    (fun c s =>
      let r := eachElem (fun u _ => fp32.mul c.tileR u (c.b c.lead).toNat) y.table y.table
      s.pushedTile c t [c.w.a.n.toNat] [(c.w.d.n.toNat, x.setTable r.1)] r.2 none)) ∧
  (∀ t x y z, WaveRule .tadd (fun c s => s.teamOf? c.lead.id.crew = some t ∧ TileAt s t c.w.d.n.toNat x ∧ TileAt s t c.w.a.n.toNat y
      ∧ TileAt s t c.w.b.n.toNat z ∧ y.width = 3 ∧ sameShape z y = true ∧ sameShape x y = true)
    (fun c s =>
      let r := eachElem (fp32.add c.tileR) y.table z.table
      s.pushedTile c t [c.w.a.n.toNat, c.w.b.n.toNat] [(c.w.d.n.toNat, x.setTable r.1)] r.2 none)) ∧
  (∀ t x y, WaveRule .tred (fun c s => s.teamOf? c.lead.id.crew = some t ∧ TileAt s t c.w.d.n.toNat x ∧ TileAt s t c.w.a.n.toNat y
      ∧ y.width = 3 ∧ x.rows = y.rows ∧ x.cols = 1 ∧ x.width = 3 ∧ c.w.d.n.toNat ≠ c.w.a.n.toNat)
    (fun c s =>
      let rs := y.table.map (fun r => treeSum fp32 c.tileR 7 (r.map some))
      s.pushedTile c t [c.w.a.n.toNat] [(c.w.d.n.toNat, x.setTable (rs.map (fun r => [r.1])))] (rs.foldl (fun w r => w ||| r.2) 0) none))

/-- The matrix multiplications enter the matrix unit with the accumulators of 05 R144, R145 when their operands pass the checks of 18
R385 to R391; and the operands of a single operation pass with the shapes those rules give.
That a tile instruction reads and computes at issue is log 18; a zero integer product's sign, log 92; a misaligned RBASE, log 79. -/
def Obligations.MatrixMultiply : Prop :=
  (∀ t o, ∀ p ∈ [(Op.mma, false), (Op.mmai, true)], WaveRule p.1
    (fun c s => s.teamOf? c.lead.id.crew = some t ∧ (mmaOperands c t false true none).run s = .ok (o, s))
    (fun c s =>
      let r := mmaAll ((o.ops.zip o.bs).map (fun q => mmaWork c.w.mod p.2 q.1 none none q.2.columns))
      s.pushedTile c t o.srcs r.1 r.2 none)) ∧
  (∀ t o, WaveRule .mmas
    (fun c s => s.teamOf? c.lead.id.crew = some t ∧ (mmaOperands c t true true none).run s = .ok (o, s))
    (fun c s =>
      let m := c.w.mod
      let r := mmaAll ((o.ops.zip (o.bs.zip o.metas)).map (fun q => mmaWork m (mmaIn m ≥ 4) q.1 (some (mmaN m, q.2.2.table)) none q.2.1.columns))
      if o.metas.all (metaOk (mmaN m)) then s.pushedTile c t o.srcs r.1 r.2 none
      else s.pushedTile c t o.srcs ((o.ops.map MmaOp.acc).flatten) 0 (some { cause := arithSpMeta 4 }))) ∧
  (∀ t o sc, WaveRule .mmaq
    (fun c s => s.teamOf? c.lead.id.crew = some t ∧ t.tiles[c.w.c.n.toNat]? = some sc ∧ sc.allot = true
      ∧ (mmaOperands c t false true (some c.w.c.n.toNat)).run s = .ok (o, s))
    (fun c s =>
      let base := fun (q : Nat) => if mmaFuse c.w.mod == 3 then 32 * q else 0
      let r := mmaAll (((List.range o.ops.length).zip (o.ops.zip o.bs)).map (fun q => mmaWork c.w.mod false q.2.1 none
        (some (fun i g => (sc.table.getD (2 * g) []).getD (base q.1 + i) 0, fun j g => (sc.table.getD (2 * g + 1) []).getD (base q.1 + j) 0))
        q.2.2.columns))
      s.pushedTile c t o.srcs r.1 r.2 none)) ∧
  (∀ t o a e l, WaveRule .mmag
    (fun c s => s.teamOf? c.lead.id.crew = some t ∧ (gatherRows c t).run s = .ok ([a], s) ∧ RowAhead s c a 64 false e ∧ Unowned s
      ∧ (mmaOperands c t false false none (do let _ ← gatherRecord c t; pure ()) (gatherShape c t)).run s = .ok (o, s)
      ∧ (∀ f ∈ c.act, f.held = []) ∧ SoundL1 s (e.line a) l ∧ s.l1Line? c.core (e.line a) = some l ∧ l.valid = BitVec.allOnes 64)
    (fun c s =>
      let m := c.w.mod
      let cols := [unpackNat (4 * 2 ^ (mmaWidth m).toNat) (mmaK m) l.data.toNat]
      let mine := fun (q : Nat) => if mmaFuse m == 3 then (cols.drop (32 * q)).take 32 else cols
      let r := mmaAll (((List.range o.ops.length).zip o.ops).map (fun q => mmaWork m false q.2 none none (mine q.1)))
      (s.withL1 c.core { l with user := (s.whoOf c c.lead).user, hint := (s.whoOf c c.lead).hint }).pushedTile c t o.srcs r.1 r.2 none)) ∧
  (∀ (c : Ctx) (s : State) (t : Team) (x y z : Tile), mmaFuse c.w.mod ≠ 3 → mmaAcc16 c.w.mod = true →
    TileAt s t c.w.d.n.toNat x → TileAt s t c.w.a.n.toNat y → TileAt s t c.w.b.n.toNat z →
    x.rows = (mmaDims (mmaFuse c.w.mod)).1 → x.cols = (mmaDims (mmaFuse c.w.mod)).2 → x.width = 2 →
    y.width = mmaWidth c.w.mod → y.rows ≤ (mmaDims (mmaFuse c.w.mod)).1 → y.cols ≤ mmaK c.w.mod →
    z.width = mmaWidth c.w.mod → z.rows = y.cols → z.cols ≤ (mmaDims (mmaFuse c.w.mod)).2 →
    c.w.d.n ≠ c.w.a.n → c.w.d.n ≠ c.w.b.n →
    (mmaOperands c t false true none).run s = .ok ({ ops := [{ acc := [(c.w.d.n.toNat, x)], a := y }]
                                                     srcs := [c.w.a.n.toNat, c.w.b.n.toNat], bs := [z], metas := [] }, s)) ∧
  (∀ m : Byte, mmaDims (mmaFuse m) ∈ [(32, 128), (64, 64), (128, 32), (32, 32)] ∧ mmaK m * (4 * 2 ^ (mmaWidth m).toNat) = 512)

/-- TLU and TCHL factorise column by column and leave the pivot record, a zero pivot reported as the mode says; TTRS solves and TMV
multiplies; all enter the matrix unit (18 R392 to R397).
That a tile instruction reads and computes at issue is log 18; the zeros above the diagonal after an early stop, log 77. -/
def Obligations.Factorisations : Prop :=
  (∀ t ts, ∀ p ∈ [(Op.tlu, false), (Op.tchl, true)], WaveRule p.1
    (fun c s => s.teamOf? c.lead.id.crew = some t ∧ MatrixAt s t (modBit c.w.mod 0) c.w.d.n.toNat ts ∧ matCols ts = matRows ts ∧ matRows ts ≤ 64)
    (fun c s =>
      let n := matRows ts
      let step := if p.2 then cholStep else luStep
      let f := (List.range n).foldl (step t.pivclamp.toNat n) { a := matOf ts, perm := List.range n }
      let pv : Pivot := { perm := f.perm, zero := f.zero, n := n, clamped := f.clamped, chol := p.2 }
      s.pushedTile c t (matTiles (modBit c.w.mod 0) c.w.d.n.toNat)
        (matPut (modBit c.w.mod 0) c.w.d.n.toNat ts (if p.2 then lowerOnly f.a else f.a) (some pv)) f.flags
        (if f.zero.isSome && c.lead.zptrap then some { cause := arithZeroPivot 0 } else none))) ∧
  (∀ t ds as, WaveRule .ttrs
    (fun c s => s.teamOf? c.lead.id.crew = some t ∧ MatrixAt s t (modBit c.w.mod 3) c.w.d.n.toNat ds ∧ MatrixAt s t (modBit c.w.mod 3) c.w.a.n.toNat as
      ∧ matCols as = matRows as ∧ matRows as ≤ 64 ∧ matRows ds = matRows as ∧ matCols ds ≤ 64
      ∧ ∀ k ∈ matTiles (modBit c.w.mod 3) c.w.d.n.toNat, k ∉ matTiles (modBit c.w.mod 3) c.w.a.n.toNat)
    (fun c s =>
      let n := matRows as
      let tr := modBit c.w.mod 2
      let lower := (!(modBit c.w.mod 0)) != tr
      let el := fun i k => if tr then Mat.at (matOf as) k i else Mat.at (matOf as) i k
      let r := (if lower then List.range n else (List.range n).reverse).foldl (solveStep el (modBit c.w.mod 1) lower n) (matOf ds, 0)
      s.pushedTile c t (matTiles (modBit c.w.mod 3) c.w.a.n.toNat) (matPut (modBit c.w.mod 3) c.w.d.n.toNat ds r.1 none) r.2 none)) ∧
  (∀ t ds as bs, WaveRule .tmv
    (fun c s =>
      let pair := modBit c.w.mod 0
      s.teamOf? c.lead.id.crew = some t ∧ MatrixAt s t pair c.w.d.n.toNat ds ∧ MatrixAt s t pair c.w.a.n.toNat as ∧ MatrixAt s t pair c.w.b.n.toNat bs
      ∧ matRows as ≤ 64 ∧ matCols as ≤ 64 ∧ matRows bs = matCols as ∧ matCols bs ≤ 64 ∧ matRows ds = matRows as ∧ matCols ds = matCols bs
      ∧ ∀ k ∈ matTiles pair c.w.d.n.toNat, k ∉ matTiles pair c.w.a.n.toNat ∧ k ∉ matTiles pair c.w.b.n.toNat)
    (fun c s =>
      let pair := modBit c.w.mod 0
      let rs := ((matOf as).zip (matOf ds)).map (fun q => mulRow q.1 (matOf bs) q.2)
      s.pushedTile c t (matTiles pair c.w.a.n.toNat ++ matTiles pair c.w.b.n.toNat)
        (matPut pair c.w.d.n.toNat ds (rs.map (fun r => r.map Prod.fst)) none)
        (rs.foldl (fun w r => r.foldl (fun w x => w ||| x.2) w) 0) none))

/-! ### System instructions (19 R410, R414 to R417) -/

/-- HNOT releases and queues a notification entry, or with no ring sets COMPFAULT and interrupts; TLBI gives up the translations of its
range and scope; L2WB writes a range back; VHOLD holds a vein and releases it, at the last release with the staged hashes; HARV clears the
grants of the pages it names and counts the entries it set D in.
What VHOLD's last release of a die does (29 R490, R491): staged hashes that cover the sixteen slices once, by one vein or by two of
eight, take effect; others are discarded. A hash word keeps its MASK, SALT and EN, and an even vein is always enabled.
When HNOT completes is log 87; TLBI beyond this device, log 50; the high bits of HARV's A, log 53; what L2WB finds in the L2, log 12. -/
def Obligations.SystemResults : Prop :=
  (∀ l, WaveRule .hnot (fun c s => AllQuiet s c ∧ NoSpan s c ∧ s.launch? c.launch = some l ∧ (s.queue l.queue).nsize = 0)
    (fun _ s => (s.setQueue l.queue (fun q => { q with compFault := true })).send (.interrupt (s.queue l.queue).vec))) ∧
  (∀ l, WaveRule .hnot (fun c s => AllQuiet s c ∧ NoSpan s c ∧ s.launch? c.launch = some l ∧ (s.queue l.queue).nsize ≠ 0
      ∧ (s.queue l.queue).ntail - (s.queue l.queue).nhead + BitVec.ofNat 32 (s.queue l.queue).notes.length ≠ (s.queue l.queue).nsize)
    (fun c s => s.setQueue l.queue (fun q => { q with notes := q.notes ++ [(c.a c.lead, BitVec.ofNat 32 (CrewId.teamId c.wv.crew), l.seq)] }))) ∧
  OneRule .tlbi (fun c s x => (c.a64 x).toNat < 2 ^ 50 ∧ (c.a64 x).toNat % 32768 = 0 ∧ NoSpan s c ∧ Quiet s c.core x
      ∧ s.oldAccess { first := (c.a64 x).toNat / 32768, count := (c.b x).toNat
                      queue := if ((s.launch? c.launch).map Launch.system).getD false then none else some (s.queueOf c.launch) } = false)
    (fun _ _ x => x)
    (fun c s x => s.tlbScope { first := (c.a64 x).toNat / 32768, count := (c.b x).toNat
                               queue := if ((s.launch? c.launch).map Launch.system).getD false then none else some (s.queueOf c.launch) }
      c.core (modField c.w.mod 0 3)) ∧
  (∀ (r : TlbRange) (l : List TlbEntry) (e : TlbEntry), e ∈ r.keep l ↔ e ∈ l ∧ r.meets e.queue e.page (4096 ^ e.level) = false) ∧
  OneRule .l2wb (fun c s x => (c.a64 x).toNat + (c.b x).toNat ≤ deviceBytes ∧ (c.a64 x).toNat % 64 = 0 ∧ (c.b x).toNat % 64 = 0
      ∧ ∀ k ∈ s.mem.locks, ∀ l ∈ s.mem.codeLines k.line, ¬((c.a64 x).toNat / 64 ≤ l ∧ l < ((c.a64 x).toNat + (c.b x).toNat) / 64))
    (fun _ _ x => x) (fun c s x => s.withMem (s.mem.l2wb (c.a64 x).toNat (c.b x).toNat (modBit c.w.mod 0))) ∧
  (∀ v, OneRule .vhold (fun c s x => s.mem.veins[(c.a x).toNat]? = some v ∧ v.hash.en = true ∧ c.b x = 1 ∧ v.hold = none
      ∧ ∀ u ∈ s.mem.dieVeins ((c.a x).toNat / 2), u.token = none)
    (fun _ _ x => x)
    (fun c s x =>
      let put := fun (v : Vein) => { v with hold := some x.id }
      s.withMem { s.mem with veins := updAt s.mem.veins (c.a x).toNat put })) ∧
  (∀ v, OneRule .vhold (fun c s x => s.mem.veins[(c.a x).toNat]? = some v ∧ v.hash.en = true ∧ c.b x = 0 ∧ v.hold.isSome = true
      ∧ (s.unhold (c.a x).toNat).2 = true)
    (fun _ _ x => x) (fun c s x => (s.unhold (c.a x).toNat).1)) ∧
  (∀ v, OneRule .vhold (fun c s x => s.mem.veins[(c.a x).toNat]? = some v ∧ v.hash.en = true ∧ c.b x = 0 ∧ v.hold = none)
    (fun _ _ x => x) (fun _ s _ => s)) ∧
  OneRule .harv (fun c s x => 1 ≤ (c.b x).toNat ∧ (c.b x).toNat ≤ 2 ^ 20 ∧ (c.a64 x).toNat < 2 ^ 51 ∧ (c.a64 x).toNat % 32768 = 0
      ∧ (s.queue (s.queueOf c.launch)).ptbr.getLsbD 0 = false)
    (fun c _ x => c.putD64 x 0) (fun _ s _ => s) ∧
  (∀ leaf lv, OneRule .harv (fun c s x =>
      let page := (c.a64 x).toNat / 32768 % 2 ^ 35
      (c.b x).toNat = 1 ∧ (c.a64 x).toNat < 2 ^ 51 ∧ (c.a64 x).toNat % 32768 = 0 ∧ leaf / 2 ^ 52 % 4 = 1
        ∧ (leafOf (s.whoOf c x) page).run s = .ok (some (leaf, lv), s) ∧ (∀ fb, (leafOf (s.whoOf c x) page).run { s with fibres := fb }
          = .ok (some (leaf, lv), { s with fibres := fb })) ∧ s.mem.granted leaf page = true)
    (fun c _ x => c.putD64 x 1)
    (fun c s x =>
      let page := (c.a64 x).toNat / 32768 % 2 ^ 35
      let host := s.mem.host.setN (leaf % 2 ^ 52) 8 (s.mem.host.getN (leaf % 2 ^ 52) 8 ||| 16)
      let m : MemSys := { s.mem with host := host }
      s.withMem (m.setDir leaf (fun d => { d with grants := d.grants.filter (fun g => g != page) })))) ∧
  (∀ (v : DWord) (even : Bool), (SliceHash.ofWord even v).mask = BitVec.ofNat 16 v.toNat ∧ (SliceHash.ofWord even v).salt.toNat = v.toNat / 2 ^ 16 % 16
    ∧ (SliceHash.ofWord true v).en = true ∧ (SliceHash.ofWord false v).en = v.getLsbD 20) ∧
  (∀ (h : SliceHash) (even : Bool), (even = true → h.en = true) → SliceHash.ofWord even h.word = h) ∧
  (∀ h k : SliceHash, h.en = true → k.en = true → hashesOk [h, k] = true →
    h.mask ||| k.mask = 0xFFFF ∧ h.mask &&& k.mask = 0) ∧
  (∀ h k : SliceHash, h.en = true → k.en = false → hashesOk [h, k] = true → h.mask = 0xFFFF)

/-! ### Events (spec/95): each states when the event comes about and what it leaves -/

/-- What comes to a wave or a team: a long result is written (12 R248); a gather's data arrives, a WAITV's word or the irrevocable token
is there, and the wave issues its instruction again (08 R185; 14 R293; 06 R162); a tile instruction completes, and its deferred fault is
taken as KIND 3 instead of an issue (18 R375); a page is walked and installed, and a wait for one ends at 100 µs (28 R471, R475); a translation
that an uncorrectable error has marked raises SYS.UNCORR (32 R517).
When results arrive is log 16; which lanes of a gather, log 30; that a wave issues again, log 9; walks ahead of an access, log 13; tile
completions, log 18; destinations of ordered atomics, log 26. -/
def Obligations.WaveEvents : Prop :=
  (∀ (s : State) (f : Fibre) (p : Pend), s.fibre? s.ev.fibre = some f → f.pend[s.ev.choice]? = some p → p.ordered = none →
    s.onCore f.id.crew = true →
    let g := if p.own then f.setOwn p.dst p.vals else f.setList p.dst p.vals
    ∃ t, exec .longResultWrite s = .next t ∧ (∀ k, k ≠ f.id → t.fibre? k = s.fibre? k) ∧ t.mem = s.mem ∧ t.teams = s.teams ∧
      t.fibre? f.id = some { g with
        fpstat := fpstatOr g.fpstat p.flags, pend := f.pend.eraseIdx s.ev.choice }) ∧
  (∀ p ∈ [(Instr.gldsLaneArrival, Wait.gather, Op.glds), (.waitvSatisfied, .value, .waitv), (.irrevTokenGrant, .token, .txb),
      (.irrevTokenGrant, .token, .txo)], ∀ (s : State) (w : Wave) (x : Fields) (n : Nat),
    let u := if p.2.2 = .glds then s.arrive s.ev.wave s.ev.lanes else s
    u.wave? s.ev.wave = some w → w.wait = some p.2.1 → u.running w = true → u.inRuntime w = false → u.waveFibres w ≠ [] →
    u.fetch w = (p.2.2.instr x, n) →
    ∃ t, exec (p.2.2.instr x) { u with cur := some s.ev.wave, ilen := n } = .next t ∧ exec p.1 s = .next { t with cur := none }) ∧
  (∀ (s : State) (i : Nat) (w : Wave) (lanes : Word), s.wave? i = some w → w.wait = some .gather →
    (s.arrive i lanes).wave? i = some { w with arrived := w.arrived ||| lanes, stalled := false }) ∧
  (∀ (s : State) (o : TileOp) (t : Team), s.tileOps.find? (fun o => o.id == s.ev.op) = some o → s.team? o.launch o.team = some t →
    ∃ u, exec .matrixOpComplete s = .next u ∧ u.mem = s.mem ∧ u.tileOps = s.tileOps.filter (fun p => p.id != o.id) ∧
      u.team? o.launch o.team = some { t with tiles := o.writes.foldl (fun ts p =>
        ts.set p.1 { p.2 with poison := (p.2.poison ++ (ts.getD p.1 {}).poisonFrom p.2.size).eraseDups }) t.tiles } ∧
      u.fibres = s.fibres.map (fun f => if o.fibres.contains f.id then
        { f with fpstat := fpstatOr f.fpstat o.flags
                 dues := f.dues ++ (match o.fault with
                   | some d => [({ d with kind := 3, info0 := o.pc }, Resume.atPc)]
                   | none => []) } else f)) ∧
  (∀ (s : State) (w : Wave) (f : Fibre) (l : Launch) (o : Object) (d : Due), s.wave? s.ev.wave = some w → s.ready w = true →
    s.waveFibres w = [f] → f.dues = [(d, .atPc)] → d.kind = 3 → (∀ op, s.opAt w = some op → s.duesAt op w.crew.launch [f] f.pc ≠ []) →
    w.reissue = false → s.Calm → Trappable s w [f] l o →
    Ends (exec .deferredTileFault s) s [f] (fun g => ({ g with dues := [] } : Fibre).enter l o.ringed w.meet g.pc d .atPc) (s.withdraw w.id)) ∧
  (∀ (s : State) (w : Wave), s.wave? s.ev.wave = some w → w.wait = some .walk → w.since + 10000 ≤ s.rtime →
    ∃ t, exec .walkWaitTimeout s = .next t ∧ t.wave? w.id = some { w with stalled := false } ∧ t.mem = s.mem ∧
      ∀ f ∈ s.waveFibres w, t.fibre? f.id = some { f with walkTimeout := true }) ∧
  (∀ (s t : State) (e : TlbEntry), s.ev.val.toNat < 2 ^ 50 →
    (walk { coreWho s s.ev.core 0 with queue := s.ev.queue } s.ev.val s.ev.write).run s = .ok (e, t) →
    exec .pageWalk s = .next t.dropAnswers.wake ∧ e.hits s.ev.queue (pageOf s.ev.val) = true ∧ (s.ev.write = true → e.w = true) ∧
      (s.ev.core < t.cores.length → e ∈ (t.core s.ev.core).tlb)) ∧
  (∀ (s : State) (who : Who) (va : DWord) (write : Bool) (e : TlbEntry), va.toNat < 2 ^ 51 → who.engine = false →
    (s.core who.core).tlb.find? (fun e => e.hits who.queue (pageOf va) && (!write || e.w)) = some e → e.poison = true →
    ∃ d, (translate who va write).run s = .error (.trap d) ∧ d.cause = sysUncorr ∧ d.addr = va)

/-- Ordered rounds (07 R176 to R183): an entry arrives; a drainer whose teams have all ended the round sends its marker; when every
marker and entry is there the round closes: its entries are applied, a destination receives the old value, and the next round is open.
Up to 16 entries of a line are applied in the order of their keys.
That a destination pends until the close, also while its gang is away, is log 26; entries with equal keys, log 102. -/
def Obligations.RoundEvents : Prop :=
  (∀ (s : State) (e : Entry), e ∈ s.entries → e.id = s.ev.op →
    ∃ t, exec .cartEntryArrival s = .next t ∧ { e with arrived := true } ∈ t.entries ∧ t = { s with entries := t.entries }) ∧
  (∀ (s : State) (l : Launch), s.launch? s.ev.launch = some l → s.ev.team < l.drainers → l.markersOf s.ev.team ≤ l.closed →
    (∀ t ∈ l.drainerTeams s.ev.team, s.teamEnded l t l.closed = true) →
    exec .drainerMarker s = .next (s.setLaunch { l with markers := (s.ev.team, l.closed + 1) :: l.markers.filter (fun p => p.1 != s.ev.team) })) ∧
  (∀ (s : State) (l : Launch), s.launch? s.ev.launch = some l → (l.markers.filter (fun p => l.closed < p.2)).length = l.drainers →
    s.roundEntries l = [] →
    ∃ t, exec .roundClose s = .next t ∧ t.launch? l.id = some { l with closed := l.closed + 1 } ∧ t.mem = s.mem ∧ t.fibres = s.fibres) ∧
  (∀ (s : State) (l : Launch) (e : Entry) (f : Fibre), s.launch? s.ev.launch = some l →
    (l.markers.filter (fun p => l.closed < p.2)).length = l.drainers → s.roundEntries l = [e] → e.arrived = true →
    s.fibre? e.fibre = some f → AtHome s (coreWho s 0 l.id).fibre (e.pa / 64) →
    let old := lineBytes (s.mem.l2Fill (e.pa / 64)).1.data (e.pa % 64) e.op.bytes
    ∃ t, exec .roundClose s = .next t ∧ t.launch? l.id = some { l with closed := l.closed + 1 } ∧ (∀ x ∈ t.entries, x ∈ s.entries ∧ x ≠ e) ∧
      t.fibre? f.id = some (if e.dest then { f with pend := f.pend.map (fun p =>
        if p.ordered = some e.id then { p with vals := words (e.op.bytes / 4) old, ordered := none } else p) } else f) ∧
      t.mem = (match e.op.new old with
        | some v => ((s.mem.l2Fill (e.pa / 64)).2.l2Write (e.pa / 64) (byteMask (e.pa % 64) e.op.bytes)
            (lineOf (e.pa % 64) e.op.bytes v)).grant e.leaf (pageOf e.va)
        | none => (s.mem.l2Fill (e.pa / 64)).2)) ∧
  (∀ es : List Entry, es.length ≤ 16 → (lineOrder es).Pairwise (fun a b => a.key.toNat ≤ b.key.toNat) ∧ (lineOrder es).Perm es)

/-- An engine operation that may run, by its event: its team, and what its next fill puts into its buffer. -/
abbrev EngineRuns (s : State) (k : EngKind) (o : EngOp) (t : Team) (f : Fill) (u : State) (tm : Team) : Prop :=
  s.ops.find? (fun o => o.id == s.ev.op && o.kind == k) = some o ∧ s.runner o = some t
    ∧ (fillOf t o ((t.handle o.handle).size.toNat * 16)).run s = .ok (f, u) ∧ u.team? o.launch o.team = some tm
    ∧ o.handle < tm.handles.length

/-- A team after a fill: the bytes are in its scratchpad, behind those that a copy has delivered of it before, and the handle is FULL with
the count of all (03 R83; 17 R353). -/
abbrev Filled (x tm : Team) (h : Handle) (n part : Nat) (pause : Bool) (f : Fill) : Prop :=
  x.handle n = { h with state := .full, paused := pause, status := f.status, count := part + f.data.length }
    ∧ x.sp = tm.sp.setBytes (h.base.toNat * 16 + part) (f.data.take (min f.data.length (tm.spSize - (h.base.toNat * 16 + part))))

/-- Engine operations end, or pause with a full buffer (03 R83; 17 R356, R357; 08 R191 to R194; 09 R209; 10 R219): the bytes of the fill
are in the buffer, and the handle is FULL with their count and the status; a paused operation stays with the rest of its stream. A
stream longer than the buffer is cut at the buffer's size, and records that fill it exactly pause an ISECT or MERGE that still reads on
(08 R191). A copy may deliver its bytes in parts (04 R101, R115), and HREH does one row at a
time: both keep their place in their unit, ahead of what program order puts behind them; operations of other gangs may come between (10
R212). ISECT and MERGE of one element
each deliver the records of 08 R192.
CTXS, CTXR and MIGR end (19 R418 to R420): the handle is FULL with a record of 16 bytes that counts the bytes moved; CTXS leaves its
gang held and CTXR, of an image whose check word holds, leaves it pre-empted, of any other gives
SCHED.CTXBAD; MIGR marks its page first, and then moves it. A gang that no launch has gives SCHED.NOGANG.
When an operation reads and writes is log 19; what the context moves do after an error, log 84; images of earlier saves and changed flags,
log 94. -/
def Obligations.EngineEnds : Prop :=
  (∀ p ∈ [(EngKind.tcopy, Instr.tcopyEnd), (.icopy, .icopyEnd), (.isect, .isectEnd), (.merge, .mergeEnd), (.nbin, .nbinEnd),
      (.npair, .npairEnd), (.nfix, .nfixEnd), (.hcfg, .hcfgEnd), (.hprobe, .hprobeEnd), (.hins, .hinsEnd), (.hdel, .hdelEnd),
      (.hreh, .hrehEnd)], ∀ (s : State) (o : EngOp) (t : Team) (f : Fill) (u : State) (tm : Team),
    EngineRuns s p.1 o t f u tm → f.paused = none → f.again = none →
    ∃ v x, exec p.2 s = .next v ∧ (∀ q ∈ v.ops, q.id ≠ o.id) ∧ v.team? o.launch o.team = some x ∧ Filled x tm (t.handle o.handle) o.handle o.part false f) ∧
  (∀ (k : EngKind) (s : State) (o : EngOp) (t : Team) (f : Fill) (u : State) (tm : Team) (q : EngOp),
    s.ops.find? (fun o => o.id == s.ev.op && o.kind.delivers) = some o → EngineRuns s k o t f u tm → f.paused = some q → f.again = none →
    q.id = o.id →
    ∃ v x, exec .engineBufferPause s = .next v ∧ v.ops = u.ops.map (fun p => if p.id == q.id then { q with since := none } else p) ∧
      v.team? o.launch o.team = some x ∧ Filled x tm (t.handle o.handle) o.handle o.part true f) ∧
  (∀ (o : EngOp) (size : Nat) (bs : List Byte) (e : Cause), size < bs.length →
    (cutFill o size (bs, e)).data = bs.take size ∧ (cutFill o size (bs, e)).paused = some { o with out := some (bs.drop size, e) }) ∧
  (∀ p ∈ [(EngKind.tcopy, Instr.tcopyEnd), (.icopy, .icopyEnd), (.hreh, .hrehEnd)], ∀ (s : State) (o : EngOp) (t : Team) (f : Fill) (u : State)
    (tm : Team) (q : EngOp), EngineRuns s p.1 o t f u tm → f.paused = none → f.again = some q →
    exec p.2 s = .next (((if f.data.isEmpty then u else u.setTeam (tm.deliver (t.handle o.handle) o.part f.data)).takeTurn q
      (s.ev.choice % 2 == 1)).wake)) ∧
  (∀ (s : State) (pre post : List EngOp) (o p q : EngOp) (yields : Bool), s.ops = pre ++ o :: q :: post → o.id = p.id → (∀ x ∈ pre, x.id ≠ p.id) →
    s.sameUnit q p = true →
    (yields = false ∨ (q.launch = p.launch ∧ s.gangOf q.launch q.team = s.gangOf p.launch p.team) →
      (s.takeTurn p yields).ops = pre ++ { p with since := none } :: q :: post) ∧
    (yields = true → s.heldBack q = false → q.launch ≠ p.launch ∨ s.gangOf q.launch q.team ≠ s.gangOf p.launch p.team → post = [] →
      (s.takeTurn p yields).ops = pre ++ [q, { p with since := none }])) ∧
  (∀ (o : EngOp) (size : Nat) (bs : List Byte) (e : Cause), size = bs.length → o.late = true → o.kind = .isect ∨ o.kind = .merge →
    (cutFill o size (bs, e)).data = bs ∧ (cutFill o size (bs, e)).paused = some { o with out := some ([], e) }) ∧
  (∀ (o : EngOp) (size : Nat) (bs : List Byte), bs.length ≤ size → o.late = false →
    (cutFill o size (bs, 0)).data = bs ∧ (cutFill o size (bs, 0)).paused = none ∧ (cutFill o size (bs, 0)).status = 0) ∧
  (∀ (s : State) (o : EngOp) (x y : Nat), o.c = 1 → o.d = 1 → (engRead o o.a 4).run s = .ok (x, s) → (engRead o o.b 4).run s = .ok (y, s) →
    let record := fun (v i j tag : Nat) => leBytes 4 v ++ leBytes 4 i ++ leBytes 4 j ++ leBytes 4 tag
    let merged := if x = y then record x 0 0 3
      else if x < y then record x 0 0xFFFFFFFF 1 ++ record y 0xFFFFFFFF 0 2 else record y 0xFFFFFFFF 0 2 ++ record x 0 0xFFFFFFFF 1
    let met := if x = y then record x 0 0 3 else []
    (o.kind = .merge → (runStreams o).run s = .ok (((merged, 0), false), s)) ∧
      (o.kind = .isect → (runStreams o).run s = .ok (((met, 0), decide (x ≠ y)), s))) ∧
  (∀ (t : State) (o : EngOp) (n : Nat) (tm : Team), t.team? o.launch o.team = some tm → o.handle < tm.handles.length →
    ∃ x, (t.endWith o (.ok n)).team? o.launch o.team = some x ∧ (∀ q ∈ (t.endWith o (.ok n)).ops, q.id ≠ o.id) ∧
      Filled x tm (tm.handle o.handle) o.handle 0 false { data := leBytes 8 n ++ leBytes 8 0 }) ∧
  (∀ (s : State) (o : EngOp) (l : Launch) (x : Object) (g : Gang), s.opOf .ctxs = some o → s.namedGang o.block = some (l, x, g) →
    ¬(l.id = o.launch ∧ g.id = s.gangOf o.launch o.team) → g.state = .preempted ∨ g.state = .held →
    ∀ (h : Gang) (n : Nat) (t : State), (s.hold g).gang? l.id g.id = some h → (copyOutImage o l x h).run (s.hold g) = .ok (n, t) →
    h = { g with state := .held } ∧ exec .ctxsEnd s = .next (t.endWith o (.ok n)) ∧ n = x.gangBytes ∧
      (∀ k, t.gang? l.id g.id = some k → k.state = .held)) ∧
  (∀ (s t : State) (o : EngOp) (l : Launch) (x : Object) (g : Gang) (b : List Byte), s.opOf .ctxr = some o →
    s.namedGang o.block = some (l, x, g) → g.state = .held →
    (loadBytes (s.whoEngine o) (contextAt o.block) x.gangBytes .engine).run s = .ok (b, t) →
    if checkImage x l.gang b = true then
      ∀ u, (writeImage (t.gangWho o l) (imageAt l x g.id) b).run t = .ok ((), u) →
        exec .ctxrEnd s = .next ((u.setGang { g with state := .preempted }).endWith o (.ok x.gangBytes)).movePointers
    else exec .ctxrEnd s = .next (s.endWith o (.error (schedC 16))).movePointers) ∧
  (∀ (s t : State) (o p : EngOp), s.opOf .migr = some o → o.idx = [] → (migMark o).run s = .ok (p, t) →
    exec .migrEnd s = .next (t.setOp p) ∧ p.idx.length = 2) ∧
  (∀ (s t : State) (o : EngOp) (leaf y n : Nat), s.opOf .migr = some o → o.idx = [leaf, y] → s.oldAccess (s.migRange o) = false →
    (migMove o leaf y).run s = .ok (n, t) → exec .migrEnd s = .next ((t.endWith o (.ok n)).unmark o y) ∧ n = migSize o.block) ∧
  (∀ p ∈ [(EngKind.ctxs, Instr.ctxsEnd), (.ctxr, .ctxrEnd)], ∀ (s : State) (o : EngOp), s.opOf p.1 = some o → s.namedGang o.block = none →
    (∃ t, exec p.2 s = .next t ∧ ∀ tm, s.team? o.launch o.team = some tm → o.handle < tm.handles.length →
      (t.team? o.launch o.team).map (fun x => x.handle o.handle)
        = some { tm.handle o.handle with state := .full, paused := false, status := schedC 9, count := 0 }))

/-- Forwarded accesses (03 R93, R94; 04 R127; 31 R510; 32 R514): as owner, the device performs a read, a write or an atomic at the home
slice and answers; an access outside device memory freezes the peers' master and is refused; a message of a stale incarnation is dropped
and counted. As issuer, it keeps the answer of a load for its wave, and an acknowledged store is out no more; a refused store leaves the
fibre a delayed fault of KIND 2 that cancels the releases behind it, and no other (log 65); INFO1 has the PC of the first of them, refused ones included.
What peers bring is log 15; that a message is one piece, log 40; a peer's access outside device memory, log 48; how accesses are counted,
log 49; several releases and refused stores, log 65; who is frozen and what is sent, log 95. -/
def Obligations.ForwardedAccesses : Prop :=
  (∀ (s : State) (a : PeerAccess), s.fabric.linked = true → s.ev.access = a → s.accepts a.source a.inc = true → s.isFrozen 2 = false →
    inDevice (a.pa % 2 ^ 52) a.bytes = true → a.pa < 2 ^ 52 → a.pa % 64 + a.bytes ≤ 64 → AtHome s (coreWho s 0 0).fibre (a.pa / 64) →
    let m := (s.mem.l2Fill (a.pa / 64)).2
    let old := fun (n : Nat) => lineBytes (s.mem.l2Fill (a.pa / 64)).1.data (a.pa % 64) n
    (a.op = .read → exec .forwardedAccessReceive s
      = .next ((s.withMem m).send (.reply a.source (.data (BitVec.ofNat 512 (old a.bytes))))).wake) ∧
    (∀ mask v, a.op = .write mask v → exec .forwardedAccessReceive s
      = .next ((s.withMem (s.mem.l2Write (a.pa / 64) (mask <<< (a.pa % 64)) (v <<< (8 * (a.pa % 64))))).send (.reply a.source .ack)).wake) ∧
    (∀ op ty v, a.op = .intAtomic op ty v →
      let e := EntryOp.int op.toNat ty.toNat v
      exec .forwardedAccessReceive s = .next ((s.withMem (match e.new (old e.bytes) with
        | some v => m.l2Write (a.pa / 64) (byteMask (a.pa % 64) e.bytes) (lineOf (a.pa % 64) e.bytes v)
        | none => m)).send (.reply a.source (.data (BitVec.ofNat 512 (old e.bytes))))).wake)) ∧
  (∀ s : State, s.fabric.linked = true → s.fabric.go = true → s.accepts s.ev.access.source s.ev.access.inc = true → s.isFrozen 2 = false →
    s.service.frozen ||| 4#4 ≠ BitVec.allOnes 4 → inDevice (s.ev.access.pa % 2 ^ 52) s.ev.access.bytes = false →
    ∃ t, exec .forwardedAccessReceive s = .next t ∧ t.mem = s.mem ∧ t.isFrozen 2 = true ∧ t.sent = .reply s.ev.access.source .frozen :: s.sent) ∧
  (∀ s : State, s.fabric.linked = true → s.accepts s.ev.access.source s.ev.access.inc = false →
    exec .forwardedAccessReceive s = .next { s with fabric := { s.fabric with
      dropInc := if s.fabric.dropInc = 0xFFFFFFFF then 0xFFFFFFFF else s.fabric.dropInc + 1 } }) ∧
  (∀ (s : State) (r : Fwd), s.fabric.linked = true → s.fwds.find? (fun r => r.id == s.ev.req) = some r → s.accepts r.dev s.ev.word = true →
    r.reply = none → r.dead = false → r.posted = false → r.acc = none →
    ∃ t, exec .forwardedResponse s = .next t ∧ t.mem = s.mem ∧ t.fibres = s.fibres ∧
      t.fwds = s.fwds.map (fun q => if q.id == r.id then { q with reply := some s.ev.reply } else q)) ∧
  (∀ (s : State) (r : Fwd), s.fabric.linked = true → s.fwds.find? (fun r => r.id == s.ev.req) = some r → s.accepts r.dev s.ev.word = true →
    r.reply = none → r.dead = false → r.posted = true → s.ev.reply = .ack → (∀ f, s.fibre? r.fibre = some f → f.held = []) → s.left = [] →
    ∃ t, exec .forwardedResponse s = .next t ∧ t.mem = s.mem ∧ t.fibres = s.fibres ∧ t.fwds = s.fwds.filter (fun q => q.id != r.id)) ∧
  (∀ (s : State) (r : Fwd) (f : Fibre), s.fabric.linked = true → s.fwds.find? (fun r => r.id == s.ev.req) = some r →
    s.accepts r.dev s.ev.word = true → r.posted = true → r.dead = false → r.assay = false → s.fibre? r.fibre = some f → s.left = [] →
    let rel := f.held.filter (fun h => h.behind.contains r.id)
    let kept := f.held.filter (fun h => !h.behind.contains r.id)
    (∀ h, kept.head? = some h → ∃ k ∈ h.behind, ∃ q ∈ s.fwds, q.posted = true ∧ q.id = k ∧ q.id ≠ r.id) →
    ∀ p ∈ [(Reply.nak, memRemoteNak), (.frozen, memFrozen), (.uncorr, sysUncorr)], s.ev.reply = p.1 →
    ∃ t, exec .remoteStoreRefusal s = .next t ∧ t.mem = s.mem ∧ t.fwds = s.fwds.filter (fun q => q.id != r.id) ∧
      t.fibre? f.id = some { f with held := kept, dues := f.dues ++
        [({ cause := p.2, kind := 2, addr := r.va, info0 := r.pc, info1 := f.releasePc r.id }, .stores r.stored rel)] }) ∧
  (∀ (f : Fibre) (id : Nat), (∀ h ∈ f.late, id ∉ h.behind) → f.releasePc id = 0) ∧
  (∀ (f : Fibre) (id : Nat) (h : LateStore), h ∈ f.late → id ∈ h.behind → (∀ g ∈ f.late, g = h ∨ h.id < g.id ∨ id ∉ g.behind) →
    f.releasePc id = h.pc)

/-- The runtime that firmware supplies (28 R481, R482): a trapped fibre's record of 64 bytes is written at FTAIL with MARK last, FTAIL
advances and the vector is raised; then the fibre waits. The driver's answer lets it go on as at ERET, ends it, or ends its launch with
the record's cause. A write of the record that fails stops the ring.
That the runtime's behaviour is native is log 8; records without a fibre and late answers, log 59; how FACK's release acts, log 60. -/
def Obligations.FaultRing : Prop :=
  let toldBy := fun (s : State) (f : Fibre) (r : InTrap) (k : Word) (c : Cause) (w : Wave) =>
    s.isFrozen 0 = false ∧ s.ev.word = k ∧ s.ring.open_.find? (fun p => p.1 == k) = some (k, f.id, c) ∧ s.ring.kept = []
      ∧ s.fibre? f.id = some f ∧ f.inTrap = some r ∧ r.runtime = .waiting k ∧ s.resident f.id = true
      ∧ s.waves.find? (fun w => w.crew == f.id.crew && w.home == f.home && w.lanes.getLsbD f.lane) = some w ∧ s.waveFibres w = [f]
      ∧ w.reissue = false ∧ s.Calm
  (∀ (s : State) (f : Fibre) (l : Launch) (r : InTrap), s.fibre? s.ev.fibre = some f → s.launch? f.id.crew.launch = some l →
    f.inTrap = some r → r.runtime = .toWrite → s.resident f.id = true → s.ring.room = true → hostReach s s.ring.slotAt 64 = true →
    s.ev.fails = false → l.span = none → Quiet s (s.coreOf f.id.crew) f →
    ∃ t, exec .faultRingWrite s = .next t ∧ t.mem = (hostWrite s s.ring.slotAt (faultRecord l f s.ring.tail)).mem ∧
      t.ring = { s.ring with tail := s.ring.tail + 1, open_ := s.ring.open_ ++ [(s.ring.tail, f.id, f.trap.cause)] } ∧
      t.fibre? f.id = some { f with inTrap := some { r with runtime := .waiting s.ring.tail } } ∧
      t.sent = .interrupt s.ring.vec :: s.sent) ∧
  (∀ (s : State) (f : Fibre) (l : Launch) (r : InTrap), s.fibre? s.ev.fibre = some f → s.launch? f.id.crew.launch = some l →
    f.inTrap = some r → r.runtime = .toWrite → s.resident f.id = true → s.ring.room = true → hostReach s s.ring.slotAt 64 = true →
    s.ev.fails = true →
    exec .faultRingWrite s = .next { s with ring := { s.ring with en := false, wfault := true }, sent := .interrupt s.ring.vec :: s.sent }) ∧
  (∀ (l : Launch) (f : Fibre) (k : Word), l.queue < 256 →
    let b := faultRecord l f k
    b.length = 64 ∧ field b 0 8 = f.trap.addr.toNat ∧ field b 8 4 = f.trap.cause.toNat + 2 ^ 9 * f.trap.kind.toNat + 2 ^ 12 * f.trap.lane.toNat
      ∧ field b 12 4 = f.trap.pc.toNat ∧ field b 16 4 = f.trap.info0.toNat ∧ field b 20 4 = f.trap.info1.toNat
      ∧ field b 24 4 = l.seq.toNat ∧ field b 28 1 = l.queue ∧ field b 60 4 = (~~~ k).toNat) ∧
  (∀ (s : State) (f : Fibre) (r : InTrap) (k : Word) (c : Cause) (w : Wave), toldBy s f r k c w → r.resume = .atPc → f.pend = [] →
    ∃ t g, exec .fackResume s = .next t ∧ t.fibre? f.id = some g ∧ g.inTrap = none ∧ g.pc = f.trap.pc ∧ g.obj = r.obj ∧ g.regs = f.regs ∧
      t.ring.kept = []) ∧
  (∀ (s : State) (f : Fibre) (r : InTrap) (k : Word) (c : Cause) (w : Wave), toldBy s f r k c w → f.isItem = false → f.dues = [] → f.held = [] →
    (∀ q ∈ s.fwds, q.posted = false ∨ q.fibre ≠ f.id) →
    ∃ t, exec .fackEnd s = .next t ∧ t.fibre? f.id = none ∧ t.ring.kept = []) ∧
  (∀ (s : State) (f : Fibre) (r : InTrap) (k : Word) (c : Cause) (w : Wave) (l : Launch), toldBy s f r k c w →
    s.launch? f.id.crew.launch = some l →
    ∃ t, exec .fackAbort s = .next t ∧ (t.launch? l.id).map Launch.ending = some true ∧
      (t.launch? l.id).map Launch.status = some (if l.status = 0 then c else l.status)) ∧
  (∀ s : State, s.isFrozen 0 = true → ∀ i ∈ [Instr.fackResume, .fackEnd, .fackAbort], exec i s = .next (s.send .unsupported))

/-- Placement and pre-emption (02 R46 to R53, R63; 01 R34, R35; 28 R484 to R486): a pass visits the queue at its class's pointer and, with
a positive deficit, places a gang of it; a placed gang has its prologue allotment and every fibre of its crews at the kernel's entry; a
gang starts on clean L1s; the gang pre-empted is of the lowest class, and there the latest placed, and it leaves its image; a
restored gang takes up what the image's laid-out fields hold, which are those that were saved; an image whose check word fails leaves
it pre-empted, as old as it was; a queue left without a gang to place has no deficit, and what its teams in flight still owe is waived.
Which fitting position is taken is log 31; the smallest set to pre-empt, log 57; that a pass serves one class, log 88; scratchpad at
placement, log 6; window blocks, log 28; images' own bytes, log 32, flags and earlier saves, log 94. -/
def Obligations.PlacementEvents : Prop :=
  (∀ (s t : State), (s.movePointers).visits 2097216 0 s.ev.choice = t → (∀ l ∈ t.launches, l.sump = []) →
    ∃ u, exec .placementPass s = .next u ∧ u.gangs = t.gangs ∧ u.teams = t.idleQueues.teams ∧ u.fibres = t.fibres ∧ u.mem = t.mem) ∧
  (∀ (s : State) (q : Nat), q < 64 → s.holdsGang q = false → (s.idleQueues.queue q).deficit = 0 ∧
    (∀ t ∈ s.idleQueues.teams, t.core < 512 → s.queueOf t.launch = q → t.waived = true)) ∧
  (∀ (s t : State) (q c n idle choice rest : Nat), s.topClass = some c → firstFrom (s.readyOf c) (s.pointers.getD c 0) = some q →
    0 < (s.queue q).deficit → idle < (s.readyOf c).length →
    ({ s with pointers := updAt s.pointers c (fun _ => (q + 1) % 64) } : State).placeOne q choice = some (t, rest) →
    s.visits (n + 1) idle choice = (t.clearDeficit q).visits n 0 rest) ∧
  (∀ (s t : State) (l : Launch) (o : Object) (gang choice rest : Nat), l.fuse = false → s.placeGang l o gang choice = some (t, rest) →
    t.fibres = s.fibres ++ (gangIds l gang).flatMap (fun id => (List.range o.crews).flatMap (fun k => (List.range o.fibres).map (fun i =>
      { id := ⟨.team l.id id k, i⟩, pc := 0, obj := l.obj, regs := (List.replicate o.wpro 0).set 0 1 }))) ∧
    (∃ n, t.gangs = s.gangs ++ [{ launch := l.id, id := gang, state := .placed, stamp := n }]) ∧ t.mem = s.mem) ∧
  (∀ (l : Launch) (o : Object) (id : Nat),
    (newTeam l o id).window = o.wpro ∧ (newTeam l o id).spSize = 4096 ∧ (newTeam l o id).acq = .none ∧ (newTeam l o id).wdog = l.wdog ∧
    (∀ x ∈ (newTeam l o id).tiles, x.allot = false) ∧
    (∀ k, k < 32 → ((newTeam l o id).handle k).allot = decide (k < 2))) ∧
  (∀ (s : State) (g : Gang) (l : Launch) (o : Object), s.gang? s.ev.launch s.ev.gang = some g → g.state = .placed →
    s.launch? g.launch = some l → s.object? l.obj = some o → (o.aflush = true → l.nextGang = l.gangs) →
    ∃ t, exec .gangStartEdge s = .next t ∧ t.gang? g.launch g.id = some { g with state := .started } ∧ t.mem = s.mem ∧ t.fibres = s.fibres ∧
      ∀ u ∈ s.gangTeams g.launch g.id, ∀ k ∈ s.l1Cores u.core, ∀ x ∈ (t.core k).l1, x.valid = x.dirty) ∧
  (∀ (s t : State) (g : Gang) (l : Launch) (o : Object) (e : Option Cause), s.nextVictim = some g → g.launch = s.ev.launch → g.id = s.ev.gang →
    s.launch? g.launch = some l → s.object? l.obj = some o → (s.settle l.id g.id).settled l.id g.id = true →
    (saveGang l o g false).run (s.settle l.id g.id) = .ok (e, t) →
    exec .gangPreempt s = .next t.dropAnswers.wake ∧
      ∀ h, t.gang? l.id g.id = some h → (e = none ∧ h.state = .preempted) ∨ h.leaving.isSome = true) ∧
  (∀ (s : State) (g : Gang), s.nextVictim = some g →
    let cls := fun (h : Gang) => (s.queue (s.queueOf h.launch)).cls.toNat
    ∃ c, s.topClass = some c ∧ cls g < c ∧ g ∈ s.gangs ∧ ∀ h ∈ s.gangs, h.state = .placed ∨ h.state = .started → h.leaving = none →
      cls h < c → cls g < cls h ∨ (cls g = cls h ∧ h.stamp ≤ g.stamp)) ∧
  (∀ (s t : State) (g : Gang) (l : Launch) (o : Object) (b : List Byte), s.gang? s.ev.launch s.ev.gang = some g →
    s.launch? s.ev.launch = some l → s.object? l.obj = some o → g.state = .restoring → g.leaving = none →
    (loadBytes (s.whoSaver g) (imageAt l o g.id) o.gangBytes .engine).run s = .ok (b, t) →
    (if checkImage o l.gang b = true then exec .gangRestore s = .next (t.resume l o g b).dropAnswers.wake
      else ∀ u, (leaveL1 l.id g.id).run t = .ok ((), u) → exec .gangRestore s = .next (u.unseat g).dropAnswers.wake) ∧
    (t.ring.kept = [] → ∀ h, (t.resume l o g b).gang? g.launch g.id = some h → h.state = .started) ∧
    ∀ (u : State) h, (u.unseat g).gang? g.launch g.id = some h → h.state = .preempted ∧ h.stamp = g.was) ∧
  (∀ (o : Object) (save off : Nat) (f : Fibre),
    let b := (fibreImage o save off (some f)).map ImageByte.byte
    let g := f.ofImage b
    recordLive b = true ∧ g.pc = f.pc ∧ g.fpmode = f.fpmode &&& 0x1F ∧ g.fpstat = f.fpstat &&& 0xFF ∧ g.srCtr = f.srCtr ∧
    g.trap.pc = f.trap.pc ∧ g.trap.addr = f.trap.addr ∧ g.trap.info0 = f.trap.info0 ∧ g.inTrap = f.inTrap ∧ g.obj = f.obj)

/-- What ends a gang or a launch, and what runs by time (01 R24, R26; 02 R47, R58, R60, R62, R64, R66, R67; 04 R122, R126; 08 R200; 11 R231,
R232): a gang whose teams have finished retires; a deadline ends a launch with SYS.DEADLINE, an Assay deadline its gang without a cause; the
scores of a core halve; a watchdog that expires stops and is due in every fibre; items that may start begin together with their arguments,
and one that conflicts with its spawner or with an earlier one of its vein may not (04 R126). A TST that is storing to a peer is finished
first (11 R232).
What a retirement and a deadline wait for is log 58; from when scores halve, log 68; a write of 0 to the watchdog, log 82; a debugger's
halt, log 25. -/
def Obligations.TimeEvents : Prop :=
  (∀ (s : State) (g : Gang) (l : Launch), s.gang? s.ev.launch s.ev.gang = some g → s.launch? g.launch = some l → s.gangDone g = true →
    (∀ t ∈ s.gangTeams g.launch g.id, t.sup = none) →
    (∀ k ∈ s.gangCores g.launch g.id, (s.core k).fused = none ∧ ∀ x ∈ (s.core k).l1, x.dirty = 0) →
    ∃ t, exec .teamRetire s = .next t ∧ t.gang? g.launch g.id = none ∧ (∀ u ∈ t.teams, ¬(u.launch = g.launch ∧ s.gangOf g.launch u.id = g.id)) ∧
      (t.launch? l.id).map Launch.retired = some (l.retired + (s.gangTeams g.launch g.id).length) ∧ t.mem = s.mem ∧ t.fibres = s.fibres) ∧
  (∀ (s : State) (l : Launch), s.launch? s.ev.launch = some l → l.ending = false → l.deadline ≠ 0 → l.deadline.toNat ≤ s.rtime →
    ∃ t, exec .launchDeadline s = .next t ∧ (∀ e ∈ t.entries, e.launch ≠ l.id) ∧ (t.launch? l.id).map Launch.ending = some true ∧
      (t.launch? l.id).map Launch.status = some (if l.status = 0 then cause 0x160 2 else l.status)) ∧
  (∀ (s : State) (t : Team) (g : Gang) (u : Supervision), s.team? s.ev.launch s.ev.team = some t →
    s.gang? s.ev.launch (s.gangOf s.ev.launch s.ev.team) = some g → t.sup = some u → s.teamDone t = false → g.leaving = none → u.deadline ≠ 0 →
    u.deadline.toNat ≤ s.rtime →
    let outcome := if u.marks = 0 then 3
      else if s.tileOps.any (fun o => o.launch == t.launch && o.team == t.id) || !(s.tilesStoring t []).isEmpty then 2 else 1
    ∃ v, exec .assayDeadline s = .next v ∧ v.gang? g.launch g.id = some { g with leaving := some 0 } ∧
      (∃ w, v.team? t.launch t.id = some { t with outcome := outcome, waived := w }) ∧
      ∀ f ∈ v.fibres, ∀ i k, f.id.crew = .team g.launch i k → s.gangOf g.launch i = g.id →
        ∃ w ∈ s.waves, s.storesTile w = true ∧ w.crew = f.id.crew ∧ w.home = f.home ∧ w.lanes.getLsbD f.lane = true) ∧
  (∀ s : State, s.ev.core < 512 → s.ev.core < s.cores.length →
    ((s.core s.ev.core).halved + 1) * 1024 ≤ s.clk.cycles.getD (dieOf s.ev.core) 0 →
    ∃ t, exec .scoreHalving s = .next t ∧ (t.core s.ev.core).halved = (s.core s.ev.core).halved + 1 ∧ t.mem = s.mem ∧
      t.teams = s.teams.map (fun t => if t.core == s.ev.core then
        Team.throttle { t with scores := (t.scores.map (fun p => (p.1, p.2 / 2))).filter (fun p => p.2 != 0) } else t)) ∧
  (∀ (s : State) (t : Team), s.team? s.ev.launch s.ev.team = some t → t.wdog ≠ 0 → t.wdog ≤ t.spent →
    ∃ u, exec .watchdogExpiry s = .next u ∧ u.team? t.launch t.id = some { t with wdog := 0, spent := 0 } ∧ u.mem = s.mem ∧
      ∀ f ∈ s.fibres, ∀ k, f.id.crew = .team t.launch t.id k →
        { f with dues := f.dues ++ [({ cause := cause 0x160 0, kind := 6 }, .atPc)] } ∈ u.fibres) ∧
  (∀ (s : State) (i : ItemCrew) (h : Nat) (slots : List Nat) (xs : List Item), s.pack s.ev.core s.ev.choice = some (i, h, slots, xs) →
    s.owes i.launch = false →
    ∃ t, exec .itemPlacement s = .next t ∧ t.mem = s.mem ∧
      t.fibres = s.fibres ++ (slots.zip xs).map (fun p => itemFibre i p.1 (((s.launch? i.launch).map Launch.obj).getD 0) p.2) ∧
      (∀ x ∈ xs, s.startable x = true ∧ x.launch = (xs.headD x).launch ∧ x.pcoff = (xs.headD x).pcoff) ∧ xs.length ≤ 32 ∧
      ∀ c ∈ t.cores, ∀ y ∈ c.items, ∀ x ∈ xs, y.id ≠ x.id) ∧
  (∀ (s : State) (i j : Item), j ∈ s.liveItems i.launch → j.id ≠ i.id → j.conflicts i = true → i.parent = some j.id ∨ (j.vein = i.vein ∧ j.before i = true) →
    s.startable i = false) ∧
  (∀ (i : ItemCrew) (n obj : Nat) (x : Item), x.arg.length = 4 → 5 ≤ i.window →
    (itemFibre i n obj x).pc = x.pcoff ∧ (itemFibre i n obj x).item = some x ∧ (itemFibre i n obj x).obj = obj ∧
    (itemFibre i n obj x).regs.take 5 = 1 :: x.arg)

/-- Records (27 R463 to R467; 02 R44; 26 R449): the queue's next record is copied and QHEAD advances; a launch that passes the checks is
accepted with the record's fields, any other finishes with the first failing check's cause; a load gives the loaded object's id; an
unload waits until no launch uses its object. A finished launch or record leaves its completion record, MARK last; a notification goes
to NTAIL while the ring has room. A read or write that fails sets the error bit and interrupts.
That a record is read whole is log 61; the fields of load and unload records, log 36; failed notifications and poisoned records, log 34;
when HNOT's entry is written, log 87; the order of the loader's limits, log 35. -/
def Obligations.RecordEvents : Prop :=
  let reads := fun (s : State) (type : Nat) (b : List Byte) => s.ev.queue < 64 ∧ s.queues.length = 64 ∧ s.nextRecord s.ev.queue = some b
    ∧ field b 2 1 = type ∧ s.ev.fails = false ∧ s.poisonAt (s.queue s.ev.queue).slotAt 128 = false
  let classOk := fun (s : State) (b : List Byte) => field b 21 1 = (s.queue s.ev.queue).cls.toNat
  let done := fun (s t : State) (b : List Byte) (status : Cause) (low high : Nat) =>
    (t.queue s.ev.queue).head = (s.queue s.ev.queue).head + 1 ∧ ∃ r, t.finished = s.finished ++ [r] ∧ r.seq = BitVec.ofNat 32 (field b 4 4)
      ∧ r.comp = BitVec.ofNat 64 (field b 88 8) ∧ r.status = status ∧ r.low = low ∧ r.high = high ∧ r.queue = s.ev.queue
  (∀ (s t : State) (b args : List Byte) (o : Object), reads s 0 b → formatOk b = true → launchFormatOk b = true → classOk s b →
    s.objects.find? (fun o => o.id == field b 8 8 && !o.unloading) = some o → launchCheck b o = none →
    let r := hostRecall s (s.queue s.ev.queue).slotAt 128
    (readAreas { coreWho r 0 0 with queue := s.ev.queue, engine := true, timeout := r.walkOver (.record s.ev.queue) } b o).run
      ((r.advance s.ev.queue).walkNote (.record s.ev.queue) false) = .ok (.ok args, t) →
    ∃ u l, exec .launchRecord s = .next u ∧ u.launches = t.launches ++ [l] ∧ l.queue = s.ev.queue ∧ l.seq = BitVec.ofNat 32 (field b 4 4) ∧
      l.obj = o.id ∧ l.nteams = field b 16 4 ∧ l.gang = field b 20 1 ∧ l.args = args ∧ l.status = 0 ∧ l.nextGang = 0 ∧ l.retired = 0 ∧
      l.system = decide (s.ev.queue = 0) ∧ l.wdog = (if field b 80 8 = 0 then 2 ^ 40 else field b 80 8)) ∧
  (∀ (s : State) (b : List Byte) (c : Cause), reads s 0 b →
    (c = schedC 12 ∧ (formatOk b && launchFormatOk b) = false) ∨
    ((formatOk b && launchFormatOk b) = true ∧ c = schedC 13 ∧ ¬classOk s b) ∨
    ((formatOk b && launchFormatOk b) = true ∧ classOk s b ∧ c = schedC 14 ∧ s.objects.find? (fun o => o.id == field b 8 8 && !o.unloading) = none) ∨
    ((formatOk b && launchFormatOk b) = true ∧ classOk s b ∧
      ∃ o, s.objects.find? (fun o => o.id == field b 8 8 && !o.unloading) = some o ∧ launchCheck b o = some c) →
    ∃ t, exec .launchRecord s = .next t ∧ t.launches = s.launches ∧ done s t b c 0 0) ∧
  (∀ (s : State) (b : List Byte) (o : Object), reads s 1 b → formatOk b = true → classOk s b →
    hostReach s (field b 8 8) (field b 16 4) = true → s.poisonAt (field b 8 8) (field b 16 4) = false →
    loadImage s.nextId (field b 16 4) (fun k => hostByte s (field b 8 8 + k)) = .ok o →
    ∃ t, exec .loadRecord s = .next t ∧ t.objects = s.objects ++ [o] ∧ done s t b 0 o.id o.gangBytes) ∧
  (∀ (s : State) (b : List Byte) (c : Cause), reads s 1 b → formatOk b = true → classOk s b →
    hostReach s (field b 8 8) (field b 16 4) = true → s.poisonAt (field b 8 8) (field b 16 4) = false →
    loadImage s.nextId (field b 16 4) (fun k => hostByte s (field b 8 8 + k)) = .error c →
    ∃ t, exec .loadRecord s = .next t ∧ t.objects = s.objects ∧ done s t b c 0 0) ∧
  (∀ (s : State) (b : List Byte) (o : Object), reads s 2 b → formatOk b = true → classOk s b → s.unloads = [] →
    s.objects.find? (fun o => o.id == field b 8 8 && !o.unloading) = some o → (∀ l ∈ s.launches, l.obj ≠ o.id) →
    ∃ t, exec .unloadRecord s = .next t ∧ t.objects = s.objects.filter (fun x => x.id != o.id) ∧ done s t b 0 0 0) ∧
  (∀ (s : State) (b : List Byte) (o : Object) (l : Launch), reads s 2 b → formatOk b = true → classOk s b → s.unloads = [] →
    s.objects.find? (fun o => o.id == field b 8 8 && !o.unloading) = some o → l ∈ s.launches → l.obj = o.id →
    ∃ t, exec .unloadRecord s = .next t ∧ t.finished = s.finished ∧
      t.objects = s.objects.map (fun x => if x.id == o.id then { x with unloading := true } else x)) ∧
  (∀ (s : State) (b : List Byte), s.ev.queue < 64 → s.queues.length = 64 → s.nextRecord s.ev.queue = some b → s.ev.fails = true →
    ∀ p ∈ [(0, Instr.launchRecord), (1, .loadRecord)], field b 2 1 = p.1 →
    ∃ t, exec p.2 s = .next t ∧ t.sent = .interrupt (s.queue s.ev.queue).vec :: s.sent ∧
      t.queue s.ev.queue = { s.queue s.ev.queue with en := false, ringFault := true }) ∧
  (∀ (s : State) (l : Launch), s.launch? s.ev.launch = some l → s.launchDone l = true → hostReach s l.comp.toNat 64 = true →
    s.ev.fails = false → s.owes l.id = false → (∀ v ∈ s.mem.veins, v.hold = none) → (s.queue l.queue).cirq = true →
    ∃ t, exec .launchCompletion s = .next t ∧ t.launch? l.id = none ∧ t.sent = .interrupt (s.queue l.queue).vec :: s.sent ∧
      t.mem = (hostWrite (hostWrite s l.comp.toNat (completionBytes l.seq l.status l.retired l.acceptedAt.toNat s.rtime
        ((l.span.map (fun p => p.map.toNat)).getD 0) l.assayFault.toNat)) (l.comp.toNat + 60) (leBytes 4 (~~~ l.seq).toNat)).mem) ∧
  (∀ (s : State) (f : Finished), s.launch? s.ev.launch = none → s.finished.find? (fun f => f.id == s.ev.launch) = some f →
    hostReach s f.comp.toNat 64 = true → s.ev.fails = false →
    ∃ t, exec .launchCompletion s = .next t ∧ (∀ g ∈ t.finished, g.id ≠ f.id) ∧
      t.mem = (hostWrite (hostWrite s f.comp.toNat (completionBytes f.seq f.status f.low f.acceptedAt.toNat s.rtime 0 f.high))
        (f.comp.toNat + 60) (leBytes 4 (~~~ f.seq).toNat)).mem) ∧
  (∀ (seq : Word) (c : Cause) (low at_ now map high : Nat), low < 2 ^ 64 → map < 2 ^ 192 →
    let b := completionBytes seq c low at_ now map high
    b.length = 60 ∧ field b 0 4 = seq.toNat ∧ field b 4 4 = c.toNat ∧ field b 8 8 = low ∧ field b 32 24 = map) ∧
  (∀ (s : State) (a t seq : Word) (rest : List (Word × Word × Word)),
    let q := s.queue s.ev.queue
    let at_ := q.nbase.toNat + 16 * (q.ntail.toNat % max q.nsize.toNat 1)
    s.ev.queue < s.queues.length → q.notes = (a, t, seq) :: rest → q.ntail - q.nhead ≠ q.nsize → hostReach s at_ 16 = true →
    s.ev.fails = false →
    ∃ u, exec .notificationPost s = .next u ∧ u.queue s.ev.queue = { q with notes := rest, ntail := q.ntail + 1 } ∧
      u.mem = (hostWrite s at_ (leBytes 4 a.toNat ++ leBytes 4 t.toNat ++ leBytes 4 seq.toNat ++ leBytes 4 (~~~ q.ntail).toNat)).mem ∧
      u.sent = (if q.nirq then .interrupt q.vec :: s.sent else s.sent))

/-- The registers of BAR0 and the host's other accesses (27 R460, R462, R463; 28 R470; 29 R494, R495; 19 R412; 32 R514): the doorbells and
QPTBR, reads and writes of registers with their read-only and W1C fields, HDM at the home slice, a format region enabled and disabled, the
watchdog restarted and fired. A frozen host's accesses are refused, but those that no register's bytes are in, which complete for every
master; the side port reaches MFREEZE, and is frozen by an access elsewhere.
The widths of accesses are log 38; HDMBASE, log 33; registers written with bits that must be 0, log 37; format regions in one stack, log
81; a write of 0 to the watchdog, log 82; the host's own cached lines, log 97. -/
def Obligations.RegisterEvents : Prop :=
  let queueNow := fun (s : State) => s.isFrozen 0 = false ∧ s.ev.queue < 64 ∧ s.queues.length = 64
  (∀ s : State, queueNow s →
    ∃ t, exec .qtailWrite s = .next t ∧ (if (s.ev.word - (s.queue s.ev.queue).head).toNat ≤ (s.queue s.ev.queue).size.toNat
      then t.queue s.ev.queue = { s.queue s.ev.queue with tail := s.ev.word } ∧ t.sent = s.sent
      else t.queue s.ev.queue = { s.queue s.ev.queue with tailBad := true } ∧ t.sent = .interrupt (s.queue s.ev.queue).vec :: s.sent)) ∧
  (∀ s : State, queueNow s → ∃ t, exec .nheadWrite s = .next t ∧ t.queue s.ev.queue = { s.queue s.ev.queue with nhead := s.ev.word }) ∧
  (∀ s : State, queueNow s → (s.queue s.ev.queue).en = false →
    ∃ t, exec .qptbrWrite s = .next t ∧ t.queue s.ev.queue = { s.queue s.ev.queue with ptbr := s.ev.val } ∧
      ∀ c ∈ t.cores, ∀ e ∈ c.tlb, e.queue ≠ s.ev.queue) ∧
  (∀ s : State, queueNow s → (s.queue s.ev.queue).en = true → exec .qptbrWrite s = .next s) ∧
  (∀ s : State, let e := s.ev
    1 ≤ e.bytes → e.pa + e.bytes ≤ 2 ^ 20 →
    let data := ((List.range (e.bytes / 8 + 2)).map (fun k => 2 ^ (64 * k) * s.bar0 (e.pa / 8 + k))).sum / 256 ^ (e.pa % 8) % 256 ^ e.bytes
    let free := ∀ k, k < e.bytes → occupied (e.pa + k) = false
    let elsewhere := e.pa < 0x3000 ∨ 0x3008 < e.pa + e.bytes
    (e.agent ≤ 1 → free → exec .registerWrite s = .next (if e.write then s else s.send (.registerData data))) ∧
    (e.agent = 0 → e.write = false → s.isFrozen 0 = false → exec .registerWrite s = .next (s.send (.registerData data))) ∧
    (e.agent = 0 → s.isFrozen 0 = true → (∃ k, k < e.bytes ∧ occupied (e.pa + k) = true) → exec .registerWrite s = .next (s.send .unsupported)) ∧
    (e.agent = 1 → e.write = false → s.isFrozen 1 = false → ¬elsewhere → exec .registerWrite s = .next (s.send (.registerData data))) ∧
    (e.agent = 1 → s.isFrozen 1 = false → elsewhere → ¬free → exec .registerWrite s = .next (s.freeze 1 e.pa)) ∧
    (e.agent = 1 → s.isFrozen 1 = true → ¬free → exec .registerWrite s = .next s)) ∧
  (∀ (s : State) (q : Nat), q < 64 →
    let u := s.queue q
    let at_ := 0x10000 / 8 + 8 * q
    s.bar0 0 = s.rtime % 2 ^ 64 ∧ s.bar0 at_ = u.base.toNat ∧ s.bar0 (at_ + 1) % 2 ^ 32 = u.size.toNat ∧
    s.bar0 (at_ + 2) = u.tail.toNat + 2 ^ 32 * u.head.toNat ∧ s.bar0 (at_ + 3) % 2 ^ 32 = u.quant.toNat ∧ s.bar0 (at_ + 4) = u.nbase.toNat ∧
    s.bar0 (at_ + 5) = u.nsize.toNat + 2 ^ 32 * u.nhead.toNat ∧ s.bar0 (at_ + 6) = u.ntail.toNat ∧ s.bar0 (at_ + 7) = u.ptbr.toNat) ∧
  (∀ (s : State) (q : Nat), s.isFrozen 0 = false → s.ev.agent = 0 → s.ev.write = true → s.ev.bytes = 8 → q < 64 → s.queues.length = 64 →
    s.ev.pa = 0x10000 + 64 * q →
    ∃ t, exec .registerWrite s = .next t ∧ t.queue q = (if (s.queue q).en then s.queue q else { s.queue q with base := BitVec.ofNat 64 s.ev.data })) ∧
  (∀ (s : State) (q : Nat), s.isFrozen 0 = false → s.ev.agent = 0 → s.ev.write = true → s.ev.bytes = 4 → q < 64 → s.queues.length = 64 →
    s.ev.pa = 0x10000 + 64 * q + 0x1C →
    ∃ t, exec .registerWrite s = .next t ∧ t.queue q = { s.queue q with
      tailBad := (s.queue q).tailBad && !s.ev.data.testBit 0, ringFault := (s.queue q).ringFault && !s.ev.data.testBit 1
      compFault := (s.queue q).compFault && !s.ev.data.testBit 2 }) ∧
  (∀ s : State, s.isFrozen 0 = false → s.ev.agent = 0 → s.ev.write = true → s.ev.bytes = 8 → s.ev.pa = 0 → exec .registerWrite s = .next s) ∧
  (∀ s : State,
    let p := s.ev.pa - s.hdmBase
    let m := s.mem.setHostLine (p / 64) false
    let held := fun (m : MemSys) => m.setHostLine (p / 64) (s.ev.choice != 0)
    s.hdmBase ≤ s.ev.pa → s.ev.pa + s.ev.bytes ≤ s.hdmBase + deviceBytes → 1 ≤ s.ev.bytes → p % 64 + s.ev.bytes ≤ 64 →
    s.isFrozen 0 = false → AtHome s (coreWho s 0 0).fibre (p / 64) →
    (s.ev.write = false → exec .hostHdmAccess s = .next ((s.withMem (held (m.l2Fill (p / 64)).2)).send
      (.hdmData (BitVec.ofNat 512 (lineBytes (m.l2Fill (p / 64)).1.data (p % 64) s.ev.bytes)))).wake) ∧
    (s.ev.write = true → exec .hostHdmAccess s
      = .next (s.withMem (held (m.l2Write (p / 64) (byteMask (p % 64) s.ev.bytes) (lineOf (p % 64) s.ev.bytes s.ev.data)))).wake)) ∧
  (∀ (m : MemSys) (line n : Nat), n ∈ (m.setHostLine line true).hostLines ↔ n = line ∨ n ∈ m.hostLines) ∧
  (∀ (m : MemSys) (line n : Nat), n ∈ m.hostLines → n ∈ m.behind line → n ∉ (m.recall line).hostLines ∧ n ∈ (m.recall line).recalls) ∧
  (∀ (s : State) (r : Region), s.mem.regions[s.ev.choice]? = some r → r.en = false → (r.withFmt (s.ev.val ||| 16)).valid = true →
    ∃ t, exec .frfmtEnable s = .next t ∧
      t.mem.regions[s.ev.choice]? = some { r with fmt := BitVec.ofNat 3 s.ev.val.toNat, scaled := s.ev.val.getLsbD 3, en := true, err := false
                                                  saddr := BitVec.ofNat 46 (s.ev.val.toNat / 64) }) ∧
  (∀ (s t : State), (disableRegion { coreWho s s.ev.core 0 with throughHold := true } s.ev.choice (s.ev.val &&& ~~~16)).run s = .ok ((), t) →
    exec .frfmtDisable s = .next t.dropAnswers.wake ∧ ∀ r, t.mem.regions[s.ev.choice]? = some r → r.en = false) ∧
  (∀ (s : State) (t : Team), s.team? s.ev.launch s.ev.team = some t → s.ev.val.toNat % 2 ^ 41 ≠ 0 →
    ∃ u, exec .wdogRestart s = .next u ∧ u.team? t.launch t.id = some { t with wdog := s.ev.val.toNat % 2 ^ 41, spent := 0 } ∧
      u.fibres = s.fibres) ∧
  (∀ (s : State) (t : Team), s.team? s.ev.launch s.ev.team = some t →
    ∃ u, exec .wdogZeroWrite s = .next u ∧ u.team? t.launch t.id = some { t with wdog := 0, spent := 0 } ∧
      ∀ f ∈ s.fibres, ∀ k, f.id.crew = .team t.launch t.id k →
        { f with dues := f.dues ++ [({ cause := cause 0x160 0, kind := 6 }, .atPc)] } ∈ u.fibres) ∧
  (∀ s : State, s.isFrozen 0 = true → s.ev.queue < 64 →
    ∀ i ∈ [Instr.qtailWrite, .nheadWrite, .qptbrWrite], exec i s = .next (s.send .unsupported))

/-- Span launches (01 R38 to R41; 31 R509, R510): a device that has its resources reports ready; the coordinator's last report makes it
commit; each device acknowledges and may place gangs; the last acknowledgement within the window makes GO, after which the waves
that waited issue again in order. ABANDON, an expired window, and a coordinator that stays silent for the window and 1 ms end the launch
with
SYS.SPANFAIL and the missing lodes in its map.
Which agents hold the lodes, when the coordinator commits and abandons, is log 44; a device that is dead itself, log 42. -/
def Obligations.SpanEvents : Prop :=
  let live := fun (s : State) (l : Launch) (p : Span) => s.launch? s.ev.launch = some l ∧ l.ending = false ∧ l.span = some p
  let from_ := fun (s : State) (p : Span) (lode : Nat) => lode = p.lode ∨ s.fabric.linked = true ∧ s.accepts s.ev.agent s.ev.word = true
  let leaves := fun (s t : State) (m : Msg) =>
    if s.fabric.linked = true ∧ s.fabric.go = true then t.sent = m :: s.sent ∧ t.fabric.outbox = s.fabric.outbox
    else t.sent = s.sent ∧ t.fabric.outbox = s.fabric.outbox ++ [m]
  let now := fun (t : State) (l : Launch) => (t.launch? l.id).bind Launch.span
  let fails := fun (t : State) (l : Launch) (p : Span) (map : BitVec 192) => (t.launch? l.id).map Launch.ending = some true ∧
    (t.launch? l.id).map Launch.status = some (if l.status = 0 then cause 0x160 1 else l.status) ∧
    (now t l).map Span.map = some (p.map ||| map)
  (∀ (s : State) (l : Launch) (p : Span), live s l p → p.phase = .preparing → s.fabric.go = true ∨ p.nlodes = 1 → s.ev.agents.length = p.nlodes →
    ∃ t, exec .spanPrepare s = .next t ∧ now t l = some { p with phase := .ready, agents := s.ev.agents } ∧
      leaves s t (.spanReady p.id p.lode) ∧ t.mem = s.mem ∧ t.fibres = s.fibres) ∧
  (∀ (s : State) (l : Launch) (p : Span), live s l p → p.lode = 0 → s.ev.lode < p.nlodes → p.all p.readies = false → from_ s p s.ev.lode →
    p.readies.contains s.ev.lode = false →
    ∃ t, exec .spanReadyReport s = .next t ∧ (now t l).map Span.readies = some (p.readies ++ [s.ev.lode]) ∧
      if p.all (p.readies ++ [s.ev.lode]) then leaves s t (.spanCommit p.id) else t.sent = s.sent) ∧
  (∀ (s : State) (l : Launch) (p : Span), live s l p → p.phase = .ready → (p.lode = 0 → p.all p.readies = true) → from_ s p 0 →
    ∃ t, exec .spanCommit s = .next t ∧ leaves s t (.spanAck p.id p.lode) ∧ t.fibres = s.fibres ∧
      now t l = some { p with phase := .committed, commitAt := if p.lode = 0 then p.commitAt else s.rtime } ∧
      (t.launch? l.id).map Launch.mayPlace = some true) ∧
  (∀ (s : State) (l : Launch) (p : Span), live s l p → p.lode = 0 → s.ev.lode < p.nlodes → p.all p.readies = true → p.all p.acks = false →
    from_ s p s.ev.lode → s.rtime ≤ p.commitAt + p.window → p.acks.contains s.ev.lode = false →
    ∃ t, exec .spanCommitAcknowledgement s = .next t ∧ now t l = some { p with acks := p.acks ++ [s.ev.lode] } ∧
      if p.all (p.acks ++ [s.ev.lode]) then leaves s t (.spanGo p.id) else t.sent = s.sent) ∧
  (∀ (s : State) (l : Launch) (p : Span), live s l p → p.phase = .committed → (p.lode = 0 → p.all p.acks = true) → from_ s p 0 →
    ∃ t, exec .spanGo s = .next t ∧ now t l = some { p with phase := .running, blocked := [] } ∧
      t.agenda = (p.blocked.filter (fun i => ((s.wave? i).bind Wave.wait) == some .span)).map Move.issue ++ s.agenda) ∧
  (∀ (s : State) (l : Launch) (p : Span), live s l p → p.phase ≠ .running → from_ s p 0 →
    ∃ t, exec .spanAbandon s = .next t ∧ fails t l p s.ev.map) ∧
  (∀ (s : State) (l : Launch) (p : Span), live s l p → p.lode = 0 → p.all p.readies = true → p.all p.acks = false →
    p.commitAt + p.window ≤ s.rtime →
    ∃ t, exec .spanWindowExpiry s = .next t ∧ fails t l p p.missing ∧ leaves s t (.spanAbandon p.id p.missing)) ∧
  (∀ (s : State) (l : Launch) (p : Span), live s l p → p.phase = .committed → p.lode ≠ 0 → p.commitAt + p.window + 100000 ≤ s.rtime →
    ∃ t, exec .spanLocalTimeout s = .next t ∧ fails t l p 1) ∧
  (∀ (p : Span) (n : Nat), p.nlodes ≤ 192 → n < p.nlodes → p.missing.getLsbD n = !p.acks.contains n)

/-- The fabric (31 R503 to R511; 01 R40): a port trains to the highest common version or stays down with a reason, and gives its flits up when
it fails; heartbeats go out every 125 µs and are heard; an agent silent for 1,000 µs, or named dead, is dead, and a heartbeat that comes
later does not change that: accesses to it are refused and FABCFG.VEC is raised; ADMIT and GO bring an agent in; a message of a stale incarnation is dropped and counted.
Ports that are disabled are log 39; messages and flits, log 40; whom ADMIT names, log 41; a device that is dead itself, log 42; when
heartbeats go out, log 43. -/
def Obligations.FabricEvents : Prop :=
  let dropped := fun (s : State) => ({ s with fabric := { s.fabric with
    dropInc := if s.fabric.dropInc = 0xFFFFFFFF then 0xFFFFFFFF else s.fabric.dropInc + 1 } } : State)
  let trains := fun (s : State) => s.ev.port < 16 ∧ s.fabric.ports.length = 16 ∧ (s.port s.ev.port).up = false ∧ (s.port s.ev.port).dis = false
  (∀ (s : State) (m : BitVec 16), trains s → s.ev.peer = .versions m → m.getLsbD 1 = true ∨ m.getLsbD 2 = true →
    ∃ t, exec .portTraining s = .next t ∧ (t.port s.ev.port).up = true ∧ (t.port s.ev.port).reason = 0 ∧
      (t.port s.ev.port).ver = if m.getLsbD 2 then 2 else 1) ∧
  (∀ s : State, trains s →
    ∀ p ∈ [(PortPeer.versions 0, 1), (.noSignal, 2), (.failed, 3)], s.ev.peer = p.1 →
    ∃ t, exec .portTraining s = .next t ∧ (t.port s.ev.port).up = false ∧ (t.port s.ev.port).reason = p.2) ∧
  (∀ (s : State) (k : Nat), s.ev.port < 16 → s.fabric.ports.length = 16 → (s.port s.ev.port).up = true →
    (List.range 16).find? (fun j => j != s.ev.port && (s.port j).up) = some k →
    ∃ t, exec .portDown s = .next t ∧ (t.port s.ev.port).up = false ∧ (t.port s.ev.port).reason = reasonCode s.ev.why ∧
      (t.port s.ev.port).flits = [] ∧ (t.port k).flits = (s.port k).flits ++ (s.port s.ev.port).flits) ∧
  (∀ s : State, (s.agent s.selfId).live = true → s.fabric.beats < s.rtime / 12500 →
    ∃ t, exec .heartbeatSend s = .next t ∧ t.fabric.beats = s.rtime / 12500 ∧
      ∀ p, p < s.fabric.ports.length → (s.port p).up = true → .heartbeat p ∈ t.sent) ∧
  (∀ s : State, (s.port s.ev.port).up = true → s.accepts s.ev.agent s.ev.word = true → s.overdue s.ev.agent = true →
    exec .heartbeatReceive s = .next (dropped (s.declareDead s.ev.agent))) ∧
  (∀ s : State, (s.port s.ev.port).up = true → s.accepts s.ev.agent s.ev.word = true → s.overdue s.ev.agent = false →
    s.ev.agent < s.fabric.agents.length →
    ∃ t, exec .heartbeatReceive s = .next t ∧ t.agent s.ev.agent = { s.agent s.ev.agent with heard := s.rtime }) ∧
  (∀ s : State, s.accepts s.ev.agent s.ev.word = false → (s.fabric.linked = true → exec .fabricMessageReceive s = .next (dropped s)) ∧
    ((s.port s.ev.port).up = true → exec .heartbeatReceive s = .next (dropped s))) ∧
  (∀ s : State, s.accepts s.ev.agent s.ev.word = true → exec .fabricMessageReceive s = .next s) ∧
  (∀ s : State, (s.agent s.ev.agent).live = true → s.ev.agent ≠ s.selfId → s.ev.agent < s.fabric.agents.length →
    (s.agent s.ev.agent).heard + 100000 ≤ s.rtime ∨ s.accepts s.ev.agent s.ev.word = true → (∀ l ∈ s.launches, l.span = none) →
    let dead := fun (t : State) => (t.agent s.ev.agent).live = false ∧ t.sent = .interrupt s.fabric.vec :: s.sent ∧
      ∀ r ∈ t.fwds, r.dev = s.ev.agent → r.reply = none → r.dead = true
    ((s.agent s.ev.agent).heard + 100000 ≤ s.rtime → ∃ t, exec .agentDeathDeclare s = .next t ∧ dead t) ∧
    (s.fabric.linked = true → s.accepts s.ev.agent s.ev.word = true → ∃ t, exec .deadMessage s = .next t ∧ dead t)) ∧
  (∀ s : State, s.fabric.linked = true → s.ev.agent = s.selfId → s.fabric.selfInc = s.ev.word → (s.agent s.ev.agent).live = true →
    s.ev.agent < s.fabric.agents.length → (∀ l ∈ s.launches, l.span = none) →
    ∃ t, exec .deadMessage s = .next t ∧ (t.agent s.ev.agent).live = false ∧ t.fabric.go = false ∧ .readmit ∈ t.sent ∧
      ∀ r ∈ t.fwds, r.reply = none → r.dead = true) ∧
  (∀ s : State, s.fabric.linked = true → s.ev.agent ≤ 192 → s.fabric.agents.length = 193 →
    ∃ t, exec .admitMessage s = .next t ∧ t.agent s.ev.agent = { live := true, inc := s.ev.word, heard := s.rtime } ∧
      t.sent = .interrupt s.fabric.vec :: .admitAck s.ev.agent s.ev.word :: s.sent ∧
      (s.ev.write = true ∨ s.ev.agent = s.selfId → t.fabric.self = BitVec.ofNat 8 s.ev.agent ∧ t.fabric.selfInc = s.ev.word ∧ t.fabric.go = false)) ∧
  (∀ s : State, s.fabric.linked = true → (s.agent s.selfId).live = true →
    ∃ t, exec .admissionGo s = .next t ∧ t.fabric.go = true ∧ t.mem = s.mem ∧ t.fabric.outbox = []) ∧
  (∀ s : State, s.fabric.linked = false → ∀ i ∈ [Instr.forwardedAccessReceive, .forwardedResponse, .deadMessage, .admitMessage, .admissionGo,
    .fabricMessageReceive], exec i s = .next s)

/-- Service (32 R512 to R518; 27 R462): an image that its digest and signature hold for is staged, else discarded; a unit with nothing to
finish runs the staged image; SPDM answers in its order; a violation freezes its master, the request of another at the same instant is
refused, and a thaw clears the bits named; a spare core
takes a core's
place with nothing in its arrays; soft errors are counted and poison is kept, of every array; each millisecond's sample is reported and a limit
lowers the clock a step; a device reset gives every register its reset value, and firmware loads the trap runtime.
Images and signatures are log 20; SPDM, log 21; the steps of the clock, log 22; which ranges are protected, log 47; the last master, log
95; spare cores and quiesce points, log 46; where errors strike, log 96; what a reset keeps, log 45 and 33. -/
def Obligations.ServiceEvents : Prop :=
  (∀ s : State, s.ev.agent ≤ 1 → s.isFrozen s.ev.agent = false → s.ev.agent = 1 ∨ s.service.slotUsable = true →
    let lost := fun (usable : Bool) => ({ s with
      service := { s.service with staged := none, quiesce := [], slotUsable := usable }, sent := .imageRefused :: s.sent } : State)
    let lost := fun (usable : Bool) => ((lost usable).runNcfg (lost usable).ops.length).wake
    exec .fwImageStage s = .next (if s.ev.fails then lost false
      else if imageOk s.ev.image then
        { s with service := { s.service with
            images := s.service.images ++ [s.ev.image], staged := some (s.service.images.length + 1), slotUsable := true } }
      else lost s.service.slotUsable)) ∧
  (∀ s : State, s.ev.agent = 0 → s.isFrozen 0 = false → s.service.slotUsable = false →
    exec .fwImageStage s = .next (s.send .imageRefused)) ∧
  (∀ (s : State) (n : Nat), s.service.staged = some n → s.ev.unit = .controller → s.service.quiesce.find? (fun q => q.1 == .controller) = none →
    exec .fwUnitActivate s = .next { s with service := { s.service with running := n } }) ∧
  (∀ (s : State) (n c : Nat), s.service.staged = some n → s.ev.unit = .core c → c < 512 → c < s.cores.length → s.gangsOn c = [] →
    ∃ t, exec .fwUnitActivate s = .next t ∧ (t.core c).image = n ∧ t.mem = s.mem) ∧
  (∀ (s : State) (n d : Nat) (ids : List Nat), s.service.staged = some n → d < 8 → s.ev.unit = .sluice d →
    s.service.quiesce.find? (fun q => q.1 == .sluice d) = some (.sluice d, ids) → (∀ i ∈ ids, i ∉ s.opsOf (.sluice d)) →
    exec .fwUnitActivate s = .next ((s.runImage n (.sluice d)).endQuiesce (fun x => x == .sluice d))) ∧
  (∀ (s : State) (which : FwUnit → Bool), (s.endQuiesce which).service.quiesce = s.service.quiesce.filter (fun q => !which q.1) ∧
    (∀ o ∈ (s.endQuiesce which).ops, o.kind = .ncfg → (s.endQuiesce which).firstOfUnit o = false)) ∧
  (∀ s : State, s.isFrozen 1 = false →
    exec .getVersion s = .next { s with service := { s.service with spdmVersion := true, spdmCaps := false, spdmAlgs := false }
                                        sent := .spdm 0x04 (Config.spdmBody 0x04 [0x13]) :: s.sent }) ∧
  (∀ s : State, s.isFrozen 1 = false →
    let wrong := s.send (.spdm 0x7F (Config.spdmBody 0x7F [4]))
    exec .getCapabilities s = .next (if s.service.spdmVersion then
      { s with service := { s.service with spdmCaps := true }, sent := .spdm 0x61 (Config.spdmBody 0x61 []) :: s.sent } else wrong) ∧
    exec .negotiateAlgorithms s = .next (if s.service.spdmCaps then
      { s with service := { s.service with spdmAlgs := true }, sent := .spdm 0x63 (Config.spdmBody 0x63 [1024, 64]) :: s.sent } else wrong)) ∧
  (∀ s : State, s.isFrozen 1 = false → s.service.spdmAlgs = true →
    exec .getDigests s = .next (s.send (.spdm 0x01 (Config.spdmBody 0x01 []))) ∧
    exec .getCertificate s = .next (s.send (.spdm 0x02 (Config.spdmBody 0x02 []))) ∧
    exec .challenge s = .next (s.send (.spdm 0x03 (Config.spdmBody 0x03 [s.ev.val.toNat]))) ∧
    ∀ ps, s.measured s.ev.choice = some ps →
      exec .getMeasurements s = .next (s.send (.spdm 0x60 (Config.spdmBody 0x60 (s.ev.choice :: ps))))) ∧
  (∀ s : State, s.isFrozen 1 = false → s.service.spdmAlgs = false →
    ∀ i ∈ [Instr.getDigests, .getCertificate, .challenge, .getMeasurements],
      exec i s = .next (s.send (.spdm 0x7F (Config.spdmBody 0x7F [4])))) ∧
  (∀ s : State, s.ev.agent < 4 → s.isFrozen s.ev.agent = false →
    s.service.frozen ||| BitVec.ofNat 4 (2 ^ s.ev.agent) ≠ BitVec.allOnes 4 →
    ∃ t, exec .masterFreeze s = .next t ∧ t.isFrozen s.ev.agent = true ∧ t.service.lastFrozen.toNat = s.ev.agent ∧
      t.service.frozenAddr = BitVec.ofNat 32 s.ev.pa ∧ (∀ m, m < 4 → m ≠ s.ev.agent → t.isFrozen m = s.isFrozen m) ∧
      (s.ev.agents = [] → t.sent = (if s.ev.agent = 0 then .unsupported :: s.sent
        else if s.ev.agent = 2 ∧ s.fabric.linked = true ∧ s.fabric.go = true then .reply s.ev.access.source .frozen :: s.sent else s.sent)) ∧
      (s.ev.agent = 1 → s.ev.agents = [0] → t.sent = .unsupported :: s.sent)) ∧
  (∀ s : State, s.ev.agent < 4 → s.service.frozen ||| BitVec.ofNat 4 (2 ^ s.ev.agent) = BitVec.allOnes 4 →
    ∃ t, exec .masterFreeze s = .next t ∧ t.service = s.service) ∧
  (∀ s : State, s.ev.agent < 4 → s.isFrozen s.ev.agent = false →
    ∃ t, exec .mfreezeThaw s = .next t ∧ t.mem = s.mem ∧ ∀ m, m < 4 → t.isFrozen m = (s.isFrozen m && !s.ev.word.getLsbD m)) ∧
  (∀ s : State, s.isFrozen 0 = true → s.ev.agent = 0 → s.ev.agents = [] → ∀ i ∈ [Instr.masterFreeze, .mfreezeThaw, .fwImageStage],
    exec i s = .next (s.send .unsupported)) ∧
  (∀ (s : State) (spare : Nat), s.ev.core < 512 → s.cores.length = 512 → (s.service.spares.getD (dieOf s.ev.core) [])[s.ev.choice]? = some spare →
    s.gangsOn s.ev.core = [] → (∀ i ∈ s.itemCrews, i.core ≠ s.ev.core) → CleanL1 s s.ev.core →
    ∃ t, exec .spareCoreReplace s = .next t ∧ t.core s.ev.core = { s.core s.ev.core with phys := spare, l1 := [], tlb := [], walkAhead := [], victims := [] } ∧
      spare ∉ t.service.spares.getD (dieOf s.ev.core) [] ∧ t.mem = s.mem) ∧
  (∀ s : State, ∃ t, exec .eccCorrected s = .next t ∧ t.mem = s.mem ∧
    (s.ev.write = true → s.ev.die < s.service.stackErrors.length →
      t.service.stackErrors.getD s.ev.die 0 = min (s.service.stackErrors.getD s.ev.die 0 + 1) (2 ^ 32 - 1)) ∧
    (s.ev.write = false → s.ev.die < s.service.dieErrors.length →
      t.service.dieErrors.getD s.ev.die 0 = min (s.service.dieErrors.getD s.ev.die 0 + 1) (2 ^ 32 - 1))) ∧
  (∀ s : State, s.ev.choice ∉ [1, 2, 3, 4, 5, 6, 7] → s.ev.pa < deviceBytes →
    ∃ t, exec .eccPoison s = .next t ∧ s.ev.pa / 64 ∈ t.mem.poison ∧ (∀ n ∈ s.mem.poison, n ∈ t.mem.poison) ∧
    t.mem.hbm = s.mem.hbm ∧ t.mem.l2 = s.mem.l2) ∧
  (∀ (s : State) (l : L1Line), s.ev.choice = 1 → s.ev.core < s.cores.length → l ∈ (s.core s.ev.core).l1 → l.line = s.ev.pa / 64 →
    ∃ t, exec .eccPoison s = .next t ∧ t.mem = s.mem ∧ { l with poison := true } ∈ (t.core s.ev.core).l1) ∧
  (∀ (s : State) (t : Team), s.ev.choice = 2 → s.team? s.ev.launch s.ev.team = some t → s.ev.pa < t.spSize →
    ∃ u v, exec .eccPoison s = .next u ∧ u.mem = s.mem ∧ u.team? t.launch t.id = some v ∧ v.sp = t.sp ∧ s.ev.pa / 64 ∈ v.spPoison) ∧
  (∀ (s : State) (f : Fibre), s.ev.choice = 3 → s.fibre? s.ev.fibre = some f → s.ev.word.toNat < f.regs.length →
    ∃ u g, exec .eccPoison s = .next u ∧ u.mem = s.mem ∧ u.fibre? f.id = some g ∧ g = { f with poison := g.poison } ∧ s.ev.word.toNat ∈ g.poison) ∧
  (∀ (s : State) (t : Team) (x : Tile), s.ev.choice = 4 → s.team? s.ev.launch s.ev.team = some t → t.tiles[s.ev.word.toNat]? = some x →
    s.ev.pa / 64 < 128 → ∃ u v y, exec .eccPoison s = .next u ∧ u.mem = s.mem ∧ u.team? t.launch t.id = some v ∧ v.tiles[s.ev.word.toNat]? = some y ∧
      y = { x with poison := y.poison } ∧ s.ev.pa / 64 ∈ y.poison) ∧
  (∀ (s : State) (e : TlbEntry), s.ev.choice = 5 → s.ev.core < s.cores.length → e ∈ (s.core s.ev.core).tlb →
    e.hits s.ev.queue (pageOf s.ev.val) = true → ∃ u, exec .eccPoison s = .next u ∧ u.mem = s.mem ∧ { e with poison := true } ∈ (u.core s.ev.core).tlb) ∧
  (∀ (s : State) (e : TlbEntry), s.ev.choice = 6 → e ∈ s.mem.dieTlb.getD s.ev.die [] → e.hits s.ev.queue (pageOf s.ev.val) = true →
    ∃ u, exec .eccPoison s = .next u ∧ u.cores = s.cores ∧ { e with poison := true } ∈ u.mem.dieTlb.getD s.ev.die []) ∧
  (∀ (s : State) (l : L2Line), s.ev.choice = 7 → l ∈ s.mem.l2 → l.line = lineNo s.ev.pa true →
    ∃ u, exec .eccPoison s = .next u ∧ u.mem.l2 = s.mem.l2 ∧ lineNo s.ev.pa true ∈ u.mem.poison) ∧
  (∀ s : State, s.service.sampled < s.rtime / 100000 →
    ∃ t, exec .sensorSample s = .next t ∧ t.service.power = s.ev.readings.power ∧ t.service.temps = s.ev.readings.temps ∧
      t.service.sampled = s.rtime / 100000 ∧ t.sent.length = s.sent.length + (s.rtime / 100000 - s.service.sampled) ∧
      (s.rtime / 100000 = s.service.sampled + 1 → ∀ d, d < s.clk.mhz.length → 1400 < s.ev.readings.power ∨ (∃ k ∈ [d, 8, 9], s.ev.readings.hot.getD k false = true) → t.clk.mhz.getD d 0 = max 300 (s.clk.mhz.getD d 0 - 50))) ∧
  (∀ s : State, ∃ t, exec .deviceReset s = .next t ∧ t.clk = State.reset.clk ∧ t.queues = State.reset.queues ∧ t.ring = {} ∧ t.launches = [] ∧
    t.fibres = [] ∧ t.teams = [] ∧ t.fabric = State.reset.fabric ∧ t.mem.host = s.mem.host ∧ t.mem.l2 = [] ∧ t.mem.poison = s.mem.poison.filter (fun n => n < viewLine) ∧
    ∃ o, t.objects = [o] ∧ (s.nextId < 2 ^ 32 → t.rtobj.toNat = o.id))
end

