-- ==== Sys2Proof/Laws/State.lean ====
section
/-! SUPPORT. What each named update leaves as it was and what it sets: one lemma per field per update. -/

namespace Sys2Proof.Machine

/-! ### setFibre -/

@[simp] theorem State.setFibre_agenda (s : State) (f : Fibre) : (s.setFibre f).agenda = s.agenda := rfl
@[simp] theorem State.setFibre_cur (s : State) (f : Fibre) : (s.setFibre f).cur = s.cur := rfl
@[simp] theorem State.setFibre_ilen (s : State) (f : Fibre) : (s.setFibre f).ilen = s.ilen := rfl
@[simp] theorem State.setFibre_ev (s : State) (f : Fibre) : (s.setFibre f).ev = s.ev := rfl
@[simp] theorem State.setFibre_freeCtr (s : State) (f : Fibre) : (s.setFibre f).freeCtr = s.freeCtr := rfl
@[simp] theorem State.setFibre_nextId (s : State) (f : Fibre) : (s.setFibre f).nextId = s.nextId := rfl
@[simp] theorem State.setFibre_turn (s : State) (f : Fibre) : (s.setFibre f).turn = s.turn := rfl
@[simp] theorem State.setFibre_clk (s : State) (f : Fibre) : (s.setFibre f).clk = s.clk := rfl
@[simp] theorem State.setFibre_mem (s : State) (f : Fibre) : (s.setFibre f).mem = s.mem := rfl
@[simp] theorem State.setFibre_cores (s : State) (f : Fibre) : (s.setFibre f).cores = s.cores := rfl
@[simp] theorem State.setFibre_fibres (s : State) (f : Fibre) : (s.setFibre f).fibres = s.fibres.map (fun g => if g.id == f.id then f else g) := rfl
@[simp] theorem State.setFibre_waves (s : State) (f : Fibre) : (s.setFibre f).waves = s.waves := rfl
@[simp] theorem State.setFibre_teams (s : State) (f : Fibre) : (s.setFibre f).teams = s.teams := rfl
@[simp] theorem State.setFibre_gangs (s : State) (f : Fibre) : (s.setFibre f).gangs = s.gangs := rfl
@[simp] theorem State.setFibre_itemCrews (s : State) (f : Fibre) : (s.setFibre f).itemCrews = s.itemCrews := rfl
@[simp] theorem State.setFibre_queues (s : State) (f : Fibre) : (s.setFibre f).queues = s.queues := rfl
@[simp] theorem State.setFibre_pointers (s : State) (f : Fibre) : (s.setFibre f).pointers = s.pointers := rfl
@[simp] theorem State.setFibre_rtobj (s : State) (f : Fibre) : (s.setFibre f).rtobj = s.rtobj := rfl
@[simp] theorem State.setFibre_hdmBase (s : State) (f : Fibre) : (s.setFibre f).hdmBase = s.hdmBase := rfl
@[simp] theorem State.setFibre_objects (s : State) (f : Fibre) : (s.setFibre f).objects = s.objects := rfl
@[simp] theorem State.setFibre_launches (s : State) (f : Fibre) : (s.setFibre f).launches = s.launches := rfl
@[simp] theorem State.setFibre_unloads (s : State) (f : Fibre) : (s.setFibre f).unloads = s.unloads := rfl
@[simp] theorem State.setFibre_finished (s : State) (f : Fibre) : (s.setFibre f).finished = s.finished := rfl
@[simp] theorem State.setFibre_ring (s : State) (f : Fibre) : (s.setFibre f).ring = s.ring := rfl
@[simp] theorem State.setFibre_fuseDis (s : State) (f : Fibre) : (s.setFibre f).fuseDis = s.fuseDis := rfl
@[simp] theorem State.setFibre_ops (s : State) (f : Fibre) : (s.setFibre f).ops = s.ops := rfl
@[simp] theorem State.setFibre_tileOps (s : State) (f : Fibre) : (s.setFibre f).tileOps = s.tileOps := rfl
@[simp] theorem State.setFibre_grids (s : State) (f : Fibre) : (s.setFibre f).grids = s.grids := rfl
@[simp] theorem State.setFibre_families (s : State) (f : Fibre) : (s.setFibre f).families = s.families := rfl
@[simp] theorem State.setFibre_entries (s : State) (f : Fibre) : (s.setFibre f).entries = s.entries := rfl
@[simp] theorem State.setFibre_fwds (s : State) (f : Fibre) : (s.setFibre f).fwds = s.fwds := rfl
@[simp] theorem State.setFibre_left (s : State) (f : Fibre) : (s.setFibre f).left = s.left := rfl
@[simp] theorem State.setFibre_walkers (s : State) (f : Fibre) : (s.setFibre f).walkers = s.walkers := rfl
@[simp] theorem State.setFibre_fabric (s : State) (f : Fibre) : (s.setFibre f).fabric = s.fabric := rfl
@[simp] theorem State.setFibre_service (s : State) (f : Fibre) : (s.setFibre f).service = s.service := rfl
@[simp] theorem State.setFibre_sent (s : State) (f : Fibre) : (s.setFibre f).sent = s.sent := rfl

/-! ### dropFibre -/

@[simp] theorem State.dropFibre_agenda (s : State) (i : FibreId) : (s.dropFibre i).agenda = s.agenda := rfl
@[simp] theorem State.dropFibre_cur (s : State) (i : FibreId) : (s.dropFibre i).cur = s.cur := rfl
@[simp] theorem State.dropFibre_ilen (s : State) (i : FibreId) : (s.dropFibre i).ilen = s.ilen := rfl
@[simp] theorem State.dropFibre_ev (s : State) (i : FibreId) : (s.dropFibre i).ev = s.ev := rfl
@[simp] theorem State.dropFibre_freeCtr (s : State) (i : FibreId) : (s.dropFibre i).freeCtr = s.freeCtr := rfl
@[simp] theorem State.dropFibre_nextId (s : State) (i : FibreId) : (s.dropFibre i).nextId = s.nextId := rfl
@[simp] theorem State.dropFibre_turn (s : State) (i : FibreId) : (s.dropFibre i).turn = s.turn := rfl
@[simp] theorem State.dropFibre_clk (s : State) (i : FibreId) : (s.dropFibre i).clk = s.clk := rfl
@[simp] theorem State.dropFibre_mem (s : State) (i : FibreId) : (s.dropFibre i).mem = s.mem := rfl
@[simp] theorem State.dropFibre_cores (s : State) (i : FibreId) : (s.dropFibre i).cores = s.cores := rfl
@[simp] theorem State.dropFibre_fibres (s : State) (i : FibreId) : (s.dropFibre i).fibres = s.fibres.filter (fun f => f.id != i) := rfl
@[simp] theorem State.dropFibre_waves (s : State) (i : FibreId) : (s.dropFibre i).waves = s.waves := rfl
@[simp] theorem State.dropFibre_teams (s : State) (i : FibreId) : (s.dropFibre i).teams = s.teams := rfl
@[simp] theorem State.dropFibre_gangs (s : State) (i : FibreId) : (s.dropFibre i).gangs = s.gangs := rfl
@[simp] theorem State.dropFibre_itemCrews (s : State) (i : FibreId) : (s.dropFibre i).itemCrews = s.itemCrews := rfl
@[simp] theorem State.dropFibre_queues (s : State) (i : FibreId) : (s.dropFibre i).queues = s.queues := rfl
@[simp] theorem State.dropFibre_pointers (s : State) (i : FibreId) : (s.dropFibre i).pointers = s.pointers := rfl
@[simp] theorem State.dropFibre_rtobj (s : State) (i : FibreId) : (s.dropFibre i).rtobj = s.rtobj := rfl
@[simp] theorem State.dropFibre_hdmBase (s : State) (i : FibreId) : (s.dropFibre i).hdmBase = s.hdmBase := rfl
@[simp] theorem State.dropFibre_objects (s : State) (i : FibreId) : (s.dropFibre i).objects = s.objects := rfl
@[simp] theorem State.dropFibre_launches (s : State) (i : FibreId) : (s.dropFibre i).launches = s.launches := rfl
@[simp] theorem State.dropFibre_unloads (s : State) (i : FibreId) : (s.dropFibre i).unloads = s.unloads := rfl
@[simp] theorem State.dropFibre_finished (s : State) (i : FibreId) : (s.dropFibre i).finished = s.finished := rfl
@[simp] theorem State.dropFibre_ring (s : State) (i : FibreId) : (s.dropFibre i).ring = s.ring := rfl
@[simp] theorem State.dropFibre_fuseDis (s : State) (i : FibreId) : (s.dropFibre i).fuseDis = s.fuseDis := rfl
@[simp] theorem State.dropFibre_ops (s : State) (i : FibreId) : (s.dropFibre i).ops = s.ops := rfl
@[simp] theorem State.dropFibre_tileOps (s : State) (i : FibreId) : (s.dropFibre i).tileOps = s.tileOps := rfl
@[simp] theorem State.dropFibre_grids (s : State) (i : FibreId) : (s.dropFibre i).grids = s.grids := rfl
@[simp] theorem State.dropFibre_families (s : State) (i : FibreId) : (s.dropFibre i).families = s.families := rfl
@[simp] theorem State.dropFibre_entries (s : State) (i : FibreId) : (s.dropFibre i).entries = s.entries := rfl
@[simp] theorem State.dropFibre_fwds (s : State) (i : FibreId) : (s.dropFibre i).fwds = s.fwds := rfl
@[simp] theorem State.dropFibre_left (s : State) (i : FibreId) : (s.dropFibre i).left = s.left := rfl
@[simp] theorem State.dropFibre_walkers (s : State) (i : FibreId) : (s.dropFibre i).walkers = s.walkers := rfl
@[simp] theorem State.dropFibre_fabric (s : State) (i : FibreId) : (s.dropFibre i).fabric = s.fabric := rfl
@[simp] theorem State.dropFibre_service (s : State) (i : FibreId) : (s.dropFibre i).service = s.service := rfl
@[simp] theorem State.dropFibre_sent (s : State) (i : FibreId) : (s.dropFibre i).sent = s.sent := rfl

/-! ### setWave -/

@[simp] theorem State.setWave_agenda (s : State) (w : Wave) : (s.setWave w).agenda = s.agenda := rfl
@[simp] theorem State.setWave_cur (s : State) (w : Wave) : (s.setWave w).cur = s.cur := rfl
@[simp] theorem State.setWave_ilen (s : State) (w : Wave) : (s.setWave w).ilen = s.ilen := rfl
@[simp] theorem State.setWave_ev (s : State) (w : Wave) : (s.setWave w).ev = s.ev := rfl
@[simp] theorem State.setWave_freeCtr (s : State) (w : Wave) : (s.setWave w).freeCtr = s.freeCtr := rfl
@[simp] theorem State.setWave_nextId (s : State) (w : Wave) : (s.setWave w).nextId = s.nextId := rfl
@[simp] theorem State.setWave_turn (s : State) (w : Wave) : (s.setWave w).turn = s.turn := rfl
@[simp] theorem State.setWave_clk (s : State) (w : Wave) : (s.setWave w).clk = s.clk := rfl
@[simp] theorem State.setWave_mem (s : State) (w : Wave) : (s.setWave w).mem = s.mem := rfl
@[simp] theorem State.setWave_cores (s : State) (w : Wave) : (s.setWave w).cores = s.cores := rfl
@[simp] theorem State.setWave_fibres (s : State) (w : Wave) : (s.setWave w).fibres = s.fibres := rfl
@[simp] theorem State.setWave_waves (s : State) (w : Wave) : (s.setWave w).waves = s.waves.map (fun v => if v.id == w.id then w else v) := rfl
@[simp] theorem State.setWave_teams (s : State) (w : Wave) : (s.setWave w).teams = s.teams := rfl
@[simp] theorem State.setWave_gangs (s : State) (w : Wave) : (s.setWave w).gangs = s.gangs := rfl
@[simp] theorem State.setWave_itemCrews (s : State) (w : Wave) : (s.setWave w).itemCrews = s.itemCrews := rfl
@[simp] theorem State.setWave_queues (s : State) (w : Wave) : (s.setWave w).queues = s.queues := rfl
@[simp] theorem State.setWave_pointers (s : State) (w : Wave) : (s.setWave w).pointers = s.pointers := rfl
@[simp] theorem State.setWave_rtobj (s : State) (w : Wave) : (s.setWave w).rtobj = s.rtobj := rfl
@[simp] theorem State.setWave_hdmBase (s : State) (w : Wave) : (s.setWave w).hdmBase = s.hdmBase := rfl
@[simp] theorem State.setWave_objects (s : State) (w : Wave) : (s.setWave w).objects = s.objects := rfl
@[simp] theorem State.setWave_launches (s : State) (w : Wave) : (s.setWave w).launches = s.launches := rfl
@[simp] theorem State.setWave_unloads (s : State) (w : Wave) : (s.setWave w).unloads = s.unloads := rfl
@[simp] theorem State.setWave_finished (s : State) (w : Wave) : (s.setWave w).finished = s.finished := rfl
@[simp] theorem State.setWave_ring (s : State) (w : Wave) : (s.setWave w).ring = s.ring := rfl
@[simp] theorem State.setWave_fuseDis (s : State) (w : Wave) : (s.setWave w).fuseDis = s.fuseDis := rfl
@[simp] theorem State.setWave_ops (s : State) (w : Wave) : (s.setWave w).ops = s.ops := rfl
@[simp] theorem State.setWave_tileOps (s : State) (w : Wave) : (s.setWave w).tileOps = s.tileOps := rfl
@[simp] theorem State.setWave_grids (s : State) (w : Wave) : (s.setWave w).grids = s.grids := rfl
@[simp] theorem State.setWave_families (s : State) (w : Wave) : (s.setWave w).families = s.families := rfl
@[simp] theorem State.setWave_entries (s : State) (w : Wave) : (s.setWave w).entries = s.entries := rfl
@[simp] theorem State.setWave_fwds (s : State) (w : Wave) : (s.setWave w).fwds = s.fwds := rfl
@[simp] theorem State.setWave_left (s : State) (w : Wave) : (s.setWave w).left = s.left := rfl
@[simp] theorem State.setWave_walkers (s : State) (w : Wave) : (s.setWave w).walkers = s.walkers := rfl
@[simp] theorem State.setWave_fabric (s : State) (w : Wave) : (s.setWave w).fabric = s.fabric := rfl
@[simp] theorem State.setWave_service (s : State) (w : Wave) : (s.setWave w).service = s.service := rfl
@[simp] theorem State.setWave_sent (s : State) (w : Wave) : (s.setWave w).sent = s.sent := rfl

/-! ### dropWave -/

@[simp] theorem State.dropWave_agenda (s : State) (i : Nat) : (s.dropWave i).agenda = s.agenda := rfl
@[simp] theorem State.dropWave_cur (s : State) (i : Nat) : (s.dropWave i).cur = s.cur := rfl
@[simp] theorem State.dropWave_ilen (s : State) (i : Nat) : (s.dropWave i).ilen = s.ilen := rfl
@[simp] theorem State.dropWave_ev (s : State) (i : Nat) : (s.dropWave i).ev = s.ev := rfl
@[simp] theorem State.dropWave_freeCtr (s : State) (i : Nat) : (s.dropWave i).freeCtr = s.freeCtr := rfl
@[simp] theorem State.dropWave_nextId (s : State) (i : Nat) : (s.dropWave i).nextId = s.nextId := rfl
@[simp] theorem State.dropWave_turn (s : State) (i : Nat) : (s.dropWave i).turn = s.turn := rfl
@[simp] theorem State.dropWave_clk (s : State) (i : Nat) : (s.dropWave i).clk = s.clk := rfl
@[simp] theorem State.dropWave_mem (s : State) (i : Nat) : (s.dropWave i).mem = s.mem := rfl
@[simp] theorem State.dropWave_cores (s : State) (i : Nat) : (s.dropWave i).cores = s.cores := rfl
@[simp] theorem State.dropWave_fibres (s : State) (i : Nat) : (s.dropWave i).fibres = s.fibres := rfl
@[simp] theorem State.dropWave_waves (s : State) (i : Nat) : (s.dropWave i).waves = s.waves.filter (fun w => w.id != i) := rfl
@[simp] theorem State.dropWave_teams (s : State) (i : Nat) : (s.dropWave i).teams = s.teams := rfl
@[simp] theorem State.dropWave_gangs (s : State) (i : Nat) : (s.dropWave i).gangs = s.gangs := rfl
@[simp] theorem State.dropWave_itemCrews (s : State) (i : Nat) : (s.dropWave i).itemCrews = s.itemCrews := rfl
@[simp] theorem State.dropWave_queues (s : State) (i : Nat) : (s.dropWave i).queues = s.queues := rfl
@[simp] theorem State.dropWave_pointers (s : State) (i : Nat) : (s.dropWave i).pointers = s.pointers := rfl
@[simp] theorem State.dropWave_rtobj (s : State) (i : Nat) : (s.dropWave i).rtobj = s.rtobj := rfl
@[simp] theorem State.dropWave_hdmBase (s : State) (i : Nat) : (s.dropWave i).hdmBase = s.hdmBase := rfl
@[simp] theorem State.dropWave_objects (s : State) (i : Nat) : (s.dropWave i).objects = s.objects := rfl
@[simp] theorem State.dropWave_launches (s : State) (i : Nat) : (s.dropWave i).launches = s.launches := rfl
@[simp] theorem State.dropWave_unloads (s : State) (i : Nat) : (s.dropWave i).unloads = s.unloads := rfl
@[simp] theorem State.dropWave_finished (s : State) (i : Nat) : (s.dropWave i).finished = s.finished := rfl
@[simp] theorem State.dropWave_ring (s : State) (i : Nat) : (s.dropWave i).ring = s.ring := rfl
@[simp] theorem State.dropWave_fuseDis (s : State) (i : Nat) : (s.dropWave i).fuseDis = s.fuseDis := rfl
@[simp] theorem State.dropWave_ops (s : State) (i : Nat) : (s.dropWave i).ops = s.ops := rfl
@[simp] theorem State.dropWave_tileOps (s : State) (i : Nat) : (s.dropWave i).tileOps = s.tileOps := rfl
@[simp] theorem State.dropWave_grids (s : State) (i : Nat) : (s.dropWave i).grids = s.grids := rfl
@[simp] theorem State.dropWave_families (s : State) (i : Nat) : (s.dropWave i).families = s.families := rfl
@[simp] theorem State.dropWave_entries (s : State) (i : Nat) : (s.dropWave i).entries = s.entries := rfl
@[simp] theorem State.dropWave_fwds (s : State) (i : Nat) : (s.dropWave i).fwds = s.fwds := rfl
@[simp] theorem State.dropWave_left (s : State) (i : Nat) : (s.dropWave i).left = s.left := rfl
@[simp] theorem State.dropWave_walkers (s : State) (i : Nat) : (s.dropWave i).walkers = s.walkers := rfl
@[simp] theorem State.dropWave_fabric (s : State) (i : Nat) : (s.dropWave i).fabric = s.fabric := rfl
@[simp] theorem State.dropWave_service (s : State) (i : Nat) : (s.dropWave i).service = s.service := rfl
@[simp] theorem State.dropWave_sent (s : State) (i : Nat) : (s.dropWave i).sent = s.sent := rfl

/-! ### setTeam -/

@[simp] theorem State.setTeam_agenda (s : State) (t : Team) : (s.setTeam t).agenda = s.agenda := rfl
@[simp] theorem State.setTeam_cur (s : State) (t : Team) : (s.setTeam t).cur = s.cur := rfl
@[simp] theorem State.setTeam_ilen (s : State) (t : Team) : (s.setTeam t).ilen = s.ilen := rfl
@[simp] theorem State.setTeam_ev (s : State) (t : Team) : (s.setTeam t).ev = s.ev := rfl
@[simp] theorem State.setTeam_freeCtr (s : State) (t : Team) : (s.setTeam t).freeCtr = s.freeCtr := rfl
@[simp] theorem State.setTeam_nextId (s : State) (t : Team) : (s.setTeam t).nextId = s.nextId := rfl
@[simp] theorem State.setTeam_turn (s : State) (t : Team) : (s.setTeam t).turn = s.turn := rfl
@[simp] theorem State.setTeam_clk (s : State) (t : Team) : (s.setTeam t).clk = s.clk := rfl
@[simp] theorem State.setTeam_mem (s : State) (t : Team) : (s.setTeam t).mem = s.mem := rfl
@[simp] theorem State.setTeam_cores (s : State) (t : Team) : (s.setTeam t).cores = s.cores := rfl
@[simp] theorem State.setTeam_fibres (s : State) (t : Team) : (s.setTeam t).fibres = s.fibres := rfl
@[simp] theorem State.setTeam_waves (s : State) (t : Team) : (s.setTeam t).waves = s.waves := rfl
@[simp] theorem State.setTeam_teams (s : State) (t : Team) : (s.setTeam t).teams = s.teams.map (fun u => if u.launch == t.launch && u.id == t.id then t else u) := rfl
@[simp] theorem State.setTeam_gangs (s : State) (t : Team) : (s.setTeam t).gangs = s.gangs := rfl
@[simp] theorem State.setTeam_itemCrews (s : State) (t : Team) : (s.setTeam t).itemCrews = s.itemCrews := rfl
@[simp] theorem State.setTeam_queues (s : State) (t : Team) : (s.setTeam t).queues = s.queues := rfl
@[simp] theorem State.setTeam_pointers (s : State) (t : Team) : (s.setTeam t).pointers = s.pointers := rfl
@[simp] theorem State.setTeam_rtobj (s : State) (t : Team) : (s.setTeam t).rtobj = s.rtobj := rfl
@[simp] theorem State.setTeam_hdmBase (s : State) (t : Team) : (s.setTeam t).hdmBase = s.hdmBase := rfl
@[simp] theorem State.setTeam_objects (s : State) (t : Team) : (s.setTeam t).objects = s.objects := rfl
@[simp] theorem State.setTeam_launches (s : State) (t : Team) : (s.setTeam t).launches = s.launches := rfl
@[simp] theorem State.setTeam_unloads (s : State) (t : Team) : (s.setTeam t).unloads = s.unloads := rfl
@[simp] theorem State.setTeam_finished (s : State) (t : Team) : (s.setTeam t).finished = s.finished := rfl
@[simp] theorem State.setTeam_ring (s : State) (t : Team) : (s.setTeam t).ring = s.ring := rfl
@[simp] theorem State.setTeam_fuseDis (s : State) (t : Team) : (s.setTeam t).fuseDis = s.fuseDis := rfl
@[simp] theorem State.setTeam_ops (s : State) (t : Team) : (s.setTeam t).ops = s.ops := rfl
@[simp] theorem State.setTeam_tileOps (s : State) (t : Team) : (s.setTeam t).tileOps = s.tileOps := rfl
@[simp] theorem State.setTeam_grids (s : State) (t : Team) : (s.setTeam t).grids = s.grids := rfl
@[simp] theorem State.setTeam_families (s : State) (t : Team) : (s.setTeam t).families = s.families := rfl
@[simp] theorem State.setTeam_entries (s : State) (t : Team) : (s.setTeam t).entries = s.entries := rfl
@[simp] theorem State.setTeam_fwds (s : State) (t : Team) : (s.setTeam t).fwds = s.fwds := rfl
@[simp] theorem State.setTeam_left (s : State) (t : Team) : (s.setTeam t).left = s.left := rfl
@[simp] theorem State.setTeam_walkers (s : State) (t : Team) : (s.setTeam t).walkers = s.walkers := rfl
@[simp] theorem State.setTeam_fabric (s : State) (t : Team) : (s.setTeam t).fabric = s.fabric := rfl
@[simp] theorem State.setTeam_service (s : State) (t : Team) : (s.setTeam t).service = s.service := rfl
@[simp] theorem State.setTeam_sent (s : State) (t : Team) : (s.setTeam t).sent = s.sent := rfl

/-! ### setGang -/

@[simp] theorem State.setGang_agenda (s : State) (g : Gang) : (s.setGang g).agenda = s.agenda := rfl
@[simp] theorem State.setGang_cur (s : State) (g : Gang) : (s.setGang g).cur = s.cur := rfl
@[simp] theorem State.setGang_ilen (s : State) (g : Gang) : (s.setGang g).ilen = s.ilen := rfl
@[simp] theorem State.setGang_ev (s : State) (g : Gang) : (s.setGang g).ev = s.ev := rfl
@[simp] theorem State.setGang_freeCtr (s : State) (g : Gang) : (s.setGang g).freeCtr = s.freeCtr := rfl
@[simp] theorem State.setGang_nextId (s : State) (g : Gang) : (s.setGang g).nextId = s.nextId := rfl
@[simp] theorem State.setGang_turn (s : State) (g : Gang) : (s.setGang g).turn = s.turn := rfl
@[simp] theorem State.setGang_clk (s : State) (g : Gang) : (s.setGang g).clk = s.clk := rfl
@[simp] theorem State.setGang_mem (s : State) (g : Gang) : (s.setGang g).mem = s.mem := rfl
@[simp] theorem State.setGang_cores (s : State) (g : Gang) : (s.setGang g).cores = s.cores := rfl
@[simp] theorem State.setGang_fibres (s : State) (g : Gang) : (s.setGang g).fibres = s.fibres := rfl
@[simp] theorem State.setGang_waves (s : State) (g : Gang) : (s.setGang g).waves = s.waves := rfl
@[simp] theorem State.setGang_teams (s : State) (g : Gang) : (s.setGang g).teams = s.teams := rfl
@[simp] theorem State.setGang_gangs (s : State) (g : Gang) : (s.setGang g).gangs = s.gangs.map (fun h => if h.launch == g.launch && h.id == g.id then g else h) := rfl
@[simp] theorem State.setGang_itemCrews (s : State) (g : Gang) : (s.setGang g).itemCrews = s.itemCrews := rfl
@[simp] theorem State.setGang_queues (s : State) (g : Gang) : (s.setGang g).queues = s.queues := rfl
@[simp] theorem State.setGang_pointers (s : State) (g : Gang) : (s.setGang g).pointers = s.pointers := rfl
@[simp] theorem State.setGang_rtobj (s : State) (g : Gang) : (s.setGang g).rtobj = s.rtobj := rfl
@[simp] theorem State.setGang_hdmBase (s : State) (g : Gang) : (s.setGang g).hdmBase = s.hdmBase := rfl
@[simp] theorem State.setGang_objects (s : State) (g : Gang) : (s.setGang g).objects = s.objects := rfl
@[simp] theorem State.setGang_launches (s : State) (g : Gang) : (s.setGang g).launches = s.launches := rfl
@[simp] theorem State.setGang_unloads (s : State) (g : Gang) : (s.setGang g).unloads = s.unloads := rfl
@[simp] theorem State.setGang_finished (s : State) (g : Gang) : (s.setGang g).finished = s.finished := rfl
@[simp] theorem State.setGang_ring (s : State) (g : Gang) : (s.setGang g).ring = s.ring := rfl
@[simp] theorem State.setGang_fuseDis (s : State) (g : Gang) : (s.setGang g).fuseDis = s.fuseDis := rfl
@[simp] theorem State.setGang_ops (s : State) (g : Gang) : (s.setGang g).ops = s.ops := rfl
@[simp] theorem State.setGang_tileOps (s : State) (g : Gang) : (s.setGang g).tileOps = s.tileOps := rfl
@[simp] theorem State.setGang_grids (s : State) (g : Gang) : (s.setGang g).grids = s.grids := rfl
@[simp] theorem State.setGang_families (s : State) (g : Gang) : (s.setGang g).families = s.families := rfl
@[simp] theorem State.setGang_entries (s : State) (g : Gang) : (s.setGang g).entries = s.entries := rfl
@[simp] theorem State.setGang_fwds (s : State) (g : Gang) : (s.setGang g).fwds = s.fwds := rfl
@[simp] theorem State.setGang_left (s : State) (g : Gang) : (s.setGang g).left = s.left := rfl
@[simp] theorem State.setGang_walkers (s : State) (g : Gang) : (s.setGang g).walkers = s.walkers := rfl
@[simp] theorem State.setGang_fabric (s : State) (g : Gang) : (s.setGang g).fabric = s.fabric := rfl
@[simp] theorem State.setGang_service (s : State) (g : Gang) : (s.setGang g).service = s.service := rfl
@[simp] theorem State.setGang_sent (s : State) (g : Gang) : (s.setGang g).sent = s.sent := rfl

/-! ### setLaunch -/

@[simp] theorem State.setLaunch_agenda (s : State) (l : Launch) : (s.setLaunch l).agenda = s.agenda := rfl
@[simp] theorem State.setLaunch_cur (s : State) (l : Launch) : (s.setLaunch l).cur = s.cur := rfl
@[simp] theorem State.setLaunch_ilen (s : State) (l : Launch) : (s.setLaunch l).ilen = s.ilen := rfl
@[simp] theorem State.setLaunch_ev (s : State) (l : Launch) : (s.setLaunch l).ev = s.ev := rfl
@[simp] theorem State.setLaunch_freeCtr (s : State) (l : Launch) : (s.setLaunch l).freeCtr = s.freeCtr := rfl
@[simp] theorem State.setLaunch_nextId (s : State) (l : Launch) : (s.setLaunch l).nextId = s.nextId := rfl
@[simp] theorem State.setLaunch_turn (s : State) (l : Launch) : (s.setLaunch l).turn = s.turn := rfl
@[simp] theorem State.setLaunch_clk (s : State) (l : Launch) : (s.setLaunch l).clk = s.clk := rfl
@[simp] theorem State.setLaunch_mem (s : State) (l : Launch) : (s.setLaunch l).mem = s.mem := rfl
@[simp] theorem State.setLaunch_cores (s : State) (l : Launch) : (s.setLaunch l).cores = s.cores := rfl
@[simp] theorem State.setLaunch_fibres (s : State) (l : Launch) : (s.setLaunch l).fibres = s.fibres := rfl
@[simp] theorem State.setLaunch_waves (s : State) (l : Launch) : (s.setLaunch l).waves = s.waves := rfl
@[simp] theorem State.setLaunch_teams (s : State) (l : Launch) : (s.setLaunch l).teams = s.teams := rfl
@[simp] theorem State.setLaunch_gangs (s : State) (l : Launch) : (s.setLaunch l).gangs = s.gangs := rfl
@[simp] theorem State.setLaunch_itemCrews (s : State) (l : Launch) : (s.setLaunch l).itemCrews = s.itemCrews := rfl
@[simp] theorem State.setLaunch_queues (s : State) (l : Launch) : (s.setLaunch l).queues = s.queues := rfl
@[simp] theorem State.setLaunch_pointers (s : State) (l : Launch) : (s.setLaunch l).pointers = s.pointers := rfl
@[simp] theorem State.setLaunch_rtobj (s : State) (l : Launch) : (s.setLaunch l).rtobj = s.rtobj := rfl
@[simp] theorem State.setLaunch_hdmBase (s : State) (l : Launch) : (s.setLaunch l).hdmBase = s.hdmBase := rfl
@[simp] theorem State.setLaunch_objects (s : State) (l : Launch) : (s.setLaunch l).objects = s.objects := rfl
@[simp] theorem State.setLaunch_launches (s : State) (l : Launch) : (s.setLaunch l).launches = s.launches.map (fun m => if m.id == l.id then l else m) := rfl
@[simp] theorem State.setLaunch_unloads (s : State) (l : Launch) : (s.setLaunch l).unloads = s.unloads := rfl
@[simp] theorem State.setLaunch_finished (s : State) (l : Launch) : (s.setLaunch l).finished = s.finished := rfl
@[simp] theorem State.setLaunch_ring (s : State) (l : Launch) : (s.setLaunch l).ring = s.ring := rfl
@[simp] theorem State.setLaunch_fuseDis (s : State) (l : Launch) : (s.setLaunch l).fuseDis = s.fuseDis := rfl
@[simp] theorem State.setLaunch_ops (s : State) (l : Launch) : (s.setLaunch l).ops = s.ops := rfl
@[simp] theorem State.setLaunch_tileOps (s : State) (l : Launch) : (s.setLaunch l).tileOps = s.tileOps := rfl
@[simp] theorem State.setLaunch_grids (s : State) (l : Launch) : (s.setLaunch l).grids = s.grids := rfl
@[simp] theorem State.setLaunch_families (s : State) (l : Launch) : (s.setLaunch l).families = s.families := rfl
@[simp] theorem State.setLaunch_entries (s : State) (l : Launch) : (s.setLaunch l).entries = s.entries := rfl
@[simp] theorem State.setLaunch_fwds (s : State) (l : Launch) : (s.setLaunch l).fwds = s.fwds := rfl
@[simp] theorem State.setLaunch_left (s : State) (l : Launch) : (s.setLaunch l).left = s.left := rfl
@[simp] theorem State.setLaunch_walkers (s : State) (l : Launch) : (s.setLaunch l).walkers = s.walkers := rfl
@[simp] theorem State.setLaunch_fabric (s : State) (l : Launch) : (s.setLaunch l).fabric = s.fabric := rfl
@[simp] theorem State.setLaunch_service (s : State) (l : Launch) : (s.setLaunch l).service = s.service := rfl
@[simp] theorem State.setLaunch_sent (s : State) (l : Launch) : (s.setLaunch l).sent = s.sent := rfl

/-! ### setCore -/

@[simp] theorem State.setCore_agenda (s : State) (c : Nat) (f : Core → Core) : (s.setCore c f).agenda = s.agenda := rfl
@[simp] theorem State.setCore_cur (s : State) (c : Nat) (f : Core → Core) : (s.setCore c f).cur = s.cur := rfl
@[simp] theorem State.setCore_ilen (s : State) (c : Nat) (f : Core → Core) : (s.setCore c f).ilen = s.ilen := rfl
@[simp] theorem State.setCore_ev (s : State) (c : Nat) (f : Core → Core) : (s.setCore c f).ev = s.ev := rfl
@[simp] theorem State.setCore_freeCtr (s : State) (c : Nat) (f : Core → Core) : (s.setCore c f).freeCtr = s.freeCtr := rfl
@[simp] theorem State.setCore_nextId (s : State) (c : Nat) (f : Core → Core) : (s.setCore c f).nextId = s.nextId := rfl
@[simp] theorem State.setCore_turn (s : State) (c : Nat) (f : Core → Core) : (s.setCore c f).turn = s.turn := rfl
@[simp] theorem State.setCore_clk (s : State) (c : Nat) (f : Core → Core) : (s.setCore c f).clk = s.clk := rfl
@[simp] theorem State.setCore_mem (s : State) (c : Nat) (f : Core → Core) : (s.setCore c f).mem = s.mem := rfl
@[simp] theorem State.setCore_cores (s : State) (c : Nat) (f : Core → Core) : (s.setCore c f).cores = updAt s.cores c f := rfl
@[simp] theorem State.setCore_fibres (s : State) (c : Nat) (f : Core → Core) : (s.setCore c f).fibres = s.fibres := rfl
@[simp] theorem State.setCore_waves (s : State) (c : Nat) (f : Core → Core) : (s.setCore c f).waves = s.waves := rfl
@[simp] theorem State.setCore_teams (s : State) (c : Nat) (f : Core → Core) : (s.setCore c f).teams = s.teams := rfl
@[simp] theorem State.setCore_gangs (s : State) (c : Nat) (f : Core → Core) : (s.setCore c f).gangs = s.gangs := rfl
@[simp] theorem State.setCore_itemCrews (s : State) (c : Nat) (f : Core → Core) : (s.setCore c f).itemCrews = s.itemCrews := rfl
@[simp] theorem State.setCore_queues (s : State) (c : Nat) (f : Core → Core) : (s.setCore c f).queues = s.queues := rfl
@[simp] theorem State.setCore_pointers (s : State) (c : Nat) (f : Core → Core) : (s.setCore c f).pointers = s.pointers := rfl
@[simp] theorem State.setCore_rtobj (s : State) (c : Nat) (f : Core → Core) : (s.setCore c f).rtobj = s.rtobj := rfl
@[simp] theorem State.setCore_hdmBase (s : State) (c : Nat) (f : Core → Core) : (s.setCore c f).hdmBase = s.hdmBase := rfl
@[simp] theorem State.setCore_objects (s : State) (c : Nat) (f : Core → Core) : (s.setCore c f).objects = s.objects := rfl
@[simp] theorem State.setCore_launches (s : State) (c : Nat) (f : Core → Core) : (s.setCore c f).launches = s.launches := rfl
@[simp] theorem State.setCore_unloads (s : State) (c : Nat) (f : Core → Core) : (s.setCore c f).unloads = s.unloads := rfl
@[simp] theorem State.setCore_finished (s : State) (c : Nat) (f : Core → Core) : (s.setCore c f).finished = s.finished := rfl
@[simp] theorem State.setCore_ring (s : State) (c : Nat) (f : Core → Core) : (s.setCore c f).ring = s.ring := rfl
@[simp] theorem State.setCore_fuseDis (s : State) (c : Nat) (f : Core → Core) : (s.setCore c f).fuseDis = s.fuseDis := rfl
@[simp] theorem State.setCore_ops (s : State) (c : Nat) (f : Core → Core) : (s.setCore c f).ops = s.ops := rfl
@[simp] theorem State.setCore_tileOps (s : State) (c : Nat) (f : Core → Core) : (s.setCore c f).tileOps = s.tileOps := rfl
@[simp] theorem State.setCore_grids (s : State) (c : Nat) (f : Core → Core) : (s.setCore c f).grids = s.grids := rfl
@[simp] theorem State.setCore_families (s : State) (c : Nat) (f : Core → Core) : (s.setCore c f).families = s.families := rfl
@[simp] theorem State.setCore_entries (s : State) (c : Nat) (f : Core → Core) : (s.setCore c f).entries = s.entries := rfl
@[simp] theorem State.setCore_fwds (s : State) (c : Nat) (f : Core → Core) : (s.setCore c f).fwds = s.fwds := rfl
@[simp] theorem State.setCore_left (s : State) (c : Nat) (f : Core → Core) : (s.setCore c f).left = s.left := rfl
@[simp] theorem State.setCore_walkers (s : State) (c : Nat) (f : Core → Core) : (s.setCore c f).walkers = s.walkers := rfl
@[simp] theorem State.setCore_fabric (s : State) (c : Nat) (f : Core → Core) : (s.setCore c f).fabric = s.fabric := rfl
@[simp] theorem State.setCore_service (s : State) (c : Nat) (f : Core → Core) : (s.setCore c f).service = s.service := rfl
@[simp] theorem State.setCore_sent (s : State) (c : Nat) (f : Core → Core) : (s.setCore c f).sent = s.sent := rfl

/-! ### setQueue -/

@[simp] theorem State.setQueue_agenda (s : State) (q : Nat) (f : Queue → Queue) : (s.setQueue q f).agenda = s.agenda := rfl
@[simp] theorem State.setQueue_cur (s : State) (q : Nat) (f : Queue → Queue) : (s.setQueue q f).cur = s.cur := rfl
@[simp] theorem State.setQueue_ilen (s : State) (q : Nat) (f : Queue → Queue) : (s.setQueue q f).ilen = s.ilen := rfl
@[simp] theorem State.setQueue_ev (s : State) (q : Nat) (f : Queue → Queue) : (s.setQueue q f).ev = s.ev := rfl
@[simp] theorem State.setQueue_freeCtr (s : State) (q : Nat) (f : Queue → Queue) : (s.setQueue q f).freeCtr = s.freeCtr := rfl
@[simp] theorem State.setQueue_nextId (s : State) (q : Nat) (f : Queue → Queue) : (s.setQueue q f).nextId = s.nextId := rfl
@[simp] theorem State.setQueue_turn (s : State) (q : Nat) (f : Queue → Queue) : (s.setQueue q f).turn = s.turn := rfl
@[simp] theorem State.setQueue_clk (s : State) (q : Nat) (f : Queue → Queue) : (s.setQueue q f).clk = s.clk := rfl
@[simp] theorem State.setQueue_mem (s : State) (q : Nat) (f : Queue → Queue) : (s.setQueue q f).mem = s.mem := rfl
@[simp] theorem State.setQueue_cores (s : State) (q : Nat) (f : Queue → Queue) : (s.setQueue q f).cores = s.cores := rfl
@[simp] theorem State.setQueue_fibres (s : State) (q : Nat) (f : Queue → Queue) : (s.setQueue q f).fibres = s.fibres := rfl
@[simp] theorem State.setQueue_waves (s : State) (q : Nat) (f : Queue → Queue) : (s.setQueue q f).waves = s.waves := rfl
@[simp] theorem State.setQueue_teams (s : State) (q : Nat) (f : Queue → Queue) : (s.setQueue q f).teams = s.teams := rfl
@[simp] theorem State.setQueue_gangs (s : State) (q : Nat) (f : Queue → Queue) : (s.setQueue q f).gangs = s.gangs := rfl
@[simp] theorem State.setQueue_itemCrews (s : State) (q : Nat) (f : Queue → Queue) : (s.setQueue q f).itemCrews = s.itemCrews := rfl
@[simp] theorem State.setQueue_queues (s : State) (q : Nat) (f : Queue → Queue) : (s.setQueue q f).queues = updAt s.queues q f := rfl
@[simp] theorem State.setQueue_pointers (s : State) (q : Nat) (f : Queue → Queue) : (s.setQueue q f).pointers = s.pointers := rfl
@[simp] theorem State.setQueue_rtobj (s : State) (q : Nat) (f : Queue → Queue) : (s.setQueue q f).rtobj = s.rtobj := rfl
@[simp] theorem State.setQueue_hdmBase (s : State) (q : Nat) (f : Queue → Queue) : (s.setQueue q f).hdmBase = s.hdmBase := rfl
@[simp] theorem State.setQueue_objects (s : State) (q : Nat) (f : Queue → Queue) : (s.setQueue q f).objects = s.objects := rfl
@[simp] theorem State.setQueue_launches (s : State) (q : Nat) (f : Queue → Queue) : (s.setQueue q f).launches = s.launches := rfl
@[simp] theorem State.setQueue_unloads (s : State) (q : Nat) (f : Queue → Queue) : (s.setQueue q f).unloads = s.unloads := rfl
@[simp] theorem State.setQueue_finished (s : State) (q : Nat) (f : Queue → Queue) : (s.setQueue q f).finished = s.finished := rfl
@[simp] theorem State.setQueue_ring (s : State) (q : Nat) (f : Queue → Queue) : (s.setQueue q f).ring = s.ring := rfl
@[simp] theorem State.setQueue_fuseDis (s : State) (q : Nat) (f : Queue → Queue) : (s.setQueue q f).fuseDis = s.fuseDis := rfl
@[simp] theorem State.setQueue_ops (s : State) (q : Nat) (f : Queue → Queue) : (s.setQueue q f).ops = s.ops := rfl
@[simp] theorem State.setQueue_tileOps (s : State) (q : Nat) (f : Queue → Queue) : (s.setQueue q f).tileOps = s.tileOps := rfl
@[simp] theorem State.setQueue_grids (s : State) (q : Nat) (f : Queue → Queue) : (s.setQueue q f).grids = s.grids := rfl
@[simp] theorem State.setQueue_families (s : State) (q : Nat) (f : Queue → Queue) : (s.setQueue q f).families = s.families := rfl
@[simp] theorem State.setQueue_entries (s : State) (q : Nat) (f : Queue → Queue) : (s.setQueue q f).entries = s.entries := rfl
@[simp] theorem State.setQueue_fwds (s : State) (q : Nat) (f : Queue → Queue) : (s.setQueue q f).fwds = s.fwds := rfl
@[simp] theorem State.setQueue_left (s : State) (q : Nat) (f : Queue → Queue) : (s.setQueue q f).left = s.left := rfl
@[simp] theorem State.setQueue_walkers (s : State) (q : Nat) (f : Queue → Queue) : (s.setQueue q f).walkers = s.walkers := rfl
@[simp] theorem State.setQueue_fabric (s : State) (q : Nat) (f : Queue → Queue) : (s.setQueue q f).fabric = s.fabric := rfl
@[simp] theorem State.setQueue_service (s : State) (q : Nat) (f : Queue → Queue) : (s.setQueue q f).service = s.service := rfl
@[simp] theorem State.setQueue_sent (s : State) (q : Nat) (f : Queue → Queue) : (s.setQueue q f).sent = s.sent := rfl

/-! ### wake -/

@[simp] theorem State.wake_agenda (s : State) : (s.wake).agenda = s.agenda := rfl
@[simp] theorem State.wake_cur (s : State) : (s.wake).cur = s.cur := rfl
@[simp] theorem State.wake_ilen (s : State) : (s.wake).ilen = s.ilen := rfl
@[simp] theorem State.wake_ev (s : State) : (s.wake).ev = s.ev := rfl
@[simp] theorem State.wake_freeCtr (s : State) : (s.wake).freeCtr = s.freeCtr := rfl
@[simp] theorem State.wake_nextId (s : State) : (s.wake).nextId = s.nextId := rfl
@[simp] theorem State.wake_turn (s : State) : (s.wake).turn = s.turn := rfl
@[simp] theorem State.wake_clk (s : State) : (s.wake).clk = s.clk := rfl
@[simp] theorem State.wake_mem (s : State) : (s.wake).mem = s.mem := rfl
@[simp] theorem State.wake_cores (s : State) : (s.wake).cores = s.cores := rfl
@[simp] theorem State.wake_fibres (s : State) : (s.wake).fibres = s.fibres := rfl
@[simp] theorem State.wake_waves (s : State) : (s.wake).waves = s.waves.map (fun w => { w with stalled := false }) := rfl
@[simp] theorem State.wake_teams (s : State) : (s.wake).teams = s.teams := rfl
@[simp] theorem State.wake_gangs (s : State) : (s.wake).gangs = s.gangs := rfl
@[simp] theorem State.wake_itemCrews (s : State) : (s.wake).itemCrews = s.itemCrews := rfl
@[simp] theorem State.wake_queues (s : State) : (s.wake).queues = s.queues := rfl
@[simp] theorem State.wake_pointers (s : State) : (s.wake).pointers = s.pointers := rfl
@[simp] theorem State.wake_rtobj (s : State) : (s.wake).rtobj = s.rtobj := rfl
@[simp] theorem State.wake_hdmBase (s : State) : (s.wake).hdmBase = s.hdmBase := rfl
@[simp] theorem State.wake_objects (s : State) : (s.wake).objects = s.objects := rfl
@[simp] theorem State.wake_launches (s : State) : (s.wake).launches = s.launches := rfl
@[simp] theorem State.wake_unloads (s : State) : (s.wake).unloads = s.unloads := rfl
@[simp] theorem State.wake_finished (s : State) : (s.wake).finished = s.finished := rfl
@[simp] theorem State.wake_ring (s : State) : (s.wake).ring = s.ring := rfl
@[simp] theorem State.wake_fuseDis (s : State) : (s.wake).fuseDis = s.fuseDis := rfl
@[simp] theorem State.wake_ops (s : State) : (s.wake).ops = s.ops := rfl
@[simp] theorem State.wake_tileOps (s : State) : (s.wake).tileOps = s.tileOps := rfl
@[simp] theorem State.wake_grids (s : State) : (s.wake).grids = s.grids := rfl
@[simp] theorem State.wake_families (s : State) : (s.wake).families = s.families := rfl
@[simp] theorem State.wake_entries (s : State) : (s.wake).entries = s.entries := rfl
@[simp] theorem State.wake_fwds (s : State) : (s.wake).fwds = s.fwds := rfl
@[simp] theorem State.wake_left (s : State) : (s.wake).left = s.left := rfl
@[simp] theorem State.wake_walkers (s : State) : (s.wake).walkers = s.walkers := rfl
@[simp] theorem State.wake_fabric (s : State) : (s.wake).fabric = s.fabric := rfl
@[simp] theorem State.wake_service (s : State) : (s.wake).service = s.service := rfl
@[simp] theorem State.wake_sent (s : State) : (s.wake).sent = s.sent := rfl

/-! ### send -/

@[simp] theorem State.send_agenda (s : State) (m : Msg) : (s.send m).agenda = s.agenda := rfl
@[simp] theorem State.send_cur (s : State) (m : Msg) : (s.send m).cur = s.cur := rfl
@[simp] theorem State.send_ilen (s : State) (m : Msg) : (s.send m).ilen = s.ilen := rfl
@[simp] theorem State.send_ev (s : State) (m : Msg) : (s.send m).ev = s.ev := rfl
@[simp] theorem State.send_freeCtr (s : State) (m : Msg) : (s.send m).freeCtr = s.freeCtr := rfl
@[simp] theorem State.send_nextId (s : State) (m : Msg) : (s.send m).nextId = s.nextId := rfl
@[simp] theorem State.send_turn (s : State) (m : Msg) : (s.send m).turn = s.turn := rfl
@[simp] theorem State.send_clk (s : State) (m : Msg) : (s.send m).clk = s.clk := rfl
@[simp] theorem State.send_mem (s : State) (m : Msg) : (s.send m).mem = s.mem := rfl
@[simp] theorem State.send_cores (s : State) (m : Msg) : (s.send m).cores = s.cores := rfl
@[simp] theorem State.send_fibres (s : State) (m : Msg) : (s.send m).fibres = s.fibres := rfl
@[simp] theorem State.send_waves (s : State) (m : Msg) : (s.send m).waves = s.waves := rfl
@[simp] theorem State.send_teams (s : State) (m : Msg) : (s.send m).teams = s.teams := rfl
@[simp] theorem State.send_gangs (s : State) (m : Msg) : (s.send m).gangs = s.gangs := rfl
@[simp] theorem State.send_itemCrews (s : State) (m : Msg) : (s.send m).itemCrews = s.itemCrews := rfl
@[simp] theorem State.send_queues (s : State) (m : Msg) : (s.send m).queues = s.queues := rfl
@[simp] theorem State.send_pointers (s : State) (m : Msg) : (s.send m).pointers = s.pointers := rfl
@[simp] theorem State.send_rtobj (s : State) (m : Msg) : (s.send m).rtobj = s.rtobj := rfl
@[simp] theorem State.send_hdmBase (s : State) (m : Msg) : (s.send m).hdmBase = s.hdmBase := rfl
@[simp] theorem State.send_objects (s : State) (m : Msg) : (s.send m).objects = s.objects := rfl
@[simp] theorem State.send_launches (s : State) (m : Msg) : (s.send m).launches = s.launches := rfl
@[simp] theorem State.send_unloads (s : State) (m : Msg) : (s.send m).unloads = s.unloads := rfl
@[simp] theorem State.send_finished (s : State) (m : Msg) : (s.send m).finished = s.finished := rfl
@[simp] theorem State.send_ring (s : State) (m : Msg) : (s.send m).ring = s.ring := rfl
@[simp] theorem State.send_fuseDis (s : State) (m : Msg) : (s.send m).fuseDis = s.fuseDis := rfl
@[simp] theorem State.send_ops (s : State) (m : Msg) : (s.send m).ops = s.ops := rfl
@[simp] theorem State.send_tileOps (s : State) (m : Msg) : (s.send m).tileOps = s.tileOps := rfl
@[simp] theorem State.send_grids (s : State) (m : Msg) : (s.send m).grids = s.grids := rfl
@[simp] theorem State.send_families (s : State) (m : Msg) : (s.send m).families = s.families := rfl
@[simp] theorem State.send_entries (s : State) (m : Msg) : (s.send m).entries = s.entries := rfl
@[simp] theorem State.send_fwds (s : State) (m : Msg) : (s.send m).fwds = s.fwds := rfl
@[simp] theorem State.send_left (s : State) (m : Msg) : (s.send m).left = s.left := rfl
@[simp] theorem State.send_walkers (s : State) (m : Msg) : (s.send m).walkers = s.walkers := rfl
@[simp] theorem State.send_service (s : State) (m : Msg) : (s.send m).service = s.service := rfl
@[simp] theorem State.send_sent (s : State) (m : Msg) : (s.send m).sent = if s.fabric.takes m then m :: s.sent else s.sent := rfl

/-! ### ackFlit -/

@[simp] theorem State.ackFlit_agenda (s : State) (i : Nat) : (s.ackFlit i).agenda = s.agenda := rfl
@[simp] theorem State.ackFlit_cur (s : State) (i : Nat) : (s.ackFlit i).cur = s.cur := rfl
@[simp] theorem State.ackFlit_ilen (s : State) (i : Nat) : (s.ackFlit i).ilen = s.ilen := rfl
@[simp] theorem State.ackFlit_ev (s : State) (i : Nat) : (s.ackFlit i).ev = s.ev := rfl
@[simp] theorem State.ackFlit_freeCtr (s : State) (i : Nat) : (s.ackFlit i).freeCtr = s.freeCtr := rfl
@[simp] theorem State.ackFlit_nextId (s : State) (i : Nat) : (s.ackFlit i).nextId = s.nextId := rfl
@[simp] theorem State.ackFlit_turn (s : State) (i : Nat) : (s.ackFlit i).turn = s.turn := rfl
@[simp] theorem State.ackFlit_clk (s : State) (i : Nat) : (s.ackFlit i).clk = s.clk := rfl
@[simp] theorem State.ackFlit_mem (s : State) (i : Nat) : (s.ackFlit i).mem = s.mem := rfl
@[simp] theorem State.ackFlit_cores (s : State) (i : Nat) : (s.ackFlit i).cores = s.cores := rfl
@[simp] theorem State.ackFlit_fibres (s : State) (i : Nat) : (s.ackFlit i).fibres = s.fibres := rfl
@[simp] theorem State.ackFlit_waves (s : State) (i : Nat) : (s.ackFlit i).waves = s.waves := rfl
@[simp] theorem State.ackFlit_teams (s : State) (i : Nat) : (s.ackFlit i).teams = s.teams := rfl
@[simp] theorem State.ackFlit_gangs (s : State) (i : Nat) : (s.ackFlit i).gangs = s.gangs := rfl
@[simp] theorem State.ackFlit_itemCrews (s : State) (i : Nat) : (s.ackFlit i).itemCrews = s.itemCrews := rfl
@[simp] theorem State.ackFlit_queues (s : State) (i : Nat) : (s.ackFlit i).queues = s.queues := rfl
@[simp] theorem State.ackFlit_pointers (s : State) (i : Nat) : (s.ackFlit i).pointers = s.pointers := rfl
@[simp] theorem State.ackFlit_rtobj (s : State) (i : Nat) : (s.ackFlit i).rtobj = s.rtobj := rfl
@[simp] theorem State.ackFlit_hdmBase (s : State) (i : Nat) : (s.ackFlit i).hdmBase = s.hdmBase := rfl
@[simp] theorem State.ackFlit_objects (s : State) (i : Nat) : (s.ackFlit i).objects = s.objects := rfl
@[simp] theorem State.ackFlit_launches (s : State) (i : Nat) : (s.ackFlit i).launches = s.launches := rfl
@[simp] theorem State.ackFlit_unloads (s : State) (i : Nat) : (s.ackFlit i).unloads = s.unloads := rfl
@[simp] theorem State.ackFlit_finished (s : State) (i : Nat) : (s.ackFlit i).finished = s.finished := rfl
@[simp] theorem State.ackFlit_ring (s : State) (i : Nat) : (s.ackFlit i).ring = s.ring := rfl
@[simp] theorem State.ackFlit_fuseDis (s : State) (i : Nat) : (s.ackFlit i).fuseDis = s.fuseDis := rfl
@[simp] theorem State.ackFlit_ops (s : State) (i : Nat) : (s.ackFlit i).ops = s.ops := rfl
@[simp] theorem State.ackFlit_tileOps (s : State) (i : Nat) : (s.ackFlit i).tileOps = s.tileOps := rfl
@[simp] theorem State.ackFlit_grids (s : State) (i : Nat) : (s.ackFlit i).grids = s.grids := rfl
@[simp] theorem State.ackFlit_families (s : State) (i : Nat) : (s.ackFlit i).families = s.families := rfl
@[simp] theorem State.ackFlit_entries (s : State) (i : Nat) : (s.ackFlit i).entries = s.entries := rfl
@[simp] theorem State.ackFlit_fwds (s : State) (i : Nat) : (s.ackFlit i).fwds = s.fwds := rfl
@[simp] theorem State.ackFlit_left (s : State) (i : Nat) : (s.ackFlit i).left = s.left := rfl
@[simp] theorem State.ackFlit_walkers (s : State) (i : Nat) : (s.ackFlit i).walkers = s.walkers := rfl
@[simp] theorem State.ackFlit_service (s : State) (i : Nat) : (s.ackFlit i).service = s.service := rfl
@[simp] theorem State.ackFlit_sent (s : State) (i : Nat) : (s.ackFlit i).sent = s.sent := rfl

theorem Fabric.takes_direct (f : Fabric) {m : Msg} (h : m.onFabric = none) : f.takes m = true := by
  unfold Fabric.takes
  rw [h]

/-- A message that is not for the fabric leaves at once. -/
theorem State.send_direct (s : State) {m : Msg} (h : m.onFabric = none) : s.send m = { s with sent := m :: s.sent } := by
  unfold State.send
  rw [Fabric.takes_direct _ h, if_pos rfl, if_pos rfl]
  split
  · exact nomatch h
  · rfl

/-! ### newId -/

@[simp] theorem State.newId_fst (s : State) : s.newId.1 = s.nextId := rfl
@[simp] theorem State.newId_agenda (s : State) : s.newId.2.agenda = s.agenda := rfl
@[simp] theorem State.newId_cur (s : State) : s.newId.2.cur = s.cur := rfl
@[simp] theorem State.newId_ilen (s : State) : s.newId.2.ilen = s.ilen := rfl
@[simp] theorem State.newId_ev (s : State) : s.newId.2.ev = s.ev := rfl
@[simp] theorem State.newId_freeCtr (s : State) : s.newId.2.freeCtr = s.freeCtr := rfl
@[simp] theorem State.newId_nextId (s : State) : s.newId.2.nextId = s.nextId + 1 := rfl
@[simp] theorem State.newId_turn (s : State) : s.newId.2.turn = s.turn := rfl
@[simp] theorem State.newId_clk (s : State) : s.newId.2.clk = s.clk := rfl
@[simp] theorem State.newId_mem (s : State) : s.newId.2.mem = s.mem := rfl
@[simp] theorem State.newId_cores (s : State) : s.newId.2.cores = s.cores := rfl
@[simp] theorem State.newId_fibres (s : State) : s.newId.2.fibres = s.fibres := rfl
@[simp] theorem State.newId_waves (s : State) : s.newId.2.waves = s.waves := rfl
@[simp] theorem State.newId_teams (s : State) : s.newId.2.teams = s.teams := rfl
@[simp] theorem State.newId_gangs (s : State) : s.newId.2.gangs = s.gangs := rfl
@[simp] theorem State.newId_itemCrews (s : State) : s.newId.2.itemCrews = s.itemCrews := rfl
@[simp] theorem State.newId_queues (s : State) : s.newId.2.queues = s.queues := rfl
@[simp] theorem State.newId_pointers (s : State) : s.newId.2.pointers = s.pointers := rfl
@[simp] theorem State.newId_rtobj (s : State) : s.newId.2.rtobj = s.rtobj := rfl
@[simp] theorem State.newId_hdmBase (s : State) : s.newId.2.hdmBase = s.hdmBase := rfl
@[simp] theorem State.newId_objects (s : State) : s.newId.2.objects = s.objects := rfl
@[simp] theorem State.newId_launches (s : State) : s.newId.2.launches = s.launches := rfl
@[simp] theorem State.newId_unloads (s : State) : s.newId.2.unloads = s.unloads := rfl
@[simp] theorem State.newId_finished (s : State) : s.newId.2.finished = s.finished := rfl
@[simp] theorem State.newId_ring (s : State) : s.newId.2.ring = s.ring := rfl
@[simp] theorem State.newId_fuseDis (s : State) : s.newId.2.fuseDis = s.fuseDis := rfl
@[simp] theorem State.newId_ops (s : State) : s.newId.2.ops = s.ops := rfl
@[simp] theorem State.newId_tileOps (s : State) : s.newId.2.tileOps = s.tileOps := rfl
@[simp] theorem State.newId_grids (s : State) : s.newId.2.grids = s.grids := rfl
@[simp] theorem State.newId_families (s : State) : s.newId.2.families = s.families := rfl
@[simp] theorem State.newId_entries (s : State) : s.newId.2.entries = s.entries := rfl
@[simp] theorem State.newId_fwds (s : State) : s.newId.2.fwds = s.fwds := rfl
@[simp] theorem State.newId_left (s : State) : s.newId.2.left = s.left := rfl
@[simp] theorem State.newId_walkers (s : State) : s.newId.2.walkers = s.walkers := rfl
@[simp] theorem State.newId_fabric (s : State) : s.newId.2.fabric = s.fabric := rfl
@[simp] theorem State.newId_service (s : State) : s.newId.2.service = s.service := rfl
@[simp] theorem State.newId_sent (s : State) : s.newId.2.sent = s.sent := rfl

/-! ### setFibres -/

@[simp] theorem State.setFibres_nil (s : State) : s.setFibres [] = s := rfl
@[simp] theorem State.setFibres_agenda (s : State) (fs : List Fibre) : (s.setFibres fs).agenda = s.agenda := by
  induction fs generalizing s with
  | nil => rfl
  | cons x xs ih => exact ih (s.setFibre x)
@[simp] theorem State.setFibres_cur (s : State) (fs : List Fibre) : (s.setFibres fs).cur = s.cur := by
  induction fs generalizing s with
  | nil => rfl
  | cons x xs ih => exact ih (s.setFibre x)
@[simp] theorem State.setFibres_ilen (s : State) (fs : List Fibre) : (s.setFibres fs).ilen = s.ilen := by
  induction fs generalizing s with
  | nil => rfl
  | cons x xs ih => exact ih (s.setFibre x)
@[simp] theorem State.setFibres_ev (s : State) (fs : List Fibre) : (s.setFibres fs).ev = s.ev := by
  induction fs generalizing s with
  | nil => rfl
  | cons x xs ih => exact ih (s.setFibre x)
@[simp] theorem State.setFibres_freeCtr (s : State) (fs : List Fibre) : (s.setFibres fs).freeCtr = s.freeCtr := by
  induction fs generalizing s with
  | nil => rfl
  | cons x xs ih => exact ih (s.setFibre x)
@[simp] theorem State.setFibres_nextId (s : State) (fs : List Fibre) : (s.setFibres fs).nextId = s.nextId := by
  induction fs generalizing s with
  | nil => rfl
  | cons x xs ih => exact ih (s.setFibre x)
@[simp] theorem State.setFibres_turn (s : State) (fs : List Fibre) : (s.setFibres fs).turn = s.turn := by
  induction fs generalizing s with
  | nil => rfl
  | cons x xs ih => exact ih (s.setFibre x)
@[simp] theorem State.setFibres_clk (s : State) (fs : List Fibre) : (s.setFibres fs).clk = s.clk := by
  induction fs generalizing s with
  | nil => rfl
  | cons x xs ih => exact ih (s.setFibre x)
@[simp] theorem State.setFibres_mem (s : State) (fs : List Fibre) : (s.setFibres fs).mem = s.mem := by
  induction fs generalizing s with
  | nil => rfl
  | cons x xs ih => exact ih (s.setFibre x)
@[simp] theorem State.setFibres_cores (s : State) (fs : List Fibre) : (s.setFibres fs).cores = s.cores := by
  induction fs generalizing s with
  | nil => rfl
  | cons x xs ih => exact ih (s.setFibre x)
@[simp] theorem State.setFibres_waves (s : State) (fs : List Fibre) : (s.setFibres fs).waves = s.waves := by
  induction fs generalizing s with
  | nil => rfl
  | cons x xs ih => exact ih (s.setFibre x)
@[simp] theorem State.setFibres_teams (s : State) (fs : List Fibre) : (s.setFibres fs).teams = s.teams := by
  induction fs generalizing s with
  | nil => rfl
  | cons x xs ih => exact ih (s.setFibre x)
@[simp] theorem State.setFibres_gangs (s : State) (fs : List Fibre) : (s.setFibres fs).gangs = s.gangs := by
  induction fs generalizing s with
  | nil => rfl
  | cons x xs ih => exact ih (s.setFibre x)
@[simp] theorem State.setFibres_itemCrews (s : State) (fs : List Fibre) : (s.setFibres fs).itemCrews = s.itemCrews := by
  induction fs generalizing s with
  | nil => rfl
  | cons x xs ih => exact ih (s.setFibre x)
@[simp] theorem State.setFibres_queues (s : State) (fs : List Fibre) : (s.setFibres fs).queues = s.queues := by
  induction fs generalizing s with
  | nil => rfl
  | cons x xs ih => exact ih (s.setFibre x)
@[simp] theorem State.setFibres_pointers (s : State) (fs : List Fibre) : (s.setFibres fs).pointers = s.pointers := by
  induction fs generalizing s with
  | nil => rfl
  | cons x xs ih => exact ih (s.setFibre x)
@[simp] theorem State.setFibres_rtobj (s : State) (fs : List Fibre) : (s.setFibres fs).rtobj = s.rtobj := by
  induction fs generalizing s with
  | nil => rfl
  | cons x xs ih => exact ih (s.setFibre x)
@[simp] theorem State.setFibres_hdmBase (s : State) (fs : List Fibre) : (s.setFibres fs).hdmBase = s.hdmBase := by
  induction fs generalizing s with
  | nil => rfl
  | cons x xs ih => exact ih (s.setFibre x)
@[simp] theorem State.setFibres_objects (s : State) (fs : List Fibre) : (s.setFibres fs).objects = s.objects := by
  induction fs generalizing s with
  | nil => rfl
  | cons x xs ih => exact ih (s.setFibre x)
@[simp] theorem State.setFibres_launches (s : State) (fs : List Fibre) : (s.setFibres fs).launches = s.launches := by
  induction fs generalizing s with
  | nil => rfl
  | cons x xs ih => exact ih (s.setFibre x)
@[simp] theorem State.setFibres_unloads (s : State) (fs : List Fibre) : (s.setFibres fs).unloads = s.unloads := by
  induction fs generalizing s with
  | nil => rfl
  | cons x xs ih => exact ih (s.setFibre x)
@[simp] theorem State.setFibres_finished (s : State) (fs : List Fibre) : (s.setFibres fs).finished = s.finished := by
  induction fs generalizing s with
  | nil => rfl
  | cons x xs ih => exact ih (s.setFibre x)
@[simp] theorem State.setFibres_ring (s : State) (fs : List Fibre) : (s.setFibres fs).ring = s.ring := by
  induction fs generalizing s with
  | nil => rfl
  | cons x xs ih => exact ih (s.setFibre x)
@[simp] theorem State.setFibres_fuseDis (s : State) (fs : List Fibre) : (s.setFibres fs).fuseDis = s.fuseDis := by
  induction fs generalizing s with
  | nil => rfl
  | cons x xs ih => exact ih (s.setFibre x)
@[simp] theorem State.setFibres_ops (s : State) (fs : List Fibre) : (s.setFibres fs).ops = s.ops := by
  induction fs generalizing s with
  | nil => rfl
  | cons x xs ih => exact ih (s.setFibre x)
@[simp] theorem State.setFibres_tileOps (s : State) (fs : List Fibre) : (s.setFibres fs).tileOps = s.tileOps := by
  induction fs generalizing s with
  | nil => rfl
  | cons x xs ih => exact ih (s.setFibre x)
@[simp] theorem State.setFibres_grids (s : State) (fs : List Fibre) : (s.setFibres fs).grids = s.grids := by
  induction fs generalizing s with
  | nil => rfl
  | cons x xs ih => exact ih (s.setFibre x)
@[simp] theorem State.setFibres_families (s : State) (fs : List Fibre) : (s.setFibres fs).families = s.families := by
  induction fs generalizing s with
  | nil => rfl
  | cons x xs ih => exact ih (s.setFibre x)
@[simp] theorem State.setFibres_entries (s : State) (fs : List Fibre) : (s.setFibres fs).entries = s.entries := by
  induction fs generalizing s with
  | nil => rfl
  | cons x xs ih => exact ih (s.setFibre x)
@[simp] theorem State.setFibres_fwds (s : State) (fs : List Fibre) : (s.setFibres fs).fwds = s.fwds := by
  induction fs generalizing s with
  | nil => rfl
  | cons x xs ih => exact ih (s.setFibre x)
@[simp] theorem State.setFibres_left (s : State) (fs : List Fibre) : (s.setFibres fs).left = s.left := by
  induction fs generalizing s with
  | nil => rfl
  | cons x xs ih => exact ih (s.setFibre x)
@[simp] theorem State.setFibres_walkers (s : State) (fs : List Fibre) : (s.setFibres fs).walkers = s.walkers := by
  induction fs generalizing s with
  | nil => rfl
  | cons x xs ih => exact ih (s.setFibre x)
@[simp] theorem State.setFibres_fabric (s : State) (fs : List Fibre) : (s.setFibres fs).fabric = s.fabric := by
  induction fs generalizing s with
  | nil => rfl
  | cons x xs ih => exact ih (s.setFibre x)
@[simp] theorem State.setFibres_service (s : State) (fs : List Fibre) : (s.setFibres fs).service = s.service := by
  induction fs generalizing s with
  | nil => rfl
  | cons x xs ih => exact ih (s.setFibre x)
@[simp] theorem State.setFibres_sent (s : State) (fs : List Fibre) : (s.setFibres fs).sent = s.sent := by
  induction fs generalizing s with
  | nil => rfl
  | cons x xs ih => exact ih (s.setFibre x)

end Sys2Proof.Machine
end

