-- ==== Sys2Proof/Laws/Issue.lean ====
section
/-! SUPPORT. What an issue comes to when nothing keeps the word from its wave: the instruction's own effect, then the end of
the issue. Completion statements cite these and never unfold `issue`. -/

namespace Sys2Proof.Machine

variable {op : Op} {w : Fields} {s s1 : State} {wv : Wave} {fs : List Fibre} {f : Fibre} {body : Body}

theorem Ready.active_eq (h : Ready op w s wv fs f) : (issueCtx op w s wv fs f.pc).act
    = (fs.filter (fun g => g.active w.guard)).map (fun g => g.issued (s.fallOf f.pc)) := by
  obtain ⟨-, -, -, -, -, -, hw, hf, -⟩ := h
  have e1 : fs.filter (fun g => (breach op w g).isNone) = fs :=
    List.filter_eq_self.mpr (fun g hg => by simp [hw g hg])
  have e2 : (fs.filter (fun g => g.active w.guard)).filter
        (fun g => (turnedAway op w f.pc (fs.filter (fun g => g.active w.guard)).head? g).isNone)
      = fs.filter (fun g => g.active w.guard) :=
    List.filter_eq_self.mpr (fun g hg => by rw [hf g (List.mem_filter.mp hg).1]; rfl)
  simp only [issueCtx, e1, e2]

theorem Ready.active_ne (h : Ready op w s wv fs f) : (issueCtx op w s wv fs f.pc).act.isEmpty = false := by
  rw [Ready.active_eq h]
  obtain ⟨g, hg, ha⟩ := h.2.2.2.2.2.2.2.2
  have : g ∈ fs.filter (fun g => g.active w.guard) := List.mem_filter.mpr ⟨hg, ha⟩
  cases e : fs.filter (fun g => g.active w.guard) with
  | nil => rw [e] at this; cases this
  | cons x xs => rfl

theorem filter_none {α : Type} (l : List α) : l.filter (fun _ => true) = l := List.filter_eq_self.mpr (fun _ _ => rfl)

/-- A ready wave issues: its instruction's own effect comes about, and then the issue ends. -/
theorem issue_ways (h : Ready op w s wv fs f) {ways : List (FibreId × Way)}
    (hb : body (issueCtx op w s wv fs f.pc) (s.begun (issueCtx op w s wv fs f.pc)) = .ok (s1, ways))
    (hk : (s.bankFull wv && anyTrap ways) = false) :
    issue op w body s = .next ((s1.openWindows (issueCtx op w s wv fs f.pc)
      (((issueCtx op w s wv fs f.pc).act.filter (fun g => !ways.any (fun p => p.1 == g.id))).map Fibre.id)).finish
        (issueCtx op w s wv fs f.pc) fs ways) := by
  have ha := Ready.active_ne h
  obtain ⟨hc, hfs, hhd, hd, hck, hm, hw, hf, -⟩ := h
  obtain ⟨r, rfl⟩ : ∃ r, fs = f :: r := by
    cases fs with
    | nil => cases hhd
    | cons x r => cases hhd; exact ⟨r, rfl⟩
  unfold issue
  rw [hc]
  simp only []
  rw [hfs]
  simp only []
  have e1 : (f :: r).filterMap (fun g => (breach op w g).map (fun k => (g.id, Way.trap { cause := insnLookahead k } .atPc f.pc))) = [] :=
    List.filterMap_eq_nil_iff.mpr (fun g hg => by rw [hw g hg]; rfl)
  have e2 : (f :: r).filter (fun g => (breach op w g).isNone) = f :: r :=
    List.filter_eq_self.mpr (fun g hg => by rw [hw g hg]; rfl)
  have e3 : ((f :: r).filter (fun g => g.active w.guard)).filterMap
      (fun g => (turnedAway op w f.pc ((f :: r).filter (fun g => g.active w.guard)).head? g).map (fun x => (g.id, x))) = [] :=
    List.filterMap_eq_nil_iff.mpr (fun g hg => by rw [hf g (List.mem_filter.mp hg).1]; rfl)
  unfold issueWave
  simp only [hd, hck, hm, e1, e2, e3, ha, hb, List.isEmpty_nil, Bool.false_and, Bool.not_true, Bool.false_eq_true, if_false, List.append_nil,
    List.nil_append, List.any_nil, Bool.not_false, filter_none, hk]

/-- A ready wave issues an instruction whose effect turns no lane another way. -/
theorem issue_done (h : Ready op w s wv fs f)
    (hb : body (issueCtx op w s wv fs f.pc) (s.begun (issueCtx op w s wv fs f.pc)) = .ok (s1, [])) :
    issue op w body s = .next (s1.done (issueCtx op w s wv fs f.pc) fs) := by
  rw [issue_ways h hb (by simp [anyTrap])]
  simp only [State.done, List.any_nil, Bool.not_false, filter_none]

/-- An instruction whose lanes each compute on their own fibre completes. -/
theorem issue_perFibre {g : Ctx → Fibre → Fibre} (h : Ready op w s wv fs f) :
    issue op w (perFibre g) s = .next (((issueCtx op w s wv fs f.pc).act.foldl
      (fun u x => u.setFibre (g (issueCtx op w s wv fs f.pc) x)) (s.begun (issueCtx op w s wv fs f.pc))).done
        (issueCtx op w s wv fs f.pc) fs) :=
  issue_done (body := perFibre g) h rfl

/-- An instruction that acts for the wave completes where its effect does. -/
theorem issue_perWave {g : Ctx → M Unit} (h : Ready op w s wv fs f)
    (hb : (g (issueCtx op w s wv fs f.pc)).run (s.begun (issueCtx op w s wv fs f.pc)) = .ok ((), s1)) :
    issue op w (perWave g) s = .next (s1.done (issueCtx op w s wv fs f.pc) fs) :=
  issue_done h (by simp only [perWave, hb])

/-! ### A wave of one fibre -/

theorem Solo.all_eq : (soloCtx op w s wv f).all = [f.issued (s.fallOf f.pc)] := rfl

theorem Solo.act_eq (h : Solo op w s wv f) : (soloCtx op w s wv f).act = [f.issued (s.fallOf f.pc)] := by
  rw [Ready.active_eq h]
  obtain ⟨g, hg, ha⟩ := h.2.2.2.2.2.2.2.2
  cases List.mem_singleton.mp hg
  simp [List.filter, ha]

theorem Solo.low_eq (h : Solo op w s wv f) : (soloCtx op w s wv f).low = some (f.issued (s.fallOf f.pc)) := by
  obtain ⟨g, hg, ha⟩ := h.2.2.2.2.2.2.2.2
  cases List.mem_singleton.mp hg
  have hw := h.2.2.2.2.2.2.1 f (List.mem_singleton.mpr rfl)
  simp [issueCtx, List.filter, ha, hw]

theorem Solo.lead_eq (h : Solo op w s wv f) : (soloCtx op w s wv f).lead = f.issued (s.fallOf f.pc) := by
  rw [Ctx.lead, Solo.low_eq h]; rfl

/-- A fibre looked up is one of the state's, under the name it was looked up by. -/
theorem State.fibre?_id {i : FibreId} (h : s.fibre? i = some f) : f.id = i := by
  have := List.find?_some h
  exact eq_of_beq this

/-- A fibre of a wave is one of the state's. -/
theorem State.mem_waveFibres (h : f ∈ s.waveFibres wv) : s.fibre? f.id = some f := by
  obtain ⟨l, -, hl⟩ := List.mem_filterMap.mp h
  split at hl
  · rw [State.fibre?_id hl]; exact hl
  · cases hl

theorem State.fibre?_setFibre_self {g : Fibre} (h : s.fibre? g.id = some f) : (s.setFibre g).fibre? g.id = some g := by
  unfold State.fibre? at h ⊢
  rw [State.setFibre_fibres]
  revert h
  induction s.fibres with
  | nil => intro h; cases h
  | cons x xs ih =>
    intro h
    rw [List.map_cons, List.find?_cons]
    by_cases hx : x.id == g.id
    · simp [hx]
    · rw [List.find?_cons] at h
      simp only [hx] at h
      simpa [hx] using ih h

theorem State.fibre?_setFibre_other {g : Fibre} {i : FibreId} (h : g.id ≠ i) : (s.setFibre g).fibre? i = s.fibre? i := by
  unfold State.fibre? State.setFibre
  simp only
  induction s.fibres with
  | nil => rfl
  | cons x xs ih =>
    rw [List.map_cons, List.find?_cons, List.find?_cons, ih]
    by_cases hx : x.id == g.id
    · have hx' : (x.id == i) = false := by rw [eq_of_beq hx]; exact beq_eq_false_iff_ne.mpr h
      have hg : (g.id == i) = false := beq_eq_false_iff_ne.mpr h
      simp [hx, hx', hg]
    · simp [hx]

/-- The fibre as it stands when the effect of its instruction begins. -/
theorem Solo.cur (h : Solo op w s wv f) :
    (s.begun (soloCtx op w s wv f)).fibre? f.id = some (f.issued (s.fallOf f.pc)) := by
  have hm : f ∈ s.waveFibres wv := by rw [h.2.1]; exact List.mem_singleton.mpr rfl
  exact State.fibre?_setFibre_self (f := f) (g := f.issued (s.fallOf f.pc)) (State.mem_waveFibres hm)

/-- An instruction of one lane completes where that lane's effect does. -/
theorem issue_solo {g : Ctx → Fibre → M Unit} (h : Solo op w s wv f)
    (hb : (g (soloCtx op w s wv f) (f.issued (s.fallOf f.pc))).run (s.begun (soloCtx op w s wv f)) = .ok ((), s1)) :
    issue op w (perLane g) s = .next (s1.done (soloCtx op w s wv f) [f]) := by
  refine issue_done h ?_
  rw [perLane, Solo.act_eq h]
  have hc := Solo.cur h
  have hi : (f.issued (s.fallOf f.pc)).id = f.id := rfl
  simp only [lanesFrom, hi, hc, Option.getD_some, hb]
  rfl

end Sys2Proof.Machine
end

