-- ==== Sys2Proof/Laws/Finish.lean ====
section
/-! SUPPORT. What the end of an issue changes when no lane went another way and nothing else can go on (`State.Calm`): the
waves, the names, the answers that the wave's fibres have used up, and their walk time-outs. -/

namespace Sys2Proof.Machine

theorem SameBut.refl (s : State) : SameBut s s := rfl

theorem SameBut.trans {s t u : State} (h : SameBut s t) (k : SameBut t u) : SameBut s u := by
  unfold SameBut at *
  rw [k, h]

/-- New waves change the waves and the names. -/
theorem State.addParts_same (s : State) (w : Wave) (gs : List (List Fibre)) :
    SameBut s (s.addParts w gs) ∧ (s.addParts w gs).fibres = s.fibres := by
  induction gs generalizing s with
  | nil => exact ⟨.refl s, rfl⟩
  | cons g gs ih =>
    unfold State.addParts
    refine ⟨SameBut.trans ?_ (ih _).1, (ih _).2⟩
    exact rfl

/-- No wave made of parts waits. -/
theorem State.addParts_waves {s : State} {w v : Wave} {gs : List (List Fibre)} (h : v ∈ (s.addParts w gs).waves) :
    v ∈ s.waves ∨ v.wait = none := by
  induction gs generalizing s with
  | nil => exact .inl h
  | cons g gs ih =>
    unfold State.addParts at h
    rcases ih h with h | h
    · rcases List.mem_append.mp h with h | h
      · exact .inl h
      · cases List.mem_singleton.mp h; exact .inr rfl
    · exact .inr h

theorem State.regroup_same (s : State) (w : Wave) (whole : Word) (fs : List Fibre) (b : Bool) :
    SameBut s (s.regroup w whole fs b) ∧ (s.regroup w whole fs b).fibres = s.fibres := by
  unfold State.regroup
  split
  · exact ⟨rfl, rfl⟩
  · next g gs _ =>
    refine ⟨SameBut.trans ?_ (State.addParts_same _ _ gs).1, (State.addParts_same _ _ gs).2⟩
    exact rfl

theorem State.regroup_waves {s : State} {w v : Wave} {whole : Word} {fs : List Fibre} {b : Bool} (h : v ∈ (s.regroup w whole fs b).waves) :
    v ∈ s.waves ∨ v.wait = none := by
  unfold State.regroup at h
  split at h
  · exact .inl (List.mem_filter.mp h).1
  · rcases State.addParts_waves h with h | h
    · rw [State.setWave_waves] at h
      obtain ⟨x, hx, e⟩ := List.mem_map.mp h
      rw [← e]
      by_cases hq : (x.id == w.id) = true
      · exact .inr (by rw [if_pos hq])
      · exact .inl (by rw [if_neg hq]; exact hx)
    · exact .inr h

/-- Whether a wave waits where it may meet others. -/
def Wave.meets (w : Wave) : Prop := w.wait = some .meet ∨ w.wait = some .bar ∨ w.wait = some .gbar

theorem State.meetings_none {s : State} (h : ∀ w ∈ s.waves, w.wait ≠ some .meet ∧ w.wait ≠ some .bar ∧ w.wait ≠ some .gbar) :
    s.meetings = s := by
  have e1 : s.waves.filter (fun w => w.wait == some .meet) = [] :=
    List.filter_eq_nil_iff.mpr (fun w hw => by simp [(h w hw).1])
  unfold State.meetings
  simp only [e1, List.map_nil, List.foldl_nil]
  rw [List.filterMap_eq_nil_iff.mpr (fun w hw => by simp [(h w hw).2.1, (h w hw).2.2])]
  rfl

/-- A fibre after its instruction has ended: it waits on no walk. -/
def Fibre.settled (ids : List FibreId) (f : Fibre) : Fibre := if ids.contains f.id then { f with walkTimeout := false } else f

/-- No lane stays at the instruction. -/
def noStay (ways : List (FibreId × Way)) : Prop := ∀ p ∈ ways, ∀ w, p.2 ≠ .stay w

theorem noStay_isStay {ways : List (FibreId × Way)} (h : noStay ways) : ∀ p ∈ ways, p.2.isStay = false := by
  intro p hp
  have := h p hp
  cases hx : p.2 with
  | stay w => exact absurd hx (this w)
  | trap d r pc => rfl
  | abort c => rfl
  | restart => rfl

theorem stayOf_none {ways : List (FibreId × Way)} (h : noStay ways) : stayOf ways = none := by
  induction ways with
  | nil => rfl
  | cons p ps ih =>
    obtain ⟨i, x⟩ := p
    have hp := h _ List.mem_cons_self
    have ih := ih (fun q hq => h q (List.mem_cons_of_mem _ hq))
    cases x with
    | stay w => exact absurd rfl (hp w)
    | trap d r pc => exact ih
    | abort c => exact ih
    | restart => exact ih

/-- What the end of an issue leaves as it was, and what the fibres are after it, once its lanes' other ways are carried out and
none stays. -/
theorem State.finish_same {s v0 : State} {c : Ctx} {fs : List Fibre} {ways : List (FibreId × Way)} {tr : List FibreId}
    (hv0 : s.waysOut c fs ways = (v0, tr)) (hst : noStay ways) (hdet : (c.det && !tr.isEmpty) = false)
    (hr : c.wv.reissue = false) (hc : v0.Calm) :
    SameBut v0 (s.finish c fs ways)
      ∧ (s.finish c fs ways).fibres = v0.fibres.map (Fibre.settled (c.all.map Fibre.id)) := by
  unfold State.finish State.finishCore
  obtain ⟨hw, hg⟩ := hc
  have e0 : ways.filter (fun p => p.2.isStay) = [] := List.filter_eq_nil_iff.mpr (fun p hp => by simp [noStay_isStay hst p hp])
  simp only [hv0, hdet, Bool.false_eq_true, if_false, hr, e0, stayOf_none hst, List.map_nil, List.filterMap_nil,
    List.contains_nil, Bool.not_false, Bool.and_true]
  generalize hv : ({ v0 with fwds := _, fibres := _ } : State) = v
  have hvf : v.fibres = v0.fibres.map (Fibre.settled (c.all.map Fibre.id)) := by
    rw [← hv]; rfl
  have hvw : v.waves = v0.waves := by rw [← hv]
  have huv : SameBut v0 v := by rw [← hv]; exact rfl
  have hvg : ∀ f ∈ v.fibres, f.group = none := by
    rw [hvf]
    intro f hf
    obtain ⟨x, hx, rfl⟩ := List.mem_map.mp hf
    have := hg x hx
    unfold Fibre.settled
    split
    · exact this
    · exact this
  have hout : ∀ l : List Fibre, (∀ f ∈ l, f ∈ v.fibres) → l.filter (fun f => f.group.isSome && f.inTrap.isNone) = [] :=
    fun l hl => List.filter_eq_nil_iff.mpr (fun f hf => by simp [hvg f (hl f hf)])
  have hmem : ∀ f ∈ ((c.all.map Fibre.id).filter (fun _ => true)).filterMap v.fibre?, f ∈ v.fibres := by
    intro f hf
    obtain ⟨i, -, hi⟩ := List.mem_filterMap.mp hf
    exact List.mem_of_find?_eq_some hi
  rw [hout _ hmem]
  simp only [State.leftRuntime, List.filter_nil, List.map_nil, State.setFibres_nil]
  generalize List.filter _ (List.filterMap v.fibre? _) = rest
  have hd : SameBut v (v.divide c rest [] none) ∧ (v.divide c rest [] none).fibres = v.fibres
      ∧ ∀ w ∈ (v.divide c rest [] none).waves, w ∈ v.waves ∨ w.wait = none := by
    unfold State.divide
    split
    · exact ⟨.refl v, rfl, fun w h => .inl h⟩
    · simp only [List.isEmpty_nil, if_true]
      exact ⟨(State.regroup_same ..).1, (State.regroup_same ..).2, fun w h => State.regroup_waves h⟩
  generalize v.divide c rest [] none = x at *
  obtain ⟨hx1, hx2, hx3⟩ := hd
  have hgr : x.releaseGroups = x := by
    unfold State.releaseGroups
    have : x.fibres.filterMap Fibre.group = [] := by
      rw [hx2]
      exact List.filterMap_eq_nil_iff.mpr hvg
    rw [this]; rfl
  rw [hgr]
  have hm : x.wake.meetings = x.wake := by
    apply State.meetings_none
    intro w h
    rw [State.wake_waves] at h
    obtain ⟨y, hy, rfl⟩ := List.mem_map.mp h
    rcases hx3 y hy with h | h
    · rw [hvw] at h; exact hw y h
    · simp [h]
  rw [hm]
  refine ⟨SameBut.trans huv (SameBut.trans hx1 rfl), ?_⟩
  rw [State.wake_fibres, hx2, hvf]

/-- What the end of an issue whose lanes all complete leaves as it was, and what the fibres are after it. -/
theorem State.done_same {s : State} {c : Ctx} {fs : List Fibre} (hr : c.wv.reissue = false)
    (hc : (s.openWindows c (c.act.map Fibre.id)).Calm) :
    SameBut (s.openWindows c (c.act.map Fibre.id)) (s.done c fs)
      ∧ (s.done c fs).fibres = (s.openWindows c (c.act.map Fibre.id)).fibres.map (Fibre.settled (c.all.map Fibre.id)) :=
  State.finish_same (tr := []) rfl (fun _ hp => nomatch hp) (by simp) hr hc

end Sys2Proof.Machine
end

