-- ==== Sys2Proof/Laws/Ends.lean ====
section
/-! SUPPORT. Where each fibre stands after an issue whose lanes all completed (`Ends`): one lemma for instructions that compute
lane by lane on their own fibre, one for an effect of any shape. -/

namespace Sys2Proof.Machine

variable {op : Op} {w : Fields} {s s1 u : State} {wv : Wave} {fs : List Fibre} {f : Fibre} {body : Body}

/-! ### The fibres of a wave have different names -/

theorem nodup_ids {l : List Nat} {w : Wave} (hl : l.Nodup) :
    ((l.filterMap (fun k => if w.lanes.getLsbD k then s.fibre? ⟨w.crew, w.home * 32 + k⟩ else none)).map Fibre.id).Nodup := by
  induction l with
  | nil => exact List.nodup_nil
  | cons x xs ih =>
    have hx := List.nodup_cons.mp hl
    rw [List.filterMap_cons]
    split
    · exact ih hx.2
    · next y hy =>
      rw [List.map_cons, List.nodup_cons]
      refine ⟨fun hm => ?_, ih hx.2⟩
      obtain ⟨z, hz, e⟩ := List.mem_map.mp hm
      obtain ⟨k, hk, hkz⟩ := List.mem_filterMap.mp hz
      split at hy
      · split at hkz
        · rw [State.fibre?_id hy, State.fibre?_id hkz] at e
          simp only [FibreId.mk.injEq, Nat.add_left_cancel_iff, true_and] at e
          exact hx.1 (e ▸ hk)
        · cases hkz
      · cases hy

theorem State.waveFibres_nodup (s : State) (w : Wave) : ((s.waveFibres w).map Fibre.id).Nodup := nodup_ids List.nodup_range

/-! ### Looking up a fibre after updates -/

theorem State.fibre?_setFibre (s : State) (g : Fibre) (i : FibreId) :
    (s.setFibre g).fibre? i = (s.fibre? i).map (fun f => if f.id == g.id then g else f) := by
  unfold State.fibre? State.setFibre
  simp only
  induction s.fibres with
  | nil => rfl
  | cons x xs ih =>
    rw [List.map_cons, List.find?_cons, List.find?_cons, ih]
    by_cases hx : (x.id == g.id) = true
    · have : (if (x.id == g.id) = true then g else x).id = x.id := by rw [if_pos hx]; exact (eq_of_beq hx).symm
      rw [this]
      split <;> rfl
    · rw [if_neg hx]
      split
      · rw [Option.map_some, if_neg hx]
      · rfl

/-- Fibres put one after another, under different names: each is as it was put, every other as before. -/
theorem State.fibre?_foldl {α : Type} (ids : α → FibreId) (G : α → Fibre) (hG : ∀ x, (G x).id = ids x) (l : List α)
    (hl : (l.map ids).Nodup) (s : State) (i : FibreId) :
    (l.foldl (fun u x => u.setFibre (G x)) s).fibre? i
      = (s.fibre? i).map (fun f => ((l.find? (fun x => ids x == i)).map G).getD f) := by
  induction l generalizing s with
  | nil => simp
  | cons x xs ih =>
    rw [List.map_cons, List.nodup_cons] at hl
    rw [List.foldl_cons, ih hl.2, State.fibre?_setFibre, List.find?_cons]
    by_cases h : ids x = i
    · have hn : xs.find? (fun y => ids y == i) = none := by
        rw [List.find?_eq_none]
        intro y hy hh
        exact hl.1 (List.mem_map.mpr ⟨y, hy, (eq_of_beq hh).trans h.symm⟩)
      have hb : (ids x == i) = true := by simp [h]
      cases e : s.fibre? i with
      | none => rfl
      | some f => simp [hn, hG, h, State.fibre?_id e]
    · have hb : (ids x == i) = false := beq_eq_false_iff_ne.mpr h
      cases e : s.fibre? i with
      | none => rfl
      | some f =>
        have : (f.id == (G x).id) = false := by
          rw [hG, State.fibre?_id e]
          exact beq_eq_false_iff_ne.mpr (fun hh => h hh.symm)
        simp only [Option.map_some, this, hb, Bool.false_eq_true, if_false]

/-- A map over all fibres that keeps names maps what is looked up. -/
theorem State.fibre?_map {F : Fibre → Fibre} (hF : ∀ f, (F f).id = f.id) (s t : State) (h : t.fibres = s.fibres.map F) (i : FibreId) :
    t.fibre? i = (s.fibre? i).map F := by
  unfold State.fibre?
  rw [h, List.find?_map]
  have : (fun f : Fibre => f.id == i) ∘ F = fun f => f.id == i := by funext f; simp [Function.comp, hF]
  rw [this]

/-! ### Windows opened -/

/-- A fibre whose long destination opens its window. -/
def Fibre.opened (op : Op) (w : Fields) (f : Fibre) : Fibre :=
  { f with windows := if op.long && w.la != 0 then f.windows ++ [{ left := w.la.toNat, regs := op.dstRegs w }] else f.windows }

theorem State.openWindows_same (s : State) (c : Ctx) (is : List FibreId) : s.openWindows c is = { s with fibres := (s.openWindows c is).fibres } := by
  unfold State.openWindows
  split
  · generalize hc : c.op.dstRegs c.w = r
    clear hc
    have : ∀ (l : List FibreId) (t : State), (l.foldl (fun s i => match s.fibre? i with
        | some f => s.setFibre { f with windows := f.windows ++ [{ left := c.w.la.toNat, regs := r }] }
        | none => s) t) = { t with fibres := (l.foldl (fun s i => match s.fibre? i with
        | some f => s.setFibre { f with windows := f.windows ++ [{ left := c.w.la.toNat, regs := r }] }
        | none => s) t).fibres } := by
      intro l
      induction l with
      | nil => intro t; rfl
      | cons x xs ih =>
        intro t
        rw [List.foldl_cons]
        cases t.fibre? x with
        | none => exact ih t
        | some f => rw [ih]; rfl
    exact this is s
  · rfl

theorem State.openWindows_fibre? (s : State) (c : Ctx) (is : List FibreId) (hn : is.Nodup) (i : FibreId) :
    (s.openWindows c is).fibre? i = (s.fibre? i).map (fun f => if is.contains i then f.opened c.op c.w else f) := by
  unfold State.openWindows Fibre.opened
  generalize c.op.dstRegs c.w = r
  split
  · rename_i hh
    clear hh
    induction is generalizing s with
    | nil => simp
    | cons x xs ih =>
      rw [List.nodup_cons] at hn
      rw [List.foldl_cons, ih _ hn.2]
      by_cases hx : x = i
      · subst hx
        have h1 : (x :: xs).contains x = true := by simp
        have h2 : xs.contains x = false := by simpa using hn.1
        rw [h1, h2]
        cases e : s.fibre? x with
        | none => simp only [e, Option.map_none]
        | some f =>
          have hid := State.fibre?_id e
          simp only [State.fibre?_setFibre, e, Option.map_some, beq_self_eq_true, if_true, Bool.false_eq_true, if_false]
      · have : (i == x) = false := beq_eq_false_iff_ne.mpr (fun h => hx h.symm)
        have h1 : (x :: xs).contains i = xs.contains i := by rw [List.contains_cons, this, Bool.false_or]
        rw [h1]
        cases e : s.fibre? x with
        | none => rfl
        | some f =>
          have hid := State.fibre?_id e
          simp only
          rw [State.fibre?_setFibre_other (g := { f with windows := f.windows ++ [_] }) (fun h => hx (hid.symm.trans h))]
  · cases s.fibre? i <;> simp

/-! ### The end -/

theorem Fibre.settled_id (ids : List FibreId) (f : Fibre) : (Fibre.settled ids f).id = f.id := by
  unfold Fibre.settled; split <;> rfl

/-- No wave waits at a meeting point, and no fibre of the effect's state belongs to a trap group. -/
theorem calm_openWindows {c : Ctx} {is : List FibreId} (hw : s1.waves = s.waves) (hs : s.Calm)
    (hg : ∀ f ∈ s1.fibres, f.group = none) : (s1.openWindows c is).Calm := by
  refine ⟨fun w h => ?_, ?_⟩
  · rw [State.openWindows_same] at h
    exact hs.1 w (hw ▸ h)
  · unfold State.openWindows
    split
    · generalize c.op.dstRegs c.w = r
      induction is generalizing s1 with
      | nil => exact hg
      | cons x xs ih =>
        rw [List.foldl_cons]
        have : ∀ t : State, t.waves = s.waves → (∀ f ∈ t.fibres, f.group = none) →
            ∀ f ∈ (xs.foldl (fun s i => match s.fibre? i with
              | some f => s.setFibre { f with windows := f.windows ++ [{ left := c.w.la.toNat, regs := r }] }
              | none => s) t).fibres, f.group = none := fun t ht hgt => ih ht hgt
        cases e : s1.fibre? x with
        | none => exact this s1 hw hg
        | some y =>
          refine this _ hw (fun f hf => ?_)
          rw [State.setFibre_fibres] at hf
          obtain ⟨z, hz, rfl⟩ := List.mem_map.mp hf
          split
          · exact hg y (List.mem_of_find?_eq_some e)
          · exact hg z hz
    · exact hg

/-- The fibres of a context, as the effect finds them. -/
theorem begun_fibre? (h : Ready op w s wv fs f) (i : FibreId) : (s.begun (issueCtx op w s wv fs f.pc)).fibre? i
    = (s.fibre? i).map (fun g => if (fs.map Fibre.id).contains i then g.issued (s.fallOf f.pc) else g) := by
  have hn : (fs.map Fibre.id).Nodup := h.2.1 ▸ s.waveFibres_nodup wv
  have e : s.begun (issueCtx op w s wv fs f.pc) = fs.foldl (fun u x => u.setFibre (x.issued (s.fallOf f.pc))) s := by
    show State.setFibres s (fs.map _) = _
    unfold State.setFibres
    rw [List.foldl_map]
  rw [e, State.fibre?_foldl Fibre.id (fun x => x.issued (s.fallOf f.pc)) (fun _ => rfl) fs hn]
  cases e : s.fibre? i with
  | none => rfl
  | some g =>
    simp only [Option.map_some, Option.some.injEq]
    cases e2 : fs.find? (fun x => x.id == i) with
    | none =>
      have : (fs.map Fibre.id).contains i = false := by
        rw [List.find?_eq_none] at e2
        simp only [List.contains_eq_mem, List.mem_map, decide_eq_false_iff_not, not_exists, not_and]
        intro x hx hh
        exact e2 x hx (by simp [hh])
      simp only [this, Bool.false_eq_true, if_false, Option.map_none, Option.getD_none]
    | some x =>
      have hx := List.mem_of_find?_eq_some e2
      have hxi : x.id = i := by simpa using List.find?_some e2
      have hmem : x ∈ s.waveFibres wv := h.2.1.symm ▸ hx
      have hs := State.mem_waveFibres hmem
      rw [hxi, e] at hs
      cases hs
      have : (fs.map Fibre.id).contains i = true := by simpa using ⟨g, hx, hxi⟩
      simp only [this, if_true]
      rfl

/-- Where an issue leaves everything, told from the state its effect left. -/
theorem ends_of (h : Ready op w s wv fs f) (hr : wv.reissue = false) (hs : s.Calm) (hw : s1.waves = s.waves)
    (hg : ∀ g ∈ s1.fibres, g.group = none) (hu : SameBut u s1) (act : Fibre → Fibre)
    (hin : ∀ g ∈ fs, s1.fibre? g.id = some (if g.active w.guard then act (g.issued (s.fallOf f.pc)) else g.issued (s.fallOf f.pc)))
    (hout : ∀ k, (∀ g ∈ fs, g.id ≠ k) → s1.fibre? k = s.fibre? k) :
    Ends (.next (s1.done (issueCtx op w s wv fs f.pc) fs)) s fs (Fibre.after op w (s.fallOf f.pc) act) u := by
  have hn : (fs.map Fibre.id).Nodup := h.2.1 ▸ s.waveFibres_nodup wv
  have ha := Ready.active_eq h
  generalize hcc : issueCtx op w s wv fs f.pc = c at *
  have hcop : c.op = op := by rw [← hcc]; rfl
  have hcw : c.w = w := by rw [← hcc]; rfl
  have hcwv : c.wv = wv := by rw [← hcc]; rfl
  have hall : c.all.map Fibre.id = fs.map Fibre.id := by
    rw [← hcc]
    show (fs.map _).map _ = _
    rw [List.map_map]; rfl
  have hact : c.act.map Fibre.id = (fs.filter (fun g => g.active w.guard)).map Fibre.id := by
    rw [ha, List.map_map]; rfl
  have hcalm := calm_openWindows (c := c) (is := c.act.map Fibre.id) hw hs hg
  obtain ⟨hsame, hfib⟩ := State.done_same (fs := fs) (by rw [hcwv]; exact hr) hcalm
  have han : (c.act.map Fibre.id).Nodup := by
    rw [hact]
    exact hn.sublist (List.Sublist.map _ List.filter_sublist)
  have hlook : ∀ k, (s1.done c fs).fibre? k
      = (s1.fibre? k).map (fun g => Fibre.settled (fs.map Fibre.id) (if (c.act.map Fibre.id).contains k then g.opened op w else g)) := by
    intro k
    rw [State.fibre?_map (Fibre.settled_id _) _ _ hfib, State.openWindows_fibre? _ _ _ han, hall, hcop, hcw, Option.map_map]
    rfl
  refine ⟨_, rfl, SameBut.trans hu (SameBut.trans ?_ hsame), fun g hg' => ?_, fun k hk => ?_⟩
  · unfold SameBut; rw [State.openWindows_same]
  · rw [hlook, hin g hg']
    have hc : (fs.map Fibre.id).contains g.id = true := by simpa using ⟨g, hg', rfl⟩
    have hid : ∀ b : Bool, s1.fibre? g.id = some (if b then act (g.issued (s.fallOf f.pc)) else g.issued (s.fallOf f.pc)) →
        (if b then act (g.issued (s.fallOf f.pc)) else g.issued (s.fallOf f.pc)).id = g.id := fun b hb => State.fibre?_id hb
    have hi := hid _ (hin g hg')
    have hca : (c.act.map Fibre.id).contains g.id = g.active w.guard := by
      rw [hact]
      cases e : g.active w.guard with
      | true =>
        simp only [List.contains_eq_mem, List.mem_map, List.mem_filter, decide_eq_true_eq]
        exact ⟨g, ⟨hg', e⟩, rfl⟩
      | false =>
        simp only [List.contains_eq_mem, List.mem_map, List.mem_filter, decide_eq_false_iff_not, not_exists, not_and]
        rintro x ⟨hx, hxa⟩ hxi
        have : x = g := by
          have h1 := State.mem_waveFibres (h.2.1.symm ▸ hx : x ∈ s.waveFibres wv)
          have h2 := State.mem_waveFibres (h.2.1.symm ▸ hg' : g ∈ s.waveFibres wv)
          rw [hxi, h2] at h1
          cases h1; rfl
        rw [this, e] at hxa
        cases hxa
    rw [hca, Option.map_some]
    unfold Fibre.after Fibre.passed
    cases e : g.active w.guard with
    | true =>
      simp only [e, if_true] at hi ⊢
      unfold Fibre.settled Fibre.opened Fibre.ended
      simp only [hi, hc, if_true]
    | false =>
      simp only [e, Bool.false_eq_true, if_false] at hi ⊢
      unfold Fibre.settled
      simp only [hi, hc, if_true]
  · rw [hlook, hout k hk]
    cases e : s.fibre? k with
    | none => rfl
    | some g =>
      have hki := State.fibre?_id e
      have h1 : (fs.map Fibre.id).contains k = false := by
        simp only [List.contains_eq_mem, List.mem_map, decide_eq_false_iff_not, not_exists, not_and]
        exact fun x hx => hk x hx
      have h2 : (c.act.map Fibre.id).contains k = false := by
        rw [hact]
        simp only [List.contains_eq_mem, List.mem_map, List.mem_filter, decide_eq_false_iff_not, not_exists, not_and]
        exact fun x hx => hk x hx.1
      simp only [Option.map_some, h2, Bool.false_eq_true, if_false, Fibre.settled, hki, h1]

/-- The effect's own state keeps the groups. -/
theorem begun_group (hs : s.Calm) (c : Ctx) (hc : ∃ l : List Fibre, c.all = l.map (fun g => g.issued c.fall) ∧ ∀ g ∈ l, g ∈ s.fibres) :
    ∀ g ∈ (s.begun c).fibres, g.group = none := by
  obtain ⟨l, hl, hm⟩ := hc
  unfold State.begun State.setFibres
  rw [hl]
  clear hl
  have : ∀ t : State, (∀ g ∈ t.fibres, g.group = none) →
      ∀ g ∈ ((l.map (fun g => g.issued c.fall)).foldl State.setFibre t).fibres, g.group = none := by
    induction l with
    | nil => exact fun t ht => ht
    | cons x xs ih =>
      intro t ht
      rw [List.map_cons, List.foldl_cons]
      refine ih (fun g hg => hm g (List.mem_cons_of_mem _ hg)) _ (fun g hg => ?_)
      rw [State.setFibre_fibres] at hg
      obtain ⟨z, hz, rfl⟩ := List.mem_map.mp hg
      split
      · exact hs.2 x (hm x List.mem_cons_self)
      · exact ht z hz
  exact this s hs.2

theorem Ready.begun_group (h : Ready op w s wv fs f) (hs : s.Calm) :
    ∀ g ∈ (s.begun (issueCtx op w s wv fs f.pc)).fibres, g.group = none := by
  refine Sys2Proof.Machine.begun_group hs _ ⟨fs, rfl, fun g hg => ?_⟩
  exact List.mem_of_find?_eq_some (State.mem_waveFibres (h.2.1.symm ▸ hg : g ∈ s.waveFibres wv))

theorem setFibres_waves (fs : List Fibre) (s : State) : (s.setFibres fs).waves = s.waves := by
  unfold State.setFibres
  induction fs generalizing s with
  | nil => rfl
  | cons x xs ih => rw [List.foldl_cons, ih]; rfl

theorem setFibres_same (fs : List Fibre) (s : State) : SameBut s (s.setFibres fs) := by
  unfold State.setFibres
  induction fs generalizing s with
  | nil => rfl
  | cons x xs ih => rw [List.foldl_cons]; exact SameBut.trans (t := s.setFibre x) rfl (ih _)

/-- What an effect on the wave's own fibres leaves: its fibres as `act` says, the rest as it was. -/
theorem ends_perFibre {G : Ctx → Fibre → Fibre} (h : Ready op w s wv fs f) (hr : wv.reissue = false) (hs : s.Calm)
    (hG : ∀ c x, (G c x).id = x.id ∧ (G c x).group = x.group) :
    Ends (issue op w (perFibre G) s) s fs (Fibre.after op w (s.fallOf f.pc) (G (issueCtx op w s wv fs f.pc))) s := by
  rw [issue_perFibre h]
  have hn : (fs.map Fibre.id).Nodup := h.2.1 ▸ s.waveFibres_nodup wv
  have ha := Ready.active_eq h
  have hb := begun_fibre? h
  have hbg := Ready.begun_group h hs
  generalize hcc : issueCtx op w s wv fs f.pc = c at *
  have han : (c.act.map Fibre.id).Nodup := by
    rw [ha, List.map_map]
    exact hn.sublist (List.Sublist.map _ List.filter_sublist)
  have hlook : ∀ i, (c.act.foldl (fun u x => u.setFibre (G c x)) (s.begun c)).fibre? i = _ :=
    State.fibre?_foldl Fibre.id (G c) (fun x => (hG c x).1) c.act han (s.begun c)
  have hwv : ∀ (l : List Fibre) (t : State), (l.foldl (fun u x => u.setFibre (G c x)) t).waves = t.waves
      ∧ SameBut t (l.foldl (fun u x => u.setFibre (G c x)) t) := by
    intro l
    induction l with
    | nil => exact fun t => ⟨rfl, rfl⟩
    | cons x xs ih => exact fun t => ⟨(ih _).1, SameBut.trans (t := t.setFibre (G c x)) rfl (ih _).2⟩
  rw [← hcc]
  refine ends_of h hr hs ((hcc ▸ (hwv c.act _).1.trans (setFibres_waves _ _))) ?_
    (hcc ▸ SameBut.trans (setFibres_same _ _) (hwv c.act _).2) _ ?_ ?_
  · rw [hcc]
    have : ∀ (l : List Fibre) (t : State), (∀ x ∈ l, x.group = none) → (∀ g ∈ t.fibres, g.group = none) →
        ∀ g ∈ (l.foldl (fun u x => u.setFibre (G c x)) t).fibres, g.group = none := by
      intro l
      induction l with
      | nil => exact fun t _ ht => ht
      | cons x xs ih =>
        intro t hl ht
        refine ih _ (fun y hy => hl y (List.mem_cons_of_mem _ hy)) (fun g hg => ?_)
        rw [State.setFibre_fibres] at hg
        obtain ⟨z, hz, rfl⟩ := List.mem_map.mp hg
        split
        · rw [(hG c x).2]; exact hl x List.mem_cons_self
        · exact ht z hz
    refine this _ _ (fun x hx => ?_) hbg
    rw [ha] at hx
    obtain ⟨y, hy, rfl⟩ := List.mem_map.mp hx
    have := State.mem_waveFibres (h.2.1.symm ▸ (List.mem_filter.mp hy).1 : y ∈ s.waveFibres wv)
    exact hs.2 y (List.mem_of_find?_eq_some this)
  · intro g hg
    rw [hcc, hlook, hb]
    have hsg := State.mem_waveFibres (h.2.1.symm ▸ hg : g ∈ s.waveFibres wv)
    have hcon : (fs.map Fibre.id).contains g.id = true := by simpa using ⟨g, hg, rfl⟩
    rw [hsg]
    simp only [Option.map_some, hcon, if_true, Option.some.injEq]
    cases e : g.active w.guard with
    | true =>
      have hm : g.issued (s.fallOf f.pc) ∈ c.act := by
        rw [ha]; exact List.mem_map.mpr ⟨g, List.mem_filter.mpr ⟨hg, e⟩, rfl⟩
      cases e2 : c.act.find? (fun x => x.id == g.id) with
      | none => rw [List.find?_eq_none] at e2; exact absurd (by rfl : (g.issued (s.fallOf f.pc)).id = g.id) (fun hh => e2 _ hm (by simp [hh]))
      | some x =>
        have hx := List.mem_of_find?_eq_some e2
        have hxi : x.id = g.id := by simpa using List.find?_some e2
        rw [ha] at hx
        obtain ⟨y, hy, rfl⟩ := List.mem_map.mp hx
        have h1 := State.mem_waveFibres (h.2.1.symm ▸ (List.mem_filter.mp hy).1 : y ∈ s.waveFibres wv)
        have : y.id = g.id := hxi
        rw [this, hsg] at h1
        cases h1
        rfl
    | false =>
      cases e2 : c.act.find? (fun x => x.id == g.id) with
      | none => rfl
      | some x =>
        have hx := List.mem_of_find?_eq_some e2
        have hxi : x.id = g.id := by simpa using List.find?_some e2
        rw [ha] at hx
        obtain ⟨y, hy, rfl⟩ := List.mem_map.mp hx
        have h1 := State.mem_waveFibres (h.2.1.symm ▸ (List.mem_filter.mp hy).1 : y ∈ s.waveFibres wv)
        have : y.id = g.id := hxi
        rw [this, hsg] at h1
        cases h1
        rw [(List.mem_filter.mp hy).2] at e
        cases e
  · intro k hk
    rw [hcc, hlook, hb]
    have h1 : (fs.map Fibre.id).contains k = false := by
      simp only [List.contains_eq_mem, List.mem_map, decide_eq_false_iff_not, not_exists, not_and]
      exact fun x hx => hk x hx
    have h2 : c.act.find? (fun x => x.id == k) = none := by
      rw [List.find?_eq_none, ha]
      intro x hx hh
      obtain ⟨y, hy, rfl⟩ := List.mem_map.mp hx
      exact hk y (List.mem_filter.mp hy).1 (eq_of_beq hh)
    cases s.fibre? k with
    | none => rfl
    | some g => simp only [Option.map_some, h1, h2, Bool.false_eq_true, if_false, Option.map_none, Option.getD_none]

/-- Where a wave of one fibre ends, told from the state its effect left: the fibre is `x`, the other fibres are untouched. -/
theorem ends_solo {x : Fibre} (h : Solo op w s wv f) (hr : wv.reissue = false) (hs : s.Calm) (hw : s1.waves = s.waves)
    (hg : ∀ g ∈ s1.fibres, g.group = none) (hu : SameBut u s1) (hin : s1.fibre? f.id = some x)
    (hout : ∀ k, f.id ≠ k → s1.fibre? k = s.fibre? k) :
    Ends (.next (s1.done (soloCtx op w s wv f) [f])) s [f] (fun _ => x.ended op w) u := by
  obtain ⟨t, ht, h1, h2, h3⟩ := ends_of (act := fun _ => x) h hr hs hw hg hu
    (fun g hg' => by
      cases List.mem_singleton.mp hg'
      obtain ⟨g, hgm, ha⟩ := h.2.2.2.2.2.2.2.2
      cases List.mem_singleton.mp hgm
      rw [hin, ha]; rfl)
    (fun k hk => hout k (hk f List.mem_cons_self))
  refine ⟨t, ht, h1, fun g hg' => ?_, h3⟩
  rw [h2 g hg']
  cases List.mem_singleton.mp hg'
  obtain ⟨g, hgm, ha⟩ := h.2.2.2.2.2.2.2.2
  cases List.mem_singleton.mp hgm
  simp only [Fibre.after, ha, if_true]

/-! ### The shapes that effects have -/

/-- An effect for the whole wave that leaves every fibre where it stands. -/
theorem ends_wave (h : Issues op w s wv fs f)
    (hb : body (issueCtx op w s wv fs f.pc) (s.begun (issueCtx op w s wv fs f.pc)) = .ok (s1, []))
    (hf : s1.fibres = (s.begun (issueCtx op w s wv fs f.pc)).fibres) (hw : s1.waves = s.waves) (hu : SameBut u s1) :
    Ends (issue op w body s) s fs (Fibre.after op w (s.fallOf f.pc) id) u := by
  obtain ⟨h, hr, hs⟩ := h
  rw [issue_done h hb]
  have hl : ∀ i, s1.fibre? i = (s.begun (issueCtx op w s wv fs f.pc)).fibre? i := fun i => by unfold State.fibre?; rw [hf]
  refine ends_of h hr hs hw (hf ▸ Ready.begun_group h hs) hu id (fun g hg => ?_) (fun k hk => ?_)
  · have hsg := State.mem_waveFibres (h.2.1.symm ▸ hg : g ∈ s.waveFibres wv)
    have hcon : (fs.map Fibre.id).contains g.id = true := by simpa using ⟨g, hg, rfl⟩
    rw [hl, begun_fibre? h, hsg]
    simp only [Option.map_some, hcon, if_true, id_eq, ite_self]
  · have h1 : (fs.map Fibre.id).contains k = false := by
      simp only [List.contains_eq_mem, List.mem_map, decide_eq_false_iff_not, not_exists, not_and]
      exact fun x hx => hk x hx
    rw [hl, begun_fibre? h]
    cases s.fibre? k with
    | none => rfl
    | some g => simp only [Option.map_some, h1, Bool.false_eq_true, if_false]

/-- An effect of one lane that leaves its fibre as x. -/
theorem ends_lane {g : Ctx → Fibre → M Unit} {x : Fibre} {v : State} (h : IssuesOne op w s wv f)
    (hb : (g (soloCtx op w s wv f) (f.issued (s.fallOf f.pc))).run (s.begun (soloCtx op w s wv f)) = .ok ((), v.setFibre x))
    (hx : x.id = f.id) (hg : x.group = none)
    (hv : v.fibres = (s.begun (soloCtx op w s wv f)).fibres) (hw : v.waves = s.waves) (hu : SameBut u v) :
    Ends (issue op w (perLane g) s) s [f] (fun _ => x.ended op w) u := by
  obtain ⟨h, hr, hs⟩ := h
  rw [issue_solo h hb]
  have hl : ∀ i, v.fibre? i = (s.begun (soloCtx op w s wv f)).fibre? i := fun i => by unfold State.fibre?; rw [hv]
  have hc := Solo.cur h
  refine ends_solo h hr hs hw ?_ (SameBut.trans hu (by exact rfl)) ?_ ?_
  · intro y hy
    rw [State.setFibre_fibres] at hy
    obtain ⟨z, hz, rfl⟩ := List.mem_map.mp hy
    split
    · exact hg
    · exact Ready.begun_group h hs z (hv ▸ hz)
  · rw [State.fibre?_setFibre, hl, hc]
    have : ((f.issued (s.fallOf f.pc)).id == x.id) = true := by rw [hx]; exact beq_self_eq_true _
    simp only [Option.map_some, this, if_true]
  · intro k hk
    rw [State.fibre?_setFibre_other (by rw [hx]; exact hk), hl, begun_fibre? h]
    have h1 : ([f].map Fibre.id).contains k = false := by simpa using fun h => hk h.symm
    cases s.fibre? k with
    | none => rfl
    | some g => simp only [Option.map_some, h1, Bool.false_eq_true, if_false]

/-- An effect of one lane that leaves its fibre where it stands. -/
theorem ends_lane_id {g : Ctx → Fibre → M Unit} (h : IssuesOne op w s wv f)
    (hb : (g (soloCtx op w s wv f) (f.issued (s.fallOf f.pc))).run (s.begun (soloCtx op w s wv f)) = .ok ((), s1))
    (hf : s1.fibres = (s.begun (soloCtx op w s wv f)).fibres) (hw : s1.waves = s.waves) (hu : SameBut u s1) :
    Ends (issue op w (perLane g) s) s [f] (Fibre.after op w (s.fallOf f.pc) id) u := by
  refine ends_wave h ?_ hf hw hu
  rw [perLane, Solo.act_eq h.1]
  have hi : (f.issued (s.fallOf f.pc)).id = f.id := rfl
  simp only [lanesFrom, hi, Solo.cur h.1, Option.getD_some, hb]
  rfl

end Sys2Proof.Machine
end

