-- ==== Sys2Proof/Laws/Fibre.lean ====
section
/-! SUPPORT. What writing registers, delivering results and entering the runtime leave of a fibre: its name and its trap group;
and reading a register after writing one. -/

namespace Sys2Proof.Machine

/-- g is f by name and group. -/
def Fibre.Same (f g : Fibre) : Prop := g.id = f.id ∧ g.group = f.group

theorem Fibre.Same.trans {f g h : Fibre} (a : f.Same g) (b : g.Same h) : f.Same h := ⟨b.1.trans a.1, b.2.trans a.2⟩

theorem Fibre.setReg_same (f : Fibre) (n : Nat) (v : Word) : f.Same (f.setReg n v) := by
  unfold Fibre.setReg
  split <;> exact ⟨rfl, rfl⟩

theorem Fibre.setRegs_same (f : Fibre) (n : Nat) (vs : List Word) : f.Same (f.setRegs n vs) := by
  induction vs generalizing f n with
  | nil => exact ⟨rfl, rfl⟩
  | cons v vs ih => exact (f.setReg_same n v).trans (ih _ _)

theorem Fibre.setList_same (f : Fibre) (ns : List Nat) (vs : List Word) : f.Same (f.setList ns vs) := by
  induction ns generalizing f vs with
  | nil => unfold Fibre.setList; exact ⟨rfl, rfl⟩
  | cons n ns ih =>
    cases vs with
    | nil => exact ⟨rfl, rfl⟩
    | cons v vs => rw [Fibre.setList]; exact (f.setReg_same n v).trans (ih _ _)

theorem Fibre.setPair_same (f : Fibre) (n : Nat) (v : DWord) : f.Same (f.setPair n v) :=
  (f.setReg_same _ _).trans (Fibre.setReg_same _ _ _)

theorem Fibre.setPred_same (f : Fibre) (k : Nat) (b : Bool) : f.Same (f.setPred k b) := f.setReg_same _ _

theorem Fibre.setOwn_same (f : Fibre) (ns : List Nat) (vs : List Word) : f.Same (f.setOwn ns vs) := by
  have h := ({ f with inTrap := none } : Fibre).setList_same ns vs
  exact ⟨h.1, h.2⟩

theorem Fibre.writePend_same (f : Fibre) (p : Pend) : f.Same (f.writePend p) := by
  unfold Fibre.writePend
  split
  · exact (f.setOwn_same p.dst p.vals).trans ⟨rfl, rfl⟩
  · exact (f.setList_same p.dst p.vals).trans ⟨rfl, rfl⟩

theorem Fibre.writeAllPend_same (f : Fibre) : f.Same f.writeAllPend := by
  unfold Fibre.writeAllPend
  generalize f.pend.filter (fun p => p.ordered.isNone) = ps
  have : ∀ g : Fibre, g.Same (ps.foldl Fibre.writePend g) := by
    induction ps with
    | nil => exact fun _ => ⟨rfl, rfl⟩
    | cons p ps ih => exact fun g => (g.writePend_same p).trans (ih _)
  exact (this f).trans ⟨rfl, rfl⟩

theorem Fibre.enter_same (f : Fibre) (l : Launch) (b : Bool) (m pc : Word) (d : Due) (r : Resume) : f.Same (f.enter l b m pc d r) :=
  f.writeAllPend_same.trans ⟨rfl, rfl⟩

theorem Ctx.deliver_same (c : Ctx) (f : Fibre) (rs : List Nat) (ws : List Word) (fl : Word) : f.Same (c.deliver f rs ws fl) := by
  unfold Ctx.deliver
  split
  · exact ⟨rfl, rfl⟩
  · exact (f.setList_same rs ws).trans ⟨rfl, rfl⟩

theorem Ctx.putD_same (c : Ctx) (f : Fibre) (v fl : Word) : f.Same (c.putD f v fl) := c.deliver_same _ _ _ _

theorem Ctx.putD64_same (c : Ctx) (f : Fibre) (v : DWord) (fl : Word) : f.Same (c.putD64 f v fl) := c.deliver_same _ _ _ _

theorem Ctx.putW_same (c : Ctx) (f : Fibre) (b : Bool) (v : Nat) (fl : Word) : f.Same (c.putW f b v fl) := by
  unfold Ctx.putW
  split
  · exact c.putD64_same _ _ _
  · exact c.putD_same _ _ _

theorem Fibre.setReg_inTrap (f : Fibre) (n : Nat) (v : Word) : (f.setReg n v).inTrap = f.inTrap := by
  unfold Fibre.setReg
  split <;> rfl

/-- A register is as it was after another is written. -/
theorem Fibre.reg_setReg_other (f : Fibre) {n m : Nat} (v : Word) (h : n ≠ m) : (f.setReg n v).reg m = f.reg m := by
  unfold Fibre.reg Fibre.setReg
  by_cases hn : (f.inTrap.isSome && 252 ≤ n) = true
  · rw [if_pos hn]
    simp only
    by_cases hm : (f.inTrap.isSome && 252 ≤ m) = true
    · rw [if_pos hm, if_pos hm]
      have : n - 252 ≠ m - 252 := by
        simp only [Bool.and_eq_true, decide_eq_true_eq] at hn hm
        omega
      simp only [List.getD_eq_getElem?_getD, List.getElem?_set, this, if_false]
    · rw [if_neg hm, if_neg hm]
  · rw [if_neg hn]
    simp only
    by_cases hm : (f.inTrap.isSome && 252 ≤ m) = true
    · rw [if_pos hm, if_pos hm]
    · rw [if_neg hm, if_neg hm]
      simp only [List.getD_eq_getElem?_getD, List.getElem?_set, h, if_false]

/-- A register of the window reads what was written; v0 reads bit 0 as 1 (01 R9). -/
theorem Fibre.reg_setReg_self (f : Fibre) {n : Nat} (v : Word) (h : n < f.regs.length) (hn : n < 252 ∨ f.inTrap = none) :
    (f.setReg n v).reg n = if n = 0 then v ||| 1 else v := by
  have h1 : (f.inTrap.isSome && decide (252 ≤ n)) = false := by
    rcases hn with hn | hn
    · simp [show ¬ 252 ≤ n by omega]
    · simp [hn]
  unfold Fibre.reg
  rw [Fibre.setReg_inTrap, h1]
  unfold Fibre.setReg
  rw [h1]
  simp only [Bool.false_eq_true, if_false, List.getD_eq_getElem?_getD, List.getElem?_set, h, if_true, beq_iff_eq, Option.getD_some]

end Sys2Proof.Machine
end

