-- ==== Sys2Proof/Laws/Access.lean ====
section
/-! SUPPORT. What one access does when its page is in the TLB as device memory: translation, the line at its home slice, the L1. -/

namespace Sys2Proof.Machine

variable {s : State} {who : Who} {va : DWord} {e : TlbEntry} {line k n : Nat}

/-- A state with other fibres. -/
abbrev State.withFibres (s : State) (fb : List Fibre) : State := { s with fibres := fb }

/-- An effect is begun in a state that differs in fibres only. -/
theorem begun_eq (s : State) (c : Ctx) : s.begun c = s.withFibres (s.begun c).fibres := by
  show s.setFibres c.all = _
  have : ∀ (l : List Fibre) (s : State), s.setFibres l = { s with fibres := (s.setFibres l).fibres } := by
    intro l
    induction l with
    | nil => intro s; rfl
    | cons x xs ih =>
      intro s
      show (s.setFibre x).setFibres xs = _
      rw [ih]; rfl
  exact this _ s

/-! ### Effects run step by step -/

section
variable {α β : Type} {t : State} {x : M α} {g : α → M β} {a : α}

theorem bind_ok (h : x.run s = .ok (a, t)) : (x >>= g).run s = (g a).run t := by
  rw [StateT.run_bind, h]; rfl

theorem bind_get {g : State → M β} : ((get : M State) >>= g).run s = (g s).run s := rfl

theorem bind_pure' : ((pure a : M α) >>= g).run s = (g a).run s := rfl

theorem bind_modify {f : State → State} {g : Unit → M β} : ((modify f : M Unit) >>= g).run s = (g ()).run (f s) := rfl

theorem bind_check {b : Bool} {c : Cause} {v : DWord} {g : Unit → M β} (h : b = true) : (checkM b c v >>= g).run s = (g ()).run s := by
  subst h; rfl

end

theorem checkM_true {b : Bool} {x : Cause} {a : DWord} (h : b = true) : (checkM b x a).run s = .ok ((), s) := by
  subst h; rfl

/-- A translation that the core's TLB holds as device memory; a write grants the page. -/
theorem translate_hit {write : Bool} (hva : va.toNat < 2 ^ 51) (he : who.engine = false)
    (hf : (s.core who.core).tlb.find? (fun e => e.hits who.queue (pageOf va) && (!write || e.w)) = some e) (hl : e.loc = 0) (hp : e.poison = false) :
    (translate who va write).run s = .ok ({ loc := 0, peer := e.peer, pa := e.at_ va, view := va.getLsbD 50, leaf := e.leaf },
      if write then s.granted e va else s) := by
  have hc : (va.toNat / 2 ^ 51 == 0) = true := by rw [beq_iff_eq]; omega
  unfold translate
  rw [bind_check hc, bind_get]
  simp only [he, Bool.false_eq_true, if_false]
  rw [hf]
  simp only []
  rw [bind_check (by rw [hp]; rfl), bind_pure']
  cases write
  · simp only [Bool.false_and, Bool.false_eq_true, if_false]
    rw [hl]; rfl
  · simp only [Bool.true_and, hl, beq_self_eq_true, if_true]
    rw [bind_modify]; rfl

theorem lockedBy_none {i : FibreId} (h : ∀ k ∈ s.mem.locks, k.line = line → k.owner = i) : s.lockedBy i line = none := by
  unfold State.lockedBy
  rw [Option.map_eq_none_iff, List.find?_eq_none]
  intro k hk
  by_cases hl : k.line = line
  · simp [h k hk hl]
  · simp [hl]

/-- A line that can be used at its home slice refuses nobody. -/
theorem gate_open (h : AtHome s who.fibre line) : (gate who line).run s = .ok ((), s) := by
  unfold gate
  rw [bind_get, h.1, lockedBy_none h.2.1]
  simp only [Bool.false_and, Bool.false_eq_true, if_false, Option.isSome_none, Bool.and_false]
  rfl

/-- A line read at its home slice: the L2's contents, filled if need be. -/
theorem l2Read_home (h : AtHome s who.fibre line) :
    (l2Read who line va).run s = .ok ((s.mem.l2Fill line).1.data, { s with mem := (s.mem.l2Fill line).2 }) := by
  unfold l2Read
  rw [bind_ok (gate_open h), bind_get, bind_check (by rw [h.2.2]; rfl)]
  rfl

/-- Bytes written at their home slice. -/
theorem l2Store_home {mask : BitVec 64} {d : BitVec 512} (h : AtHome s who.fibre line) :
    (l2Store who line mask d).run s = .ok ((), { s with mem := s.mem.l2Write line mask d }) := by
  unfold l2Store
  rw [bind_ok (gate_open h)]
  rfl

/-- A line that the L1 does not hold needs no flush. -/
theorem l1Flush_absent (h : s.l1Line? who.core line = none) : (l1Flush who line).run s = .ok ((), s) := by
  unfold l1Flush
  simp only [State.l1Line?] at h
  rw [bind_get]
  simp only [h]
  rfl

/-- A line that the L1 holds is put back into its place. -/
theorem l1Put_present {core : Nat} {l : L1Line} (h : (s.core core).l1.any (fun k => k.line == l.line) = true) :
    (l1Put who core l).run s
      = .ok ((), s.setCore core (fun c => { c with l1 := c.l1.map (fun k => if k.line == l.line then l else k) })) := by
  unfold l1Put
  rw [bind_get]
  simp only [h, if_true]
  rfl

/-- A line that the L1 does not hold, while it has room. -/
theorem l1Put_absent {core : Nat} {l : L1Line} (h : (s.core core).l1.any (fun k => k.line == l.line) = false)
    (hr : (s.core core).l1.length < l1Lines) :
    (l1Put who core l).run s = .ok ((), s.setCore core (fun c => { c with l1 := c.l1 ++ [l] })) := by
  unfold l1Put
  rw [bind_get]
  simp only [h, Bool.false_eq_true, if_false]
  cases e : l1Oldest (s.core core).l1 with
  | none => rfl
  | some o =>
    have : ¬ (s.core core).l1.length ≥ l1Lines := by omega
    simp only [this, if_false]
    rfl

theorem l1Line?_any {core : Nat} {l : L1Line} (h : s.l1Line? core line = some l) :
    l.line = line ∧ (s.core (s.l1Core core line)).l1.any (fun k => k.line == line) = true := by
  unfold State.l1Line? at h
  have h1 := List.find?_some h
  exact ⟨by simpa using h1, List.any_eq_true.mpr ⟨l, List.mem_of_find?_eq_some h, h1⟩⟩

/-- A read of valid bytes of the L1. -/
theorem l1Read_hit {l : L1Line} (h : s.l1Line? who.core line = some l) (hp : SoundL1 s line l) (hv : l.valid &&& byteMask k n = byteMask k n) :
    (l1Read who line k n va).run s = .ok (lineBytes l.data k n, s.withL1 who.core { l with user := who.user, hint := who.hint }) := by
  obtain ⟨hl, ha⟩ := l1Line?_any h
  unfold State.l1Line? at h
  unfold l1Read
  rw [bind_get]
  have hb : (!l.poison && (l.dirty == BitVec.allOnes 64 || !s.mem.bad line)) = true := by
    rw [hp.1]
    rcases hp.2 with e | e <;> simp [e]
  simp only [h]
  rw [bind_check hb]
  simp only [hv, beq_self_eq_true, if_true]
  rw [bind_ok (l1Put_present (by rw [← ha, ← hl]))]
  unfold State.withL1
  rw [← hl]; rfl

/-- Bytes written into a line of the L1. -/
theorem l1Write_hit {l : L1Line} {mask : BitVec 64} {d : BitVec 512} (h : s.l1Line? who.core line = some l) :
    (l1Write who line mask d).run s = .ok ((), s.withL1 who.core
      { l with data := mergeLine l.data d mask, valid := l.valid ||| mask, dirty := l.dirty ||| mask, user := who.user
               poison := l.poison && mask != BitVec.allOnes 64, hint := who.hint }) := by
  obtain ⟨hl, ha⟩ := l1Line?_any h
  unfold State.l1Line? at h
  unfold l1Write
  rw [bind_get]
  simp only [h]
  rw [l1Put_present (by rw [← ha, ← hl])]
  unfold State.withL1
  rw [← hl]

/-- Nothing is written back from an L1 without a dirty byte. -/
theorem wbLines_clean {core : Nat} {p : Nat → Bool} (h : ∀ l ∈ (s.core core).l1, l.dirty = 0) : (wbLines who core p).run s = .ok ((), s) := by
  unfold wbLines
  rw [bind_get]
  have : (s.core core).l1.filter (fun l => l.dirty != 0 && p l.line) = [] := by
    rw [List.filter_eq_nil_iff]; intro l hl; simp [h l hl]
  rw [this]; rfl

theorem wbCores_clean {cs : List Nat} (h : ∀ k ∈ cs, ∀ l ∈ (s.core k).l1, l.dirty = 0) :
    (forM_ cs (fun k => wbCore who k)).run s = .ok ((), s) := by
  induction cs with
  | nil => rfl
  | cons c cs ih =>
    unfold forM_ wbCore
    rw [bind_ok (wbLines_clean (h c List.mem_cons_self))]
    exact ih (fun k hk => h k (List.mem_cons_of_mem _ hk))

/-! ### A load in its parts -/

/-- The fibre as it now stands. -/
theorem curF_run {s : State} {x : Fibre} (h : s.fibre? x.id = some x) : (curF x).run s = .ok (x, s) := by
  unfold curF; rw [bind_get]; rw [h]; rfl

/-- On whose behalf. -/
theorem whoM_run {s : State} {c : Ctx} {x : Fibre} : (whoM c x).run s = .ok (s.whoOf c x, s) := rfl

/-- A loaded value delivered. -/
theorem putLoadM_run {s : State} {c : Ctx} {x : Fibre} {v : Nat} (h : s.fibre? x.id = some x) :
    (putLoadM c x v).run s = .ok ((), s.setFibre (c.putLoad x v)) := by
  unfold putLoadM; rw [bind_ok (curF_run h)]; rfl

/-- No release is held. -/
theorem heldClear_run {s : State} {x : Fibre} {va : DWord} {n : Nat} (h : x.held = []) : (heldClear x va n).run s = .ok ((), s) := by
  unfold heldClear; rw [h]; rfl

/-- Address bits and alignment pass. -/
theorem checkGlobal_run {s : State} {va : DWord} {n : Nat} (h : va.toNat < 2 ^ 51) (h2 : va.toNat % n = 0) :
    (checkGlobal va n).run s = .ok ((), s) := by
  unfold checkGlobal
  rw [bind_check (by rw [beq_iff_eq]; omega)]
  exact checkM_true (by rw [h2]; rfl)

/-- The view passes. -/
theorem checkView_run {s : State} {p : Phys} {va : DWord} (hl : p.loc = 0) (h : p.view = true → (s.mem.regionAt p.pa).isSome = true) :
    (checkView p va).run s = .ok ((), s) := by
  unfold checkView
  rw [bind_get]
  cases e : p.view
  · rfl
  · simp only [if_true]
    exact checkM_true (by simp [hl, h e])

/-- A load outside a transaction is a global load. -/
theorem fibreLoad_run {s t : State} {c : Ctx} {x : Fibre} {va : DWord} {n v : Nat} {p : Path} (hx : s.fibre? x.id = some x)
    (ht : x.tx = none) (hh : x.held = []) (h : (loadG (s.whoOf c x) va n p).run s = .ok (v, t)) :
    (fibreLoad c x va n p).run s = .ok (v, t) := by
  unfold fibreLoad
  rw [bind_ok (curF_run hx)]
  simp only [ht, Option.isSome_none, Bool.false_eq_true, if_false]
  rw [bind_ok (heldClear_run hh), bind_ok whoM_run]
  exact h

/-- A global load of a page in the TLB is a read at its place. -/
theorem loadG_run {s t : State} {who : Who} {va : DWord} {e : TlbEntry} {n v : Nat} {p : Path} (hva : va.toNat < 2 ^ 51) (hal : va.toNat % n = 0)
   (he : who.engine = false) (hf : (s.core who.core).tlb.find? (fun e => e.hits who.queue (pageOf va) && (!false || e.w)) = some e) (hl : e.loc = 0)
   (hp : e.poison = false)
   (h : (readPhys who { loc := 0, peer := e.peer, pa := e.at_ va, view := va.getLsbD 50, leaf := e.leaf } va n p).run s = .ok (v, t)) :
   (loadG who va n p).run s = .ok (v, t) := by
  unfold loadG
  rw [bind_ok (checkGlobal_run hva hal), bind_ok (translate_hit hva he hf hl hp)]
  exact h

/-- Without grids, families and memory that a launch keeps undefined, every byte is defined. -/
theorem readPhys_run {s t : State} {who : Who} {va : DWord} {q : Phys} {n v : Nat} {p : Path}
   (hg : t.grids = []) (hm : t.families = []) (hl : ∀ l ∈ t.launches, l.areas = []) (h : (readRaw who q va n p).run s = .ok (v, t)) :
   (readPhys who q va n p).run s = .ok (v, t) := by
  unfold readPhys
  have ha : t.launches.all (fun l => l.areas.isEmpty) = true := List.all_eq_true.mpr (fun l h => by rw [hl l h]; rfl)
  rw [bind_ok h, bind_get, hg, hm, ha]; rfl

/-- A read of device memory through the L1. -/
theorem readRaw_l1 {s t : State} {who : Who} {va : DWord} {q : Phys} {n v : Nat} (hq : q.loc = 0)
   (hv : q.view = true → (s.mem.regionAt q.pa).isSome = true)
   (h : (l1Read who (lineNo q.pa q.view) (q.pa % 64) n va).run s = .ok (v, t)) :
   (readRaw who q va n .l1).run s = .ok (v, t) := by
  unfold readRaw
  rw [bind_ok (checkView_run hq hv)]
  simp only [hq]
  exact h

/-- A read of device memory at its home slice. -/
theorem readRaw_l2 {s : State} {who : Who} {va : DWord} {q : Phys} {n : Nat} (hq : q.loc = 0)
   (hv : q.view = true → (s.mem.regionAt q.pa).isSome = true)
   (hn : s.l1Line? who.core (lineNo q.pa q.view) = none) (ha : AtHome s who.fibre (lineNo q.pa q.view)) :
   (readRaw who q va n .l2).run s = .ok (lineBytes (s.mem.l2Fill (lineNo q.pa q.view)).1.data (q.pa % 64) n, s.withMem (s.mem.l2Fill (lineNo q.pa q.view)).2) := by
  unfold readRaw
  rw [bind_ok (checkView_run hq hv)]
  simp only [hq]
  rw [bind_ok (l1Flush_absent hn), bind_ok (l2Read_home ha)]
  rfl

/-- A line that is no victim. -/
theorem victim_none {s : State} {core line : Nat} (h : ∀ v ∈ (s.core core).victims, v.line ≠ line) : s.victimHit core line = s := by
  unfold State.victimHit
  rw [List.find?_eq_none.mpr (fun v hv => by simpa using h v hv)]

/-- A read that misses in an L1 with room. -/
theorem l1Read_miss {s : State} {who : Who} {va : DWord} {line k n : Nat} (hn : s.l1Line? who.core line = none) (ha : AtHome s who.fibre line)
   (hr : (s.core (s.l1Core who.core line)).l1.length < l1Lines) (hvic : ∀ v ∈ (s.core (s.l1Core who.core line)).victims, v.line ≠ line) :
   (l1Read who line k n va).run s = .ok (lineBytes (s.mem.l2Fill line).1.data k n, 
     (s.withMem (s.mem.l2Fill line).2).setCore (s.l1Core who.core line)
      (fun k => { k with l1 := k.l1 ++ [{ line := line, data := (s.mem.l2Fill line).1.data
                                          valid := BitVec.allOnes 64, dirty := 0, user := who.user, hint := who.hint }] })) := by
  unfold State.l1Line? at hn
  unfold l1Read
  rw [bind_get]
  simp only [hn]
  rw [bind_ok (l2Read_home ha), bind_modify, victim_none (by exact hvic)]
  exact bind_ok (l1Put_absent (s := s.withMem (s.mem.l2Fill line).2) (by
    show (s.core _).l1.any _ = false
    rw [List.any_eq_false]; intro y hy; exact List.find?_eq_none.mp hn y hy) hr)

/-! ### From one effect's run to the rule of its opcode -/

section
variable {op : Op}

/-- The fibre of a wave of one, as the effect finds it. -/
theorem IssuesOne.group {w : Fields} {wv : Wave} {f : Fibre} (h : IssuesOne op w s wv f) : f.group = none :=
  h.2.2.2 f (by
    have h2 : f ∈ s.waveFibres wv := by rw [h.1.2.1]; exact List.mem_cons_self
    exact List.mem_of_find?_eq_some (State.mem_waveFibres h2))

/-- An effect on one lane that leaves its fibre as G. -/
theorem one_rule {g : Ctx → Fibre → M Unit} {P : Ctx → State → Fibre → Prop} {G : Ctx → State → Fibre → Fibre}
    {U : Ctx → State → Fibre → State} (he : ∀ w s, exec (op.instr w) s = issue op w (perLane g) s)
    (hG : ∀ c s x, P c s x → x.Same (G c s x)) (hUw : ∀ c s x, P c s x → (U c s x).waves = s.waves)
    (hb : ∀ (c : Ctx) (s : State) (x : Fibre) (fb : List Fibre), P c s x → (s.withFibres fb).fibre? x.id = some x →
      (g c x).run (s.withFibres fb) = .ok ((), ((U c s x).withFibres fb).setFibre (G c s x))) :
    OneRule op P G U := by
  intro w s wv f h hP
  rw [he]
  have hc := Solo.cur h.1
  rw [begun_eq] at hc
  have hrun := hb _ s _ (s.begun (soloCtx op w s wv f)).fibres hP (by exact hc)
  have hs := hG _ _ _ hP
  refine ends_lane (v := (U (soloCtx op w s wv f) s (f.issued (s.fallOf f.pc))).withFibres (s.begun (soloCtx op w s wv f)).fibres) h
    ?_ ?_ ?_ ?_ ?_ ?_
  · rw [begun_eq]; exact hrun
  · rw [hs.1]; rfl
  · rw [hs.2]; exact h.group
  · rfl
  · exact hUw _ _ _ hP
  · unfold SameBut; rfl

/-- An effect on one lane that leaves its fibre where it stands. -/
theorem one_rule_id {g : Ctx → Fibre → M Unit} {P : Ctx → State → Fibre → Prop}
    {U : Ctx → State → Fibre → State} (he : ∀ w s, exec (op.instr w) s = issue op w (perLane g) s)
    (hUw : ∀ c s x, P c s x → (U c s x).waves = s.waves)
    (hb : ∀ (c : Ctx) (s : State) (x : Fibre) (fb : List Fibre), P c s x → (s.withFibres fb).fibre? x.id = some x →
      (g c x).run (s.withFibres fb) = .ok ((), (U c s x).withFibres fb)) :
    OneRule op P (fun _ _ x => x) U := by
  intro w s wv f h hP
  rw [he]
  have hc := Solo.cur h.1
  rw [begun_eq] at hc
  have hrun := hb _ s _ (s.begun (soloCtx op w s wv f)).fibres hP (by exact hc)
  obtain ⟨t, h1, h2, h3, h4⟩ := ends_lane_id (g := g) (u := U (soloCtx op w s wv f) s (f.issued (s.fallOf f.pc)))
    (s1 := (U (soloCtx op w s wv f) s (f.issued (s.fallOf f.pc))).withFibres (s.begun (soloCtx op w s wv f)).fibres) h (by rw [begun_eq]; exact hrun)
    (by rfl) (hUw _ _ _ hP) (by unfold SameBut; rfl)
  refine ⟨t, h1, h2, fun y hy => ?_, h4⟩
  rw [h3 y hy]
  cases List.mem_singleton.mp hy
  obtain ⟨z, hz, ha⟩ := h.1.2.2.2.2.2.2.2.2
  cases List.mem_singleton.mp hz
  simp only [Fibre.after, ha, if_true, id_eq]

/-- An effect for the whole wave. -/
theorem wave_rule {g : Ctx → M Unit} {P : Ctx → State → Prop} {U : Ctx → State → State}
    (he : ∀ w s, exec (op.instr w) s = issue op w (perWave g) s) (hUw : ∀ c s, P c s → (U c s).waves = s.waves)
    (hb : ∀ (c : Ctx) (s : State), P c s →
      (g c).run (s.withFibres (s.begun c).fibres) = .ok ((), (U c s).withFibres (s.begun c).fibres)) :
    WaveRule op P U := by
  intro w s wv fs f h hP
  rw [he]
  refine ends_wave (s1 := (U (issueCtx op w s wv fs f.pc) s).withFibres (s.begun (issueCtx op w s wv fs f.pc)).fibres) h ?_ ?_ ?_ ?_
  · unfold perWave
    rw [begun_eq, hb _ _ hP]
  · rfl
  · exact hUw _ _ hP
  · unfold SameBut; rfl

end

end Sys2Proof.Machine
end

