-- ==== Sys2Proof/Laws/Context.lean ====
section
/-! SUPPORT. What a page migration does when nothing at the home slices stands in its way: it completes. -/

namespace Sys2Proof.Machine

variable {s : State} {o : EngOp} {e : Pte} {who : Who} {line : Nat}

/-- No vein is held, no line is locked and none is poisoned: every access passes at its home slice. -/
abbrev MemSys.Open (m : MemSys) : Prop := (∀ v ∈ m.veins, v.hold = none) ∧ m.locks = [] ∧ m.poison = []

theorem MemSys.Open.heldAt {m : MemSys} (h : m.Open) (pa : Nat) : m.heldAt pa = false := by
  unfold MemSys.heldAt
  cases hv : m.veins[m.veinOfPa pa]? with
  | none => rfl
  | some v => simp [h.1 v (List.mem_of_getElem? hv)]

theorem MemSys.Open.atHome (h : s.mem.Open) (i : FibreId) (line : Nat) : AtHome s i line :=
  ⟨h.heldAt _, by simp [h.2.1], by unfold MemSys.bad; simp [h.2.2]⟩

/-- A recall changes only what the host holds. -/
theorem recall_open {m : MemSys} (h : m.Open) (line : Nat) : (m.recall line).Open := by
  unfold MemSys.recall
  split <;> exact h

theorem l2Fill_open {m : MemSys} (h : m.Open) (line : Nat) : (m.l2Fill line).2.Open := by
  have h := recall_open h line
  unfold MemSys.l2Fill
  generalize m.recall line = x at h
  dsimp only
  split <;> exact h

theorem l2Write_open {m : MemSys} (h : m.Open) (line : Nat) (k : BitVec 64) (d : BitVec 512) : (m.l2Write line k d).Open := by
  have h' := l2Fill_open h line
  refine ⟨h'.1, h'.2.1, ?_⟩
  show (if k == BitVec.allOnes 64 then (m.l2Fill line).2.poison.filter (fun p => p != line) else (m.l2Fill line).2.poison) = []
  rw [h'.2.2]
  split <;> rfl

/-- A page that lies in host memory is copied to the end. -/
theorem migCopy_open (he : e.loc = 1) (n k : Nat) (h : s.mem.Open) : ∃ t, (migCopy o e n k).run s = .ok ((), t) ∧ t.mem.Open := by
  induction n generalizing s k with
  | zero => exact ⟨s, rfl, h⟩
  | succ n ih =>
    unfold migCopy
    have hr : (migRead o e k).run s = .ok (BitVec.ofNat 512 (s.mem.host.getN (e.pa + k) 64), s) := by
      unfold migRead
      rw [bind_get, he]
      rfl
    rw [bind_ok hr, bind_get, bind_ok (l2Store_home (h.atHome _ _))]
    exact ih (k + 64) (l2Write_open h _ _ _)

/-- The second half of a migration of a page in host memory whose leaf lies in host memory completes. -/
theorem migMove_open {leaf y : Nat} (hl : leaf / 2 ^ 52 % 4 = 1) (hy : (Pte.ofNat y).loc = 1) (h : s.mem.Open) :
    ∃ n t, (migMove o leaf y).run s = .ok (n, t) := by
  obtain ⟨t, ht, -⟩ := migCopy_open (o := o) hy (migSize o.block / 64) 0 h
  have hr : (readLeaf (s.whoEngine o) leaf).run t = .ok (t.mem.host.getN (leaf % 2 ^ 52) 8, t) := by
    unfold readLeaf readNode
    rw [hl]
    rfl
  have hw : ∀ z, ∃ u, (writeLeaf (s.whoEngine o) leaf z).run t = .ok ((), u) := by
    intro z
    unfold writeLeaf changeLeaf changeNode
    rw [hl]
    exact ⟨_, rfl⟩
  obtain ⟨u, hu⟩ := hw (t.mem.host.getN (leaf % 2 ^ 52) 8 % 32 + migTo o.block)
  have hm : (migMove o leaf y).run s = .ok (migSize o.block, { u with mem := u.mem.setDir leaf (fun d => { d with count := 0 }) }) := by
    unfold migMove
    rw [bind_get]
    simp only [hy]
    rw [if_neg (by decide), bind_ok ht, bind_ok hr, bind_ok hu]
    rfl
  exact ⟨_, _, hm⟩

/-! ### A leaf found in tables that lie in host memory (19 R417) -/

variable {va : DWord} {page peer node level : Nat} {rest : List Nat}

/-- The entry of a node in host memory that maps a page at a level. -/
abbrev MemSys.hostPte (m : MemSys) (node page level : Nat) : Pte := Pte.ofNat (m.host.getN (node + 8 * (page / 4096 ^ level % 4096)) 8)

theorem leafFrom_leaf (h : (s.mem.hostPte node page level).v = true ∧ (s.mem.hostPte node page level).leaf = true
      ∧ ((s.mem.hostPte node page level).loc == 3) = false ∧ (s.mem.hostPte node page level).bad level = false) :
    (leafFrom who va page 1 peer node (level :: rest)).run s
      = .ok (some (placeNo 1 peer (node + 8 * (page / 4096 ^ level % 4096)), level), s) := by
  have hr : (readNode who 1 peer (node + 8 * (page / 4096 ^ level % 4096)) va).run s
      = .ok (s.mem.host.getN (node + 8 * (page / 4096 ^ level % 4096)) 8, s) := rfl
  unfold leafFrom
  rw [bind_ok hr]
  simp only [h.1, h.2.1, h.2.2.1, h.2.2.2]
  rfl

/-- No page is under migration: no walk waits for one. -/
theorem nodeGate_free {loc pa : Nat} {write : Bool} (hg : s.mem.migrating = []) :
    (nodeGate who loc peer pa level va write).run s = .ok ((), s) := by
  unfold nodeGate
  have : s.mem.underMig (placeNo loc peer pa) = false := by unfold MemSys.underMig; rw [hg]; rfl
  rw [bind_get, this]
  rfl

theorem leafFrom_node (hg : s.mem.migrating = []) (h : (s.mem.hostPte node page level).v = true ∧ (s.mem.hostPte node page level).leaf = false
      ∧ (s.mem.hostPte node page level).loc = 1 ∧ (s.mem.hostPte node page level).bad level = false) :
    (leafFrom who va page 1 peer node (level :: rest)).run s
      = (leafFrom who va page 1 (s.mem.hostPte node page level).peer (s.mem.hostPte node page level).pa rest).run s := by
  have hr : (readNode who 1 peer (node + 8 * (page / 4096 ^ level % 4096)) va).run s
      = .ok (s.mem.host.getN (node + 8 * (page / 4096 ^ level % 4096)) 8, s) := rfl
  conv => lhs; unfold leafFrom
  rw [bind_ok hr]
  simp only [h.1, h.2.1, h.2.2.1, h.2.2.2]
  exact bind_ok (nodeGate_free hg)

/-- The leaf of a page whose root and nodes lie in host memory, while no page is under migration. -/
theorem leafOf_host {r : Option (Nat × Nat)} (m : MemSys) (q : Nat) (hm : s.mem = m) (hg : m.migrating = [])
    (hq : (s.queue who.queue).ptbr.toNat = q)
    (h : let root := (Pte.ofNat q).pa
      let mid := (m.hostPte root page 2).pa
      let low := (m.hostPte mid page 1).pa
      ((Pte.ofNat q).v = true ∧ (Pte.ofNat q).loc = 1 ∧ badRoot q = false)
      ∧ ((m.hostPte root page 2).v = true ∧ (m.hostPte root page 2).leaf = false ∧ (m.hostPte root page 2).loc = 1
        ∧ (m.hostPte root page 2).bad 2 = false)
      ∧ ((m.hostPte mid page 1).v = true ∧ (m.hostPte mid page 1).leaf = false ∧ (m.hostPte mid page 1).loc = 1
        ∧ (m.hostPte mid page 1).bad 1 = false)
      ∧ ((m.hostPte low page 0).v = true ∧ (m.hostPte low page 0).leaf = true ∧ ((m.hostPte low page 0).loc == 3) = false
        ∧ (m.hostPte low page 0).bad 0 = false))
    (hr : r = some (placeNo 1 (m.hostPte (m.hostPte (Pte.ofNat q).pa page 2).pa page 1).peer
      ((m.hostPte (m.hostPte (Pte.ofNat q).pa page 2).pa page 1).pa + 8 * (page / 4096 ^ 0 % 4096)), 0)) :
    (leafOf who page).run s = .ok (r, s) := by
  subst hr
  subst hm
  subst hq
  obtain ⟨⟨hv, hl, hb⟩, h₂, h₁, h₀⟩ := h
  unfold leafOf
  rw [bind_get]
  simp only [hv, hl, hb]
  refine (bind_ok (nodeGate_free hg)).trans ?_
  exact (leafFrom_node hg h₂).trans ((leafFrom_node hg h₁).trans (leafFrom_leaf h₀))

end Sys2Proof.Machine
end

