-- ==== Sys2Proof/Laws/Decode.lean ====
section
/-! SUPPORT. Little-endian bytes and the fields of a word, there and back. -/

namespace Sys2Proof

theorem leBytes_length (k n : Nat) : (leBytes k n).length = k := by
  induction k generalizing n with
  | zero => rfl
  | succ k ih => rw [leBytes, List.length_cons, ih]

theorem leNat_leBytes (k n : Nat) : leNat (leBytes k n) = n % 256 ^ k := by
  induction k generalizing n with
  | zero => rw [leBytes, leNat, Nat.pow_zero, Nat.mod_one]
  | succ k ih =>
    rw [leBytes, leNat, ih, BitVec.toNat_ofNat, show 256 ^ (k + 1) = 256 * 256 ^ k by rw [Nat.pow_succ, Nat.mul_comm], Nat.mod_mul]

theorem leNat_lt (bs : List Byte) : leNat bs < 256 ^ bs.length := by
  induction bs with
  | nil => decide
  | cons b bs ih =>
    rw [leNat, List.length_cons, Nat.pow_succ]
    have := b.isLt
    omega

theorem leBytes_leNat (bs : List Byte) : leBytes bs.length (leNat bs) = bs := by
  induction bs with
  | nil => rfl
  | cons b bs ih =>
    have hb := b.isLt
    have h1 : BitVec.ofNat 8 (b.toNat + 256 * leNat bs) = b := by
      apply BitVec.eq_of_toNat_eq
      rw [BitVec.toNat_ofNat]
      omega
    have h2 : (b.toNat + 256 * leNat bs) / 256 = leNat bs := by omega
    rw [List.length_cons, leNat, leBytes, h1, h2, ih]

theorem Kind.code_lt (k : Kind) : k.code < 4 := by cases k <;> decide

theorem Kind.ofCode_code (k : Kind) : Kind.ofCode k.code = k := by cases k <;> rfl

theorem Kind.code_ofCode (n : Nat) (h : n < 4) : (Kind.ofCode n).code = n := by
  match n, h with
  | 0, _ => rfl
  | 1, _ => rfl
  | 2, _ => rfl
  | 3, _ => rfl

theorem Desc.bits_lt (d : Desc) : d.bits < 1024 := by
  have := d.n.isLt
  have := d.kind.code_lt
  unfold Desc.bits
  omega

theorem Desc.ofBits_bits (d : Desc) : Desc.ofBits d.bits = d := by
  have h1 := d.n.isLt
  have h2 := d.kind.code_lt
  unfold Desc.bits Desc.ofBits
  have e1 : (d.kind.code * 256 + d.n.toNat) / 256 % 4 = d.kind.code := by omega
  have e2 : BitVec.ofNat 8 (d.kind.code * 256 + d.n.toNat) = d.n := by
    apply BitVec.eq_of_toNat_eq
    rw [BitVec.toNat_ofNat]
    omega
  rw [e1, e2, Kind.ofCode_code]

theorem Desc.bits_ofBits (x : Nat) (h : x < 1024) : (Desc.ofBits x).bits = x := by
  unfold Desc.bits Desc.ofBits
  simp only [BitVec.toNat_ofNat]
  rw [Kind.code_ofCode _ (by omega)]
  omega

/-- The fields of a word are those it was made of. -/
theorem Fields.ofNat_wordNat (opc : Nat) (w : Fields) (h : opc < 256) : Fields.ofNat (wordNat opc w) = w := by
  have h1 := w.mod.isLt
  have h2 := w.d.bits_lt
  have h3 := w.a.bits_lt
  have h4 := w.b.bits_lt
  have h5 := w.guard.isLt
  have h6 := w.la.isLt
  have h7 : (if w.yld then 1 else 0) < 2 := by split <;> decide
  have h8 := w.rsv.isLt
  have h9 := w.imm.isLt
  have hy : ∀ y : Bool, ((if y then 1 else 0) == 1) = y := by decide
  unfold Fields.ofNat wordNat
  generalize hyy : (if w.yld then 1 else 0) = y at *
  have e1 : ∀ (n : Nat) (b : BitVec n) (x : Nat), x % 2 ^ n = b.toNat → BitVec.ofNat n x = b := by
    intro n b x hx
    apply BitVec.eq_of_toNat_eq
    rw [BitVec.toNat_ofNat, hx]
  have d1 := Desc.ofBits_bits w.d
  have d2 := Desc.ofBits_bits w.a
  have d3 := Desc.ofBits_bits w.b
  cases w with
  | mk mod d a b guard la yld rsv imm =>
    simp only at *
    congr 1
    · exact e1 8 mod _ (by omega)
    · rw [show (opc + 2 ^ 8 * mod.toNat + 2 ^ 16 * d.bits + 2 ^ 26 * a.bits + 2 ^ 36 * b.bits + 2 ^ 46 * guard.toNat
        + 2 ^ 52 * la.toNat + 2 ^ 56 * y + 2 ^ 57 * rsv.toNat + 2 ^ 64 * imm.toNat) / 2 ^ 16 % 2 ^ 10 = d.bits by omega, d1]
    · rw [show (opc + 2 ^ 8 * mod.toNat + 2 ^ 16 * d.bits + 2 ^ 26 * a.bits + 2 ^ 36 * b.bits + 2 ^ 46 * guard.toNat
        + 2 ^ 52 * la.toNat + 2 ^ 56 * y + 2 ^ 57 * rsv.toNat + 2 ^ 64 * imm.toNat) / 2 ^ 26 % 2 ^ 10 = a.bits by omega, d2]
    · rw [show (opc + 2 ^ 8 * mod.toNat + 2 ^ 16 * d.bits + 2 ^ 26 * a.bits + 2 ^ 36 * b.bits + 2 ^ 46 * guard.toNat
        + 2 ^ 52 * la.toNat + 2 ^ 56 * y + 2 ^ 57 * rsv.toNat + 2 ^ 64 * imm.toNat) / 2 ^ 36 % 2 ^ 10 = b.bits by omega, d3]
    · exact e1 6 guard _ (by omega)
    · exact e1 4 la _ (by omega)
    · rw [show (opc + 2 ^ 8 * mod.toNat + 2 ^ 16 * d.bits + 2 ^ 26 * a.bits + 2 ^ 36 * b.bits + 2 ^ 46 * guard.toNat
        + 2 ^ 52 * la.toNat + 2 ^ 56 * y + 2 ^ 57 * rsv.toNat + 2 ^ 64 * imm.toNat) / 2 ^ 56 % 2 = y by omega, ← hyy]
      exact hy yld
    · exact e1 7 rsv _ (by omega)
    · exact e1 32 imm _ (by omega)

theorem wordNat_mod (opc : Nat) (w : Fields) (h : opc < 256) : wordNat opc w % 256 = opc := by
  unfold wordNat
  omega

theorem wordNat_lt (opc : Nat) (w : Fields) (h : opc < 256) : wordNat opc w < 256 ^ 12 := by
  have h1 := w.mod.isLt
  have h2 := w.d.bits_lt
  have h3 := w.a.bits_lt
  have h4 := w.b.bits_lt
  have h5 := w.guard.isLt
  have h6 := w.la.isLt
  have h7 : (if w.yld then 1 else 0) < 2 := by split <;> decide
  have h8 := w.rsv.isLt
  have h9 := w.imm.isLt
  unfold wordNat
  generalize (if w.yld then 1 else 0) = y at *
  omega

/-- A word is made of its opcode byte and its fields. -/
theorem wordNat_ofNat (x : Nat) (h : x < 256 ^ 12) : wordNat (x % 256) (Fields.ofNat x) = x := by
  have hy : (if (x / 2 ^ 56 % 2 == 1) = true then 1 else 0) = x / 2 ^ 56 % 2 := by
    generalize x / 2 ^ 56 = q
    rcases Nat.mod_two_eq_zero_or_one q with e | e <;> simp [e]
  have d1 := Desc.bits_ofBits (x / 2 ^ 16 % 2 ^ 10) (by omega)
  have d2 := Desc.bits_ofBits (x / 2 ^ 26 % 2 ^ 10) (by omega)
  have d3 := Desc.bits_ofBits (x / 2 ^ 36 % 2 ^ 10) (by omega)
  unfold wordNat Fields.ofNat
  simp only [hy, d1, d2, d3, BitVec.toNat_ofNat]
  omega

end Sys2Proof
end

