-- ==== Sys2Proof/Laws/Memory.lean ====
section
/-! SUPPORT. Memories: reading after writing, and that every operation keeps the canonical form. -/

namespace Sys2Proof.Machine

/-- Every entry of a memory lies above an address. -/
def Memory.above (m : Memory) (a : Nat) : Prop := ∀ c ∈ m, a < c.1

theorem Memory.wf_nil : Memory.wf [] := ⟨.nil, fun _ h => nomatch h⟩

theorem Memory.wf_cons {a : Nat} {v : Byte} {m : Memory} :
    Memory.wf ((a, v) :: m) ↔ m.above a ∧ v ≠ unlistedByte ∧ m.wf := by
  constructor
  · rintro ⟨hp, hv⟩
    rw [List.pairwise_cons] at hp
    exact ⟨hp.1, hv _ (List.mem_cons_self ..), hp.2, fun c hc => hv c (List.mem_cons_of_mem _ hc)⟩
  · rintro ⟨ha, hv, hp, hw⟩
    refine ⟨List.pairwise_cons.mpr ⟨ha, hp⟩, fun c hc => ?_⟩
    rcases List.mem_cons.mp hc with rfl | h
    · exact hv
    · exact hw c h

theorem Memory.above_set {m : Memory} {b a : Nat} {v : Byte} (hm : m.above b) (h : b < a) : (m.set a v).above b := by
  induction m with
  | nil =>
    intro c hc
    unfold Memory.set at hc
    split at hc
    · cases hc
    · cases List.mem_singleton.mp hc; exact h
  | cons x r ih =>
    obtain ⟨k, w⟩ := x
    have hx : b < k := hm (k, w) (List.mem_cons_self ..)
    have hr : Memory.above r b := fun c hc => hm c (List.mem_cons_of_mem _ hc)
    intro c hc
    unfold Memory.set at hc
    split at hc
    · split at hc
      · exact hm c hc
      · rcases List.mem_cons.mp hc with rfl | h'
        · exact h
        · exact hm c h'
    · split at hc
      · split at hc
        · exact hr c hc
        · rcases List.mem_cons.mp hc with rfl | h'
          · exact h
          · exact hr c h'
      · rcases List.mem_cons.mp hc with rfl | h'
        · exact hx
        · exact ih hr c h'

/-- A byte written keeps the canonical form. -/
theorem Memory.wf_set {m : Memory} (hm : m.wf) (a : Nat) (v : Byte) : (m.set a v).wf := by
  induction m with
  | nil =>
    unfold Memory.set
    split
    · exact wf_nil
    · next h => exact wf_cons.mpr ⟨fun _ h => (nomatch h), h, wf_nil⟩
  | cons x r ih =>
    obtain ⟨k, w⟩ := x
    obtain ⟨hk, hw, hr⟩ := wf_cons.mp hm
    unfold Memory.set
    split
    · next hak =>
      split
      · exact hm
      · next hv =>
        refine wf_cons.mpr ⟨fun c hc => ?_, hv, hm⟩
        rcases List.mem_cons.mp hc with rfl | h
        · exact hak
        · exact Nat.lt_trans hak (hk c h)
    · split
      · next hak =>
        subst hak
        split
        · exact hr
        · next hv => exact wf_cons.mpr ⟨hk, hv, hr⟩
      · next h1 h2 => exact wf_cons.mpr ⟨above_set hk (by omega), hw, ih hr⟩

theorem Memory.wf_setN {m : Memory} (hm : m.wf) (a n v : Nat) : (m.setN a n v).wf := by
  induction n generalizing m a v with
  | zero => exact hm
  | succ n ih => exact ih (wf_set hm a _) _ _

theorem Memory.wf_setBytes {m : Memory} (hm : m.wf) (a : Nat) (bs : List Byte) : (m.setBytes a bs).wf := by
  induction bs generalizing m a with
  | nil => exact hm
  | cons b bs ih => exact ih (wf_set hm a b) _

theorem Memory.wf_setLineFrom {m : Memory} (hm : m.wf) (a : Nat) (d : BitVec 512) (mask : BitVec 64) (n k : Nat) :
    (m.setLineFrom a d mask n k).wf := by
  induction n generalizing m k with
  | zero => exact hm
  | succ n ih =>
    unfold Memory.setLineFrom
    apply ih
    split
    · exact wf_set hm _ _
    · exact hm

theorem Memory.wf_setLine {m : Memory} (hm : m.wf) (a : Nat) (d : BitVec 512) (mask : BitVec 64) : (m.setLine a d mask).wf :=
  wf_setLineFrom hm a d mask 64 0

/-- Entries given up, as a smaller allotment has it, keep the canonical form. -/
theorem Memory.wf_filter {m : Memory} (hm : m.wf) (p : Nat × Byte → Bool) : Memory.wf (m.filter p) :=
  ⟨hm.1.sublist List.filter_sublist, fun c hc => hm.2 c (List.mem_filter.mp hc).1⟩

/-! ### Reading after writing -/

theorem Memory.get_above {m : Memory} {a b : Nat} (hm : m.above b) (h : a ≤ b) : m.get a = unlistedByte := by
  induction m with
  | nil => rfl
  | cons x r ih =>
    obtain ⟨k, w⟩ := x
    have hk : b < k := hm (k, w) (List.mem_cons_self ..)
    unfold Memory.get
    rw [if_neg (by omega), if_pos (by omega)]

/-- A byte reads as it was written. -/
theorem Memory.get_set_same {m : Memory} (hm : m.wf) (a : Nat) (v : Byte) : (m.set a v).get a = v := by
  induction m with
  | nil =>
    unfold Memory.set
    split
    · next h => rw [h]; rfl
    · simp [Memory.get]
  | cons x r ih =>
    obtain ⟨k, w⟩ := x
    obtain ⟨hk, hw, hr⟩ := wf_cons.mp hm
    unfold Memory.set
    split
    · next hak =>
      split
      · next hv => rw [hv, Memory.get, if_neg (by omega), if_pos hak]
      · simp [Memory.get]
    · split
      · next hak =>
        subst hak
        split
        · next hv => rw [hv]; exact get_above hk (Nat.le_refl _)
        · simp [Memory.get]
      · next h1 h2 => rw [Memory.get, if_neg (by omega), if_neg (by omega)]; exact ih hr

/-- A write leaves every other byte as it was. -/
theorem Memory.get_set_other {m : Memory} (hm : m.wf) {a b : Nat} (v : Byte) (h : b ≠ a) : (m.set a v).get b = m.get b := by
  induction m with
  | nil =>
    unfold Memory.set
    split
    · rfl
    · simp only [Memory.get]; rw [if_neg h]; split <;> rfl
  | cons x r ih =>
    obtain ⟨k, w⟩ := x
    obtain ⟨hk, hw, hr⟩ := wf_cons.mp hm
    unfold Memory.set
    split
    · next hak =>
      split
      · rfl
      · by_cases hb : b < a
        · rw [Memory.get, if_neg h, if_pos hb, Memory.get, if_neg (by omega), if_pos (by omega)]
        · rw [Memory.get, if_neg h, if_neg hb]
    · split
      · next hak =>
        subst hak
        split
        · by_cases hb : b < a
          · rw [get_above hk (by omega), Memory.get, if_neg h, if_pos hb]
          · rw [Memory.get.eq_2, if_neg h, if_neg hb]
        · simp only [Memory.get]; rw [if_neg h, if_neg h]
      · next h1 h2 => simp only [Memory.get]; rw [ih hr]

/-- Bytes written one after the other leave every byte outside them as it was. -/
theorem Memory.get_setN_other {m : Memory} (hm : m.wf) (a n v : Nat) {b : Nat} (h : b < a ∨ a + n ≤ b) :
    (m.setN a n v).get b = m.get b := by
  induction n generalizing m a v with
  | zero => rfl
  | succ n ih =>
    rw [Memory.setN, ih (wf_set hm a _) (a + 1) (v / 256) (by omega), get_set_other hm _ (by omega)]

theorem Memory.get_setBytes_other {m : Memory} (hm : m.wf) (a : Nat) (bs : List Byte) {b : Nat} (h : b < a ∨ a + bs.length ≤ b) :
    (m.setBytes a bs).get b = m.get b := by
  induction bs generalizing m a with
  | nil => rfl
  | cons x xs ih =>
    simp only [List.length_cons] at h
    rw [Memory.setBytes, ih (wf_set hm a _) (a + 1) (by omega), get_set_other hm _ (by omega)]

/-- n bytes read back as they were written. -/
theorem Memory.getN_setN {m : Memory} (hm : m.wf) (a n v : Nat) : (m.setN a n v).getN a n = v % 2 ^ (8 * n) := by
  induction n generalizing m a v with
  | zero => simp [Memory.getN, Nat.mod_one]
  | succ n ih =>
    rw [Memory.setN, Memory.getN, ih (wf_set hm a _), get_setN_other (wf_set hm a _) _ _ _ (by omega), get_set_same hm]
    have e : 2 ^ (8 * (n + 1)) = 256 * 2 ^ (8 * n) := by rw [Nat.mul_succ, Nat.pow_add, Nat.mul_comm]
    rw [e, Nat.mod_mul, BitVec.toNat_ofNat]

end Sys2Proof.Machine
end

