-- ==== Sys2Proof/Laws/PerInstr.lean ====
section
/-! SUPPORT. The per-instruction family `Opcode`: an instruction that carries a word is the constructor of its opcode, and that
opcode is the one its code byte decodes to (13 R263). -/

namespace Sys2Proof.Laws.Opcode

/-- An instruction with an opcode is that opcode's constructor on its own fields; the opcode's code byte names it, and is no mark. -/
def Statement (i : Sys2Proof.Instr) : Prop :=
  ∀ op w, i.opFields = some (op, w) → op.instr w = i ∧ Sys2Proof.Op.ofCode op.code = some op ∧ op.code < 0xFC

theorem nop (w : Sys2Proof.Fields) : Statement (.nop w) := fun _ _ h => by
  cases h; exact ⟨rfl, rfl, by decide⟩
theorem bra (w : Sys2Proof.Fields) : Statement (.bra w) := fun _ _ h => by
  cases h; exact ⟨rfl, rfl, by decide⟩
theorem brx (w : Sys2Proof.Fields) : Statement (.brx w) := fun _ _ h => by
  cases h; exact ⟨rfl, rfl, by decide⟩
theorem call (w : Sys2Proof.Fields) : Statement (.call w) := fun _ _ h => by
  cases h; exact ⟨rfl, rfl, by decide⟩
theorem callx (w : Sys2Proof.Fields) : Statement (.callx w) := fun _ _ h => by
  cases h; exact ⟨rfl, rfl, by decide⟩
theorem ret (w : Sys2Proof.Fields) : Statement (.ret w) := fun _ _ h => by
  cases h; exact ⟨rfl, rfl, by decide⟩
theorem loop (w : Sys2Proof.Fields) : Statement (.loop w) := fun _ _ h => by
  cases h; exact ⟨rfl, rfl, by decide⟩
theorem meet (w : Sys2Proof.Fields) : Statement (.meet w) := fun _ _ h => by
  cases h; exact ⟨rfl, rfl, by decide⟩
theorem voteany (w : Sys2Proof.Fields) : Statement (.voteany w) := fun _ _ h => by
  cases h; exact ⟨rfl, rfl, by decide⟩
theorem voteall (w : Sys2Proof.Fields) : Statement (.voteall w) := fun _ _ h => by
  cases h; exact ⟨rfl, rfl, by decide⟩
theorem ballot (w : Sys2Proof.Fields) : Statement (.ballot w) := fun _ _ h => by
  cases h; exact ⟨rfl, rfl, by decide⟩
theorem yield (w : Sys2Proof.Fields) : Statement (.yield w) := fun _ _ h => by
  cases h; exact ⟨rfl, rfl, by decide⟩
theorem rgn (w : Sys2Proof.Fields) : Statement (.rgn w) := fun _ _ h => by
  cases h; exact ⟨rfl, rfl, by decide⟩
theorem trap (w : Sys2Proof.Fields) : Statement (.trap w) := fun _ _ h => by
  cases h; exact ⟨rfl, rfl, by decide⟩
theorem bkpt (w : Sys2Proof.Fields) : Statement (.bkpt w) := fun _ _ h => by
  cases h; exact ⟨rfl, rfl, by decide⟩
theorem jtab (w : Sys2Proof.Fields) : Statement (.jtab w) := fun _ _ h => by
  cases h; exact ⟨rfl, rfl, by decide⟩
theorem fork (w : Sys2Proof.Fields) : Statement (.fork w) := fun _ _ h => by
  cases h; exact ⟨rfl, rfl, by decide⟩
theorem endF (w : Sys2Proof.Fields) : Statement (.endF w) := fun _ _ h => by
  cases h; exact ⟨rfl, rfl, by decide⟩
theorem spawn (w : Sys2Proof.Fields) : Statement (.spawn w) := fun _ _ h => by
  cases h; exact ⟨rfl, rfl, by decide⟩
theorem spawnt (w : Sys2Proof.Fields) : Statement (.spawnt w) := fun _ _ h => by
  cases h; exact ⟨rfl, rfl, by decide⟩
theorem trng (w : Sys2Proof.Fields) : Statement (.trng w) := fun _ _ h => by
  cases h; exact ⟨rfl, rfl, by decide⟩
theorem acq (w : Sys2Proof.Fields) : Statement (.acq w) := fun _ _ h => by
  cases h; exact ⟨rfl, rfl, by decide⟩
theorem shed (w : Sys2Proof.Fields) : Statement (.shed w) := fun _ _ h => by
  cases h; exact ⟨rfl, rfl, by decide⟩
theorem bar (w : Sys2Proof.Fields) : Statement (.bar w) := fun _ _ h => by
  cases h; exact ⟨rfl, rfl, by decide⟩
theorem bara (w : Sys2Proof.Fields) : Statement (.bara w) := fun _ _ h => by
  cases h; exact ⟨rfl, rfl, by decide⟩
theorem barw (w : Sys2Proof.Fields) : Statement (.barw w) := fun _ _ h => by
  cases h; exact ⟨rfl, rfl, by decide⟩
theorem bari (w : Sys2Proof.Fields) : Statement (.bari w) := fun _ _ h => by
  cases h; exact ⟨rfl, rfl, by decide⟩
theorem barx (w : Sys2Proof.Fields) : Statement (.barx w) := fun _ _ h => by
  cases h; exact ⟨rfl, rfl, by decide⟩
theorem gbar (w : Sys2Proof.Fields) : Statement (.gbar w) := fun _ _ h => by
  cases h; exact ⟨rfl, rfl, by decide⟩
theorem waitv (w : Sys2Proof.Fields) : Statement (.waitv w) := fun _ _ h => by
  cases h; exact ⟨rfl, rfl, by decide⟩
theorem qstat (w : Sys2Proof.Fields) : Statement (.qstat w) := fun _ _ h => by
  cases h; exact ⟨rfl, rfl, by decide⟩
theorem iadd (w : Sys2Proof.Fields) : Statement (.iadd w) := fun _ _ h => by
  cases h; exact ⟨rfl, rfl, by decide⟩
theorem isub (w : Sys2Proof.Fields) : Statement (.isub w) := fun _ _ h => by
  cases h; exact ⟨rfl, rfl, by decide⟩
theorem iadc (w : Sys2Proof.Fields) : Statement (.iadc w) := fun _ _ h => by
  cases h; exact ⟨rfl, rfl, by decide⟩
theorem isbc (w : Sys2Proof.Fields) : Statement (.isbc w) := fun _ _ h => by
  cases h; exact ⟨rfl, rfl, by decide⟩
theorem imul (w : Sys2Proof.Fields) : Statement (.imul w) := fun _ _ h => by
  cases h; exact ⟨rfl, rfl, by decide⟩
theorem imulh (w : Sys2Proof.Fields) : Statement (.imulh w) := fun _ _ h => by
  cases h; exact ⟨rfl, rfl, by decide⟩
theorem imad (w : Sys2Proof.Fields) : Statement (.imad w) := fun _ _ h => by
  cases h; exact ⟨rfl, rfl, by decide⟩
theorem imadw (w : Sys2Proof.Fields) : Statement (.imadw w) := fun _ _ h => by
  cases h; exact ⟨rfl, rfl, by decide⟩
theorem idiv (w : Sys2Proof.Fields) : Statement (.idiv w) := fun _ _ h => by
  cases h; exact ⟨rfl, rfl, by decide⟩
theorem irem (w : Sys2Proof.Fields) : Statement (.irem w) := fun _ _ h => by
  cases h; exact ⟨rfl, rfl, by decide⟩
theorem imin (w : Sys2Proof.Fields) : Statement (.imin w) := fun _ _ h => by
  cases h; exact ⟨rfl, rfl, by decide⟩
theorem imax (w : Sys2Proof.Fields) : Statement (.imax w) := fun _ _ h => by
  cases h; exact ⟨rfl, rfl, by decide⟩
theorem iabs (w : Sys2Proof.Fields) : Statement (.iabs w) := fun _ _ h => by
  cases h; exact ⟨rfl, rfl, by decide⟩
theorem idp4 (w : Sys2Proof.Fields) : Statement (.idp4 w) := fun _ _ h => by
  cases h; exact ⟨rfl, rfl, by decide⟩
theorem lea (w : Sys2Proof.Fields) : Statement (.lea w) := fun _ _ h => by
  cases h; exact ⟨rfl, rfl, by decide⟩
theorem idp2 (w : Sys2Proof.Fields) : Statement (.idp2 w) := fun _ _ h => by
  cases h; exact ⟨rfl, rfl, by decide⟩
theorem andB (w : Sys2Proof.Fields) : Statement (.andB w) := fun _ _ h => by
  cases h; exact ⟨rfl, rfl, by decide⟩
theorem orB (w : Sys2Proof.Fields) : Statement (.orB w) := fun _ _ h => by
  cases h; exact ⟨rfl, rfl, by decide⟩
theorem xorB (w : Sys2Proof.Fields) : Statement (.xorB w) := fun _ _ h => by
  cases h; exact ⟨rfl, rfl, by decide⟩
theorem tern (w : Sys2Proof.Fields) : Statement (.tern w) := fun _ _ h => by
  cases h; exact ⟨rfl, rfl, by decide⟩
theorem shl (w : Sys2Proof.Fields) : Statement (.shl w) := fun _ _ h => by
  cases h; exact ⟨rfl, rfl, by decide⟩
theorem shr (w : Sys2Proof.Fields) : Statement (.shr w) := fun _ _ h => by
  cases h; exact ⟨rfl, rfl, by decide⟩
theorem sar (w : Sys2Proof.Fields) : Statement (.sar w) := fun _ _ h => by
  cases h; exact ⟨rfl, rfl, by decide⟩
theorem rotl (w : Sys2Proof.Fields) : Statement (.rotl w) := fun _ _ h => by
  cases h; exact ⟨rfl, rfl, by decide⟩
theorem bfx (w : Sys2Proof.Fields) : Statement (.bfx w) := fun _ _ h => by
  cases h; exact ⟨rfl, rfl, by decide⟩
theorem bfi (w : Sys2Proof.Fields) : Statement (.bfi w) := fun _ _ h => by
  cases h; exact ⟨rfl, rfl, by decide⟩
theorem brev (w : Sys2Proof.Fields) : Statement (.brev w) := fun _ _ h => by
  cases h; exact ⟨rfl, rfl, by decide⟩
theorem popc (w : Sys2Proof.Fields) : Statement (.popc w) := fun _ _ h => by
  cases h; exact ⟨rfl, rfl, by decide⟩
theorem clz (w : Sys2Proof.Fields) : Statement (.clz w) := fun _ _ h => by
  cases h; exact ⟨rfl, rfl, by decide⟩
theorem ffs (w : Sys2Proof.Fields) : Statement (.ffs w) := fun _ _ h => by
  cases h; exact ⟨rfl, rfl, by decide⟩
theorem bsel (w : Sys2Proof.Fields) : Statement (.bsel w) := fun _ _ h => by
  cases h; exact ⟨rfl, rfl, by decide⟩
theorem bext (w : Sys2Proof.Fields) : Statement (.bext w) := fun _ _ h => by
  cases h; exact ⟨rfl, rfl, by decide⟩
theorem icmp (w : Sys2Proof.Fields) : Statement (.icmp w) := fun _ _ h => by
  cases h; exact ⟨rfl, rfl, by decide⟩
theorem fcmp (w : Sys2Proof.Fields) : Statement (.fcmp w) := fun _ _ h => by
  cases h; exact ⟨rfl, rfl, by decide⟩
theorem sel (w : Sys2Proof.Fields) : Statement (.sel w) := fun _ _ h => by
  cases h; exact ⟨rfl, rfl, by decide⟩
theorem mov (w : Sys2Proof.Fields) : Statement (.mov w) := fun _ _ h => by
  cases h; exact ⟨rfl, rfl, by decide⟩
theorem gets (w : Sys2Proof.Fields) : Statement (.gets w) := fun _ _ h => by
  cases h; exact ⟨rfl, rfl, by decide⟩
theorem sets (w : Sys2Proof.Fields) : Statement (.sets w) := fun _ _ h => by
  cases h; exact ⟨rfl, rfl, by decide⟩
theorem shfli (w : Sys2Proof.Fields) : Statement (.shfli w) := fun _ _ h => by
  cases h; exact ⟨rfl, rfl, by decide⟩
theorem shflu (w : Sys2Proof.Fields) : Statement (.shflu w) := fun _ _ h => by
  cases h; exact ⟨rfl, rfl, by decide⟩
theorem shfld (w : Sys2Proof.Fields) : Statement (.shfld w) := fun _ _ h => by
  cases h; exact ⟨rfl, rfl, by decide⟩
theorem shflx (w : Sys2Proof.Fields) : Statement (.shflx w) := fun _ _ h => by
  cases h; exact ⟨rfl, rfl, by decide⟩
theorem wred (w : Sys2Proof.Fields) : Statement (.wred w) := fun _ _ h => by
  cases h; exact ⟨rfl, rfl, by decide⟩
theorem wscan (w : Sys2Proof.Fields) : Statement (.wscan w) := fun _ _ h => by
  cases h; exact ⟨rfl, rfl, by decide⟩
theorem fwred (w : Sys2Proof.Fields) : Statement (.fwred w) := fun _ _ h => by
  cases h; exact ⟨rfl, rfl, by decide⟩
theorem nzcnt (w : Sys2Proof.Fields) : Statement (.nzcnt w) := fun _ _ h => by
  cases h; exact ⟨rfl, rfl, by decide⟩
theorem nzmap (w : Sys2Proof.Fields) : Statement (.nzmap w) := fun _ _ h => by
  cases h; exact ⟨rfl, rfl, by decide⟩
theorem matchL (w : Sys2Proof.Fields) : Statement (.matchL w) := fun _ _ h => by
  cases h; exact ⟨rfl, rfl, by decide⟩
theorem fadd (w : Sys2Proof.Fields) : Statement (.fadd w) := fun _ _ h => by
  cases h; exact ⟨rfl, rfl, by decide⟩
theorem fsub (w : Sys2Proof.Fields) : Statement (.fsub w) := fun _ _ h => by
  cases h; exact ⟨rfl, rfl, by decide⟩
theorem fmul (w : Sys2Proof.Fields) : Statement (.fmul w) := fun _ _ h => by
  cases h; exact ⟨rfl, rfl, by decide⟩
theorem ffma (w : Sys2Proof.Fields) : Statement (.ffma w) := fun _ _ h => by
  cases h; exact ⟨rfl, rfl, by decide⟩
theorem fmin (w : Sys2Proof.Fields) : Statement (.fmin w) := fun _ _ h => by
  cases h; exact ⟨rfl, rfl, by decide⟩
theorem fmax (w : Sys2Proof.Fields) : Statement (.fmax w) := fun _ _ h => by
  cases h; exact ⟨rfl, rfl, by decide⟩
theorem fdiv (w : Sys2Proof.Fields) : Statement (.fdiv w) := fun _ _ h => by
  cases h; exact ⟨rfl, rfl, by decide⟩
theorem fsqrt (w : Sys2Proof.Fields) : Statement (.fsqrt w) := fun _ _ h => by
  cases h; exact ⟨rfl, rfl, by decide⟩
theorem frcp (w : Sys2Proof.Fields) : Statement (.frcp w) := fun _ _ h => by
  cases h; exact ⟨rfl, rfl, by decide⟩
theorem frsq (w : Sys2Proof.Fields) : Statement (.frsq w) := fun _ _ h => by
  cases h; exact ⟨rfl, rfl, by decide⟩
theorem fexp2 (w : Sys2Proof.Fields) : Statement (.fexp2 w) := fun _ _ h => by
  cases h; exact ⟨rfl, rfl, by decide⟩
theorem flog2 (w : Sys2Proof.Fields) : Statement (.flog2 w) := fun _ _ h => by
  cases h; exact ⟨rfl, rfl, by decide⟩
theorem ftanh (w : Sys2Proof.Fields) : Statement (.ftanh w) := fun _ _ h => by
  cases h; exact ⟨rfl, rfl, by decide⟩
theorem frnd (w : Sys2Proof.Fields) : Statement (.frnd w) := fun _ _ h => by
  cases h; exact ⟨rfl, rfl, by decide⟩
theorem fclass (w : Sys2Proof.Fields) : Statement (.fclass w) := fun _ _ h => by
  cases h; exact ⟨rfl, rfl, by decide⟩
theorem fscale (w : Sys2Proof.Fields) : Statement (.fscale w) := fun _ _ h => by
  cases h; exact ⟨rfl, rfl, by decide⟩
theorem hadd2 (w : Sys2Proof.Fields) : Statement (.hadd2 w) := fun _ _ h => by
  cases h; exact ⟨rfl, rfl, by decide⟩
theorem hsub2 (w : Sys2Proof.Fields) : Statement (.hsub2 w) := fun _ _ h => by
  cases h; exact ⟨rfl, rfl, by decide⟩
theorem hmul2 (w : Sys2Proof.Fields) : Statement (.hmul2 w) := fun _ _ h => by
  cases h; exact ⟨rfl, rfl, by decide⟩
theorem hfma2 (w : Sys2Proof.Fields) : Statement (.hfma2 w) := fun _ _ h => by
  cases h; exact ⟨rfl, rfl, by decide⟩
theorem hmin2 (w : Sys2Proof.Fields) : Statement (.hmin2 w) := fun _ _ h => by
  cases h; exact ⟨rfl, rfl, by decide⟩
theorem hmax2 (w : Sys2Proof.Fields) : Statement (.hmax2 w) := fun _ _ h => by
  cases h; exact ⟨rfl, rfl, by decide⟩
theorem hdot2 (w : Sys2Proof.Fields) : Statement (.hdot2 w) := fun _ _ h => by
  cases h; exact ⟨rfl, rfl, by decide⟩
theorem hexp2 (w : Sys2Proof.Fields) : Statement (.hexp2 w) := fun _ _ h => by
  cases h; exact ⟨rfl, rfl, by decide⟩
theorem hcmp2 (w : Sys2Proof.Fields) : Statement (.hcmp2 w) := fun _ _ h => by
  cases h; exact ⟨rfl, rfl, by decide⟩
theorem htanh2 (w : Sys2Proof.Fields) : Statement (.htanh2 w) := fun _ _ h => by
  cases h; exact ⟨rfl, rfl, by decide⟩
theorem hrcp2 (w : Sys2Proof.Fields) : Statement (.hrcp2 w) := fun _ _ h => by
  cases h; exact ⟨rfl, rfl, by decide⟩
theorem hrsq2 (w : Sys2Proof.Fields) : Statement (.hrsq2 w) := fun _ _ h => by
  cases h; exact ⟨rfl, rfl, by decide⟩
theorem cvtf (w : Sys2Proof.Fields) : Statement (.cvtf w) := fun _ _ h => by
  cases h; exact ⟨rfl, rfl, by decide⟩
theorem i2f (w : Sys2Proof.Fields) : Statement (.i2f w) := fun _ _ h => by
  cases h; exact ⟨rfl, rfl, by decide⟩
theorem f2i (w : Sys2Proof.Fields) : Statement (.f2i w) := fun _ _ h => by
  cases h; exact ⟨rfl, rfl, by decide⟩
theorem ixt (w : Sys2Proof.Fields) : Statement (.ixt w) := fun _ _ h => by
  cases h; exact ⟨rfl, rfl, by decide⟩
theorem pk8 (w : Sys2Proof.Fields) : Statement (.pk8 w) := fun _ _ h => by
  cases h; exact ⟨rfl, rfl, by decide⟩
theorem upk8 (w : Sys2Proof.Fields) : Statement (.upk8 w) := fun _ _ h => by
  cases h; exact ⟨rfl, rfl, by decide⟩
theorem qblk (w : Sys2Proof.Fields) : Statement (.qblk w) := fun _ _ h => by
  cases h; exact ⟨rfl, rfl, by decide⟩
theorem dqblk (w : Sys2Proof.Fields) : Statement (.dqblk w) := fun _ _ h => by
  cases h; exact ⟨rfl, rfl, by decide⟩
theorem cbenc (w : Sys2Proof.Fields) : Statement (.cbenc w) := fun _ _ h => by
  cases h; exact ⟨rfl, rfl, by decide⟩
theorem cbdec (w : Sys2Proof.Fields) : Statement (.cbdec w) := fun _ _ h => by
  cases h; exact ⟨rfl, rfl, by decide⟩
theorem cbld (w : Sys2Proof.Fields) : Statement (.cbld w) := fun _ _ h => by
  cases h; exact ⟨rfl, rfl, by decide⟩
theorem sppk (w : Sys2Proof.Fields) : Statement (.sppk w) := fun _ _ h => by
  cases h; exact ⟨rfl, rfl, by decide⟩
theorem spupk (w : Sys2Proof.Fields) : Statement (.spupk w) := fun _ _ h => by
  cases h; exact ⟨rfl, rfl, by decide⟩
theorem srseed (w : Sys2Proof.Fields) : Statement (.srseed w) := fun _ _ h => by
  cases h; exact ⟨rfl, rfl, by decide⟩
theorem pk4 (w : Sys2Proof.Fields) : Statement (.pk4 w) := fun _ _ h => by
  cases h; exact ⟨rfl, rfl, by decide⟩
theorem upk4 (w : Sys2Proof.Fields) : Statement (.upk4 w) := fun _ _ h => by
  cases h; exact ⟨rfl, rfl, by decide⟩
theorem ld (w : Sys2Proof.Fields) : Statement (.ld w) := fun _ _ h => by
  cases h; exact ⟨rfl, rfl, by decide⟩
theorem st (w : Sys2Proof.Fields) : Statement (.st w) := fun _ _ h => by
  cases h; exact ⟨rfl, rfl, by decide⟩
theorem lda (w : Sys2Proof.Fields) : Statement (.lda w) := fun _ _ h => by
  cases h; exact ⟨rfl, rfl, by decide⟩
theorem stl (w : Sys2Proof.Fields) : Statement (.stl w) := fun _ _ h => by
  cases h; exact ⟨rfl, rfl, by decide⟩
theorem lds (w : Sys2Proof.Fields) : Statement (.lds w) := fun _ _ h => by
  cases h; exact ⟨rfl, rfl, by decide⟩
theorem sts (w : Sys2Proof.Fields) : Statement (.sts w) := fun _ _ h => by
  cases h; exact ⟨rfl, rfl, by decide⟩
theorem ldx (w : Sys2Proof.Fields) : Statement (.ldx w) := fun _ _ h => by
  cases h; exact ⟨rfl, rfl, by decide⟩
theorem stx (w : Sys2Proof.Fields) : Statement (.stx w) := fun _ _ h => by
  cases h; exact ⟨rfl, rfl, by decide⟩
theorem ldfe (w : Sys2Proof.Fields) : Statement (.ldfe w) := fun _ _ h => by
  cases h; exact ⟨rfl, rfl, by decide⟩
theorem stfe (w : Sys2Proof.Fields) : Statement (.stfe w) := fun _ _ h => by
  cases h; exact ⟨rfl, rfl, by decide⟩
theorem ldc (w : Sys2Proof.Fields) : Statement (.ldc w) := fun _ _ h => by
  cases h; exact ⟨rfl, rfl, by decide⟩
theorem rld (w : Sys2Proof.Fields) : Statement (.rld w) := fun _ _ h => by
  cases h; exact ⟨rfl, rfl, by decide⟩
theorem pref (w : Sys2Proof.Fields) : Statement (.pref w) := fun _ _ h => by
  cases h; exact ⟨rfl, rfl, by decide⟩
theorem cwb (w : Sys2Proof.Fields) : Statement (.cwb w) := fun _ _ h => by
  cases h; exact ⟨rfl, rfl, by decide⟩
theorem cinv (w : Sys2Proof.Fields) : Statement (.cinv w) := fun _ _ h => by
  cases h; exact ⟨rfl, rfl, by decide⟩
theorem acqp (w : Sys2Proof.Fields) : Statement (.acqp w) := fun _ _ h => by
  cases h; exact ⟨rfl, rfl, by decide⟩
theorem glds (w : Sys2Proof.Fields) : Statement (.glds w) := fun _ _ h => by
  cases h; exact ⟨rfl, rfl, by decide⟩
theorem isect (w : Sys2Proof.Fields) : Statement (.isect w) := fun _ _ h => by
  cases h; exact ⟨rfl, rfl, by decide⟩
theorem merge (w : Sys2Proof.Fields) : Statement (.merge w) := fun _ _ h => by
  cases h; exact ⟨rfl, rfl, by decide⟩
theorem compact (w : Sys2Proof.Fields) : Statement (.compact w) := fun _ _ h => by
  cases h; exact ⟨rfl, rfl, by decide⟩
theorem expand (w : Sys2Proof.Fields) : Statement (.expand w) := fun _ _ h => by
  cases h; exact ⟨rfl, rfl, by decide⟩
theorem tcopy (w : Sys2Proof.Fields) : Statement (.tcopy w) := fun _ _ h => by
  cases h; exact ⟨rfl, rfl, by decide⟩
theorem icopy (w : Sys2Proof.Fields) : Statement (.icopy w) := fun _ _ h => by
  cases h; exact ⟨rfl, rfl, by decide⟩
theorem hdef (w : Sys2Proof.Fields) : Statement (.hdef w) := fun _ _ h => by
  cases h; exact ⟨rfl, rfl, by decide⟩
theorem hwait (w : Sys2Proof.Fields) : Statement (.hwait w) := fun _ _ h => by
  cases h; exact ⟨rfl, rfl, by decide⟩
theorem hset (w : Sys2Proof.Fields) : Statement (.hset w) := fun _ _ h => by
  cases h; exact ⟨rfl, rfl, by decide⟩
theorem hstat (w : Sys2Proof.Fields) : Statement (.hstat w) := fun _ _ h => by
  cases h; exact ⟨rfl, rfl, by decide⟩
theorem segr (w : Sys2Proof.Fields) : Statement (.segr w) := fun _ _ h => by
  cases h; exact ⟨rfl, rfl, by decide⟩
theorem bsrch (w : Sys2Proof.Fields) : Statement (.bsrch w) := fun _ _ h => by
  cases h; exact ⟨rfl, rfl, by decide⟩
theorem atom (w : Sys2Proof.Fields) : Statement (.atom w) := fun _ _ h => by
  cases h; exact ⟨rfl, rfl, by decide⟩
theorem atomo (w : Sys2Proof.Fields) : Statement (.atomo w) := fun _ _ h => by
  cases h; exact ⟨rfl, rfl, by decide⟩
theorem red (w : Sys2Proof.Fields) : Statement (.red w) := fun _ _ h => by
  cases h; exact ⟨rfl, rfl, by decide⟩
theorem cas (w : Sys2Proof.Fields) : Statement (.cas w) := fun _ _ h => by
  cases h; exact ⟨rfl, rfl, by decide⟩
theorem caso (w : Sys2Proof.Fields) : Statement (.caso w) := fun _ _ h => by
  cases h; exact ⟨rfl, rfl, by decide⟩
theorem fred (w : Sys2Proof.Fields) : Statement (.fred w) := fun _ _ h => by
  cases h; exact ⟨rfl, rfl, by decide⟩
theorem fredo (w : Sys2Proof.Fields) : Statement (.fredo w) := fun _ _ h => by
  cases h; exact ⟨rfl, rfl, by decide⟩
theorem fatom (w : Sys2Proof.Fields) : Statement (.fatom w) := fun _ _ h => by
  cases h; exact ⟨rfl, rfl, by decide⟩
theorem fatomo (w : Sys2Proof.Fields) : Statement (.fatomo w) := fun _ _ h => by
  cases h; exact ⟨rfl, rfl, by decide⟩
theorem atoms (w : Sys2Proof.Fields) : Statement (.atoms w) := fun _ _ h => by
  cases h; exact ⟨rfl, rfl, by decide⟩
theorem freds (w : Sys2Proof.Fields) : Statement (.freds w) := fun _ _ h => by
  cases h; exact ⟨rfl, rfl, by decide⟩
theorem aflush (w : Sys2Proof.Fields) : Statement (.aflush w) := fun _ _ h => by
  cases h; exact ⟨rfl, rfl, by decide⟩
theorem cass (w : Sys2Proof.Fields) : Statement (.cass w) := fun _ _ h => by
  cases h; exact ⟨rfl, rfl, by decide⟩
theorem fence (w : Sys2Proof.Fields) : Statement (.fence w) := fun _ _ h => by
  cases h; exact ⟨rfl, rfl, by decide⟩
theorem dfence (w : Sys2Proof.Fields) : Statement (.dfence w) := fun _ _ h => by
  cases h; exact ⟨rfl, rfl, by decide⟩
theorem txb (w : Sys2Proof.Fields) : Statement (.txb w) := fun _ _ h => by
  cases h; exact ⟨rfl, rfl, by decide⟩
theorem txe (w : Sys2Proof.Fields) : Statement (.txe w) := fun _ _ h => by
  cases h; exact ⟨rfl, rfl, by decide⟩
theorem txa (w : Sys2Proof.Fields) : Statement (.txa w) := fun _ _ h => by
  cases h; exact ⟨rfl, rfl, by decide⟩
theorem txo (w : Sys2Proof.Fields) : Statement (.txo w) := fun _ _ h => by
  cases h; exact ⟨rfl, rfl, by decide⟩
theorem txoe (w : Sys2Proof.Fields) : Statement (.txoe w) := fun _ _ h => by
  cases h; exact ⟨rfl, rfl, by decide⟩
theorem txst (w : Sys2Proof.Fields) : Statement (.txst w) := fun _ _ h => by
  cases h; exact ⟨rfl, rfl, by decide⟩
theorem ldnt (w : Sys2Proof.Fields) : Statement (.ldnt w) := fun _ _ h => by
  cases h; exact ⟨rfl, rfl, by decide⟩
theorem tcfg (w : Sys2Proof.Fields) : Statement (.tcfg w) := fun _ _ h => by
  cases h; exact ⟨rfl, rfl, by decide⟩
theorem tld (w : Sys2Proof.Fields) : Statement (.tld w) := fun _ _ h => by
  cases h; exact ⟨rfl, rfl, by decide⟩
theorem tst (w : Sys2Proof.Fields) : Statement (.tst w) := fun _ _ h => by
  cases h; exact ⟨rfl, rfl, by decide⟩
theorem tzero (w : Sys2Proof.Fields) : Statement (.tzero w) := fun _ _ h => by
  cases h; exact ⟨rfl, rfl, by decide⟩
theorem tmovr (w : Sys2Proof.Fields) : Statement (.tmovr w) := fun _ _ h => by
  cases h; exact ⟨rfl, rfl, by decide⟩
theorem tmovw (w : Sys2Proof.Fields) : Statement (.tmovw w) := fun _ _ h => by
  cases h; exact ⟨rfl, rfl, by decide⟩
theorem tcb (w : Sys2Proof.Fields) : Statement (.tcb w) := fun _ _ h => by
  cases h; exact ⟨rfl, rfl, by decide⟩
theorem ttrn (w : Sys2Proof.Fields) : Statement (.ttrn w) := fun _ _ h => by
  cases h; exact ⟨rfl, rfl, by decide⟩
theorem tscal (w : Sys2Proof.Fields) : Statement (.tscal w) := fun _ _ h => by
  cases h; exact ⟨rfl, rfl, by decide⟩
theorem tadd (w : Sys2Proof.Fields) : Statement (.tadd w) := fun _ _ h => by
  cases h; exact ⟨rfl, rfl, by decide⟩
theorem tred (w : Sys2Proof.Fields) : Statement (.tred w) := fun _ _ h => by
  cases h; exact ⟨rfl, rfl, by decide⟩
theorem tnz (w : Sys2Proof.Fields) : Statement (.tnz w) := fun _ _ h => by
  cases h; exact ⟨rfl, rfl, by decide⟩
theorem mma (w : Sys2Proof.Fields) : Statement (.mma w) := fun _ _ h => by
  cases h; exact ⟨rfl, rfl, by decide⟩
theorem mmas (w : Sys2Proof.Fields) : Statement (.mmas w) := fun _ _ h => by
  cases h; exact ⟨rfl, rfl, by decide⟩
theorem mmag (w : Sys2Proof.Fields) : Statement (.mmag w) := fun _ _ h => by
  cases h; exact ⟨rfl, rfl, by decide⟩
theorem mmai (w : Sys2Proof.Fields) : Statement (.mmai w) := fun _ _ h => by
  cases h; exact ⟨rfl, rfl, by decide⟩
theorem tlu (w : Sys2Proof.Fields) : Statement (.tlu w) := fun _ _ h => by
  cases h; exact ⟨rfl, rfl, by decide⟩
theorem tchl (w : Sys2Proof.Fields) : Statement (.tchl w) := fun _ _ h => by
  cases h; exact ⟨rfl, rfl, by decide⟩
theorem ttrs (w : Sys2Proof.Fields) : Statement (.ttrs w) := fun _ _ h => by
  cases h; exact ⟨rfl, rfl, by decide⟩
theorem tmv (w : Sys2Proof.Fields) : Statement (.tmv w) := fun _ _ h => by
  cases h; exact ⟨rfl, rfl, by decide⟩
theorem mwait (w : Sys2Proof.Fields) : Statement (.mwait w) := fun _ _ h => by
  cases h; exact ⟨rfl, rfl, by decide⟩
theorem mmaq (w : Sys2Proof.Fields) : Statement (.mmaq w) := fun _ _ h => by
  cases h; exact ⟨rfl, rfl, by decide⟩
theorem tpiv (w : Sys2Proof.Fields) : Statement (.tpiv w) := fun _ _ h => by
  cases h; exact ⟨rfl, rfl, by decide⟩
theorem nbin (w : Sys2Proof.Fields) : Statement (.nbin w) := fun _ _ h => by
  cases h; exact ⟨rfl, rfl, by decide⟩
theorem npair (w : Sys2Proof.Fields) : Statement (.npair w) := fun _ _ h => by
  cases h; exact ⟨rfl, rfl, by decide⟩
theorem nstat (w : Sys2Proof.Fields) : Statement (.nstat w) := fun _ _ h => by
  cases h; exact ⟨rfl, rfl, by decide⟩
theorem ncfg (w : Sys2Proof.Fields) : Statement (.ncfg w) := fun _ _ h => by
  cases h; exact ⟨rfl, rfl, by decide⟩
theorem hprobe (w : Sys2Proof.Fields) : Statement (.hprobe w) := fun _ _ h => by
  cases h; exact ⟨rfl, rfl, by decide⟩
theorem hins (w : Sys2Proof.Fields) : Statement (.hins w) := fun _ _ h => by
  cases h; exact ⟨rfl, rfl, by decide⟩
theorem hdel (w : Sys2Proof.Fields) : Statement (.hdel w) := fun _ _ h => by
  cases h; exact ⟨rfl, rfl, by decide⟩
theorem hreh (w : Sys2Proof.Fields) : Statement (.hreh w) := fun _ _ h => by
  cases h; exact ⟨rfl, rfl, by decide⟩
theorem hcfg (w : Sys2Proof.Fields) : Statement (.hcfg w) := fun _ _ h => by
  cases h; exact ⟨rfl, rfl, by decide⟩
theorem hqry (w : Sys2Proof.Fields) : Statement (.hqry w) := fun _ _ h => by
  cases h; exact ⟨rfl, rfl, by decide⟩
theorem svopen (w : Sys2Proof.Fields) : Statement (.svopen w) := fun _ _ h => by
  cases h; exact ⟨rfl, rfl, by decide⟩
theorem svmark (w : Sys2Proof.Fields) : Statement (.svmark w) := fun _ _ h => by
  cases h; exact ⟨rfl, rfl, by decide⟩
theorem svclose (w : Sys2Proof.Fields) : Statement (.svclose w) := fun _ _ h => by
  cases h; exact ⟨rfl, rfl, by decide⟩
theorem svqry (w : Sys2Proof.Fields) : Statement (.svqry w) := fun _ _ h => by
  cases h; exact ⟨rfl, rfl, by decide⟩
theorem nfix (w : Sys2Proof.Fields) : Statement (.nfix w) := fun _ _ h => by
  cases h; exact ⟨rfl, rfl, by decide⟩
theorem svc (w : Sys2Proof.Fields) : Statement (.svc w) := fun _ _ h => by
  cases h; exact ⟨rfl, rfl, by decide⟩
theorem eret (w : Sys2Proof.Fields) : Statement (.eret w) := fun _ _ h => by
  cases h; exact ⟨rfl, rfl, by decide⟩
theorem getp (w : Sys2Proof.Fields) : Statement (.getp w) := fun _ _ h => by
  cases h; exact ⟨rfl, rfl, by decide⟩
theorem setp (w : Sys2Proof.Fields) : Statement (.setp w) := fun _ _ h => by
  cases h; exact ⟨rfl, rfl, by decide⟩
theorem tlbi (w : Sys2Proof.Fields) : Statement (.tlbi w) := fun _ _ h => by
  cases h; exact ⟨rfl, rfl, by decide⟩
theorem l2wb (w : Sys2Proof.Fields) : Statement (.l2wb w) := fun _ _ h => by
  cases h; exact ⟨rfl, rfl, by decide⟩
theorem vhold (w : Sys2Proof.Fields) : Statement (.vhold w) := fun _ _ h => by
  cases h; exact ⟨rfl, rfl, by decide⟩
theorem harv (w : Sys2Proof.Fields) : Statement (.harv w) := fun _ _ h => by
  cases h; exact ⟨rfl, rfl, by decide⟩
theorem ctxs (w : Sys2Proof.Fields) : Statement (.ctxs w) := fun _ _ h => by
  cases h; exact ⟨rfl, rfl, by decide⟩
theorem ctxr (w : Sys2Proof.Fields) : Statement (.ctxr w) := fun _ _ h => by
  cases h; exact ⟨rfl, rfl, by decide⟩
theorem migr (w : Sys2Proof.Fields) : Statement (.migr w) := fun _ _ h => by
  cases h; exact ⟨rfl, rfl, by decide⟩
theorem hnot (w : Sys2Proof.Fields) : Statement (.hnot w) := fun _ _ h => by
  cases h; exact ⟨rfl, rfl, by decide⟩
theorem dictionaryMark (e : BitVec 2) (x : Sys2Proof.Byte) : Statement (.dictionaryMark e x) := fun _ _ h => nomatch h
theorem longResultWrite : Statement .longResultWrite := fun _ _ h => nomatch h
theorem gldsLaneArrival : Statement .gldsLaneArrival := fun _ _ h => nomatch h
theorem waitvSatisfied : Statement .waitvSatisfied := fun _ _ h => nomatch h
theorem barrierRelease : Statement .barrierRelease := fun _ _ h => nomatch h
theorem acqGrant : Statement .acqGrant := fun _ _ h => nomatch h
theorem shedEffect : Statement .shedEffect := fun _ _ h => nomatch h
theorem engineBufferPause : Statement .engineBufferPause := fun _ _ h => nomatch h
theorem tcopyEnd : Statement .tcopyEnd := fun _ _ h => nomatch h
theorem icopyEnd : Statement .icopyEnd := fun _ _ h => nomatch h
theorem isectEnd : Statement .isectEnd := fun _ _ h => nomatch h
theorem mergeEnd : Statement .mergeEnd := fun _ _ h => nomatch h
theorem nbinEnd : Statement .nbinEnd := fun _ _ h => nomatch h
theorem npairEnd : Statement .npairEnd := fun _ _ h => nomatch h
theorem nfixEnd : Statement .nfixEnd := fun _ _ h => nomatch h
theorem hcfgEnd : Statement .hcfgEnd := fun _ _ h => nomatch h
theorem hprobeEnd : Statement .hprobeEnd := fun _ _ h => nomatch h
theorem hinsEnd : Statement .hinsEnd := fun _ _ h => nomatch h
theorem hdelEnd : Statement .hdelEnd := fun _ _ h => nomatch h
theorem hrehEnd : Statement .hrehEnd := fun _ _ h => nomatch h
theorem ctxsEnd : Statement .ctxsEnd := fun _ _ h => nomatch h
theorem ctxrEnd : Statement .ctxrEnd := fun _ _ h => nomatch h
theorem migrEnd : Statement .migrEnd := fun _ _ h => nomatch h
theorem matrixOpComplete : Statement .matrixOpComplete := fun _ _ h => nomatch h
theorem deferredTileFault : Statement .deferredTileFault := fun _ _ h => nomatch h
theorem irrevTokenGrant : Statement .irrevTokenGrant := fun _ _ h => nomatch h
theorem cartEntryArrival : Statement .cartEntryArrival := fun _ _ h => nomatch h
theorem drainerMarker : Statement .drainerMarker := fun _ _ h => nomatch h
theorem roundClose : Statement .roundClose := fun _ _ h => nomatch h
theorem forwardedAccessReceive : Statement .forwardedAccessReceive := fun _ _ h => nomatch h
theorem forwardedResponse : Statement .forwardedResponse := fun _ _ h => nomatch h
theorem remoteStoreRefusal : Statement .remoteStoreRefusal := fun _ _ h => nomatch h
theorem pageWalk : Statement .pageWalk := fun _ _ h => nomatch h
theorem walkWaitTimeout : Statement .walkWaitTimeout := fun _ _ h => nomatch h
theorem faultRingWrite : Statement .faultRingWrite := fun _ _ h => nomatch h
theorem fackResume : Statement .fackResume := fun _ _ h => nomatch h
theorem fackEnd : Statement .fackEnd := fun _ _ h => nomatch h
theorem fackAbort : Statement .fackAbort := fun _ _ h => nomatch h
theorem placementPass : Statement .placementPass := fun _ _ h => nomatch h
theorem gangPreempt : Statement .gangPreempt := fun _ _ h => nomatch h
theorem gangRestore : Statement .gangRestore := fun _ _ h => nomatch h
theorem gangStartEdge : Statement .gangStartEdge := fun _ _ h => nomatch h
theorem teamRetire : Statement .teamRetire := fun _ _ h => nomatch h
theorem itemPlacement : Statement .itemPlacement := fun _ _ h => nomatch h
theorem scoreHalving : Statement .scoreHalving := fun _ _ h => nomatch h
theorem watchdogExpiry : Statement .watchdogExpiry := fun _ _ h => nomatch h
theorem launchDeadline : Statement .launchDeadline := fun _ _ h => nomatch h
theorem assayDeadline : Statement .assayDeadline := fun _ _ h => nomatch h
theorem launchRecord : Statement .launchRecord := fun _ _ h => nomatch h
theorem loadRecord : Statement .loadRecord := fun _ _ h => nomatch h
theorem unloadRecord : Statement .unloadRecord := fun _ _ h => nomatch h
theorem launchCompletion : Statement .launchCompletion := fun _ _ h => nomatch h
theorem notificationPost : Statement .notificationPost := fun _ _ h => nomatch h
theorem qtailWrite : Statement .qtailWrite := fun _ _ h => nomatch h
theorem nheadWrite : Statement .nheadWrite := fun _ _ h => nomatch h
theorem qptbrWrite : Statement .qptbrWrite := fun _ _ h => nomatch h
theorem registerWrite : Statement .registerWrite := fun _ _ h => nomatch h
theorem hostHdmAccess : Statement .hostHdmAccess := fun _ _ h => nomatch h
theorem frfmtEnable : Statement .frfmtEnable := fun _ _ h => nomatch h
theorem frfmtDisable : Statement .frfmtDisable := fun _ _ h => nomatch h
theorem wdogRestart : Statement .wdogRestart := fun _ _ h => nomatch h
theorem wdogZeroWrite : Statement .wdogZeroWrite := fun _ _ h => nomatch h
theorem spanPrepare : Statement .spanPrepare := fun _ _ h => nomatch h
theorem spanCommit : Statement .spanCommit := fun _ _ h => nomatch h
theorem spanGo : Statement .spanGo := fun _ _ h => nomatch h
theorem spanAbandon : Statement .spanAbandon := fun _ _ h => nomatch h
theorem spanWindowExpiry : Statement .spanWindowExpiry := fun _ _ h => nomatch h
theorem spanLocalTimeout : Statement .spanLocalTimeout := fun _ _ h => nomatch h
theorem portTraining : Statement .portTraining := fun _ _ h => nomatch h
theorem portDown : Statement .portDown := fun _ _ h => nomatch h
theorem heartbeatSend : Statement .heartbeatSend := fun _ _ h => nomatch h
theorem heartbeatReceive : Statement .heartbeatReceive := fun _ _ h => nomatch h
theorem agentDeathDeclare : Statement .agentDeathDeclare := fun _ _ h => nomatch h
theorem deadMessage : Statement .deadMessage := fun _ _ h => nomatch h
theorem admitMessage : Statement .admitMessage := fun _ _ h => nomatch h
theorem admissionGo : Statement .admissionGo := fun _ _ h => nomatch h
theorem fabricMessageReceive : Statement .fabricMessageReceive := fun _ _ h => nomatch h
theorem fwImageStage : Statement .fwImageStage := fun _ _ h => nomatch h
theorem fwUnitActivate : Statement .fwUnitActivate := fun _ _ h => nomatch h
theorem getVersion : Statement .getVersion := fun _ _ h => nomatch h
theorem getCapabilities : Statement .getCapabilities := fun _ _ h => nomatch h
theorem negotiateAlgorithms : Statement .negotiateAlgorithms := fun _ _ h => nomatch h
theorem getDigests : Statement .getDigests := fun _ _ h => nomatch h
theorem getCertificate : Statement .getCertificate := fun _ _ h => nomatch h
theorem challenge : Statement .challenge := fun _ _ h => nomatch h
theorem getMeasurements : Statement .getMeasurements := fun _ _ h => nomatch h
theorem masterFreeze : Statement .masterFreeze := fun _ _ h => nomatch h
theorem mfreezeThaw : Statement .mfreezeThaw := fun _ _ h => nomatch h
theorem spareCoreReplace : Statement .spareCoreReplace := fun _ _ h => nomatch h
theorem eccCorrected : Statement .eccCorrected := fun _ _ h => nomatch h
theorem eccPoison : Statement .eccPoison := fun _ _ h => nomatch h
theorem sensorSample : Statement .sensorSample := fun _ _ h => nomatch h
theorem deviceReset : Statement .deviceReset := fun _ _ h => nomatch h
theorem unassignedOpcode (opc : Sys2Proof.Byte) (w : Sys2Proof.Fields) : Statement (.unassignedOpcode opc w) := fun _ _ h => nomatch h
theorem oddOrOutOfCodeFetch : Statement .oddOrOutOfCodeFetch := fun _ _ h => nomatch h
theorem spanReadyReport : Statement .spanReadyReport := fun _ _ h => nomatch h
theorem spanCommitAcknowledgement : Statement .spanCommitAcknowledgement := fun _ _ h => nomatch h

end Sys2Proof.Laws.Opcode
end

