-- ==== Sys2Proof/Laws/Time.lean ====
section
/-! SUPPORT. What time does before a step, what a move comes to, and what a turn among engine operations leaves alone. -/

namespace Sys2Proof.Machine

/-- Nothing has spilled to a sump: no record is to be written. -/
theorem State.laySump_empty (s : State) (h : ∀ l ∈ s.launches, l.sump = []) : s.laySump = s := by
  unfold State.laySump
  rw [List.flatMap_eq_nil_iff.2 (fun l hl => by rw [h l hl]; rfl)]
  rfl

@[simp] theorem State.tick_fibres (s : State) : s.tick.fibres = s.trim.laySump.fibres := rfl
@[simp] theorem State.tick_waves (s : State) : s.tick.waves = s.trim.laySump.waves := rfl
@[simp] theorem State.tick_mem (s : State) : s.tick.mem = s.trim.laySump.mem := rfl
@[simp] theorem State.tick_cores (s : State) : s.tick.cores = s.trim.laySump.cores := rfl
@[simp] theorem State.tick_launches (s : State) : s.tick.launches = s.trim.laySump.launches := rfl
@[simp] theorem State.tick_agenda (s : State) : s.tick.agenda = s.trim.laySump.agenda := rfl
@[simp] theorem State.tick_begun (s : State) : s.tick.clk.begun = s.clk.rtime := rfl

/-- RTIME never goes back. -/
theorem State.tick_rtime (s : State) : s.rtime ≤ s.tick.rtime := Nat.le_add_right _ _

@[simp] theorem Plan.carryOut_issue (w : Nat) (i : Instr) (t u : State) (h : exec i t = .next u) :
    (Plan.issue w i t).carryOut = .next (State.noteIssue t u w) := by
  simp [Plan.carryOut, h]
@[simp] theorem Plan.carryOut_event (i : Instr) (t : State) : (Plan.event i t).carryOut = exec i t := rfl
@[simp] theorem Plan.carryOut_quiet (t : State) : (Plan.quiet t).carryOut = .next t := rfl

@[simp] theorem State.takeTurn_mem (s : State) (p : EngOp) (y : Bool) : (s.takeTurn p y).mem = s.mem := rfl
@[simp] theorem State.takeTurn_teams (s : State) (p : EngOp) (y : Bool) : (s.takeTurn p y).teams = s.teams := rfl
@[simp] theorem State.takeTurn_fibres (s : State) (p : EngOp) (y : Bool) : (s.takeTurn p y).fibres = s.fibres := rfl

@[simp] theorem State.walkNote_mem (s : State) (k : Walker) (b : Bool) : (s.walkNote k b).mem = s.mem := by
  unfold State.walkNote
  repeat (first | rfl | split)

end Sys2Proof.Machine
end

