-- ==== Sys2Proof/Laws/Traps.lean ====
section
/-! SUPPORT. Where the fibres of a wave stand after they trap together (28 R478): one lemma for checks that fail before an
instruction's effect, one for an effect that is a trap in every active lane. -/

namespace Sys2Proof.Machine

variable {op : Op} {w : Fields} {s s1 u : State} {wv : Wave} {fs : List Fibre} {f : Fibre} {body : Body} {l : Launch} {o : Object}

/-- Fibres that trap one after another enter the runtime. -/
theorem waysOut_traps (c : Ctx) (orig gs : List Fibre) (k : Nat) (D : Fibre → Due) (R : Fibre → Resume) (pc : Word) (s : State)
    (hl : s.launch? k = some l) (he : l.trapEntry.getLsbD 0 = false) (ho : s.object? l.trapObj.toNat = some o)
    (hn : (gs.map Fibre.id).Nodup) (hs : ∀ g ∈ gs, s.fibre? g.id = some g)
    (hg : ∀ g ∈ gs, g.id.crew.launch = k ∧ g.inTrap = none ∧ g.tx = none) :
    s.waysOut c orig (gs.map (fun g => (g.id, Way.trap (D g) (R g) pc)))
      = (gs.foldl (fun u g => u.setFibre (g.enter l o.ringed c.wv.meet pc (D g) (R g))) s, gs.map Fibre.id) := by
  induction gs generalizing s with
  | nil => rfl
  | cons x xs ih =>
    rw [List.map_cons, List.nodup_cons] at hn
    obtain ⟨h1, h2, h3⟩ := hg x List.mem_cons_self
    have hx := hs x List.mem_cons_self
    have hd : s.doubleTrap x = false := by
      unfold State.doubleTrap
      simp only [h2, h1, hl, he, ho, Option.isSome_none, Option.isNone_some, Bool.or_self]
    have ht : s.takeTrap x c.wv.meet pc (D x) (R x) = s.setFibre (x.enter l o.ringed c.wv.meet pc (D x) (R x)) := by
      unfold State.takeTrap
      rw [if_neg (by simp [hd])]
      simp only [h1, hl, ho, Option.map_some, Option.getD_some]
    have hw : ∀ y, s.wayOut c y x (.trap (D x) (R x) pc) = (s.setFibre (x.enter l o.ringed c.wv.meet pc (D x) (R x)), true) := by
      intro y
      simp only [State.wayOut, Fibre.faultWay, h3, ht]
    rw [List.map_cons, List.foldl_cons, State.waysOut]
    simp only [hx, hw, if_true, List.map_cons]
    rw [ih (s.setFibre (x.enter l o.ringed c.wv.meet pc (D x) (R x))) hl ho hn.2 (fun g hgm => ?_) (fun g hgm => hg g (List.mem_cons_of_mem _ hgm))]
    have hid := (x.enter_same l o.ringed c.wv.meet pc (D x) (R x)).1
    rw [State.fibre?_setFibre_other (fun hh => hn.1 ?_)]
    · exact hs g (List.mem_cons_of_mem _ hgm)
    · rw [← hid, hh]; exact List.mem_map.mpr ⟨g, hgm, rfl⟩

theorem enter_walk (g : Fibre) (b : Bool) (m pc : Word) (d : Due) (r : Resume) : (g.enter l b m pc d r).walkTimeout = false := rfl

/-- The fibres put by a fold keep the waves, and the groups stay none. -/
theorem foldl_setFibre_keeps {G : Fibre → Fibre} (hG : ∀ x : Fibre, x.Same (G x)) (gs : List Fibre) (s : State) (hgs : ∀ x ∈ gs, x.group = none)
    (hs : ∀ x ∈ s.fibres, x.group = none) : (gs.foldl (fun u x => u.setFibre (G x)) s).waves = s.waves
      ∧ SameBut s (gs.foldl (fun u x => u.setFibre (G x)) s) ∧ ∀ x ∈ (gs.foldl (fun u x => u.setFibre (G x)) s).fibres, x.group = none := by
  induction gs generalizing s with
  | nil => exact ⟨rfl, rfl, hs⟩
  | cons y ys ih =>
    obtain ⟨h1, h2, h3⟩ := ih (s.setFibre (G y)) (fun x hx => hgs x (List.mem_cons_of_mem _ hx)) (fun x hx => by
      rw [State.setFibre_fibres] at hx
      obtain ⟨z, hz, rfl⟩ := List.mem_map.mp hx
      split
      · rw [(hG y).2]; exact hgs y List.mem_cons_self
      · exact hs z hz)
    exact ⟨h1, SameBut.trans (t := s.setFibre (G y)) rfl h2, h3⟩

/-- The end of an issue in which every fibre of a list traps: those fibres stand in the runtime, the wave's others are settled. -/
theorem finish_traps {c : Ctx} {orig gs : List Fibre} {D : Fibre → Due} {R : Fibre → Resume} {pc : Word}
    (hl : s.launch? c.launch = some l) (hd : l.det = false) (hcd : c.det = l.det) (he : l.trapEntry.getLsbD 0 = false)
    (ho : s.object? l.trapObj.toNat = some o) (hn : (gs.map Fibre.id).Nodup) (hs : ∀ g ∈ gs, s.fibre? g.id = some g)
    (hg : ∀ g ∈ gs, g.id.crew.launch = c.launch ∧ g.inTrap = none ∧ g.tx = none) (hr : c.wv.reissue = false)
    (hw : ∀ w ∈ s.waves, w.wait ≠ some .meet ∧ w.wait ≠ some .bar ∧ w.wait ≠ some .gbar) (hgr : ∀ x ∈ s.fibres, x.group = none) :
    ∃ t, s.finish c orig (gs.map (fun g => (g.id, Way.trap (D g) (R g) pc))) = t ∧ SameBut s t ∧ ∀ k, t.fibre? k
      = (s.fibre? k).map (fun f => if (gs.map Fibre.id).contains k then f.enter l o.ringed c.wv.meet pc (D f) (R f)
          else Fibre.settled (c.all.map Fibre.id) f) := by
  have hv := waysOut_traps c orig gs c.launch D R pc s hl he ho hn hs hg
  have hG : ∀ x : Fibre, x.Same (x.enter l o.ringed c.wv.meet pc (D x) (R x)) := fun x => x.enter_same _ _ _ _ _ _
  obtain ⟨k1, k2, k3⟩ := foldl_setFibre_keeps hG gs s (fun x hx => hgr x (List.mem_of_find?_eq_some (hs x hx))) hgr
  obtain ⟨hsame, hfib⟩ := State.finish_same (v0 := _) (fs := orig) hv (fun p hp w => by
      obtain ⟨g, -, rfl⟩ := List.mem_map.mp hp
      intro hh; cases hh) (by rw [hcd, hd]; rfl) hr ⟨fun w h => hw w (k1 ▸ h), k3⟩
  refine ⟨_, rfl, SameBut.trans k2 hsame, fun k => ?_⟩
  rw [State.fibre?_map (Fibre.settled_id _) _ _ hfib,
    State.fibre?_foldl Fibre.id (fun x => x.enter l o.ringed c.wv.meet pc (D x) (R x)) (fun x => (hG x).1) gs hn]
  cases e : s.fibre? k with
  | none => rfl
  | some f =>
    simp only [Option.map_some, Option.some.injEq]
    cases e2 : gs.find? (fun x => x.id == k) with
    | none =>
      have : (gs.map Fibre.id).contains k = false := by
        rw [List.find?_eq_none] at e2
        simp only [List.contains_eq_mem, List.mem_map, decide_eq_false_iff_not, not_exists, not_and]
        intro x hx hh
        exact e2 x hx (by simp [hh])
      simp only [this, Bool.false_eq_true, if_false, Option.map_none, Option.getD_none]
    | some x =>
      have hx := List.mem_of_find?_eq_some e2
      have hxi : x.id = k := by simpa using List.find?_some e2
      have h2 := hs x hx
      rw [hxi, e] at h2
      cases h2
      have : (gs.map Fibre.id).contains k = true := by simpa using ⟨f, hx, hxi⟩
      simp only [this, if_true, Option.map_some, Option.getD_some]
      unfold Fibre.settled
      split
      · rfl
      · rfl

/-- A wave's fibres all trap before the effect of the word: where they stand then. -/
theorem trapOnly_ends {e : Fibre → Due} {pc fall : Word} (hfs : s.waveFibres wv = fs) (hr : wv.reissue = false) (hs : s.Calm)
    (ht : Trappable s wv fs l o) :
    ∃ t, s.trapOnly (baseCtx op w s wv fs pc fall) (fs.map (fun g => (g.id, Way.trap (e g) .atPc pc))) = t ∧ SameBut s t
      ∧ (∀ g ∈ fs, t.fibre? g.id = some (g.enter l o.ringed wv.meet pc (e g) .atPc)) ∧ ∀ k, (∀ g ∈ fs, g.id ≠ k) → t.fibre? k = s.fibre? k := by
  obtain ⟨hl, hd, he, ho, hb, hg⟩ := ht
  have hn : (fs.map Fibre.id).Nodup := hfs ▸ s.waveFibres_nodup wv
  have hmem : ∀ g ∈ fs, s.fibre? g.id = some g := fun g h => State.mem_waveFibres (hfs.symm ▸ h : g ∈ s.waveFibres wv)
  have hcrew : ∀ g ∈ fs, g.id.crew.launch = wv.crew.launch := by
    intro g h
    rw [← hfs] at h
    obtain ⟨k, -, hk⟩ := List.mem_filterMap.mp h
    split at hk
    · rw [State.fibre?_id hk]
    · cases hk
  unfold State.trapOnly
  have : (s.bankFull (baseCtx op w s wv fs pc fall).wv && anyTrap (fs.map (fun g => (g.id, Way.trap (e g) .atPc pc)))) = false := by
    show (s.bankFull wv && _) = false
    rw [hb]; rfl
  rw [this]
  simp only [Bool.false_eq_true, if_false]
  obtain ⟨t, h1, h2, h3⟩ := finish_traps (c := baseCtx op w s wv fs pc fall) (orig := fs) (gs := fs) (D := e) (R := fun _ => .atPc)
    (pc := pc) hl hd (by show s.det _ = _; simp only [State.det, hl, Option.map_some, Option.getD_some]) he ho hn hmem
    (fun g h => ⟨hcrew g h, hg g h⟩) hr hs.1 hs.2
  refine ⟨t, h1, h2, fun g h => ?_, fun k h => ?_⟩
  · rw [h3, hmem g h]
    have : (fs.map Fibre.id).contains g.id = true := by simpa using ⟨g, h, rfl⟩
    simp only [Option.map_some, this, if_true]
    rfl
  · rw [h3]
    have : (fs.map Fibre.id).contains k = false := by
      simp only [List.contains_eq_mem, List.mem_map, decide_eq_false_iff_not, not_exists, not_and]
      exact fun x hx => h x hx
    cases e2 : s.fibre? k with
    | none => rfl
    | some f =>
      have hk := State.fibre?_id e2
      simp only [Option.map_some, this, Bool.false_eq_true, if_false, Option.some.injEq]
      unfold Fibre.settled
      have : ((baseCtx op w s wv fs pc fall).all.map Fibre.id).contains f.id = false := by rw [hk]; exact this
      rw [this]; rfl

/-- A wave whose word fails a check of 12 R245 before its effect: every fibre traps with that cause at the instruction. -/
theorem issue_check {e : Cause} (hcur : s.cur.bind s.wave? = some wv) (hfs : s.waveFibres wv = f :: fs)
    (hdue : s.duesAt op wv.crew.launch (f :: fs) f.pc = []) (hck : decodeCheck s op w f = some e) (hr : wv.reissue = false)
    (hs : s.Calm) (ht : Trappable s wv (f :: fs) l o) :
    Ends (issue op w body s) s (f :: fs) (fun g => g.enter l o.ringed wv.meet f.pc { cause := e } .atPc) s := by
  obtain ⟨t, h1, h2, h3, h4⟩ := trapOnly_ends (op := op) (w := w) (e := fun _ => { cause := e }) (pc := f.pc) (fall := s.fallOf f.pc)
    hfs hr hs ht
  refine ⟨t, ?_, h2, h3, h4⟩
  unfold issue
  simp only [hcur, hfs]
  unfold issueWave
  simp only [hdue, List.isEmpty_nil, Bool.not_true, Bool.false_eq_true, if_false, hck, h1]

/-- What is no instruction traps in every fibre of its wave. -/
theorem fail_ends {e : Cause} (hcur : s.cur.bind s.wave? = some wv) (hfs : s.waveFibres wv = f :: fs)
    (hdue : ∀ g ∈ f :: fs, g.dues = []) (hr : wv.reissue = false) (hs : s.Calm) (ht : Trappable s wv (f :: fs) l o) :
    Ends (failIssue e s) s (f :: fs) (fun g => g.enter l o.ringed wv.meet f.pc { cause := e } .atPc) s := by
  obtain ⟨t, h1, h2, h3, h4⟩ := trapOnly_ends (op := .nop) (w := default) (e := fun _ => { cause := e }) (pc := f.pc) (fall := f.pc)
    hfs hr hs ht
  refine ⟨t, ?_, h2, h3, h4⟩
  unfold failIssue
  simp only [hcur, hfs]
  unfold failWave
  have : (f :: fs).filterMap (fun g => g.dues.head?.map (fun d => (g.id, Way.trap d.1 d.2 f.pc))) = [] :=
    List.filterMap_eq_nil_iff.mpr (fun g hg => by rw [hdue g hg]; rfl)
  simp only [this, List.isEmpty_nil, if_true, h1]

/-- An instruction whose effect is a trap in every active lane: those fibres stand in the runtime, the others are passed by. -/
theorem issue_traps {D : Fibre → Due} {pc : Word} (h : Issues op w s wv fs f) (ht : Trappable s wv fs l o)
    (hb : body (issueCtx op w s wv fs f.pc) (s.begun (issueCtx op w s wv fs f.pc)) = .ok (s.begun (issueCtx op w s wv fs f.pc),
      (issueCtx op w s wv fs f.pc).act.map (fun g => (g.id, Way.trap (D g) .atPc pc)))) :
    Ends (issue op w body s) s fs (fun g => if g.active w.guard then
      (g.issued (s.fallOf f.pc)).enter l o.ringed wv.meet pc (D (g.issued (s.fallOf f.pc))) .atPc else g.passed (s.fallOf f.pc)) s := by
  obtain ⟨hl, hd, he, ho, hbk, hg⟩ := ht
  obtain ⟨h, hr, hs⟩ := h
  have hn : (fs.map Fibre.id).Nodup := h.2.1 ▸ s.waveFibres_nodup wv
  have hmem : ∀ g ∈ fs, s.fibre? g.id = some g := fun g hgm => State.mem_waveFibres (h.2.1.symm ▸ hgm : g ∈ s.waveFibres wv)
  have hcrew : ∀ g ∈ fs, g.id.crew.launch = wv.crew.launch := by
    intro g hgm
    rw [← h.2.1] at hgm
    obtain ⟨k, -, hk⟩ := List.mem_filterMap.mp hgm
    split at hk
    · rw [State.fibre?_id hk]
    · cases hk
  rw [issue_ways h hb (by rw [hbk]; rfl)]
  have ha := Ready.active_eq h
  have hbf := begun_fibre? h
  have hbg := Ready.begun_group h hs
  have hbs : SameBut s (s.begun (issueCtx op w s wv fs f.pc)) := setFibres_same _ _
  have hbw : (s.begun (issueCtx op w s wv fs f.pc)).waves = s.waves := setFibres_waves _ _
  have hall : (issueCtx op w s wv fs f.pc).all.map Fibre.id = fs.map Fibre.id := by
    show (fs.map _).map _ = _
    rw [List.map_map]; rfl
  have hcd : (issueCtx op w s wv fs f.pc).det = l.det := by
    show s.det _ = _
    simp only [State.det, hl, Option.map_some, Option.getD_some]
  have hcl : (issueCtx op w s wv fs f.pc).launch = wv.crew.launch := rfl
  have hcwv : (issueCtx op w s wv fs f.pc).wv = wv := rfl
  generalize issueCtx op w s wv fs f.pc = c at *
  have hop : ((c.act.filter (fun g => !(c.act.map (fun g => (g.id, Way.trap (D g) .atPc pc))).any (fun p => p.1 == g.id))).map Fibre.id) = [] := by
    rw [List.map_eq_nil_iff, List.filter_eq_nil_iff]
    intro x hx
    simp only [List.any_map, Bool.not_eq_true, Bool.not_eq_false', List.any_eq_true, Function.comp]
    exact ⟨x, hx, beq_self_eq_true _⟩
  rw [hop]
  have hnil : (s.begun c).openWindows c [] = s.begun c := by unfold State.openWindows; split <;> rfl
  rw [hnil]
  have hbl : ∀ k, (s.begun c).launch? k = s.launch? k := by
    intro k; unfold State.launch?; rw [show (s.begun c).launches = s.launches by rw [hbs]]
  have hbo : ∀ k, (s.begun c).object? k = s.object? k := by
    intro k; unfold State.object?; rw [show (s.begun c).objects = s.objects by rw [hbs]]
  obtain ⟨t, h1, h2, h3⟩ := finish_traps (c := c) (orig := fs) (gs := c.act) (D := D) (R := fun _ => .atPc) (pc := pc) (s := s.begun c)
    (by rw [hbl, hcl]; exact hl) hd hcd he (by rw [hbo]; exact ho)
    (by rw [ha, List.map_map]; exact hn.sublist (List.Sublist.map _ List.filter_sublist))
    (fun g hgm => by
      rw [ha] at hgm
      obtain ⟨y, hy, rfl⟩ := List.mem_map.mp hgm
      have hyf := (List.mem_filter.mp hy).1
      show (s.begun c).fibre? y.id = _
      rw [hbf, hmem y hyf]
      have : (fs.map Fibre.id).contains y.id = true := by simpa using ⟨y, hyf, rfl⟩
      simp only [Option.map_some, this, if_true])
    (fun g hgm => by
      rw [ha] at hgm
      obtain ⟨y, hy, rfl⟩ := List.mem_map.mp hgm
      have hyf := (List.mem_filter.mp hy).1
      exact ⟨by rw [hcl]; exact hcrew y hyf, hg y hyf⟩)
    (by rw [hcwv]; exact hr) (fun w hw => hs.1 w (hbw ▸ hw)) hbg
  rw [h1]
  refine ⟨t, rfl, SameBut.trans hbs h2, fun g hgm => ?_, fun k hk => ?_⟩
  · rw [h3, hbf, hmem g hgm]
    have hcon : (fs.map Fibre.id).contains g.id = true := by simpa using ⟨g, hgm, rfl⟩
    have hca : (c.act.map Fibre.id).contains g.id = g.active w.guard := by
      rw [ha, List.map_map]
      cases e : g.active w.guard with
      | true =>
        simp only [List.contains_eq_mem, List.mem_map, List.mem_filter, decide_eq_true_eq]
        exact ⟨g, ⟨hgm, e⟩, rfl⟩
      | false =>
        simp only [List.contains_eq_mem, List.mem_map, List.mem_filter, decide_eq_false_iff_not, not_exists, not_and]
        rintro x ⟨hx, hxa⟩ hxi
        have hxi : x.id = g.id := hxi
        have h1 := hmem x hx
        rw [hxi, hmem g hgm] at h1
        cases h1
        rw [e] at hxa; cases hxa
    simp only [Option.map_some, hcon, if_true, hca, hall, hcwv]
    split
    · rfl
    · simp only [Fibre.settled, show (g.issued (s.fallOf f.pc)).id = g.id from rfl, hcon, if_true]
      rfl
  · rw [h3, hbf]
    have h1 : (fs.map Fibre.id).contains k = false := by
      simp only [List.contains_eq_mem, List.mem_map, decide_eq_false_iff_not, not_exists, not_and]
      exact fun x hx => hk x hx
    have h2 : (c.act.map Fibre.id).contains k = false := by
      rw [ha, List.map_map]
      simp only [List.contains_eq_mem, List.mem_map, List.mem_filter, decide_eq_false_iff_not, not_exists, not_and]
      exact fun x hx => hk x hx.1
    cases e2 : s.fibre? k with
    | none => rfl
    | some g =>
      have hki := State.fibre?_id e2
      simp only [Option.map_some, h1, h2, Bool.false_eq_true, if_false, Fibre.settled, hall, hki]

end Sys2Proof.Machine
end

