-- ==== Sys2Proof/Tests/Slice0.lean ====
section
/-! SUPPORT. Tests: the well-formedness smoke, words of the spec that decode, witnesses that the hypotheses of every statement can be
met, and a few steps on small states with results taken from the spec. -/

open Sys2Proof Sys2Proof.Machine

namespace Sys2Proof.Tests.Slice0

-- The theorems below are checked one after another: in parallel they take too many threads.
set_option Elab.async false

/-! ### Small states -/

/-- Registers as descriptors, and the fields of a word over registers. -/
def r (n : Nat) : Desc := ⟨.reg, BitVec.ofNat 8 n⟩
def word (m : Byte) (d a b : Nat) (imm : Word := 0) : Fields := ⟨m, r d, r a, r b, 0, 0, false, 0, imm⟩

/-- A system launch 1 of one team on core 0, whose wave 2 issues. -/
def base : State := { State.reset.withProgram (List.replicate 48 0) with agenda := [], cur := some 2 }
def crew : CrewId := .team 1 0 0
def theWave : Wave := { id := 2, crew := crew, home := 0, lanes := 1, meet := 1 }
def theTeam : Team := programTeam 1
def theLaunch : Launch := base.launches.headD default
def theObject : Object := programObject 3 (List.replicate 48 0)

/-- A fibre of a lane with its first registers given, and the state in which the wave of one or more such fibres issues. -/
def lane (i : Nat) (rs : List Word) : Fibre :=
  { id := ⟨crew, i⟩, pc := 0, obj := 3, regs := (rs ++ List.replicate 64 0).take 64 }
def fib (rs : List Word) : Fibre := lane 0 rs
def wave (fs : List Fibre) : Wave := { theWave with lanes := lanesOf fs, meet := lanesOf fs }
def st (fs : List Fibre) : State := { base with fibres := fs, waves := [wave fs] }

/-- A page of device memory in the TLBs of core 0, and a line of the L1 there. -/
def te : TlbEntry := { queue := 0, page := 0, level := 0, loc := 0, peer := 0, pa := 0, w := true, leaf := 2 ^ 52 }
def theLine : L1Line := { line := 0, data := 0x0706050403020100, valid := BitVec.allOnes 64, dirty := 0, user := none }
def State.paged (s : State) : State := s.setCore 0 (fun k => { k with tlb := [te], walkAhead := [te] })
def State.cached (s : State) : State := s.setCore 0 (fun k => { k with l1 := [theLine] })

/-- A wave of one fibre issues a word, and a condition of its operands holds. -/
abbrev MetAt (op : Op) (P : Ctx → State → Fibre → Prop) (w : Fields) (s : State) (wv : Wave) (f : Fibre) : Prop :=
  IssuesOne op w s wv f ∧ P (soloCtx op w s wv f) s (f.issued (s.fallOf f.pc))

/-- A wave of any number of fibres issues a word, and a condition of the wave holds. -/
abbrev MetWave (op : Op) (P : Ctx → State → Prop) (w : Fields) (s : State) (wv : Wave) (fs : List Fibre) (f : Fibre) : Prop :=
  Issues op w s wv fs f ∧ P (issueCtx op w s wv fs f.pc) s

def pr (n : Nat) : Desc := ⟨.pair, BitVec.ofNat 8 n⟩
def i1 : Desc := ⟨.special, 1⟩
def wd (m : Byte) (d a b : Desc) (imm : Word := 0) : Fields := ⟨m, d, a, b, 0, 0, false, 0, imm⟩
/-- A fibre and its state with a page and a line, and with a page alone. -/
def f0 : Fibre := fib [1]
def paged : State := State.paged (st [f0])
def cached : State := State.cached paged
/-- One vein held by the fibre. -/
def holding (v : Nat) : State :=
  { st [f0] with mem := { base.mem with veins := updAt base.mem.veins v (fun (x : Vein) => { x with hold := some f0.id }) } }
/-- Teams with tiles, a scratchpad, an engine handle; the state with such a team, alone and with a page and a line. -/
def tile (rows cols : Nat) (width : BitVec 2) : Tile := { grantTile with rows := rows, cols := cols, width := width }
def tiled (ts : List Tile) : Team := { theTeam with tiles := ts ++ List.replicate (16 - ts.length) grantTile }
def padded (a : Nat) (b : List Byte) : Team := { theTeam with sp := Memory.setBytes [] a b }
def buffered (t : Team) : Team := t.setHandle 1 { t.handle 1 with size := 2, base := 4094 }
def owned (t : Team) : State := (st [f0]).setTeam t
def far (t : Team) : State := cached.setTeam t
/-- A fibre whose register v2 holds the scratchpad offset of a block, and its state. -/
def at2 (a : Word) : Fibre := fib [1, 0, a]
def blocked (a : Word) (t : Team) : State := State.paged ((st [at2 a]).setTeam t)
/-- An event comes about in a state. -/
def happens (s : State) (a : EventArgs) : State := { s with cur := none, ev := a }
/-- A fibre changed, a wave changed, in the state of one fibre. -/
def sole (f : Fibre) (v : Wave) : State := { base with fibres := [f], waves := [v] }
def coded (i : List Byte) (s : State) : State := { s with objects := [programObject 3 i, runtimeObject 4] }
/-- Host page tables that map the first pages of queue 0's space to device memory. -/
def mapped : State :=
  { st [f0] with
    queues := updAt base.queues 0 (fun (q : Queue) => { q with ptbr := 0x8021 })
    mem := { base.mem with host := ((Memory.setN [] 0x8000 8 0x10021).setN 0x10000 8 0x18021).setN 0x18000 8 7 } }
/-- A small kernel of one fibre, a second launch of it, and a gang of that. -/
def tiny : Object := { id := 6, code := List.replicate 24 0, dict := [] }
def second : Launch := { theLaunch with id := 5, seq := 2, obj := 6, system := false }
def gangOf5 (x : GangState) : Gang := { launch := 5, id := 0, state := x, stamp := 7 }
def two (g : Gang) : State :=
  { mapped with objects := base.objects ++ [tiny], launches := base.launches ++ [second], gangs := base.gangs ++ [g] }
/-- The same with an object whose saved image is its head alone: the kernel reads and writes that quickly. -/
def hollow : Object := { tiny with gang := 0 }
def twoHollow (g : Gang) : State := { two g with objects := base.objects ++ [hollow] }
/-- An engine operation of team 0 into handle 1, and the state in which it is the only one. -/
def engOp (k : EngKind) (block : List Byte) : EngOp := { id := 9, kind := k, launch := 1, team := 0, core := 0, handle := 1, block := block }
def fillingT : Team := theTeam.setHandle 1 { theTeam.handle 1 with size := 2, base := 4094, state := .filling }
def running (s : State) (o : EngOp) : State := happens { s.setTeam fillingT with ops := [o] } { op := 9 }
/-- Agent 3 is admitted with incarnation 9, and port 0 is up. -/
def peered : State :=
  { st [f0] with fabric :=
    { base.fabric with
      agents := updAt base.fabric.agents 3 (fun _ => { live := true, inc := 9, heard := 0 })
      go := true
      ports := updAt base.fabric.ports 0 (fun _ => { up := true }) } }
/-- Line 0 of device memory stands in the L2, and its page in the walk-ahead TLB of core 0. -/
def warm (s : State) : State :=
  let u := State.paged { s with mem := { s.mem with hbm := Memory.setN [] 0 8 0x0706050403020100 } }
  { u with mem := (u.mem.l2Fill 0).2 }
/-- The fault ring is enabled; the fibre waits in the runtime, with record 5 written or to be written; a gang of launch 1 runs. -/
def trapped (x : Runtime) : Fibre :=
  { f0 with inTrap := some { resume := .atPc, obj := 3, meet := 1, runtime := x }, obj := 4, trap := { cause := memAlign 0, pc := 24, info0 := 7 } }
def ringing (f : Fibre) (o : List (Word × FibreId × Cause)) : State :=
  { st [f] with ring := { base := 0x1000, size := 16, tail := 6, en := true, vec := 3, open_ := o } }
/-- A launch of class 1 waits for the one cluster that may fuse, where a gang of class 0 runs. -/
def fuseGang : Object := { tiny with id := 7, gang := 4 }
def third : Launch := { theLaunch with id := 6, queue := 1, obj := 7, nteams := 4, gang := 4, fuse := true, nextGang := 0 }
def crowded : State :=
  { mapped with
    objects := base.objects ++ [tiny, fuseGang], launches := [second, third], gangs := [gangOf5 .started]
    teams := [{ newTeam second tiny 0 with core := 0, crews := [{ quad := 0, slot := 0, base := [(0, 512)] }] }]
    fibres := [freshFibre (.team 5 0 0) 0 0 6 16 0], waves := [{ id := 2, crew := .team 5 0 0, home := 0, lanes := 1, meet := 1 }]
    queues := updAt mapped.queues 1 (fun (q : Queue) => { q with cls := 1 })
    fuseDis := [0xFFFE, 0xFFFF, 0xFFFF, 0xFFFF, 0xFFFF, 0xFFFF, 0xFFFF, 0xFFFF], cur := none }
/-- Queue 3, of class 2, has a record to be read at 0x1000, and an object image stands at 0x2000, both in device memory. -/
def image : List Byte := leBytes 64 (0x314D4B56 + 2 ^ 32 + 12 * 2 ^ 64 + 2 ^ 160 + 2 ^ 176 + 2 ^ 192 + 16 * 2 ^ 200 + 16 * 2 ^ 208
  + 2 * 2 ^ 224 + 4096 * 2 ^ 256 + 64 * 2 ^ 352) ++ leBytes 12 0x11
def ready3 (b : List Byte) : State :=
  happens { mapped with
    objects := base.objects ++ [tiny]
    queues := updAt base.queues 3 (fun (q : Queue) =>
      { q with base := 0x1000, size := 1, en := true, cls := 2, tail := 1, vec := 9, ptbr := 0x8021 })
    mem := { mapped.mem with hbm := (Memory.setBytes [] 0x1000 b).setBytes 0x2000 image } } { queue := 3 }
/-- A span launch, by lode and phase, and its device. -/
def spanAt (lode : Nat) (x : SpanPhase) (readies acks : List Nat) : Span :=
  { id := 4, lode := lode, nlodes := 2, window := 200000, phase := x, readies := readies, acks := acks, commitAt := 7, agents := [0, 3], blocked := [2] }
def spanned (p : Span) : State := (sole f0 { theWave with wait := some .span }).setLaunch { theLaunch with span := some p }
/-- The same with agent 3 admitted, after GO. -/
def spannedGo (p : Span) : State := { spanned p with fabric := peered.fabric }

/-! ### Decoding: the map of 13 R263 row by row, over one operand part. In order of bytes: MOD 0x81; OPD pair 5; OPA uniform 255; OPB
special 3; GUARD 33; LA 9; YLD 1; imm32 0x89ABCDEF (12 R235, R238). -/

def operands : List Byte := [0x81, 0x05, 0xFD, 0x3B, 0x70, 0x98, 0x01, 0xEF, 0xCD, 0xAB, 0x89]
def theFields : Fields := ⟨0x81, ⟨.pair, 5⟩, ⟨.uni, 255⟩, ⟨.special, 3⟩, 33, 9, true, 0, 0x89ABCDEF⟩
def decoded (bs : List Byte) : Option Instr :=
  match decode bs with
  | .ok (i, _) => some i
  | .error _ => none

theorem test_decode_row0 : ∀ p ∈ ([(0x00, .nop theFields), (0x01, .bra theFields), (0x02, .brx theFields), (0x03, .call theFields), (0x04, .callx theFields),
    (0x05, .ret theFields), (0x06, .loop theFields), (0x07, .meet theFields), (0x08, .voteany theFields),
    (0x09, .voteall theFields), (0x0A, .ballot theFields), (0x0B, .yield theFields), (0x0C, .rgn theFields),
    (0x0D, .trap theFields), (0x0E, .bkpt theFields), (0x0F, .jtab theFields)] : List (Byte × Instr)),
    decoded (p.1 :: operands) = some p.2 := by decide +kernel

theorem test_decode_row1 : ∀ p ∈ ([(0x10, .fork theFields), (0x11, .endF theFields), (0x12, .spawn theFields), (0x13, .spawnt theFields),
    (0x14, .trng theFields), (0x15, .acq theFields), (0x16, .shed theFields), (0x17, .bar theFields), (0x18, .bara theFields),
    (0x19, .barw theFields), (0x1A, .bari theFields), (0x1B, .barx theFields), (0x1C, .gbar theFields), (0x1D, .waitv theFields),
    (0x1E, .qstat theFields), (0x1F, .unassignedOpcode 0x1F theFields)] : List (Byte × Instr)),
    decoded (p.1 :: operands) = some p.2 := by decide +kernel

theorem test_decode_row2 : ∀ p ∈ ([(0x20, .iadd theFields), (0x21, .isub theFields), (0x22, .iadc theFields), (0x23, .isbc theFields), (0x24, .imul theFields),
    (0x25, .imulh theFields), (0x26, .imad theFields), (0x27, .imadw theFields), (0x28, .idiv theFields), (0x29, .irem theFields),
    (0x2A, .imin theFields), (0x2B, .imax theFields), (0x2C, .iabs theFields), (0x2D, .idp4 theFields), (0x2E, .lea theFields),
    (0x2F, .idp2 theFields)] : List (Byte × Instr)),
    decoded (p.1 :: operands) = some p.2 := by decide +kernel

theorem test_decode_row3 : ∀ p ∈ ([(0x30, .andB theFields), (0x31, .orB theFields), (0x32, .xorB theFields), (0x33, .tern theFields), (0x34, .shl theFields),
    (0x35, .shr theFields), (0x36, .sar theFields), (0x37, .rotl theFields), (0x38, .bfx theFields), (0x39, .bfi theFields),
    (0x3A, .brev theFields), (0x3B, .popc theFields), (0x3C, .clz theFields), (0x3D, .ffs theFields), (0x3E, .bsel theFields),
    (0x3F, .bext theFields)] : List (Byte × Instr)),
    decoded (p.1 :: operands) = some p.2 := by decide +kernel

theorem test_decode_row4 : ∀ p ∈ ([(0x40, .icmp theFields), (0x41, .fcmp theFields), (0x42, .sel theFields), (0x43, .mov theFields), (0x44, .gets theFields),
    (0x45, .sets theFields), (0x46, .shfli theFields), (0x47, .shflu theFields), (0x48, .shfld theFields),
    (0x49, .shflx theFields), (0x4A, .wred theFields), (0x4B, .wscan theFields), (0x4C, .fwred theFields),
    (0x4D, .nzcnt theFields), (0x4E, .nzmap theFields), (0x4F, .matchL theFields)] : List (Byte × Instr)),
    decoded (p.1 :: operands) = some p.2 := by decide +kernel

theorem test_decode_row5 : ∀ p ∈ ([(0x50, .fadd theFields), (0x51, .fsub theFields), (0x52, .fmul theFields), (0x53, .ffma theFields), (0x54, .fmin theFields),
    (0x55, .fmax theFields), (0x56, .fdiv theFields), (0x57, .fsqrt theFields), (0x58, .frcp theFields), (0x59, .frsq theFields),
    (0x5A, .fexp2 theFields), (0x5B, .flog2 theFields), (0x5C, .ftanh theFields), (0x5D, .frnd theFields),
    (0x5E, .fclass theFields), (0x5F, .fscale theFields)] : List (Byte × Instr)),
    decoded (p.1 :: operands) = some p.2 := by decide +kernel

theorem test_decode_row6 : ∀ p ∈ ([(0x60, .hadd2 theFields), (0x61, .hsub2 theFields), (0x62, .hmul2 theFields), (0x63, .hfma2 theFields),
    (0x64, .hmin2 theFields), (0x65, .hmax2 theFields), (0x66, .hdot2 theFields), (0x67, .hexp2 theFields),
    (0x68, .hcmp2 theFields), (0x69, .htanh2 theFields), (0x6A, .hrcp2 theFields), (0x6B, .hrsq2 theFields),
    (0x6C, .unassignedOpcode 0x6C theFields), (0x6D, .unassignedOpcode 0x6D theFields), (0x6E, .unassignedOpcode 0x6E theFields),
    (0x6F, .unassignedOpcode 0x6F theFields)] : List (Byte × Instr)),
    decoded (p.1 :: operands) = some p.2 := by decide +kernel

theorem test_decode_row7 : ∀ p ∈ ([(0x70, .cvtf theFields), (0x71, .i2f theFields), (0x72, .f2i theFields), (0x73, .ixt theFields), (0x74, .pk8 theFields),
    (0x75, .upk8 theFields), (0x76, .qblk theFields), (0x77, .dqblk theFields), (0x78, .cbenc theFields),
    (0x79, .cbdec theFields), (0x7A, .cbld theFields), (0x7B, .sppk theFields), (0x7C, .spupk theFields),
    (0x7D, .srseed theFields), (0x7E, .pk4 theFields), (0x7F, .upk4 theFields)] : List (Byte × Instr)),
    decoded (p.1 :: operands) = some p.2 := by decide +kernel

theorem test_decode_row8 : ∀ p ∈ ([(0x80, .ld theFields), (0x81, .st theFields), (0x82, .lda theFields), (0x83, .stl theFields), (0x84, .lds theFields),
    (0x85, .sts theFields), (0x86, .ldx theFields), (0x87, .stx theFields), (0x88, .ldfe theFields), (0x89, .stfe theFields),
    (0x8A, .ldc theFields), (0x8B, .rld theFields), (0x8C, .pref theFields), (0x8D, .cwb theFields), (0x8E, .cinv theFields),
    (0x8F, .acqp theFields)] : List (Byte × Instr)),
    decoded (p.1 :: operands) = some p.2 := by decide +kernel

theorem test_decode_row9 : ∀ p ∈ ([(0x90, .glds theFields), (0x91, .isect theFields), (0x92, .merge theFields), (0x93, .compact theFields),
    (0x94, .expand theFields), (0x95, .tcopy theFields), (0x96, .icopy theFields), (0x97, .hdef theFields),
    (0x98, .hwait theFields), (0x99, .hset theFields), (0x9A, .hstat theFields), (0x9B, .segr theFields),
    (0x9C, .bsrch theFields), (0x9D, .unassignedOpcode 0x9D theFields), (0x9E, .unassignedOpcode 0x9E theFields),
    (0x9F, .unassignedOpcode 0x9F theFields)] : List (Byte × Instr)),
    decoded (p.1 :: operands) = some p.2 := by decide +kernel

theorem test_decode_rowA : ∀ p ∈ ([(0xA0, .atom theFields), (0xA1, .atomo theFields), (0xA2, .red theFields), (0xA3, .cas theFields), (0xA4, .caso theFields),
    (0xA5, .fred theFields), (0xA6, .fredo theFields), (0xA7, .fatom theFields), (0xA8, .fatomo theFields),
    (0xA9, .atoms theFields), (0xAA, .freds theFields), (0xAB, .aflush theFields), (0xAC, .cass theFields),
    (0xAD, .unassignedOpcode 0xAD theFields), (0xAE, .unassignedOpcode 0xAE theFields), (0xAF, .unassignedOpcode 0xAF theFields)] : List (Byte × Instr)),
    decoded (p.1 :: operands) = some p.2 := by decide +kernel

theorem test_decode_rowB : ∀ p ∈ ([(0xB0, .fence theFields), (0xB1, .dfence theFields), (0xB2, .txb theFields), (0xB3, .txe theFields), (0xB4, .txa theFields),
    (0xB5, .txo theFields), (0xB6, .txoe theFields), (0xB7, .txst theFields), (0xB8, .ldnt theFields),
    (0xB9, .unassignedOpcode 0xB9 theFields), (0xBA, .unassignedOpcode 0xBA theFields), (0xBB, .unassignedOpcode 0xBB theFields),
    (0xBC, .unassignedOpcode 0xBC theFields), (0xBD, .unassignedOpcode 0xBD theFields), (0xBE, .unassignedOpcode 0xBE theFields),
    (0xBF, .unassignedOpcode 0xBF theFields)] : List (Byte × Instr)),
    decoded (p.1 :: operands) = some p.2 := by decide +kernel

theorem test_decode_rowC : ∀ p ∈ ([(0xC0, .tcfg theFields), (0xC1, .tld theFields), (0xC2, .tst theFields), (0xC3, .tzero theFields), (0xC4, .tmovr theFields),
    (0xC5, .tmovw theFields), (0xC6, .tcb theFields), (0xC7, .ttrn theFields), (0xC8, .tscal theFields), (0xC9, .tadd theFields),
    (0xCA, .tred theFields), (0xCB, .tnz theFields), (0xCC, .unassignedOpcode 0xCC theFields),
    (0xCD, .unassignedOpcode 0xCD theFields), (0xCE, .unassignedOpcode 0xCE theFields), (0xCF, .unassignedOpcode 0xCF theFields)] : List (Byte × Instr)),
    decoded (p.1 :: operands) = some p.2 := by decide +kernel

theorem test_decode_rowD : ∀ p ∈ ([(0xD0, .mma theFields), (0xD1, .mmas theFields), (0xD2, .mmag theFields), (0xD3, .mmai theFields), (0xD4, .tlu theFields),
    (0xD5, .tchl theFields), (0xD6, .ttrs theFields), (0xD7, .tmv theFields), (0xD8, .mwait theFields), (0xD9, .mmaq theFields),
    (0xDA, .tpiv theFields), (0xDB, .unassignedOpcode 0xDB theFields), (0xDC, .unassignedOpcode 0xDC theFields),
    (0xDD, .unassignedOpcode 0xDD theFields), (0xDE, .unassignedOpcode 0xDE theFields), (0xDF, .unassignedOpcode 0xDF theFields)] : List (Byte × Instr)),
    decoded (p.1 :: operands) = some p.2 := by decide +kernel

theorem test_decode_rowE : ∀ p ∈ ([(0xE0, .nbin theFields), (0xE1, .npair theFields), (0xE2, .nstat theFields), (0xE3, .ncfg theFields),
    (0xE4, .hprobe theFields), (0xE5, .hins theFields), (0xE6, .hdel theFields), (0xE7, .hreh theFields), (0xE8, .hcfg theFields),
    (0xE9, .hqry theFields), (0xEA, .svopen theFields), (0xEB, .svmark theFields), (0xEC, .svclose theFields),
    (0xED, .svqry theFields), (0xEE, .nfix theFields), (0xEF, .unassignedOpcode 0xEF theFields)] : List (Byte × Instr)),
    decoded (p.1 :: operands) = some p.2 := by decide +kernel

theorem test_decode_rowF : ∀ p ∈ ([(0xF0, .svc theFields), (0xF1, .eret theFields), (0xF2, .getp theFields), (0xF3, .setp theFields), (0xF4, .tlbi theFields),
    (0xF5, .l2wb theFields), (0xF6, .vhold theFields), (0xF7, .harv theFields), (0xF8, .ctxs theFields), (0xF9, .ctxr theFields),
    (0xFA, .migr theFields), (0xFB, .hnot theFields)] : List (Byte × Instr)),
    decoded (p.1 :: operands) = some p.2 := by decide +kernel

/-- The four mark bytes name entries 256 k to 256 k + 255 of the dictionary (12 R246). -/
theorem test_decode_marks : ∀ p ∈ ([(0xFC, 0), (0xFD, 1), (0xFE, 2), (0xFF, 3)] : List (Byte × BitVec 2)),
    decoded [p.1, 0x15] = some (.dictionaryMark p.2 0x15) := by decide +kernel

/-! ### The well-formedness smoke: for each check of `Instr.wellFormed` an ill-formed term, which it refuses, beside one it accepts -/

theorem test_wellFormed_accepts : [Instr.iadd (wd 5 (r 8) (r 2) i1 7), .ld (wd 2 (r 8) (pr 4) (r 0)), .bra { wd 0 (r 0) (r 0) (r 0) with guard := 33 },
    .dictionaryMark 0 0, .unassignedOpcode 0xBB (wd 0 (r 0) (r 0) (r 0))].all Instr.wellFormed = true := by decide +kernel

/-- Step 4 of 12 R245: bits [63:57] not zero, LA on an opcode that is not of the long class, a reserved MOD code. -/
theorem test_wellFormed_reserved : [Instr.iadd { wd 0 (r 8) (r 2) (r 3) with rsv := 1 }, .iadd { wd 0 (r 8) (r 2) (r 3) with la := 1 },
    .iadd (wd 8 (r 8) (r 2) (r 3)), .wred (wd 6 (r 8) (r 2) (r 0))].all (fun i => !i.wellFormed) = true := by decide +kernel

/-- Step 6 (12 R243): a guard on an opcode that takes none. -/
theorem test_wellFormed_guard : [Instr.meet { wd 0 (r 0) (r 0) (r 0) with guard := 1 }, .bar { wd 0 (r 0) (r 0) (r 0) with guard := 1 }].all
    (fun i => !i.wellFormed) = true := by decide +kernel

/-- Step 7 (12 R239): a register where a pair stands, a special value as a destination, carry bit 0. -/
theorem test_wellFormed_operand : [Instr.ld (wd 2 (r 8) (r 4) (r 0)), .iadd (wd 0 i1 (r 2) (r 3)), .iadc (wd 0 (r 8) (r 2) (r 3) 0)].all
    (fun i => !i.wellFormed) = true := by decide +kernel

/-- No assigned opcode and no mark is an unassigned opcode (13 R264). -/
theorem test_wellFormed_unassigned : [Instr.unassignedOpcode 0x20 (wd 0 (r 0) (r 0) (r 0)), .unassignedOpcode 0xFC (wd 0 (r 0) (r 0) (r 0))].all
    (fun i => !i.wellFormed) = true := by decide +kernel

/-! ### One step on small states, with results the spec states -/

/-- The fibre of a home lane after the issue of a word, and registers of it; for the long class the values that are pending. -/
def after (op : Op) (w : Fields) (s : State) (l : Nat) : Option Fibre :=
  match exec (op.instr w) s with
  | .next t => t.fibre? ⟨crew, l⟩
  | _ => none
def regs (f : Option Fibre) (ns : List Nat) : List Word := ns.map (fun n => (f.map (fun x => x.reg n)).getD 0)
def pends (f : Option Fibre) : List (List Word) := (f.map (fun x => x.pend.map Pend.vals)).getD []
def causeOf (f : Option Fibre) : Option Cause := f.map (fun x => x.trap.cause)
def at_ (n : Nat) (vs : List Word) : List Word := 1 :: (List.replicate (n - 1) 0 ++ vs)

/-- The wave of 14 R282: lanes 0, 3 and 5, v7 = 0b0110, 0b0010, 0b0011. -/
def voters : List Fibre := [lane 0 (at_ 7 [6]), lane 3 (at_ 7 [2]), lane 5 (at_ 7 [3])]
theorem test_voteany : regs (after .voteany (wd 0 (r 0) (r 7) i1 6) (st voters) 3) [0] = [7] := by decide +kernel
theorem test_voteall : regs (after .voteall (wd 0 (r 9) (r 7) i1 6) (st voters) 5) [9] = [2] := by decide +kernel
theorem test_ballot : regs (after .ballot (wd 0 (r 8) (r 7) (r 1)) (st voters) 0) [8] = [0x29] := by decide +kernel

/-- 15 R301: IDIV.s32 of -7 by 2 gives -3, IREM.s32 gives -1, both pending. -/
theorem test_idiv : pends (after .idiv (wd 1 (r 8) (r 2) (r 3)) (st [fib [1, 0, 0xFFFFFFF9, 2]]) 0) = [[0xFFFFFFFD]] := by decide +kernel
theorem test_irem : pends (after .irem (wd 1 (r 8) (r 2) (r 3)) (st [fib [1, 0, 0xFFFFFFF9, 2]]) 0) = [[0xFFFFFFFF]] := by decide +kernel

/-- 15 R308, R309: BSEL with C = 0x0123 reverses bytes; BEXT of 0xF0F0 at 0x0FF0. -/
theorem test_bsel : regs (after .bsel (wd 0 (r 8) (r 2) (r 3) 4) (st [fib [1, 0, 0x11223344, 0, 0x0123]]) 0) [8] = [0x44332211] := by decide +kernel
theorem test_bext : regs (after .bext (wd 0 (r 8) (r 2) (r 3)) (st [fib [1, 0, 0xF0F0, 0x0FF0]]) 0) [8] = [0xF] := by decide +kernel

/-- The wave of 15 R316 and R317: lanes 0 to 4, 6 and 7 hold ten times their number. -/
def tens : List Fibre := [0, 1, 2, 3, 4, 6, 7].map (fun k => lane k (at_ 4 [BitVec.ofNat 32 (10 * k)]))
theorem test_wscan : [0, 1, 2, 3, 4, 6, 7].flatMap (fun k => regs (after .wscan (wd 0x20 (r 7) (r 4) (r 0)) (st tens) k) [7])
    = [0, 0, 10, 30, 60, 100, 160] := by decide +kernel
theorem test_wred : regs (after .wred (wd 0x0A (r 7) (r 4) (r 0)) (st tens) 2) [7] = [70] := by decide +kernel

/-- 15 R319: BF16 values 0x8000, 0x0001, 0x7FC0 and 0 in lanes 0 to 3. -/
def halves : List Fibre := [(0, 0x8000), (1, 1), (2, 0x7FC0), (3, 0)].map (fun p => lane p.1 (at_ 4 [p.2]))
theorem test_nzcnt : regs (after .nzcnt (wd 3 (r 8) (r 4) (r 0)) (st halves) 3) [8] = [2] := by decide +kernel
theorem test_nzmap : regs (after .nzmap (wd 3 (r 8) (r 4) (r 0)) (st halves) 0) [8] = [6] := by decide +kernel

/-- 16 R333: 1.0, 500.0, -0 and NaN packed to E4M3, without and with saturation. -/
def packing : State := st [fib (at_ 4 [0x3F800000, 0x43FA0000, 0x80000000, 0x7FC00000])]
theorem test_pk8 : regs (after .pk8 (wd 0 (r 9) (r 4) (r 0)) packing 0) [9] = [0x7F807F38] := by decide +kernel
theorem test_pk8_sat : regs (after .pk8 (wd 8 (r 9) (r 4) (r 0)) packing 0) [9] = [0x7F807E38] := by decide +kernel

/-- 16 R336: code 0x40 with scale 0x80 gives 4.0. -/
theorem test_dqblk : regs (after .dqblk (wd 0 (r 9) (r 2) (r 3)) (st [fib [1, 0, 0x40, 0x80]]) 0) [9] = [0x40800000] := by decide +kernel

/-- 16 R341: the `.n2.w8` example. -/
theorem test_sppk : regs (after .sppk (wd 4 (r 8) (r 4) (r 2)) (st [fib [1, 0, 6, 0, 0x44332211]]) 0) [8, 9] = [0x3322, 0x21] := by decide +kernel
theorem test_spupk : regs (after .spupk (wd 4 (r 12) (r 8) (r 0)) (st [fib (at_ 8 [0x3322, 0x21])]) 0) [12, 13, 14, 15] = [0x332200, 0, 0, 0] := by
  decide +kernel

/-- 17 R363: lanes 0 to 5, v0[3] in lanes 1, 2 and 4, v12 = 0x400. -/
def packers : List Fibre := [(0, 1), (1, 9), (2, 9), (3, 1), (4, 9), (5, 1)].map (fun p => lane p.1 (p.2 :: List.replicate 11 0 ++ [0x400, BitVec.ofNat 32 (100 + p.1)]))
theorem test_compact : [0, 1, 2, 3, 4, 5].map (fun k => regs (after .compact (wd 0 (pr 8) (r 12) (r 13) 3) (st packers) k) [8, 9])
    = [[0xFFFFFFFF, 3], [0, 3], [1, 3], [0xFFFFFFFF, 3], [2, 3], [0xFFFFFFFF, 3]] := by decide +kernel
theorem test_compact_stores : (match exec (Op.compact.instr (wd 0 (pr 8) (r 12) (r 13) 3)) (st packers) with
    | .next t => t.teams.map (fun u => [u.sp.getN 0x400 4, u.sp.getN 0x404 4, u.sp.getN 0x408 4, u.sp.getN 0x40C 4])
    | _ => []) = [[101, 102, 104, 0]] := by decide +kernel

/-- 18 R377: the shape 0x00021F3F is 64 by 32 BF16; 0x00033F3F does not fit a tile. -/
theorem test_tcfg : (match exec (Op.tcfg.instr (wd 0 (r 0) i1 (r 0) 0x00021F3F)) (st [f0]) with
    | .next t => t.teams.map (fun u => (u.tiles.head?).map (fun x => (x.rows, x.cols, x.width)))
    | _ => []) = [some (64, 32, 2)] := by decide +kernel
theorem test_tcfg_shape : causeOf (after .tcfg (wd 0 (r 0) i1 (r 0) 0x00033F3F) (st [f0]) 0) = some (arithShape 1) := by decide +kernel

/-- A load of eight bytes delivers the low word first (17 R345); a store of a byte to the scratchpad changes that byte alone. -/
theorem test_ld : pends (after .ld (wd 5 (pr 8) (pr 4) (r 0)) cached 0) = [[0x03020100, 0x07060504]] := by decide +kernel
theorem test_sts : (match exec (Op.sts.instr (wd 0 (r 0) (r 2) (r 3))) ((st [fib [1, 0, 2, 0x1FF]]).setTeam (padded 0 [1, 2, 3, 4])) with
    | .next t => t.teams.map (fun u => u.sp.getN 0 4)
    | _ => []) = [0x04FF0201] := by decide +kernel

/-- 14 R277: a branch backwards of 64 bytes, taken under p5 and not without it. -/
def back : Fields := { wd 0 (r 0) (r 0) (r 0) 0xFFFFFFC0 with guard := 5 }
theorem test_bra_taken : (after .bra back { st [{ fib [0x21] with pc := 64 }] with ilen := 12 } 0).map Fibre.pc = some 0 := by decide +kernel
theorem test_bra_passed : (after .bra back { st [{ fib [1] with pc := 64 }] with ilen := 12 } 0).map Fibre.pc = some 76 := by decide +kernel

/-- The first instruction after reset: MOV v5, #7. -/
theorem test_first_step : (match step (State.reset.withFetchWord 96 (0x43 + 5 * 2 ^ 16 + 0x301 * 2 ^ 26 + 7 * 2 ^ 64)) with
    | .next t => t.fibres.map (fun f => (f.reg 5, f.pc))
    | _ => []) = [(7, 12)] := by decide +kernel

/-! ### Witnesses: for each statement of Certificates/Slice0/Obligations.lean that has hypotheses, states and operands that meet
all of them together, clause by clause -/

/-- A word that an opcode takes: registers of the width its operands have, every other field 0 but where the opcode asks for more. -/
def fits (op : Op) : Fields :=
  match op with
  | .iadc | .isbc => wd 0 (r 8) (r 2) (r 3) 4
  | .iabs => wd 1 (r 8) (r 2) (r 0)
  | .imadw => wd 0 (pr 8) (r 2) (r 3) 0x104
  | .lea => wd 0 (pr 8) (pr 2) (r 3)
  | .upk8 => wd 0 (pr 8) (r 2) (r 0)
  | .srseed => wd 0 (r 0) (pr 2) (r 0)
  | .brev | .popc | .clz | .ffs | .mov | .matchL | .wred | .wscan | .fwred | .nzcnt | .nzmap | .nop | .yield | .bra | .brx | .ret | .call
  | .callx | .loop | .jtab | .fsqrt | .frnd | .frcp | .frsq | .fexp2 | .flog2 | .ftanh | .fclass | .hexp2 | .htanh2 | .hrcp2 | .hrsq2
  | .cvtf | .i2f | .f2i | .ixt | .pk8 | .txst => wd 0 (r 0) (r 0) (r 0)
  | _ => wd 0 (r 8) (r 2) (r 3)
def both : List Fibre := [lane 0 [3, 7, 9], lane 31 [1, 5]]

theorem ok_run {ε α σ : Type} {x : Except ε (α × σ)} (h : x.toBool = true) : ∃ a t, x = .ok (a, t) := by
  cases x with
  | ok p => exact ⟨p.1, p.2, rfl⟩
  | error e => exact absurd h (by simp [Except.toBool])

theorem ok_unit {ε σ : Type} {x : Except ε (Unit × σ)} (h : x.toBool = true) : ∃ t, x = .ok ((), t) := by
  obtain ⟨_, t, h⟩ := ok_run h
  exact ⟨t, h⟩

theorem ok_only {ε α : Type} {x : Except ε α} (h : x.toBool = true) : ∃ a, x = .ok a := by
  cases x with
  | ok a => exact ⟨a, rfl⟩
  | error e => exact absurd h (by simp [Except.toBool])

/-- Whether a run answers a value that meets a condition. -/
def okWith {ε α : Type} (x : Except ε α) (q : α → Bool) : Bool :=
  match x with
  | .ok a => q a
  | .error _ => false

theorem ok_with {ε α : Type} {x : Except ε α} {q : α → Bool} (h : okWith x q = true) : ∃ a, x = .ok a ∧ q a = true := by
  cases x with
  | ok a => exact ⟨a, rfl, h⟩
  | error e => exact absurd h (by simp [okWith])

theorem ok_at {ε α : Type} [DecidableEq α] {x : Except ε α} {a : α} (h : okWith x (fun b => decide (b = a)) = true) : x = .ok a := by
  obtain ⟨b, hb, hq⟩ := ok_with h
  rw [hb, of_decide_eq_true hq]

/-- What an engine operation's fill has to be for the statements about engine ends: it leaves the team in place. -/
def fills (o : EngOp) (q : Fill → Bool) (x : Fill × State) : Bool :=
  match x.2.team? o.launch o.team with
  | some tm => decide (o.handle < tm.handles.length) && q x.1
  | none => false

theorem engine_runs {s : State} {k : EngKind} {o : EngOp} {t : Team} {q : Fill → Bool}
    (h₁ : s.ops.find? (fun o => o.id == s.ev.op && o.kind == k) = some o) (h₂ : s.runner o = some t)
    (h : okWith ((fillOf t o ((t.handle o.handle).size.toNat * 16)).run s) (fills o q) = true) :
    ∃ f u tm, EngineRuns s k o t f u tm ∧ q f = true := by
  obtain ⟨⟨f, u⟩, hr, hf⟩ := ok_with h
  unfold fills at hf
  split at hf
  · rename_i tm htm
    obtain ⟨hn, hq⟩ := Bool.and_eq_true .. ▸ hf
    exact ⟨f, u, tm, ⟨h₁, h₂, hr, htm, of_decide_eq_true hn⟩, hq⟩
  · exact absurd hf (by simp)

theorem some_both {α β : Type} {x : Option (α × β)} (h : x.isSome = true) : ∃ a b, x = some (a, b) := by
  cases x with
  | some p => exact ⟨p.1, p.2, rfl⟩
  | none => exact absurd h (by simp)

theorem ok_ok {ε β α σ : Type} {x : Except ε (Except β α × σ)} (h : okWith x (fun p => p.1.toBool) = true) : ∃ a t, x = .ok (.ok a, t) := by
  obtain ⟨⟨y, t⟩, hx, hq⟩ := ok_with h
  obtain ⟨a, ha⟩ := ok_only hq
  exact ⟨a, t, by rw [hx, ← ha]⟩

def errWith {ε α : Type} (x : Except ε α) (q : ε → Bool) : Bool :=
  match x with
  | .ok _ => false
  | .error e => q e

theorem err_at {ε α : Type} [DecidableEq ε] {x : Except ε α} {e : ε} (h : errWith x (fun b => decide (b = e)) = true) : x = .error e := by
  cases x with
  | ok a => exact absurd h (by simp [errWith])
  | error b => rw [of_decide_eq_true (show decide (b = e) = true from h)]

theorem ok_same {ε α : Type} {x : Except ε (α × State)} (s : State) (h : okWith x (fun p => decide (p.2 = s)) = true) : ∃ a, x = .ok (a, s) := by
  obtain ⟨⟨a, t⟩, hx, hq⟩ := ok_with h
  have ht : t = s := of_decide_eq_true hq
  exact ⟨a, by rw [hx, ht]⟩

theorem matrix_one {s : State} {t : Team} {n : Nat} {x : Tile}
    (h : t.tiles[n]? = some x ∧ x.allot = true ∧ (n ∉ s.tilesBusy t ∧ n ∉ s.tilesStoring t []) ∧ x.width = 3) : MatrixAt s t false n [x] :=
  ⟨by simp [matTiles, h.1], by simpa using h.2.1, by simpa [matTiles] using h.2.2.1, by simpa using h.2.2.2, by simp⟩

theorem matrix_two {s : State} {t : Team} {n : Nat} {x y : Tile}
    (h : (matTiles true n).map (fun k => t.tiles[k]?) = [x, y].map some ∧ (∀ z ∈ [x, y], z.allot = true)
      ∧ (∀ k ∈ matTiles true n, k ∉ s.tilesBusy t ∧ k ∉ s.tilesStoring t []) ∧ (∀ z ∈ [x, y], z.width = 3) ∧ x.cols = y.cols
      ∧ x.rows = (x.rows + y.rows + 1) / 2 ∧ y.rows = (x.rows + y.rows) / 2) : MatrixAt s t true n [x, y] :=
  ⟨h.1, h.2.1, h.2.2.1, h.2.2.2.1, by rintro _ _ ⟨⟩; exact h.2.2.2.2⟩

def isNext : Host.Outcome State Fault Refusal → Bool
  | .next _ => true
  | _ => false

theorem next_of {o : Host.Outcome State Fault Refusal} (h : isNext o = true) : ∃ t, o = .next t := by
  cases o with
  | next t => exact ⟨t, rfl⟩
  | fault f => exact absurd h (by simp [isNext])
  | refused f => exact absurd h (by simp [isNext])

/-- How many teams a state has that an instruction leaves. -/
def teamsAfter (o : Host.Outcome State Fault Refusal) : Option Nat :=
  match o with
  | .next t => some t.teams.length
  | _ => none

theorem happens_of {s : State} {h : Happening} {n : Nat} (q : teamsAfter (exec h.1 (s.withEvent h.2)) = some n) (ne : n ≠ s.teams.length) :
    s.happens h = true := by
  cases hx : exec h.1 (s.withEvent h.2) with
  | next t =>
    rw [hx] at q
    unfold State.happens
    rw [hx]
    refine bne_iff_ne.2 (fun e => ne ?_)
    rw [e] at q
    exact (Option.some.inj q).symm
  | fault f => rw [hx] at q; cases q
  | refused f => rw [hx] at q; cases q

/-- The same of an HREH that is to go on. -/
def goesOn (o : EngOp) (x : Fill × State) : Bool :=
  fills o (fun f => f.paused.isNone && f.again.any (fun p => p.kind == .hreh)) x && x.2.ops.all (fun q => decide (q.kind ≠ .ncfg))

theorem again_runs {s : State} {o : EngOp} {t : Team}
    (h₁ : s.ops.find? (fun o => o.id == s.ev.op && o.kind == .hreh) = some o) (h₂ : s.runner o = some t)
    (h : okWith ((fillOf t o ((t.handle o.handle).size.toNat * 16)).run s) (goesOn o) = true) :
    ∃ s o t f u tm p, EngineRuns s .hreh o t f u tm ∧ f.paused = none ∧ f.again = some p ∧ p.kind = .hreh ∧ ∀ q ∈ u.ops, q.kind ≠ .ncfg := by
  obtain ⟨⟨f, u⟩, hr, hf⟩ := ok_with h
  obtain ⟨hf, hu⟩ := Bool.and_eq_true .. ▸ hf
  unfold fills at hf
  split at hf
  · rename_i tm htm
    obtain ⟨hn, hq⟩ := Bool.and_eq_true .. ▸ hf
    obtain ⟨hp, ha⟩ := Bool.and_eq_true .. ▸ hq
    obtain ⟨p, ha, hk⟩ := (Option.any_eq_true ..).1 ha
    exact ⟨s, o, t, f, u, tm, p, ⟨h₁, h₂, hr, htm, of_decide_eq_true hn⟩, by simpa using hp, ha, by simpa using hk, by simpa using hu⟩
  · exact absurd hf (by simp)

/-- The only team of launch 1 has no fibre left, and holds a supervision, so that its retirement is all the events to look at. -/
def at_finished : State :=
  { base with fibres := [], waves := [], cur := none, agenda := []
              teams := [{ theTeam with sup := some { deadline := 0, target := 0, wbuf := 0, buf1 := 0, buf2 := 0, record := 0, scope := 5, best := 0, bestRes := 0, marks := 0 } }] }
def stepNop : Fields := wd 0 (r 0) (r 0) (r 0)
def fStep : Fibre := { f0 with pc := 24 }
def oStep : Object := programObject 3 (List.replicate 36 0)
def at_stepping : State := { coded (List.replicate 36 0) (st [fStep]) with agenda := [.issue 2], cur := none }
/-- The same beside a wave of the quadrant that is older. -/
def fOld : Fibre := { f0 with id := ⟨crew, 32⟩ }
def at_younger : State := { at_stepping with fibres := [fStep, fOld], waves := [theWave, { theWave with id := 3, home := 1, age := 5 }] }
/-- The wave waits at an HWAIT of a handle that is being filled. -/
def stepHwait : Fields := wd 0 (r 0) (r 1) (r 0)
def oWait : Object := programObject 3 (leBytes 12 (wordNat Op.hwait.code stepHwait))
def wWait : Wave := { theWave with wait := some .handle }
def at_waiting : State :=
  { coded (leBytes 12 (wordNat Op.hwait.code stepHwait)) (sole f0 wWait) with
    agenda := [.issue 2], cur := none, teams := [theTeam.setHandle 1 { theTeam.handle 1 with state := .filling }] }
def afterMove (s : State) : State := { s.tick with agenda := [] }
/-- A fibre with three operands in v2 to v4, and the context of a word over them; the operands of PK8 stand in v8 to v11. -/
def fed (a b e : Word) : Fibre := fib [0, 0, a, b, e]
def opnd (op : Op) (m : Byte) (f : Fibre) : Ctx := soloCtx op (wd m (r 12) (r 2) (r 3) 4) (st [f]) (wave [f]) f
def fed4 (b : List Word) : Fibre := fib (List.replicate 8 0 ++ b)
def opnd4 (m : Byte) (f : Fibre) : Ctx := soloCtx .pk8 (wd m (r 12) (r 8) (r 3)) (st [f]) (wave [f]) f
/-- A family that takes over two rows of another, and the HREH of its first row. -/
def taking : Family :=
  { base := 0x2000, die := 0, queue := 0, wta := true, policy := 1, tables := 1, k := 1, wlog := 4, m := 1, d := 16, c := 1, nrows := 2,
    wstride := 32, pbase := 0x1000, seed := 64, wbase := 16, old := 0x8000, state := 2 }
def rehashing : EngOp := { engOp .hreh [] with b := 0x2000, a := 2 }
def rehash : State := { running mapped rehashing with families := [taking, { taking with base := 0x8000, state := 1, captured := true }] }
/-- A fibre that waits at a barrier object. -/
def fObj : Fibre := { f0 with objWait := some { launch := 1, team := 0, at_ := 0x40, token := 1 } }
def unguarded (op : Op) : Fields := if op == .rgn then { wd 0 (r 0) (r 0) i1 with guard := 32 } else { wd 0 (r 0) (r 0) (r 0) with guard := 32 }
def arriving (op : Op) (x : Wait) : State :=
  happens (coded (leBytes 12 (wordNat op.code (wd 0 (r 8) (pr 4) (r 0)))) (sole f0 { theWave with wait := some x })) { wave := 2, lanes := 1 }
def copying (k : EngKind) : EngOp := { engOp k (leBytes 32 0x100000000200000000000000400000000000000000) with idx := if k = .icopy then [0, 1] else [] }
def copyingMore (k : EngKind) : EngOp := { engOp k (leBytes 32 0x400000000200000000000000400000000000000000) with idx := if k = .icopy then [0, 1] else [] }
def meeting : EngOp := { engOp .merge [] with c := 1, d := 1, a := 0, b := 4 }
def nameless (k : EngKind) : EngOp := engOp k (leBytes 32 0x300000000)
def moving : EngOp := { engOp .migr (leBytes 32 0x800000000000000000000000000000000000) with idx := [0x18000 + 2 ^ 52, 39] }
def unplaced : Launch := { second with gang := 4, nteams := 4, nextGang := 0 }
def toPlace : State :=
  happens { two (gangOf5 .placed) with
    gangs := base.gangs, launches := base.launches ++ [unplaced]
    cores := base.cores.zipIdx.map (fun p => if p.2 < 4 then p.1 else { p.1 with fused := some (5, 7) })
    queues := updAt mapped.queues 0 (fun (q : Queue) => { q with deficit := 5 }) } {}
def square : Tile := { tile 2 2 3 with bits := 0x3F8000004000000040400000C0000000 }
def forLu (ts : List Tile) : Team := tiled (ts ++ [square, square])
def mmaTeam (ts : List Tile) : Team := tiled (tile 16 128 3 :: tile 16 128 3 :: ts)
def gathering : Team := { mmaTeam [tile 1 2 2] with sp := Memory.setBytes [] 0xFFE0 (leBytes 32 0x10000000000000000000000400000000000000000) }
def fGather : Fibre := at2 0xFFE0
def gatherState : State := (State.cached (State.paged (st [fGather]))).setTeam gathering
def fHarv : Fibre := fib [1, 0, 1]
def harvested : State :=
  { mapped with
    fibres := [fHarv], waves := [wave [fHarv]]
    mem := { mapped.mem with dir := [{ leaf := 0x18000 + 2 ^ 52, count := 0, grants := [0] }] } }
def shedTeam1 : Team := { theTeam with sheds := [(7, 4096, 0, 0)] }
def shedFibre1 : Fibre := fib [1, 0, 4096, 0x8001, 0x80000004]
def shedState1 : State := ((fun s => { s.setTeam { theTeam with sheds := [(7, 4096, 0, 0)] } with objects := [theObject, runtimeObject 4] }) (st [fib [1,
        0, 4096, 0x8001, 0x80000004]]))
def shedObject1 : Object := theObject
def shedTeam2 : Team := { theTeam with tiles := List.replicate 16 default, handles := List.replicate 32 default, shed := true, acq := .granted }
def shedFibre2 : Fibre := fib [1, 0, 4096, 8, 16]
def shedState2 : State := ((fun s => { s.setTeam { theTeam with tiles := List.replicate 16 default, handles := List.replicate 32 default, shed := true, acq := .granted } with objects := [{ theObject with tiles := 7, handles := 31, scratch := 65536, wfull := 80 }, runtimeObject 4] }) (st [fib [1,
        0, 4096, 8, 16]]))
def shedObject2 : Object := { theObject with tiles := 7, handles := 31, scratch := 65536, wfull := 80 }
def at_StepRunsDecoded1 : State := { st [f0] with agenda := [.event .deviceReset {}] }
def at_FailedChecksTrap1 : State := st [f0, lane 31 [1]]
def at_FailedChecksTrap2 : State := st [f0]
def at_FailedChecksTrap3 : State := (st [f0]).setLaunch { theLaunch with system := false }
def at_FailedChecksTrap4 : State := st [f0]
def at_FailedChecksTrap5 : State := st [f0]
def at_FailedChecksTrap6 : State := st [{ f0 with poison := [2] }]
def at_GuardedOff1 : State := st [f0, lane 31 [1]]
def at_CallsToTheRuntime1 : State := st [fib [3, 0, 7], lane 31 [1]]
def at_SystemCall1 : State := st [fib [3, 0, 7], lane 31 [1]]
def at_DictionaryMarks1 : State := { st [f0] with objects := [{ theObject with dict := List.replicate 1023 0 ++ [0x20] }, runtimeObject 4] }
def at_DictionaryMarks2 : State := st [f0]
def at_DictionaryMarks3 : State := { st [f0] with objects := [{ theObject with dict := [0] }, runtimeObject 4] }
def at_MeetingPoints1 : State := st [f0]
def at_MeetingPoints2 : State := st [f0]
def at_MeetingPoints3 : State := st [{ f0 with labels := [0, 24] }]
def at_MeetingPoints4 : State := st [f0]
def at_MeetingPoints5 : State := st [f0]
def at_MeetingPoints6 : State := happens (sole f0 { theWave with wait := some .bar, fall := 24 }) { launch := 1 }
def at_MeetingPoints7 : State := happens (sole f0 { theWave with wait := some .gbar, fall := 24 }) { launch := 1, gangWide := true }
def at_ForkAndEnd1 : State := st [fib [1, 0, 0, 9]]
def at_ForkAndEnd2 : State := st [fib [1, 0, 1, 9]]
def at_ForkAndEnd3 : State := st [f0]
def at_ForkAndEnd4 : State := sole { id := ⟨.item 1 0 4, 0⟩, pc := 0, obj := 3, regs := List.replicate 64 1, item := some default } { theWave with crew := .item 1 0 4 }
def at_Spawning1 : State := (cached)
def at_Allotments1 : State := happens ({ (st [f0]).setTeam { theTeam with acq := .pending } with cores := updAt base.cores 0 (fun (k : Core) => { k with acqs := [(1, 0)] }) }) { core := 0 }
def at_Allotments2 : State := happens ((st [f0]).setTeam { theTeam with sheds := [(2, 4096, 0, 0)] }) { launch := 1, wave := 2 }
def at_Allotments3 : State := { (st [f0]).setTeam (newTeam theLaunch theObject 0) with objects := [{ theObject with wfull := 80, tiles := 7 }, runtimeObject 4] }
def at_Allotments4 : State := (fun s => { s.setTeam { theTeam with acq := .none, tiles := List.replicate 16 default, handles := List.replicate 32 default } with objects := [{ theObject with tiles := 7, handles := 31, scratch := 65536, wfull := 80 }, runtimeObject 4] }) (st [f0])
def at_WaveEvents1 : State := happens (st [{ f0 with pend := [{ dst := [5], vals := [7], flags := 1 }] }]) { fibre := f0.id }
def at_WaveEvents2 : State := sole f0 { theWave with wait := some .gather }
def at_WaveEvents3 : State := happens ({ st [f0] with tileOps := [{ id := 9, launch := 1, team := 0, wave := 2, fibres := [f0.id], pc := 24, reads := [], writes := [(3, tile 2 2 3)], flags := 1, fault := some { cause := arithZeroPivot 0 } }] }) { op := 9 }
def at_WaveEvents4 : State := happens (st [{ f0 with dues := [({ cause := arithZeroPivot 0, kind := 3, info0 := 24 }, .atPc)] }]) { wave := 2 }
def at_WaveEvents5 : State := happens ({ sole f0 { theWave with wait := some .walk, stalled := true, since := 5 } with clk := { base.clk with rtime := 10005 } }) { wave := 2 }
def at_WaveEvents6 : State := happens (mapped) { val := 0x7FFF, core := 511, write := true }
def at_RoundEvents1 : State := happens ({ st [f0] with entries := [({ id := 9, launch := 1, round := 0, drainer := 0, key := 0, pa := 60, va := 60, leaf := 2 ^ 52, op := .int 0 0 5, fibre := f0.id, dest := true, pc := 12, arrived := false } : Entry)] }) { op := 9 }
def at_RoundEvents2 : State := happens (st [{ f0 with round := 1 }]) { launch := 1 }
def at_RoundEvents3 : State := happens ((st [f0]).setLaunch { theLaunch with markers := [(0, 1)] }) { launch := 1 }
def at_RoundEvents4 : State := happens ({ (st [{ f0 with pend := [{ dst := [5], vals := [], ordered := some 9 }] }]).setLaunch { theLaunch with markers := [(0, 1)] } with entries := [({ id := 9, launch := 1, round := 0, drainer := 0, key := 0, pa := 60, va := 60, leaf := 2 ^ 52, op := .int 0 0 5, fibre := f0.id, dest := true, pc := 12, arrived := true } : Entry)] }) { launch := 1 }
def at_RoundEvents5 : State := happens ({ (st [{ f0 with pend := [{ dst := [5], vals := [], ordered := some 9 }] }]).setLaunch { theLaunch with markers := [(0, 1)] } with entries := [({ id := 9, launch := 1, round := 0, drainer := 0, key := 0, pa := 60, va := 60, leaf := 2 ^ 52, op := .int 0 0 5, fibre := f0.id, dest := false, pc := 12, arrived := true } : Entry)] }) { launch := 1 }
def at_EngineEnds4 : State := running (twoHollow (gangOf5 .preempted)) (engOp .ctxs (leBytes 32 0x400000000000000000000000000200000000))
def at_EngineEnds5 : State := running mapped (engOp .migr (leBytes 32 0x800000000000000000000000000000000000))
def at_EngineEnds6 : State := running (twoHollow (gangOf5 .held)) (engOp .ctxr (leBytes 32 0x400000000000000000000000000200000000))
def at_EngineEnds7 : State := (fun s => { s with mem := { s.mem with hbm := Memory.setBytes [] 0x4010 [0xbf, 0x62, 0xac, 0xad, 0x4e, 0xa2, 0xd0, 0x09] } }) (running (twoHollow (gangOf5 .held)) (engOp .ctxr (leBytes 32 0x400000000000000000000000000200000000)))
def at_EngineEnds8 : State := { st [f0] with ops := [engOp .merge [], { engOp .hreh [] with id := 10, b := 0x2000 }, { engOp .hreh [] with id := 11, b := 0x2000 }] }
def at_EngineEnds9 : State := { st [f0] with ops := [engOp .merge [], { engOp .hreh [] with id := 10, b := 0x2000 }, { { engOp .hreh [] with id := 11, b := 0x2000 } with launch := 2 }] }
def at_ForwardedAccesses1 : State := happens (peered) { access := ({ source := 3, inc := 9, pa := 56, bytes := 8, op := .read } : PeerAccess) }
def at_ForwardedAccesses2 : State := happens (peered) { access := ({ source := 3, inc := 9, pa := 56, bytes := 8, op := .write 0xFF 0x1122 } : PeerAccess) }
def at_ForwardedAccesses3 : State := happens (peered) { access := { source := 3, inc := 9, pa := 2 ^ 51, bytes := 8, op := .read } }
def at_ForwardedAccesses4 : State := happens (peered) { access := { source := 3, inc := 8, pa := 0, bytes := 8, op := .read } }
def at_ForwardedAccesses5 : State := happens ({ peered with fwds := [({ id := 9, fibre := f0.id, core := 0, dev := 3, pa := 56, va := 56, bytes := 8, op := .read, pc := 12, posted := false } : Fwd)] }) { req := 9, word := 9, reply := .data 7 }
def at_ForwardedAccesses6 : State := happens ({ peered with fwds := [({ id := 9, fibre := f0.id, core := 0, dev := 3, pa := 56, va := 56, bytes := 8, op := .read, pc := 12, posted := true } : Fwd)] }) { req := 9, word := 9, reply := .ack }
def at_ForwardedAccesses7 : State := happens ({ peered with fwds := [({ id := 9, fibre := f0.id, core := 0, dev := 3, pa := 56, va := 56, bytes := 8, op := .read, pc := 12, posted := true } : Fwd)], fibres := [{ f0 with held := [{ pc := 24, va := 64, bytes := 4, val := 1, scope := 5, behind := [9] }] }] }) { req := 9, word := 9, reply := .nak }
def at_ForwardedAccesses8 : State := happens ({ peered with fwds := [({ id := 9, fibre := f0.id, core := 0, dev := 3, pa := 56, va := 56, bytes := 8, op := .read, pc := 12, posted := true } : Fwd)], fibres := [{ f0 with held := [{ pc := 24, va := 64, bytes := 4, val := 1, scope := 5, behind := [9] }] }] }) { req := 9, word := 9, reply := .frozen }
def at_FaultRing1 : State := happens (ringing (trapped .toWrite) []) { fibre := f0.id }
def at_FaultRing2 : State := happens (ringing (trapped .toWrite) []) { fibre := f0.id, fails := true }
def at_FaultRing4 : State := happens (ringing (trapped (.waiting 5)) [(5, f0.id, memAlign 0)]) { word := 5 }
def at_FaultRing5 : State := happens (ringing (trapped (.waiting 5)) [(5, f0.id, memAlign 0)]) { word := 5 }
def at_FaultRing6 : State := happens (ringing (trapped (.waiting 5)) [(5, f0.id, memAlign 0)]) { word := 5 }
def at_FaultRing7 : State := { st [f0] with service := { base.service with frozen := 1 } }
def at_PlacementEvents1 : State := happens ({ two (gangOf5 .placed) with teams := [{ newTeam second tiny 0 with core := 3 }] }) { launch := 5 }
def at_PlacementEvents2 : State := happens ({ crowded with objects := base.objects ++ [hollow, fuseGang] }) { launch := 5 }
def at_PlacementEvents3 : State := crowded
def at_PlacementEvents4 : State := happens (twoHollow (gangOf5 .restoring)) { launch := 5 }
def at_TimeEvents1 : State := happens ({ base with fibres := [], waves := [] }) { launch := 1 }
def at_TimeEvents2 : State := happens ({ (st [f0]).setLaunch { theLaunch with deadline := 7 } with clk := { base.clk with rtime := 7 } }) { launch := 1 }
def at_TimeEvents3 : State := happens ({ (st [f0]).setTeam { theTeam with sup := some { deadline := 7, target := 0, wbuf := 0, buf1 := 0, buf2 := 0, record := 0, scope := 5, best := 0, bestRes := 0, marks := 0 } } with clk := { base.clk with rtime := 7 } }) { launch := 1 }
def at_TimeEvents4 : State := happens ({ (st [f0]).setTeam { theTeam with sup := some { deadline := 7, target := 0, wbuf := 0, buf1 := 0, buf2 := 0, record := 0, scope := 5, best := 0, bestRes := 0, marks := 3 } } with clk := { base.clk with rtime := 7 } }) { launch := 1 }
def at_TimeEvents5 : State := happens ({ (st [f0]).setTeam { theTeam with scores := [(0, 5), (3, 1)] } with clk := { base.clk with cycles := List.replicate 8 1024 } }) { core := 0 }
def at_TimeEvents6 : State := happens ({ st [f0] with clk := { base.clk with cycles := List.replicate 8 1024 } }) { core := 511 }
def at_TimeEvents7 : State := happens ((st [f0]).setTeam { theTeam with wdog := 5, spent := 5 }) { launch := 1 }
def at_TimeEvents8 : State := happens ({ st [f0] with itemCrews := [({ launch := 1, core := 0, crew := 4, place := { quad := 0, slot := 5, base := [(64, 64)] }, slots := 4, window := 16 } : ItemCrew)], cores := updAt base.cores 0 (fun (k : Core) => { k with items := [({ id := 8, launch := 1, vein := 0, pcoff := 24, aseq := 0, arg := [1, 2, 3, 4], rd := {}, wr := {}, spawner := 0 } : Item)] }) }) { core := 0 }
def at_TimeEvents10 : State := { st [f0] with cores := updAt base.cores 0 (fun (k : Core) => { k with items := [({ id := 8, launch := 1, vein := 0, pcoff := 24, aseq := 0, arg := [1, 2, 3, 4], rd := { first := 5, count := 2 }, wr := { first := 6, count := 1 }, spawner := 0, parent := none } : Item), ({ id := 9, launch := 1, vein := 1, pcoff := 24, aseq := 3, arg := [1, 2, 3, 4], rd := { first := 5, count := 2 }, wr := { first := 6, count := 1 }, spawner := 0, parent := some 8 } : Item)] }) }
def at_TimeEvents11 : State := { st [f0] with cores := updAt base.cores 0 (fun (k : Core) => { k with items := [({ id := 8, launch := 1, vein := 0, pcoff := 24, aseq := 0, arg := [1, 2, 3, 4], rd := { first := 5, count := 2 }, wr := { first := 6, count := 1 }, spawner := 0, parent := none } : Item), ({ id := 10, launch := 1, vein := 0, pcoff := 24, aseq := 3, arg := [1, 2, 3, 4], rd := { first := 5, count := 2 }, wr := { first := 6, count := 1 }, spawner := 0, parent := none } : Item)] }) }
def at_RecordEvents1 : State := ready3 (leBytes 128 0x400000000000000000000000000000000000000000000000000000000000000000000000000000000000000000000000000000000000000000000000000000000000000002000000000000000000000000040000007700020001)
def at_RecordEvents2 : State := ready3 (leBytes 128 0x400000000000000000000000000000000000000000000000000000000000000000000000000000000000000000000000000000000000000000000000000000000000000002000000000000000000000000030000007700020001)
def at_RecordEvents3 : State := (fun s => { s with ev := { s.ev with fails := true } }) (ready3 (leBytes 128 0x400000000000000000000000000000000000000000000000000000000000000000000000000000000000000000000000000000000000000000000000000000000000000002000000000000000000000000000000007700000001))
def at_RecordEvents4 : State := (fun s => { s with ev := { s.ev with fails := true } }) (ready3 (leBytes 128 0x400000000000000000000000000000000000000000000000000000000000000000000000000000000000000000000000000000000000000000000000000000000000000002000000000000000000000000000000007700010001))
def at_RecordEvents5 : State := happens ((fun s => { s.setLaunch { theLaunch with retired := 1, comp := 0x5000 } with gangs := [], queues := updAt base.queues 0 (fun (q : Queue) => { q with cirq := true, vec := 9 }) }) (st [f0])) { launch := 1 }
def at_RecordEvents6 : State := happens ({ st [f0] with finished := [({ id := 9, queue := 3, seq := 5, comp := 0x5000, acceptedAt := 1, status := schedC 3, low := 1, high := 2 } : Finished)] }) { launch := 9 }
def at_RecordEvents8 : State := happens ((st [f0]).setQueue 3 (fun q => { q with nbase := 0x6000, nsize := 4, nhead := 2, ntail := 5, nirq := true, vec := 9, notes := [(7, 8, 9)] })) { queue := 3 }
def at_RegisterEvents1 : State := happens ((st [f0]).setQueue 63 (fun q => { q with vec := 9 })) { queue := 63, word := 16 }
def at_RegisterEvents2 : State := happens ((st [f0]).setQueue 63 (fun q => { q with vec := 9 })) { queue := 63, word := 17 }
def at_RegisterEvents3 : State := happens (st [f0]) { queue := 63, word := 7 }
def at_RegisterEvents4 : State := happens (cached) { queue := 0, val := 7 }
def at_RegisterEvents5 : State := happens ((st [f0]).setQueue 63 (fun q => { q with en := true })) { queue := 63, val := 7 }
def at_RegisterEvents6 : State := ((st [f0]).setQueue 63 (fun q => { q with base := 5, size := 6, tail := 7, head := 8, quant := 9, nbase := 10, nsize := 11, nhead := 12, ntail := 13, ptbr := 14 }))
def at_RegisterEvents7 : State := happens ((st [f0]).setQueue 63 (fun q => { q with en := true })) { write := true, bytes := 8, pa := 0x10FC0, data := 0x123456789ABCDEF0 }
def at_RegisterEvents8 : State := happens ((st [f0]).setQueue 63 (fun q => { q with en := false })) { write := true, bytes := 8, pa := 0x10FC0, data := 0x123456789ABCDEF0 }
def at_RegisterEvents9 : State := happens ((st [f0]).setQueue 63 (fun q => { q with tailBad := true, ringFault := true, compFault := true })) { write := true, bytes := 4, pa := 0x10FDC, data := 5 }
def at_RegisterEvents10 : State := happens (st [f0]) { write := true, bytes := 8, pa := 0, data := 5 }
def at_RegisterEvents11 : State := happens (warm (st [f0])) { pa := 0, bytes := 64, write := false, data := 0x99 }
def at_RegisterEvents12 : State := happens (warm (st [f0])) { pa := 0, bytes := 64, write := true, data := 0x99 }
def at_RegisterEvents13 : State := happens ((st [f0]).setRegion 63 (fun _ => ({ base := 0, limit := 0x1000, saddr := 0 } : Region))) { choice := 63, val := 0x100000 }
def at_RegisterEvents14 : State := happens ((st [f0]).setRegion 63 (fun _ => { ({ base := 0, limit := 0x1000, saddr := 0 } : Region) with en := true })) { choice := 63, val := 0 }
def at_RegisterEvents15 : State := happens (st [f0]) { launch := 1, val := 0x1FFFFFFFFFF }
def at_RegisterEvents16 : State := happens (st [f0]) { launch := 1 }
def at_RegisterEvents17 : State := happens ({ st [f0] with service := { base.service with frozen := 1 } }) { queue := 63 }
def at_SpanEvents1 : State := happens (spannedGo (spanAt 1 .preparing [] [])) { launch := 1, agents := [0, 3] }
def at_SpanEvents2 : State := happens (spannedGo (spanAt 0 .ready [0] [])) { launch := 1, lode := 1, agent := 3, word := 9 }
def at_SpanEvents3 : State := happens (spannedGo (spanAt 0 .ready [] [])) { launch := 1, lode := 0, agent := 3, word := 9 }
def at_SpanEvents4 : State := happens (spannedGo (spanAt 0 .ready [0, 1] [])) { launch := 1 }
def at_SpanEvents5 : State := happens (spannedGo (spanAt 1 .ready [] [])) { launch := 1, agent := 3, word := 9 }
def at_SpanEvents6 : State := happens ({ spannedGo (spanAt 0 .committed [0, 1] [0]) with clk := { base.clk with rtime := 200007 } }) { launch := 1, lode := 1, agent := 3, word := 9 }
def at_SpanEvents7 : State := happens ({ spannedGo (spanAt 0 .committed [0, 1] []) with clk := { base.clk with rtime := 200007 } }) { launch := 1, lode := 0, agent := 3, word := 9 }
def at_SpanEvents8 : State := happens (spannedGo (spanAt 0 .committed [0, 1] [0, 1])) { launch := 1 }
def at_SpanEvents9 : State := happens (spannedGo (spanAt 1 .committed [] [])) { launch := 1, agent := 3, word := 9 }
def at_SpanEvents10 : State := happens (spannedGo (spanAt 1 .committed [] [])) { launch := 1, map := 3, agent := 3, word := 9 }
def at_SpanEvents11 : State := happens ({ spannedGo (spanAt 0 .committed [0, 1] [0]) with clk := { base.clk with rtime := 200007 } }) { launch := 1 }
def at_SpanEvents12 : State := happens ({ spannedGo (spanAt 1 .committed [] []) with clk := { base.clk with rtime := 300007 } }) { launch := 1 }
def at_FabricEvents1 : State := happens (st [f0]) { port := 15, peer := .versions 2 }
def at_FabricEvents2 : State := happens (st [f0]) { port := 15, peer := .versions 4 }
def at_FabricEvents3 : State := happens (st [f0]) { port := 15, peer := PortPeer.versions 0 }
def at_FabricEvents4 : State := happens (st [f0]) { port := 15, peer := .noSignal }
def at_FabricEvents5 : State := happens ((fun s => { s with fabric := { s.fabric with ports := (List.range 16).map (fun k => if k == 15 then { up := true, flits := [4] } else if k == 3 then { up := true, flits := [5] } else {}), self := 0, selfInc := 1, agents := updAt (updAt peered.fabric.agents 0 (fun _ => { live := true, inc := 1, heard := 5 })) 192 (fun _ => { live := true, inc := 2, heard := 0 }) } }) (st [f0])) { port := 15, why := .failed }
def at_FabricEvents6 : State := happens ({ (fun s => { s with fabric := { s.fabric with ports := (List.range 16).map (fun k => if k == 15 then { up := true, flits := [4] } else if k == 3 then { up := true, flits := [5] } else {}), self := 0, selfInc := 1, agents := updAt (updAt peered.fabric.agents 0 (fun _ => { live := true, inc := 1, heard := 5 })) 192 (fun _ => { live := true, inc := 2, heard := 0 }) } }) (st [f0]) with clk := { base.clk with rtime := 12500 } }) { }
def at_FabricEvents7 : State := happens ({ (fun s => { s with fabric := { s.fabric with ports := (List.range 16).map (fun k => if k == 15 then { up := true, flits := [4] } else if k == 3 then { up := true, flits := [5] } else {}), self := 0, selfInc := 1, agents := updAt (updAt peered.fabric.agents 0 (fun _ => { live := true, inc := 1, heard := 5 })) 192 (fun _ => { live := true, inc := 2, heard := 0 }) } }) (st [f0]) with clk := { base.clk with rtime := 77 } }) { port := 15, agent := 192, word := 2 }
def at_FabricEvents8 : State := happens ((fun s => { s with fabric := { s.fabric with ports := (List.range 16).map (fun k => if k == 15 then { up := true, flits := [4] } else if k == 3 then { up := true, flits := [5] } else {}), self := 0, selfInc := 1, agents := updAt (updAt peered.fabric.agents 0 (fun _ => { live := true, inc := 1, heard := 5 })) 192 (fun _ => { live := true, inc := 2, heard := 0 }) } }) (st [f0])) { port := 15, agent := 192, word := 3 }
def at_FabricEvents9 : State := happens ((fun s => { s with fabric := { s.fabric with ports := (List.range 16).map (fun k => if k == 15 then { up := true, flits := [4] } else if k == 3 then { up := true, flits := [5] } else {}), self := 0, selfInc := 1, agents := updAt (updAt peered.fabric.agents 0 (fun _ => { live := true, inc := 1, heard := 5 })) 192 (fun _ => { live := true, inc := 2, heard := 0 }) } }) (st [f0])) { port := 15, agent := 192, word := 2 }
def at_FabricEvents10 : State := happens ({ (fun s => { s with fabric := { s.fabric with ports := (List.range 16).map (fun k => if k == 15 then { up := true, flits := [4] } else if k == 3 then { up := true, flits := [5] } else {}), self := 0, selfInc := 1, agents := updAt (updAt peered.fabric.agents 0 (fun _ => { live := true, inc := 1, heard := 5 })) 192 (fun _ => { live := true, inc := 2, heard := 0 }) } }) (st [f0]) with clk := { base.clk with rtime := 100000 }, fwds := [{ id := 9, fibre := f0.id, core := 0, dev := 192, pa := 56, va := 56, bytes := 8, op := .read, pc := 12, posted := false }] }) { agent := 192, word := 2 }
def at_FabricEvents11 : State := happens ({ (fun s => { s with fabric := { s.fabric with ports := (List.range 16).map (fun k => if k == 15 then { up := true, flits := [4] } else if k == 3 then { up := true, flits := [5] } else {}), self := 0, selfInc := 1, agents := updAt (updAt peered.fabric.agents 0 (fun _ => { live := true, inc := 1, heard := 5 })) 192 (fun _ => { live := true, inc := 2, heard := 0 }) } }) (st [f0]) with fwds := [{ id := 9, fibre := f0.id, core := 0, dev := 192, pa := 56, va := 56, bytes := 8, op := .read, pc := 12, posted := false }] }) { agent := 0, word := 1 }
def at_FabricEvents12 : State := happens ((fun s => { s with fabric := { s.fabric with ports := (List.range 16).map (fun k => if k == 15 then { up := true, flits := [4] } else if k == 3 then { up := true, flits := [5] } else {}), self := 0, selfInc := 1, agents := updAt (updAt peered.fabric.agents 0 (fun _ => { live := true, inc := 1, heard := 5 })) 192 (fun _ => { live := true, inc := 2, heard := 0 }) } }) (st [f0])) { agent := 192, word := 3 }
def at_FabricEvents13 : State := happens ((fun s => { s with fabric := { s.fabric with ports := (List.range 16).map (fun k => if k == 15 then { up := true, flits := [4] } else if k == 3 then { up := true, flits := [5] } else {}), self := 0, selfInc := 1, agents := updAt (updAt peered.fabric.agents 0 (fun _ => { live := true, inc := 1, heard := 5 })) 192 (fun _ => { live := true, inc := 2, heard := 0 }) } }) (st [f0])) { agent := 7, word := 3, write := true }
def at_FabricEvents14 : State := happens ((fun s => { s with fabric := { s.fabric with ports := (List.range 16).map (fun k => if k == 15 then { up := true, flits := [4] } else if k == 3 then { up := true, flits := [5] } else {}), self := 0, selfInc := 1, agents := updAt (updAt peered.fabric.agents 0 (fun _ => { live := true, inc := 1, heard := 5 })) 192 (fun _ => { live := true, inc := 2, heard := 0 }) } }) (st [f0])) { }
def at_FabricEvents15 : State := happens ({ (fun s => { s with fabric := { s.fabric with ports := (List.range 16).map (fun k => if k == 15 then { up := true, flits := [4] } else if k == 3 then { up := true, flits := [5] } else {}), self := 0, selfInc := 1, agents := updAt (updAt peered.fabric.agents 0 (fun _ => { live := true, inc := 1, heard := 5 })) 192 (fun _ => { live := true, inc := 2, heard := 0 }) } }) (st [f0]) with clk := { base.clk with rtime := 100000 } }) { port := 15, agent := 192, word := 2 }
def at_ServiceEvents1 : State := happens (st [f0]) { agent := 1 }
def at_ServiceEvents2 : State := happens ({ st [f0] with service := { base.service with staged := some 1 } }) { unit := .controller }
def at_ServiceEvents3 : State := happens ({ { st [f0] with service := { base.service with staged := some 1 } } with gangs := [] }) { unit := .core 511 }
def at_ServiceEvents4 : State := happens (st [f0]) { }
def at_ServiceEvents5 : State := happens ({ st [f0] with service := { base.service with spdmVersion := true } }) { }
def at_ServiceEvents6 : State := happens ({ st [f0] with service := { base.service with spdmAlgs := true } }) { choice := 1 }
def at_ServiceEvents7 : State := happens (st [f0]) { }
def at_ServiceEvents8 : State := happens (st [f0]) { agent := 0, pa := 0xFFFFFFFF }
def at_ServiceEvents9 : State := happens (st [f0]) { agent := 3, pa := 0xFFFFFFFF }
def at_ServiceEvents10 : State := happens ({ st [f0] with service := { base.service with frozen := 0b1100 } }) { agent := 1, word := 8 }
def at_ServiceEvents11 : State := happens ({ st [f0] with service := { base.service with frozen := 1 } }) { agent := 0 }
def at_ServiceEvents12 : State := happens ({ cached with gangs := [] }) { core := 511, choice := 1 }
def at_ServiceEvents13 : State := happens ({ st [f0] with service := { base.service with stackErrors := List.replicate 8 0xFFFFFFFF } }) { die := 7, write := true }
def at_ServiceEvents14 : State := happens ({ st [f0] with service := { base.service with stackErrors := List.replicate 8 0xFFFFFFFF } }) { die := 7, write := false }
def at_ServiceEvents15 : State := happens (st [f0]) { pa := deviceBytes - 1 }
def at_ServiceEvents16 : State := happens ({ st [f0] with clk := { base.clk with rtime := 100000 } }) { readings := ⟨1401, [1, 2], []⟩, lanes := 0 }
def at_ServiceEvents17 : State := happens (cached) { }
def at_ServiceEvents18 : State := happens ({ st [f0] with service := { base.service with staged := some 1 } }) { agent := 1, fails := true }
def at_ServiceEvents19 : State := happens ({ st [f0] with service := { base.service with slotUsable := false } }) { agent := 0 }
def at_ServiceEvents20 : State := happens ({ st [f0] with service := { base.service with frozen := 0b1110 } }) { agent := 0, pa := 5 }
def at_ServiceEvents21 : State := happens (cached) { core := 0, choice := 1, pa := 63 }
def at_ServiceEvents22 : State := happens (st [f0]) { launch := 1, choice := 2, pa := 65535 }
def at_ServiceEvents23 : State := happens ({ st [f0] with service := { base.service with staged := some 1, quiesce := [(.sluice 7, [9])] } }) { unit := .sluice 7 }
def at_ServiceEvents24 : State := happens (st [f0]) { choice := 3, fibre := f0.id, word := 63 }
def at_ServiceEvents25 : State := happens (st [f0]) { launch := 1, choice := 4, word := 15, pa := 8191 }
def at_ServiceEvents26 : State := happens (paged) { core := 0, choice := 5, queue := 0, val := 0x7FFF }
def at_ServiceEvents27 : State := happens ({ st [f0] with mem := { base.mem with dieTlb := List.replicate 8 [te] } }) { die := 7, choice := 6, queue := 0, val := 0x7FFF }
def at_ServiceEvents28 : State := happens ((fun s => { s with mem := { s.mem with l2 := s.mem.l2.map (fun l => { l with line := lineNo 63 true }) } }) (warm (st [f0]))) { choice := 7, pa := 63 }

theorem witness_StepRunsDecoded :
    (∃ (s : State) (i : Instr) (a : EventArgs) (ms : List Move), s.tick.urgent.find? s.tick.happens = none ∧ s.agenda = .event i a :: ms) ∧
    (∃ (s : State) (h : Happening), s.tick.urgent.find? s.tick.happens = some h) ∧
    ((at_stepping.tick.urgent.find? at_stepping.tick.happens = none ∧ at_stepping.agenda = .issue 2 :: [] ∧
        (afterMove at_stepping).wave? 2 = some theWave ∧ (afterMove at_stepping).waveFibres theWave = fStep :: [] ∧
        (afterMove at_stepping).object? fStep.obj = some oStep ∧ fStep.pc.toNat % 2 = 0) ∧
        decode ((oStep.code.drop fStep.pc.toNat).take 12) = .ok (.nop stepNop, []) ∧ (afterMove at_stepping).ready theWave = true ∧
        (afterMove at_stepping).staysWaiting theWave = false ∧
        ((afterMove at_stepping).choiceAt ((afterMove at_stepping).quadOf theWave)).map Wave.id = some 2) ∧
    ((at_younger.tick.urgent.find? at_younger.tick.happens = none ∧ at_younger.agenda = .issue 2 :: [] ∧
        (afterMove at_younger).wave? 2 = some theWave ∧ (afterMove at_younger).waveFibres theWave = fStep :: [] ∧
        (afterMove at_younger).object? fStep.obj = some oStep ∧ fStep.pc.toNat % 2 = 0) ∧
        decode ((oStep.code.drop fStep.pc.toNat).take 12) = .ok (.nop stepNop, []) ∧ (afterMove at_younger).ready theWave = true ∧
        (afterMove at_younger).staysWaiting theWave = false ∧
        ((afterMove at_younger).choiceAt ((afterMove at_younger).quadOf theWave)).map Wave.id ≠ some 2) ∧
    ((at_waiting.tick.urgent.find? at_waiting.tick.happens = none ∧ at_waiting.agenda = .issue 2 :: [] ∧
        (afterMove at_waiting).wave? 2 = some wWait ∧ (afterMove at_waiting).waveFibres wWait = f0 :: [] ∧
        (afterMove at_waiting).object? f0.obj = some oWait ∧ f0.pc.toNat % 2 = 0) ∧
        decode ((oWait.code.drop f0.pc.toNat).take 12) = .ok (.hwait stepHwait, []) ∧ (afterMove at_waiting).ready wWait = true ∧
        (afterMove at_waiting).staysWaiting wWait = true) :=
  ⟨⟨at_StepRunsDecoded1, .deviceReset, {}, [], by decide +kernel⟩,
   ⟨at_finished, Option.isSome_iff_exists.1 (List.find?_isSome.2
    ⟨(.teamRetire, { at_finished.tick.freeArgs with launch := 1, gang := 0 }), List.mem_of_head? (by rfl),
        happens_of (n := 0) (by decide +kernel) (by decide +kernel)⟩)⟩,
   ⟨by decide +kernel, rfl, by decide +kernel, by decide +kernel⟩,
   ⟨by decide +kernel, rfl, by decide +kernel, by decide +kernel⟩,
   ⟨by decide +kernel, rfl, by decide +kernel, by decide +kernel⟩⟩

theorem witness_DecodeEncode :
    (∃ (i : Instr) (bs : List Byte), i.wellFormed = true ∧ encode i = some bs) ∧
    (∃ (i : Instr) (bs : List Byte), i.wellFormed = true ∧ encode i = some bs) :=
  ⟨⟨.bra ⟨0, ⟨.reg, 0⟩, ⟨.reg, 0⟩, ⟨.reg, 0⟩, 63, 0, true, 0, 0xFFFFFFFE⟩, _, by decide +kernel, rfl⟩,
   ⟨.fdiv ⟨0, ⟨.reg, 255⟩, ⟨.uni, 0⟩, ⟨.special, 1⟩, 32, 15, false, 0, 0xFFFFFFFF⟩, _, by decide +kernel, rfl⟩⟩

theorem witness_EncodeDecode :
    ∃ (bs rest : List Byte) (i : Instr), decode bs = .ok (i, rest) := ⟨[0xFF, 0xFF, 7], [7], .dictionaryMark 3 0xFF, rfl⟩

theorem witness_StepKeepsMemory :
    ∃ s : State, s.MemWf ∧ ∃ t, step s = .next t := ⟨State.reset.withFetchWord 96 0x11, ⟨by decide +kernel, by decide +kernel, by decide +kernel⟩,
        next_of (by decide +kernel)⟩

theorem witness_ResetValues :
    ∃ (v : Nat) (x : Vein), State.reset.mem.veins[v]? = some x := ⟨15, _, rfl⟩

theorem witness_RegisterWords :
    (∃ f : Fibre, 0 < f.regs.length ∧ (f.reg 0).getLsbD 0 = true) ∧
    (∃ k, 0 < k ∧ k < 32) ∧
    (∃ (f : Fibre) (n : Nat), n + 1 < f.regs.length ∧ n + 1 < 252) ∧
    (∃ (c : Ctx) (g : Fibre), c.low = some g) ∧
    (∃ f : Fibre, (f.reg 0).getLsbD 0 = true ∧ f.objWait = none) :=
  ⟨⟨f0, by decide +kernel⟩,
   ⟨31, by decide⟩,
   ⟨{ f0 with regs := List.replicate 252 0 }, 250, by decide +kernel⟩,
   ⟨soloCtx .nop (wd 0 (r 0) (r 0) (r 0)) (st [f0]) theWave f0 |> fun c => { c with low := some f0 }, f0, rfl⟩,
   ⟨f0, by decide +kernel⟩⟩

theorem witness_IntegerResults :
    ∀ op ∈ [Op.iadd, Op.isub, Op.imul, Op.imulh, Op.imin, Op.imax, Op.idiv, Op.irem], Issues op (fits op) (st both) (wave both) both (lane 0 [3, 7,
        9]) := by decide +kernel

theorem witness_CarryAndWideResults :
    ∀ op ∈ [Op.iadc, Op.isbc, Op.imad, Op.iabs, Op.imadw, Op.idp4, Op.idp2, Op.lea], Issues op (fits op) (st both) (wave both) both (lane 0 [3, 7,
        9]) := by decide +kernel

theorem witness_BitResults :
    (∀ op ∈ [Op.shl, Op.shr, Op.sar, Op.rotl, Op.andB, Op.orB, Op.xorB, Op.bext, Op.tern, Op.bfx, Op.bfi, Op.brev, Op.popc, Op.clz, Op.ffs,
        Op.bsel], Issues op (fits op) (st both) (wave both) both (lane 0 [3, 7, 9])) ∧
    (∃ f : Nat, f / 256 % 256 = 0) :=
  ⟨by decide +kernel,
   ⟨0xFFFF00FF, by decide⟩⟩

theorem witness_CompareAndMove :
    (∀ op ∈ [Op.icmp, Op.fcmp, Op.mov, Op.sel], Issues op (fits op) (st both) (wave both) both (lane 0 [3, 7, 9])) ∧
    (∃ a q, fp32.decode a = .nan q) :=
  ⟨by decide +kernel,
   ⟨0x7F800001, _, rfl⟩⟩

theorem witness_WaveWideResults :
    ∀ op ∈ [Op.shfli, Op.shflu, Op.shfld, Op.shflx, Op.matchL, Op.ballot, Op.voteany, Op.voteall, Op.wred, Op.wscan, Op.fwred, Op.nzcnt, Op.nzmap],
        Issues op (fits op) (st both) (wave both) both (lane 0 [3, 7, 9]) := by decide +kernel

theorem witness_TransfersOfControl :
    ∀ op ∈ [Op.nop, Op.yield, Op.bra, Op.brx, Op.ret, Op.call, Op.callx, Op.loop, Op.jtab],
        Issues op (fits op) (st both) (wave both) both (lane 0 [3, 7, 9]) := by decide +kernel

theorem witness_FloatResults :
    (∀ op ∈ [Op.fadd, Op.fsub, Op.fmul, Op.fdiv, Op.fmin, Op.fmax, Op.ffma, Op.fsqrt, Op.frnd, Op.frcp, Op.frsq, Op.fexp2, Op.flog2, Op.ftanh,
        Op.fscale, Op.fclass], Issues op (fits op) (st both) (wave both) both (lane 0 [3, 7, 9])) ∧
    (∃ c : Ctx, c.op.long = false) ∧
    (∃ c : Ctx, c.op.long = true) :=
  ⟨by decide +kernel,
   ⟨soloCtx .fadd (wd 0 (r 0) (r 0) (r 0)) (st [f0]) theWave f0, by decide +kernel⟩,
   ⟨soloCtx .fdiv (wd 0 (r 0) (r 0) (r 0)) (st [f0]) theWave f0, by decide +kernel⟩⟩

theorem witness_PackedAndConversionResults :
    (∀ op ∈ [Op.hadd2, Op.hsub2, Op.hmul2, Op.hmin2, Op.hmax2, Op.hfma2, Op.hexp2, Op.htanh2, Op.hrcp2, Op.hrsq2, Op.hdot2, Op.hcmp2, Op.cvtf,
        Op.i2f, Op.f2i, Op.ixt, Op.pk8, Op.upk8, Op.dqblk, Op.srseed, Op.txst], Issues op (fits op) (st both) (wave both) both (lane 0 [3, 7, 9])) ∧
    (∃ (c : Ctx) (x : Fibre) (n k l : Bool) (m i j : Nat) (e f g : Int), (fp32.decodeFtz x.ftz (c.c4 x).toNat = .num n m e ∧
        ((halfFmt c.w.mod).decodeFtz x.ftz (half 0 (c.a x))).mul ((halfFmt c.w.mod).decodeFtz x.ftz (half 0 (c.b x))) = (.num k i f, false) ∧
        ((halfFmt c.w.mod).decodeFtz x.ftz (half 1 (c.a x))).mul ((halfFmt c.w.mod).decodeFtz x.ftz (half 1 (c.b x))) = (.num l j g, false)) ∧
        m ≠ 0 ∧ i ≠ 0 ∧ j ≠ 0 ∧ min 0 (min e (min f g)) = -23) ∧
    (∃ (c : Ctx) (x : Fibre), c.w.mod = 0 ∧ x.ftz = false ∧ (c.a x, c.b x, c.c4 x) = (0x0C000C00, 0x0C000C00, 0x3F800000)) ∧
    (∃ (c : Ctx) (x : Fibre), c.w.mod = 0 ∧ x.ftz = false ∧ (c.a x, c.b x, c.c4 x) = (0x7C007C00, 0xBC003C00, 0x7FC00000)) ∧
    (∃ (c : Ctx) (x : Fibre), (c.w.mod, c.a x) = (0x00, 0x7F800001)) ∧
    (∃ (c : Ctx) (x : Fibre), (c.w.mod, c.a x) = (0x00, 0x7FC00000)) ∧
    (∃ (c : Ctx) (x : Fibre), (c.w.mod, c.a x) = (0x40, 0x7D00)) ∧
    (∃ (c : Ctx) (x : Fibre), (c.w.mod, c.a x) = (0x20, 0x7F800000)) ∧
    (∃ (c : Ctx) (x : Fibre), (c.w.mod, c.a x) = (0x28, 0xFF800000)) ∧
    (∃ (c : Ctx) (x : Fibre), (c.w.mod, c.a x) = (0x20, 0x43FA0000)) ∧
    (∃ (c : Ctx) (x : Fibre), (c.w.mod, c.a x) = (0x00, 0xFFFFFFFF)) ∧
    (∃ (c : Ctx) (x : Fibre), (c.w.mod, c.a x) = (0x08, 0xFFFFFFFF)) ∧
    (∃ (c : Ctx) (x : Fibre), (c.w.mod, c.a x) = (0x01, 0xFFFFFFFF)) ∧
    (∃ (c : Ctx) (x : Fibre), (c.w.mod, c.a x) = (0x18, 0x80000000)) ∧
    (∃ (c : Ctx) (x : Fibre), (c.w.mod, c.a x) = (0x20, 0)) ∧
    (∃ (c : Ctx) (x : Fibre), (c.w.mod, c.a x) = (0x08, 0x4F000000)) ∧
    (∃ (c : Ctx) (x : Fibre), (c.w.mod, c.a x) = (0x00, 0x4F000000)) ∧
    (∃ (c : Ctx) (x : Fibre), (c.w.mod, c.a x) = (0x00, 0xBF800000)) ∧
    (∃ (c : Ctx) (x : Fibre), (c.w.mod, c.a x) = (0x08, 0xFF800000)) ∧
    (∃ (c : Ctx) (x : Fibre), (c.w.mod, c.a x) = (0x08, 0x7FC00000)) ∧
    (∃ (c : Ctx) (x : Fibre), (c.w.mod, c.a x) = (0x08, 0x3FC00000)) ∧
    (∃ (c : Ctx) (x : Fibre), (c.w.mod, c.a x) = (0x09, 0xBFC00000)) ∧
    (∃ (c : Ctx) (x : Fibre), (c.w.mod, x.block c.w.a.n.toNat 4) = (0x00, [0x3F800000, 0x43FA0000, 0x80000000, 0x7FC00000])) ∧
    (∃ (c : Ctx) (x : Fibre), (c.w.mod, x.block c.w.a.n.toNat 4) = (0x08, [0x3F800000, 0x43FA0000, 0x80000000, 0x7FC00000])) ∧
    (∃ (c : Ctx) (x : Fibre), (c.w.mod, x.block c.w.a.n.toNat 4) = (0x20, [0x43480000, 0xC3480000, 0x7FC00000, 0x3FC00000])) ∧
    (∃ (c : Ctx) (x : Fibre), (c.w.mod, c.a x, c.b x) = (0x00, 0x7F807F38, 0)) ∧
    (∃ (c : Ctx) (x : Fibre), (c.w.mod, c.a x, c.b x) = (0x00, 0x7F807F38, 1)) ∧
    (∃ (c : Ctx) (x : Fibre), (c.w.mod, c.a x, c.b x) = (0x20, 0x0000FF80, 0)) ∧
    (∃ (c : Ctx) (x : Fibre), (c.w.mod, c.a x, c.b x) = (0x00, 0x40, 0x80)) ∧
    (∃ (c : Ctx) (x : Fibre), (c.w.mod, c.a x, c.b x) = (0x00, 0x40, 0xFF)) ∧
    (∃ (c : Ctx) (x : Fibre), (c.w.mod, c.a x, c.b x) = (0x00, 0x7F, 0x7F)) ∧
    (∃ (c : Ctx) (x : Fibre), (c.w.mod, c.a x, c.b x) = (0x20, 0x7F, 0xFE)) ∧
    (∃ (c : Ctx) (x : Fibre), (c.w.mod, c.a x, c.b x) = (0x28, 0x80, 0xFE)) :=
  ⟨by decide +kernel,
   ⟨opnd .hdot2 0 (fed 0x3C013C00 0x3C003C00 0x3F800000), fed 0x3C013C00 0x3C003C00 0x3F800000, false, false, false, 0x800000, 0x100000, 0x100400,
        -23, -20, -20, by decide +kernel, by decide, by decide, by decide, by decide⟩,
   ⟨opnd .hdot2 0 (fed 0x0C000C00 0x0C000C00 0x3F800000), fed 0x0C000C00 0x0C000C00 0x3F800000, by decide +kernel⟩,
   ⟨opnd .hdot2 0 (fed 0x7C007C00 0xBC003C00 0x7FC00000), fed 0x7C007C00 0xBC003C00 0x7FC00000, by decide +kernel⟩,
   ⟨opnd .cvtf 0x00 (fed 0x7F800001 0 0), fed 0x7F800001 0 0, by decide +kernel⟩,
   ⟨opnd .cvtf 0x00 (fed 0x7FC00000 0 0), fed 0x7FC00000 0 0, by decide +kernel⟩,
   ⟨opnd .cvtf 0x40 (fed 0x7D00 0 0), fed 0x7D00 0 0, by decide +kernel⟩,
   ⟨opnd .cvtf 0x20 (fed 0x7F800000 0 0), fed 0x7F800000 0 0, by decide +kernel⟩,
   ⟨opnd .cvtf 0x28 (fed 0xFF800000 0 0), fed 0xFF800000 0 0, by decide +kernel⟩,
   ⟨opnd .cvtf 0x20 (fed 0x43FA0000 0 0), fed 0x43FA0000 0 0, by decide +kernel⟩,
   ⟨opnd .i2f 0x00 (fed 0xFFFFFFFF 0 0), fed 0xFFFFFFFF 0 0, by decide +kernel⟩,
   ⟨opnd .i2f 0x08 (fed 0xFFFFFFFF 0 0), fed 0xFFFFFFFF 0 0, by decide +kernel⟩,
   ⟨opnd .i2f 0x01 (fed 0xFFFFFFFF 0 0), fed 0xFFFFFFFF 0 0, by decide +kernel⟩,
   ⟨opnd .i2f 0x18 (fed 0x80000000 0 0), fed 0x80000000 0 0, by decide +kernel⟩,
   ⟨opnd .i2f 0x20 (fed 0 0 0), fed 0 0 0, by decide +kernel⟩,
   ⟨opnd .f2i 0x08 (fed 0x4F000000 0 0), fed 0x4F000000 0 0, by decide +kernel⟩,
   ⟨opnd .f2i 0x00 (fed 0x4F000000 0 0), fed 0x4F000000 0 0, by decide +kernel⟩,
   ⟨opnd .f2i 0x00 (fed 0xBF800000 0 0), fed 0xBF800000 0 0, by decide +kernel⟩,
   ⟨opnd .f2i 0x08 (fed 0xFF800000 0 0), fed 0xFF800000 0 0, by decide +kernel⟩,
   ⟨opnd .f2i 0x08 (fed 0x7FC00000 0 0), fed 0x7FC00000 0 0, by decide +kernel⟩,
   ⟨opnd .f2i 0x08 (fed 0x3FC00000 0 0), fed 0x3FC00000 0 0, by decide +kernel⟩,
   ⟨opnd .f2i 0x09 (fed 0xBFC00000 0 0), fed 0xBFC00000 0 0, by decide +kernel⟩,
   ⟨opnd4 0x00 (fed4 [0x3F800000, 0x43FA0000, 0x80000000, 0x7FC00000]), fed4 [0x3F800000, 0x43FA0000, 0x80000000, 0x7FC00000], by decide +kernel⟩,
   ⟨opnd4 0x08 (fed4 [0x3F800000, 0x43FA0000, 0x80000000, 0x7FC00000]), fed4 [0x3F800000, 0x43FA0000, 0x80000000, 0x7FC00000], by decide +kernel⟩,
   ⟨opnd4 0x20 (fed4 [0x43480000, 0xC3480000, 0x7FC00000, 0x3FC00000]), fed4 [0x43480000, 0xC3480000, 0x7FC00000, 0x3FC00000], by decide +kernel⟩,
   ⟨opnd .upk8 0x00 (fed 0x7F807F38 0 0), fed 0x7F807F38 0 0, by decide +kernel⟩,
   ⟨opnd .upk8 0x00 (fed 0x7F807F38 1 0), fed 0x7F807F38 1 0, by decide +kernel⟩,
   ⟨opnd .upk8 0x20 (fed 0x0000FF80 0 0), fed 0x0000FF80 0 0, by decide +kernel⟩,
   ⟨opnd .dqblk 0x00 (fed 0x40 0x80 0), fed 0x40 0x80 0, by decide +kernel⟩,
   ⟨opnd .dqblk 0x00 (fed 0x40 0xFF 0), fed 0x40 0xFF 0, by decide +kernel⟩,
   ⟨opnd .dqblk 0x00 (fed 0x7F 0x7F 0), fed 0x7F 0x7F 0, by decide +kernel⟩,
   ⟨opnd .dqblk 0x20 (fed 0x7F 0xFE 0), fed 0x7F 0xFE 0, by decide +kernel⟩,
   ⟨opnd .dqblk 0x28 (fed 0x80 0xFE 0), fed 0x80 0xFE 0, by decide +kernel⟩⟩

theorem witness_LoadResults :
    (∃ e l, MetAt Op.ld (fun c s x => Plain s x ∧ Resident s c (c.gaddr x) (szBytes c.w.mod) false e ∧ modField c.w.mod 6 2 ≠ 3 ∧
        s.l1Line? c.core (e.line (c.gaddr x)) = some l ∧ SoundL1 s (e.line (c.gaddr x)) l ∧
        l.valid &&& byteMask (e.at_ (c.gaddr x) % 64) (szBytes c.w.mod) = byteMask (e.at_ (c.gaddr x) % 64) (szBytes c.w.mod)) (wd 5 (pr 8) (pr 4) (r 0) 56) (cached) (wave [f0]) (f0)) ∧
    (∃ e l, MetAt Op.ld (fun c s x => Plain s x ∧ Resident s c (c.gaddr x) (szBytes c.w.mod) false e ∧ modField c.w.mod 6 2 ≠ 3 ∧
        s.l1Line? c.core (e.line (c.gaddr x)) = some l ∧ SoundL1 s (e.line (c.gaddr x)) l ∧
        l.valid &&& byteMask (e.at_ (c.gaddr x) % 64) (szBytes c.w.mod) = byteMask (e.at_ (c.gaddr x) % 64) (szBytes c.w.mod)) (wd 6 (pr 8) (pr 4) (r 0) 48) (cached) (wave [f0]) (f0)) ∧
    (∃ e, MetAt Op.ld (fun c s x => Plain s x ∧ Resident s c (c.gaddr x) (szBytes c.w.mod) false e ∧ modField c.w.mod 6 2 ≠ 3 ∧
        s.l1Line? c.core (e.line (c.gaddr x)) = none ∧ AtHome s x.id (e.line (c.gaddr x)) ∧
        (s.core (s.l1Core c.core (e.line (c.gaddr x)))).l1.length < l1Lines ∧ ∀ v ∈ (s.core (s.l1Core c.core (e.line (c.gaddr x)))).victims,
        v.line ≠ e.line (c.gaddr x)) (wd 2 (r 8) (pr 4) (r 0) 64) (paged) (wave [f0]) (f0)) ∧
    (∃ e, ∀ p ∈ [(Op.ld, fun (m : Byte) => szBytes m), (Op.rld, fun _ => 8)], MetAt p.1 (fun c s x => Plain s x ∧
        Resident s c (c.gaddr x) (p.2 c.w.mod) false e ∧ (p.1 = .ld → modField c.w.mod 6 2 = 3) ∧ s.l1Line? c.core (e.line (c.gaddr x)) = none ∧
        AtHome s x.id (e.line (c.gaddr x))) (wd (if p.1 = .ld then 0xC5 else 5) (pr 8) (pr 4) (r 0) 56) (paged) (wave [f0]) (f0)) :=
  ⟨⟨te, theLine, by decide +kernel⟩,
   ⟨te, theLine, by decide +kernel⟩,
   ⟨te, by decide +kernel⟩,
   ⟨te, by decide +kernel⟩⟩

theorem witness_AcquireResults :
    (∃ e, MetAt Op.lda (fun c s x => Plain s x ∧ Resident s c (c.gaddr x) (szBytes c.w.mod) false e ∧
        s.wide (s.whoOf c x) (memScope c.w.mod) = true ∧ (s.launch? c.launch).bind Launch.span = none ∧
        s.l1Line? c.core (e.line (c.gaddr x)) = none ∧
        AtHome s x.id (e.line (c.gaddr x))) (wd 0x15 (pr 8) (pr 4) (r 0) 56) (paged) (wave [f0]) (f0)) ∧
    (∃ e l, MetAt Op.lda (fun c s x => Plain s x ∧ Resident s c (c.gaddr x) (szBytes c.w.mod) false e ∧
        s.wide (s.whoOf c x) (memScope c.w.mod) = false ∧ (s.launch? c.launch).bind Launch.span = none ∧
        s.l1Line? c.core (e.line (c.gaddr x)) = some l ∧ SoundL1 s (e.line (c.gaddr x)) l ∧
        l.valid &&& byteMask (e.at_ (c.gaddr x) % 64) (szBytes c.w.mod) = byteMask (e.at_ (c.gaddr x) % 64) (szBytes c.w.mod)) (wd 0x0C (r 8) (pr 4) (r 0) 60) (cached) (wave [f0]) (f0)) ∧
    (∃ e l, MetAt Op.pref (fun c s x => Resident s c (c.gaddr x) 1 false e ∧ modField c.w.mod 6 2 = 0 ∧
        s.l1Line? c.core (e.line (c.gaddr x)) = some l ∧ SoundL1 s (e.line (c.gaddr x)) l ∧
        l.valid = BitVec.allOnes 64) (wd 0 (r 0) (pr 4) (r 0) 63) (cached) (wave [f0]) (f0)) :=
  ⟨⟨te, by decide +kernel⟩,
   ⟨te, theLine, by decide +kernel⟩,
   ⟨te, theLine, by decide +kernel⟩⟩

theorem witness_StoreResults :
    (∃ e l, MetAt Op.st (fun c s x => Plain s x ∧ Resident s c (c.gaddr x) (szBytes c.w.mod) true e ∧ modField c.w.mod 6 2 ≠ 3 ∧
        s.l1Line? c.core (e.line (c.gaddr x)) = some l) (wd 5 (r 0) (pr 4) (pr 8) 56) (cached) (wave [f0]) (f0)) ∧
    (∃ e, MetAt Op.st (fun c s x => Plain s x ∧ Resident s c (c.gaddr x) (szBytes c.w.mod) true e ∧ modField c.w.mod 6 2 = 3 ∧
        s.l1Line? c.core (e.line (c.gaddr x)) = none ∧ AtHome s x.id (e.line (c.gaddr x))) (wd 0xC0 (r 0) (pr 4) (r 8) 63) (paged) (wave [f0]) (f0)) ∧
    (∃ e, MetAt Op.stl (fun c s x => Plain s x ∧ Resident s c (c.gaddr x) (szBytes c.w.mod) true e ∧
        s.wide (s.whoOf c x) (memScope c.w.mod) = true ∧ (s.launch? c.launch).bind Launch.span = none ∧ x.dues = [] ∧
        (∀ r ∈ s.fwds, r.posted = false ∨ r.fibre ≠ x.id) ∧ CleanL1 s c.core ∧ s.l1Line? c.core (e.line (c.gaddr x)) = none ∧
        AtHome s x.id (e.line (c.gaddr x))) (wd 0x14 (r 0) (pr 4) (r 8) 60) (paged) (wave [f0]) (f0)) ∧
    (∃ (k : Nat) (n : Nat) (j : Nat), k + n ≤ 64 ∧ j < 64) ∧
    (∃ (k : Nat) (n : Nat) (j : Nat), k + n ≤ 64 ∧ j < 64) :=
  ⟨⟨te, theLine, by decide +kernel⟩,
   ⟨te, by decide +kernel⟩,
   ⟨te, by decide +kernel⟩,
   ⟨62, 2, 63, by decide +kernel⟩,
   ⟨62, 2, 0, by decide +kernel⟩⟩

theorem witness_ScratchpadResults :
    (∃ t, MetAt Op.lds (fun c s x => OwnBytes s x t (c.saddr x) (szBytes c.w.mod)) (wd 2 (r 8) (r 2) (r 0) 0xFFFC) (st [f0]) (wave [f0]) (f0)) ∧
    (∃ t, MetAt Op.sts (fun c s x => OwnBytes s x t (c.saddr x) (szBytes c.w.mod)) (wd 5 (r 0) (r 2) (pr 8) 0xFFF8) (st [f0]) (wave [f0]) (f0)) ∧
    (∃ t, MetAt Op.ldfe (fun c s x => OwnBytes s x t (c.saddr x) (szBytes c.w.mod) ∧ t.isFull (c.saddr x) = true ∧
        c.det = false) (wd 0x45 (pr 8) (r 2) (r 0) 0xFFF8) ((st [f0]).setTeam (theTeam.setFull 0xFFF8 true)) (wave [f0]) (f0)) ∧
    (∃ t, MetAt Op.stfe (fun c s x => OwnBytes s x t (c.saddr x) (szBytes c.w.mod)) (wd 2 (r 0) (r 2) (r 8) 0xFFFC) (st [f0]) (wave [f0]) (f0)) ∧
    (∃ t u, MetAt Op.ldx (fun c s x => SiblingBytes s x t u c.w.b.n.toNat (c.saddr x) (szBytes c.w.mod) ∧
        c.served x = false) (wd 6 (pr 8) (r 2) (r 0) 0xFFF0) (st [f0]) (wave [f0]) (f0)) ∧
    (∃ t u, MetAt Op.stx (fun c s x => SiblingBytes s x t u c.w.d.n.toNat (c.saddr x) (szBytes c.w.mod) ∧
        c.served x = false) (wd 6 (r 0) (r 2) (pr 8) 0xFFF0) (st [f0]) (wave [f0]) (f0)) ∧
    (MetAt Op.ldc (fun c _ x => c.saddr x % szBytes c.w.mod = 0 ∧ c.saddr x < 65536) (wd 5 (pr 8) (r 2) (r 0) 0xFFF8) (st [f0]) (wave [f0]) (f0)) ∧
    (∃ t, ∀ p ∈ [(Op.atoms, Ctx.intOp, true), (Op.freds, Ctx.fpOp, false), (Op.cass, Ctx.casOp, true)],
        MetAt p.1 (fun c s x => OwnBytes s x t (c.a x).toNat (p.2.1 c x).bytes) (wd 0 (r 0) (r 2) (r 3)) (st [fib [1, 0, 0xFFFC]]) (wave [fib [1, 0,
        0xFFFC]]) (fib [1, 0, 0xFFFC])) ∧
    (∃ m : Memory, m.wf) :=
  ⟨⟨theTeam, by decide +kernel⟩,
   ⟨theTeam, by decide +kernel⟩,
   ⟨theTeam.setFull 0xFFF8 true, by decide +kernel⟩,
   ⟨theTeam, by decide +kernel⟩,
   ⟨theTeam, theTeam, by decide +kernel⟩,
   ⟨theTeam, theTeam, by decide +kernel⟩,
   by decide +kernel,
   ⟨theTeam, by decide +kernel⟩,
   ⟨Memory.setN [] 0xFFFF 1 7, by decide +kernel⟩⟩

theorem witness_AtomicResults :
    (∃ e, ∀ p ∈ [(Op.atom, Ctx.intOp, true), (Op.red, Ctx.intOp, false), (Op.cas, Ctx.casOp, true), (Op.fred, Ctx.fpOp, false), (Op.fatom, Ctx.fpOp,
        true)], let n := fun (c : Ctx) x => (p.2.1 c x).bytes; let line := fun (c : Ctx) x => e.line (c.a64 x);
        let k := fun (c : Ctx) x => e.at_ (c.a64 x) % 64;
        let old := fun (c : Ctx) (s : State) x => lineBytes ((s.granted e (c.a64 x)).mem.l2Fill (line c x)).1.data (k c x) (n c x);
        MetAt p.1 (fun c s x => Plain s x ∧ Resident s c (c.a64 x) (n c x) true e ∧ s.l1Line? c.core (line c x) = none ∧
        AtHome s x.id (line c x)) (wd 0 (r 0) (pr 4) (r 6)) (paged) (wave [f0]) (f0)) ∧
    (∃ old b : Nat, old < 2 ^ 32 ∧ b < 2 ^ 32) :=
  ⟨⟨te, by decide +kernel⟩,
   ⟨0xFFFFFFFF, 0, by decide⟩⟩

theorem witness_OrderedResults :
    (∃ e l tm, ∀ p ∈ [(Op.atomo, Ctx.intOp, true), (Op.caso, Ctx.casOp, true), (Op.fredo, Ctx.fpOp, false), (Op.fatomo, Ctx.fpOp, true)],
        MetAt p.1 (fun c s x => x.held = [] ∧ Resident s c (c.a64 x) (p.2.1 c x).bytes true e ∧ s.l1Line? c.core (e.line (c.a64 x)) = none ∧
        s.launch? c.launch = some l ∧ s.teamOf? c.wv.crew = some tm ∧ x.seq < 2 ^ 20 ∧
        s.drainerHolds l.id (l.drainerOf (match c.wv.crew with | .team _ t _ => t | .item .. => 0)) + 1 ≤ 256 + l.spill) (wd 0 (r 0) (pr 4) (r 6)) (paged) (wave [f0]) (f0)) ∧
    (MetAt Op.aflush (fun c s x => ((x.endRound.phase.map BitVec.toNat).getD 0) < ((s.launch? c.launch).map Launch.closed).getD 0) (word 0 0 0 0) ((st [f0]).setLaunch { theLaunch with closed := 1 }) (wave [f0]) (f0)) :=
  ⟨⟨te, theLaunch, theTeam, by decide +kernel⟩,
   by decide +kernel⟩

theorem witness_SynchronisationResults :
    (MetAt Op.fence (fun c s x => Quiet s c.core x ∧ NoSpan s c) (word 0x0C 0 0 0) (cached) (wave [f0]) (f0)) ∧
    (∀ op ∈ [Op.cwb, Op.cinv], MetAt op (fun c _ x => (c.b x).toNat = 0) (wd 0 (r 0) (pr 4) (r 2)) (st [f0]) (wave [f0]) (f0)) ∧
    (MetAt Op.dfence (fun c s x => (c.b x).toNat = 0 ∧ NoSpan s c) (wd 4 (r 0) (pr 4) (r 2)) (st [f0]) (wave [f0]) (f0)) ∧
    (∃ e, ∀ p ∈ [(Op.cwb, false), (Op.cinv, true)], MetAt p.1 (fun c s x => Resident s c (c.a64 x) 1 false e ∧ CleanL1 s c.core ∧
        (c.b x).toNat ≠ 0 ∧ (c.a64 x).toNat / 32768 = ((c.a64 x).toNat + (c.b x).toNat - 1) / 32768) (wd 0 (r 0) (pr 4) i1 32768) (cached) (wave [f0]) (f0)) ∧
    (MetAt Op.acqp (fun c s x => (c.a x).toNat < ((s.launch? c.launch).map Launch.nteams).getD 0 ∧
        s.team? c.launch (c.a x).toNat = none) (word 0 0 2 0) ({ st [fib [1, 0, 1]] with launches := [{ theLaunch with nteams := 2 }] }) (wave [fib [1,
        0, 1]]) (fib [1, 0, 1])) ∧
    (∃ t, MetAt Op.acqp (fun c s x => (c.a x).toNat < ((s.launch? c.launch).map Launch.nteams).getD 0 ∧ s.team? c.launch (c.a x).toNat = some t ∧
        CleanL1 s t.core) (word 0 0 2 0) (st [f0]) (wave [f0]) (f0)) :=
  ⟨by decide +kernel,
   by decide +kernel,
   by decide +kernel,
   ⟨te, by decide +kernel⟩,
   by decide +kernel,
   ⟨theTeam, by decide +kernel⟩⟩

theorem witness_TransactionResults :
    (MetAt Op.txb (fun _ _ x => x.needsToken = false) (word 0 0 0 0 24) (st [f0]) (wave [f0]) (f0)) ∧
    (∃ t, MetAt Op.txo (fun c s x => x.needsToken = false ∧ s.teamOf? c.wv.crew = some t ∧ ((c.a x).setWidth 24 - t.ocur).toNat < 2 ^ 23 ∧
        (s.openIters t.launch t.id).contains ((c.a x).setWidth 24) = false) (wd 0 (r 0) (r 2) (r 0) 24) (st [f0]) (wave [f0]) (f0)) ∧
    (∃ t, MetAt Op.txe (fun c s x => x.tx = some t ∧ t.iter = none ∧ Quiet s c.core x ∧ (∀ l ∈ t.lines, s.mem.heldAt (linePa l) = false) ∧
        s.firstPhase x.id t = none ∧ ∀ g ∈ s.fibres, g.id ≠ x.id → g.id.crew = c.wv.crew → g.home = c.wv.home →
        g.txDefer = 0) (word 0 0 0 0) (st [{ f0 with tx := some ({ byVal := true, iter := none, irrev := false, target := 24, opener := 0 } : Tx) }]) (wave [{ f0 with tx := some ({ byVal := true, iter := none, irrev := false, target := 24, opener := 0 } : Tx) }]) ({ f0 with tx := some ({ byVal := true, iter := none, irrev := false, target := 24, opener := 0 } : Tx) })) ∧
    (∃ t tm, MetAt Op.txoe (fun c s x => x.tx = some t ∧ t.iter = some tm.ocur ∧ x.txSettled = none ∧ s.teamOf? c.wv.crew = some tm ∧
        Quiet s c.core x ∧ (∀ l ∈ t.lines, s.mem.heldAt (linePa l) = false) ∧ s.firstPhase x.id t = none ∧
        ∀ g ∈ s.fibres, g.tx = none ∨ g.tx = some t) (word 0 0 0 0) (st [{ f0 with tx := some ({ byVal := true, iter := some 0, irrev := false, target := 24, opener := 0 } : Tx) }]) (wave [{ f0 with tx := some ({ byVal := true, iter := some 0, irrev := false, target := 24, opener := 0 } : Tx) }]) ({ f0 with tx := some ({ byVal := true, iter := some 0, irrev := false, target := 24, opener := 0 } : Tx) })) ∧
    (MetAt Op.txa (fun _ _ x => x.tx.isSome) (word 0 0 0 0) (st [{ f0 with tx := some ({ byVal := true, iter := none, irrev := false, target := 24, opener := 0 } : Tx) }]) (wave [{ f0 with tx := some ({ byVal := true, iter := none, irrev := false, target := 24, opener := 0 } : Tx) }]) ({ f0 with tx := some ({ byVal := true, iter := none, irrev := false, target := 24, opener := 0 } : Tx) })) ∧
    (∃ e, MetAt Op.ldnt (fun c s x => x.held = [] ∧ Unowned s ∧ Resident s c (c.gaddr x) (szBytes c.w.mod) false e ∧
        s.l1Line? c.core (e.line (c.gaddr x)) = none ∧ AtHome s x.id (e.line (c.gaddr x))) (wd 5 (pr 8) (pr 4) (r 0) 56) (paged) (wave [f0]) (f0)) :=
  ⟨by decide +kernel,
   ⟨theTeam, by decide +kernel⟩,
   ⟨({ byVal := true, iter := none, irrev := false, target := 24, opener := 0 } : Tx), by decide +kernel⟩,
   ⟨({ byVal := true, iter := some 0, irrev := false, target := 24, opener := 0 } : Tx), theTeam, by decide +kernel⟩,
   by decide +kernel,
   ⟨te, by decide +kernel⟩⟩

theorem witness_FailedChecksTrap :
    (∃ (op : Op) (w : Fields) (s : State) (wv : Wave) (fs : List Fibre) (f : Fibre) (e : Cause) (l : Launch) (o : Object),
        s.cur.bind s.wave? = some wv ∧ s.waveFibres wv = f :: fs ∧ s.duesAt op wv.crew.launch (f :: fs) f.pc = [] ∧ wv.reissue = false ∧ s.Calm ∧
        Trappable s wv (f :: fs) l o ∧ decodeCheck s op w f = some e) ∧
    (∃ (op : Op) (w : Fields) (s : State) (wv : Wave) (fs : List Fibre) (f : Fibre) (e : Cause) (l : Launch) (o : Object),
        s.cur.bind s.wave? = some wv ∧ s.waveFibres wv = f :: fs ∧ s.duesAt op wv.crew.launch (f :: fs) f.pc = [] ∧ wv.reissue = false ∧ s.Calm ∧
        Trappable s wv (f :: fs) l o ∧ decodeCheck s op w f = some e) ∧
    (∃ (op : Op) (w : Fields) (s : State) (f : Fibre), op.reservedSlot w = none ∧ op.privileged = true ∧ s.priv f = false) ∧
    (∃ (s : State) (wv : Wave) (fs : List Fibre) (f : Fibre) (l : Launch) (o : Object), s.cur.bind s.wave? = some wv ∧ s.waveFibres wv = f :: fs ∧
        (∀ g ∈ f :: fs, g.dues = []) ∧ wv.reissue = false ∧ s.Calm ∧ Trappable s wv (f :: fs) l o) ∧
    (∃ (s : State) (wv : Wave) (fs : List Fibre) (f : Fibre) (l : Launch) (o : Object), s.cur.bind s.wave? = some wv ∧ s.waveFibres wv = f :: fs ∧
        (∀ g ∈ f :: fs, g.dues = []) ∧ wv.reissue = false ∧ s.Calm ∧ Trappable s wv (f :: fs) l o) ∧
    (∃ (op : Op) (w : Fields) (s : State) (wv : Wave) (f : Fibre) (l : Launch) (o : Object), s.cur.bind s.wave? = some wv ∧ s.waveFibres wv = [f] ∧
        s.duesAt op wv.crew.launch [f] f.pc = [] ∧ decodeCheck s op w f = none ∧ mustWait op w [f] = false ∧ breach op w f = none ∧
        f.active w.guard = true ∧ f.labels = [] ∧ (f.isItem && op.teamOnly) = false ∧ f.txSettled = none ∧ f.badRead f op w = true ∧
        wv.reissue = false ∧ s.Calm ∧ Trappable s wv [f] l o) :=
  ⟨⟨.iadd, { wd 0 (r 1) (r 2) (r 3) with rsv := 1 }, at_FailedChecksTrap1, wave [f0, lane 31 [1]], [lane 31 [1]], f0, insnReserved 0, theLaunch,
        runtimeObject 4, by decide +kernel⟩,
   ⟨.tzero, wd 0 (r 16) (r 0) (r 0), at_FailedChecksTrap2, theWave, [], f0, insnOperand 1, theLaunch, runtimeObject 4, by decide +kernel⟩,
   ⟨.eret, wd 0 (r 0) (r 0) (r 0), at_FailedChecksTrap3, f0, by decide +kernel⟩,
   ⟨at_FailedChecksTrap4, theWave, [], f0, theLaunch, runtimeObject 4, by decide +kernel⟩,
   ⟨at_FailedChecksTrap5, theWave, [], f0, theLaunch, runtimeObject 4, by decide +kernel⟩,
   ⟨.iadd, wd 0 (r 1) (r 2) (r 3), at_FailedChecksTrap6, theWave, { f0 with poison := [2] }, theLaunch, runtimeObject 4, by decide +kernel⟩⟩

theorem witness_UnguardedOpcodes :
    ∀ op ∈ [Op.rgn, .meet, .acq, .shed, .bar, .gbar, .aflush], ∃ w s wv fs f l o, s.cur.bind s.wave? = some wv ∧ s.waveFibres wv = f :: fs ∧
        s.duesAt op wv.crew.launch (f :: fs) f.pc = [] ∧ wv.reissue = false ∧ s.Calm ∧ Trappable s wv (f :: fs) l o ∧ op.reservedSlot w = none ∧
        w.guard ≠ 0 := fun op h => ⟨unguarded op, st [f0], theWave, [], f0, theLaunch, runtimeObject 4, (by decide +kernel : ∀ op ∈ [Op.rgn, .meet,
        .acq, .shed, .bar, .gbar, .aflush], (st [f0]).cur.bind (st [f0]).wave? = some theWave ∧ (st [f0]).waveFibres theWave = f0 :: [] ∧
        (st [f0]).duesAt op theWave.crew.launch (f0 :: []) f0.pc = [] ∧ theWave.reissue = false ∧ (st [f0]).Calm ∧
        Trappable (st [f0]) theWave (f0 :: []) theLaunch (runtimeObject 4) ∧ op.reservedSlot (unguarded op) = none ∧ (unguarded op).guard ≠ 0) op h⟩

theorem witness_GuardedOff :
    ∃ (op : Op) (w : Fields) (s : State) (wv : Wave) (fs : List Fibre) (f : Fibre), s.cur.bind s.wave? = some wv ∧ s.waveFibres wv = fs ∧
        fs.head? = some f ∧ s.duesAt op wv.crew.launch fs f.pc = [] ∧ decodeCheck s op w f = none ∧ mustWait op w fs = false ∧
        (∀ g ∈ fs, breach op w g = none) ∧ (∀ g ∈ fs, g.active w.guard = false) ∧ (op = .txoe → ∀ g ∈ fs, g.txSettled = none) ∧ wv.reissue = false ∧
        s.Calm := ⟨.iadd, { wd 0 (r 1) (r 2) (r 3) with guard := 32 }, at_GuardedOff1, wave [f0, lane 31 [1]], [f0, lane 31 [1]], f0,
        by decide +kernel⟩

theorem witness_CallsToTheRuntime :
    (∃ (w : Fields) (s : State) (wv : Wave) (fs : List Fibre) (f : Fibre) (l : Launch) (o : Object), ∀ p ∈ [(Op.trap, 0), (Op.bkpt, 1)],
        Issues p.1 w s wv fs f ∧ Trappable s wv fs l o) ∧
    (∃ (d : Due), causeIsTrans d.cause = false) ∧
    (∃ (d : Due), causeIsTrans d.cause = true ∧ d.kind = 0) :=
  ⟨⟨{ wd 0 (r 0) (r 2) (r 0) with guard := 1 }, at_CallsToTheRuntime1, wave [fib [3, 0, 7], lane 31 [1]], [fib [3, 0, 7], lane 31 [1]], fib [3, 0,
        7], theLaunch, runtimeObject 4, by decide +kernel⟩,
   ⟨{ cause := insnGuard, info0 := 9 }, by decide +kernel⟩,
   ⟨{ cause := trans 0 0 false, info0 := 9 }, by decide +kernel⟩⟩

theorem witness_SystemCall :
    ∃ (w : Fields) (s : State) (wv : Wave) (fs : List Fibre) (f : Fibre) (l : Launch) (o : Object), Issues .svc w s wv fs f ∧
        Trappable s wv fs l o ∧ (s.ilen = 12 ∨ s.ilen = 2) := ⟨{ wd 0 (r 0) (r 2) (r 0) with guard := 1 }, at_SystemCall1, wave [fib [3, 0, 7],
        lane 31 [1]], [fib [3, 0, 7], lane 31 [1]], fib [3, 0, 7], theLaunch, runtimeObject 4, by decide +kernel⟩

theorem witness_ReturnFromTrap :
    ∃ r, MetAt Op.eret (fun _ _ x => x.inTrap = some r ∧
        r.resume = .atPc) (word 0 0 0 0) (st [{ f0 with inTrap := some ({ resume := .atPc, obj := 3, meet := 1 } : InTrap) }]) (wave [{ f0 with inTrap := some ({ resume := .atPc, obj := 3, meet := 1 } : InTrap) }]) ({ f0 with inTrap := some ({ resume := .atPc, obj := 3, meet := 1 } : InTrap) }) := ⟨({ resume := .atPc, obj := 3, meet := 1 } : InTrap),
        by decide +kernel⟩

theorem witness_SpecialRegisters :
    (∃ v, MetAt Op.gets (fun c s x => getsWord s x (c.a x).toNat = some v ∧ ((c.a x).toNat = 0x011 → (∀ o ∈ s.tileOps, x.id ∉ o.fibres) ∧
        ∀ p ∈ x.pend, p.fp = false)) (wd 0 (r 8) i1 (r 0) 0x000) (st [f0]) (wave [f0]) (f0)) ∧
    (∃ v, MetAt Op.gets (fun c s x => getsWord s x (c.a x).toNat = some v ∧ ((c.a x).toNat = 0x011 → (∀ o ∈ s.tileOps, x.id ∉ o.fibres) ∧
        ∀ p ∈ x.pend, p.fp = false)) (wd 0 (r 8) i1 (r 0) 0x011) (st [f0]) (wave [f0]) (f0)) ∧
    (MetAt Op.sets (fun c _ x => (c.a x).toNat = 0x010 ∧ (c.b x).toNat % 8 ≤ 4) (word 0 0 2 3) (st [fib [1, 0, 0x10, 0x1C]]) (wave [fib [1, 0, 0x10,
        0x1C]]) (fib [1, 0, 0x10, 0x1C])) ∧
    (MetAt Op.sets (fun c _ x => (c.a x).toNat = 0x011) (word 0 0 2 3) (st [fib [1, 0, 0x11, 0xFFFFFFFF]]) (wave [fib [1, 0, 0x11,
        0xFFFFFFFF]]) (fib [1, 0, 0x11, 0xFFFFFFFF])) ∧
    (∃ t, MetAt Op.sets (fun c s x => s.teamOf? x.id.crew = some t ∧ (c.a x).toNat = 0x012 ∧
        (c.b x).toNat / 2 ^ 23 % 256 ≠ 255) (word 0 0 2 3) (st [fib [1, 0, 0x12, 0xFF7FFFFF]]) (wave [fib [1, 0, 0x12, 0xFF7FFFFF]]) (fib [1, 0,
        0x12, 0xFF7FFFFF])) ∧
    (∃ t, MetAt Op.sets (fun c s x => s.teamOf? x.id.crew = some t ∧ (c.a x).toNat = 0x013) (word 0 0 2 3) (st [fib [1, 0, 0x13,
        0xFFFFFFFF]]) (wave [fib [1, 0, 0x13, 0xFFFFFFFF]]) (fib [1, 0, 0x13, 0xFFFFFFFF])) ∧
    (∃ t, MetAt Op.sets (fun c s x => s.teamOf? x.id.crew = some t ∧ (c.a x).toNat = 0x015 ∧
        s.orderedOpen t.launch t.id = false) (word 0 0 2 3) (st [fib [1, 0, 0x15, 0xFFFFFFFF]]) (wave [fib [1, 0, 0x15, 0xFFFFFFFF]]) (fib [1, 0,
        0x15, 0xFFFFFFFF])) ∧
    (∃ v, MetAt Op.getp (fun c s x => s.getp x (c.a x).toNat = some v) (wd 0 (pr 8) i1 (r 0) 0x005) (st [f0]) (wave [f0]) (f0)) ∧
    (MetAt Op.setp (fun c _ x => (c.a x).toNat = 0x002) (wd 0 (r 0) (r 2) (pr 4)) (st [fib [1, 0, 2, 0, 24]]) (wave [fib [1, 0, 2, 0, 24]]) (fib [1,
        0, 2, 0, 24])) ∧
    (∃ l, MetAt Op.setp (fun c s x => (c.a x).toNat = 0x000 ∧ s.launch? c.launch = some l) (wd 0 (r 0) (r 2) (pr 4)) (st [fib [1, 0, 0, 0, 24,
        3]]) (wave [fib [1, 0, 0, 0, 24, 3]]) (fib [1, 0, 0, 0, 24, 3])) ∧
    (∀ i ∈ [0x001, 0x003, 0x004, 0x005, 0x007, 0x008],
        MetAt Op.setp (fun c _ x => (c.a x).toNat = i) (wd 0 (r 0) i1 (pr 4) (BitVec.ofNat 32 i)) (st [f0]) (wave [f0]) (f0)) ∧
    (MetAt Op.setp (fun c _ x => (c.a x).toNat = 0x100 + 63) (wd 0 (r 0) i1 (pr 4) 0x13F) (st [fib [1, 0, 0, 0, 64, 0xFFFFF]]) (wave [fib [1, 0, 0,
        0, 64, 0xFFFFF]]) (fib [1, 0, 0, 0, 64, 0xFFFFF])) ∧
    (∃ n, n < 16 ∧ MetAt Op.setp ((fun c s x => (c.a x).toNat = 0x010 + n ∧ ∀ v ∈ s.mem.dieVeins (n / 2), v.hash.en = true →
        v.hold.isSome = true)) (wd 0 (r 0) i1 (pr 4) 0x01F) (holding 14) (wave [f0]) f0) :=
  ⟨⟨0, by decide +kernel⟩,
   ⟨0, by decide +kernel⟩,
   by decide +kernel,
   by decide +kernel,
   ⟨theTeam, by decide +kernel⟩,
   ⟨theTeam, by decide +kernel⟩,
   ⟨theTeam, by decide +kernel⟩,
   ⟨3, by decide +kernel⟩,
   by decide +kernel,
   ⟨theLaunch, by decide +kernel⟩,
   by decide +kernel,
   by decide +kernel,
   ⟨15, by decide, by decide +kernel⟩⟩

theorem witness_CodebookResults :
    (∃ t, ∀ p ∈ [(Op.pk4, fun (c : Ctx) x => packFrom c x (.ofCode (modField c.w.mod 4 3)) (if Nf.ofCode (modField c.w.mod 4 3) == .cb4 then t.book ((c.b x).toNat % 8) else []) 8),
        (Op.upk4, fun c x => unpackPair c x (.ofCode (modField c.w.mod 4 3)) (if Nf.ofCode (modField c.w.mod 4 3) == .cb4 then t.book ((c.b x).toNat / 16 % 8) else []) ((c.b x).toNat % 4)),
        (Op.cbenc, fun c x => c.putD x (BitVec.ofNat 32 (cb4Encode (t.book ((c.b x).toNat % 8)) (bf16.decode ((c.a x).toNat % 2 ^ 16))))),
        (Op.cbdec, fun c x => c.putD x (((t.book ((c.b x).toNat % 8)).getD ((c.a x).toNat % 16) 0).setWidth 32))],
        MetAt p.1 (fun _ s x => s.teamOf? x.id.crew = some t) (match p.1 with | .pk4 => wd 0x40 (r 20) (r 8) (r 2) | .upk4 => wd 0x40 (pr 20) (r 8) (r 2) | _ => wd 0 (r 20) (r 8) (r 2)) (st [f0]) (wave [f0]) (f0)) ∧
    (MetWave Op.sppk (fun c _ => ∀ x ∈ c.act, ((List.range 16).filter (fun k => (c.b x).getLsbD k)).length = spN c.w.mod) (wd 0 (r 20) (r 8) (r 2)) (st [fib [1,
        0, 0xFFFF8001]]) (wave [fib [1, 0, 0xFFFF8001]]) [fib [1, 0, 0xFFFF8001]] (fib [1, 0, 0xFFFF8001])) ∧
    (MetWave Op.spupk (fun c _ => ∀ x ∈ c.act, ascending ((List.range (spN c.w.mod)).map (fun k => (x.reg (c.w.a.n.toNat + spK c.w.mod)).toNat / 16 ^ k % 16)) = true) (wd 0 (r 20) (r 8) (r 0)) (st [fib [1,
        0, 0, 0, 0, 0, 0, 0, 0x21, 0xF0]]) (wave [fib [1, 0, 0, 0, 0, 0, 0, 0, 0x21, 0xF0]]) [fib [1, 0, 0, 0, 0, 0, 0, 0, 0x21, 0xF0]] (fib [1, 0,
        0, 0, 0, 0, 0, 0, 0x21, 0xF0])) ∧
    (MetAt Op.qblk (fun _ _ _ => True) (wd 4 (pr 20) (r 8) (r 0)) (st [f0]) (wave [f0]) (f0)) ∧
    (∃ t, MetWave Op.cbld (fun c s => (c.b c.lead).toNat < 8 ∧ s.teamOf? c.lead.id.crew = some t ∧ (c.a c.lead).toNat % 16 = 0 ∧
        (c.a c.lead).toNat + 32 ≤ t.spSize ∧ t.bad (c.a c.lead).toNat 32 = false ∧ ∀ o ∈ s.tileOps, o.launch = t.launch → o.team = t.id →
        bookRead (c.b c.lead).toNat ∉ o.reads) (wd 0 (r 0) (r 2) (r 3)) (st [fib [1, 0, 0xFFE0, 7]]) (wave [fib [1, 0, 0xFFE0, 7]]) [fib [1, 0,
        0xFFE0, 7]] (fib [1, 0, 0xFFE0, 7])) ∧
    (MetWave Op.sppk (fun c _ => ∀ x ∈ c.act, ((List.range 16).filter (fun k => (c.b x).getLsbD k)).length = spN c.w.mod) (wd 0 (r 20) (r 8) (r 2)) (st [lane 0 [1,
        0, 0xFFFF8001], lane 31 [1, 0, 0x0201]]) (wave [lane 0 [1, 0, 0xFFFF8001], lane 31 [1, 0, 0x0201]]) [lane 0 [1, 0, 0xFFFF8001], lane 31 [1,
        0, 0x0201]] (lane 0 [1, 0, 0xFFFF8001])) ∧
    (MetWave Op.spupk (fun c _ => ∀ x ∈ c.act, ascending ((List.range (spN c.w.mod)).map (fun k => (x.reg (c.w.a.n.toNat + spK c.w.mod)).toNat / 16 ^ k % 16)) = true) (wd 0 (r 20) (r 8) (r 0)) (st [lane 0 [1,
        0, 0, 0, 0, 0, 0, 0, 0x21, 0xF0], lane 31 [1, 0, 0, 0, 0, 0, 0, 0, 5, 0xA3]]) (wave [lane 0 [1, 0, 0, 0, 0, 0, 0, 0, 0x21, 0xF0],
        lane 31 [1, 0, 0, 0, 0, 0, 0, 0, 5, 0xA3]]) [lane 0 [1, 0, 0, 0, 0, 0, 0, 0, 0x21, 0xF0], lane 31 [1, 0, 0, 0, 0, 0, 0, 0, 5,
        0xA3]] (lane 0 [1, 0, 0, 0, 0, 0, 0, 0, 0x21, 0xF0])) :=
  ⟨⟨theTeam, by decide +kernel⟩,
   by decide +kernel,
   by decide +kernel,
   by decide +kernel,
   ⟨theTeam, by decide +kernel⟩,
   by decide +kernel,
   by decide +kernel⟩

theorem witness_DictionaryMarks :
    (∃ (e : BitVec 2) (x : BitVec 8) (s : State) (d : BitVec 96) (op : Op), s.entryAt (256 * e.toNat + x.toNat) = some d ∧
        isMarkByte (BitVec.ofNat 8 d.toNat) = false ∧ (Fields.ofNat d.toNat).rsv = 0 ∧ Op.ofCode (d.toNat % 256) = some op) ∧
    (∃ (e : BitVec 2) (x : BitVec 8) (s : State), s.entryAt (256 * e.toNat + x.toNat) = none) ∧
    (∃ (e : BitVec 2) (x : BitVec 8) (s : State) (d : BitVec 96) (wv : Wave) (fs : List Fibre) (f : Fibre),
        s.entryAt (256 * e.toNat + x.toNat) = some d ∧ d.toNat % 256 = 0 ∧ (Fields.ofNat d.toNat).rsv = 0 ∧
        Issues .nop (Fields.ofNat d.toNat) { s with ilen := 2 } wv fs f) :=
  ⟨⟨3, 0xFF, at_DictionaryMarks1, 0x20, .iadd, by decide +kernel⟩,
   ⟨0, 0, at_DictionaryMarks2, by decide +kernel⟩,
   ⟨0, 0, at_DictionaryMarks3, 0, theWave, [f0], f0, by decide +kernel⟩⟩

theorem witness_MeetingPoints :
    (∃ (w : Fields) (s : State) (wv : Wave) (f : Fibre), IssuesOne .rgn w s wv f ∧ wv.lanes = lanesOf [f]) ∧
    (∃ (w : Fields) (s : State) (wv : Wave) (f : Fibre), IssuesOne .rgn w s wv f ∧ wv.lanes = lanesOf [f]) ∧
    (∃ (w : Fields) (s : State) (wv : Wave) (f : Fibre), IssuesOne .meet w s wv f ∧ Alone s wv [f] ∧ wv.meet = wv.lanes) ∧
    (∃ (w : Fields) (s : State) (wv : Wave) (f : Fibre), IssuesOne .meet w s wv f ∧ Alone s wv [f] ∧ wv.meet = wv.lanes) ∧
    (∃ (w : Fields) (s : State) (wv : Wave) (f : Fibre), ∀ p ∈ [(Op.bar, Wait.bar), (Op.gbar, Wait.gbar)], IssuesOne p.1 w s wv f) ∧
    (∃ (s : State) (v : Wave) (f : Fibre), s.ev.gangWide = false ∧ s.barReady s.ev.launch s.ev.team = some [v] ∧ s.waveFibres v = [f]) ∧
    (∃ (s : State) (v : Wave) (f : Fibre), s.ev.gangWide = true ∧ s.gbarReady s.ev.launch s.ev.gang = some [v] ∧ s.waveFibres v = [f] ∧
        (∀ k ∈ s.cores, ∀ l ∈ k.l1, l.dirty = 0)) :=
  ⟨⟨wd 0 (r 0) (r 32) i1 0x80004001, at_MeetingPoints1, theWave, f0, by decide +kernel⟩,
   ⟨wd 0 (r 0) (r 32) i1 0, at_MeetingPoints2, theWave, f0, by decide +kernel⟩,
   ⟨wd 0 (r 0) (r 0) (r 0), at_MeetingPoints3, theWave, { f0 with labels := [0, 24] }, by decide +kernel⟩,
   ⟨wd 0 (r 0) (r 0) (r 0), at_MeetingPoints4, theWave, f0, by decide +kernel⟩,
   ⟨wd 0 (r 0) (r 0) (r 0), at_MeetingPoints5, theWave, f0, by decide +kernel⟩,
   ⟨at_MeetingPoints6, { theWave with wait := some .bar, fall := 24 }, f0, by decide +kernel⟩,
   ⟨at_MeetingPoints7, { theWave with wait := some .gbar, fall := 24 }, f0, by decide +kernel⟩⟩

theorem witness_ForkAndEnd :
    (∃ (w : Fields) (s : State) (wv : Wave) (f : Fibre), IssuesOne .fork w s wv f ∧ codeOk s f.obj (f.pc + w.imm) = true ∧ f.dues = [] ∧
        f.held = [] ∧ (∀ r ∈ s.fwds, r.posted = false ∨ r.fibre ≠ f.id)) ∧
    (∃ (w : Fields) (s : State) (wv : Wave) (f : Fibre), IssuesOne .fork w s wv f ∧ codeOk s f.obj (f.pc + w.imm) = true ∧ f.dues = [] ∧
        f.held = [] ∧ (∀ r ∈ s.fwds, r.posted = false ∨ r.fibre ≠ f.id)) ∧
    (∃ (w : Fields) (s : State) (wv : Wave) (f : Fibre), IssuesOne .endF w s wv f ∧ f.isItem = false ∧ f.dues = [] ∧ f.held = [] ∧
        (∀ r ∈ s.fwds, r.posted = false ∨ r.fibre ≠ f.id)) ∧
    (∃ (w : Fields) (s : State) (wv : Wave) (f : Fibre), IssuesOne .endF w s wv f ∧ f.isItem = true ∧ Quiet s (s.coreOf wv.crew) f) :=
  ⟨⟨wd 0 (r 8) (r 2) (r 3) 24, at_ForkAndEnd1, theWave, fib [1, 0, 0, 9], by decide +kernel⟩,
   ⟨wd 0 (r 8) (r 2) (r 3) 24, at_ForkAndEnd2, theWave, fib [1, 0, 1, 9], by decide +kernel⟩,
   ⟨wd 0 (r 0) (r 0) (r 0), at_ForkAndEnd3, theWave, f0, by decide +kernel⟩,
   ⟨wd 0 (r 0) (r 0) (r 0), at_ForkAndEnd4, { theWave with crew := .item 1 0 4 },
        { id := ⟨.item 1 0 4, 0⟩, pc := 0, obj := 3, regs := List.replicate 64 1, item := some default }, by decide +kernel⟩⟩

theorem witness_Spawning :
    (MetAt Op.trng (fun c _ x => (c.val64 x c.w.d).toNat < 2 ^ 51 ∧ (c.b64 x).toNat < 2 ^ 51 ∧
        (rangeOf (c.val64 x c.w.d) (c.a x).toNat).count ≤ 2 ^ 21 - 1 ∧
        (rangeOf (c.b64 x) (c.c4 x).toNat).count ≤ 2 ^ 21 - 1) (wd 0 (pr 4) (r 2) (pr 6) 3) (st [fib [1, 0, 0x1FFFFF00, 0x100, 0, 0, 0xFFFFFF00,
        0x7FFFF]]) (wave [fib [1, 0, 0x1FFFFF00, 0x100, 0, 0, 0xFFFFFF00, 0x7FFFF]]) (fib [1, 0, 0x1FFFFF00, 0x100, 0, 0, 0xFFFFFF00, 0x7FFFF])) ∧
    (∃ l, MetAt Op.spawn (fun c s x => codeOk s x.obj (c.pc + c.w.imm) = true ∧ s.launch? c.launch = some l ∧ Quiet s c.core x ∧
        ((s.core c.core).items.length < coreQueue ∨ l.sump.length + 1 ≤ l.sumpSize)) (wd 0 (r 0) (r 2) (r 0) 36) (st [f0]) (wave [f0]) (f0)) ∧
    (∃ l, MetAt Op.spawnt (fun c s x => codeOk s x.obj (c.pc + c.w.imm) = true ∧ s.launch? c.launch = some l ∧
        Quiet s c.core x) (wd 0 (r 0) (r 2) (r 31) 36) (st [f0]) (wave [f0]) (f0)) ∧
    (MetAt Op.qstat (fun c _ x => (c.a x).toNat ≤ 3) (wd 0 (r 8) i1 (r 0) 0) (st [f0]) (wave [f0]) (f0)) ∧
    (MetAt Op.qstat (fun c _ x => (c.a x).toNat ≤ 3) (wd 0 (r 8) i1 (r 0) 1) (st [f0]) (wave [f0]) (f0)) ∧
    (∃ (s : State) (c : Ctx) (f : Fibre), c.core < s.cores.length ∧ s.veinOfCore c.core < s.mem.veins.length) ∧
    (∃ (x : Item), x.arg.length = 4) :=
  ⟨by decide +kernel,
   ⟨theLaunch, by decide +kernel⟩,
   ⟨theLaunch, by decide +kernel⟩,
   by decide +kernel,
   by decide +kernel,
   ⟨at_Spawning1, soloCtx .spawn (wd 0 (r 0) (r 4) (r 0) 24) cached theWave f0, fib [1, 0, 0, 0, 9, 8, 7, 6], by decide +kernel⟩,
   ⟨({ id := 8, launch := 1, vein := 0, pcoff := 0xFFFFFFFE, aseq := 0xFFFFFFFF, arg := [1, 2, 3, 4], rd := { first := 2 ^ 43 - 1, count := 2 ^ 21 - 1 }, wr := {}, spawner := 0xFFFFFFFF } : Item),
        by decide +kernel⟩⟩

theorem witness_Allotments :
    (∃ t l, MetWave Op.acq (fun c s => s.teamOf? c.wv.crew = some t ∧ s.launch? c.launch = some l ∧ t.acq = .granted ∧
        (t.shed = false ∨ ∃ x ∈ c.act, x.phase.isSome = true)) (word 0 0 0 0) (st [f0]) (wave [f0]) [f0] (f0)) ∧
    (∃ t l o, MetWave Op.acq (fun c s => s.teamOf? c.wv.crew = some t ∧ s.launch? c.launch = some l ∧ t.shed = false ∧ t.acq = .none ∧
        s.object? l.obj = some o ∧
        o.fullIsPrologue = true) (word 0 0 0 0) ({ (st [f0]).setTeam { theTeam with acq := .none } with objects := [{ theObject with tiles := 0, handles := 2, scratch := 4096 }, runtimeObject 4] }) (wave [f0]) [f0] (f0)) ∧
    (∃ t, MetWave Op.shed (fun c s => s.teamOf? c.wv.crew = some t ∧ t.shedDone.contains c.wv.id = true ∧
        ((s.launch? c.launch).bind (fun l => s.object? l.obj)).isSome = true) (wd 0 (r 0) (r 2) (r 3) 4) ((st [f0]).setTeam { theTeam with shedDone := [2] }) (wave [f0]) [f0] (f0)) ∧
    (∃ t, MetWave Op.shed (fun c s => s.teamOf? c.wv.crew = some t ∧ t.acq ≠ .granted ∧ t.shedDone.contains c.wv.id = false ∧
        (∀ r ∈ t.sheds, r.1 ≠ c.wv.id) ∧ ((s.launch? c.launch).bind (fun l => s.object? l.obj)).isSome = true ∧ (c.a c.lead).toNat % 16 = 0 ∧
        4096 ≤ (c.a c.lead).toNat ∧ (c.a c.lead).toNat ≤ t.spSize ∧ c.b c.lead = 0 ∧ c.c4 c.lead = 0) (wd 0 (r 0) (r 2) (r 3) 4) ((st [fib [1, 0,
        4096, 0]]).setTeam { theTeam with acq := .none }) (wave [fib [1, 0, 4096, 0]]) [fib [1, 0, 4096, 0]] (fib [1, 0, 4096, 0])) ∧
    (∃ (s : State) (l : Nat) (t : Nat), s.acqHead s.ev.core = some (l, t)) ∧
    (∃ (s : State) (t : Team) (r : Nat × Nat × Word × Word), s.team? s.ev.launch s.ev.team = some t ∧
        t.sheds.find? (fun r => r.1 == s.ev.wave) = some r ∧ s.shedIdle t r.2.2.1 r.2.2.2 = true) ∧
    (∃ (s : State) (l : Nat) (tm : Nat) (t : Team) (m : Launch) (o : Object), s.team? l tm = some t ∧ s.launch? l = some m ∧
        s.object? m.obj = some o) ∧
    (∃ (w : Fields) (s : State) (wv : Wave) (fs : List Fibre) (f : Fibre) (t : Team) (l : Launch) (o : Object), Issues .acq w s wv fs f ∧
        (∀ g ∈ fs, g.active w.guard = true) ∧ s.teamOf? wv.crew = some t ∧ s.launch? wv.crew.launch = some l ∧ s.object? l.obj = some o ∧
        o.fullIsPrologue = false ∧ t.shed = false ∧ t.acq = .none ∧ t.core < s.cores.length) ∧
    (∃ (w : Fields) (s : State) (wv : Wave) (fs : List Fibre) (f : Fibre) (t : Team) (o : Object), let c := issueCtx .shed w s wv fs f.pc;
        let keep := (c.a c.lead).toNat; Issues .shed w s wv fs f ∧ (∀ g ∈ fs, g.active w.guard = true) ∧ s.teamOf? wv.crew = some t ∧
        t.acq = .granted ∧ (s.launch? wv.crew.launch).bind (fun l => s.object? l.obj) = some o ∧ t.shedDone.contains wv.id = false ∧
        (∀ r ∈ t.sheds, r.1 ≠ wv.id) ∧ keep % 16 = 0 ∧ 4096 ≤ keep ∧ keep ≤ t.spSize ∧ (∀ k, k < 32 → (c.b c.lead).getLsbD k = true → k < 16 ∧
        ((t.tiles[k]?).map Tile.allot = some true ∨ (t.shed = true ∧ t.acq = .granted) ∧ k < o.tiles)) ∧ (∀ k, k < 32 →
        (c.c4 c.lead).getLsbD k = true → 2 ≤ k ∧ ((t.handles[k]?).map Handle.allot = some true ∨ (t.shed = true ∧ t.acq = .granted) ∧
        k < o.handles))) ∧
    (∃ (w : Fields) (s : State) (wv : Wave) (fs : List Fibre) (f : Fibre) (t : Team) (o : Object), let c := issueCtx .shed w s wv fs f.pc;
        let keep := (c.a c.lead).toNat; Issues .shed w s wv fs f ∧ (∀ g ∈ fs, g.active w.guard = true) ∧ s.teamOf? wv.crew = some t ∧
        t.acq = .granted ∧ (s.launch? wv.crew.launch).bind (fun l => s.object? l.obj) = some o ∧ t.shedDone.contains wv.id = false ∧
        (∀ r ∈ t.sheds, r.1 ≠ wv.id) ∧ keep % 16 = 0 ∧ 4096 ≤ keep ∧ keep ≤ t.spSize ∧ (∀ k, k < 32 → (c.b c.lead).getLsbD k = true → k < 16 ∧
        ((t.tiles[k]?).map Tile.allot = some true ∨ (t.shed = true ∧ t.acq = .granted) ∧ k < o.tiles)) ∧ (∀ k, k < 32 →
        (c.c4 c.lead).getLsbD k = true → 2 ≤ k ∧ ((t.handles[k]?).map Handle.allot = some true ∨ (t.shed = true ∧ t.acq = .granted) ∧
        k < o.handles))) :=
  ⟨⟨theTeam, theLaunch, by decide +kernel⟩,
   ⟨{ theTeam with acq := .none }, theLaunch, { theObject with tiles := 0, handles := 2, scratch := 4096 }, by decide +kernel⟩,
   ⟨{ theTeam with shedDone := [2] }, by decide +kernel⟩,
   ⟨{ theTeam with acq := .none }, by decide +kernel⟩,
   ⟨at_Allotments1, 1, 0, by decide +kernel⟩,
   ⟨at_Allotments2, { theTeam with sheds := [(2, 4096, 0, 0)] }, (2, 4096, 0, 0), by decide +kernel⟩,
   ⟨at_Allotments3, 1, 0, newTeam theLaunch theObject 0, theLaunch, { theObject with wfull := 80, tiles := 7 }, by decide +kernel⟩,
   ⟨wd 0 (r 0) (r 0) (r 0), at_Allotments4, theWave, [f0], f0,
        { theTeam with acq := .none, tiles := List.replicate 16 default, handles := List.replicate 32 default }, theLaunch,
        { theObject with tiles := 7, handles := 31, scratch := 65536, wfull := 80 }, by decide +kernel⟩,
   ⟨wd 0 (r 0) (r 2) (r 3) 4, shedState1, theWave, [shedFibre1], shedFibre1, shedTeam1, shedObject1, by decide +kernel, by decide +kernel,
        by decide +kernel, by decide +kernel, by decide +kernel, by decide +kernel, by decide +kernel, by decide +kernel, by decide +kernel⟩,
   ⟨wd 0 (r 0) (r 2) (r 3) 4, shedState2, theWave, [shedFibre2], shedFibre2, shedTeam2, shedObject2, by decide +kernel, by decide +kernel,
        by decide +kernel, by decide +kernel, by decide +kernel, by decide +kernel, by decide +kernel, by decide +kernel, by decide +kernel⟩⟩

theorem witness_BarrierObjects :
    (∃ t, MetAt Op.bari (fun c s x => OwnObj s x t (c.a x) ∧ c.served x = false ∧ 1 ≤ (c.b x).toNat ∧
        (c.b x).toNat < 2 ^ 20) (wd 6 (r 0) (r 2) (r 3)) (st [fib [1, 0, 0xFFF0, 0xFFFFF]]) (wave [fib [1, 0, 0xFFF0, 0xFFFFF]]) (fib [1, 0, 0xFFF0,
        0xFFFFF])) ∧
    (∃ t o, MetAt Op.bara (fun c s x => OwnObj s x t (c.a x) ∧ ObjAt t ((c.a x).toNat % 2 ^ 18) o ∧ Quiet s c.core x ∧ NoSpan s c ∧
        c.served x = false ∧ (o.arrived + 1 ≠ o.expect ∨ ∀ g ∈ s.fibres, g.objWait = none)) (wd 0 (r 8) (r 2) (r 0)) ((st [fib [1, 0,
        0xFFF0]]).setTeam (theTeam.putObj 0xFFF0 ({ expect := 1, scope := 1, arrived := 0, phase := 0xFFFFFFFF } : BarObj))) (wave [fib [1, 0,
        0xFFF0]]) (fib [1, 0, 0xFFF0])) ∧
    (∃ t o, MetAt Op.barw (fun c s x => OwnObj s x t (c.a x) ∧ ObjAt t ((c.a x).toNat % 2 ^ 18) o ∧ NoSpan s c ∧ x.objWait = none ∧
        o.phase ≠ c.b x) (wd 0 (r 0) (r 2) (r 3)) ((st [fib [1, 0,
        0xFFF0]]).setTeam (theTeam.putObj 0xFFF0 ({ expect := 1, scope := 1, arrived := 0, phase := 0xFFFFFFFF } : BarObj))) (wave [fib [1, 0,
        0xFFF0]]) (fib [1, 0, 0xFFF0])) ∧
    (∃ t o, MetAt Op.barx (fun c s x => OwnObj s x t (c.a x) ∧ ObjAt t ((c.a x).toNat % 2 ^ 18) o ∧ Quiet s c.core x ∧ NoSpan s c ∧
        (∀ g ∈ s.fibres, g.objWait = none) ∧ o.arrived + 1 = o.expect ∧ t.sp.wf = true) (wd 0 (r 8) (r 2) (r 0)) ((st [fib [1, 0,
        0xFFF0]]).setTeam (theTeam.putObj 0xFFF0 ({ expect := 1, scope := 1, arrived := 0, phase := 0xFFFFFFFF } : BarObj))) (wave [fib [1, 0,
        0xFFF0]]) (fib [1, 0, 0xFFF0])) ∧
    (∃ t o, MetAt Op.bara (fun c s x => OwnObj s x t (c.a x) ∧ ObjAt t ((c.a x).toNat % 2 ^ 18) o ∧ Quiet s c.core x ∧ NoSpan s c ∧
        c.served x = false ∧ (o.arrived + 1 ≠ o.expect ∨ ∀ g ∈ s.fibres, g.objWait = none)) (wd 0 (r 8) (r 2) (r 0)) ((st [fib [1, 0,
        0xFFF0]]).setTeam (theTeam.putObj 0xFFF0 ({ expect := 0xFFFFF, scope := 6, arrived := 0xFFFFE, phase := 0xFFFFFFFF } : BarObj))) (wave [fib [1,
        0, 0xFFF0]]) (fib [1, 0, 0xFFF0])) ∧
    (∃ t o, MetAt Op.barw (fun c s x => OwnObj s x t (c.a x) ∧ ObjAt t ((c.a x).toNat % 2 ^ 18) o ∧ NoSpan s c ∧ x.objWait = none ∧
        o.phase ≠ c.b x) (wd 0 (r 0) (r 2) (r 3)) ((st [fib [1, 0,
        0xFFF0]]).setTeam (theTeam.putObj 0xFFF0 ({ expect := 0xFFFFF, scope := 6, arrived := 0xFFFFE, phase := 0xFFFFFFFF } : BarObj))) (wave [fib [1,
        0, 0xFFF0]]) (fib [1, 0, 0xFFF0])) ∧
    (∃ t o, MetAt Op.barx (fun c s x => OwnObj s x t (c.a x) ∧ ObjAt t ((c.a x).toNat % 2 ^ 18) o ∧ Quiet s c.core x ∧ NoSpan s c ∧
        (∀ g ∈ s.fibres, g.objWait = none) ∧ o.arrived + 1 = o.expect ∧ t.sp.wf = true) (wd 0 (r 8) (r 2) (r 0)) ((st [fib [1, 0,
        0xFFF0]]).setTeam (theTeam.putObj 0xFFF0 ({ expect := 0xFFFFF, scope := 6, arrived := 0xFFFFE, phase := 0xFFFFFFFF } : BarObj))) (wave [fib [1,
        0, 0xFFF0]]) (fib [1, 0, 0xFFF0])) ∧
    (∃ e, MetAt Op.waitv (fun c s x => Unowned s ∧ x.held = [] ∧ NoSpan s c ∧ x.phase = none ∧ Resident s c (c.a64 x) 4 false e ∧
        s.l1Line? c.core (e.line (c.a64 x)) = none ∧ AtHome s x.id (e.line (c.a64 x)) ∧
        waitHolds c.w.mod (BitVec.ofNat 32 (lineBytes (s.mem.l2Fill (e.line (c.a64 x))).1.data (e.at_ (c.a64 x) % 64) 4)) (c.b x) = true) (wd 0x25 (r 8) (pr 4) (r 2)) (paged) (wave [f0]) (f0)) ∧
    (∃ (s : State) (f : Fibre) (v : ObjWait), s.fibre? f.id = some f ∧ f.objWait = some v ∧ v.launch = theTeam.launch ∧ v.team = theTeam.id ∧
        v.at_ = 0x40) ∧
    (∃ (s : State) (f : Fibre) (v : ObjWait), s.fibre? f.id = some f ∧ f.objWait = some v ∧ v.at_ ≠ 0x44) :=
  ⟨⟨theTeam, by decide +kernel⟩,
   ⟨(theTeam.putObj 0xFFF0 ({ expect := 1, scope := 1, arrived := 0, phase := 0xFFFFFFFF } : BarObj)),
        ({ expect := 1, scope := 1, arrived := 0, phase := 0xFFFFFFFF } : BarObj), by decide +kernel⟩,
   ⟨(theTeam.putObj 0xFFF0 ({ expect := 1, scope := 1, arrived := 0, phase := 0xFFFFFFFF } : BarObj)),
        ({ expect := 1, scope := 1, arrived := 0, phase := 0xFFFFFFFF } : BarObj), by decide +kernel⟩,
   ⟨(theTeam.putObj 0xFFF0 ({ expect := 1, scope := 1, arrived := 0, phase := 0xFFFFFFFF } : BarObj)),
        ({ expect := 1, scope := 1, arrived := 0, phase := 0xFFFFFFFF } : BarObj), by decide +kernel⟩,
   ⟨(theTeam.putObj 0xFFF0 ({ expect := 0xFFFFF, scope := 6, arrived := 0xFFFFE, phase := 0xFFFFFFFF } : BarObj)),
        ({ expect := 0xFFFFF, scope := 6, arrived := 0xFFFFE, phase := 0xFFFFFFFF } : BarObj), by decide +kernel⟩,
   ⟨(theTeam.putObj 0xFFF0 ({ expect := 0xFFFFF, scope := 6, arrived := 0xFFFFE, phase := 0xFFFFFFFF } : BarObj)),
        ({ expect := 0xFFFFF, scope := 6, arrived := 0xFFFFE, phase := 0xFFFFFFFF } : BarObj), by decide +kernel⟩,
   ⟨(theTeam.putObj 0xFFF0 ({ expect := 0xFFFFF, scope := 6, arrived := 0xFFFFE, phase := 0xFFFFFFFF } : BarObj)),
        ({ expect := 0xFFFFF, scope := 6, arrived := 0xFFFFE, phase := 0xFFFFFFFF } : BarObj), by decide +kernel⟩,
   ⟨te, by decide +kernel⟩,
   ⟨st [fObj], fObj, { launch := 1, team := 0, at_ := 0x40, token := 1 }, by decide +kernel⟩,
   ⟨st [fObj], fObj, { launch := 1, team := 0, at_ := 0x40, token := 1 }, by decide +kernel⟩⟩

theorem witness_Handles :
    (∃ t, MetWave Op.hdef (fun c s => s.teamOf? c.lead.id.crew = some t ∧ (t.handle c.w.d.n.toNat).busy = false ∧ (c.a c.lead).toNat % 16 = 0 ∧
        (c.b c.lead).toNat % 16 = 0 ∧ (c.a c.lead).toNat + (c.b c.lead).toNat ≤ t.spSize) (wd 0 (r 31) (r 2) (r 3)) (st [fib [1, 0, 0xFFF0,
        16]]) (wave [fib [1, 0, 0xFFF0, 16]]) [fib [1, 0, 0xFFF0, 16]] (fib [1, 0, 0xFFF0, 16])) ∧
    (∃ t, MetWave Op.hwait (fun c s => s.teamOf? c.lead.id.crew = some t ∧
        (t.handle c.w.a.n.toNat).busy = false) (wd 0 (r 0) (r 31) (r 0)) (cached.setTeam (theTeam.setHandle 31 { theTeam.handle 31 with state := .full, paused := true, count := 7, size := 4 })) (wave [f0]) [f0] (f0)) ∧
    (∃ t, MetWave Op.hwait (fun c s => s.teamOf? c.lead.id.crew = some t ∧
        (t.handle c.w.a.n.toNat).busy = false) (wd 0 (r 0) (r 31) (r 0)) (cached.setTeam (theTeam.setHandle 31 { theTeam.handle 31 with state := .free, paused := true, count := 7, size := 4 })) (wave [f0]) [f0] (f0)) ∧
    (∃ t, MetWave Op.hset (fun c s => s.teamOf? c.lead.id.crew = some t ∧
        (t.handle c.w.a.n.toNat).state = .full) (wd 0 (r 0) (r 31) (r 0)) ((st [f0]).setTeam (theTeam.setHandle 31 { theTeam.handle 31 with state := .full, paused := true, count := 7, size := 4 })) (wave [f0]) [f0] (f0)) ∧
    (∃ t, MetWave Op.hset (fun c s => s.teamOf? c.lead.id.crew = some t ∧
        (t.handle c.w.a.n.toNat).state = .free) (wd 0 (r 0) (r 31) (r 0)) ((st [f0]).setTeam (theTeam.setHandle 31 { theTeam.handle 31 with state := .free, paused := true, count := 7, size := 4 })) (wave [f0]) [f0] (f0)) ∧
    (∃ t, MetAt Op.hstat (fun _ s x => s.teamOf? x.id.crew = some t) (wd 0 (pr 8) (r 31) (r 0)) (cached.setTeam (theTeam.setHandle 31 { theTeam.handle 31 with state := .full, paused := true, count := 7, size := 4 })) (wave [f0]) (f0)) ∧
    (∃ t, MetAt Op.hstat (fun _ s x => s.teamOf? x.id.crew = some t) (wd 0 (pr 8) (r 31) (r 0)) (cached.setTeam (theTeam.setHandle 31 { theTeam.handle 31 with state := .free, paused := true, count := 7, size := 4 })) (wave [f0]) (f0)) :=
  ⟨⟨theTeam, by decide +kernel⟩,
   ⟨(theTeam.setHandle 31 { theTeam.handle 31 with state := .full, paused := true, count := 7, size := 4 }), by decide +kernel⟩,
   ⟨(theTeam.setHandle 31 { theTeam.handle 31 with state := .free, paused := true, count := 7, size := 4 }), by decide +kernel⟩,
   ⟨(theTeam.setHandle 31 { theTeam.handle 31 with state := .full, paused := true, count := 7, size := 4 }), by decide +kernel⟩,
   ⟨(theTeam.setHandle 31 { theTeam.handle 31 with state := .free, paused := true, count := 7, size := 4 }), by decide +kernel⟩,
   ⟨(theTeam.setHandle 31 { theTeam.handle 31 with state := .full, paused := true, count := 7, size := 4 }), by decide +kernel⟩,
   ⟨(theTeam.setHandle 31 { theTeam.handle 31 with state := .free, paused := true, count := 7, size := 4 }), by decide +kernel⟩⟩

theorem witness_EngineStarts :
    (∃ t, MetWave Op.isect (fun c s => Startable s c t ∧ StreamOk (c.a64 c.lead) (c.lead.reg c.w.c.n.toNat).toNat ∧
        StreamOk (c.b64 c.lead) (c.lead.reg (c.w.c.n.toNat + 1)).toNat) (wd 0 (r 1) (pr 4) (pr 6) 8) (owned (buffered theTeam)) (wave [f0]) [f0] (f0)) ∧
    (∃ t, MetWave Op.merge (fun c s => Startable s c t ∧ StreamOk (c.a64 c.lead) (c.lead.reg c.w.c.n.toNat).toNat ∧
        StreamOk (c.b64 c.lead) (c.lead.reg (c.w.c.n.toNat + 1)).toNat) (wd 0 (r 1) (pr 4) (pr 6) 8) (owned (buffered theTeam)) (wave [f0]) [f0] (f0)) ∧
    (∃ t, MetWave Op.tcopy (fun c s => let r := CopyRec.ofBytes (t.sp.getBytes (c.a c.lead).toNat 32); Startable s c t ∧
        BlockAt t (c.a c.lead).toNat 32 ∧ r.ok false = true ∧ c.wv.record = none ∧ (false = true → r.idxoff + 4 * r.rows ≤ t.spSize ∧
        t.bad r.idxoff (4 * r.rows) = false) ∧ (r.store = true → r.spoff % 4 = 0 ∧
        r.spoff + r.rows * r.rowbytes ≤ t.spSize)) (wd 0 (r 1) (r 2) (r 0)) (blocked 0xFFE0 (buffered (padded 0xFFE0 (leBytes 32 0x8000000000000000000000400000000200000000000000400000000000000000)))) (wave [at2 0xFFE0]) [at2 0xFFE0] (at2 0xFFE0)) ∧
    (∃ t, MetWave Op.icopy (fun c s => let r := CopyRec.ofBytes (t.sp.getBytes (c.a c.lead).toNat 32); Startable s c t ∧
        BlockAt t (c.a c.lead).toNat 32 ∧ r.ok true = true ∧ c.wv.record = none ∧ (true = true → r.idxoff + 4 * r.rows ≤ t.spSize ∧
        t.bad r.idxoff (4 * r.rows) = false) ∧ (r.store = true → r.spoff % 4 = 0 ∧
        r.spoff + r.rows * r.rowbytes ≤ t.spSize)) (wd 0 (r 1) (r 2) (r 0)) (blocked 0xFFE0 (buffered (padded 0xFFE0 (leBytes 32 0x8000000000000000000000400000000200000000000000400000000000000000)))) (wave [at2 0xFFE0]) [at2 0xFFE0] (at2 0xFFE0)) ∧
    (∃ t, MetWave Op.tcopy (fun c s => let r := CopyRec.ofBytes (t.sp.getBytes (c.a c.lead).toNat 32); Startable s c t ∧
        BlockAt t (c.a c.lead).toNat 32 ∧ r.ok false = true ∧ c.wv.record = none ∧ (false = true → r.idxoff + 4 * r.rows ≤ t.spSize ∧
        t.bad r.idxoff (4 * r.rows) = false) ∧ (r.store = true → r.spoff % 4 = 0 ∧
        r.spoff + r.rows * r.rowbytes ≤ t.spSize)) (wd 0 (r 1) (r 2) (r 0)) (blocked 0xFFE0 (buffered (padded 0xFFE0 (leBytes 32 0x400000000200000000000000400000000000000000)))) (wave [at2 0xFFE0]) [at2 0xFFE0] (at2 0xFFE0)) ∧
    (∃ t, MetWave Op.icopy (fun c s => let r := CopyRec.ofBytes (t.sp.getBytes (c.a c.lead).toNat 32); Startable s c t ∧
        BlockAt t (c.a c.lead).toNat 32 ∧ r.ok true = true ∧ c.wv.record = none ∧ (true = true → r.idxoff + 4 * r.rows ≤ t.spSize ∧
        t.bad r.idxoff (4 * r.rows) = false) ∧ (r.store = true → r.spoff % 4 = 0 ∧
        r.spoff + r.rows * r.rowbytes ≤ t.spSize)) (wd 0 (r 1) (r 2) (r 0)) (blocked 0xFFE0 (buffered (padded 0xFFE0 (leBytes 32 0x400000000200000000000000400000000000000000)))) (wave [at2 0xFFE0]) [at2 0xFFE0] (at2 0xFFE0)) ∧
    (∃ t, MetWave Op.nbin (fun c s => Startable s c t ∧ (c.a64 c.lead).toNat < 2 ^ 51 ∧ (c.a64 c.lead).toNat % 4096 = 0 ∧ (Op.nbin = .npair →
        (t.handle c.w.d.n.toNat).size.toNat % 2 = 0)) (wd 0 (r 1) (pr 4) (r 0)) (owned (buffered theTeam)) (wave [f0]) [f0] (f0)) ∧
    (∃ t, MetWave Op.npair (fun c s => Startable s c t ∧ (c.a64 c.lead).toNat < 2 ^ 51 ∧ (c.a64 c.lead).toNat % 4096 = 0 ∧ (Op.npair = .npair →
        (t.handle c.w.d.n.toNat).size.toNat % 2 = 0)) (wd 0 (r 1) (pr 4) (r 0)) (owned (buffered theTeam)) (wave [f0]) [f0] (f0)) ∧
    (∃ t, MetWave Op.nfix (fun c s => Startable s c t ∧ (c.a64 c.lead).toNat < 2 ^ 51 ∧ (c.a64 c.lead).toNat % 4096 = 0 ∧ (Op.nfix = .npair →
        (t.handle c.w.d.n.toNat).size.toNat % 2 = 0)) (wd 0 (r 1) (pr 4) (r 0)) (owned (buffered theTeam)) (wave [f0]) [f0] (f0)) ∧
    (∃ t, MetWave Op.hcfg (fun c s => Startable s c t ∧ (c.b64 c.lead).toNat < 2 ^ 51 ∧ (c.b64 c.lead).toNat % 4096 = 0 ∧
        BlockAt t (c.a c.lead).toNat 64 ∧ c.wv.record = none ∧
        (Family.ofBlock (t.sp.getBytes (c.a c.lead).toNat 64) 0 0).ok (t.sp.getBytes (c.a c.lead).toNat 64) (c.b64 c.lead) = true) (wd 0 (r 1) (r 2) i1 0x1000) (blocked 0xFFC0 (buffered (padded 0xFFC0 (leBytes 64 0x10000000000000000000000000000000400000000000001000000000200000000100000001000000100000000100010108)))) (wave [at2 0xFFC0]) [at2 0xFFC0] (at2 0xFFC0)) ∧
    (∃ t, MetWave Op.hprobe (fun c s => Startable s c t ∧ (c.b64 c.lead).toNat < 2 ^ 51 ∧ (c.b64 c.lead).toNat % 4096 = 0 ∧
        (c.a c.lead).toNat % 16 = 0 ∧ (c.a c.lead).toNat < t.spSize ∧
        (c.a c.lead).toNat + 2 * ((s.family? (s.queueOf c.launch) (c.b64 c.lead)).map Family.d).getD 0 ≤ t.spSize) (wd 0 (r 1) (r 2) (pr 6) 0) (blocked 0xFFF0 (buffered theTeam)) (wave [at2 0xFFF0]) [at2 0xFFF0] (at2 0xFFF0)) ∧
    (∃ t, MetWave Op.hins (fun c s => Startable s c t ∧ (c.b64 c.lead).toNat < 2 ^ 51 ∧ (c.b64 c.lead).toNat % 4096 = 0 ∧
        (c.a c.lead).toNat % 16 = 0 ∧ (c.a c.lead).toNat < t.spSize ∧
        (c.a c.lead).toNat + 2 * ((s.family? (s.queueOf c.launch) (c.b64 c.lead)).map Family.d).getD 0 ≤ t.spSize) (wd 0 (r 1) (r 2) (pr 6) 0) (blocked 0xFFF0 (buffered theTeam)) (wave [at2 0xFFF0]) [at2 0xFFF0] (at2 0xFFF0)) ∧
    (∃ t, MetWave Op.hdel (fun c s => Startable s c t ∧ (c.b64 c.lead).toNat < 2 ^ 51 ∧ (c.b64 c.lead).toNat % 4096 = 0 ∧
        (c.a c.lead).toNat % 16 = 0 ∧ (c.a c.lead).toNat < t.spSize ∧
        (c.a c.lead).toNat + 2 * ((s.family? (s.queueOf c.launch) (c.b64 c.lead)).map Family.d).getD 0 ≤ t.spSize) (wd 0 (r 1) (r 2) (pr 6) 0) (blocked 0xFFF0 (buffered theTeam)) (wave [at2 0xFFF0]) [at2 0xFFF0] (at2 0xFFF0)) ∧
    (∃ t, MetWave Op.hreh (fun c s => Startable s c t ∧ (c.b64 c.lead).toNat < 2 ^ 51 ∧ (c.b64 c.lead).toNat % 4096 = 0 ∧ 1 ≤ (c.a c.lead).toNat ∧
        (c.a c.lead).toNat ≤ 2 ^ 24) (wd 0 (r 1) (r 2) (pr 6) 0) (blocked 0x01000000 (buffered theTeam)) (wave [at2 0x01000000]) [at2 0x01000000] (at2 0x01000000)) :=
  ⟨⟨buffered theTeam, by decide +kernel⟩,
   ⟨buffered theTeam, by decide +kernel⟩,
   ⟨buffered (padded 0xFFE0 (leBytes 32 0x8000000000000000000000400000000200000000000000400000000000000000)), by decide +kernel⟩,
   ⟨buffered (padded 0xFFE0 (leBytes 32 0x8000000000000000000000400000000200000000000000400000000000000000)), by decide +kernel⟩,
   ⟨buffered (padded 0xFFE0 (leBytes 32 0x400000000200000000000000400000000000000000)), by decide +kernel⟩,
   ⟨buffered (padded 0xFFE0 (leBytes 32 0x400000000200000000000000400000000000000000)), by decide +kernel⟩,
   ⟨buffered theTeam, by decide +kernel⟩,
   ⟨buffered theTeam, by decide +kernel⟩,
   ⟨buffered theTeam, by decide +kernel⟩,
   ⟨buffered (padded 0xFFC0 (leBytes 64 0x10000000000000000000000000000000400000000000001000000000200000000100000001000000100000000100010108)),
        by decide +kernel⟩,
   ⟨buffered theTeam, by decide +kernel⟩,
   ⟨buffered theTeam, by decide +kernel⟩,
   ⟨buffered theTeam, by decide +kernel⟩,
   ⟨buffered theTeam, by decide +kernel⟩⟩

theorem witness_GridsFamiliesSupervisions :
    (∃ t, MetWave Op.ncfg (fun c s => let b := t.sp.getBytes (c.a c.lead).toNat 64; let g := Grid.ofBlock b (s.queueOf c.launch) (dieOf c.core);
        s.teamOf? c.lead.id.crew = some t ∧ BlockAt t (c.a c.lead).toNat 64 ∧ g.base.toNat < 2 ^ 51 ∧ g.ok b = true ∧
        s.meetsOwned g.queue g.base g.bytes = false ∧
        s.gridBusy g.queue g.base = false) (wd 0 (r 0) (r 2) (r 0)) (blocked 0xFFC0 (padded 0xFFC0 (leBytes 64 0x70000000400000000000100000000000000001000000000010000001000000000000000003f0000003f80000040000000410000004100000041000000))) (wave [at2 0xFFC0]) [at2 0xFFC0] (at2 0xFFC0)) ∧
    (MetWave Op.nstat (fun _ _ => True) (wd 0 (pr 8) (pr 4) (r 0)) (cached) (wave [f0]) [f0] (f0)) ∧
    (MetWave Op.hqry (fun _ _ => True) (wd 0 (pr 8) (pr 4) (r 0) 0) (cached) (wave [f0]) [f0] (f0)) ∧
    (MetWave Op.hqry (fun _ _ => True) (wd 0 (pr 8) (pr 4) (r 0) 3) (cached) (wave [f0]) [f0] (f0)) ∧
    (∃ t, MetWave Op.svopen (fun c s => s.teamOf? c.lead.id.crew = some t ∧ t.sup = none ∧ BlockAt t (c.a c.lead).toNat 64 ∧
        supOk (t.sp.getBytes (c.a c.lead).toNat 64) = true ∧ AllQuiet s c ∧
        CleanL1 s c.core) (wd 0 (r 0) (r 2) (r 0)) (blocked 0xFFC0 (padded 0xFFC0 (leBytes 64 0x60000000000000020000000000000000000000000000000000000000000000000400000003f8000000000000000000005))) (wave [at2 0xFFC0]) [at2 0xFFC0] (at2 0xFFC0)) ∧
    (∃ t u, MetWave Op.svmark (fun c s => s.teamOf? c.lead.id.crew = some t ∧ t.sup = some u ∧ ((c.a c.lead).toNat = 1 ∨ (c.a c.lead).toNat = 2) ∧
        (c.a c.lead).toNat ≠ u.best ∧ AllQuiet s c ∧ NoSpan s c) (wd 0 (r 8) (r 2) (r 3) 31) ((st [fib [1, 0, 1,
        0x3F800000]]).setTeam ({ theTeam with sup := some (Supervision.ofBlock (leBytes 64 0x50000000000000000000000000000000000000000000000000000000000000000400000003f8000000000000000000005)) })) (wave [fib [1,
        0, 1, 0x3F800000]]) [fib [1, 0, 1, 0x3F800000]] (fib [1, 0, 1, 0x3F800000])) ∧
    (∃ t u, MetWave Op.svmark (fun c s => s.teamOf? c.lead.id.crew = some t ∧ t.sup = some u ∧ ((c.a c.lead).toNat = 1 ∨ (c.a c.lead).toNat = 2) ∧
        (c.a c.lead).toNat ≠ u.best ∧ AllQuiet s c ∧ NoSpan s c) (wd 0 (r 8) (r 2) (r 3) 31) ((st [fib [1, 0, 2,
        0x3F800000]]).setTeam ({ theTeam with sup := some (Supervision.ofBlock (leBytes 64 0x50000000000000000000000000000000000000000000000000000000000000000400000003f8000000000000000000005)) })) (wave [fib [1,
        0, 2, 0x3F800000]]) [fib [1, 0, 2, 0x3F800000]] (fib [1, 0, 2, 0x3F800000])) ∧
    (∃ t, MetWave Op.svqry (fun c s => s.teamOf? c.lead.id.crew = some t) (wd 0 (pr 8) (r 0) (r 0) 3) (far theTeam) (wave [f0]) [f0] (f0)) ∧
    (∃ t, MetWave Op.svqry (fun c s => s.teamOf? c.lead.id.crew = some t) (wd 0 (pr 8) (r 0) (r 0) 0) (far ({ theTeam with sup := some (Supervision.ofBlock (leBytes 64 0x50000000000000000000000000000000000000000000000000000000000000000400000003f8000000000000000000005)) })) (wave [f0]) [f0] (f0)) ∧
    (∃ t u e, MetWave Op.svclose (fun c s => s.teamOf? c.lead.id.crew = some t ∧ t.sup = some u ∧ AllQuiet s c ∧ CleanL1 s c.core ∧ NoSpan s c ∧
        s.wide (s.whoOf c c.lead) u.scope = true ∧ u.record.toNat % 64 = 0 ∧ Resident s c u.record 16 true e ∧
        Resident s c (u.record + 16) 16 true e ∧ e.pa % 64 = 0 ∧ s.l1Line? c.core (e.line u.record) = none ∧
        AtHome s c.lead.id (e.line u.record)) (wd 0 (r 0) (r 0) (r 0)) (paged.setTeam ({ theTeam with sup := some (Supervision.ofBlock (leBytes 64 0x50000000000000000000000000000000000000000000000000000000000000000400000003f8000000000000000000005)) })) (wave [f0]) [f0] (f0)) :=
  ⟨⟨padded 0xFFC0 (leBytes 64 0x70000000400000000000100000000000000001000000000010000001000000000000000003f0000003f80000040000000410000004100000041000000),
        by decide +kernel⟩,
   by decide +kernel,
   by decide +kernel,
   by decide +kernel,
   ⟨padded 0xFFC0 (leBytes 64 0x60000000000000020000000000000000000000000000000000000000000000000400000003f8000000000000000000005),
        by decide +kernel⟩,
   ⟨{ theTeam with sup := some (Supervision.ofBlock (leBytes 64 0x50000000000000000000000000000000000000000000000000000000000000000400000003f8000000000000000000005)) },
        Supervision.ofBlock (leBytes 64 0x50000000000000000000000000000000000000000000000000000000000000000400000003f8000000000000000000005),
        by decide +kernel⟩,
   ⟨{ theTeam with sup := some (Supervision.ofBlock (leBytes 64 0x50000000000000000000000000000000000000000000000000000000000000000400000003f8000000000000000000005)) },
        Supervision.ofBlock (leBytes 64 0x50000000000000000000000000000000000000000000000000000000000000000400000003f8000000000000000000005),
        by decide +kernel⟩,
   ⟨theTeam, by decide +kernel⟩,
   ⟨{ theTeam with sup := some (Supervision.ofBlock (leBytes 64 0x50000000000000000000000000000000000000000000000000000000000000000400000003f8000000000000000000005)) },
        by decide +kernel⟩,
   ⟨{ theTeam with sup := some (Supervision.ofBlock (leBytes 64 0x50000000000000000000000000000000000000000000000000000000000000000400000003f8000000000000000000005)) },
        Supervision.ofBlock (leBytes 64 0x50000000000000000000000000000000000000000000000000000000000000000400000003f8000000000000000000005), te,
        by decide +kernel⟩⟩

theorem witness_StreamHelpers :
    (∃ t, MetWave Op.compact (fun c s => s.teamOf? c.lead.id.crew = some t ∧ (c.a c.lead).toNat % 4 = 0 ∧
        (c.a c.lead).toNat + 4 * (c.act.filter (fun f => f.pred c.w.c.n.toNat)).length ≤ t.spSize) (wd 0 (pr 8) (r 2) (r 3) 1) (st [lane 0 [1, 0,
        0xFFFC, 9], lane 31 [3, 0, 0xFFFC, 7]]) (wave [lane 0 [1, 0, 0xFFFC, 9], lane 31 [3, 0, 0xFFFC, 7]]) [lane 0 [1, 0, 0xFFFC, 9], lane 31 [3,
        0, 0xFFFC, 7]] (lane 0 [1, 0, 0xFFFC, 9])) ∧
    (∃ t, MetWave Op.expand (fun c s => s.teamOf? c.lead.id.crew = some t ∧ (c.a c.lead).toNat % 4 = 0 ∧
        (c.a c.lead).toNat + 4 * (c.act.filter (fun f => f.pred c.w.b.n.toNat)).length ≤ t.spSize ∧
        t.bad (c.a c.lead).toNat (4 * (c.act.filter (fun f => f.pred c.w.b.n.toNat)).length) = false) (wd 0 (r 8) (r 2) (r 1)) (st [lane 0 [1, 0,
        0xFFFC, 9], lane 31 [3, 0, 0xFFFC, 7]]) (wave [lane 0 [1, 0, 0xFFFC, 9], lane 31 [3, 0, 0xFFFC, 7]]) [lane 0 [1, 0, 0xFFFC, 9], lane 31 [3,
        0, 0xFFFC, 7]] (lane 0 [1, 0, 0xFFFC, 9])) ∧
    (MetWave Op.segr (fun _ _ => True) (wd 0 (r 8) (r 3) (r 1)) (st [lane 0 [1, 0, 0xFFFC, 9], lane 31 [3, 0, 0xFFFC, 7]]) (wave [lane 0 [1, 0,
        0xFFFC, 9], lane 31 [3, 0, 0xFFFC, 7]]) [lane 0 [1, 0, 0xFFFC, 9], lane 31 [3, 0, 0xFFFC, 7]] (lane 0 [1, 0, 0xFFFC, 9])) ∧
    (∃ t, MetWave Op.compact (fun c s => s.teamOf? c.lead.id.crew = some t ∧ (c.a c.lead).toNat % 4 = 0 ∧
        (c.a c.lead).toNat + 4 * (c.act.filter (fun f => f.pred c.w.c.n.toNat)).length ≤ t.spSize) (wd 0 (pr 8) (r 2) (r 3) 1) (st [lane 0 [3, 0,
        0xFFF8, 9], lane 31 [3, 0, 0xFFF8, 7]]) (wave [lane 0 [3, 0, 0xFFF8, 9], lane 31 [3, 0, 0xFFF8, 7]]) [lane 0 [3, 0, 0xFFF8, 9], lane 31 [3,
        0, 0xFFF8, 7]] (lane 0 [3, 0, 0xFFF8, 9])) ∧
    (∃ t, MetWave Op.expand (fun c s => s.teamOf? c.lead.id.crew = some t ∧ (c.a c.lead).toNat % 4 = 0 ∧
        (c.a c.lead).toNat + 4 * (c.act.filter (fun f => f.pred c.w.b.n.toNat)).length ≤ t.spSize ∧
        t.bad (c.a c.lead).toNat (4 * (c.act.filter (fun f => f.pred c.w.b.n.toNat)).length) = false) (wd 0 (r 8) (r 2) (r 1)) (st [lane 0 [3, 0,
        0xFFF8, 9], lane 31 [3, 0, 0xFFF8, 7]]) (wave [lane 0 [3, 0, 0xFFF8, 9], lane 31 [3, 0, 0xFFF8, 7]]) [lane 0 [3, 0, 0xFFF8, 9], lane 31 [3,
        0, 0xFFF8, 7]] (lane 0 [3, 0, 0xFFF8, 9])) ∧
    (MetWave Op.segr (fun _ _ => True) (wd 0 (r 8) (r 3) (r 1)) (st [lane 0 [3, 0, 0xFFF8, 9], lane 31 [3, 0, 0xFFF8, 7]]) (wave [lane 0 [3, 0,
        0xFFF8, 9], lane 31 [3, 0, 0xFFF8, 7]]) [lane 0 [3, 0, 0xFFF8, 9], lane 31 [3, 0, 0xFFF8, 7]] (lane 0 [3, 0, 0xFFF8, 9])) ∧
    (MetAt Op.bsrch (fun c _ x => (c.c4 x).toNat = 0 ∧ (c.a64 x).toNat % 4 = 0) (wd 0 (r 8) (pr 4) (r 2) 3) (st [f0]) (wave [f0]) (f0)) ∧
    (∃ e l, MetAt Op.bsrch (fun c s x => Plain s x ∧ (c.c4 x).toNat = 1 ∧ Resident s c (c.a64 x) 4 false e ∧
        s.l1Line? c.core (e.line (c.a64 x)) = some l ∧ SoundL1 s (e.line (c.a64 x)) l ∧
        l.valid &&& byteMask (e.at_ (c.a64 x) % 64) 4 = byteMask (e.at_ (c.a64 x) % 64) 4) (wd 0 (r 8) (pr 4) (r 6) 7) (State.cached (State.paged (st [fib [1,
        0, 0, 0, 60, 0, 0, 1]]))) (wave [fib [1, 0, 0, 0, 60, 0, 0, 1]]) (fib [1, 0, 0, 0, 60, 0, 0, 1])) ∧
    (∃ e l, MetAt Op.glds (fun c s x => Plain s x ∧ c.wv.arrived.getLsbD x.lane = true ∧ Resident s c (c.a64 x) (szBytes c.w.mod) false e ∧
        modField c.w.mod 6 2 ≠ 3 ∧ s.l1Line? c.core (e.line (c.a64 x)) = some l ∧ SoundL1 s (e.line (c.a64 x)) l ∧
        l.valid &&& byteMask (e.at_ (c.a64 x) % 64) (szBytes c.w.mod) = byteMask (e.at_ (c.a64 x) % 64) (szBytes c.w.mod)) (wd 5 (pr 8) (pr 4) (r 0) 56) ({ cached with waves := [{ theWave with arrived := 1 }] }) ({ theWave with arrived := 1 }) (f0)) :=
  ⟨⟨theTeam, by decide +kernel⟩,
   ⟨theTeam, by decide +kernel⟩,
   by decide +kernel,
   ⟨theTeam, by decide +kernel⟩,
   ⟨theTeam, by decide +kernel⟩,
   by decide +kernel,
   by decide +kernel,
   ⟨te, theLine, by decide +kernel⟩,
   ⟨te, theLine, by decide +kernel⟩⟩

theorem witness_TileMoves :
    (∃ t x, MetWave Op.tcfg (fun c s => let a := (c.a c.lead).toNat; s.teamOf? c.lead.id.crew = some t ∧ TileAt s t c.w.d.n.toNat x ∧
        a = a % 128 + a / 256 % 128 * 256 + a / 65536 % 4 * 65536 ∧
        (a % 128 + 1) * (a / 256 % 128 + 1) * (4 * 2 ^ (a / 65536 % 4)) ≤ 65536) (wd 0 (r 15) (r 2) (r 0)) (blocked 0x7F7F theTeam) (wave [at2 0x7F7F]) [at2 0x7F7F] (at2 0x7F7F)) ∧
    (∃ t x, MetWave Op.tzero (fun c s => s.teamOf? c.lead.id.crew = some t ∧
        TileAt s t c.w.d.n.toNat x) (wd 0 (r 15) (r 0) (r 0)) (st [f0]) (wave [f0]) [f0] (f0)) ∧
    (∃ t x, MetWave Op.tmovw (fun c s => s.teamOf? c.lead.id.crew = some t ∧ TileAt s t c.w.d.n.toNat x ∧
        ∀ f ∈ c.act, (c.b f).toNat < 2048) (wd 0 (r 0) (r 2) (r 3)) ((st [lane 0 [1, 0, 5, 0], lane 31 [1, 0, 6,
        2047]]).setTeam (tiled [tile 32 64 3])) (wave [lane 0 [1, 0, 5, 0], lane 31 [1, 0, 6, 2047]]) [lane 0 [1, 0, 5, 0], lane 31 [1, 0, 6,
        2047]] (lane 0 [1, 0, 5, 0])) ∧
    (∃ t y, MetWave Op.tmovr (fun c s => s.teamOf? c.lead.id.crew = some t ∧ TileAt s t c.w.a.n.toNat y ∧ ∀ f ∈ c.act, (c.b f).toNat < 2048 ∧
        (c.b f).toNat / 16 ∉ y.poison) (wd 0 (r 8) (r 0) (r 3)) ((st [lane 0 [1, 0, 5, 0], lane 31 [1, 0, 6,
        2047]]).setTeam (tiled [{ tile 32 64 3 with bits := 0x500000007 }])) (wave [lane 0 [1, 0, 5, 0], lane 31 [1, 0, 6, 2047]]) [lane 0 [1, 0, 5,
        0], lane 31 [1, 0, 6, 2047]] (lane 0 [1, 0, 5, 0])) ∧
    (∃ t x y, MetWave Op.ttrn (fun c s => s.teamOf? c.lead.id.crew = some t ∧ TileAt s t c.w.d.n.toNat x ∧ TileAt s t c.w.a.n.toNat y ∧
        x.rows = y.cols ∧ x.cols = y.rows ∧ x.width = y.width) (wd 0 (r 0) (r 1) (r 0)) (owned (tiled [tile 2 3 3,
        { tile 3 2 3 with bits := 0x500000007 }])) (wave [f0]) [f0] (f0)) ∧
    (∃ t y, MetWave Op.tnz (fun c s => s.teamOf? c.lead.id.crew = some t ∧ TileAt s t c.w.a.n.toNat y ∧
        y.width = elTileWidth (modField c.w.mod 0 3) ∧
        t.badTile c.w.a.n.toNat = false) (wd 0 (pr 8) (r 0) (r 0)) (owned (tiled [{ tile 3 8 3 with bits := 0x80000005000000070000000A }])) (wave [f0]) [f0] (f0)) ∧
    (∃ t y, MetWave Op.tnz (fun c s => s.teamOf? c.lead.id.crew = some t ∧ TileAt s t c.w.a.n.toNat y ∧
        y.width = elTileWidth (modField c.w.mod 0 3) ∧
        t.badTile c.w.a.n.toNat = false) (wd 1 (pr 8) (r 0) (r 0)) (owned (tiled [{ tile 3 8 3 with bits := 0x80000005000000070000000A }])) (wave [f0]) [f0] (f0)) ∧
    (∃ t y p, MetWave Op.tpiv (fun c s => s.teamOf? c.lead.id.crew = some t ∧ TileAt s t c.w.a.n.toNat y ∧
        y.pivot = p) (wd 0 (pr 8) (r 0) (r 0)) (owned (tiled [{ tile 2 2 3 with pivot := none }])) (wave [f0]) [f0] (f0)) ∧
    (∃ t y p, MetWave Op.tpiv (fun c s => s.teamOf? c.lead.id.crew = some t ∧ TileAt s t c.w.a.n.toNat y ∧
        y.pivot = p) (wd 0 (pr 8) (r 0) (r 0)) (owned (tiled [{ tile 2 2 3 with pivot := some { perm := [1, 0], zero := some 1, n := 2, clamped := 3, chol := true } }])) (wave [f0]) [f0] (f0)) ∧
    (∃ t, MetWave Op.mwait (fun c s => s.teamOf? c.lead.id.crew = some t ∧ (∀ o ∈ s.tileOps, ¬(o.launch = t.launch ∧ o.team = t.id)) ∧
        s.tilesStoring t [] = [] ∧ ∀ f ∈ s.fibres, t.owns f.id.crew = true →
        ∀ d ∈ f.dues, d.1.kind ≠ 3) (word 0 0 0 0) (st [f0]) (wave [f0]) [f0] (f0)) ∧
    (∃ (y : Tile) (i j : Nat), i < y.rows ∧ j < y.cols) :=
  ⟨⟨theTeam, grantTile, by decide +kernel⟩,
   ⟨theTeam, grantTile, by decide +kernel⟩,
   ⟨tiled [tile 32 64 3], tile 32 64 3, by decide +kernel⟩,
   ⟨tiled [{ tile 32 64 3 with bits := 0x500000007 }], { tile 32 64 3 with bits := 0x500000007 }, by decide +kernel⟩,
   ⟨tiled [tile 2 3 3, { tile 3 2 3 with bits := 0x500000007 }], tile 2 3 3, { tile 3 2 3 with bits := 0x500000007 }, by decide +kernel⟩,
   ⟨tiled [{ tile 3 8 3 with bits := 0x80000005000000070000000A }], { tile 3 8 3 with bits := 0x80000005000000070000000A }, by decide +kernel⟩,
   ⟨tiled [{ tile 3 8 3 with bits := 0x80000005000000070000000A }], { tile 3 8 3 with bits := 0x80000005000000070000000A }, by decide +kernel⟩,
   ⟨tiled [{ tile 2 2 3 with pivot := none }], { tile 2 2 3 with pivot := none }, none, by decide +kernel⟩,
   ⟨tiled [{ tile 2 2 3 with pivot := some { perm := [1, 0], zero := some 1, n := 2, clamped := 3, chol := true } }],
        { tile 2 2 3 with pivot := some { perm := [1, 0], zero := some 1, n := 2, clamped := 3, chol := true } },
        some { perm := [1, 0], zero := some 1, n := 2, clamped := 3, chol := true }, by decide +kernel⟩,
   ⟨theTeam, by decide +kernel⟩,
   ⟨tile 128 128 2, 127, 127, by decide⟩⟩

theorem witness_TileTransfers :
    (∃ t x, let row := fun (base : Nat) (stride : Int) (i : Nat) => (((base : Int) + i * stride) % 2 ^ 32).toNat;
        MetWave Op.tld (fun c s => let n := x.cols * x.wbits / 8; let base := (c.a c.lead + c.w.imm).toNat; s.teamOf? c.lead.id.crew = some t ∧
        TileAt s t c.w.d.n.toNat x ∧ globalForm c.w = false ∧ x.cols * x.wbits % 8 = 0 ∧ base % 4 = 0 ∧ c.stride % 4 = 0 ∧ ∀ i, i < x.rows →
        row base c.stride i + n ≤ t.spSize ∧ t.bad (row base c.stride i) n = false) (wd 0 (r 0) (r 2) (r 3) 0xFFF0) ((st [fib [1, 0, 0,
        8]]).setTeam (tiled [{ tile 2 2 3 with bits := 0x80000005000000070000000A00000001 }])) (wave [fib [1, 0, 0, 8]]) [fib [1, 0, 0, 8]] (fib [1,
        0, 0, 8])) ∧
    (∃ t x, let row := fun (base : Nat) (stride : Int) (i : Nat) => (((base : Int) + i * stride) % 2 ^ 32).toNat;
        MetWave Op.tld (fun c s => let n := x.cols * x.wbits / 8; let base := (c.a c.lead + c.w.imm).toNat; s.teamOf? c.lead.id.crew = some t ∧
        TileAt s t c.w.d.n.toNat x ∧ globalForm c.w = false ∧ x.cols * x.wbits % 8 = 0 ∧ base % 4 = 0 ∧ c.stride % 4 = 0 ∧ ∀ i, i < x.rows →
        row base c.stride i + n ≤ t.spSize ∧ t.bad (row base c.stride i) n = false) (wd 0 (r 0) (r 2) (r 3) 0xFFF8) ((st [fib [1, 0, 0,
        0xFFFFFFF8]]).setTeam (tiled [{ tile 2 2 3 with bits := 0x80000005000000070000000A00000001 }])) (wave [fib [1, 0, 0, 0xFFFFFFF8]]) [fib [1,
        0, 0, 0xFFFFFFF8]] (fib [1, 0, 0, 0xFFFFFFF8])) ∧
    (∃ t x, let row := fun (base : Nat) (stride : Int) (i : Nat) => (((base : Int) + i * stride) % 2 ^ 32).toNat;
        MetWave Op.tst (fun c s => let n := x.cols * x.wbits / 8; let base := (c.a c.lead + c.w.imm).toNat; s.teamOf? c.lead.id.crew = some t ∧
        TileAt s t c.w.d.n.toNat x ∧ t.badTile c.w.d.n.toNat = false ∧ globalForm c.w = false ∧ x.cols * x.wbits % 8 = 0 ∧ base % 4 = 0 ∧
        c.stride % 4 = 0 ∧ ∀ i, i < x.rows → row base c.stride i + n ≤ t.spSize) (wd 0 (r 0) (r 2) (r 3) 0xFFF0) ((st [fib [1, 0, 0,
        8]]).setTeam (tiled [{ tile 2 2 3 with bits := 0x80000005000000070000000A00000001 }])) (wave [fib [1, 0, 0, 8]]) [fib [1, 0, 0, 8]] (fib [1,
        0, 0, 8])) ∧
    (∃ t x, let row := fun (base : Nat) (stride : Int) (i : Nat) => (((base : Int) + i * stride) % 2 ^ 32).toNat;
        MetWave Op.tst (fun c s => let n := x.cols * x.wbits / 8; let base := (c.a c.lead + c.w.imm).toNat; s.teamOf? c.lead.id.crew = some t ∧
        TileAt s t c.w.d.n.toNat x ∧ t.badTile c.w.d.n.toNat = false ∧ globalForm c.w = false ∧ x.cols * x.wbits % 8 = 0 ∧ base % 4 = 0 ∧
        c.stride % 4 = 0 ∧ ∀ i, i < x.rows → row base c.stride i + n ≤ t.spSize) (wd 0 (r 0) (r 2) (r 3) 0xFFF8) ((st [fib [1, 0, 0,
        0xFFFFFFF8]]).setTeam (tiled [{ tile 2 2 3 with bits := 0x80000005000000070000000A00000001 }])) (wave [fib [1, 0, 0, 0xFFFFFFF8]]) [fib [1,
        0, 0, 0xFFFFFFF8]] (fib [1, 0, 0, 0xFFFFFFF8])) ∧
    (∃ t x, let row := fun (base : Nat) (stride : Int) (i : Nat) => (((base : Int) + i * stride) % 2 ^ 32).toNat;
        MetWave Op.tcb (fun c s => let n := x.cols * 4 / 8; let base := (c.a c.lead).toNat; s.teamOf? c.lead.id.crew = some t ∧
        TileAt s t c.w.d.n.toNat x ∧ globalForm c.w = false ∧ x.cols * 4 % 8 = 0 ∧ x.width = 2 ∧ (c.c4 c.lead).toNat < 8 ∧ base % 4 = 0 ∧
        c.stride % 4 = 0 ∧ ∀ i, i < x.rows → row base c.stride i + n ≤ t.spSize ∧
        t.bad (row base c.stride i) n = false) (wd 0 (r 0) (r 2) (r 3) 4) ((st [fib [1, 0, 0xFFF0, 12,
        7]]).setTeam (tiled [tile 2 4 2])) (wave [fib [1, 0, 0xFFF0, 12, 7]]) [fib [1, 0, 0xFFF0, 12, 7]] (fib [1, 0, 0xFFF0, 12, 7])) ∧
    (∃ t x e l, MetWave Op.tld (fun c s => let n := x.cols * x.wbits / 8; let va := c.a64 c.lead + .sext c.w.imm;
        s.teamOf? c.lead.id.crew = some t ∧ TileAt s t c.w.d.n.toNat x ∧ globalForm c.w = true ∧ x.rows = 1 ∧ x.cols * x.wbits % 8 = 0 ∧
        va.toNat % 4 = 0 ∧ c.stride % 4 = 0 ∧ RowAhead s c va n false e ∧ Unowned s ∧ (∀ f ∈ c.act, f.held = []) ∧ SoundL1 s (e.line va) l ∧
        modField c.w.mod 6 2 ≠ 3 ∧ s.l1Line? c.core (e.line va) = some l ∧
        l.valid &&& byteMask (e.at_ va % 64) n = byteMask (e.at_ va % 64) n) (wd 0 (r 0) (pr 4) (r 2) 56) (far (tiled [tile 1 2 3])) (wave [f0]) [f0] (f0)) ∧
    (∃ t x e l, MetWave Op.tst (fun c s => let n := x.cols * x.wbits / 8; let va := c.a64 c.lead + .sext c.w.imm;
        s.teamOf? c.lead.id.crew = some t ∧ TileAt s t c.w.d.n.toNat x ∧ globalForm c.w = true ∧ x.rows = 1 ∧ x.cols * x.wbits % 8 = 0 ∧
        va.toNat % 4 = 0 ∧ c.stride % 4 = 0 ∧ RowAhead s c va n true e ∧ t.badTile c.w.d.n.toNat = false ∧ (∀ f ∈ c.act, f.held = []) ∧
        modField c.w.mod 6 2 ≠ 3 ∧
        s.l1Line? c.core (e.line va) = some l) (wd 0 (r 0) (pr 4) (r 2) 56) (far (tiled [tile 1 2 3])) (wave [f0]) [f0] (f0)) ∧
    (∃ t x e l, MetWave Op.tcb (fun c s => let n := x.cols * 4 / 8; let va := c.a64 c.lead; s.teamOf? c.lead.id.crew = some t ∧
        TileAt s t c.w.d.n.toNat x ∧ globalForm c.w = true ∧ x.rows = 1 ∧ x.cols * 4 % 8 = 0 ∧ x.width = 2 ∧ (c.c4 c.lead).toNat < 8 ∧
        va.toNat % 4 = 0 ∧ c.stride % 4 = 0 ∧ RowAhead s c va n false e ∧ Unowned s ∧ (∀ f ∈ c.act, f.held = []) ∧ SoundL1 s (e.line va) l ∧
        s.l1Line? c.core (e.line va) = some l ∧
        l.valid &&& byteMask (e.at_ va % 64) n = byteMask (e.at_ va % 64) n) (wd 0 (r 0) (pr 4) (r 2) 2) (far (tiled [tile 1 128 2])) (wave [f0]) [f0] (f0)) :=
  ⟨⟨tiled [{ tile 2 2 3 with bits := 0x80000005000000070000000A00000001 }], { tile 2 2 3 with bits := 0x80000005000000070000000A00000001 },
        by decide +kernel⟩,
   ⟨tiled [{ tile 2 2 3 with bits := 0x80000005000000070000000A00000001 }], { tile 2 2 3 with bits := 0x80000005000000070000000A00000001 },
        by decide +kernel⟩,
   ⟨tiled [{ tile 2 2 3 with bits := 0x80000005000000070000000A00000001 }], { tile 2 2 3 with bits := 0x80000005000000070000000A00000001 },
        by decide +kernel⟩,
   ⟨tiled [{ tile 2 2 3 with bits := 0x80000005000000070000000A00000001 }], { tile 2 2 3 with bits := 0x80000005000000070000000A00000001 },
        by decide +kernel⟩,
   ⟨tiled [tile 2 4 2], tile 2 4 2, by decide +kernel⟩,
   ⟨tiled [tile 1 2 3], tile 1 2 3, te, theLine, by decide +kernel⟩,
   ⟨tiled [tile 1 2 3], tile 1 2 3, te, theLine, by decide +kernel⟩,
   ⟨tiled [tile 1 128 2], tile 1 128 2, te, theLine, by decide +kernel⟩⟩

theorem witness_TileArithmetic :
    (∃ t x y, MetWave Op.tscal (fun c s => s.teamOf? c.lead.id.crew = some t ∧ TileAt s t c.w.d.n.toNat x ∧ TileAt s t c.w.a.n.toNat y ∧
        y.width = 3 ∧ sameShape x y = true) (wd 0 (r 0) (r 1) (r 3)) ((st [fib [1, 0, 0, 0x40000000]]).setTeam (tiled [tile 2 2 3,
        { tile 2 2 3 with bits := 0x3F8000004000000040400000C0000000 },
        { tile 2 2 3 with bits := 0x3F8000004000000040400000C0000000 }])) (wave [fib [1, 0, 0, 0x40000000]]) [fib [1, 0, 0, 0x40000000]] (fib [1, 0,
        0, 0x40000000])) ∧
    (∃ t x y z, MetWave Op.tadd (fun c s => s.teamOf? c.lead.id.crew = some t ∧ TileAt s t c.w.d.n.toNat x ∧ TileAt s t c.w.a.n.toNat y ∧
        TileAt s t c.w.b.n.toNat z ∧ y.width = 3 ∧ sameShape z y = true ∧ sameShape x y = true) (wd 0 (r 0) (r 1) (r 2)) (owned (tiled [tile 2 2 3,
        { tile 2 2 3 with bits := 0x3F8000004000000040400000C0000000 },
        { tile 2 2 3 with bits := 0x3F8000004000000040400000C0000000 }])) (wave [f0]) [f0] (f0)) ∧
    (∃ t x y, MetWave Op.tred (fun c s => s.teamOf? c.lead.id.crew = some t ∧ TileAt s t c.w.d.n.toNat x ∧ TileAt s t c.w.a.n.toNat y ∧
        y.width = 3 ∧ x.rows = y.rows ∧ x.cols = 1 ∧ x.width = 3 ∧
        c.w.d.n.toNat ≠ c.w.a.n.toNat) (wd 0 (r 0) (r 1) (r 0)) (owned (tiled [tile 2 1 3,
        { tile 2 2 3 with bits := 0x3F8000004000000040400000C0000000 }])) (wave [f0]) [f0] (f0)) :=
  ⟨⟨tiled [tile 2 2 3, { tile 2 2 3 with bits := 0x3F8000004000000040400000C0000000 },
        { tile 2 2 3 with bits := 0x3F8000004000000040400000C0000000 }], tile 2 2 3, { tile 2 2 3 with bits := 0x3F8000004000000040400000C0000000 },
        by decide +kernel⟩,
   ⟨tiled [tile 2 2 3, { tile 2 2 3 with bits := 0x3F8000004000000040400000C0000000 },
        { tile 2 2 3 with bits := 0x3F8000004000000040400000C0000000 }], tile 2 2 3, { tile 2 2 3 with bits := 0x3F8000004000000040400000C0000000 },
        { tile 2 2 3 with bits := 0x3F8000004000000040400000C0000000 }, by decide +kernel⟩,
   ⟨tiled [tile 2 1 3, { tile 2 2 3 with bits := 0x3F8000004000000040400000C0000000 }], tile 2 1 3,
        { tile 2 2 3 with bits := 0x3F8000004000000040400000C0000000 }, by decide +kernel⟩⟩

theorem witness_MatrixMultiply :
    (∃ t o, MetWave Op.mma ((fun c s => s.teamOf? c.lead.id.crew = some t ∧ (mmaOperands c t false true none).run s = .ok (o,
        s))) (wd 0 (r 0) (r 2) (r 3)) (owned (mmaTeam [tile 1 2 2, tile 2 1 2])) (wave [f0]) [f0] f0) ∧
    (∃ t o, MetWave Op.mmai ((fun c s => s.teamOf? c.lead.id.crew = some t ∧ (mmaOperands c t false true none).run s = .ok (o,
        s))) (wd 0x10 (r 0) (r 2) (r 3)) (owned (mmaTeam [tile 1 2 1, tile 2 1 1])) (wave [f0]) [f0] f0) ∧
    (∃ t o, MetWave Op.mmas ((fun c s => s.teamOf? c.lead.id.crew = some t ∧ (mmaOperands c t true true none).run s = .ok (o,
        s))) (wd 0 (r 0) (r 2) (r 4)) (owned (mmaTeam [tile 1 2 2, tile 1 2 0, tile 16 1 2])) (wave [f0]) [f0] f0) ∧
    (∃ t sc o, MetWave Op.mmaq ((fun c s => s.teamOf? c.lead.id.crew = some t ∧ t.tiles[c.w.c.n.toNat]? = some sc ∧ sc.allot = true ∧
        (mmaOperands c t false true (some c.w.c.n.toNat)).run s = .ok (o, s))) (wd 8 (r 0) (r 2) (r 3) 4) (owned (mmaTeam [tile 1 2 1, tile 2 1 1,
        tile 4 128 1])) (wave [f0]) [f0] f0) ∧
    (∃ t o a e l, MetWave Op.mmag ((fun c s => s.teamOf? c.lead.id.crew = some t ∧ (gatherRows c t).run s = .ok ([a], s) ∧
        RowAhead s c a 64 false e ∧ Unowned s ∧
        (mmaOperands c t false false none (do let _ ← gatherRecord c t; pure ()) (gatherShape c t)).run s = .ok (o, s) ∧
        (∀ f ∈ c.act, f.held = []) ∧ SoundL1 s (e.line a) l ∧ s.l1Line? c.core (e.line a) = some l ∧
        l.valid = BitVec.allOnes 64)) (wd 0 (r 0) (r 2) (r 2)) gatherState (wave [fGather]) [fGather] fGather) ∧
    (∃ (c : Ctx) (s : State) (t : Team) (x y z : Tile), mmaFuse c.w.mod ≠ 3 ∧ mmaAcc16 c.w.mod = true ∧ TileAt s t c.w.d.n.toNat x ∧
        TileAt s t c.w.a.n.toNat y ∧ TileAt s t c.w.b.n.toNat z ∧ x.rows = (mmaDims (mmaFuse c.w.mod)).1 ∧ x.cols = (mmaDims (mmaFuse c.w.mod)).2 ∧
        x.width = 2 ∧ y.width = mmaWidth c.w.mod ∧ y.rows ≤ (mmaDims (mmaFuse c.w.mod)).1 ∧ y.cols ≤ mmaK c.w.mod ∧ z.width = mmaWidth c.w.mod ∧
        z.rows = y.cols ∧ z.cols ≤ (mmaDims (mmaFuse c.w.mod)).2 ∧ c.w.d.n ≠ c.w.a.n ∧ c.w.d.n ≠ c.w.b.n) :=
  ⟨by obtain ⟨o, ho⟩ := ok_same (x := (mmaOperands (issueCtx Op.mma (wd 0 (r 0) (r 2) (r 3)) (owned (mmaTeam [tile 1 2 2,
        tile 2 1 2])) (wave [f0]) [f0] f0.pc) (mmaTeam [tile 1 2 2, tile 2 1 2]) false true none).run (owned (mmaTeam [tile 1 2 2,
        tile 2 1 2]))) (owned (mmaTeam [tile 1 2 2, tile 2 1 2])) (by decide +kernel); exact ⟨mmaTeam [tile 1 2 2, tile 2 1 2], o,
        by decide +kernel, by decide +kernel, ho⟩,
   by obtain ⟨o, ho⟩ := ok_same (x := (mmaOperands (issueCtx Op.mmai (wd 0x10 (r 0) (r 2) (r 3)) (owned (mmaTeam [tile 1 2 1,
        tile 2 1 1])) (wave [f0]) [f0] f0.pc) (mmaTeam [tile 1 2 1, tile 2 1 1]) false true none).run (owned (mmaTeam [tile 1 2 1,
        tile 2 1 1]))) (owned (mmaTeam [tile 1 2 1, tile 2 1 1])) (by decide +kernel); exact ⟨mmaTeam [tile 1 2 1, tile 2 1 1], o,
        by decide +kernel, by decide +kernel, ho⟩,
   by obtain ⟨o, ho⟩ := ok_same (x := (mmaOperands (issueCtx Op.mmas (wd 0 (r 0) (r 2) (r 4)) (owned (mmaTeam [tile 1 2 2, tile 1 2 0,
        tile 16 1 2])) (wave [f0]) [f0] f0.pc) (mmaTeam [tile 1 2 2, tile 1 2 0, tile 16 1 2]) true true none).run (owned (mmaTeam [tile 1 2 2,
        tile 1 2 0, tile 16 1 2]))) (owned (mmaTeam [tile 1 2 2, tile 1 2 0, tile 16 1 2])) (by decide +kernel); exact ⟨mmaTeam [tile 1 2 2,
        tile 1 2 0, tile 16 1 2], o, by decide +kernel, by decide +kernel, ho⟩,
   by obtain ⟨o, ho⟩ := ok_same (x := (mmaOperands (issueCtx Op.mmaq (wd 8 (r 0) (r 2) (r 3) 4) (owned (mmaTeam [tile 1 2 1, tile 2 1 1,
        tile 4 128 1])) (wave [f0]) [f0] f0.pc) (mmaTeam [tile 1 2 1, tile 2 1 1,
        tile 4 128 1]) false true (some 4)).run (owned (mmaTeam [tile 1 2 1, tile 2 1 1, tile 4 128 1]))) (owned (mmaTeam [tile 1 2 1, tile 2 1 1,
        tile 4 128 1])) (by decide +kernel); exact ⟨mmaTeam [tile 1 2 1, tile 2 1 1, tile 4 128 1], tile 4 128 1, o, by decide +kernel,
        by decide +kernel, by decide +kernel, by decide +kernel, ho⟩,
   by obtain ⟨o, ho⟩ := ok_same (x := (mmaOperands (issueCtx Op.mmag (wd 0 (r 0) (r 2) (r 2)) gatherState (wave [fGather]) [fGather] fGather.pc) gathering false false none (gatherRecord (issueCtx Op.mmag (wd 0 (r 0) (r 2) (r 2)) gatherState (wave [fGather]) [fGather] fGather.pc) gathering >>= fun _ => pure ()) (gatherShape (issueCtx Op.mmag (wd 0 (r 0) (r 2) (r 2)) gatherState (wave [fGather]) [fGather] fGather.pc) gathering)).run gatherState) gatherState (by decide +kernel);
        exact ⟨gathering, o, 0, te, theLine, by decide +kernel, by decide +kernel, ok_at (by decide +kernel), by decide +kernel, by decide +kernel,
        ho, by decide +kernel⟩,
   ⟨(issueCtx .mma (wd 0x20 (r 0) (r 1) (r 2)) (owned (tiled [tile 32 128 2, tile 1 2 2, tile 2 1 2])) theWave [f0] 0), owned (tiled [tile 32 128 2,
        tile 1 2 2, tile 2 1 2]), (tiled [tile 32 128 2, tile 1 2 2, tile 2 1 2]), tile 32 128 2, tile 1 2 2, tile 2 1 2, by decide +kernel⟩⟩

theorem witness_Factorisations :
    (∃ t ts, MetWave Op.tlu ((fun c s => s.teamOf? c.lead.id.crew = some t ∧ MatrixAt s t (modBit c.w.mod 0) c.w.d.n.toNat ts ∧
        matCols ts = matRows ts ∧ matRows ts ≤ 64)) (wd 0 (r 0) (r 0) (r 0)) (owned (tiled [square])) (wave [f0]) [f0] f0) ∧
    (∃ t ts, MetWave Op.tlu ((fun c s => s.teamOf? c.lead.id.crew = some t ∧ MatrixAt s t (modBit c.w.mod 0) c.w.d.n.toNat ts ∧
        matCols ts = matRows ts ∧ matRows ts ≤ 64)) (wd 1 (r 1) (r 0) (r 0)) (owned (tiled [tile 1 1 3, tile 2 3 3,
        tile 1 3 3])) (wave [f0]) [f0] f0) ∧
    (∃ t ts, MetWave Op.tchl ((fun c s => s.teamOf? c.lead.id.crew = some t ∧ MatrixAt s t (modBit c.w.mod 0) c.w.d.n.toNat ts ∧
        matCols ts = matRows ts ∧ matRows ts ≤ 64)) (wd 0 (r 0) (r 0) (r 0)) (owned (tiled [square])) (wave [f0]) [f0] f0) ∧
    (∃ t ts, MetWave Op.tchl ((fun c s => s.teamOf? c.lead.id.crew = some t ∧ MatrixAt s t (modBit c.w.mod 0) c.w.d.n.toNat ts ∧
        matCols ts = matRows ts ∧ matRows ts ≤ 64)) (wd 1 (r 1) (r 0) (r 0)) (owned (tiled [tile 1 1 3, tile 2 3 3,
        tile 1 3 3])) (wave [f0]) [f0] f0) ∧
    (∃ t ds as, MetWave Op.ttrs ((fun c s => s.teamOf? c.lead.id.crew = some t ∧ MatrixAt s t (modBit c.w.mod 3) c.w.d.n.toNat ds ∧
        MatrixAt s t (modBit c.w.mod 3) c.w.a.n.toNat as ∧ matCols as = matRows as ∧ matRows as ≤ 64 ∧ matRows ds = matRows as ∧ matCols ds ≤ 64 ∧
        ∀ k ∈ matTiles (modBit c.w.mod 3) c.w.d.n.toNat, k ∉ matTiles (modBit c.w.mod 3) c.w.a.n.toNat)) (wd 0 (r 0) (r 1) (r 0)) (owned (tiled [tile 2 3 3,
        square])) (wave [f0]) [f0] f0) ∧
    (∃ t ds as, MetWave Op.ttrs ((fun c s => s.teamOf? c.lead.id.crew = some t ∧ MatrixAt s t (modBit c.w.mod 3) c.w.d.n.toNat ds ∧
        MatrixAt s t (modBit c.w.mod 3) c.w.a.n.toNat as ∧ matCols as = matRows as ∧ matRows as ≤ 64 ∧ matRows ds = matRows as ∧ matCols ds ≤ 64 ∧
        ∀ k ∈ matTiles (modBit c.w.mod 3) c.w.d.n.toNat, k ∉ matTiles (modBit c.w.mod 3) c.w.a.n.toNat)) (wd 7 (r 0) (r 1) (r 0)) (owned (tiled [tile 2 3 3,
        square])) (wave [f0]) [f0] f0) ∧
    (∃ t ds as bs, MetWave Op.tmv ((fun c s => let pair := modBit c.w.mod 0; s.teamOf? c.lead.id.crew = some t ∧
        MatrixAt s t pair c.w.d.n.toNat ds ∧ MatrixAt s t pair c.w.a.n.toNat as ∧ MatrixAt s t pair c.w.b.n.toNat bs ∧ matRows as ≤ 64 ∧
        matCols as ≤ 64 ∧ matRows bs = matCols as ∧ matCols bs ≤ 64 ∧ matRows ds = matRows as ∧ matCols ds = matCols bs ∧
        ∀ k ∈ matTiles pair c.w.d.n.toNat, k ∉ matTiles pair c.w.a.n.toNat ∧
        k ∉ matTiles pair c.w.b.n.toNat)) (wd 0 (r 0) (r 1) (r 2)) (owned (tiled [tile 2 2 3, square, square])) (wave [f0]) [f0] f0) :=
  ⟨⟨tiled [square], [square], by decide +kernel, by decide +kernel, matrix_one (by decide +kernel), by decide +kernel, by decide +kernel⟩,
   ⟨tiled [tile 1 1 3, tile 2 3 3, tile 1 3 3], [tile 2 3 3, tile 1 3 3], by decide +kernel, by decide +kernel, matrix_two (by decide +kernel),
        by decide +kernel, by decide +kernel⟩,
   ⟨tiled [square], [square], by decide +kernel, by decide +kernel, matrix_one (by decide +kernel), by decide +kernel, by decide +kernel⟩,
   ⟨tiled [tile 1 1 3, tile 2 3 3, tile 1 3 3], [tile 2 3 3, tile 1 3 3], by decide +kernel, by decide +kernel, matrix_two (by decide +kernel),
        by decide +kernel, by decide +kernel⟩,
   ⟨tiled [tile 2 3 3, square], [tile 2 3 3], [square], by decide +kernel, by decide +kernel, matrix_one (by decide +kernel),
        matrix_one (by decide +kernel), by decide +kernel, by decide +kernel, by decide +kernel, by decide +kernel, by decide +kernel⟩,
   ⟨tiled [tile 2 3 3, square], [tile 2 3 3], [square], by decide +kernel, by decide +kernel, matrix_one (by decide +kernel),
        matrix_one (by decide +kernel), by decide +kernel, by decide +kernel, by decide +kernel, by decide +kernel, by decide +kernel⟩,
   ⟨tiled [tile 2 2 3, square, square], [tile 2 2 3], [square], [square], by decide +kernel, by decide +kernel, matrix_one (by decide +kernel),
        matrix_one (by decide +kernel), matrix_one (by decide +kernel), by decide +kernel⟩⟩

theorem witness_SystemResults :
    (∃ l, MetWave Op.hnot (fun c s => AllQuiet s c ∧ NoSpan s c ∧ s.launch? c.launch = some l ∧
        (s.queue l.queue).nsize = 0) (wd 0 (r 0) (r 2) (r 0)) (st [f0]) (wave [f0]) [f0] (f0)) ∧
    (∃ l, MetWave Op.hnot (fun c s => AllQuiet s c ∧ NoSpan s c ∧ s.launch? c.launch = some l ∧ (s.queue l.queue).nsize ≠ 0 ∧
        (s.queue l.queue).ntail - (s.queue l.queue).nhead + BitVec.ofNat 32 (s.queue l.queue).notes.length ≠ (s.queue l.queue).nsize) (wd 0 (r 0) (r 2) (r 0)) ((st [f0]).setQueue 0 (fun q => { q with nsize := 1 })) (wave [f0]) [f0] (f0)) ∧
    (MetAt Op.tlbi (fun c s x => (c.a64 x).toNat < 2 ^ 50 ∧ (c.a64 x).toNat % 32768 = 0 ∧ NoSpan s c ∧ Quiet s c.core x ∧
        s.oldAccess { first := (c.a64 x).toNat / 32768, count := (c.b x).toNat, queue := if ((s.launch? c.launch).map Launch.system).getD false then none else some (s.queueOf c.launch) } = false) (wd 6 (r 0) (pr 4) (r 2)) (State.paged (st [fib [1,
        0, 0xFFFFFFFF, 0, 0xFFFF8000, 0x3FFFF]])) (wave [fib [1, 0, 0xFFFFFFFF, 0, 0xFFFF8000, 0x3FFFF]]) (fib [1, 0, 0xFFFFFFFF, 0, 0xFFFF8000,
        0x3FFFF])) ∧
    (MetAt Op.tlbi (fun c s x => (c.a64 x).toNat < 2 ^ 50 ∧ (c.a64 x).toNat % 32768 = 0 ∧ NoSpan s c ∧ Quiet s c.core x ∧
        s.oldAccess { first := (c.a64 x).toNat / 32768, count := (c.b x).toNat, queue := if ((s.launch? c.launch).map Launch.system).getD false then none else some (s.queueOf c.launch) } = false) (wd 1 (r 0) (pr 4) (r 2)) (State.paged (st [at2 1])) (wave [at2 1]) (at2 1)) ∧
    (MetAt Op.l2wb (fun c s x => (c.a64 x).toNat + (c.b x).toNat ≤ deviceBytes ∧ (c.a64 x).toNat % 64 = 0 ∧ (c.b x).toNat % 64 = 0 ∧
        ∀ k ∈ s.mem.locks, ∀ l ∈ s.mem.codeLines k.line, ¬((c.a64 x).toNat / 64 ≤ l ∧
        l < ((c.a64 x).toNat + (c.b x).toNat) / 64)) (wd 0 (r 0) (pr 4) (r 2)) (blocked 64 theTeam) (wave [at2 64]) (at2 64)) ∧
    (MetAt Op.l2wb (fun c s x => (c.a64 x).toNat + (c.b x).toNat ≤ deviceBytes ∧ (c.a64 x).toNat % 64 = 0 ∧ (c.b x).toNat % 64 = 0 ∧
        ∀ k ∈ s.mem.locks, ∀ l ∈ s.mem.codeLines k.line, ¬((c.a64 x).toNat / 64 ≤ l ∧
        l < ((c.a64 x).toNat + (c.b x).toNat) / 64)) (wd 1 (r 0) (pr 4) (r 2)) (blocked 64 theTeam) (wave [at2 64]) (at2 64)) ∧
    (∃ v, MetAt Op.vhold (fun c s x => s.mem.veins[(c.a x).toNat]? = some v ∧ v.hash.en = true ∧ c.b x = 0 ∧ v.hold.isSome = true ∧
        (s.unhold (c.a x).toNat).2 = true) (wd 0 (r 0) (r 2) (r 3)) ({ holding 14 with fibres := [fib [1, 0, 14, 0]] }) (wave [fib [1, 0, 14,
        0]]) (fib [1, 0, 14, 0])) ∧
    (∃ v, MetAt Op.vhold (fun c s x => s.mem.veins[(c.a x).toNat]? = some v ∧ v.hash.en = true ∧ c.b x = 0 ∧
        v.hold = none) (wd 0 (r 0) (r 2) (r 3)) (st [fib [1, 0, 14, 0]]) (wave [fib [1, 0, 14, 0]]) (fib [1, 0, 14, 0])) ∧
    (MetAt Op.harv (fun c s x => 1 ≤ (c.b x).toNat ∧ (c.b x).toNat ≤ 2 ^ 20 ∧ (c.a64 x).toNat < 2 ^ 51 ∧ (c.a64 x).toNat % 32768 = 0 ∧
        (s.queue (s.queueOf c.launch)).ptbr.getLsbD 0 = false) (wd 0 (pr 8) (pr 4) (r 2)) (blocked 0x100000 theTeam) (wave [at2 0x100000]) (at2 0x100000)) ∧
    (∃ (h : SliceHash) (even : Bool), (even = true → h.en = true)) ∧
    (∃ (h : SliceHash) (even : Bool), (even = true → h.en = true)) ∧
    (∃ (h : SliceHash) (k : SliceHash), h.en = true ∧ k.en = true ∧ hashesOk [h, k] = true) ∧
    (∃ (h : SliceHash) (k : SliceHash), h.en = true ∧ k.en = false ∧ hashesOk [h, k] = true) ∧
    (∃ v, MetAt Op.vhold ((fun c s x => s.mem.veins[(c.a x).toNat]? = some v ∧ v.hash.en = true ∧ c.b x = 1 ∧ v.hold = none ∧
        ∀ u ∈ s.mem.dieVeins ((c.a x).toNat / 2), u.token = none)) (wd 0 (r 0) (r 2) (r 3)) (st [fib [1, 0, 14, 1]]) (wave [fib [1, 0, 14,
        1]]) (fib [1, 0, 14, 1])) ∧
    (∃ leaf lv, MetAt Op.harv ((fun c s x => let page := (c.a64 x).toNat / 32768 % 2 ^ 35; (c.b x).toNat = 1 ∧ (c.a64 x).toNat < 2 ^ 51 ∧
        (c.a64 x).toNat % 32768 = 0 ∧ leaf / 2 ^ 52 % 4 = 1 ∧ (leafOf (s.whoOf c x) page).run s = .ok (some (leaf, lv), s) ∧
        (∀ fb, (leafOf (s.whoOf c x) page).run { s with fibres := fb } = .ok (some (leaf, lv), { s with fibres := fb })) ∧
        s.mem.granted leaf page = true)) (wd 0 (pr 8) (pr 4) (r 2)) harvested (wave [fHarv]) fHarv) :=
  ⟨⟨theLaunch, by decide +kernel⟩,
   ⟨theLaunch, by decide +kernel⟩,
   by decide +kernel,
   by decide +kernel,
   by decide +kernel,
   by decide +kernel,
   ⟨{ base.mem.veins.getD 14 default with hold := some f0.id }, by decide +kernel⟩,
   ⟨base.mem.veins.getD 14 default, by decide +kernel⟩,
   by decide +kernel,
   ⟨⟨0x1234, 7, false⟩, false, by decide +kernel⟩,
   ⟨⟨0x1234, 7, true⟩, true, by decide +kernel⟩,
   ⟨⟨0xF0F0, 7, true⟩, ⟨0x0F0F, 0, true⟩, by decide +kernel⟩,
   ⟨⟨0xFFFF, 7, true⟩, ⟨0x0F0F, 0, false⟩, by decide +kernel⟩,
   ⟨base.mem.veins.getD 14 default, by decide +kernel⟩,
   ⟨0x18000 + 2 ^ 52, 0, by decide +kernel, by decide +kernel, by decide +kernel, by decide +kernel, by decide +kernel,
    leafOf_host harvested.mem 0x8021 rfl rfl rfl (by decide +kernel) (by decide +kernel),
        fun _ => leafOf_host harvested.mem 0x8021 rfl rfl rfl (by decide +kernel) (by decide +kernel), by decide +kernel⟩⟩

theorem witness_WaveEvents :
    (∃ (s : State) (f : Fibre) (p : Pend), s.fibre? s.ev.fibre = some f ∧ f.pend[s.ev.choice]? = some p ∧ p.ordered = none ∧
        s.onCore f.id.crew = true) ∧
    (∃ (s : State) (i : Nat) (w : Wave), s.wave? i = some w ∧ w.wait = some .gather) ∧
    (∃ (s : State) (o : TileOp) (t : Team), s.tileOps.find? (fun o => o.id == s.ev.op) = some o ∧ s.team? o.launch o.team = some t) ∧
    (∃ (s : State) (w : Wave) (f : Fibre) (l : Launch) (o : Object) (d : Due), s.wave? s.ev.wave = some w ∧ s.ready w = true ∧
        s.waveFibres w = [f] ∧ f.dues = [(d, .atPc)] ∧ d.kind = 3 ∧ (∀ op, s.opAt w = some op → s.duesAt op w.crew.launch [f] f.pc ≠ []) ∧
        w.reissue = false ∧ s.Calm ∧ Trappable s w [f] l o) ∧
    (∃ (s : State) (w : Wave), s.wave? s.ev.wave = some w ∧ w.wait = some .walk ∧ w.since + 10000 ≤ s.rtime) ∧
    (∃ (s : State), (s.ev.val.toNat < 2 ^ 50) ∧ ∃ e t, (walk { coreWho s s.ev.core 0 with queue := s.ev.queue } s.ev.val s.ev.write).run s = .ok (e,
        t)) ∧
    (∃ w x n, ((arriving .glds .gather).arrive (arriving .glds .gather).ev.wave (arriving .glds .gather).ev.lanes).wave? (arriving .glds .gather).ev.wave = some w ∧
        w.wait = some .gather ∧
        ((arriving .glds .gather).arrive (arriving .glds .gather).ev.wave (arriving .glds .gather).ev.lanes).running w = true ∧
        ((arriving .glds .gather).arrive (arriving .glds .gather).ev.wave (arriving .glds .gather).ev.lanes).inRuntime w = false ∧
        ((arriving .glds .gather).arrive (arriving .glds .gather).ev.wave (arriving .glds .gather).ev.lanes).waveFibres w ≠ [] ∧
        ((arriving .glds .gather).arrive (arriving .glds .gather).ev.wave (arriving .glds .gather).ev.lanes).fetch w = (Op.glds.instr x, n)) ∧
    (∃ w x n, (arriving .waitv .value).wave? (arriving .waitv .value).ev.wave = some w ∧ w.wait = some .value ∧
        (arriving .waitv .value).running w = true ∧ (arriving .waitv .value).inRuntime w = false ∧ (arriving .waitv .value).waveFibres w ≠ [] ∧
        (arriving .waitv .value).fetch w = (Op.waitv.instr x, n)) ∧
    (∃ w x n, (arriving .txo .token).wave? (arriving .txo .token).ev.wave = some w ∧ w.wait = some .token ∧
        (arriving .txo .token).running w = true ∧ (arriving .txo .token).inRuntime w = false ∧ (arriving .txo .token).waveFibres w ≠ [] ∧
        (arriving .txo .token).fetch w = (Op.txo.instr x, n)) ∧
    (∃ (s : State) (who : Who) (va : DWord) (write : Bool) (e : TlbEntry), va.toNat < 2 ^ 51 ∧ who.engine = false ∧
        (s.core who.core).tlb.find? (fun e => e.hits who.queue (pageOf va) && (!write || e.w)) = some e ∧ e.poison = true) :=
  ⟨⟨at_WaveEvents1, { f0 with pend := [{ dst := [5], vals := [7], flags := 1 }] }, { dst := [5], vals := [7], flags := 1 }, by decide +kernel⟩,
   ⟨at_WaveEvents2, 2, { theWave with wait := some .gather }, by decide +kernel⟩,
   ⟨at_WaveEvents3, { id := 9, launch := 1, team := 0, wave := 2, fibres := [f0.id], pc := 24, reads := [], writes := [(3, tile 2 2 3)], flags := 1, fault := some { cause := arithZeroPivot 0 } },
        theTeam, by decide +kernel⟩,
   ⟨at_WaveEvents4, theWave, { f0 with dues := [({ cause := arithZeroPivot 0, kind := 3, info0 := 24 }, .atPc)] }, theLaunch, runtimeObject 4,
        { cause := arithZeroPivot 0, kind := 3, info0 := 24 }, by decide +kernel⟩,
   ⟨at_WaveEvents5, { theWave with wait := some .walk, stalled := true, since := 5 }, by decide +kernel⟩,
   ⟨at_WaveEvents6, by decide +kernel, ok_run (by decide +kernel)⟩,
   ⟨{ theWave with wait := some .gather, arrived := 1 }, wd 0 (r 8) (pr 4) (r 0), 12, by decide +kernel⟩,
   ⟨{ theWave with wait := some .value }, wd 0 (r 8) (pr 4) (r 0), 12, by decide +kernel⟩,
   ⟨{ theWave with wait := some .token }, wd 0 (r 8) (pr 4) (r 0), 12, by decide +kernel⟩,
   ⟨(st [f0]).setCore 0 (fun k => { k with tlb := [{ te with poison := true }] }), coreWho (st [f0]) 0 1, 0, true, { te with poison := true },
        by decide +kernel⟩⟩

theorem witness_RoundEvents :
    (∃ (s : State) (e : Entry), e ∈ s.entries ∧ e.id = s.ev.op) ∧
    (∃ (s : State) (l : Launch), s.launch? s.ev.launch = some l ∧ s.ev.team < l.drainers ∧ l.markersOf s.ev.team ≤ l.closed ∧
        (∀ t ∈ l.drainerTeams s.ev.team, s.teamEnded l t l.closed = true)) ∧
    (∃ (s : State) (l : Launch), s.launch? s.ev.launch = some l ∧ (l.markers.filter (fun p => l.closed < p.2)).length = l.drainers ∧
        s.roundEntries l = []) ∧
    (∃ (s : State) (l : Launch) (e : Entry) (f : Fibre), s.launch? s.ev.launch = some l ∧
        (l.markers.filter (fun p => l.closed < p.2)).length = l.drainers ∧ s.roundEntries l = [e] ∧ e.arrived = true ∧ s.fibre? e.fibre = some f ∧
        AtHome s (coreWho s 0 l.id).fibre (e.pa / 64)) ∧
    (∃ (s : State) (l : Launch) (e : Entry) (f : Fibre), s.launch? s.ev.launch = some l ∧
        (l.markers.filter (fun p => l.closed < p.2)).length = l.drainers ∧ s.roundEntries l = [e] ∧ e.arrived = true ∧ s.fibre? e.fibre = some f ∧
        AtHome s (coreWho s 0 l.id).fibre (e.pa / 64)) ∧
    (∃ (es : List Entry), es.length ≤ 16) :=
  ⟨⟨at_RoundEvents1, ({ id := 9, launch := 1, round := 0, drainer := 0, key := 0, pa := 60, va := 60, leaf := 2 ^ 52, op := .int 0 0 5, fibre := f0.id, dest := true, pc := 12, arrived := false } : Entry),
        by decide +kernel⟩,
   ⟨at_RoundEvents2, theLaunch, by decide +kernel⟩,
   ⟨at_RoundEvents3, { theLaunch with markers := [(0, 1)] }, by decide +kernel⟩,
   ⟨at_RoundEvents4, { theLaunch with markers := [(0, 1)] },
        ({ id := 9, launch := 1, round := 0, drainer := 0, key := 0, pa := 60, va := 60, leaf := 2 ^ 52, op := .int 0 0 5, fibre := f0.id, dest := true, pc := 12, arrived := true } : Entry),
        { f0 with pend := [{ dst := [5], vals := [], ordered := some 9 }] }, by decide +kernel⟩,
   ⟨at_RoundEvents5, { theLaunch with markers := [(0, 1)] },
        ({ id := 9, launch := 1, round := 0, drainer := 0, key := 0, pa := 60, va := 60, leaf := 2 ^ 52, op := .int 0 0 5, fibre := f0.id, dest := false, pc := 12, arrived := true } : Entry),
        { f0 with pend := [{ dst := [5], vals := [], ordered := some 9 }] }, by decide +kernel⟩,
   ⟨[({ id := 9, launch := 1, round := 0, drainer := 0, key := 0, pa := 60, va := 60, leaf := 2 ^ 52, op := .int 0 0 5, fibre := f0.id, dest := true, pc := 12, arrived := true } : Entry),
        ({ id := 9, launch := 1, round := 0, drainer := 0, key := 0, pa := 60, va := 60, leaf := 2 ^ 52, op := .int 0 0 5, fibre := f0.id, dest := false, pc := 12, arrived := true } : Entry)],
        by decide +kernel⟩⟩

theorem witness_EngineEnds :
    (∃ (size : Nat) (bs : List Byte), size < bs.length) ∧
    (∃ (o : EngOp) (size : Nat) (bs : List Byte), bs.length ≤ size ∧ o.late = false) ∧
    (∃ (t : State) (o : EngOp) (tm : Team), t.team? o.launch o.team = some tm ∧ o.handle < tm.handles.length) ∧
    (∃ (s : State) (o : EngOp) (l : Launch) (x : Object) (g : Gang) (h : Gang), (s.opOf .ctxs = some o ∧ s.namedGang o.block = some (l, x, g) ∧
        ¬(l.id = o.launch ∧ g.id = s.gangOf o.launch o.team) ∧ (g.state = .preempted ∨ g.state = .held) ∧ (s.hold g).gang? l.id g.id = some h) ∧
        ∃ n t, (copyOutImage o l x h).run (s.hold g) = .ok (n, t)) ∧
    (∃ (s : State) (o : EngOp), (s.opOf .migr = some o ∧ o.idx = []) ∧ ∃ p t, (migMark o).run s = .ok (p, t)) ∧
    (∃ (s : State) (o : EngOp) (l : Launch) (x : Object) (g : Gang), (s.opOf .ctxr = some o ∧ s.namedGang o.block = some (l, x, g) ∧
        g.state = .held) ∧ ∃ b t, (loadBytes (s.whoEngine o) (contextAt o.block) x.gangBytes .engine).run s = .ok (b, t)) ∧
    (∃ (s : State) (o : EngOp) (l : Launch) (x : Object) (g : Gang), (s.opOf .ctxr = some o ∧ s.namedGang o.block = some (l, x, g) ∧
        g.state = .held) ∧ ∃ b t, (loadBytes (s.whoEngine o) (contextAt o.block) x.gangBytes .engine).run s = .ok (b, t)) ∧
    (∃ (s : State) (pre : List EngOp) (post : List EngOp) (o : EngOp) (p : EngOp) (q : EngOp), s.ops = pre ++ o :: q :: post ∧ o.id = p.id ∧
        (∀ x ∈ pre, x.id ≠ p.id) ∧ s.sameUnit q p = true) ∧
    (∃ (s : State) (pre : List EngOp) (post : List EngOp) (o : EngOp) (p : EngOp) (q : EngOp), s.ops = pre ++ o :: q :: post ∧ o.id = p.id ∧
        (∀ x ∈ pre, x.id ≠ p.id) ∧ s.sameUnit q p = true) ∧
    (∀ k ∈ [EngKind.tcopy, .icopy, .isect, .merge, .nbin, .npair, .nfix, .hcfg, .hprobe, .hins, .hdel, .hreh],
        ∃ s o t f u tm, EngineRuns s k o t f u tm ∧ f.paused.isNone = true) ∧
    (∃ s o t, s.ops.find? (fun o => o.id == s.ev.op && o.kind.delivers) = some o ∧ ∃ f u tm, EngineRuns s .tcopy o t f u tm ∧
        (match f.paused with | some q => q.id == o.id | none => false) = true) ∧
    (∃ s o t, s.ops.find? (fun o => o.id == s.ev.op && o.kind.delivers) = some o ∧ ∃ f u tm, EngineRuns s .icopy o t f u tm ∧
        (match f.paused with | some q => q.id == o.id | none => false) = true) ∧
    (∃ (s : State) (o : EngOp) (x y : Nat), o.c = 1 ∧ o.d = 1 ∧ (engRead o o.a 4).run s = .ok (x, s) ∧ (engRead o o.b 4).run s = .ok (y, s)) ∧
    (∀ k ∈ [EngKind.ctxs, .ctxr], (running mapped (nameless k)).opOf k = some (nameless k) ∧
        (running mapped (nameless k)).namedGang (nameless k).block = none) ∧
    (∃ (s : State) (o : EngOp) (leaf y : Nat), (s.opOf .migr = some o ∧ o.idx = [leaf, y] ∧ s.oldAccess (s.migRange o) = false) ∧
        ∃ n t, (migMove o leaf y).run s = .ok (n, t)) ∧
    (∃ (s : State) (o : EngOp) (t : Team) (f : Fill) (u : State) (tm : Team) (p : EngOp), EngineRuns s .hreh o t f u tm ∧ f.paused = none ∧
        f.again = some p ∧ p.kind = .hreh ∧ ∀ q ∈ u.ops, q.kind ≠ .ncfg) ∧
    (∃ (o : EngOp) (size : Nat) (bs : List Byte), size = bs.length ∧ o.late = true ∧ o.kind = .isect) ∧
    (∃ (o : EngOp) (size : Nat) (bs : List Byte), size = bs.length ∧ o.late = true ∧ o.kind = .merge) :=
  ⟨⟨2, [1, 2, 3], by decide +kernel⟩,
   ⟨engOp .merge [], 3, [1, 2, 3], by decide +kernel⟩,
   ⟨running mapped (engOp .merge []), engOp .merge [], fillingT, by decide +kernel⟩,
   ⟨at_EngineEnds4, engOp .ctxs (leBytes 32 0x400000000000000000000000000200000000), second, hollow, gangOf5 .preempted,
        { gangOf5 .preempted with state := .held }, by decide +kernel, ok_run (by decide +kernel)⟩,
   ⟨at_EngineEnds5, engOp .migr (leBytes 32 0x800000000000000000000000000000000000), by decide +kernel, ok_run (by decide +kernel)⟩,
   ⟨at_EngineEnds6, engOp .ctxr (leBytes 32 0x400000000000000000000000000200000000), second, hollow, gangOf5 .held, by decide +kernel,
        ok_run (by decide +kernel)⟩,
   ⟨at_EngineEnds7, engOp .ctxr (leBytes 32 0x400000000000000000000000000200000000), second, hollow, gangOf5 .held, by decide +kernel,
        ok_run (by decide +kernel)⟩,
   ⟨at_EngineEnds8, [engOp .merge []], [], { engOp .hreh [] with id := 10, b := 0x2000 },
        { { engOp .hreh [] with id := 10, b := 0x2000 } with a := 1 }, { engOp .hreh [] with id := 11, b := 0x2000 }, by decide +kernel⟩,
   ⟨at_EngineEnds9, [engOp .merge []], [], { engOp .hreh [] with id := 10, b := 0x2000 },
        { { engOp .hreh [] with id := 10, b := 0x2000 } with a := 1 }, { { engOp .hreh [] with id := 11, b := 0x2000 } with launch := 2 },
        by decide +kernel⟩,
   fun k h => ⟨running mapped (copying k), copying k, fillingT, engine_runs ((by decide +kernel : ∀ k ∈ [EngKind.tcopy, .icopy, .isect, .merge,
        .nbin, .npair, .nfix, .hcfg, .hprobe, .hins, .hdel, .hreh],
        (running mapped (copying k)).ops.find? (fun o => o.id == (running mapped (copying k)).ev.op && o.kind == k) = some (copying k)) k h) ((by decide +kernel : ∀ k ∈ [EngKind.tcopy,
        .icopy, .isect, .merge, .nbin, .npair, .nfix, .hcfg, .hprobe, .hins, .hdel, .hreh],
        (running mapped (copying k)).runner (copying k) = some fillingT) k h) ((by decide +kernel : ∀ k ∈ [EngKind.tcopy, .icopy, .isect, .merge,
        .nbin, .npair, .nfix, .hcfg, .hprobe, .hins, .hdel, .hreh],
        okWith ((fillOf fillingT (copying k) ((fillingT.handle (copying k).handle).size.toNat * 16)).run (running mapped (copying k))) (fills (copying k) (fun f => f.paused.isNone)) = true) k h)⟩,
   ⟨running mapped (copyingMore .tcopy), copyingMore .tcopy, fillingT, by decide +kernel,
        engine_runs (by decide +kernel) (by decide +kernel) (by decide +kernel)⟩,
   ⟨running mapped (copyingMore .icopy), copyingMore .icopy, fillingT, by decide +kernel,
        engine_runs (by decide +kernel) (by decide +kernel) (by decide +kernel)⟩,
   ⟨warm (running mapped meeting), meeting, 0x03020100, 0x07060504, rfl, rfl, ok_at (by decide +kernel), ok_at (by decide +kernel)⟩,
   by decide +kernel,
   ⟨running mapped moving, moving, 0x18000 + 2 ^ 52, 39, by decide +kernel, migMove_open (by decide +kernel) (by decide +kernel) (by decide +kernel)⟩,
   again_runs (s := rehash) (o := rehashing) (t := fillingT) (by decide +kernel) (by decide +kernel) (by decide +kernel),
   ⟨{ engOp .isect [] with late := true }, 2, [1, 2], by decide⟩,
   ⟨{ engOp .merge [] with late := true }, 2, [1, 2], by decide⟩⟩

theorem witness_ForwardedAccesses :
    (∃ (s : State) (a : PeerAccess), s.fabric.linked = true ∧ s.ev.access = a ∧ s.accepts a.source a.inc = true ∧ s.isFrozen 2 = false ∧
        inDevice (a.pa % 2 ^ 52) a.bytes = true ∧ a.pa < 2 ^ 52 ∧ a.pa % 64 + a.bytes ≤ 64 ∧ AtHome s (coreWho s 0 0).fibre (a.pa / 64)) ∧
    (∃ (s : State) (a : PeerAccess), s.fabric.linked = true ∧ s.ev.access = a ∧ s.accepts a.source a.inc = true ∧ s.isFrozen 2 = false ∧
        inDevice (a.pa % 2 ^ 52) a.bytes = true ∧ a.pa < 2 ^ 52 ∧ a.pa % 64 + a.bytes ≤ 64 ∧ AtHome s (coreWho s 0 0).fibre (a.pa / 64)) ∧
    (∃ (s : State), s.fabric.linked = true ∧ s.fabric.go = true ∧ s.accepts s.ev.access.source s.ev.access.inc = true ∧ s.isFrozen 2 = false ∧
        s.service.frozen ||| 4#4 ≠ BitVec.allOnes 4 ∧ inDevice (s.ev.access.pa % 2 ^ 52) s.ev.access.bytes = false) ∧
    (∃ (s : State), s.fabric.linked = true ∧ s.accepts s.ev.access.source s.ev.access.inc = false) ∧
    (∃ (s : State) (r : Fwd), s.fabric.linked = true ∧ s.fwds.find? (fun r => r.id == s.ev.req) = some r ∧ s.accepts r.dev s.ev.word = true ∧
        r.reply = none ∧ r.dead = false ∧ r.posted = false ∧ r.acc = none) ∧
    (∃ (s : State) (r : Fwd), s.fabric.linked = true ∧ s.fwds.find? (fun r => r.id == s.ev.req) = some r ∧ s.accepts r.dev s.ev.word = true ∧
        r.reply = none ∧ r.dead = false ∧ r.posted = true ∧ s.ev.reply = .ack ∧ (∀ f, s.fibre? r.fibre = some f → f.held = []) ∧ s.left = []) ∧
    (∃ (s : State) (r : Fwd) (f : Fibre), let kept := f.held.filter (fun h => !h.behind.contains r.id); s.fabric.linked = true ∧
        s.fwds.find? (fun r => r.id == s.ev.req) = some r ∧ s.accepts r.dev s.ev.word = true ∧ r.posted = true ∧ r.dead = false ∧ r.assay = false ∧
        s.fibre? r.fibre = some f ∧ s.left = [] ∧ (∀ h, kept.head? = some h → ∃ k ∈ h.behind, ∃ q ∈ s.fwds, q.posted = true ∧ q.id = k ∧
        q.id ≠ r.id) ∧ s.ev.reply = ((Reply.nak, memRemoteNak) : Reply × Cause).1) ∧
    (∃ (s : State) (r : Fwd) (f : Fibre), let kept := f.held.filter (fun h => !h.behind.contains r.id); s.fabric.linked = true ∧
        s.fwds.find? (fun r => r.id == s.ev.req) = some r ∧ s.accepts r.dev s.ev.word = true ∧ r.posted = true ∧ r.dead = false ∧ r.assay = false ∧
        s.fibre? r.fibre = some f ∧ s.left = [] ∧ (∀ h, kept.head? = some h → ∃ k ∈ h.behind, ∃ q ∈ s.fwds, q.posted = true ∧ q.id = k ∧
        q.id ≠ r.id) ∧ s.ev.reply = ((.frozen, memFrozen) : Reply × Cause).1) ∧
    (∃ (f : Fibre) (id : Nat), (∀ h ∈ f.late, id ∉ h.behind)) ∧
    (∃ (f : Fibre) (id : Nat) (h : LateStore), h ∈ f.late ∧ id ∈ h.behind ∧ (∀ g ∈ f.late, g = h ∨ h.id < g.id ∨ id ∉ g.behind)) :=
  ⟨⟨at_ForwardedAccesses1, ({ source := 3, inc := 9, pa := 56, bytes := 8, op := .read } : PeerAccess), by decide +kernel⟩,
   ⟨at_ForwardedAccesses2, ({ source := 3, inc := 9, pa := 56, bytes := 8, op := .write 0xFF 0x1122 } : PeerAccess), by decide +kernel⟩,
   ⟨at_ForwardedAccesses3, by decide +kernel⟩,
   ⟨at_ForwardedAccesses4, by decide +kernel⟩,
   ⟨at_ForwardedAccesses5,
        ({ id := 9, fibre := f0.id, core := 0, dev := 3, pa := 56, va := 56, bytes := 8, op := .read, pc := 12, posted := false } : Fwd),
        by decide +kernel⟩,
   ⟨at_ForwardedAccesses6,
        ({ id := 9, fibre := f0.id, core := 0, dev := 3, pa := 56, va := 56, bytes := 8, op := .read, pc := 12, posted := true } : Fwd),
        by decide +kernel⟩,
   ⟨at_ForwardedAccesses7,
        ({ id := 9, fibre := f0.id, core := 0, dev := 3, pa := 56, va := 56, bytes := 8, op := .read, pc := 12, posted := true } : Fwd),
        { f0 with held := [{ pc := 24, va := 64, bytes := 4, val := 1, scope := 5, behind := [9] }] }, by decide +kernel⟩,
   ⟨at_ForwardedAccesses8,
        ({ id := 9, fibre := f0.id, core := 0, dev := 3, pa := 56, va := 56, bytes := 8, op := .read, pc := 12, posted := true } : Fwd),
        { f0 with held := [{ pc := 24, va := 64, bytes := 4, val := 1, scope := 5, behind := [9] }] }, by decide +kernel⟩,
   ⟨{ f0 with held := [{ pc := 24, va := 64, bytes := 4, val := 1, scope := 5, behind := [9], id := 3 }] }, 8, by decide +kernel⟩,
   ⟨{ f0 with held := [{ pc := 36, va := 64, bytes := 4, val := 1, scope := 5, behind := [9], id := 4 }, { pc := 24, va := 64, bytes := 4, val := 1, scope := 5, behind := [9], id := 3 }] },
        9, { pc := 24, va := 64, bytes := 4, val := 1, scope := 5, behind := [9], id := 3 }, by decide +kernel⟩⟩

theorem witness_FaultRing :
    (∃ (s : State) (f : Fibre) (l : Launch) (r : InTrap), s.fibre? s.ev.fibre = some f ∧ s.launch? f.id.crew.launch = some l ∧ f.inTrap = some r ∧
        r.runtime = .toWrite ∧ s.resident f.id = true ∧ s.ring.room = true ∧ hostReach s s.ring.slotAt 64 = true ∧ s.ev.fails = false ∧
        l.span = none ∧ Quiet s (s.coreOf f.id.crew) f) ∧
    (∃ (s : State) (f : Fibre) (l : Launch) (r : InTrap), s.fibre? s.ev.fibre = some f ∧ s.launch? f.id.crew.launch = some l ∧ f.inTrap = some r ∧
        r.runtime = .toWrite ∧ s.resident f.id = true ∧ s.ring.room = true ∧ hostReach s s.ring.slotAt 64 = true ∧ s.ev.fails = true) ∧
    (∃ (l : Launch) (f : Fibre) (k : Word), l.queue < 256) ∧
    (∃ (s : State) (f : Fibre) (r : InTrap) (k : Word) (c : Cause) (w : Wave),
        let toldBy := fun (s : State) (f : Fibre) (r : InTrap) (k : Word) (c : Cause) (w : Wave) => s.isFrozen 0 = false ∧ s.ev.word = k ∧ s.ring.open_.find? (fun p => p.1 == k) = some (k, f.id, c) ∧ s.ring.kept = [] ∧ s.fibre? f.id = some f ∧ f.inTrap = some r ∧ r.runtime = .waiting k ∧ s.resident f.id = true ∧ s.waves.find? (fun w => w.crew == f.id.crew && w.home == f.home && w.lanes.getLsbD f.lane) = some w ∧ s.waveFibres w = [f] ∧ w.reissue = false ∧ s.Calm;
        toldBy s f r k c w ∧ r.resume = .atPc ∧ f.pend = []) ∧
    (∃ (s : State) (f : Fibre) (r : InTrap) (k : Word) (c : Cause) (w : Wave),
        let toldBy := fun (s : State) (f : Fibre) (r : InTrap) (k : Word) (c : Cause) (w : Wave) => s.isFrozen 0 = false ∧ s.ev.word = k ∧ s.ring.open_.find? (fun p => p.1 == k) = some (k, f.id, c) ∧ s.ring.kept = [] ∧ s.fibre? f.id = some f ∧ f.inTrap = some r ∧ r.runtime = .waiting k ∧ s.resident f.id = true ∧ s.waves.find? (fun w => w.crew == f.id.crew && w.home == f.home && w.lanes.getLsbD f.lane) = some w ∧ s.waveFibres w = [f] ∧ w.reissue = false ∧ s.Calm;
        toldBy s f r k c w ∧ f.isItem = false ∧ f.dues = [] ∧ f.held = [] ∧ (∀ q ∈ s.fwds, q.posted = false ∨ q.fibre ≠ f.id)) ∧
    (∃ (s : State) (f : Fibre) (r : InTrap) (k : Word) (c : Cause) (w : Wave) (l : Launch),
        let toldBy := fun (s : State) (f : Fibre) (r : InTrap) (k : Word) (c : Cause) (w : Wave) => s.isFrozen 0 = false ∧ s.ev.word = k ∧ s.ring.open_.find? (fun p => p.1 == k) = some (k, f.id, c) ∧ s.ring.kept = [] ∧ s.fibre? f.id = some f ∧ f.inTrap = some r ∧ r.runtime = .waiting k ∧ s.resident f.id = true ∧ s.waves.find? (fun w => w.crew == f.id.crew && w.home == f.home && w.lanes.getLsbD f.lane) = some w ∧ s.waveFibres w = [f] ∧ w.reissue = false ∧ s.Calm;
        toldBy s f r k c w ∧ s.launch? f.id.crew.launch = some l) ∧
    (∃ (s : State), ∀ i ∈ [Instr.fackResume, .fackEnd, .fackAbort], s.isFrozen 0 = true) :=
  ⟨⟨at_FaultRing1, trapped .toWrite, theLaunch, { resume := .atPc, obj := 3, meet := 1, runtime := .toWrite }, by decide +kernel⟩,
   ⟨at_FaultRing2, trapped .toWrite, theLaunch, { resume := .atPc, obj := 3, meet := 1, runtime := .toWrite }, by decide +kernel⟩,
   ⟨theLaunch, trapped .toWrite, 0xFFFFFFFF, by decide +kernel⟩,
   ⟨at_FaultRing4, trapped (.waiting 5), { resume := .atPc, obj := 3, meet := 1, runtime := .waiting 5 }, 5, memAlign 0, theWave, by decide +kernel⟩,
   ⟨at_FaultRing5, trapped (.waiting 5), { resume := .atPc, obj := 3, meet := 1, runtime := .waiting 5 }, 5, memAlign 0, theWave, by decide +kernel⟩,
   ⟨at_FaultRing6, trapped (.waiting 5), { resume := .atPc, obj := 3, meet := 1, runtime := .waiting 5 }, 5, memAlign 0, theWave, theLaunch,
        by decide +kernel⟩,
   ⟨at_FaultRing7, by decide +kernel⟩⟩

theorem witness_PlacementEvents2 :
    ∃ (s : State) (g : Gang) (l : Launch) (o : Object), (s.nextVictim = some g ∧ g.launch = s.ev.launch ∧ g.id = s.ev.gang ∧
        s.launch? g.launch = some l ∧ s.object? l.obj = some o ∧ (s.settle l.id g.id).settled l.id g.id = true) ∧
        ∃ e t, (saveGang l o g false).run (s.settle l.id g.id) = .ok (e, t) := ⟨at_PlacementEvents2, gangOf5 .started, second, hollow,
        by decide +kernel, ok_run (by decide +kernel)⟩

theorem witness_PlacementEvents3 :
    ∃ (s : State) (g : Gang), s.nextVictim = some g := ⟨at_PlacementEvents3, gangOf5 .started, by decide +kernel⟩

theorem witness_PlacementEvents4 :
    ∃ (s t : State), (s.movePointers).visits 2097216 0 s.ev.choice = t ∧ (∀ l ∈ t.launches, l.sump = []) := ⟨toPlace, _, rfl, by decide +kernel⟩

theorem witness_PlacementEvents5 :
    ∃ (s : State) (q c idle choice : Nat), (s.topClass = some c ∧ firstFrom (s.readyOf c) (s.pointers.getD c 0) = some q ∧ 0 < (s.queue q).deficit ∧
        idle < (s.readyOf c).length) ∧
        ∃ t rest, ({ s with pointers := updAt s.pointers c (fun _ => (q + 1) % 64) } : State).placeOne q choice = some (t, rest) := ⟨toPlace, 0, 0,
        0, 0, by decide +kernel, some_both (by decide +kernel)⟩

theorem witness_PlacementEvents6 :
    ∃ (s : State) (l : Launch) (o : Object) (gang choice : Nat), l.fuse = false ∧ ∃ t rest, s.placeGang l o gang choice = some (t,
        rest) := ⟨toPlace, unplaced, tiny, 0, 0, rfl, some_both (by decide +kernel)⟩

theorem witness_PlacementEvents :
    (∃ (s : State) (g : Gang) (l : Launch) (o : Object), s.gang? s.ev.launch s.ev.gang = some g ∧ g.state = .placed ∧ s.launch? g.launch = some l ∧
        s.object? l.obj = some o ∧ (o.aflush = true → l.nextGang = l.gangs)) ∧
    (∃ (s : State) (g : Gang) (l : Launch) (o : Object), (s.gang? s.ev.launch s.ev.gang = some g ∧ s.launch? s.ev.launch = some l ∧
        s.object? l.obj = some o ∧ g.state = .restoring ∧ g.leaving = none) ∧
        ∃ b t, (loadBytes (s.whoSaver g) (imageAt l o g.id) o.gangBytes .engine).run s = .ok (b, t)) ∧
    (∃ (s : State) (q : Nat), q < 64 ∧ s.holdsGang q = false ∧ ∃ t ∈ s.idleQueues.teams, t.core < 512 ∧ s.queueOf t.launch = q) :=
  ⟨⟨at_PlacementEvents1, gangOf5 .placed, second, tiny, by decide +kernel⟩,
   ⟨at_PlacementEvents4, gangOf5 .restoring, second, hollow, by decide +kernel, ok_run (by decide +kernel)⟩,
   ⟨{ st [f0] with gangs := [], launches := [{ theLaunch with nextGang := 1 }] }, 0, by decide +kernel⟩⟩

theorem witness_TimeEvents :
    (∃ (s : State) (g : Gang) (l : Launch), s.gang? s.ev.launch s.ev.gang = some g ∧ s.launch? g.launch = some l ∧ s.gangDone g = true ∧
        (∀ t ∈ s.gangTeams g.launch g.id, t.sup = none) ∧ (∀ k ∈ s.gangCores g.launch g.id, (s.core k).fused = none ∧
        ∀ x ∈ (s.core k).l1, x.dirty = 0)) ∧
    (∃ (s : State) (l : Launch), s.launch? s.ev.launch = some l ∧ l.ending = false ∧ l.deadline ≠ 0 ∧ l.deadline.toNat ≤ s.rtime) ∧
    (∃ (s : State) (t : Team) (g : Gang) (u : Supervision), s.team? s.ev.launch s.ev.team = some t ∧
        s.gang? s.ev.launch (s.gangOf s.ev.launch s.ev.team) = some g ∧ t.sup = some u ∧ s.teamDone t = false ∧ g.leaving = none ∧ u.deadline ≠ 0 ∧
        u.deadline.toNat ≤ s.rtime) ∧
    (∃ (s : State) (t : Team) (g : Gang) (u : Supervision), s.team? s.ev.launch s.ev.team = some t ∧
        s.gang? s.ev.launch (s.gangOf s.ev.launch s.ev.team) = some g ∧ t.sup = some u ∧ s.teamDone t = false ∧ g.leaving = none ∧ u.deadline ≠ 0 ∧
        u.deadline.toNat ≤ s.rtime) ∧
    (∃ (s : State), s.ev.core < 512 ∧ s.ev.core < s.cores.length ∧ ((s.core s.ev.core).halved + 1) * 1024 ≤ s.clk.cycles.getD (dieOf s.ev.core) 0) ∧
    (∃ (s : State), s.ev.core < 512 ∧ s.ev.core < s.cores.length ∧ ((s.core s.ev.core).halved + 1) * 1024 ≤ s.clk.cycles.getD (dieOf s.ev.core) 0) ∧
    (∃ (s : State) (t : Team), s.team? s.ev.launch s.ev.team = some t ∧ t.wdog ≠ 0 ∧ t.wdog ≤ t.spent) ∧
    (∃ (s : State) (i : ItemCrew) (h : Nat) (slots : List Nat) (xs : List Item), s.pack s.ev.core s.ev.choice = some (i, h, slots, xs) ∧
        s.owes i.launch = false) ∧
    (∃ (i : ItemCrew) (x : Item), x.arg.length = 4 ∧ 5 ≤ i.window) ∧
    (∃ (s : State) (i : Item) (j : Item), j ∈ s.liveItems i.launch ∧ j.id ≠ i.id ∧ j.conflicts i = true ∧ (i.parent = some j.id ∨ (j.vein = i.vein ∧
        j.before i = true))) ∧
    (∃ (s : State) (i : Item) (j : Item), j ∈ s.liveItems i.launch ∧ j.id ≠ i.id ∧ j.conflicts i = true ∧ (i.parent = some j.id ∨ (j.vein = i.vein ∧
        j.before i = true))) :=
  ⟨⟨at_TimeEvents1, { launch := 1, id := 0, state := .started, stamp := 0 }, theLaunch, by decide +kernel⟩,
   ⟨at_TimeEvents2, { theLaunch with deadline := 7 }, by decide +kernel⟩,
   ⟨at_TimeEvents3, { theTeam with sup := some { deadline := 7, target := 0, wbuf := 0, buf1 := 0, buf2 := 0, record := 0, scope := 5, best := 0, bestRes := 0, marks := 0 } },
        { launch := 1, id := 0, state := .started, stamp := 0 },
        { deadline := 7, target := 0, wbuf := 0, buf1 := 0, buf2 := 0, record := 0, scope := 5, best := 0, bestRes := 0, marks := 0 },
        by decide +kernel⟩,
   ⟨at_TimeEvents4, { theTeam with sup := some { deadline := 7, target := 0, wbuf := 0, buf1 := 0, buf2 := 0, record := 0, scope := 5, best := 0, bestRes := 0, marks := 3 } },
        { launch := 1, id := 0, state := .started, stamp := 0 },
        { deadline := 7, target := 0, wbuf := 0, buf1 := 0, buf2 := 0, record := 0, scope := 5, best := 0, bestRes := 0, marks := 3 },
        by decide +kernel⟩,
   ⟨at_TimeEvents5, by decide +kernel⟩,
   ⟨at_TimeEvents6, by decide +kernel⟩,
   ⟨at_TimeEvents7, { theTeam with wdog := 5, spent := 5 }, by decide +kernel⟩,
   ⟨at_TimeEvents8, ({ launch := 1, core := 0, crew := 4, place := { quad := 0, slot := 5, base := [(64, 64)] }, slots := 4, window := 16 } : ItemCrew),
        0, [0], [({ id := 8, launch := 1, vein := 0, pcoff := 24, aseq := 0, arg := [1, 2, 3, 4], rd := {}, wr := {}, spawner := 0 } : Item)],
        by decide +kernel⟩,
   ⟨({ launch := 1, core := 0, crew := 4, place := { quad := 0, slot := 5, base := [(64, 64)] }, slots := 4, window := 16 } : ItemCrew),
        ({ id := 8, launch := 1, vein := 0, pcoff := 24, aseq := 0, arg := [1, 2, 3, 4], rd := {}, wr := {}, spawner := 0 } : Item),
        by decide +kernel⟩,
   ⟨at_TimeEvents10, ({ id := 9, launch := 1, vein := 1, pcoff := 24, aseq := 3, arg := [1, 2, 3, 4], rd := { first := 5, count := 2 }, wr := { first := 6, count := 1 }, spawner := 0, parent := some 8 } : Item),
        ({ id := 8, launch := 1, vein := 0, pcoff := 24, aseq := 0, arg := [1, 2, 3, 4], rd := { first := 5, count := 2 }, wr := { first := 6, count := 1 }, spawner := 0, parent := none } : Item),
        by decide +kernel⟩,
   ⟨at_TimeEvents11, ({ id := 10, launch := 1, vein := 0, pcoff := 24, aseq := 3, arg := [1, 2, 3, 4], rd := { first := 5, count := 2 }, wr := { first := 6, count := 1 }, spawner := 0, parent := none } : Item),
        ({ id := 8, launch := 1, vein := 0, pcoff := 24, aseq := 0, arg := [1, 2, 3, 4], rd := { first := 5, count := 2 }, wr := { first := 6, count := 1 }, spawner := 0, parent := none } : Item),
        by decide +kernel⟩⟩

theorem witness_RecordEvents :
    (∃ (s : State) (b : List Byte) (o : Object), let reads := fun (s : State) (type : Nat) (b : List Byte) => s.ev.queue < 64 ∧ s.queues.length = 64 ∧ s.nextRecord s.ev.queue = some b ∧ field b 2 1 = type ∧ s.ev.fails = false ∧ s.poisonAt (s.queue s.ev.queue).slotAt 128 = false;
        let classOk := fun (s : State) (b : List Byte) => field b 21 1 = (s.queue s.ev.queue).cls.toNat; reads s 2 b ∧ formatOk b = true ∧
        classOk s b ∧ s.unloads = [] ∧ s.objects.find? (fun o => o.id == field b 8 8 && !o.unloading) = some o ∧ (∀ l ∈ s.launches, l.obj ≠ o.id)) ∧
    (∃ (s : State) (b : List Byte) (o : Object) (l : Launch), let reads := fun (s : State) (type : Nat) (b : List Byte) => s.ev.queue < 64 ∧ s.queues.length = 64 ∧ s.nextRecord s.ev.queue = some b ∧ field b 2 1 = type ∧ s.ev.fails = false ∧ s.poisonAt (s.queue s.ev.queue).slotAt 128 = false;
        let classOk := fun (s : State) (b : List Byte) => field b 21 1 = (s.queue s.ev.queue).cls.toNat; reads s 2 b ∧ formatOk b = true ∧
        classOk s b ∧ s.unloads = [] ∧ s.objects.find? (fun o => o.id == field b 8 8 && !o.unloading) = some o ∧ l ∈ s.launches ∧ l.obj = o.id) ∧
    (∃ (s : State) (b : List Byte), s.ev.queue < 64 ∧ s.queues.length = 64 ∧ s.nextRecord s.ev.queue = some b ∧ s.ev.fails = true ∧
        field b 2 1 = ((0, Instr.launchRecord) : Nat × Instr).1) ∧
    (∃ (s : State) (b : List Byte), s.ev.queue < 64 ∧ s.queues.length = 64 ∧ s.nextRecord s.ev.queue = some b ∧ s.ev.fails = true ∧
        field b 2 1 = ((1, Instr.loadRecord) : Nat × Instr).1) ∧
    (∃ (s : State) (l : Launch), s.launch? s.ev.launch = some l ∧ s.launchDone l = true ∧ hostReach s l.comp.toNat 64 = true ∧ s.ev.fails = false ∧
        s.owes l.id = false ∧ (∀ v ∈ s.mem.veins, v.hold = none) ∧ (s.queue l.queue).cirq = true) ∧
    (∃ (s : State) (f : Finished), s.launch? s.ev.launch = none ∧ s.finished.find? (fun f => f.id == s.ev.launch) = some f ∧
        hostReach s f.comp.toNat 64 = true ∧ s.ev.fails = false) ∧
    (∃ (seq : Word) (c : Cause) (low : Nat) (at_ : Nat) (now : Nat) (map : Nat) (high : Nat), low < 2 ^ 64 ∧ map < 2 ^ 192) ∧
    (∃ (s : State) (a : Word) (t : Word) (seq : Word) (rest : List (Word × Word × Word)), let q := s.queue s.ev.queue;
        let at_ := q.nbase.toNat + 16 * (q.ntail.toNat % max q.nsize.toNat 1); s.ev.queue < s.queues.length ∧ q.notes = (a, t, seq) :: rest ∧
        q.ntail - q.nhead ≠ q.nsize ∧ hostReach s at_ 16 = true ∧ s.ev.fails = false) ∧
    (∃ (s : State) (b : List Byte) (o : Object), let reads := fun (s : State) (type : Nat) (b : List Byte) => s.ev.queue < 64 ∧ s.queues.length = 64 ∧ s.nextRecord s.ev.queue = some b ∧ field b 2 1 = type ∧ s.ev.fails = false ∧ s.poisonAt (s.queue s.ev.queue).slotAt 128 = false;
        let classOk := fun (s : State) (b : List Byte) => field b 21 1 = (s.queue s.ev.queue).cls.toNat; (reads s 0 b ∧ formatOk b = true ∧
        launchFormatOk b = true ∧ classOk s b ∧ s.objects.find? (fun o => o.id == field b 8 8 && !o.unloading) = some o ∧ launchCheck b o = none) ∧
        ∃ args t, (readAreas { coreWho s 0 0 with queue := s.ev.queue, engine := true } b o).run (s.advance s.ev.queue) = .ok (.ok args, t)) ∧
    (∃ (s : State) (b : List Byte) (c : Cause), let reads := fun (s : State) (type : Nat) (b : List Byte) => s.ev.queue < 64 ∧ s.queues.length = 64 ∧ s.nextRecord s.ev.queue = some b ∧ field b 2 1 = type ∧ s.ev.fails = false ∧ s.poisonAt (s.queue s.ev.queue).slotAt 128 = false;
        reads s 0 b ∧ c = schedC 12 ∧ (formatOk b && launchFormatOk b) = false) ∧
    (∃ (s : State) (b : List Byte) (c : Cause), let reads := fun (s : State) (type : Nat) (b : List Byte) => s.ev.queue < 64 ∧ s.queues.length = 64 ∧ s.nextRecord s.ev.queue = some b ∧ field b 2 1 = type ∧ s.ev.fails = false ∧ s.poisonAt (s.queue s.ev.queue).slotAt 128 = false;
        let classOk := fun (s : State) (b : List Byte) => field b 21 1 = (s.queue s.ev.queue).cls.toNat; reads s 0 b ∧
        (formatOk b && launchFormatOk b) = true ∧ c = schedC 13 ∧ ¬classOk s b) ∧
    (∃ (s : State) (b : List Byte) (c : Cause), let reads := fun (s : State) (type : Nat) (b : List Byte) => s.ev.queue < 64 ∧ s.queues.length = 64 ∧ s.nextRecord s.ev.queue = some b ∧ field b 2 1 = type ∧ s.ev.fails = false ∧ s.poisonAt (s.queue s.ev.queue).slotAt 128 = false;
        let classOk := fun (s : State) (b : List Byte) => field b 21 1 = (s.queue s.ev.queue).cls.toNat; reads s 0 b ∧
        (formatOk b && launchFormatOk b) = true ∧ classOk s b ∧ c = schedC 14 ∧
        s.objects.find? (fun o => o.id == field b 8 8 && !o.unloading) = none) ∧
    (∃ (s : State) (b : List Byte) (c : Cause), let reads := fun (s : State) (type : Nat) (b : List Byte) => s.ev.queue < 64 ∧ s.queues.length = 64 ∧ s.nextRecord s.ev.queue = some b ∧ field b 2 1 = type ∧ s.ev.fails = false ∧ s.poisonAt (s.queue s.ev.queue).slotAt 128 = false;
        let classOk := fun (s : State) (b : List Byte) => field b 21 1 = (s.queue s.ev.queue).cls.toNat; reads s 0 b ∧
        (formatOk b && launchFormatOk b) = true ∧ classOk s b ∧ s.objects.find? (fun o => o.id == field b 8 8 && !o.unloading) = some theObject ∧
        launchCheck b theObject = some c) ∧
    (∃ (s : State) (b : List Byte), let reads := fun (s : State) (type : Nat) (b : List Byte) => s.ev.queue < 64 ∧ s.queues.length = 64 ∧ s.nextRecord s.ev.queue = some b ∧ field b 2 1 = type ∧ s.ev.fails = false ∧ s.poisonAt (s.queue s.ev.queue).slotAt 128 = false;
        let classOk := fun (s : State) (b : List Byte) => field b 21 1 = (s.queue s.ev.queue).cls.toNat; (reads s 1 b ∧ formatOk b = true ∧
        classOk s b ∧ hostReach s (field b 8 8) (field b 16 4) = true ∧ s.poisonAt (field b 8 8) (field b 16 4) = false) ∧
        ∃ o, loadImage s.nextId (field b 16 4) (fun k => hostByte s (field b 8 8 + k)) = .ok o) ∧
    (∃ (s : State) (b : List Byte), let reads := fun (s : State) (type : Nat) (b : List Byte) => s.ev.queue < 64 ∧ s.queues.length = 64 ∧ s.nextRecord s.ev.queue = some b ∧ field b 2 1 = type ∧ s.ev.fails = false ∧ s.poisonAt (s.queue s.ev.queue).slotAt 128 = false;
        let classOk := fun (s : State) (b : List Byte) => field b 21 1 = (s.queue s.ev.queue).cls.toNat; (reads s 1 b ∧ formatOk b = true ∧
        classOk s b ∧ hostReach s (field b 8 8) (field b 16 4) = true ∧ s.poisonAt (field b 8 8) (field b 16 4) = false) ∧
        loadImage s.nextId (field b 16 4) (fun k => hostByte s (field b 8 8 + k)) = .error objFormat) :=
  ⟨⟨at_RecordEvents1, (leBytes 128 0x400000000000000000000000000000000000000000000000000000000000000000000000000000000000000000000000000000000000000000000000000000000000000002000000000000000000000000040000007700020001),
        runtimeObject 4, by decide +kernel⟩,
   ⟨at_RecordEvents2, (leBytes 128 0x400000000000000000000000000000000000000000000000000000000000000000000000000000000000000000000000000000000000000000000000000000000000000002000000000000000000000000030000007700020001),
        theObject, theLaunch, by decide +kernel⟩,
   ⟨at_RecordEvents3, (leBytes 128 0x400000000000000000000000000000000000000000000000000000000000000000000000000000000000000000000000000000000000000000000000000000000000000002000000000000000000000000000000007700000001),
        by decide +kernel⟩,
   ⟨at_RecordEvents4, (leBytes 128 0x400000000000000000000000000000000000000000000000000000000000000000000000000000000000000000000000000000000000000000000000000000000000000002000000000000000000000000000000007700010001),
        by decide +kernel⟩,
   ⟨at_RecordEvents5, { theLaunch with retired := 1, comp := 0x5000 }, by decide +kernel⟩,
   ⟨at_RecordEvents6, ({ id := 9, queue := 3, seq := 5, comp := 0x5000, acceptedAt := 1, status := schedC 3, low := 1, high := 2 } : Finished),
        by decide +kernel⟩,
   ⟨0xFFFFFFFF, schedC 3, 2 ^ 64 - 1, 5, 6, 2 ^ 192 - 1, 3, by decide +kernel⟩,
   ⟨at_RecordEvents8, 7, 8, 9, [], by decide +kernel⟩,
   ⟨ready3 (leBytes 128 0x400000000000000000000000000000000000000000000000000000000000000000000000000000000000000000000000000000000000000000000000000000000000000002010000000200000000000000060000007700000001),
        (leBytes 128 0x400000000000000000000000000000000000000000000000000000000000000000000000000000000000000000000000000000000000000000000000000000000000000002010000000200000000000000060000007700000001),
        tiny, by decide +kernel, ok_ok (by decide +kernel)⟩,
   ⟨ready3 (leBytes 128 0x400000000000000000000000000000000000000000000000000000000000000000000000000000000000000000000000000000000000000000000000000000000000000002010000000000000000000000030000007700000001),
        (leBytes 128 0x400000000000000000000000000000000000000000000000000000000000000000000000000000000000000000000000000000000000000000000000000000000000000002010000000000000000000000030000007700000001),
        schedC 12, by decide +kernel⟩,
   ⟨ready3 (leBytes 128 0x400000000000000000000000000000000000000000000000000000000000000000000000000000000000000000000000000000000000000000000000000000000000000001010000000200000000000000030000007700000001),
        (leBytes 128 0x400000000000000000000000000000000000000000000000000000000000000000000000000000000000000000000000000000000000000000000000000000000000000001010000000200000000000000030000007700000001),
        schedC 13, by decide +kernel⟩,
   ⟨ready3 (leBytes 128 0x400000000000000000000000000000000000000000000000000000000000000000000000000000000000000000000000000000000000000000000000000000000000000002010000000200000000000000630000007700000001),
        (leBytes 128 0x400000000000000000000000000000000000000000000000000000000000000000000000000000000000000000000000000000000000000000000000000000000000000002010000000200000000000000630000007700000001),
        schedC 14, by decide +kernel⟩,
   ⟨ready3 (leBytes 128 0x400000000000000000000000000000000000000000000000000000000000000000000000000000000000000000000000000000000000000000000000000000000000000002020000000200000000000000030000007700000001),
        (leBytes 128 0x400000000000000000000000000000000000000000000000000000000000000000000000000000000000000000000000000000000000000000000000000000000000000002020000000200000000000000030000007700000001),
        schedC 3, by decide +kernel⟩,
   ⟨ready3 (leBytes 128 0x400000000000000000000000000000000000000000000000000000000000000000000000000000000000000000000000000000000000000000000000000000000000000002000000004c00000000000020000000007700010001),
        (leBytes 128 0x400000000000000000000000000000000000000000000000000000000000000000000000000000000000000000000000000000000000000000000000000000000000000002000000004c00000000000020000000007700010001),
        by decide +kernel, ok_only (by decide +kernel)⟩,
   ⟨ready3 (leBytes 128 0x400000000000000000000000000000000000000000000000000000000000000000000000000000000000000000000000000000000000000000000000000000000000000002000000003f00000000000020000000007700010001),
        (leBytes 128 0x400000000000000000000000000000000000000000000000000000000000000000000000000000000000000000000000000000000000000000000000000000000000000002000000003f00000000000020000000007700010001),
        by decide +kernel, err_at (by decide +kernel)⟩⟩

theorem witness_RegisterEvents :
    (∃ (s : State), let queueNow := fun (s : State) => s.isFrozen 0 = false ∧ s.ev.queue < 64 ∧ s.queues.length = 64; queueNow s) ∧
    (∃ (s : State), let queueNow := fun (s : State) => s.isFrozen 0 = false ∧ s.ev.queue < 64 ∧ s.queues.length = 64; queueNow s) ∧
    (∃ (s : State), let queueNow := fun (s : State) => s.isFrozen 0 = false ∧ s.ev.queue < 64 ∧ s.queues.length = 64; queueNow s) ∧
    (∃ (s : State), let queueNow := fun (s : State) => s.isFrozen 0 = false ∧ s.ev.queue < 64 ∧ s.queues.length = 64; queueNow s ∧
        (s.queue s.ev.queue).en = false) ∧
    (∃ (s : State), let queueNow := fun (s : State) => s.isFrozen 0 = false ∧ s.ev.queue < 64 ∧ s.queues.length = 64; queueNow s ∧
        (s.queue s.ev.queue).en = true) ∧
    (∃ (s : State) (q : Nat), q < 64) ∧
    (∃ (s : State) (q : Nat), s.isFrozen 0 = false ∧ s.ev.agent = 0 ∧ s.ev.write = true ∧ s.ev.bytes = 8 ∧ q < 64 ∧ s.queues.length = 64 ∧
        s.ev.pa = 0x10000 + 64 * q) ∧
    (∃ (s : State) (q : Nat), s.isFrozen 0 = false ∧ s.ev.agent = 0 ∧ s.ev.write = true ∧ s.ev.bytes = 8 ∧ q < 64 ∧ s.queues.length = 64 ∧
        s.ev.pa = 0x10000 + 64 * q) ∧
    (∃ (s : State) (q : Nat), s.isFrozen 0 = false ∧ s.ev.agent = 0 ∧ s.ev.write = true ∧ s.ev.bytes = 4 ∧ q < 64 ∧ s.queues.length = 64 ∧
        s.ev.pa = 0x10000 + 64 * q + 0x1C) ∧
    (∃ (s : State), s.isFrozen 0 = false ∧ s.ev.agent = 0 ∧ s.ev.write = true ∧ s.ev.bytes = 8 ∧ s.ev.pa = 0) ∧
    (∃ (s : State), let p := s.ev.pa - s.hdmBase; s.hdmBase ≤ s.ev.pa ∧ s.ev.pa + s.ev.bytes ≤ s.hdmBase + deviceBytes ∧ 1 ≤ s.ev.bytes ∧
        p % 64 + s.ev.bytes ≤ 64 ∧ s.isFrozen 0 = false ∧ AtHome s (coreWho s 0 0).fibre (p / 64)) ∧
    (∃ (s : State), let p := s.ev.pa - s.hdmBase; s.hdmBase ≤ s.ev.pa ∧ s.ev.pa + s.ev.bytes ≤ s.hdmBase + deviceBytes ∧ 1 ≤ s.ev.bytes ∧
        p % 64 + s.ev.bytes ≤ 64 ∧ s.isFrozen 0 = false ∧ AtHome s (coreWho s 0 0).fibre (p / 64)) ∧
    (∃ (s : State) (r : Region), s.mem.regions[s.ev.choice]? = some r ∧ r.en = false ∧ (r.withFmt (s.ev.val ||| 16)).valid = true) ∧
    (∃ (s : State), ∃ t, (disableRegion { coreWho s s.ev.core 0 with throughHold := true } s.ev.choice (s.ev.val &&& ~~~16)).run s = .ok ((), t)) ∧
    (∃ (s : State) (t : Team), s.team? s.ev.launch s.ev.team = some t ∧ s.ev.val.toNat % 2 ^ 41 ≠ 0) ∧
    (∃ (s : State) (t : Team), s.team? s.ev.launch s.ev.team = some t) ∧
    (∃ (s : State), ∀ i ∈ [Instr.qtailWrite, .nheadWrite, .qptbrWrite], s.isFrozen 0 = true ∧ s.ev.queue < 64) ∧
    (∃ (m : MemSys) (line n : Nat), n ∈ m.hostLines ∧ n ∈ m.behind line) ∧
    (∃ s : State, (1 ≤ s.ev.bytes ∧ s.ev.pa + s.ev.bytes ≤ 2 ^ 20) ∧ s.ev.agent ≤ 1 ∧ (∀ k, k < s.ev.bytes → occupied (s.ev.pa + k) = false)) ∧
    (∃ s : State, (1 ≤ s.ev.bytes ∧ s.ev.pa + s.ev.bytes ≤ 2 ^ 20) ∧ s.ev.agent = 0 ∧ s.ev.write = false ∧ s.isFrozen 0 = false) ∧
    (∃ s : State, (1 ≤ s.ev.bytes ∧ s.ev.pa + s.ev.bytes ≤ 2 ^ 20) ∧ s.ev.agent = 0 ∧ s.isFrozen 0 = true ∧ (∃ k, k < s.ev.bytes ∧
        occupied (s.ev.pa + k) = true)) ∧
    (∃ s : State, (1 ≤ s.ev.bytes ∧ s.ev.pa + s.ev.bytes ≤ 2 ^ 20) ∧ s.ev.agent = 1 ∧ s.ev.write = false ∧ s.isFrozen 1 = false ∧
        ¬(s.ev.pa < 0x3000 ∨ 0x3008 < s.ev.pa + s.ev.bytes)) ∧
    (∃ s : State, (1 ≤ s.ev.bytes ∧ s.ev.pa + s.ev.bytes ≤ 2 ^ 20) ∧ s.ev.agent = 1 ∧ s.isFrozen 1 = false ∧
        (s.ev.pa < 0x3000 ∨ 0x3008 < s.ev.pa + s.ev.bytes) ∧ ¬(∀ k, k < s.ev.bytes → occupied (s.ev.pa + k) = false)) ∧
    (∃ s : State, (1 ≤ s.ev.bytes ∧ s.ev.pa + s.ev.bytes ≤ 2 ^ 20) ∧ s.ev.agent = 1 ∧ s.isFrozen 1 = true ∧ ¬(∀ k, k < s.ev.bytes →
        occupied (s.ev.pa + k) = false)) :=
  ⟨⟨at_RegisterEvents1, by decide +kernel⟩,
   ⟨at_RegisterEvents2, by decide +kernel⟩,
   ⟨at_RegisterEvents3, by decide +kernel⟩,
   ⟨at_RegisterEvents4, by decide +kernel⟩,
   ⟨at_RegisterEvents5, by decide +kernel⟩,
   ⟨at_RegisterEvents6, 63, by decide +kernel⟩,
   ⟨at_RegisterEvents7, 63, by decide +kernel⟩,
   ⟨at_RegisterEvents8, 63, by decide +kernel⟩,
   ⟨at_RegisterEvents9, 63, by decide +kernel⟩,
   ⟨at_RegisterEvents10, by decide +kernel⟩,
   ⟨at_RegisterEvents11, by decide +kernel⟩,
   ⟨at_RegisterEvents12, by decide +kernel⟩,
   ⟨at_RegisterEvents13, ({ base := 0, limit := 0x1000, saddr := 0 } : Region), by decide +kernel⟩,
   ⟨at_RegisterEvents14, ok_unit (by decide +kernel)⟩,
   ⟨at_RegisterEvents15, theTeam, by decide +kernel⟩,
   ⟨at_RegisterEvents16, theTeam, by decide +kernel⟩,
   ⟨at_RegisterEvents17, by decide +kernel⟩,
   ⟨base.mem.setHostLine 7 true, 7, 7, by decide +kernel⟩,
   ⟨happens (st [f0]) { agent := 1, pa := 0x114, bytes := 4 }, by decide +kernel⟩,
   ⟨happens (st [f0]) { pa := 0xFFFC0, bytes := 64 }, by decide +kernel⟩,
   ⟨happens ({ st [f0] with service := { base.service with frozen := 1 } }) { pa := 0, bytes := 1 }, by decide +kernel⟩,
   ⟨happens (st [f0]) { pa := 0x3000, bytes := 8, agent := 1 }, by decide +kernel⟩,
   ⟨happens (st [f0]) { pa := 7, bytes := 1, agent := 1 }, by decide +kernel⟩,
   ⟨happens ({ st [f0] with service := { base.service with frozen := 2 } }) { pa := 0, bytes := 8, agent := 1 }, by decide +kernel⟩⟩

theorem witness_SpanEvents :
    (∃ (s : State) (l : Launch) (p : Span), let live := fun (s : State) (l : Launch) (p : Span) => s.launch? s.ev.launch = some l ∧ l.ending = false ∧ l.span = some p;
        live s l p ∧ p.phase = .preparing ∧ (s.fabric.go = true ∨ p.nlodes = 1) ∧ s.ev.agents.length = p.nlodes) ∧
    (∃ (s : State) (l : Launch) (p : Span), let live := fun (s : State) (l : Launch) (p : Span) => s.launch? s.ev.launch = some l ∧ l.ending = false ∧ l.span = some p;
        let from_ := fun (s : State) (p : Span) (lode : Nat) => lode = p.lode ∨ s.fabric.linked = true ∧ s.accepts s.ev.agent s.ev.word = true;
        live s l p ∧ p.lode = 0 ∧ s.ev.lode < p.nlodes ∧ p.all p.readies = false ∧ from_ s p s.ev.lode ∧ p.readies.contains s.ev.lode = false) ∧
    (∃ (s : State) (l : Launch) (p : Span), let live := fun (s : State) (l : Launch) (p : Span) => s.launch? s.ev.launch = some l ∧ l.ending = false ∧ l.span = some p;
        let from_ := fun (s : State) (p : Span) (lode : Nat) => lode = p.lode ∨ s.fabric.linked = true ∧ s.accepts s.ev.agent s.ev.word = true;
        live s l p ∧ p.lode = 0 ∧ s.ev.lode < p.nlodes ∧ p.all p.readies = false ∧ from_ s p s.ev.lode ∧ p.readies.contains s.ev.lode = false) ∧
    (∃ (s : State) (l : Launch) (p : Span), let live := fun (s : State) (l : Launch) (p : Span) => s.launch? s.ev.launch = some l ∧ l.ending = false ∧ l.span = some p;
        let from_ := fun (s : State) (p : Span) (lode : Nat) => lode = p.lode ∨ s.fabric.linked = true ∧ s.accepts s.ev.agent s.ev.word = true;
        live s l p ∧ p.phase = .ready ∧ (p.lode = 0 → p.all p.readies = true) ∧ from_ s p 0) ∧
    (∃ (s : State) (l : Launch) (p : Span), let live := fun (s : State) (l : Launch) (p : Span) => s.launch? s.ev.launch = some l ∧ l.ending = false ∧ l.span = some p;
        let from_ := fun (s : State) (p : Span) (lode : Nat) => lode = p.lode ∨ s.fabric.linked = true ∧ s.accepts s.ev.agent s.ev.word = true;
        live s l p ∧ p.phase = .ready ∧ (p.lode = 0 → p.all p.readies = true) ∧ from_ s p 0) ∧
    (∃ (s : State) (l : Launch) (p : Span), let live := fun (s : State) (l : Launch) (p : Span) => s.launch? s.ev.launch = some l ∧ l.ending = false ∧ l.span = some p;
        let from_ := fun (s : State) (p : Span) (lode : Nat) => lode = p.lode ∨ s.fabric.linked = true ∧ s.accepts s.ev.agent s.ev.word = true;
        live s l p ∧ p.lode = 0 ∧ s.ev.lode < p.nlodes ∧ p.all p.readies = true ∧ p.all p.acks = false ∧ from_ s p s.ev.lode ∧
        s.rtime ≤ p.commitAt + p.window ∧ p.acks.contains s.ev.lode = false) ∧
    (∃ (s : State) (l : Launch) (p : Span), let live := fun (s : State) (l : Launch) (p : Span) => s.launch? s.ev.launch = some l ∧ l.ending = false ∧ l.span = some p;
        let from_ := fun (s : State) (p : Span) (lode : Nat) => lode = p.lode ∨ s.fabric.linked = true ∧ s.accepts s.ev.agent s.ev.word = true;
        live s l p ∧ p.lode = 0 ∧ s.ev.lode < p.nlodes ∧ p.all p.readies = true ∧ p.all p.acks = false ∧ from_ s p s.ev.lode ∧
        s.rtime ≤ p.commitAt + p.window ∧ p.acks.contains s.ev.lode = false) ∧
    (∃ (s : State) (l : Launch) (p : Span), let live := fun (s : State) (l : Launch) (p : Span) => s.launch? s.ev.launch = some l ∧ l.ending = false ∧ l.span = some p;
        let from_ := fun (s : State) (p : Span) (lode : Nat) => lode = p.lode ∨ s.fabric.linked = true ∧ s.accepts s.ev.agent s.ev.word = true;
        live s l p ∧ p.phase = .committed ∧ (p.lode = 0 → p.all p.acks = true) ∧ from_ s p 0) ∧
    (∃ (s : State) (l : Launch) (p : Span), let live := fun (s : State) (l : Launch) (p : Span) => s.launch? s.ev.launch = some l ∧ l.ending = false ∧ l.span = some p;
        let from_ := fun (s : State) (p : Span) (lode : Nat) => lode = p.lode ∨ s.fabric.linked = true ∧ s.accepts s.ev.agent s.ev.word = true;
        live s l p ∧ p.phase = .committed ∧ (p.lode = 0 → p.all p.acks = true) ∧ from_ s p 0) ∧
    (∃ (s : State) (l : Launch) (p : Span), let live := fun (s : State) (l : Launch) (p : Span) => s.launch? s.ev.launch = some l ∧ l.ending = false ∧ l.span = some p;
        let from_ := fun (s : State) (p : Span) (lode : Nat) => lode = p.lode ∨ s.fabric.linked = true ∧ s.accepts s.ev.agent s.ev.word = true;
        live s l p ∧ p.phase ≠ .running ∧ from_ s p 0) ∧
    (∃ (s : State) (l : Launch) (p : Span), let live := fun (s : State) (l : Launch) (p : Span) => s.launch? s.ev.launch = some l ∧ l.ending = false ∧ l.span = some p;
        live s l p ∧ p.lode = 0 ∧ p.all p.readies = true ∧ p.all p.acks = false ∧ p.commitAt + p.window ≤ s.rtime) ∧
    (∃ (s : State) (l : Launch) (p : Span), let live := fun (s : State) (l : Launch) (p : Span) => s.launch? s.ev.launch = some l ∧ l.ending = false ∧ l.span = some p;
        live s l p ∧ p.phase = .committed ∧ p.lode ≠ 0 ∧ p.commitAt + p.window + 100000 ≤ s.rtime) ∧
    (∃ (p : Span) (n : Nat), p.nlodes ≤ 192 ∧ n < p.nlodes) :=
  ⟨⟨at_SpanEvents1, { theLaunch with span := some (spanAt 1 .preparing [] []) }, spanAt 1 .preparing [] [], by decide +kernel⟩,
   ⟨at_SpanEvents2, { theLaunch with span := some (spanAt 0 .ready [0] []) }, spanAt 0 .ready [0] [], by decide +kernel⟩,
   ⟨at_SpanEvents3, { theLaunch with span := some (spanAt 0 .ready [] []) }, spanAt 0 .ready [] [], by decide +kernel⟩,
   ⟨at_SpanEvents4, { theLaunch with span := some (spanAt 0 .ready [0, 1] []) }, spanAt 0 .ready [0, 1] [], by decide +kernel⟩,
   ⟨at_SpanEvents5, { theLaunch with span := some (spanAt 1 .ready [] []) }, spanAt 1 .ready [] [], by decide +kernel⟩,
   ⟨at_SpanEvents6, { theLaunch with span := some (spanAt 0 .committed [0, 1] [0]) }, spanAt 0 .committed [0, 1] [0], by decide +kernel⟩,
   ⟨at_SpanEvents7, { theLaunch with span := some (spanAt 0 .committed [0, 1] []) }, spanAt 0 .committed [0, 1] [], by decide +kernel⟩,
   ⟨at_SpanEvents8, { theLaunch with span := some (spanAt 0 .committed [0, 1] [0, 1]) }, spanAt 0 .committed [0, 1] [0, 1], by decide +kernel⟩,
   ⟨at_SpanEvents9, { theLaunch with span := some (spanAt 1 .committed [] []) }, spanAt 1 .committed [] [], by decide +kernel⟩,
   ⟨at_SpanEvents10, { theLaunch with span := some (spanAt 1 .committed [] []) }, spanAt 1 .committed [] [], by decide +kernel⟩,
   ⟨at_SpanEvents11, { theLaunch with span := some (spanAt 0 .committed [0, 1] [0]) }, spanAt 0 .committed [0, 1] [0], by decide +kernel⟩,
   ⟨at_SpanEvents12, { theLaunch with span := some (spanAt 1 .committed [] []) }, spanAt 1 .committed [] [], by decide +kernel⟩,
   ⟨{ spanAt 0 .committed [] [191] with nlodes := 192 }, 191, by decide +kernel⟩⟩

theorem witness_FabricEvents :
    (∃ (s : State) (m : BitVec 16), let trains := fun (s : State) => s.ev.port < 16 ∧ s.fabric.ports.length = 16 ∧ (s.port s.ev.port).up = false ∧ (s.port s.ev.port).dis = false;
        trains s ∧ s.ev.peer = .versions m ∧ (m.getLsbD 1 = true ∨ m.getLsbD 2 = true)) ∧
    (∃ (s : State) (m : BitVec 16), let trains := fun (s : State) => s.ev.port < 16 ∧ s.fabric.ports.length = 16 ∧ (s.port s.ev.port).up = false ∧ (s.port s.ev.port).dis = false;
        trains s ∧ s.ev.peer = .versions m ∧ (m.getLsbD 1 = true ∨ m.getLsbD 2 = true)) ∧
    (∃ (s : State), let trains := fun (s : State) => s.ev.port < 16 ∧ s.fabric.ports.length = 16 ∧ (s.port s.ev.port).up = false ∧ (s.port s.ev.port).dis = false;
        trains s ∧ s.ev.peer = ((PortPeer.versions 0, 1) : PortPeer × BitVec 3).1) ∧
    (∃ (s : State), let trains := fun (s : State) => s.ev.port < 16 ∧ s.fabric.ports.length = 16 ∧ (s.port s.ev.port).up = false ∧ (s.port s.ev.port).dis = false;
        trains s ∧ s.ev.peer = ((.noSignal, 2) : PortPeer × BitVec 3).1) ∧
    (∃ (s : State) (k : Nat), s.ev.port < 16 ∧ s.fabric.ports.length = 16 ∧ (s.port s.ev.port).up = true ∧
        (List.range 16).find? (fun j => j != s.ev.port && (s.port j).up) = some k) ∧
    (∃ (s : State), (s.agent s.selfId).live = true ∧ s.fabric.beats < s.rtime / 12500) ∧
    (∃ (s : State), (s.port s.ev.port).up = true ∧ s.accepts s.ev.agent s.ev.word = true ∧ s.overdue s.ev.agent = false ∧
        s.ev.agent < s.fabric.agents.length) ∧
    (∃ (s : State), s.accepts s.ev.agent s.ev.word = false) ∧
    (∃ (s : State), s.accepts s.ev.agent s.ev.word = true) ∧
    (∃ (s : State), (s.agent s.ev.agent).live = true ∧ s.ev.agent ≠ s.selfId ∧ s.ev.agent < s.fabric.agents.length ∧
        (s.agent s.ev.agent).heard + 100000 ≤ s.rtime ∨ s.accepts s.ev.agent s.ev.word = true ∧ (∀ l ∈ s.launches, l.span = none)) ∧
    (∃ (s : State), s.fabric.linked = true ∧ s.ev.agent = s.selfId ∧ s.fabric.selfInc = s.ev.word ∧ (s.agent s.ev.agent).live = true ∧
        s.ev.agent < s.fabric.agents.length ∧ (∀ l ∈ s.launches, l.span = none)) ∧
    (∃ (s : State), s.fabric.linked = true ∧ s.ev.agent ≤ 192 ∧ s.fabric.agents.length = 193) ∧
    (∃ (s : State), s.fabric.linked = true ∧ s.ev.agent ≤ 192 ∧ s.fabric.agents.length = 193) ∧
    (∃ (s : State), s.fabric.linked = true ∧ (s.agent s.selfId).live = true) ∧
    (∃ (s : State), (s.port s.ev.port).up = true ∧ s.accepts s.ev.agent s.ev.word = true ∧ s.overdue s.ev.agent = true) ∧
    (∃ s : State, s.fabric.linked = false) :=
  ⟨⟨at_FabricEvents1, 2, by decide +kernel⟩,
   ⟨at_FabricEvents2, 4, by decide +kernel⟩,
   ⟨at_FabricEvents3, by decide +kernel⟩,
   ⟨at_FabricEvents4, by decide +kernel⟩,
   ⟨at_FabricEvents5, 3, by decide +kernel⟩,
   ⟨at_FabricEvents6, by decide +kernel⟩,
   ⟨at_FabricEvents7, by decide +kernel⟩,
   ⟨at_FabricEvents8, by decide +kernel⟩,
   ⟨at_FabricEvents9, by decide +kernel⟩,
   ⟨at_FabricEvents10, by decide +kernel⟩,
   ⟨at_FabricEvents11, by decide +kernel⟩,
   ⟨at_FabricEvents12, by decide +kernel⟩,
   ⟨at_FabricEvents13, by decide +kernel⟩,
   ⟨at_FabricEvents14, by decide +kernel⟩,
   ⟨at_FabricEvents15, by decide +kernel⟩,
   ⟨base, by decide +kernel⟩⟩

theorem witness_ServiceEvents :
    (∃ (s : State), s.ev.agent ≤ 1 ∧ s.isFrozen s.ev.agent = false ∧ (s.ev.agent = 1 ∨ s.service.slotUsable = true)) ∧
    (∃ (s : State) (n : Nat), s.service.staged = some n ∧ s.ev.unit = .controller ∧ s.service.quiesce.find? (fun q => q.1 == .controller) = none) ∧
    (∃ (s : State) (n : Nat) (c : Nat), s.service.staged = some n ∧ s.ev.unit = .core c ∧ c < 512 ∧ c < s.cores.length ∧ s.gangsOn c = []) ∧
    (∃ (s : State), s.isFrozen 1 = false) ∧
    (∃ (s : State), s.isFrozen 1 = false) ∧
    (∃ (s : State), s.isFrozen 1 = false ∧ s.service.spdmAlgs = true) ∧
    (∃ (s : State), ∀ i ∈ [Instr.getDigests, .getCertificate, .challenge, .getMeasurements], s.isFrozen 1 = false ∧ s.service.spdmAlgs = false) ∧
    (∃ (s : State), s.ev.agent < 4 ∧ s.isFrozen s.ev.agent = false ∧ s.service.frozen ||| BitVec.ofNat 4 (2 ^ s.ev.agent) ≠ BitVec.allOnes 4) ∧
    (∃ (s : State), s.ev.agent < 4 ∧ s.isFrozen s.ev.agent = false ∧ s.service.frozen ||| BitVec.ofNat 4 (2 ^ s.ev.agent) ≠ BitVec.allOnes 4) ∧
    (∃ (s : State), s.ev.agent < 4 ∧ s.isFrozen s.ev.agent = false) ∧
    (∃ (s : State), ∀ i ∈ [Instr.masterFreeze, .mfreezeThaw, .fwImageStage], s.isFrozen 0 = true ∧ s.ev.agent = 0 ∧ s.ev.agents = []) ∧
    (∃ (s : State) (spare : Nat), s.ev.core < 512 ∧ s.cores.length = 512 ∧ (s.service.spares.getD (dieOf s.ev.core) [])[s.ev.choice]? = some spare ∧
        s.gangsOn s.ev.core = [] ∧ (∀ i ∈ s.itemCrews, i.core ≠ s.ev.core) ∧ CleanL1 s s.ev.core) ∧
    (∃ (s : State), s.ev.choice ∉ [1, 2, 3, 4, 5, 6, 7] ∧ s.ev.pa < deviceBytes) ∧
    (∃ (s : State), s.service.sampled < s.rtime / 100000) ∧
    (∃ (s : State), s.ev.agent ≤ 1 ∧ s.isFrozen s.ev.agent = false ∧ (s.ev.agent = 1 ∨ s.service.slotUsable = true)) ∧
    (∃ (s : State), s.ev.agent = 0 ∧ s.isFrozen 0 = false ∧ s.service.slotUsable = false) ∧
    (∃ (s : State), s.ev.agent < 4 ∧ s.service.frozen ||| BitVec.ofNat 4 (2 ^ s.ev.agent) = BitVec.allOnes 4) ∧
    (∃ (s : State) (l : L1Line), s.ev.choice = 1 ∧ s.ev.core < s.cores.length ∧ l ∈ (s.core s.ev.core).l1 ∧ l.line = s.ev.pa / 64) ∧
    (∃ (s : State) (t : Team), s.ev.choice = 2 ∧ s.team? s.ev.launch s.ev.team = some t ∧ s.ev.pa < t.spSize) ∧
    (∃ (s : State) (n : Nat) (d : Nat) (ids : List Nat), s.service.staged = some n ∧ d < 8 ∧ s.ev.unit = .sluice d ∧
        s.service.quiesce.find? (fun q => q.1 == .sluice d) = some (.sluice d, ids) ∧ (∀ i ∈ ids, i ∉ s.opsOf (.sluice d))) ∧
    (∃ (s : State) (f : Fibre), s.ev.choice = 3 ∧ s.fibre? s.ev.fibre = some f ∧ s.ev.word.toNat < f.regs.length) ∧
    (∃ (s : State) (t : Team) (x : Tile), s.ev.choice = 4 ∧ s.team? s.ev.launch s.ev.team = some t ∧ t.tiles[s.ev.word.toNat]? = some x ∧
        s.ev.pa / 64 < 128) ∧
    (∃ (s : State) (e : TlbEntry), s.ev.choice = 5 ∧ s.ev.core < s.cores.length ∧ e ∈ (s.core s.ev.core).tlb ∧
        e.hits s.ev.queue (pageOf s.ev.val) = true) ∧
    (∃ (s : State) (e : TlbEntry), s.ev.choice = 6 ∧ e ∈ s.mem.dieTlb.getD s.ev.die [] ∧ e.hits s.ev.queue (pageOf s.ev.val) = true) ∧
    (∃ (s : State) (l : L2Line), s.ev.choice = 7 ∧ l ∈ s.mem.l2 ∧ l.line = lineNo s.ev.pa true) ∧
    (∃ (s : State) (which : FwUnit → Bool), ∃ o ∈ (s.endQuiesce which).ops, o.kind = .ncfg) :=
  ⟨⟨at_ServiceEvents1, by decide +kernel⟩,
   ⟨at_ServiceEvents2, 1, by decide +kernel⟩,
   ⟨at_ServiceEvents3, 1, 511, by decide +kernel⟩,
   ⟨at_ServiceEvents4, by decide +kernel⟩,
   ⟨at_ServiceEvents5, by decide +kernel⟩,
   ⟨at_ServiceEvents6, by decide +kernel⟩,
   ⟨at_ServiceEvents7, by decide +kernel⟩,
   ⟨at_ServiceEvents8, by decide +kernel⟩,
   ⟨at_ServiceEvents9, by decide +kernel⟩,
   ⟨at_ServiceEvents10, by decide +kernel⟩,
   ⟨at_ServiceEvents11, by decide +kernel⟩,
   ⟨at_ServiceEvents12, 65, by decide +kernel⟩,
   ⟨at_ServiceEvents15, by decide +kernel⟩,
   ⟨at_ServiceEvents16, by decide +kernel⟩,
   ⟨at_ServiceEvents18, by decide +kernel⟩,
   ⟨at_ServiceEvents19, by decide +kernel⟩,
   ⟨at_ServiceEvents20, by decide +kernel⟩,
   ⟨at_ServiceEvents21, theLine, by decide +kernel⟩,
   ⟨at_ServiceEvents22, theTeam, by decide +kernel⟩,
   ⟨at_ServiceEvents23, 1, 7, [9], by decide +kernel⟩,
   ⟨at_ServiceEvents24, f0, by decide +kernel⟩,
   ⟨at_ServiceEvents25, theTeam, grantTile, by decide +kernel⟩,
   ⟨at_ServiceEvents26, te, by decide +kernel⟩,
   ⟨at_ServiceEvents27, te, by decide +kernel⟩,
   ⟨at_ServiceEvents28, (warm (st [f0])).mem.l2.headD default |> fun l => { l with line := lineNo 63 true }, by decide +kernel⟩,
   ⟨{ st [f0] with ops := [engOp .nbin [], { engOp .ncfg [] with id := 10 }] }, fun u => u == .sluice 0, by decide +kernel⟩⟩

end Sys2Proof.Tests.Slice0
end

section
/-! Reset: no byte of any memory is written and no team exists, so every memory is in its canonical form. -/

namespace Sys2Proof.Machine

@[simp] theorem State.reset_hbm : State.reset.mem.hbm = [] := rfl
@[simp] theorem State.reset_host : State.reset.mem.host = [] := rfl
@[simp] theorem State.reset_teams : State.reset.teams = [] := rfl

/-- Where nothing is written and no team exists, there is no entry that could break the canonical form. -/
theorem State.memWf_of_unwritten {s : State} (hhbm : s.mem.hbm = []) (hhost : s.mem.host = []) (hteams : s.teams = []) :
    s.MemWf := by
  refine ⟨?hbm, ?host, ?scratchpads⟩
  case hbm => rw [hhbm]; exact Memory.wf_nil
  case host => rw [hhost]; exact Memory.wf_nil
  case scratchpads => simp [hteams]

/-- Settles O6: at reset both memories are the empty list (log 5) and there is no team with a scratchpad. -/
theorem resetMemory : Obligations.ResetMemory :=
  State.memWf_of_unwritten State.reset_hbm State.reset_host State.reset_teams

end Sys2Proof.Machine
end

section
/-! What accesses to global memory change, whatever they meet on the way: memory and the caches before it, the scores of the teams whose
lines were victims, requests, and what is sent. An effect is followed through its parts (`Accesses`), so that a caller needs no case of it. -/

namespace Sys2Proof.Machine

/-! ### Updates and effects in parts -/

/-- An update made for every element of a list leaves what each leaves. -/
theorem foldl_keeps {α β γ : Type} {p : β → γ} {f : β → α → β} (h : ∀ b a, p (f b a) = p b) (l : List α) (b : β) :
    p (l.foldl f b) = p b :=
  List.foldlRecOn (motive := fun c => p c = p b) l f rfl fun c hc a _ => (h c a).trans hc

/-- What the update for one element brings about and every update keeps holds once they have been made for all. -/
theorem foldl_establishes {α β : Type} {P : β → Prop} {f : β → α → β} {a : α} {l : List α} (ha : a ∈ l) (hset : ∀ b, P (f b a))
    (hkeep : ∀ b c, P b → P (f b c)) (b : β) : P (l.foldl f b) := by
  induction l generalizing b with
  | nil => cases ha
  | cons c cs ih =>
    rcases List.mem_cons.mp ha with rfl | ha
    · exact List.foldlRecOn (motive := P) cs f (hset b) fun d hd e _ => hkeep d e hd
    · exact ih ha _

/-- Where an effect comes about, its first part has, and then the rest in the state that it left. -/
theorem exists_of_bind_ok {α β : Type} {x : M α} {f : α → M β} {s u : State} {b : β} (h : (x >>= f).run s = .ok (b, u)) :
    ∃ a t, x.run s = .ok (a, t) ∧ (f a).run t = .ok (b, u) := by
  rw [StateT.run_bind] at h
  cases hr : x.run s with
  | error e => rw [hr] at h; cases h
  | ok p => exact ⟨p.1, p.2, rfl, by rw [hr] at h; exact h⟩

/-! ### Effects that only access -/

/-- t differs from s only in what global accesses change (03 R86 to R95; 02 R58). -/
def OnlyAccess (s t : State) : Prop :=
  t = { s with nextId := t.nextId, mem := t.mem, cores := t.cores, teams := t.teams, fwds := t.fwds, fabric := t.fabric, sent := t.sent }

theorem OnlyAccess.refl (s : State) : OnlyAccess s s := rfl

theorem OnlyAccess.trans {s t u : State} (h : OnlyAccess s t) (k : OnlyAccess t u) : OnlyAccess s u := by
  unfold OnlyAccess at *
  rw [k, h]

theorem OnlyAccess.foldl {α : Type} {f : State → α → State} (h : ∀ s a, OnlyAccess s (f s a)) (l : List α) (s : State) :
    OnlyAccess s (l.foldl f s) := by
  induction l generalizing s with
  | nil => exact .refl s
  | cons a l ih => exact (h s a).trans (ih _)

theorem OnlyAccess.agenda {s t : State} (h : OnlyAccess s t) : t.agenda = s.agenda := by rw [h]

/-- An effect that, where it comes about, changes only what global accesses change. -/
def Accesses {α : Type} (x : M α) : Prop := ∀ s a t, x.run s = .ok (a, t) → OnlyAccess s t

section
variable {α β : Type}

theorem Accesses.pure (a : α) : Accesses (pure a : M α) := fun s _ _ h => by
  cases h; exact .refl s

theorem Accesses.throw (e : Stop) : Accesses (throw e : M α) := fun _ _ _ h => by cases h

theorem Accesses.trapM (c : Cause) (v : DWord) : Accesses (trapM c v : M α) := Accesses.throw _
theorem Accesses.waitM (w : Wait) : Accesses (waitM w : M α) := Accesses.throw _
theorem Accesses.get : Accesses (get : M State) := fun s _ _ h => by cases h; exact .refl s

theorem Accesses.modify {f : State → State} (h : ∀ s, OnlyAccess s (f s)) : Accesses (modify f : M Unit) := fun s _ _ e => by
  cases e; exact h s

theorem Accesses.bind {x : M α} {f : α → M β} (hx : Accesses x) (hf : ∀ a, Accesses (f a)) : Accesses (x >>= f) := fun s b u h => by
  obtain ⟨a, t, ha, hb⟩ := exists_of_bind_ok h
  exact (hx s a t ha).trans (hf a t b u hb)

theorem Accesses.ite {c : Prop} [Decidable c] {x y : M α} (hx : Accesses x) (hy : Accesses y) : Accesses (if c then x else y) := by
  split
  · exact hx
  · exact hy

/-- A stop: what follows it does not come about. -/
theorem Accesses.stop {e : Stop} {f : α → M β} : Accesses ((MonadExcept.throw e : M α) >>= f) := fun _ _ _ h => by cases h

/-- A check before the rest of an effect: where it stops, nothing has come about. -/
theorem Accesses.guard {c : Prop} [Decidable c] {x : M PUnit} {k : PUnit → M β} (hx : Accesses x) (hk : ∀ r, Accesses (k r)) :
    Accesses (if c then x >>= k else k ⟨⟩) :=
  .ite (.bind hx hk) (hk _)

theorem Accesses.checkM (b : Bool) (c : Cause) (v : DWord) : Accesses (checkM b c v) := by
  unfold Machine.checkM
  exact .ite (.pure ()) (.trapM c v)

theorem Accesses.forM_ {l : List α} {f : α → M Unit} (h : ∀ a, Accesses (f a)) : Accesses (forM_ l f) := by
  induction l with
  | nil => exact .pure ()
  | cons a l ih => exact .bind (h a) fun _ => ih
end

/-! ### Lines at home and in an L1 -/

theorem gate_accesses (who : Who) (line : Nat) : Accesses (gate who line) :=
  .bind .get fun _ => .guard (.waitM _) fun _ => .ite (.waitM _) (.pure _)

theorem l2Read_accesses (who : Who) (line : Nat) (va : DWord) : Accesses (l2Read who line va) :=
  .bind (gate_accesses who line) fun _ => .bind .get fun _ => .bind (.checkM _ _ _) fun _ => .bind (.modify fun _ => rfl) fun _ => .pure _

theorem l2Store_accesses (who : Who) (line : Nat) (mask : BitVec 64) (d : BitVec 512) : Accesses (l2Store who line mask d) :=
  .bind (gate_accesses who line) fun _ => .modify fun _ => rfl

theorem l1Back_accesses (who : Who) (l : L1Line) : Accesses (l1Back who l) :=
  .bind (l2Store_accesses who _ _ _) fun _ => .ite (.modify fun _ => rfl) (.pure _)

theorem l1Evict_accesses (who : Who) (core : Nat) (l : L1Line) : Accesses (l1Evict who core l) :=
  .ite (.bind (l1Back_accesses who l) fun _ => .modify fun _ => rfl) (.modify fun _ => rfl)

theorem l1Put_accesses (who : Who) (core : Nat) (l : L1Line) : Accesses (l1Put who core l) := by
  have add : Accesses (modify (fun s => s.setCore core (fun c => { c with l1 := c.l1 ++ [l] })) : M Unit) := .modify fun _ => rfl
  unfold l1Put
  refine .bind .get fun s => .ite (.modify fun _ => rfl) ?_
  split
  · exact .ite (.bind (l1Evict_accesses who core _) fun _ => add) add
  · exact add

theorem State.victimHit_access (s : State) (core line : Nat) : OnlyAccess s (s.victimHit core line) := by
  unfold State.victimHit
  split
  · rfl
  · dsimp only
    split
    · split
      · rfl
      · unfold State.catchUp
        split <;> rfl
    · rfl

theorem l1Write_accesses (who : Who) (line : Nat) (mask : BitVec 64) (d : BitVec 512) : Accesses (l1Write who line mask d) := by
  unfold l1Write
  refine .bind .get fun s => ?_
  dsimp only
  split
  · exact l1Put_accesses who _ _
  · exact .bind (.modify fun s => s.victimHit_access _ _) fun _ => l1Put_accesses who _ _

theorem l1Flush_accesses (who : Who) (line : Nat) : Accesses (l1Flush who line) := by
  unfold l1Flush
  refine .bind .get fun s => ?_
  dsimp only
  split
  · exact .ite (.bind (l1Back_accesses who _) fun _ => .modify fun _ => rfl) (.modify fun _ => rfl)
  · exact .pure _

/-! ### Forwarded accesses and translation -/

theorem ownerGate_accesses (who : Who) (dev : Nat) : Accesses (ownerGate who dev) := by
  unfold ownerGate
  refine .bind .get fun s => ?_
  split
  · exact .ite (.waitM _) (.pure _)
  · exact .pure _

theorem forward_accesses (who : Who) (dev pa bytes : Nat) (va : DWord) (op : FwdOp) (leaf : Option Nat) :
    Accesses (forward who dev pa bytes va op leaf) := by
  unfold forward
  refine .bind .get fun s => ?_
  dsimp only
  split
  · split
    · exact .trapM _ _
    · exact .trapM _ _
    · exact .trapM _ _
    · exact .bind (.modify fun _ => rfl) fun _ => .pure _
    · exact .ite (.trapM _ _) (.waitM _)
  · exact .guard (.trapM _ _) fun _ => .ite (.guard (.waitM _) fun _ => .bind (ownerGate_accesses who _) fun _ => .throw _) (.throw _)

theorem readNode_accesses (who : Who) (loc peer pa : Nat) (va : DWord) : Accesses (readNode who loc peer pa va) := by
  unfold readNode
  split
  · exact .bind (l2Read_accesses who _ _) fun _ => .pure _
  · exact .bind .get fun _ => .pure _
  · exact .bind (forward_accesses who _ _ _ _ _ _) fun _ => .pure _

theorem changeNode_accesses (who : Who) (loc peer pa : Nat) (f : Nat → Nat) (remote : FwdOp) (va : DWord) :
    Accesses (changeNode who loc peer pa f remote va) := by
  have post : Accesses (modify (fun s =>
      let (i, s) := s.newId
      let (at_, n, op) := nodeWire pa remote
      let r : Fwd := { id := i, fibre := walkerId who.core, core := who.core, dev := peer, pa := at_, va := 0, bytes := n, op := op
                       pc := 0, posted := true, launch := who.launch }
      State.send { s with fwds := s.fwds ++ [r] } (.request i)) : M Unit) := .modify fun _ => rfl
  unfold changeNode
  split
  · exact .bind (l2Read_accesses who _ _) fun _ => l2Store_accesses who _ _ _
  · exact .modify fun _ => rfl
  · exact .bind .get fun s => .guard (.trapM _ _) fun _ => .guard (.waitM _) fun _ => post

theorem nodeGate_accesses (who : Who) (loc peer pa level : Nat) (va : DWord) (write : Bool) :
    Accesses (nodeGate who loc peer pa level va write) :=
  .bind .get fun _ => .ite (.ite (.trapM _ _) (.waitM _)) (.pure _)

theorem State.installTlb_access (s : State) (who : Who) (e : TlbEntry) : OnlyAccess s (s.installTlb who e) := rfl

theorem walkFrom_accesses (who : Who) (va : DWord) (page : Nat) (write : Bool) (loc peer node : Nat) (levels : List Nat) :
    Accesses (walkFrom who va page write loc peer node levels) := by
  induction levels generalizing loc peer node with
  | nil => exact .trapM _ _
  | cons level rest ih =>
    unfold walkFrom
    refine .bind .get fun s => ?_
    extract_lets pre die cached jp
    have hjp : ∀ x, Accesses (jp x) := by
      intro x
      refine .guard (.trapM _ _) fun _ => .guard (.trapM _ _) fun _ => .guard (.trapM _ _) fun _ => .ite ?node ?leaf
      case node => exact .bind (nodeGate_accesses who _ _ _ _ _ _) fun _ => .guard (.modify fun _ => rfl) fun _ => ih _ _ _
      case leaf =>
        have tail (t : TlbEntry) : Accesses (do
            changeNode who loc peer (node + 8 * (page / 4096 ^ level % 4096)) (fun y => y ||| 8) (.intAtomic 4 2 8) va
            modify (fun s => s.installTlb who t)
            pure t) :=
          .bind (changeNode_accesses who _ _ _ _ _ _) fun _ => .bind (.modify fun s => s.installTlb_access who t) fun _ => .pure t
        exact .ite (.ite .stop .stop) (.guard (.trapM _ _) fun _ => tail _)
    clear_value cached jp
    split
    · exact .bind (.pure _) hjp
    · exact .bind (readNode_accesses who _ _ _ _) hjp

theorem walk_accesses (who : Who) (va : DWord) (write : Bool) : Accesses (walk who va write) :=
  .bind .get fun _ => .guard (.trapM _ _) fun _ => .guard (.trapM _ _) fun _ => .guard (.trapM _ _) fun _ =>
    .bind (nodeGate_accesses who _ _ _ _ _ _) fun _ => walkFrom_accesses who _ _ _ _ _ _ _

theorem translate_accesses (who : Who) (va : DWord) (write : Bool) : Accesses (translate who va write) := by
  unfold translate
  refine .bind (.checkM _ _ _) fun _ => ?_
  extract_lets page ok jp
  have hjp : ∀ t, Accesses (jp t) := fun t => .guard (.modify fun _ => rfl) fun _ => .pure _
  refine .bind .get fun s => ?_
  extract_lets own
  clear_value jp
  split
  · exact .bind (.checkM _ _ _) fun _ => .bind (.pure _) hjp
  split
  · exact .bind (.checkM _ _ _) fun _ => .bind (changeNode_accesses who _ _ _ _ _ _) fun _ =>
      .bind (.modify fun s => s.installTlb_access who _) fun _ => .bind (.pure _) hjp
  · exact .bind (walk_accesses who va write) hjp

/-! ### Stores -/

theorem checkView_accesses (p : Phys) (va : DWord) : Accesses (checkView p va) :=
  .bind .get fun _ => .ite (.checkM _ _ _) (.pure _)

theorem entryGate_accesses (who : Who) (p : Phys) : Accesses (entryGate who p) :=
  .bind .get fun _ => .guard (.waitM _) fun _ => .ite (.modify fun _ => rfl) (.pure _)

theorem State.addAcc_access (s : State) (core launch leaf left : Nat) : OnlyAccess s (s.addAcc core launch leaf left) := by
  unfold State.addAcc
  extract_lets who put
  have hput : ∀ (t : State) k, OnlyAccess t (put t k) := fun _ _ => rfl
  split
  · next t h => exact (changeNode_accesses _ _ _ _ _ _ _ s _ t h).trans (hput t left)
  · exact hput s 63
  · rfl

theorem State.raiseAcc_access (s : State) (core launch leaf : Nat) : OnlyAccess s (s.raiseAcc core launch leaf) := by
  unfold State.raiseAcc
  extract_lets n peer
  split
  · rfl
  split
  · exact s.addAcc_access _ _ _ _
  split
  · rfl
  split
  · rfl
  · rfl

theorem State.countFwd_access (s : State) (core launch leaf : Nat) : OnlyAccess s (s.countFwd core launch leaf) :=
  OnlyAccess.trans (t := { s with mem := s.mem.setCount leaf (s.mem.countOf leaf + 1) }) rfl (State.raiseAcc_access _ _ _ _)

theorem countForward_accesses (who : Who) (leaf : Nat) : Accesses (countForward who leaf) :=
  .modify fun s => s.countFwd_access _ _ _

theorem postStore_accesses (who : Who) (dev : Nat) (p : Phys) (bytes : Nat) (va : DWord) (v : Nat) : Accesses (postStore who dev p bytes va v) := by
  unfold postStore
  refine .bind .get fun s => ?_
  extract_lets live jp _
  have hjp : ∀ r, Accesses (jp r) := fun _ => .modify fun s => by dsimp only; split <;> rfl
  exact .ite (.guard (.waitM _) fun _ => .bind (ownerGate_accesses who dev) hjp) (hjp ())

theorem writePhys_accesses (who : Who) (p : Phys) (va : DWord) (bytes v : Nat) (path : Path) : Accesses (writePhys who p va bytes v path) := by
  unfold writePhys
  refine .bind (checkView_accesses p va) fun _ => ?_
  extract_lets line k
  split
  · cases path with
    | l1 => exact l1Write_accesses who _ _ _
    | l2 => exact .bind (l1Flush_accesses who _) fun _ => l2Store_accesses who _ _ _
    | engine => exact l2Store_accesses who _ _ _
  · exact .bind (entryGate_accesses who p) fun _ => .bind (countForward_accesses who _) fun _ => .modify fun _ => rfl
  · exact .ite (.bind (forward_accesses who _ _ _ _ _ _) fun _ => .pure _)
      (.bind (postStore_accesses who _ _ _ _ _) fun _ => countForward_accesses who _)

theorem storeBytes_accesses (who : Who) (va : DWord) (bs : List Byte) (path : Path) : Accesses (storeBytes who va bs path) :=
  .forM_ fun (_, _) => .bind (translate_accesses who _ true) fun _ => writePhys_accesses who _ _ _ _ path

theorem State.sendAll_access (s : State) (post : List Fwd) : OnlyAccess s (s.sendAll post) := by
  unfold State.sendAll
  extract_lets out
  split
  · rfl
  refine .foldl (fun s r => ?_) post s
  have counted : OnlyAccess s (match r.leaf with
      | some l => s.newId.2.countFwd r.core r.launch l
      | none => s.newId.2) := by
    cases r.leaf with
    | none => rfl
    | some l => exact OnlyAccess.trans (t := s.newId.2) rfl (State.countFwd_access _ _ _ _)
  refine counted.trans ?_
  dsimp only [State.newId]
  by_cases hd : r.dead = true
  · rw [if_pos hd]; rfl
  · rw [if_neg hd]; rfl

end Sys2Proof.Machine
end

section
/-! What a step does: time passes and leaves the agenda as it was, then the plan of that state is carried out. -/

namespace Sys2Proof.Machine

/-! ### Time and the agenda -/

theorem State.layRecord_agenda (s : State) (p : Nat × Item) : (s.layRecord p).agenda = s.agenda := by
  unfold State.layRecord
  split
  · rfl
  split
  · rfl
  extract_lets placed
  split
  · next t h => exact (storeBytes_accesses _ _ _ _ s _ t h).agenda
  · exact (s.sendAll_access _).agenda
  · rfl

theorem State.laySump_agenda (s : State) : s.laySump.agenda = s.agenda := by
  unfold State.laySump
  exact foldl_keeps State.layRecord_agenda _ s

theorem State.trimFrom_agenda (s : State) (ls : List L2Line) : (s.trimFrom ls).agenda = s.agenda := by
  induction ls generalizing s with
  | nil => rfl
  | cons l ls ih =>
    unfold State.trimFrom
    split
    · exact ih _
    · exact ih s

theorem State.tick_keeps_agenda (s : State) : s.tick.agenda = s.agenda := by
  rw [State.tick_agenda, State.laySump_agenda]
  unfold State.trim
  split
  · rfl
  · exact s.trimFrom_agenda _

/-! ### From the bytes at the PC to the plan -/

theorem Object.fetch_of_decode {o : Object} {pc : Nat} {i : Instr} {rest : List Byte} (hpc : pc % 2 = 0)
    (hd : decode ((o.code.drop pc).take 12) = .ok (i, rest)) : o.fetch pc = (i, length i) := by
  unfold Object.fetch
  rw [if_neg (by simp [hpc]), hd]
  cases i <;> rfl

/-- A ready wave begins with the instruction that the bytes at its first fibre's PC decode to (12 R235, R236). -/
theorem State.begin_of_decode {s : State} {w : Nat} {wv : Wave} {f : Fibre} {fs : List Fibre} {o : Object} {i : Instr} {rest : List Byte}
    (hw : s.wave? w = some wv) (hr : s.ready wv = true) (hf : s.waveFibres wv = f :: fs) (ho : s.object? f.obj = some o)
    (hpc : f.pc.toNat % 2 = 0) (hd : decode ((o.code.drop f.pc.toNat).take 12) = .ok (i, rest)) :
    s.begin w = some (i, { s with cur := some w, ilen := length i }) := by
  have hfetch : s.fetch wv = (i, length i) := by
    unfold State.fetch
    rw [hf, List.head?_cons]
    dsimp only
    rw [ho]
    exact Object.fetch_of_decode hpc hd
  unfold State.begin
  rw [hw]
  dsimp only
  rw [hr, hf, hfetch]
  rfl

theorem State.planIssue_of_begin {s t : State} {w : Nat} {wv : Wave} {i : Instr} (hw : s.wave? w = some wv) (hb : s.begin w = some (i, t)) :
    s.planIssue w = if s.staysWaiting wv then .event i { t with turn := t.turn + 1 }
      else if (s.choiceAt (s.quadOf wv)).map Wave.id == some w then .issue w i t else .quiet s := by
  unfold State.planIssue
  rw [hw, hb]

/-! ### The step -/

theorem step_of_urgent {s : State} {h : Happening} (hu : s.tick.urgent.find? s.tick.happens = some h) :
    step s = exec h.1 (s.tick.withEvent h.2) := by
  unfold step State.plan
  rw [hu]
  rfl

/-- With nothing urgent, the step carries out the head of the agenda. -/
theorem step_of_next {s : State} (hu : s.tick.urgent.find? s.tick.happens = none) : step s = s.tick.planNext.carryOut := by
  unfold step State.plan
  rw [hu]

theorem step_of_event {s : State} {i : Instr} {a : EventArgs} {ms : List Move} (hu : s.tick.urgent.find? s.tick.happens = none)
    (ha : s.agenda = .event i a :: ms) : step s = exec i ({ s.tick with agenda := ms }.withEvent a) := by
  rw [step_of_next hu]
  unfold State.planNext
  rw [s.tick_keeps_agenda, ha]
  rfl

theorem step_of_issue {s : State} {w : Nat} {ms : List Move} (hu : s.tick.urgent.find? s.tick.happens = none)
    (ha : s.agenda = .issue w :: ms) : step s = (({ s.tick with agenda := ms } : State).planIssue w).carryOut := by
  rw [step_of_next hu]
  unfold State.planNext
  rw [s.tick_keeps_agenda, ha]

/-- Settles O1: what is urgent decides the plan first, else the head of the agenda, which time has left as it was; an issue begins with the
instruction that is fetched, and the plan carries it out, tries it or leaves it. -/
theorem stepRunsDecoded : Obligations.StepRunsDecoded := by
  unfold Obligations.StepRunsDecoded
  refine ⟨fun s h hu => step_of_urgent hu, ?issue, fun s i a ms hu ha => step_of_event hu ha⟩
  case issue =>
    intro s w ms wv f fs o i rest u t hu ha hw hf ho hpc hd hr
    have hplan := State.planIssue_of_begin hw (State.begin_of_decode hw hr hf ho hpc hd)
    rw [step_of_issue hu ha, hplan]
    refine ⟨fun hs hc => ?_, fun hs hc => ?_, fun hs => ?_⟩
    · rw [if_neg (by simp [hs]), if_pos (by simp [hc])]
      rfl
    · rw [if_neg (by simp [hs]), if_neg (by simpa using hc)]
      rfl
    · rw [if_pos hs]
      rfl

end Sys2Proof.Machine
end

section
/-! Look-ups after updates, and placement: queues that have nothing to place, a visit of a pass, a gang that takes a position, its start. -/

namespace Sys2Proof.Machine

/-! ### Look-ups after an update -/

theorem updAt_getElem? {α : Type} (l : List α) (i : Nat) (f : α → α) (k : Nat) :
    (updAt l i f)[k]? = if k = i then l[k]?.map f else l[k]? := by
  induction l generalizing i k with
  | nil => simp [updAt]
  | cons x xs ih => cases i <;> cases k <;> simp [updAt, ih]

theorem State.queue_setQueue {s : State} {q k : Nat} {f : Queue → Queue} : (s.setQueue q f).queue k
    = if k = q then ((s.queues[k]?).map f).getD {} else s.queue k := by
  simp only [State.queue, State.setQueue_queues, List.getD_eq_getElem?_getD, updAt_getElem?]
  split <;> rfl

theorem State.deficit_setQueue_zero (s : State) (q : Nat) : ((s.setQueue q (fun u => { u with deficit := 0 })).queue q).deficit = 0 := by
  rw [State.queue_setQueue, if_pos rfl]
  cases s.queues[q]? <;> rfl

theorem State.launch?_id {s : State} {i : Nat} {l : Launch} (h : s.launch? i = some l) : l.id = i := by
  simpa using List.find?_some h

theorem State.objOf_eq {s : State} {i : Nat} {l : Launch} {o : Object} (hl : s.launch? i = some l) (ho : s.object? l.obj = some o) :
    s.objOf i = some o := by
  rw [State.objOf, hl, Option.bind_some, ho]

theorem State.gang?_key {s : State} {l i : Nat} {g : Gang} (h : s.gang? l i = some g) : g.launch = l ∧ g.id = i := by
  have := List.find?_some h
  simpa using this

/-- The gang of a name that is set is the one that is found by that name. -/
theorem State.gang?_setGang {s : State} {g h : Gang} (e : (s.setGang g).gang? g.launch g.id = some h) : h = g := by
  have hm := List.mem_of_find?_eq_some e
  obtain ⟨x, -, hx⟩ := List.mem_map.mp hm
  obtain ⟨hl, hi⟩ := State.gang?_key e
  split at hx
  · exact hx.symm
  · next hn => subst hx; simp [hl, hi] at hn

theorem State.gang?_setGang_some {s : State} {g h : Gang} (e : s.gang? g.launch g.id = some h) :
    (s.setGang g).gang? g.launch g.id = some g := by
  have hs : ((s.setGang g).gang? g.launch g.id).isSome := by
    refine List.find?_isSome.mpr ⟨g, List.mem_map.mpr ⟨h, List.mem_of_find?_eq_some e, ?_⟩, by simp⟩
    obtain ⟨hl, hi⟩ := State.gang?_key e
    simp [hl, hi]
  obtain ⟨k, hk⟩ := Option.isSome_iff_exists.mp hs
  rw [hk, State.gang?_setGang hk]

/-! ### Queues without a gang to place (02 R48) -/

theorem State.clearDeficit_same (s : State) (q : Nat) :
    s.clearDeficit q = { s with queues := (s.clearDeficit q).queues, teams := (s.clearDeficit q).teams } := by
  unfold State.clearDeficit
  split <;> rfl

theorem State.clearDeficits_same (s : State) (qs : List Nat) : qs.foldl State.clearDeficit s
    = { s with queues := (qs.foldl State.clearDeficit s).queues, teams := (qs.foldl State.clearDeficit s).teams } := by
  induction qs generalizing s with
  | nil => rfl
  | cons q qs ih =>
    rw [List.foldl_cons, ih, s.clearDeficit_same q]

/-- What becomes of queues that are left changes queues, teams and pointers only. -/
theorem State.idleQueues_same (s : State) :
    s.idleQueues = { s with queues := s.idleQueues.queues, teams := s.idleQueues.teams, pointers := s.idleQueues.pointers } := by
  unfold State.idleQueues
  generalize List.range 64 = qs
  have h := s.clearDeficits_same qs
  generalize qs.foldl State.clearDeficit s = t at h ⊢
  rw [h]
  rfl

@[simp] theorem State.idleQueues_gangs (s : State) : s.idleQueues.gangs = s.gangs := by rw [s.idleQueues_same]
@[simp] theorem State.idleQueues_fibres (s : State) : s.idleQueues.fibres = s.fibres := by rw [s.idleQueues_same]
@[simp] theorem State.idleQueues_launches (s : State) : s.idleQueues.launches = s.launches := by rw [s.idleQueues_same]
@[simp] theorem State.idleQueues_mem (s : State) : s.idleQueues.mem = s.mem := by rw [s.idleQueues_same]

@[simp] theorem State.clearDeficit_holdsGang (s : State) (q k : Nat) : (s.clearDeficit q).holdsGang k = s.holdsGang k := by
  rw [s.clearDeficit_same]
  rfl

@[simp] theorem State.idleQueues_queueOf (s : State) (l : Nat) : s.idleQueues.queueOf l = s.queueOf l := by
  unfold State.queueOf State.launch?
  rw [State.idleQueues_launches]

/-- A queue that owes nothing: it has no deficit, and no team of it in flight will be charged. -/
def State.owesNone (s : State) (q : Nat) : Prop :=
  (s.queue q).deficit = 0 ∧ ∀ t ∈ s.teams, t.core < coreCount → s.queueOf t.launch = q → t.waived = true

/-- A queue without a gang to place owes nothing once it has been looked at, and whatever is looked at later leaves it so. -/
theorem State.clearDeficit_owesNone {s : State} {q : Nat} (h : s.holdsGang q = false) : (s.clearDeficit q).owesNone q := by
  unfold State.clearDeficit
  rw [if_neg (by simp [h])]
  constructor
  · exact s.deficit_setQueue_zero q
  · intro t ht hc hl
    obtain ⟨u, -, rfl⟩ := List.mem_map.mp ht
    split
    · rfl
    · next hn =>
      rw [if_neg hn] at hc hl
      exact absurd (by simpa using ⟨hc, hl⟩) hn

theorem State.owesNone_clearDeficit {s : State} {q : Nat} (h : s.owesNone q) (k : Nat) : (s.clearDeficit k).owesNone q := by
  obtain ⟨hd, hw⟩ := h
  unfold State.clearDeficit
  split
  · exact ⟨hd, hw⟩
  constructor
  · by_cases hk : q = k
    · subst hk
      exact s.deficit_setQueue_zero q
    · exact (congrArg Queue.deficit (State.queue_setQueue.trans (if_neg hk))).trans hd
  · intro t ht hc hl
    obtain ⟨u, hu, rfl⟩ := List.mem_map.mp ht
    split
    · rfl
    · next hn =>
      rw [if_neg hn] at hc hl
      exact hw u hu hc hl

theorem State.clearDeficits_owesNone {s : State} {q : Nat} {qs : List Nat} (hq : q ∈ qs) (h : s.holdsGang q = false) :
    (qs.foldl State.clearDeficit s).owesNone q := by
  refine foldl_establishes (P := fun t : State => t.holdsGang q = false → t.owesNone q) hq (fun t ht => ?set) (fun t k hk ht => ?keep) s ?same
  case set => exact State.clearDeficit_owesNone (by rwa [State.clearDeficit_holdsGang] at ht)
  case keep => exact State.owesNone_clearDeficit (hk (by rwa [State.clearDeficit_holdsGang] at ht)) k
  case same => exact (foldl_keeps (p := fun t : State => t.holdsGang q) (fun t k => t.clearDeficit_holdsGang k q) qs s).trans h

theorem State.idleQueues_owesNone {s : State} {q : Nat} (hq : q < 64) (h : s.holdsGang q = false) : s.idleQueues.owesNone q := by
  have hcleared := State.clearDeficits_owesNone (List.mem_range.mpr hq) h
  unfold State.idleQueues
  generalize (List.range 64).foldl State.clearDeficit s = t at hcleared ⊢
  exact hcleared

/-! ### A placement pass (02 R46, R49) -/

theorem State.lonelyVeins_nil {s : State} {l : Launch} (h : l.sump = []) : s.lonelyVeins l = [] := by
  simp [State.lonelyVeins, h]

/-- Where nothing has spilled, no item crew is placed to pull. -/
theorem State.placePullers_empty {s : State} (h : ∀ l ∈ s.launches, l.sump = []) (choice : Nat) : s.placePullers choice = s := by
  refine List.foldlRecOn (motive := fun t => t = s) s.launches _ rfl fun t ht l hl => ?_
  subst ht
  split
  · rw [State.lonelyVeins_nil (h l hl)]
    exact ite_self _
  · rfl

theorem State.placementPass_result {s t : State} (hv : s.movePointers.visits 2097216 0 s.ev.choice = t) (h : ∀ l ∈ t.launches, l.sump = []) :
    ∃ u, exec .placementPass s = .next u ∧ u.gangs = t.gangs ∧ u.teams = t.idleQueues.teams ∧ u.fibres = t.fibres ∧ u.mem = t.mem := by
  have he : exec .placementPass s = .next
      (if t.idleQueues.gangs == s.gangs && t.idleQueues.itemCrews == s.itemCrews then t.idleQueues else t.idleQueues.wake) := by
    show execPlacementPass s = _
    unfold execPlacementPass
    rw [hv, State.placePullers_empty h]
  refine ⟨_, he, ?_⟩
  split <;> simp

theorem mem_of_firstFrom {qs : List Nat} {p q : Nat} (h : firstFrom qs p = some q) : q ∈ qs := by
  unfold firstFrom at h
  split at h
  · next k hk => cases h; exact List.mem_of_find?_eq_some hk
  · exact List.mem_of_head? h

/-- No queue of a class is replenished while one of it has a positive deficit. -/
theorem State.replenish_positive {s : State} {qs : List Nat} {q : Nat} (hq : q ∈ qs) (hd : 0 < (s.queue q).deficit) : s.replenish qs = s := by
  unfold State.replenish
  rw [if_pos (List.any_eq_true.mpr ⟨q, hq, by simpa using hd⟩)]

/-- A visit of a queue with a positive deficit whose gang finds a position. -/
theorem State.visits_placed {s t : State} {q c idle choice rest : Nat} (n : Nat) (hc : s.topClass = some c)
    (hq : firstFrom (s.readyOf c) (s.pointers.getD c 0) = some q) (hd : 0 < (s.queue q).deficit) (hi : idle < (s.readyOf c).length)
    (hp : ({ s with pointers := updAt s.pointers c (fun _ => (q + 1) % 64) } : State).placeOne q choice = some (t, rest)) :
    s.visits (n + 1) idle choice = (t.clearDeficit q).visits n 0 rest := by
  rw [State.visits, hc]
  dsimp only
  rw [if_neg (Nat.not_le.mpr hi), State.replenish_positive (mem_of_firstFrom hq) hd, hq]
  dsimp only
  rw [if_pos hd, hp]

/-! ### A gang takes a position (01 R12, R28, R34; 02 R50) -/

/-- t differs from s only in what taking a position changes: teams and item crews. -/
def OnlySeats (s t : State) : Prop := t = { s with teams := t.teams, itemCrews := t.itemCrews }

theorem OnlySeats.trans {s t u : State} (h : OnlySeats s t) (k : OnlySeats t u) : OnlySeats s u := by
  unfold OnlySeats at *
  rw [k, h]

theorem State.seatItems_seats (s : State) (l : Launch) (o : Object) (core : Nat) (pull : Option Nat) :
    OnlySeats s (s.seatItems l o core pull) :=
  List.foldlRecOn (motive := OnlySeats s) _ _ rfl fun _ ht _ _ => ht.trans rfl

theorem State.putTeam_seats (s : State) (t : Team) : OnlySeats s (s.putTeam t) := by
  unfold State.putTeam
  split <;> rfl

theorem State.seat_seats {s u : State} {l : Launch} {o : Object} {t : Team} {core : Nat} (h : s.seat l o t core = some u) : OnlySeats s u := by
  unfold State.seat at h
  extract_lets items win n at h
  split at h
  · cases h
  split at h
  · cases h
  · extract_lets crews s' at h
    cases h
    have hs : OnlySeats s s' := s.putTeam_seats _
    split
    · exact hs.trans (s'.seatItems_seats _ _ _ _)
    · exact hs

theorem State.seatTeams_seats {l : Launch} {o : Object} {ts : List (Team × Nat)} {s u : State} (h : s.seatTeams l o ts = some u) :
    OnlySeats s u := by
  induction ts generalizing s with
  | nil => cases h; rfl
  | cons p ps ih =>
    obtain ⟨v, hv, hu⟩ := Option.bind_eq_some_iff.mp h
    exact (State.seat_seats hv).trans (ih hu)

theorem State.seatGang_seats {s u : State} {l : Launch} {o : Object} {gang : Nat} {ts : List Team} {cores : List Nat} (hf : l.fuse = false)
    (h : s.seatGang l o gang ts cores = some u) : OnlySeats s u := by
  unfold State.seatGang at h
  split at h
  · cases h
  · next t ht =>
    rw [if_neg (by simp [hf])] at h
    cases h
    exact State.seatTeams_seats ht

theorem mem_of_pick {α : Type} {l : List α} {n m : Nat} {x : α} (h : pick l n = some (x, m)) : x ∈ l := by
  obtain ⟨y, hy, he⟩ := Option.map_eq_some_iff.mp h
  cases he
  exact List.mem_of_getElem? hy

theorem State.seatAny_seats {s u : State} {l : Launch} {o : Object} {gang choice rest : Nat} {ts : List Team} (hf : l.fuse = false)
    (h : s.seatAny l o gang ts choice = some (u, rest)) : OnlySeats s u := by
  obtain ⟨p, -, hp⟩ := List.mem_filterMap.mp (mem_of_pick h)
  exact State.seatGang_seats hf hp

theorem State.childWaves_same (s : State) (crew : CrewId) (is : List Nat) :
    s.childWaves crew is = { s with waves := (s.childWaves crew is).waves, nextId := (s.childWaves crew is).nextId } := by
  refine List.foldlRecOn (motive := fun t : State => t = { s with waves := t.waves, nextId := t.nextId }) _ _ rfl fun t ht h _ => ?_
  rw [ht]
  rfl

/-- The fibres of a crew as it starts (01 R12, R14). -/
def crewFibres (l : Launch) (o : Object) (crew : CrewId) : List Fibre := (List.range o.fibres).map (fun i => freshFibre crew i 0 l.obj o.wpro 0)

theorem State.startCrew_same (s : State) (l : Launch) (o : Object) (crew : CrewId) : s.startCrew l o crew
    = { s with fibres := s.fibres ++ crewFibres l o crew, waves := (s.startCrew l o crew).waves, nextId := (s.startCrew l o crew).nextId } := by
  unfold State.startCrew
  rw [State.childWaves_same]
  rfl

theorem State.startCrews_same (s : State) (l : Launch) (o : Object) (crews : List CrewId) :
    ∃ ws n, crews.foldl (fun s c => s.startCrew l o c) s
      = { s with fibres := s.fibres ++ crews.flatMap (crewFibres l o), waves := ws, nextId := n } := by
  induction crews generalizing s with
  | nil => exact ⟨s.waves, s.nextId, by simp⟩
  | cons c cs ih =>
    obtain ⟨ws, n, h⟩ := ih (s.startCrew l o c)
    refine ⟨ws, n, ?_⟩
    rw [List.foldl_cons, h, s.startCrew_same]
    simp

/-- A new gang of a launch that is not fused: every slot of its crews has its fibre at the entry, and the gang is the last one. -/
theorem State.placeGang_placed {s t : State} {l : Launch} {o : Object} {gang choice rest : Nat} (hf : l.fuse = false)
    (h : s.placeGang l o gang choice = some (t, rest)) :
    t.fibres = s.fibres ++ (gangIds l gang).flatMap (fun id => (List.range o.crews).flatMap (fun k => crewFibres l o (.team l.id id k))) ∧
    (∃ n, t.gangs = s.gangs ++ [{ launch := l.id, id := gang, state := .placed, stamp := n }]) ∧ t.mem = s.mem := by
  unfold State.placeGang at h
  split at h
  · cases h
  · next u choice' hu =>
    have hs : OnlySeats s u := State.seatAny_seats hf hu
    obtain ⟨ws, n, hc⟩ := State.startCrews_same u.newId.2 l o
      ((gangIds l gang).flatMap (fun t => (List.range o.crews).map (fun k => CrewId.team l.id t k)))
    dsimp only [State.newId] at h hc
    rw [hc] at h
    cases h
    have hfibres : u.fibres = s.fibres := by rw [hs]
    have hgangs : u.gangs = s.gangs := by rw [hs]
    have hmem : u.mem = s.mem := by rw [hs]
    refine ⟨?fibres, ⟨u.nextId, congrArg (· ++ _) hgangs⟩, hmem⟩
    case fibres =>
      show u.fibres ++ _ = _
      rw [hfibres, List.flatMap_assoc]
      simp only [List.flatMap_map]

theorem newTeam_allotment (l : Launch) (o : Object) (id : Nat) :
    (newTeam l o id).window = o.wpro ∧ (newTeam l o id).spSize = 4096 ∧ (newTeam l o id).acq = .none ∧ (newTeam l o id).wdog = l.wdog ∧
    (∀ x ∈ (newTeam l o id).tiles, x.allot = false) ∧ (∀ k, k < 32 → ((newTeam l o id).handle k).allot = decide (k < 2)) := by
  refine ⟨rfl, rfl, rfl, rfl, fun x hx => ?_, fun k hk => ?_⟩
  · rw [List.eq_of_mem_replicate hx]
  · simp [Team.handle, newTeam, hk]

/-! ### The start edge (01 R35; 04 R119) -/

/-- A core's L1 holds no clean byte. -/
def State.onlyDirty (s : State) (core : Nat) : Prop := ∀ x ∈ (s.core core).l1, x.valid = x.dirty

theorem keepDirty_valid {ls : List L1Line} {x : L1Line} (h : x ∈ keepDirty ls) : x.valid = x.dirty := by
  obtain ⟨l, -, rfl⟩ := List.mem_map.mp h
  rfl

theorem State.invalidateCore_l1 (s : State) (c k : Nat) :
    ((s.invalidateCore c).core k).l1 = if k = c then keepDirty (s.core k).l1 else (s.core k).l1 := by
  simp only [State.invalidateCore, State.core, State.setCore_cores, List.getD_eq_getElem?_getD, updAt_getElem?]
  split
  · cases s.cores[k]? <;> rfl
  · rfl

theorem State.invalidateCore_onlyDirty (s : State) (c : Nat) : (s.invalidateCore c).onlyDirty c := fun x hx => by
  rw [s.invalidateCore_l1, if_pos rfl] at hx
  exact keepDirty_valid hx

theorem State.onlyDirty_invalidateCore {s : State} {k : Nat} (h : s.onlyDirty k) (c : Nat) : (s.invalidateCore c).onlyDirty k := fun x hx => by
  rw [s.invalidateCore_l1] at hx
  split at hx
  · exact keepDirty_valid hx
  · exact h x hx

theorem State.invalidateCores_onlyDirty {s : State} {cs : List Nat} {k : Nat} (hk : k ∈ cs) : (cs.foldl State.invalidateCore s).onlyDirty k :=
  foldl_establishes (P := fun t : State => t.onlyDirty k) hk (fun t => t.invalidateCore_onlyDirty k)
    (fun _ c ht => State.onlyDirty_invalidateCore ht c) s

theorem State.invalidateCores_same (s : State) (cs : List Nat) :
    cs.foldl State.invalidateCore s = { s with cores := (cs.foldl State.invalidateCore s).cores } :=
  List.foldlRecOn (motive := fun t : State => t = { s with cores := t.cores }) cs _ rfl fun t ht c _ => by
    rw [ht]; rfl

/-- A gang that starts: its cores' L1s have given up their clean bytes, and nothing has been written. -/
theorem State.startGang_started {s : State} {g : Gang} (hg : s.gang? g.launch g.id = some g) :
    (s.startGang g).gang? g.launch g.id = some { g with state := .started } ∧ (s.startGang g).mem = s.mem ∧
      (s.startGang g).fibres = s.fibres ∧
      ∀ u ∈ s.gangTeams g.launch g.id, ∀ k ∈ s.l1Cores u.core, (s.startGang g).onlyDirty k := by
  unfold State.startGang
  extract_lets cores
  have hsame := s.invalidateCores_same cores
  have hdirty : ∀ k ∈ cores, (cores.foldl State.invalidateCore s).onlyDirty k := fun k hk => State.invalidateCores_onlyDirty hk
  generalize cores.foldl State.invalidateCore s = t at hsame hdirty ⊢
  have hgang : t.gang? g.launch g.id = some g := by rw [hsame]; exact hg
  refine ⟨State.gang?_setGang_some (g := { g with state := .started }) hgang, by rw [hsame]; rfl, by rw [hsame]; rfl,
    fun u hu k hk => hdirty k ?_⟩
  exact List.mem_eraseDups.mpr (List.mem_flatMap.mpr ⟨u.core, List.mem_map_of_mem hu, hk⟩)

theorem execGangStartEdge_started {s : State} {g : Gang} {l : Launch} {o : Object} (hg : s.gang? s.ev.launch s.ev.gang = some g)
    (hp : g.state = .placed) (hl : s.launch? g.launch = some l) (ho : s.object? l.obj = some o) (ha : o.aflush = true → l.nextGang = l.gangs) :
    ∃ t, exec .gangStartEdge s = .next t ∧ t.gang? g.launch g.id = some { g with state := .started } ∧ t.mem = s.mem ∧
      t.fibres = s.fibres ∧ ∀ u ∈ s.gangTeams g.launch g.id, ∀ k ∈ s.l1Cores u.core, ∀ x ∈ (t.core k).l1, x.valid = x.dirty := by
  have hm : s.mayStart g = true := by
    simp only [State.mayStart, hp, hl, State.objOf_eq hl ho]
    cases h : o.aflush
    · rfl
    · simp [ha h]
  obtain ⟨hgl, hgi⟩ := State.gang?_key hg
  refine ⟨(s.startGang g).wake, ?_, State.startGang_started (by rw [hgl, hgi, hg])⟩
  show execGangStartEdge s = _
  unfold execGangStartEdge
  rw [hg]
  dsimp only
  rw [if_pos hm]

end Sys2Proof.Machine
end

section
/-! Pre-emption and restoration: which gang gives way, what its save leaves, what its image holds and brings back. -/

namespace Sys2Proof.Machine

/-! ### The gang that is pre-empted (02 R49) -/

theorem mem_insertBy {α : Type} {key : α → Nat} {x y : α} {l : List α} : y ∈ insertBy key x l ↔ y = x ∨ y ∈ l := by
  induction l with
  | nil => exact List.mem_cons
  | cons z zs ih =>
    rw [insertBy]
    split
    · exact List.mem_cons
    · rw [List.mem_cons, List.mem_cons, ih]
      exact or_left_comm

theorem mem_sortBy {α : Type} {key : α → Nat} {l : List α} {x : α} : x ∈ sortBy key l ↔ x ∈ l := by
  induction l with
  | nil => exact Iff.rfl
  | cons y ys ih =>
    have hcons : sortBy key (y :: ys) = insertBy key y (sortBy key ys) := rfl
    rw [hcons, mem_insertBy, ih, List.mem_cons]

theorem pairwise_insertBy {α : Type} {key : α → Nat} (x : α) {l : List α} (h : l.Pairwise (fun y z => key y ≤ key z)) :
    (insertBy key x l).Pairwise (fun y z => key y ≤ key z) := by
  induction l with
  | nil => exact List.pairwise_singleton _ x
  | cons y ys ih =>
    obtain ⟨hy, hys⟩ := List.pairwise_cons.mp h
    rw [insertBy]
    split
    · next hle =>
      refine List.pairwise_cons.mpr ⟨fun z hz => ?_, h⟩
      rcases List.mem_cons.mp hz with rfl | hz
      · exact hle
      · exact Nat.le_trans hle (hy z hz)
    · next hlt =>
      refine List.pairwise_cons.mpr ⟨fun z hz => ?_, ih hys⟩
      rcases mem_insertBy.mp hz with rfl | hz
      · exact Nat.le_of_lt (Nat.lt_of_not_le hlt)
      · exact hy z hz

theorem pairwise_sortBy {α : Type} (key : α → Nat) (l : List α) : (sortBy key l).Pairwise (fun x y => key x ≤ key y) := by
  induction l with
  | nil => exact .nil
  | cons x xs ih => exact pairwise_insertBy x ih

theorem apply_of_mem_sortBy_filter {α : Type} {key f : α → Nat} {l : List α} {x : α} {k : Nat}
    (h : x ∈ sortBy key (l.filter (fun y => f y == k))) :
    f x = k :=
  eq_of_beq (List.mem_filter.mp (mem_sortBy.mp h)).2

/-- The class of a gang's queue. -/
def State.clsOf (s : State) (g : Gang) : Nat := (s.queue (s.queueOf g.launch)).cls.toNat

theorem State.mem_victims {s : State} {c : Nat} {g : Gang} : g ∈ s.victims c ↔
    g ∈ s.gangs ∧ (g.state = .placed ∨ g.state = .started) ∧ g.leaving = none ∧ s.clsOf g < c := by
  have hmay : ((g.state == .placed || g.state == .started) && g.leaving.isNone && decide (s.clsOf g < c)) = true
      ↔ (g.state = .placed ∨ g.state = .started) ∧ g.leaving = none ∧ s.clsOf g < c := by
    rw [Bool.and_eq_true, Bool.and_eq_true, Bool.or_eq_true, beq_iff_eq, beq_iff_eq, Option.isNone_iff_eq_none, decide_eq_true_iff, and_assoc]
  constructor
  · intro h
    obtain ⟨k, -, hk⟩ := List.mem_flatMap.mp h
    obtain ⟨hg, hm⟩ := List.mem_filter.mp (List.mem_filter.mp (mem_sortBy.mp (List.mem_reverse.mp hk))).1
    exact ⟨hg, hmay.mp hm⟩
  · rintro ⟨hg, hm⟩
    have h4 : s.clsOf g < 4 := (s.queue (s.queueOf g.launch)).cls.isLt
    refine List.mem_flatMap.mpr ⟨s.clsOf g, List.mem_range.mpr h4, List.mem_reverse.mpr (mem_sortBy.mpr ?_)⟩
    exact List.mem_filter.mpr ⟨List.mem_filter.mpr ⟨hg, hmay.mpr hm⟩, beq_self_eq_true _⟩

/-- Victims come in the order of their classes, and in one class the latest placed first. -/
theorem State.victims_ordered (s : State) (c : Nat) :
    (s.victims c).Pairwise (fun g h => s.clsOf g < s.clsOf h ∨ (s.clsOf g = s.clsOf h ∧ h.stamp ≤ g.stamp)) := by
  refine List.pairwise_flatMap.mpr ⟨fun k _ => ?within, List.pairwise_lt_range.imp fun {k k'} hk g hg h hh => ?across⟩
  case within =>
    rw [List.pairwise_reverse]
    refine List.Pairwise.imp_of_mem (fun {g h} hg hh hle => ?_) (pairwise_sortBy _ _)
    have hg' : s.clsOf g = k := apply_of_mem_sortBy_filter hg
    have hh' : s.clsOf h = k := apply_of_mem_sortBy_filter hh
    exact .inr ⟨hh'.trans hg'.symm, hle⟩
  case across =>
    have hg' : s.clsOf g = k := apply_of_mem_sortBy_filter (List.mem_reverse.mp hg)
    have hh' : s.clsOf h = k' := apply_of_mem_sortBy_filter (List.mem_reverse.mp hh)
    exact .inl (by omega)

theorem State.nextVictim_head {s : State} {g : Gang} (h : s.nextVictim = some g) : ∃ c, s.topClass = some c ∧ (s.victims c).head? = some g := by
  unfold State.nextVictim at h
  split at h
  · cases h
  · next c hc =>
    dsimp only at h
    split at h
    · exact ⟨c, hc, h⟩
    · cases h

/-- The first of the victims is of the lowest class and there the latest placed, since all of them come in that order. -/
theorem State.nextVictim_lowest {s : State} {g : Gang} (h : s.nextVictim = some g) :
    ∃ c, s.topClass = some c ∧ s.clsOf g < c ∧ g ∈ s.gangs ∧
      ∀ h ∈ s.gangs, h.state = .placed ∨ h.state = .started → h.leaving = none → s.clsOf h < c →
        s.clsOf g < s.clsOf h ∨ (s.clsOf g = s.clsOf h ∧ h.stamp ≤ g.stamp) := by
  obtain ⟨c, hc, hh⟩ := State.nextVictim_head h
  obtain ⟨hg, -, -, hcls⟩ := State.mem_victims.mp (List.mem_of_head? hh)
  refine ⟨c, hc, hcls, hg, fun k hk hs hl hkc => ?_⟩
  have hm : k ∈ s.victims c := State.mem_victims.mpr ⟨hk, hs, hl, hkc⟩
  obtain ⟨rest, hr⟩ := List.head?_eq_some_iff.mp hh
  have hp := s.victims_ordered c
  rw [hr] at hm hp
  rcases List.mem_cons.mp hm with rfl | hm
  · exact .inr ⟨rfl, Nat.le_refl _⟩
  · exact (List.pairwise_cons.mp hp).1 k hm

/-! ### A gang leaves its image (02 R63; 28 R484) -/

/-- What comes about in an attempt is the next state, but for the part's own answers and the waves that may try again. -/
theorem State.attemptFor_ok {α : Type} {s t : State} {g : Gang} {x : M α} {a : α} (h : x.run s = .ok (a, t)) :
    s.attemptFor g x = t.dropAnswers.wake := by
  have hx : (do let _ ← x : M Unit).run s = .ok ((), t) := by
    rw [bind_ok h]
    rfl
  unfold State.attemptFor
  rw [h]
  dsimp only
  unfold State.attempt
  rw [hx]

theorem State.gang?_congr {s t : State} (h : t.gangs = s.gangs) (l i : Nat) : t.gang? l i = s.gang? l i := by
  rw [State.gang?, h, State.gang?]

/-- A gang that is to leave without saving leaves. -/
theorem State.retireGang_leaving {s : State} {l i : Nat} {c : Cause} {h : Gang} (e : (s.retireGang l i c).gang? l i = some h) :
    h.leaving.isSome = true := by
  unfold State.retireGang at e
  extract_lets mine gone s1 s2 at e
  split at e
  · next g hg =>
    obtain ⟨rfl, rfl⟩ := State.gang?_key hg
    rw [State.gang?_setGang (g := { g with leaving := some (g.leaving.getD c) }) e]
    rfl
  · next hg => rw [hg] at e; cases e

/-- A save that comes about leaves the gang pre-empted, or with its double trap to leave (28 R480, R486). -/
theorem saveGang_outcome {l : Launch} {o : Object} {g : Gang} {s t : State} {e : Option Cause} (hl : l.id = g.launch)
    (h : (saveGang l o g false).run s = .ok (e, t)) :
    ∀ k, t.gang? l.id g.id = some k → (e = none ∧ k.state = .preempted) ∨ k.leaving.isSome = true := by
  intro k hk
  unfold saveGang at h
  obtain ⟨-, s1, -, h⟩ := exists_of_bind_ok h
  obtain ⟨-, s2, -, h⟩ := exists_of_bind_ok h
  rw [bind_get] at h
  extract_lets save at h
  obtain ⟨x, s3, -, h⟩ := exists_of_bind_ok h
  cases x with
  | none =>
    cases h
    have hset := (State.gang?_congr (State.idleQueues_gangs _) _ _).symm.trans hk
    rw [hl] at hset
    exact .inl ⟨rfl, by rw [State.gang?_setGang hset]; rfl⟩
  | some c =>
    cases h
    exact .inr (State.retireGang_leaving hk)

theorem State.preempt_saved {s t : State} {l : Launch} {o : Object} {g : Gang} {e : Option Cause} (hl : s.launch? g.launch = some l)
    (ho : s.object? l.obj = some o) (hs : (s.settle l.id g.id).settled l.id g.id = true)
    (hr : (saveGang l o g false).run (s.settle l.id g.id) = .ok (e, t)) : s.preempt g false = t.dropAnswers.wake := by
  unfold State.preempt
  rw [hl, State.objOf_eq hl ho]
  dsimp only
  rw [if_pos hs, State.attemptFor_ok hr]

theorem execGangPreempt_victim {s : State} {g : Gang} (hv : s.nextVictim = some g) (hl : g.launch = s.ev.launch) (hi : g.id = s.ev.gang) :
    exec .gangPreempt s = .next (s.preempt g false) := by
  show execGangPreempt s = _
  unfold execGangPreempt
  rw [hv]
  dsimp only
  rw [if_pos (by simp [hl, hi])]

/-! ### Restoration (02 R63; 28 R485, R486) -/

theorem restoreGang_ok {s t : State} {l : Launch} {o : Object} {g : Gang} {b : List Byte}
    (hr : (loadBytes (s.whoSaver g) (imageAt l o g.id) o.gangBytes .engine).run s = .ok (b, t)) (hc : checkImage o l.gang b = true) :
    (restoreGang l o g).run s = .ok ((), t.resume l o g b) := by
  unfold restoreGang
  rw [bind_get, hr]
  dsimp only
  rw [if_pos hc]
  rfl

theorem restoreGang_bad {s t u : State} {l : Launch} {o : Object} {g : Gang} {b : List Byte} (hl : l.id = g.launch)
    (hr : (loadBytes (s.whoSaver g) (imageAt l o g.id) o.gangBytes .engine).run s = .ok (b, t)) (hc : ¬ checkImage o l.gang b = true)
    (hu : (leaveL1 l.id g.id).run t = .ok ((), u)) : (restoreGang l o g).run s = .ok ((), u.unseat g) := by
  unfold restoreGang
  rw [bind_get, hr]
  dsimp only
  rw [if_neg hc]
  have hg : (giveUp g).run t = .ok ((), u.unseat g) := by
    unfold giveUp
    rw [← hl, bind_ok hu]
    rfl
  exact hg

theorem execGangRestore_attempts {s : State} {g : Gang} {l : Launch} {o : Object} (hg : s.gang? s.ev.launch s.ev.gang = some g)
    (hl : s.launch? s.ev.launch = some l) (ho : s.object? l.obj = some o) (hs : g.state = .restoring) (hn : g.leaving = none) :
    exec .gangRestore s = .next (s.attemptFor g (restoreGang l o g)) := by
  show execGangRestore s = _
  unfold execGangRestore
  rw [hg, hl, State.objOf_eq hl ho]
  dsimp only
  rw [if_pos (by simp [hs, hn])]

/-! ### The fault ring through a restoration -/

@[simp] theorem State.leaveMeets_ring (s : State) (i : FibreId) : (s.leaveMeets i).ring = s.ring := rfl
@[simp] theorem State.freeTx_ring (s : State) (i : FibreId) : (s.freeTx i).ring = s.ring := rfl
@[simp] theorem State.orphan_ring (s : State) (f : Fibre) : (s.orphan f).ring = s.ring := rfl
@[simp] theorem State.sweepItems_ring (s : State) (core : Nat) : (s.sweepItems core).ring = s.ring := rfl
@[simp] theorem State.freeCrews_ring (s : State) : s.freeCrews.ring = s.ring := rfl

@[simp] theorem State.endFibre_ring (s : State) (f : Fibre) : (s.endFibre f).ring = s.ring := by
  unfold State.endFibre
  cases f.id.crew <;> simp

theorem State.regroup_ring (s : State) (w : Wave) (whole : Word) (fs : List Fibre) (b : Bool) : (s.regroup w whole fs b).ring = s.ring := by
  rw [(s.regroup_same w whole fs b).1]

theorem State.formWaves_ring (s : State) (crew : CrewId) (home : Nat) (meet : Word) (staged : Option (Nat × List Nat)) (fs : List Fibre) :
    (s.formWaves crew home meet staged fs).ring = s.ring := by
  unfold State.formWaves
  rw [(s.addParts_same _ _).1]

theorem State.restoreFibres_ring (s : State) (o : Object) (obj : Nat) (t : Team) (b : List Byte) : (s.restoreFibres o obj t b).ring = s.ring := by
  unfold State.restoreFibres
  extract_lets s1 mine s2 slots s3 stand moved
  have h1 : s1.ring = s.ring := foldl_keeps State.endFibre_ring _ s
  have h2 : s2.ring = s1.ring := s1.setFibres_ring _
  have h3 : s3.ring = s2.ring := by
    refine foldl_keeps (p := State.ring) (fun u i => ?_) _ s2
    exact State.formWaves_ring _ _ _ _ _ _
  exact (foldl_keeps (fun u w => u.regroup_ring _ _ _ _) _ s3).trans (h3.trans (h2.trans h1))

theorem State.catchUp_ring (s : State) (core : Nat) : (s.catchUp core).ring = s.ring := by
  unfold State.catchUp
  split <;> rfl

theorem State.goBack_ring (s : State) (g : Gang) (x : Shadow) : (s.goBack g x).ring = s.ring := rfl

theorem State.tryKept_none {s : State} (h : s.ring.kept = []) : s.tryKept = s := by
  rw [State.tryKept, h, State.actKept]

/-- With no kept answer to act on, a gang that resumes is started. -/
theorem State.resume_started {s : State} {l : Launch} {o : Object} {g h : Gang} {b : List Byte} (hk : s.ring.kept = [])
    (e : (s.resume l o g b).gang? g.launch g.id = some h) : h.state = .started := by
  unfold State.resume at e
  extract_lets s1 s2 at e
  have h1 : s1.ring = s.ring := by
    unfold s1
    split
    · split
      · rfl
      · exact s.goBack_ring g _
    · rfl
  have h2 : s2.ring = s1.ring := by
    refine foldl_keeps (p := State.ring) (fun u p => ?_) _ _
    obtain ⟨id, k⟩ := p
    dsimp -zeta only
    split
    · extract_lets image fields team caught restored
      have hc : caught.ring = u.ring := by
        unfold caught
        split
        · rfl
        · exact State.catchUp_ring _ _
      have hr : restored.ring = caught.ring := State.restoreFibres_ring _ _ _ _ _
      split
      · exact hr.trans hc
      · exact hr.trans hc
    · rfl
  rw [State.tryKept_none (by rw [State.setGang_ring, h2, h1, hk])] at e
  rw [State.gang?_setGang (g := { g with state := .started, walking := none }) e]

theorem State.unseat_preempted {u : State} {g h : Gang} (e : (u.unseat g).gang? g.launch g.id = some h) :
    h.state = .preempted ∧ h.stamp = g.was := by
  unfold State.unseat at e
  rw [State.gang?_setGang (g := { g with state := .preempted, stamp := g.was, walking := none }) e]
  exact ⟨rfl, rfl⟩

/-! ### The laid-out fields of a fibre's record (28 R485) -/

/-- Words as the bytes of an image. -/
def wordBytes (ws : List Word) : List Byte := ws.flatMap (fun w => leBytes 4 w.toNat)

theorem laidWords_bytes (ws : List Word) : (laidWords ws).map ImageByte.byte = wordBytes ws := by
  simp [laidWords, wordBytes, laid, List.map_flatMap, Function.comp_def, ImageByte.byte]

theorem field_eq_leNat (b : List Byte) (k n : Nat) : field b k n = leNat ((b.drop k).take n) := by
  unfold field
  generalize (b.drop k).take n = l
  induction l with
  | nil => rfl
  | cons x xs ih => rw [List.foldr_cons, ih, leNat]

/-- The k-th word of bytes that begin with words. -/
theorem field_wordBytes (ws : List Word) (rest : List Byte) (k : Nat) (hk : k < ws.length) :
    field (wordBytes ws ++ rest) (4 * k) 4 = ws[k].toNat := by
  induction ws generalizing k with
  | nil => cases hk
  | cons w ws ih =>
    have hcons : wordBytes (w :: ws) ++ rest = leBytes 4 w.toNat ++ (wordBytes ws ++ rest) := by
      rw [← List.append_assoc]
      rfl
    rw [hcons, field_eq_leNat]
    cases k with
    | zero =>
      rw [Nat.mul_zero, List.drop_zero, List.take_left' (leBytes_length 4 _), leNat_leBytes]
      exact Nat.mod_eq_of_lt w.isLt
    | succ k =>
      rw [List.drop_append, leBytes_length, List.drop_eq_nil_of_le (by rw [leBytes_length]; omega), List.nil_append,
        show 4 * (k + 1) - 4 = 4 * k by omega, ← field_eq_leNat]
      exact ih k (Nat.lt_of_succ_lt_succ hk)

theorem DWord.ofWords_lo_hi (d : DWord) : DWord.ofWords d.lo d.hi = d := by
  unfold DWord.ofWords DWord.lo DWord.hi
  rw [BitVec.extractLsb'_append_extractLsb'_eq_extractLsb' (show 32 = 0 + 32 from rfl)]
  exact BitVec.extractLsb'_eq_self

/-- The words with which a live fibre's record begins. -/
def Fibre.recordWords (f : Fibre) : List Word :=
  [f.pc, f.fpmode, f.fpstat, f.txstat, f.srSeed.lo, f.srSeed.hi, f.srCtr, BitVec.ofNat 32 (1 + 2 * f.inTrap.isSome.toNat),
   f.trap.addr.lo, f.trap.addr.hi, f.trap.info0, f.trap.info1, f.trap.pc,
   BitVec.ofNat 32 (f.trap.cause.toNat + 2 ^ 9 * f.trap.kind.toNat + 2 ^ 12 * f.trap.lane.toNat)]

theorem fibreImage_begins (o : Object) (save off : Nat) (f : Fibre) :
    ∃ rest, (fibreImage o save off (some f)).map ImageByte.byte = wordBytes f.recordWords ++ rest := by
  simp only [fibreImage, List.map_append, laidWords_bytes, List.append_assoc]
  rw [← List.append_assoc, show wordBytes f.recordWords = _ from List.flatMap_append (xs := f.recordWords.take 8) (ys := f.recordWords.drop 8)]
  exact ⟨_, rfl⟩

/-- What a live fibre's record holds is what its fibre takes up again. -/
theorem Fibre.ofImage_fibreImage (o : Object) (save off : Nat) (f : Fibre) :
    let b := (fibreImage o save off (some f)).map ImageByte.byte
    let g := f.ofImage b
    recordLive b = true ∧ g.pc = f.pc ∧ g.fpmode = f.fpmode &&& 0x1F ∧ g.fpstat = f.fpstat &&& 0xFF ∧ g.srCtr = f.srCtr ∧
    g.trap.pc = f.trap.pc ∧ g.trap.addr = f.trap.addr ∧ g.trap.info0 = f.trap.info0 ∧ g.inTrap = f.inTrap ∧ g.obj = f.obj := by
  obtain ⟨rest, hb⟩ := fibreImage_begins o save off f
  intro b g
  have word (k : Nat) (hk : k < 14) : BitVec.ofNat 32 (field b (4 * k) 4) = f.recordWords[k] := by
    rw [show b = _ from hb, field_wordBytes f.recordWords rest k hk, BitVec.ofNat_toNat, BitVec.setWidth_eq]
  have flags : field b 28 4 = 1 + 2 * f.inTrap.isSome.toNat := by
    rw [show b = _ from hb, field_wordBytes f.recordWords rest 7 (show 7 < 14 by decide)]
    show (BitVec.ofNat 32 (1 + 2 * f.inTrap.isSome.toNat)).toNat = _
    cases f.inTrap <;> rfl
  have live : recordLive b = true := by
    unfold recordLive
    rw [flags]
    generalize f.inTrap.isSome = x
    cases x <;> decide
  have inTrap : recordInTrap b = f.inTrap.isSome := by
    unfold recordInTrap
    rw [flags]
    generalize f.inTrap.isSome = x
    cases x <;> decide
  refine ⟨live, word 0 (by decide), congrArg (· &&& 0x1F) (word 1 (by decide)), congrArg (· &&& 0xFF) (word 2 (by decide)), word 6 (by decide),
    word 12 (by decide), ?addr, word 10 (by decide), ?trap, ?obj⟩
  case addr =>
    show DWord.ofWords (BitVec.ofNat 32 (field b (4 * 8) 4)) (BitVec.ofNat 32 (field b (4 * 9) 4)) = _
    rw [word 8 (by decide), word 9 (by decide)]
    exact DWord.ofWords_lo_hi _
  case trap =>
    show (if !recordInTrap b then none else some (f.inTrap.getD _)) = f.inTrap
    rw [inTrap]
    cases f.inTrap <;> rfl
  case obj =>
    show (match f.inTrap with | some t => if recordInTrap b then f.obj else t.obj | none => f.obj) = f.obj
    rw [inTrap]
    cases f.inTrap <;> rfl

/-! ### The statement -/

/-- Settles O54: the ten parts are the lemmas above on the pass, idle queues, a visit, a new gang, its teams, the start edge, the save, the
victim, the restoration and the record of a fibre. -/
theorem placementEvents : Obligations.PlacementEvents := by
  unfold Obligations.PlacementEvents
  refine ⟨fun s t hv h => State.placementPass_result hv h, ?idle,
    fun s t q c n idle choice rest hc hq hd hi hp => State.visits_placed n hc hq hd hi hp,
    fun s t l o gang choice rest hf h => State.placeGang_placed hf h, fun l o id => newTeam_allotment l o id,
    fun s g l o hg hp hl ho ha => execGangStartEdge_started hg hp hl ho ha, ?preempted, fun s g h => State.nextVictim_lowest h, ?restored,
    fun o save off f => Fibre.ofImage_fibreImage o save off f⟩
  case idle =>
    intro s q hq h
    obtain ⟨hdeficit, hwaived⟩ := State.idleQueues_owesNone hq h
    exact ⟨hdeficit, fun t ht hc hl => hwaived t ht hc (by rw [State.idleQueues_queueOf, hl])⟩
  case preempted =>
    intro s t g l o e hv hgl hgi hl ho hs hr
    have hid : l.id = g.launch := State.launch?_id hl
    refine ⟨?_, saveGang_outcome hid hr⟩
    rw [execGangPreempt_victim hv hgl hgi, State.preempt_saved hl ho hs hr]
  case restored =>
    intro s t g l o b hg hl ho hs hn hr
    have hid : l.id = g.launch := (State.launch?_id hl).trans (State.gang?_key hg).1.symm
    refine ⟨?_, fun hk h e => State.resume_started hk e, fun u h e => State.unseat_preempted e⟩
    rw [execGangRestore_attempts hg hl ho hs hn]
    split
    · next hc => rw [State.attemptFor_ok (restoreGang_ok hr hc)]
    · next hc => exact fun u hu => by rw [State.attemptFor_ok (restoreGang_bad hid hr hc hu)]

end Sys2Proof.Machine
end

section
/-! Forwarded accesses: what the device does as the owner of the memory they reach, and what their answers and refusals come to at their
issuer. -/

namespace Sys2Proof.Machine

/-! ### A line that has been filled can still be used at its home slice -/

/-- A fill changes the lines of the L2 and what the host holds. -/
theorem MemSys.l2Fill_same (m : MemSys) (line : Nat) : (m.l2Fill line).2
    = { m with l2 := (m.l2Fill line).2.l2, hostLines := (m.l2Fill line).2.hostLines, recalls := (m.l2Fill line).2.recalls } := by
  have hr : m.recall line = { m with hostLines := (m.recall line).hostLines, recalls := (m.recall line).recalls } := by
    unfold MemSys.recall
    split <;> rfl
  unfold MemSys.l2Fill
  generalize m.recall line = x at hr
  dsimp only
  split
  · rw [hr]
  · rw [hr]

theorem AtHome.l2Fill {s : State} {i : FibreId} {line : Nat} (h : AtHome s i line) (k : Nat) : AtHome (s.withMem (s.mem.l2Fill k).2) i line := by
  unfold State.withMem AtHome
  rw [s.mem.l2Fill_same k]
  exact h

/-! ### The device as an owner (03 R93; 31 R510; 32 R514) -/

section
variable {s : State} {who : Who} {a : PeerAccess}

/-- An access to a raw line of device memory, within the line, at whose home slice nothing stands in its way. -/
abbrev RawPeer (s : State) (who : Who) (a : PeerAccess) : Prop :=
  a.pa < 2 ^ 52 ∧ a.pa % 64 + a.bytes ≤ 64 ∧ AtHome s who.fibre (a.pa / 64)

/-- What is read for it: the line at its home slice, filled if need be. -/
abbrev peerOld (s : State) (a : PeerAccess) (n : Nat) : Nat := lineBytes (s.mem.l2Fill (a.pa / 64)).1.data (a.pa % 64) n

theorem RawPeer.lineNo (h : RawPeer s who a) : Machine.lineNo a.pa (decide (a.pa ≥ 2 ^ 52)) = a.pa / 64 := by
  rw [decide_eq_false (Nat.not_le.mpr h.1)]
  rfl

theorem RawPeer.taken (h : RawPeer s who a) (b : Bool) :
    ((decide (a.pa ≥ 2 ^ 52) && b) || decide (a.pa % 64 + a.bytes > 64)) = false := by
  obtain ⟨hpa, hk, -⟩ := h
  rw [decide_eq_false (Nat.not_le.mpr hpa), decide_eq_false (Nat.not_lt.mpr hk)]
  rfl

theorem peerPerform_read (h : RawPeer s who a) (ho : a.op = .read) :
    (peerPerform who a).run s = .ok (.data (BitVec.ofNat 512 (peerOld s a a.bytes)), s.withMem (s.mem.l2Fill (a.pa / 64)).2) := by
  unfold peerPerform
  rw [bind_get]
  simp only [h.taken, h.lineNo, ho, Nat.mod_eq_of_lt h.1, Bool.false_eq_true, if_false]
  exact bind_ok (l2Read_home h.2.2)

theorem peerPerform_write {mask : BitVec 64} {v : BitVec 512} (h : RawPeer s who a) (ho : a.op = .write mask v) :
    (peerPerform who a).run s
      = .ok (.ack, s.withMem (s.mem.l2Write (a.pa / 64) (mask <<< (a.pa % 64)) (v <<< (8 * (a.pa % 64))))) := by
  unfold peerPerform
  rw [bind_get]
  simp only [h.taken, h.lineNo, ho, Nat.mod_eq_of_lt h.1, Bool.false_eq_true, if_false]
  exact bind_ok (l2Store_home h.2.2)

theorem peerPerform_int {op : BitVec 3} {ty : BitVec 2} {v : DWord} (h : RawPeer s who a) (ho : a.op = .intAtomic op ty v) :
    let e := EntryOp.int op.toNat ty.toNat v
    (peerPerform who a).run s = .ok (.data (BitVec.ofNat 512 (peerOld s a e.bytes)), s.withMem (match e.new (peerOld s a e.bytes) with
      | some w => (s.mem.l2Fill (a.pa / 64)).2.l2Write (a.pa / 64) (byteMask (a.pa % 64) e.bytes) (lineOf (a.pa % 64) e.bytes w)
      | none => (s.mem.l2Fill (a.pa / 64)).2)) := by
  intro e
  unfold peerPerform
  rw [bind_get]
  simp only [h.taken, h.lineNo, ho, Nat.mod_eq_of_lt h.1, Bool.false_eq_true, if_false, peerOp]
  rw [bind_ok (l2Read_home h.2.2)]
  exact bind_ok (l2Store_home (h.2.2.l2Fill _))

end

/-- A device that is not frozen for peers answers an access inside its memory with what comes of performing it. -/
theorem State.peerAnswer_inside {s t : State} {a : PeerAccess} {r : Reply} (hf : s.isFrozen 2 = false) (hd : inDevice (a.pa % 2 ^ 52) a.bytes = true)
    (h : (peerPerform (coreWho s 0 0) a).run s = .ok (r, t)) : s.peerAnswer a = some (r, t) := by
  unfold State.peerAnswer
  rw [hf, hd, h]
  rfl

theorem State.peerAnswer_outside {s : State} {a : PeerAccess} (hf : s.isFrozen 2 = false) (hd : inDevice (a.pa % 2 ^ 52) a.bytes = false) :
    s.peerAnswer a = some (.frozen, s.freeze 2 a.pa) := by
  unfold State.peerAnswer
  rw [hf, hd]
  rfl

/-- A violation by a master that is not frozen freezes it, unless it is the last one (32 R514). -/
theorem State.isFrozen_freeze_peers {s : State} (addr : Nat) (hf : s.isFrozen 2 = false) (hl : s.service.frozen ||| 4#4 ≠ BitVec.allOnes 4) :
    (s.freeze 2 addr).isFrozen 2 = true ∧ (s.freeze 2 addr).mem = s.mem ∧ (s.freeze 2 addr).sent = s.sent
      ∧ (s.freeze 2 addr).fabric = s.fabric := by
  have hn : (s.isFrozen 2 || s.service.frozen ||| BitVec.ofNat 4 (2 ^ 2) == BitVec.allOnes 4) = false := by
    rw [hf, Bool.false_or]
    exact beq_eq_false_iff_ne.mpr hl
  unfold State.freeze
  rw [hn]
  refine ⟨?_, rfl, rfl, rfl⟩
  show (s.service.frozen ||| 4#4).getLsbD 2 = true
  simp

theorem execForwardedAccessReceive_answered {s t : State} {r : Reply} (hl : s.fabric.linked = true)
    (ha : s.accepts s.ev.access.source s.ev.access.inc = true) (h : s.peerAnswer s.ev.access = some (r, t)) :
    exec .forwardedAccessReceive s = .next (t.send (.reply s.ev.access.source r)).wake := by
  show execForwardedAccessReceive s = _
  unfold execForwardedAccessReceive
  dsimp only
  rw [if_neg (by simp [hl]), if_neg (by simp [ha]), h]

theorem execForwardedAccessReceive_stale {s : State} (hl : s.fabric.linked = true)
    (ha : s.accepts s.ev.access.source s.ev.access.inc = false) : exec .forwardedAccessReceive s = .next s.dropMessage := by
  show execForwardedAccessReceive s = _
  unfold execForwardedAccessReceive
  dsimp only
  rw [if_neg (by simp [hl]), if_pos (by simp [ha])]

theorem State.dropMessage_eq (s : State) : s.dropMessage
    = { s with fabric := { s.fabric with dropInc := if s.fabric.dropInc = 0xFFFFFFFF then 0xFFFFFFFF else s.fabric.dropInc + 1 } } := by
  unfold State.dropMessage
  by_cases h : s.fabric.dropInc = 0xFFFFFFFF
  · simp [h]
  · have hb : (s.fabric.dropInc == 0xFFFFFFFF) = false := beq_eq_false_iff_ne.mpr h
    dsimp only
    rw [hb, if_neg h, if_neg Bool.false_ne_true]

/-- A reply leaves at once while a port is up and GO has been given. -/
theorem State.send_reply_sent {s : State} (hl : s.fabric.linked = true) (hg : s.fabric.go = true) (to_ : Nat) (r : Reply) :
    (s.send (.reply to_ r)).sent = .reply to_ r :: s.sent := by
  have hm : (Msg.reply to_ r).onFabric = some true := rfl
  have ht : s.fabric.takes (.reply to_ r) = true := by
    unfold Fabric.takes
    rw [hm, hl, hg]
    rfl
  rw [State.send_sent, ht, if_pos rfl]

/-! ### The device as an issuer (03 R94; 04 R127) -/

/-- Nothing is released for a fibre whose first held release waits. -/
theorem State.releaseHeldFrom_waits {s : State} {i : FibreId} {f : Fibre} (hf : s.fibre? i = some f)
    (hw : ∀ h, f.held.head? = some h → s.lateWaits h = true) (n : Nat) : s.releaseHeldFrom i n = s := by
  cases n with
  | zero => rfl
  | succ n =>
    unfold State.releaseHeldFrom
    rw [hf]
    dsimp only
    cases hh : f.held with
    | nil => rfl
    | cons h hs =>
      dsimp only
      rw [hw h (by rw [hh]; rfl), if_pos rfl]

theorem State.releaseHeld_waits {s : State} {i : FibreId} (hw : ∀ f, s.fibre? i = some f → ∀ h, f.held.head? = some h → s.lateWaits h = true) :
    s.releaseHeld i = s := by
  unfold State.releaseHeld
  cases hf : s.fibre? i with
  | none => rfl
  | some f => exact State.releaseHeldFrom_waits hf (hw f hf) _

theorem State.releaseLeft_empty {s : State} (h : s.left = []) : s.releaseLeft = s := by
  unfold State.releaseLeft
  rw [h, State.releaseLeftFrom]

/-- A release waits while a forwarded store that it stands behind is out. -/
theorem State.lateWaits_of_out {s : State} {h : LateStore} {q : Fwd} (hq : q ∈ s.fwds) (hp : q.posted = true) (hb : q.id ∈ h.behind) :
    s.lateWaits h = true := by
  have ho : s.isOut q.id = true := List.any_eq_true.mpr ⟨q, hq, by simp [hp]⟩
  unfold State.lateWaits
  rw [List.any_eq_true.mpr ⟨_, hb, ho⟩, Bool.true_or]

section
variable {s : State} {r : Fwd}

/-- An answer reaches the access that it is for: it is known, not answered yet, and its owner is live in the incarnation recorded. -/
theorem execForwardedResponse_answered (hl : s.fabric.linked = true) (hr : s.fwds.find? (fun r => r.id == s.ev.req) = some r)
    (ha : s.accepts r.dev s.ev.word = true) (hn : r.reply = none) (hd : r.dead = false) :
    exec .forwardedResponse s = .next (s.answer r s.ev.reply) := by
  show execForwardedResponse s = _
  unfold execForwardedResponse
  rw [if_neg (by simp [hl]), hr]
  dsimp only
  rw [if_neg (by simp [ha]), if_neg (by simp [hn, hd])]

theorem State.answer_load (x : Reply) (hp : r.posted = false) (hc : r.acc = none) : s.answer r x
    = (({ s with fwds := s.fwds.map (fun q => if q.id == r.id then { q with reply := some x } else q) } : State).ackFlit r.id).wake := by
  unfold State.answer
  rw [hp, hc]
  rfl

theorem State.answer_ack (hp : r.posted = true) : s.answer r .ack = ((s.dropFwd r.id).releaseHeld r.fibre).releaseLeft.wake := by
  unfold State.answer
  rw [hp]
  rfl

/-- A refusal of a store is its refusal's cause. -/
theorem execRemoteStoreRefusal_refused (hl : s.fabric.linked = true) (hr : s.fwds.find? (fun r => r.id == s.ev.req) = some r)
    (ha : s.accepts r.dev s.ev.word = true) (hp : r.posted = true) (hd : r.dead = false)
    (hx : s.ev.reply = .nak ∨ s.ev.reply = .frozen ∨ s.ev.reply = .uncorr) :
    exec .remoteStoreRefusal s = .next (s.refuseStore r (refusalCause s.ev.reply)).releaseLeft.wake := by
  show execRemoteStoreRefusal s = _
  unfold execRemoteStoreRefusal
  rw [hr]
  dsimp only
  rw [if_neg (by simp [hp]), if_neg (by simp [hd]), if_neg (by simp [hl]), if_neg (by simp [ha])]
  rcases hx with h | h | h <;> rw [h]

/-- The delayed fault that a refused store leaves its fibre (04 R127). -/
abbrev Fibre.refusal (f : Fibre) (r : Fwd) (c : Cause) : Due :=
  { cause := c, kind := 2, addr := r.va, info0 := r.pc, info1 := f.releasePc r.id }

/-- A fibre whose store has been refused: the releases behind it are cancelled with its fault. -/
abbrev Fibre.refused (f : Fibre) (r : Fwd) (c : Cause) : Fibre :=
  { f with held := f.held.filter (fun h => !h.behind.contains r.id)
           dues := f.dues ++ [(f.refusal r c, .stores r.stored (f.held.filter (fun h => h.behind.contains r.id)))] }

/-- A refused store is out no more, and neither are the releases behind it that ended fibres left. -/
def State.forgetStore (s : State) (id : Nat) : State :=
  { s.dropFwd id with left := (s.dropFwd id).left.filter (fun x => !x.rel.behind.contains id) }

@[simp] theorem State.forgetStore_mem (s : State) (id : Nat) : (s.forgetStore id).mem = s.mem := rfl
@[simp] theorem State.forgetStore_fwds (s : State) (id : Nat) : (s.forgetStore id).fwds = s.fwds.filter (fun q => q.id != id) := rfl
@[simp] theorem State.forgetStore_left (s : State) (id : Nat) :
    (s.forgetStore id).left = s.left.filter (fun x => !x.rel.behind.contains id) := rfl

@[simp] theorem State.rouse_mem (s : State) (i : FibreId) : (s.rouse i).mem = s.mem := rfl
@[simp] theorem State.rouse_fwds (s : State) (i : FibreId) : (s.rouse i).fwds = s.fwds := rfl
@[simp] theorem State.rouse_left (s : State) (i : FibreId) : (s.rouse i).left = s.left := rfl

theorem State.refuseStore_fibre {f : Fibre} (c : Cause) (ha : r.assay = false) (hf : s.fibre? r.fibre = some f) :
    s.refuseStore r c = (((s.forgetStore r.id).setFibre (f.refused r c)).rouse f.id).releaseHeld f.id := by
  unfold State.refuseStore
  extract_lets t u
  have hu : u.fibre? r.fibre = some f := hf
  rw [if_neg (by simp [ha]), hu]
  rfl

/-- Where the first release that is kept waits for another store, a refusal is all that comes about. -/
theorem State.refuseStore_kept {f : Fibre} (c : Cause) (ha : r.assay = false) (hf : s.fibre? r.fibre = some f)
    (hk : ∀ h, (f.refused r c).held.head? = some h → ∃ k ∈ h.behind, ∃ q ∈ s.fwds, q.posted = true ∧ q.id = k ∧ q.id ≠ r.id) :
    s.refuseStore r c = ((s.forgetStore r.id).setFibre (f.refused r c)).rouse f.id := by
  have hid : f.id = r.fibre := State.fibre?_id hf
  rw [State.refuseStore_fibre c ha hf]
  refine State.releaseHeld_waits fun g hg h hh => ?_
  have hset : ((s.forgetStore r.id).setFibre (f.refused r c)).fibre? r.fibre = some g := hid ▸ hg
  have hsame : (s.forgetStore r.id).fibre? r.fibre = some f := hf
  rw [State.fibre?_setFibre, hsame, Option.map_some, if_pos (by simp)] at hset
  cases hset
  obtain ⟨k, hkb, q, hq, hp, rfl, hne⟩ := hk h hh
  exact State.lateWaits_of_out (q := q) (List.mem_filter.mpr ⟨hq, by simpa using hne⟩) hp hkb

end

/-! ### The first release behind a refused store -/

/-- The earlier of a release and the earliest before it: the step of `firstLate`. -/
def earlierLate (b : Option LateStore) (h : LateStore) : Option LateStore :=
  match b with
  | none => some h
  | some g => if h.id < g.id then some h else some g

theorem firstLate_foldl (l : List LateStore) : firstLate l = l.foldl earlierLate none := rfl

/-- A release that no other precedes: each is it, or has a later name. -/
abbrev FirstOf (h : LateStore) (l : List LateStore) : Prop := ∀ g ∈ l, g = h ∨ h.id < g.id

theorem earlierLate_first {h x : LateStore} {b : Option LateStore} (hx : x = h ∨ h.id < x.id) (hb : FirstOf h b.toList) :
    FirstOf h (earlierLate b x).toList ∧ (x = h ∨ b = some h → earlierLate b x = some h) := by
  cases b with
  | none => simpa [FirstOf, earlierLate] using hx
  | some g =>
    have hg : g = h ∨ h.id < g.id := by simpa [FirstOf] using hb
    unfold earlierLate
    dsimp only
    split
    · next hlt =>
      refine ⟨by simpa [FirstOf] using hx, ?_⟩
      rintro (rfl | hh)
      · rfl
      · cases hh
        rcases hx with rfl | hx
        · rfl
        · omega
    · next hge =>
      refine ⟨by simpa [FirstOf] using hg, ?_⟩
      rintro (rfl | hh)
      · rcases hg with rfl | hg
        · rfl
        · omega
      · exact hh

/-- Of releases whose names rise from one of them on, that one is the first. -/
theorem firstLate_eq {l : List LateStore} {h : LateStore} (hm : h ∈ l) (hmin : FirstOf h l) : firstLate l = some h := by
  rw [firstLate_foldl]
  suffices hgo : ∀ (l : List LateStore) (b : Option LateStore), FirstOf h l → FirstOf h b.toList → (h ∈ l ∨ b = some h) →
      l.foldl earlierLate b = some h from hgo l none hmin (fun g hg => nomatch hg) (.inl hm)
  intro l
  induction l with
  | nil => exact fun b _ _ hh => hh.resolve_left List.not_mem_nil
  | cons x xs ih =>
    intro b hl hb hh
    obtain ⟨hx, hxs⟩ := List.forall_mem_cons.mp hl
    obtain ⟨hkeep, hset⟩ := earlierLate_first hx hb
    refine ih _ hxs hkeep ?_
    rcases hh with hh | hh
    · rcases List.mem_cons.mp hh with rfl | hh
      · exact .inr (hset (.inl rfl))
      · exact .inl hh
    · exact .inr (hset (.inr hh))

theorem Fibre.releasePc_none {f : Fibre} {id : Nat} (h : ∀ r ∈ f.late, id ∉ r.behind) : f.releasePc id = 0 := by
  have hn : f.late.filter (fun r => r.behind.contains id) = [] := List.filter_eq_nil_iff.mpr fun r hr => by simpa using h r hr
  unfold Fibre.releasePc
  rw [hn]
  rfl

theorem Fibre.releasePc_first {f : Fibre} {id : Nat} {h : LateStore} (hm : h ∈ f.late) (hb : id ∈ h.behind)
    (hmin : ∀ g ∈ f.late, g = h ∨ h.id < g.id ∨ id ∉ g.behind) : f.releasePc id = h.pc := by
  have hf : firstLate (f.late.filter (fun r => r.behind.contains id)) = some h := by
    refine firstLate_eq (List.mem_filter.mpr ⟨hm, by simpa using hb⟩) fun g hg => ?_
    obtain ⟨hg, hgb⟩ := List.mem_filter.mp hg
    have hgb : id ∈ g.behind := by simpa using hgb
    rcases hmin g hg with h1 | h1 | h1
    · exact .inl h1
    · exact .inr h1
    · exact absurd hgb h1
  unfold Fibre.releasePc
  rw [hf]
  rfl

/-! ### The statement -/

/-- Settles O52: a peer's access comes to `peerPerform` at the home slice; an answer or a refusal takes the access off the list, and where
the first release that is left waits, nothing more comes about. -/
theorem forwardedAccesses : Obligations.ForwardedAccesses := by
  unfold Obligations.ForwardedAccesses
  refine ⟨?owner, ?outside, fun s hl ha => ?stale, ?load, ?acked, ?refused, fun f id h => Fibre.releasePc_none h,
    fun f id h hm hb hmin => Fibre.releasePc_first hm hb hmin⟩
  case owner =>
    rintro s _ hl rfl ha hf hd hpa hk hh m old
    have hraw : RawPeer s (coreWho s 0 0) s.ev.access := ⟨hpa, hk, hh⟩
    refine ⟨fun ho => ?_, fun mask v ho => ?_, fun op ty v ho => ?_⟩
    · exact execForwardedAccessReceive_answered hl ha (State.peerAnswer_inside hf hd (peerPerform_read hraw ho))
    · exact execForwardedAccessReceive_answered hl ha (State.peerAnswer_inside hf hd (peerPerform_write hraw ho))
    · exact execForwardedAccessReceive_answered hl ha (State.peerAnswer_inside hf hd (peerPerform_int hraw ho))
  case outside =>
    intro s hl hg ha hf hlast hd
    obtain ⟨hfrozen, hmem, hsent, hfab⟩ := State.isFrozen_freeze_peers s.ev.access.pa hf hlast
    refine ⟨_, execForwardedAccessReceive_answered hl ha (State.peerAnswer_outside hf hd), hmem, hfrozen, ?_⟩
    rw [← hsent]
    exact State.send_reply_sent (by rw [hfab]; exact hl) (by rw [hfab]; exact hg) _ _
  case stale =>
    rw [execForwardedAccessReceive_stale hl ha]
    exact congrArg Host.Outcome.next s.dropMessage_eq
  case load =>
    intro s r hl hr ha hn hd hp hc
    exact ⟨_, execForwardedResponse_answered hl hr ha hn hd, by rw [State.answer_load _ hp hc]; exact ⟨rfl, rfl, rfl⟩⟩
  case acked =>
    intro s r hl hr ha hn hd hp hack hheld hleft
    have hsame : s.answer r s.ev.reply = (s.dropFwd r.id).wake := by
      rw [hack, State.answer_ack hp, State.releaseHeld_waits fun f hf h hh => ?_, State.releaseLeft_empty (s := s.dropFwd r.id) hleft]
      have hnil : f.held = [] := hheld f hf
      rw [hnil] at hh
      cases hh
    exact ⟨_, execForwardedResponse_answered hl hr ha hn hd, by rw [hsame]; exact ⟨rfl, rfl, rfl⟩⟩
  case refused =>
    intro s r f hl hr ha hp hd has hf hleft rel kept hk p hpm hx
    have hcause : refusalCause s.ev.reply = p.2 ∧ (s.ev.reply = .nak ∨ s.ev.reply = .frozen ∨ s.ev.reply = .uncorr) := by
      simp only [List.mem_cons, List.not_mem_nil, or_false] at hpm
      rw [hx]
      rcases hpm with rfl | rfl | rfl <;> simp [refusalCause]
    obtain ⟨hc, hkind⟩ := hcause
    have hfound : (s.forgetStore r.id).fibre? f.id = some f := State.fibre?_id hf ▸ hf
    have hset : (s.refuseStore r p.2).releaseLeft = ((s.forgetStore r.id).setFibre (f.refused r p.2)).rouse f.id := by
      rw [State.refuseStore_kept p.2 has hf hk]
      exact State.releaseLeft_empty (by simp [hleft])
    refine ⟨_, execRemoteStoreRefusal_refused hl hr ha hp hd hkind, ?_⟩
    rw [hc, hset]
    refine ⟨by simp, by simp, ?_⟩
    show ((s.forgetStore r.id).setFibre (f.refused r p.2)).fibre? f.id = _
    rw [State.fibre?_setFibre, hfound, Option.map_some, if_pos (by simp)]

end Sys2Proof.Machine
end

section
/-! ISECT and MERGE over one element of each stream: what is read, where the main loop ends, and the records that are delivered. -/

namespace Sys2Proof.Machine

/-! ### Work on streams, step by step (08 R190 to R194) -/

/-- Work on streams, run from what is read so far. -/
abbrev runSM {α : Type} (x : SM α) (w : Streams) (s : State) : Except Stop ((Except Cause α × Streams) × State) := ((x.run).run w).run s

section
variable {α β : Type} {s t : State} {w v : Streams} {o : EngOp} {second : Bool}

theorem runSM_bind {x : SM α} {f : α → SM β} {a : α} (h : runSM x w s = .ok ((.ok a, v), t)) : runSM (x >>= f) w s = runSM (f a) v t := by
  unfold runSM
  rw [ExceptT.run_bind, StateT.run_bind, bind_ok h]

theorem tryM_ok {x : M α} {a : α} (h : x.run s = .ok (a, t)) : (tryM x).run s = .ok (.ok a, t) := by
  unfold tryM
  rw [bind_get, h]
  rfl

/-- The stream that an element is read of. -/
def Streams.pick (w : Streams) (second : Bool) : Stream := if second then w.b else w.a

/-- What is read so far, after an element of one stream. -/
def Streams.note (w : Streams) (second : Bool) (k v : Nat) : Streams :=
  if second then { w with b := { w.b with read := (k, v) :: w.b.read }, late := true }
  else { w with a := { w.a with read := (k, v) :: w.a.read }, late := true }

/-- The first element that is looked at of a stream is read from memory. -/
theorem runSM_readElem_first {k x : Nat} (hr : (w.pick second).read = [])
    (hv : (engRead o ((w.pick second).base + BitVec.ofNat 64 (4 * k)) 4).run s = .ok (x, s)) :
    runSM (readElem o second k) w s = .ok ((.ok x, w.note second k x), s) := by
  have hget : runSM (get : StateT Streams M Streams) w s = .ok ((.ok w, w), s) := rfl
  have hread : runSM (ExceptT.mk (StateT.lift (tryM (engRead o ((w.pick second).base + BitVec.ofNat 64 (4 * k)) 4))) : SM Nat) w s
      = .ok ((.ok x, w), s) := by
    unfold runSM
    exact bind_ok (tryM_ok hv)
  unfold readElem
  rw [runSM_bind hget]
  cases second with
  | false =>
    simp only [Streams.pick, Bool.false_eq_true, if_false] at hr hread ⊢
    rw [hr]
    simp only [List.find?_nil]
    rw [runSM_bind hread]
    simp only [List.any_nil, Bool.false_eq_true, if_false]
    unfold Streams.note
    rw [hr]
    rfl
  | true =>
    simp only [Streams.pick, if_true] at hr hread ⊢
    rw [hr]
    simp only [List.find?_nil]
    rw [runSM_bind hread]
    simp only [List.any_nil, Bool.false_eq_true, if_false]
    unfold Streams.note
    rw [hr]
    rfl

theorem runSM_readElem_again {k x : Nat} (hr : (w.pick second).read.find? (fun p => p.1 == k) = some (k, x)) :
    runSM (readElem o second k) w s = .ok ((.ok x, { w with late := true }), s) := by
  have hget : runSM (get : StateT Streams M Streams) w s = .ok ((.ok w, w), s) := rfl
  unfold readElem
  rw [runSM_bind hget]
  unfold Streams.pick at hr
  dsimp only
  rw [hr]
  rfl

/-- A record as it is written: an absent index is all ones (08 R192). -/
def streamRecord (x : Nat) (i j : Option Nat) (tag : Nat) : List Byte :=
  leBytes 4 x ++ leBytes 4 (i.getD 0xFFFFFFFF) ++ leBytes 4 (j.getD 0xFFFFFFFF) ++ leBytes 4 tag

theorem runSM_emit (x : Nat) (i j : Option Nat) (tag : Nat) :
    runSM (emit x i j tag) w s = .ok ((.ok (), { w with out := w.out ++ streamRecord x i j tag, late := false }), s) := rfl

/-! ### One element of each stream -/

/-- Two streams of one element each, before anything of them is read, and after both elements have been. -/
def unread (o : EngOp) : Streams := { a := { base := o.a, n := 1 }, b := { base := o.b, n := 1 } }
def bothRead (o : EngOp) (x y : Nat) (out : List Byte) (late : Bool) : Streams :=
  { a := { base := o.a, n := 1, read := [(0, x)] }, b := { base := o.b, n := 1, read := [(0, y)] }, out := out, late := late }

variable {x y : Nat} {out : List Byte} {late : Bool}

theorem runSM_readElem_known : runSM (readElem o second 0) (bothRead o x y out late) s
    = .ok ((.ok (if second then y else x), bothRead o x y out true), s) := by
  rw [runSM_readElem_again (k := 0) (x := if second then y else x) (by cases second <;> rfl)]
  rfl

/-- The first probe of a Gallop over one element is its last: an element below the target leaves no line. -/
theorem runSM_gallopUp_none {q : Stream} {target : Nat} (hn : q.n = 1) (h : (if second then y else x) < target) (n lo d : Nat) :
    runSM (gallopUp o second q 0 target (n + 1) lo d) (bothRead o x y out late) s = .ok ((.ok none, bothRead o x y out true), s) := by
  have hlast (l : Nat) : q.last l = 0 := by
    unfold Stream.last
    rw [hn]
    exact Nat.zero_min _
  unfold gallopUp
  simp only [hn, hlast, Nat.sub_self]
  rw [runSM_bind runSM_readElem_known, if_neg (Nat.not_le.mpr h), if_pos (by simp)]
  rfl

/-- Gallop finds no element at or above a target above the only one. -/
theorem runSM_gallop_none {target : Nat} (h : (if second then y else x) < target) :
    runSM (gallop o second 0 target) (bothRead o x y out late) s = .ok ((.ok 1, bothRead o x y out true), s) := by
  have hget : runSM (get : StateT Streams M Streams) (bothRead o x y out late) s
      = .ok ((.ok (bothRead o x y out late), bothRead o x y out late), s) := rfl
  unfold gallop
  rw [runSM_bind hget]
  dsimp only
  rw [runSM_bind (runSM_gallopUp_none (by cases second <;> rfl) h _ _ _)]
  cases second <;> rfl

/-- Where the main loop of R192 ends, over one element of each stream. -/
def oneEnd (x y : Nat) : Nat × Nat := if x = y then (1, 1) else if x < y then (1, 0) else (0, 1)

/-- The record with which MERGE passes an element of one stream alone. -/
def aloneRecord (second : Bool) (v : Nat) : List Byte := if second then streamRecord v none (some 0) 2 else streamRecord v (some 0) none 1

/-- The records of the main loop, over one element of each stream. -/
def oneOut (merge : Bool) (x y : Nat) : List Byte :=
  if x = y then streamRecord x (some 0) (some 0) 3
  else if merge then (if x < y then aloneRecord false x else aloneRecord true y) else []

theorem runSM_mergeFrom_one (merge : Bool) (hx : (engRead o o.a 4).run s = .ok (x, s))
    (hy : (engRead o o.b 4).run s = .ok (y, s)) :
    runSM (mergeFrom o merge 1 1 3 0 0) (unread o) s
      = .ok ((.ok (oneEnd x y), bothRead o x y (oneOut merge x y) (!merge && !decide (x = y))), s) := by
  have ha : runSM (readElem o false 0) (unread o) s = .ok ((.ok x, (unread o).note false 0 x), s) := 
    runSM_readElem_first rfl ((BitVec.add_zero o.a).symm ▸ hx)
  have hb : runSM (readElem o true 0) ((unread o).note false 0 x) s = .ok ((.ok y, bothRead o x y [] true), s) := 
    runSM_readElem_first rfl ((BitVec.add_zero o.b).symm ▸ hy)
  have hdone : ∀ n i j, i = 1 ∨ j = 1 → ∀ w : Streams, runSM (mergeFrom o merge 1 1 (n + 1) i j) w s = .ok ((.ok (i, j), w), s) := by
    intro n i j hij w
    unfold mergeFrom
    rw [if_neg (by rcases hij with rfl | rfl <;> simp)]
    rfl
  unfold mergeFrom
  rw [if_pos (by decide), runSM_bind ha, runSM_bind hb]
  by_cases heq : x = y
  · rw [if_pos (by simpa using heq), runSM_bind (runSM_emit _ _ _ _), hdone 1 _ _ (.inl rfl)]
    simp [oneEnd, oneOut, heq, bothRead]
  · rw [if_neg (by simpa using heq)]
    by_cases hlt : x < y
    · rw [if_pos hlt]
      cases merge with
      | true =>
        rw [if_pos rfl, runSM_bind (runSM_emit _ _ _ _), hdone 1 _ _ (.inl rfl)]
        simp [oneEnd, oneOut, aloneRecord, heq, hlt, bothRead]
      | false =>
        rw [if_neg Bool.false_ne_true, runSM_bind (runSM_gallop_none (second := false) hlt), hdone 1 _ _ (.inl rfl)]
        simp [oneEnd, oneOut, heq, hlt]
    · rw [if_neg hlt]
      cases merge with
      | true =>
        rw [if_pos rfl, runSM_bind (runSM_emit _ _ _ _), hdone 1 _ _ (.inr rfl)]
        simp [oneEnd, oneOut, aloneRecord, heq, hlt, bothRead]
      | false =>
        rw [if_neg Bool.false_ne_true, runSM_bind (runSM_gallop_none (second := true) (show y < x by omega)), hdone 1 _ _ (.inr rfl)]
        simp [oneEnd, oneOut, heq, hlt]

/-- Nothing is left of a stream at its end. -/
theorem runSM_tailFrom_done (n : Nat) : runSM (tailFrom o second 1 n 1) w s = .ok ((.ok (), w), s) := by
  unfold tailFrom
  cases n with
  | zero => rfl
  | succ n => rfl

/-- The rest of a stream of which its one element is left. -/
theorem runSM_tailFrom_one (n : Nat) : runSM (tailFrom o second 1 (n + 1) 0) (bothRead o x y out late) s
    = .ok ((.ok (), bothRead o x y (out ++ aloneRecord second (if second then y else x)) false), s) := by
  unfold tailFrom
  rw [if_pos (by decide), runSM_bind runSM_readElem_known]
  cases second with
  | false =>
    rw [if_neg Bool.false_ne_true, runSM_bind (runSM_emit _ _ _ _), runSM_tailFrom_done]
    rfl
  | true =>
    rw [if_pos rfl, runSM_bind (runSM_emit _ _ _ _), runSM_tailFrom_done]
    rfl

/-- What MERGE delivers of one element each: one record for both, or each alone, in their order. -/
def mergedOne (x y : Nat) : List Byte :=
  if x = y then streamRecord x (some 0) (some 0) 3
  else if x < y then aloneRecord false x ++ aloneRecord true y else aloneRecord true y ++ aloneRecord false x

theorem runStreams_of {w : Streams} (hc : o.c = 1) (hd : o.d = 1) (h : runSM (do
      let (i, j) ← mergeFrom o (o.kind == .merge) 1 1 3 0 0
      if o.kind == .merge then
        tailFrom o false 1 1 i
        tailFrom o true 1 1 j) (unread o) s = .ok ((.ok (), w), s)) :
    (runStreams o).run s = .ok (((w.out, 0), w.late), s) := by
  have hc' : o.c.toNat = 1 := by rw [hc]; rfl
  have hd' : o.d.toNat = 1 := by rw [hd]; rfl
  unfold runStreams
  simp only [hc', hd']
  exact bind_ok h

theorem runStreams_isect_one (hk : o.kind = .isect) (hc : o.c = 1) (hd : o.d = 1) (hx : (engRead o o.a 4).run s = .ok (x, s))
    (hy : (engRead o o.b 4).run s = .ok (y, s)) :
    (runStreams o).run s = .ok (((if x = y then streamRecord x (some 0) (some 0) 3 else [], 0), decide (x ≠ y)), s) := by
  have hm : (o.kind == EngKind.merge) = false := by rw [hk]; rfl
  refine (runStreams_of (w := bothRead o x y (oneOut false x y) (!decide (x = y))) hc hd ?_).trans ?_
  · rw [hm, runSM_bind (runSM_mergeFrom_one false hx hy)]
    rfl
  · simp [bothRead, oneOut]

theorem runStreams_merge_one (hk : o.kind = .merge) (hc : o.c = 1) (hd : o.d = 1) (hx : (engRead o o.a 4).run s = .ok (x, s))
    (hy : (engRead o o.b 4).run s = .ok (y, s)) : (runStreams o).run s = .ok (((mergedOne x y, 0), false), s) := by
  have hm : (o.kind == EngKind.merge) = true := by rw [hk]; rfl
  refine (runStreams_of (w := bothRead o x y (mergedOne x y) false) hc hd ?_).trans rfl
  rw [hm, runSM_bind (runSM_mergeFrom_one true hx hy)]
  unfold oneEnd oneOut mergedOne
  by_cases heq : x = y
  · simp only [if_pos heq, if_true]
    rw [runSM_bind (runSM_tailFrom_done 1), runSM_tailFrom_done]
    rfl
  · by_cases hlt : x < y
    · simp only [if_neg heq, if_pos hlt, if_true]
      rw [runSM_bind (runSM_tailFrom_done 1), runSM_tailFrom_one]
      rfl
    · simp only [if_neg heq, if_neg hlt, if_true]
      rw [runSM_bind (runSM_tailFrom_one 0), runSM_tailFrom_done]
      rfl

end

end Sys2Proof.Machine
end

section
/-! Engine operations as they end, pause and take turns, and the ends of context moves: what becomes of the team, of its handle and of
the operation. -/

namespace Sys2Proof.Machine

/-! ### A team as it is looked up after updates -/

theorem State.team?_key {s : State} {l i : Nat} {t : Team} (h : s.team? l i = some t) : t.launch = l ∧ t.id = i := by
  have := List.find?_some h
  simpa using this

theorem State.team?_congr {s t : State} (h : t.teams = s.teams) (l i : Nat) : t.team? l i = s.team? l i := by
  rw [State.team?, h, State.team?]

/-- The team of a name that is set is the one that is found by that name. -/
theorem State.team?_setTeam {s : State} {l i : Nat} {t x : Team} (h : s.team? l i = some t) (hl : x.launch = t.launch) (hi : x.id = t.id) :
    (s.setTeam x).team? l i = some x := by
  obtain ⟨rfl, rfl⟩ := State.team?_key h
  have hs : ((s.setTeam x).team? t.launch t.id).isSome := by
    refine List.find?_isSome.mpr ⟨x, List.mem_map.mpr ⟨t, List.mem_of_find?_eq_some h, by simp [hl, hi]⟩, by simp [hl, hi]⟩
  obtain ⟨y, hy⟩ := Option.isSome_iff_exists.mp hs
  obtain ⟨u, -, hu⟩ := List.mem_map.mp (List.mem_of_find?_eq_some hy)
  obtain ⟨hyl, hyi⟩ := State.team?_key hy
  rw [hy]
  split at hu
  · rw [hu]
  · next hn => subst hu; simp [hl, hi, hyl, hyi] at hn

/-! ### An operation leaves -/

theorem State.configure_same (s : State) (g : Grid) : s.configure g = { s with grids := (s.configure g).grids } := by
  unfold State.configure
  split <;> rfl

theorem State.runNcfg_teams (s : State) (n : Nat) : (s.runNcfg n).teams = s.teams := by
  induction n generalizing s with
  | zero => rfl
  | succ n ih =>
    unfold State.runNcfg
    split
    · rfl
    · dsimp only
      rw [ih, State.configure_same]

/-- Configurations that are carried out leave the list; no operation comes to it. -/
theorem State.runNcfg_ops {s : State} {n : Nat} {o : EngOp} (h : o ∈ (s.runNcfg n).ops) : o ∈ s.ops := by
  induction n generalizing s with
  | zero => exact h
  | succ n ih =>
    unfold State.runNcfg at h
    split at h
    · exact h
    · have hm := ih h
      dsimp only at hm
      rw [State.configure_same] at hm
      exact (List.mem_filter.mp hm).1

@[simp] theorem State.dropOp_teams (s : State) (o : EngOp) : (s.dropOp o).teams = s.teams := State.runNcfg_teams _ _

theorem State.dropOp_ops {s : State} {o q : EngOp} (h : q ∈ (s.dropOp o).ops) : q.id ≠ o.id := by
  have hm := State.runNcfg_ops h
  simpa using (List.mem_filter.mp hm).2

/-! ### A team after a fill -/

/-- A team whose handle a fill has made FULL, or FULL and paused. -/
def Team.filled (tm : Team) (h : Handle) (n part : Nat) (pause : Bool) (f : Fill) : Team :=
  (tm.deliver h part f.data).setHandle n { h with state := .full, paused := pause, status := f.status, count := part + f.data.length }

section
variable {tm : Team} {h : Handle} {n part : Nat} {pause : Bool} {f : Fill}

theorem Team.handle_setHandle {t : Team} (hn : n < t.handles.length) (x : Handle) : (t.setHandle n x).handle n = x := by
  unfold Team.handle Team.setHandle
  simp [List.getD_eq_getElem?_getD, hn]

theorem Team.filled_spec (hn : n < tm.handles.length) : Filled (tm.filled h n part pause f) tm h n part pause f :=
  ⟨Team.handle_setHandle (t := tm.deliver h part f.data) hn _, rfl⟩

end

/-- What every state that has the filled team in its place says of it. -/
theorem State.team?_filled {u v : State} {l i : Nat} {tm : Team} {h : Handle} {n part : Nat} {pause : Bool} {f : Fill}
    (htm : u.team? l i = some tm) (hv : v.teams = (u.setTeam (tm.filled h n part pause f)).teams) :
    v.team? l i = some (tm.filled h n part pause f) := by
  rw [State.team?_congr hv]
  exact State.team?_setTeam htm rfl rfl

/-! ### One fill of an operation -/

section
variable {s u : State} {o q : EngOp} {t tm : Team} {f : Fill}

theorem State.runOp_ends (hr : s.runner o = some t) (hf : (fillOf t o ((t.handle o.handle).size.toNat * 16)).run s = .ok (f, u))
    (htm : u.team? o.launch o.team = some tm) (hp : f.paused = none) (ha : f.again = none) :
    s.runOp o false = ((u.setTeam (tm.filled (t.handle o.handle) o.handle o.part false f)).dropOp o).wake := by
  unfold State.runOp
  rw [hr]
  dsimp only
  rw [hf]
  dsimp only
  rw [hp, ha, htm]
  rfl

theorem State.runOp_pauses (hr : s.runner o = some t) (hf : (fillOf t o ((t.handle o.handle).size.toNat * 16)).run s = .ok (f, u))
    (htm : u.team? o.launch o.team = some tm) (hp : f.paused = some q) (ha : f.again = none) :
    s.runOp o true = ((u.setTeam (tm.filled (t.handle o.handle) o.handle o.part true f)).setOp { q with since := none }).wake := by
  unfold State.runOp
  rw [hr]
  dsimp only
  rw [hf]
  dsimp only
  rw [hp, ha, htm]
  rfl

theorem State.runOp_goesOn (hr : s.runner o = some t) (hf : (fillOf t o ((t.handle o.handle).size.toNat * 16)).run s = .ok (f, u))
    (htm : u.team? o.launch o.team = some tm) (hp : f.paused = none) (ha : f.again = some q) :
    s.runOp o false = ((if f.data.isEmpty then u else u.setTeam (tm.deliver (t.handle o.handle) o.part f.data)).takeTurn q
      (s.ev.choice % 2 == 1)).wake := by
  unfold State.runOp
  rw [hr]
  dsimp only
  rw [hf]
  dsimp only
  rw [hp, ha, htm]
  rfl

end

/-- The kinds of operations whose end is that of their fill, each with its event. -/
def endEvents : List (EngKind × Instr) :=
  [(.tcopy, .tcopyEnd), (.icopy, .icopyEnd), (.isect, .isectEnd), (.merge, .mergeEnd), (.nbin, .nbinEnd), (.npair, .npairEnd), (.nfix, .nfixEnd),
    (.hcfg, .hcfgEnd), (.hprobe, .hprobeEnd), (.hins, .hinsEnd), (.hdel, .hdelEnd), (.hreh, .hrehEnd)]

theorem exec_endOp {p : EngKind × Instr} (hp : p ∈ endEvents) (s : State) : exec p.2 s = endOp p.1 s := by
  simp only [endEvents, List.mem_cons, List.not_mem_nil, or_false] at hp
  rcases hp with rfl | rfl | rfl | rfl | rfl | rfl | rfl | rfl | rfl | rfl | rfl | rfl <;> rfl

theorem endOp_found {s : State} {k : EngKind} {o : EngOp} (h : s.ops.find? (fun o => o.id == s.ev.op && o.kind == k) = some o) :
    endOp k s = .next (s.runOp o false) := by
  unfold endOp
  rw [h]

theorem execEngineBufferPause_found {s : State} {o : EngOp} (h : s.ops.find? (fun o => o.id == s.ev.op && o.kind.delivers) = some o) :
    exec .engineBufferPause s = .next (s.runOp o true) := by
  show execEngineBufferPause s = _
  unfold execEngineBufferPause
  rw [h]

/-! ### A stream cut to a buffer (08 R191; 03 R83) -/

section
variable {o : EngOp} {size : Nat} {bs : List Byte} {e : Cause}

theorem cutFill_longer (h : size < bs.length) : cutFill o size (bs, e)
    = { data := bs.take size, paused := some { o with out := some (bs.drop size, e) } } := by
  unfold cutFill
  dsimp only
  rw [if_pos (by simp [h])]

theorem cutFill_exact (h : size = bs.length) (hl : o.late = true) (hk : o.kind = .isect ∨ o.kind = .merge) :
    cutFill o size (bs, e) = { data := bs, paused := some { o with out := some ([], e) } } := by
  unfold cutFill
  dsimp only
  rw [if_pos (by rcases hk with hk | hk <;> simp [h, hl, hk]), h, List.take_length, List.drop_length]

theorem cutFill_fits (h : bs.length ≤ size) (hl : o.late = false) : cutFill o size (bs, 0) = { data := bs, status := 0 } := by
  unfold cutFill
  dsimp only
  rw [if_neg (by simp [hl, h])]

end

/-! ### Turns (10 R212) -/

section
variable {s : State} {pre post : List EngOp} {o p q : EngOp} {yields : Bool}

/-- Whether an operation lets another one of its unit, which stands behind it, come first. -/
def State.letsPass (s : State) (p : EngOp) (yields : Bool) (q : EngOp) : Bool :=
  !s.sameUnit q p || (yields && !s.heldBack q && (q.launch != p.launch || s.gangOf q.launch q.team != s.gangOf p.launch p.team))

theorem State.takeTurn_ops (hs : s.ops = pre ++ o :: q :: post) (ho : o.id = p.id) (hpre : ∀ x ∈ pre, x.id ≠ p.id) :
    (s.takeTurn p yields).ops = pre ++ (q :: post).takeWhile (s.letsPass p yields)
      ++ { p with since := none } :: (q :: post).dropWhile (s.letsPass p yields) := by
  have hbefore : ∀ x ∈ pre, (x.id != p.id) = true := fun x hx => bne_iff_ne.mpr (hpre x hx)
  have hstop : (o.id != p.id) = false := by simp [ho]
  unfold State.takeTurn
  dsimp only
  rw [hs, List.takeWhile_append_of_pos hbefore, List.dropWhile_append_of_pos hbefore, List.takeWhile_cons_of_neg (by simp [hstop]),
    List.dropWhile_cons_of_neg (by simp [hstop]), List.append_nil]
  rfl

end

/-! ### What an effect answers -/

/-- An effect that, where it comes about, answers a value that meets a condition. -/
def Answers {α : Type} (P : α → Prop) (x : M α) : Prop := ∀ s a t, x.run s = .ok (a, t) → P a

section
variable {α β : Type} {P : α → Prop}

theorem Answers.pure {a : α} (h : P a) : Answers P (pure a : M α) := fun _ _ _ e => by cases e; exact h

theorem Answers.throw (e : Stop) : Answers P (throw e : M α) := fun _ _ _ h => by cases h

theorem Answers.bind {x : M β} {f : β → M α} (h : ∀ b, Answers P (f b)) : Answers P (x >>= f) := fun _ a u e => by
  obtain ⟨b, t, -, hb⟩ := exists_of_bind_ok e
  exact h b t a u hb

theorem Answers.ite {c : Prop} [Decidable c] {x y : M α} (hx : Answers P x) (hy : Answers P y) : Answers P (if c then x else y) := by
  split
  · exact hx
  · exact hy

end

/-- A page that is marked is kept with its leaf and its entry. -/
theorem migMark_answers (o : EngOp) : Answers (fun p => p.idx.length = 2) (migMark o) := by
  refine .bind fun s => .bind fun x => ?_
  cases x with
  | none => exact .throw _
  | some lf =>
    refine .bind fun _ => .bind fun y => .bind fun _ => .ite (.bind fun _ => ?_) ?_
    · exact .bind fun _ => .bind fun _ => .pure rfl
    · exact .bind fun _ => .bind fun _ => .pure rfl

theorem migMove_answers (o : EngOp) (leaf y : Nat) : Answers (fun n => n = migSize o.block) (migMove o leaf y) := by
  refine .bind fun s => ?_
  extract_lets e size jp
  have hjp : ∀ r, Answers (fun n => n = migSize o.block) (jp r) :=
    fun _ => .bind fun _ => .bind fun _ => .bind fun _ => .bind fun _ => .pure rfl
  exact .ite (.bind hjp) (hjp ())

theorem copyOutImage_answers (o : EngOp) (l : Launch) (x : Object) (g : Gang) : Answers (fun n => n = x.gangBytes) (copyOutImage o l x g) :=
  .bind fun _ => .bind fun _ => .bind fun _ => .bind fun _ => .bind fun _ => .pure rfl

/-! ### Reads of many bytes only access -/

theorem Accesses.mapM_ {α β : Type} {l : List α} {f : α → M β} (h : ∀ a, Accesses (f a)) : Accesses (mapM_ l f) := by
  induction l with
  | nil => exact .pure _
  | cons a l ih => exact .bind (h a) fun _ => .bind ih fun _ => .pure _

theorem l1Read_accesses (who : Who) (line k n : Nat) (va : DWord) : Accesses (l1Read who line k n va) := by
  unfold l1Read
  refine .bind .get fun s => ?_
  dsimp only
  split
  · refine .bind (.checkM _ _ _) fun _ => .ite (.bind (l1Put_accesses who _ _) fun _ => .pure _) ?_
    exact .bind (l2Read_accesses who _ _) fun _ => .bind (l1Put_accesses who _ _) fun _ => .pure _
  · exact .bind (l2Read_accesses who _ _) fun _ => .bind (.modify fun s => s.victimHit_access _ _) fun _ =>
      .bind (l1Put_accesses who _ _) fun _ => .pure _

theorem readRaw_accesses (who : Who) (p : Phys) (va : DWord) (bytes : Nat) (path : Path) : Accesses (readRaw who p va bytes path) := by
  unfold readRaw
  refine .bind (checkView_accesses p va) fun _ => ?_
  dsimp only
  split
  · cases path with
    | l1 => exact l1Read_accesses who _ _ _ _
    | l2 => exact .bind (l1Flush_accesses who _) fun _ => .bind (l2Read_accesses who _ _) fun _ => .pure _
    | engine => exact .bind (l2Read_accesses who _ _) fun _ => .pure _
  · exact .bind (entryGate_accesses who p) fun _ => .bind (countForward_accesses who _) fun _ => .bind .get fun _ => .pure _
  · exact .ite (.bind (forward_accesses who _ _ _ _ _ _) fun _ => .pure _) (.bind (forward_accesses who _ _ _ _ _ _) fun _ => .pure _)

theorem readPhys_accesses (who : Who) (p : Phys) (va : DWord) (bytes : Nat) (path : Path) : Accesses (readPhys who p va bytes path) :=
  .bind (readRaw_accesses who _ _ _ _) fun _ => .bind .get fun _ => .pure _

theorem loadBytes_accesses (who : Who) (va : DWord) (n : Nat) (path : Path) : Accesses (loadBytes who va n path) :=
  .bind (.mapM_ fun (_, _) => .bind (translate_accesses who _ false) fun _ => .bind (readPhys_accesses who _ _ _ path) fun _ => .pure _)
    fun _ => .pure _

/-- On whose behalf a context move acts does not change with what it accesses. -/
theorem OnlyAccess.gangWho {s t : State} (h : OnlyAccess s t) (o : EngOp) (l : Launch) : t.gangWho o l = s.gangWho o l := by
  rw [h]
  rfl

/-! ### The ends of context moves (19 R418 to R420) -/

/-- What the end of a context move puts into its buffer: a record of 16 bytes that counts the bytes moved, or nothing but a cause. -/
def moveFill : Except Cause Nat → Fill
  | .ok n => { data := leBytes 8 n ++ leBytes 8 0 }
  | .error e => { data := [], status := e }

section
variable {s t u : State} {o : EngOp} {tm : Team} {l : Launch} {x : Object} {g h : Gang}

theorem State.endWith_filled (r : Except Cause Nat) (htm : s.team? o.launch o.team = some tm) : s.endWith o r
    = ((s.setTeam (tm.filled (tm.handle o.handle) o.handle 0 false (moveFill r))).dropOp o).wake := by
  unfold State.endWith
  rw [htm]
  cases r with
  | ok n =>
    unfold Team.filled
    rw [Nat.zero_add]
    rfl
  | error e => rfl

theorem State.endWith_team (r : Except Cause Nat) (htm : s.team? o.launch o.team = some tm) :
    (s.endWith o r).team? o.launch o.team = some (tm.filled (tm.handle o.handle) o.handle 0 false (moveFill r)) := by
  rw [State.endWith_filled r htm]
  exact State.team?_filled htm (State.dropOp_teams _ _)

theorem State.endWith_ops (r : Except Cause Nat) (htm : s.team? o.launch o.team = some tm) : ∀ q ∈ (s.endWith o r).ops, q.id ≠ o.id := by
  rw [State.endWith_filled r htm]
  exact fun q hq => State.dropOp_ops hq

theorem State.endBy_ok {m : M Nat} {n : Nat} (h : m.run s = .ok (n, t)) : s.endBy o m = t.endWith o (.ok n) := by
  unfold State.endBy
  rw [h]

theorem State.endBy_trap {m : M Nat} {d : Due} (h : m.run s = .error (.trap d)) : s.endBy o m = s.endWith o (.error d.cause) := by
  unfold State.endBy
  rw [h]

/-- A gang that a descriptor names is found by its name. -/
theorem State.namedGang_gang {b : List Byte} (h : s.namedGang b = some (l, x, g)) : s.gang? l.id g.id = some g := by
  unfold State.namedGang at h
  split at h
  · cases h
  · split at h
    · next hg =>
      split at h
      · cases h
        rw [(State.gang?_key hg).2]
        exact hg
      · cases h
    · cases h

theorem exec_noGang {p : EngKind × Instr} (hp : p ∈ [(EngKind.ctxs, Instr.ctxsEnd), (.ctxr, .ctxrEnd)]) (ho : s.opOf p.1 = some o)
    (hn : s.namedGang o.block = none) : exec p.2 s = .next (s.endWith o (.error noGang)) := by
  simp only [List.mem_cons, List.not_mem_nil, or_false] at hp
  rcases hp with rfl | rfl
  · show execCtxsEnd s = _
    unfold execCtxsEnd
    rw [ho]
    dsimp only
    rw [hn]
  · show execCtxrEnd s = _
    unfold execCtxrEnd
    rw [ho]
    dsimp only
    rw [hn]

/-- A gang that is off its cores is held where it is. -/
theorem State.hold_gang (hg : s.gang? g.launch g.id = some g) (hs : g.state = .preempted ∨ g.state = .held)
    (hh : (s.hold g).gang? g.launch g.id = some h) : h = { g with state := .held } := by
  unfold State.hold at hh
  rcases hs with hs | hs
  · simp only [hs, hg] at hh
    rw [if_pos (beq_self_eq_true _), State.gang?_congr (State.idleQueues_gangs _)] at hh
    exact State.gang?_setGang (g := { g with state := .held }) hh
  · simp only [hs, hg] at hh
    rw [if_neg (by decide), hg] at hh
    cases hh
    rw [← hs]

/-- A gang that is off its cores is not saved, so no fault can end its save. -/
theorem State.saveFault_none (hs : g.state = .preempted ∨ g.state = .held) : s.saveFault l x g = none := by
  unfold State.saveFault
  rcases hs with hs | hs <;> simp [hs]

theorem execCtxsEnd_held (ho : s.opOf .ctxs = some o) (hn : s.namedGang o.block = some (l, x, g))
    (hown : ¬(l.id = o.launch ∧ g.id = s.gangOf o.launch o.team)) (hf : s.saveFault l x g = none) (hh : (s.hold g).gang? l.id g.id = some h)
    (hs : h.state = .held) : exec .ctxsEnd s = .next ((s.hold g).endBy o (copyOutImage o l x h)) := by
  show execCtxsEnd s = _
  unfold execCtxsEnd
  rw [ho]
  dsimp only
  rw [hn]
  dsimp only
  rw [if_neg (by simpa using hown), hf]
  dsimp only
  rw [hh]
  dsimp only
  rw [if_pos (by simp [hs])]

theorem copyOutImage_held {n : Nat} (hr : (copyOutImage o l x g).run s = .ok (n, t)) :
    ∀ k, t.gang? g.launch g.id = some k → k.state = .held := by
  unfold copyOutImage at hr
  rw [bind_get] at hr
  obtain ⟨b, s1, -, hr⟩ := exists_of_bind_ok hr
  obtain ⟨_, s2, -, hr⟩ := exists_of_bind_ok hr
  obtain ⟨_, s3, -, hr⟩ := exists_of_bind_ok hr
  rw [bind_modify] at hr
  cases hr
  intro k hk
  rw [State.gang?_setGang (g := { g with state := .held }) hk]

theorem execCtxrEnd_held (ho : s.opOf .ctxr = some o) (hn : s.namedGang o.block = some (l, x, g)) (hs : g.state = .held) :
    exec .ctxrEnd s = .next (s.endBy o (copyInImage o l x g)).movePointers := by
  show execCtxrEnd s = _
  unfold execCtxrEnd
  rw [ho]
  dsimp only
  rw [hn]
  dsimp only
  rw [if_neg (by simp [hs])]

section
variable {b : List Byte} (hb : (loadBytes (s.whoEngine o) (contextAt o.block) x.gangBytes .engine).run s = .ok (b, t))
include hb

theorem copyInImage_good (hc : checkImage x l.gang b = true) (hw : (writeImage (t.gangWho o l) (imageAt l x g.id) b).run t = .ok ((), u)) :
    (copyInImage o l x g).run s = .ok (x.gangBytes, u.setGang { g with state := .preempted }) := by
  rw [(loadBytes_accesses _ _ _ _ s b t hb).gangWho] at hw
  unfold copyInImage
  rw [bind_get, bind_ok hb, bind_check hc, bind_ok hw]
  rfl

theorem copyInImage_bad (hc : ¬ checkImage x l.gang b = true) :
    (copyInImage o l x g).run s = .error (.trap { cause := ctxBad, addr := 0 }) := by
  unfold copyInImage
  rw [bind_get, bind_ok hb, Bool.not_eq_true _ |>.mp hc]
  rfl

end

theorem execMigrEnd_marks {p : EngOp} (ho : s.opOf .migr = some o) (hi : o.idx = []) (hm : (migMark o).run s = .ok (p, t)) :
    exec .migrEnd s = .next (t.setOp p) := by
  show execMigrEnd s = _
  unfold execMigrEnd
  rw [ho]
  dsimp only
  rw [hi]
  dsimp only
  rw [hm]

theorem execMigrEnd_moves {leaf y n : Nat} (ho : s.opOf .migr = some o) (hi : o.idx = [leaf, y]) (ha : s.oldAccess (s.migRange o) = false)
    (hm : (migMove o leaf y).run s = .ok (n, t)) : exec .migrEnd s = .next ((t.endWith o (.ok n)).unmark o y) := by
  show execMigrEnd s = _
  unfold execMigrEnd
  rw [ho]
  dsimp only
  rw [hi]
  dsimp only
  unfold State.migFinish
  rw [ha, if_neg Bool.false_ne_true, hm]

end

/-! ### The statement -/

/-- Settles O51: after a fill the team is `Team.filled` and the operation leaves, stays with the rest of its stream or takes its turn; a
context move ends in such a fill too, with a record of the bytes moved or with a cause alone. -/
theorem engineEnds : Obligations.EngineEnds := by
  unfold Obligations.EngineEnds
  refine ⟨?ends, ?pauses, fun o size bs e h => ?longer, ?goesOn, ?turns, fun o size bs e h hl hk => ?exact, fun o size bs h hl => ?fits,
    ?streams, ?endWith, ?saved, ?restored, fun s t o p ho hi hm => ⟨execMigrEnd_marks ho hi hm, migMark_answers o s p t hm⟩,
    fun s t o leaf y n ho hi ha hm => ⟨execMigrEnd_moves ho hi ha hm, migMove_answers o leaf y s n t hm⟩, ?noGang⟩
  case ends =>
    rintro p hp s o t f u tm ⟨hfind, hr, hf, htm, hn⟩ hpaused hagain
    have hexec := (exec_endOp hp s).trans (endOp_found hfind)
    rw [State.runOp_ends hr hf htm hpaused hagain] at hexec
    exact ⟨_, _, hexec, fun q hq => State.dropOp_ops hq, State.team?_filled htm (State.dropOp_teams _ _), Team.filled_spec hn⟩
  case pauses =>
    rintro k s o t f u tm q hfind ⟨-, hr, hf, htm, hn⟩ hpaused hagain -
    have hexec := execEngineBufferPause_found hfind
    rw [State.runOp_pauses hr hf htm hpaused hagain] at hexec
    exact ⟨_, _, hexec, rfl, State.team?_filled htm rfl, Team.filled_spec hn⟩
  case longer => rw [cutFill_longer h]; exact ⟨rfl, rfl⟩
  case goesOn =>
    rintro p hp s o t f u tm q ⟨hfind, hr, hf, htm, -⟩ hpaused hagain
    have hp' : p ∈ endEvents := by
      simp only [List.mem_cons, List.not_mem_nil, or_false] at hp
      rcases hp with rfl | rfl | rfl <;> simp [endEvents]
    rw [exec_endOp hp', endOp_found hfind, State.runOp_goesOn hr hf htm hpaused hagain]
  case turns =>
    intro s pre post o p q yields hs ho hpre hu
    rw [State.takeTurn_ops hs ho hpre]
    refine ⟨fun hy => ?_, fun hy hb hg hpost => ?_⟩
    · have hstays : s.letsPass p yields q = false := by
        unfold State.letsPass
        rcases hy with rfl | ⟨hl, hg⟩
        · simp [hu]
        · simp [hu, hl, ← hg]
      simp [hstays]
    · have hpasses : s.letsPass p yields q = true := by
        unfold State.letsPass
        rcases hg with hg | hg <;> simp [hy, hb, hg]
      simp [hpasses, hpost]
  case exact => rw [cutFill_exact h hl hk]; exact ⟨rfl, rfl⟩
  case fits => rw [cutFill_fits h hl]; exact ⟨rfl, rfl, rfl⟩
  case streams =>
    intro s o x y hc hd hx hy record merged met
    exact ⟨fun hk => runStreams_merge_one hk hc hd hx hy, fun hk => runStreams_isect_one hk hc hd hx hy⟩
  case endWith =>
    intro t o n tm htm hn
    exact ⟨_, State.endWith_team (.ok n) htm, State.endWith_ops _ htm, Team.filled_spec hn⟩
  case saved =>
    intro s o l x g ho hnamed hown hs h n t hh hr
    have hg : s.gang? l.id g.id = some g := State.namedGang_gang hnamed
    obtain ⟨hgl, -⟩ := State.gang?_key hg
    have hheld : h = { g with state := .held } := State.hold_gang (by rw [hgl]; exact hg) hs (by rw [hgl]; exact hh)
    obtain ⟨hhl, hhi⟩ := State.gang?_key hh
    refine ⟨hheld, ?_, copyOutImage_answers o l x h _ _ _ hr, ?_⟩
    · rw [execCtxsEnd_held ho hnamed hown (State.saveFault_none hs) hh (by rw [hheld]), State.endBy_ok hr]
    · have hkeep := copyOutImage_held hr
      rwa [hhl, hhi] at hkeep
  case restored =>
    intro s t o l x g b ho hnamed hs hb
    split
    · next hc =>
      intro u hu
      rw [execCtxrEnd_held ho hnamed hs, State.endBy_ok (copyInImage_good hb hc hu)]
    · next hc => rw [execCtxrEnd_held ho hnamed hs, State.endBy_trap (copyInImage_bad hb hc)]; rfl
  case noGang =>
    intro p hp s o ho hn
    refine ⟨_, exec_noGang hp ho hn, fun tm htm hlen => ?_⟩
    rw [State.endWith_team _ htm, Option.map_some, (Team.filled_spec hlen).1]
    rfl

end Sys2Proof.Machine
end

section
/-! Atomics at the home slice (04 R107; 17 R366 to R369): what an access that finds its page in the TLB and its line in no L1 does there, and
what the integer and compare forms write. -/

namespace Sys2Proof.Machine

/-! ### One read and one write at the home slice -/

section
variable {s : State} {c : Ctx} {x : Fibre} {e : TlbEntry} {va : DWord} {o : EntryOp}

/-- The old value of n bytes: those of the line at its home slice, after the page is granted. -/
abbrev State.atomicOld (s : State) (e : TlbEntry) (va : DWord) (n : Nat) : Nat :=
  lineBytes ((s.granted e va).mem.l2Fill (e.line va)).1.data (e.at_ va % 64) n

/-- The device after an atomic at the home slice: what is written over the old value, if anything, has been merged into the line. -/
def State.atomicDone (s : State) (e : TlbEntry) (va : DWord) (o : EntryOp) : State :=
  let m := ((s.granted e va).mem.l2Fill (e.line va)).2
  s.withMem (match o.new (s.atomicOld e va o.bytes) with
    | some v => m.l2Write (e.line va) (byteMask (e.at_ va % 64) o.bytes) (lineOf (e.at_ va % 64) o.bytes v)
    | none => m)

theorem State.atomicDone_writes {v : Nat} (h : o.new (s.atomicOld e va o.bytes) = some v) : s.atomicDone e va o
    = s.withMem (((s.granted e va).mem.l2Fill (e.line va)).2.l2Write (e.line va) (byteMask (e.at_ va % 64) o.bytes)
        (lineOf (e.at_ va % 64) o.bytes v)) := by
  unfold State.atomicDone
  rw [h]

theorem State.atomicDone_keeps (h : o.new (s.atomicOld e va o.bytes) = none) : s.atomicDone e va o
    = s.withMem ((s.granted e va).mem.l2Fill (e.line va)).2 := by
  unfold State.atomicDone
  rw [h]

/-- A grant changes the directory only. -/
theorem MemSys.grant_same (m : MemSys) (leaf page : Nat) : m.grant leaf page = { m with dir := (m.grant leaf page).dir } := by
  unfold MemSys.grant MemSys.setDir
  split <;> rfl

theorem State.granted_regionAt (s : State) (e : TlbEntry) (va : DWord) (a : Nat) : (s.granted e va).mem.regionAt a = s.mem.regionAt a := by
  unfold State.granted
  rw [s.mem.grant_same]
  rfl

theorem AtHome.granted {i : FibreId} {line : Nat} (h : AtHome s i line) (e : TlbEntry) (va : DWord) : AtHome (s.granted e va) i line := by
  unfold State.granted AtHome
  rw [s.mem.grant_same]
  exact h

/-- The access itself: the flush finds nothing, and what is read is written over where the operation says so. -/
theorem atomicG_home (hr : Resident s c va o.bytes true e) (hn : s.l1Line? c.core (e.line va) = none) (ha : AtHome s x.id (e.line va)) :
    (atomicG (s.whoOf c x) va o.bytes o.new o.wire).run s = .ok (s.atomicOld e va o.bytes, s.atomicDone e va o) := by
  obtain ⟨hva, hal, hf, hl, hp, hv⟩ := hr
  have htr : (translate (s.whoOf c x) va true).run s
      = .ok ({ loc := 0, peer := e.peer, pa := e.at_ va, view := va.getLsbD 50, leaf := e.leaf }, s.granted e va) :=
    translate_hit hva rfl hf hl hp
  have hat := ha.granted e va
  rw [← s.granted_regionAt e va] at hv
  unfold atomicG
  rw [bind_ok (checkGlobal_run hva hal), bind_ok htr, bind_ok (checkView_run rfl hv)]
  simp only []
  rw [bind_ok (l1Flush_absent hn), bind_ok (l2Read_home hat)]
  split
  · next v hnew => rw [State.atomicDone_writes hnew]; exact bind_ok (l2Store_home (hat.l2Fill _))
  · next hnew => rw [State.atomicDone_keeps hnew]; rfl

end

/-! ### The opcodes -/

section
variable {op : Op} {f : Ctx → Fibre → EntryOp} {e : TlbEntry}

/-- The access of a fibre that meets plain memory, in a page that is resident for writes, to a line in no L1 that can be used at home. -/
abbrev AtomicAtHome (f : Ctx → Fibre → EntryOp) (e : TlbEntry) (c : Ctx) (s : State) (x : Fibre) : Prop :=
  Plain s x ∧ Resident s c (c.a64 x) (f c x).bytes true e ∧ s.l1Line? c.core (e.line (c.a64 x)) = none ∧ AtHome s x.id (e.line (c.a64 x))

/-- One lane's atomic up to its old value: what follows is the delivery alone. -/
theorem laneAtomic_home {c : Ctx} {s : State} {x : Fibre} (h : AtomicAtHome f e c s x) (dest : Bool) :
    (laneAtomic f dest c x).run s = (if dest then curF x >>= fun g =>
        putF (c.putW g ((f c x).bytes == 8) (s.atomicOld e (c.a64 x) (f c x).bytes))
      else pure () : M Unit).run (s.atomicDone e (c.a64 x) (f c x)) := by
  obtain ⟨⟨-, hheld, -⟩, hr, hn, ha⟩ := h
  unfold laneAtomic
  rw [bind_ok whoM_run, bind_ok (heldClear_run hheld), bind_ok (atomicG_home hr hn ha)]

/-- ATOM, CAS and FATOM: the old value is delivered. -/
theorem atomic_fetch_rule (he : ∀ w s, exec (op.instr w) s = issue op w (perLane (laneAtomic f true)) s) :
    OneRule op (AtomicAtHome f e) (fun c s x => c.putW x ((f c x).bytes == 8) (s.atomicOld e (c.a64 x) (f c x).bytes))
      (fun c s x => s.atomicDone e (c.a64 x) (f c x)) := by
  refine one_rule he (fun c _ x _ => c.putW_same x _ _ _) (fun _ _ _ _ => rfl) fun c s x fb h hx => ?_
  have hplace : AtomicAtHome f e c (s.withFibres fb) x := h
  rw [laneAtomic_home hplace, if_pos rfl]
  exact bind_ok (curF_run hx)

/-- RED and FRED: the fibre only goes on. -/
theorem atomic_reduce_rule (he : ∀ w s, exec (op.instr w) s = issue op w (perLane (laneAtomic f false)) s) :
    OneRule op (AtomicAtHome f e) (fun _ _ x => x) (fun c s x => s.atomicDone e (c.a64 x) (f c x)) := by
  refine one_rule_id he (fun _ _ _ _ => rfl) fun c s x fb h _ => ?_
  have hplace : AtomicAtHome f e c (s.withFibres fb) x := h
  rw [laneAtomic_home hplace, if_neg Bool.false_ne_true]
  rfl

end

/-! ### What the atomics compute -/

/-- A word's two's complement reading is its value as a signed number. -/
theorem signedOf_toNat (v : Word) : signedOf 32 v.toNat = v.toInt := by
  have hv := v.isLt
  unfold signedOf
  rw [BitVec.toInt_eq_toNat_cond, Nat.mod_eq_of_lt hv]
  dsimp only
  split <;> split <;> omega

section
variable {old b : Nat}

/-- MIN and MAX of TY 0 compare the words as unsigned numbers. -/
theorem intAtom_min_unsigned (ho : old < 2 ^ 32) (hb : b < 2 ^ 32) : intAtom 1 0 old b = min old b := by
  show (if ((b % 2 ^ 32 : Nat) : Int) < ((old % 2 ^ 32 : Nat) : Int) then b else old) = _
  rw [Nat.mod_eq_of_lt ho, Nat.mod_eq_of_lt hb]
  split <;> omega

theorem intAtom_max_unsigned (ho : old < 2 ^ 32) (hb : b < 2 ^ 32) : intAtom 2 0 old b = max old b := by
  show (if ((old % 2 ^ 32 : Nat) : Int) < ((b % 2 ^ 32 : Nat) : Int) then b else old) = _
  rw [Nat.mod_eq_of_lt ho, Nat.mod_eq_of_lt hb]
  split <;> omega

end

section
variable (old b : Word)

/-- MIN and MAX of TY 1 compare the words as two's complement numbers. -/
theorem intAtom_min_signed : (BitVec.ofNat 32 (intAtom 1 1 old.toNat b.toNat)).toInt = min old.toInt b.toInt := by
  have h : intAtom 1 1 old.toNat b.toNat = if b.toInt < old.toInt then b.toNat else old.toNat := by
    rw [← signedOf_toNat, ← signedOf_toNat]
    rfl
  rw [h, ← apply_ite BitVec.toNat, BitVec.ofNat_toNat, BitVec.setWidth_eq]
  split <;> omega

theorem intAtom_max_signed : (BitVec.ofNat 32 (intAtom 2 1 old.toNat b.toNat)).toInt = max old.toInt b.toInt := by
  have h : intAtom 2 1 old.toNat b.toNat = if old.toInt < b.toInt then b.toNat else old.toNat := by
    rw [← signedOf_toNat, ← signedOf_toNat]
    rfl
  rw [h, ← apply_ite BitVec.toNat, BitVec.ofNat_toNat, BitVec.setWidth_eq]
  split <;> omega

end

/-- A compare form writes its new value where the old one is the one compared with. -/
theorem EntryOp.new_cas (ty : Nat) (cmp new : DWord) (old : Nat) :
    (EntryOp.cas ty cmp new).new old = if old = cmp.toNat then some new.toNat else none := by
  simp only [EntryOp.new, beq_iff_eq]

/-! ### The statement -/

/-- Settles O21: the five opcodes are one lane effect, which performs its access at the home slice and then delivers the old value or not;
the integer forms are the cases of `intAtom`. -/
theorem atomicResults : Obligations.AtomicResults := by
  unfold Obligations.AtomicResults
  refine ⟨?opcodes, fun _ _ _ => rfl, fun _ _ _ => ⟨rfl, rfl, rfl, rfl⟩,
    fun _ _ ho hb => ⟨intAtom_min_unsigned ho hb, intAtom_max_unsigned ho hb⟩, fun old b => ⟨intAtom_min_signed old b, intAtom_max_signed old b⟩,
    EntryOp.new_cas⟩
  case opcodes =>
    intro p hp e
    simp only [List.mem_cons, List.not_mem_nil, or_false] at hp
    rcases hp with rfl | rfl | rfl | rfl | rfl
    · exact atomic_fetch_rule (op := .atom) (f := Ctx.intOp) fun _ _ => rfl
    · exact atomic_reduce_rule (op := .red) (f := Ctx.intOp) fun _ _ => rfl
    · exact atomic_fetch_rule (op := .cas) (f := Ctx.casOp) fun _ _ => rfl
    · exact atomic_reduce_rule (op := .fred) (f := Ctx.fpOp) fun _ _ => rfl
    · exact atomic_fetch_rule (op := .fatom) (f := Ctx.fpOp) fun _ _ => rfl

end Sys2Proof.Machine
end

section
/-! Transactions (06 R151 to R168): TXOE of a lane that is marked as refused. `Fibre.txFault` marks a lane that was refused with SYS.UNCORR
at TXOE and is to trap when it leaves (06 R155, R168). A commit keeps the mark, and the TXOE clause has no premise that it is clear. -/

namespace Sys2Proof.Machine

/-! ### A lane that commits at TXOE with the mark set -/

/-- An open attempt of iteration 0 that has read and written nothing. -/
def markedAttempt : Tx := { byVal := true, iter := some 0, irrev := false, target := 24, opener := 0 }

/-- Its fibre, which is not settled and yet marked as refused. -/
def markedFibre : Fibre :=
  { id := ⟨.team 1 0 0, 0⟩, pc := 0, obj := 3, regs := 1 :: List.replicate 63 0, tx := some markedAttempt, txFault := true }

def markedWave : Wave := { id := 2, crew := .team 1 0 0, home := 0, lanes := 1, meet := 1 }

/-- A placed program of one team, at whose current iteration the fibre stands. -/
def markedState : State :=
  { State.reset.withProgram (List.replicate 12 0) with cur := some 2, fibres := [markedFibre], waves := [markedWave] }

/-- The cause of the trap that a fibre is in after an instruction. -/
def trapCauseAfter (i : FibreId) : Host.Outcome State Fault Refusal → Option Cause
  | .next t => ((t.fibre? i).filter (fun g => g.inTrap.isSome)).map (fun g => g.trap.cause)
  | _ => none

theorem markedState_issues : IssuesOne .txoe default markedState markedWave markedFibre := by decide +kernel

theorem markedFibre_traps : trapCauseAfter markedFibre.id (exec (Op.txoe.instr default) markedState) = some sysUncorr := by
  decide +kernel

/-! ### The statement -/

/-- Refutes O24: the premises of its TXOE clause leave `txFault` free. In `markedState` the lane commits and then, for its mark, enters the
runtime with SYS.UNCORR, where the clause has it go on at the fall-through. -/
theorem not_transactionResults : ¬ Obligations.TransactionResults := by
  unfold Obligations.TransactionResults
  rintro ⟨-, -, -, htxoe, -, -⟩
  obtain ⟨t, ht, -, hin, -⟩ := htxoe markedAttempt (programTeam 1) default markedState markedWave markedFibre markedState_issues
    (by decide +kernel)
  have hcause := markedFibre_traps
  rw [ht, trapCauseAfter, hin markedFibre List.mem_cons_self] at hcause
  exact absurd hcause (by decide +kernel)

end Sys2Proof.Machine
end

section
/-! Ordered atomics as they enter their round, and AFLUSH of a round that has closed (07 R175 to R179; 17 R370, R371). -/

namespace Sys2Proof.Machine

/-! ### Effects on the one fibre of a wave, whatever their shape -/

section
variable {op : Op} {w : Fields} {s u v : State} {wv : Wave} {f x : Fibre} {body : Body}

/-- An effect that leaves its fibre as x ends as an effect of that lane does which comes to the same. -/
theorem ends_body (h : IssuesOne op w s wv f) (hb : body (soloCtx op w s wv f) (s.begun (soloCtx op w s wv f)) = .ok (v.setFibre x, []))
    (hx : x.id = f.id) (hg : x.group = none) (hv : v.fibres = (s.begun (soloCtx op w s wv f)).fibres) (hw : v.waves = s.waves)
    (hu : SameBut u v) : Ends (issue op w body s) s [f] (fun _ => x.ended op w) u := by
  have hlane := ends_lane (g := fun _ _ => set (v.setFibre x)) h rfl hx hg hv hw hu
  rw [issue_solo h.1 rfl] at hlane
  rw [issue_done h.1 hb]
  exact hlane

/-- An effect that leaves the only active fibre as G. -/
theorem one_body_rule {P : Ctx → State → Fibre → Prop} {G : Ctx → State → Fibre → Fibre} {U : Ctx → State → Fibre → State}
    (he : ∀ w s, exec (op.instr w) s = issue op w body s) (hG : ∀ c s x, P c s x → x.Same (G c s x))
    (hUw : ∀ c s x, P c s x → (U c s x).waves = s.waves)
    (hb : ∀ (c : Ctx) (s : State) (x : Fibre) (fb : List Fibre), P c s x → c.act = [x] → (s.withFibres fb).fibre? x.id = some x →
      ∃ n, body c (s.withFibres fb) = .ok (({ (U c s x).withFibres fb with nextId := n } : State).setFibre (G c s x), [])) :
    OneRule op P G U := by
  intro w s wv f h hP
  have hc := Solo.cur h.1
  rw [begun_eq] at hc
  obtain ⟨n, hrun⟩ := hb _ s _ (s.begun (soloCtx op w s wv f)).fibres hP (Solo.act_eq h.1) (by exact hc)
  obtain ⟨hid, hgroup⟩ := hG _ _ _ hP
  rw [← begun_eq] at hrun
  rw [he]
  exact ends_body h hrun hid (hgroup.trans h.group) rfl (hUw _ _ _ hP) rfl

end

/-! ### An ordered atomic's entry (07 R175; 17 R370) -/

section
variable {c : Ctx} {s : State} {x : Fibre} {l : Launch} {tm : Team} {e : TlbEntry} {f : Ctx → Fibre → EntryOp} {dest : Bool}

/-- The team that a crew's name holds; items have none and count as team 0. -/
def crewTeam : CrewId → Nat
  | .team _ t _ => t
  | .item .. => 0

/-- The entry of a lane whose location is resident. -/
def orderedEntry (c : Ctx) (s : State) (x : Fibre) (l : Launch) (e : TlbEntry) (o : EntryOp) (dest : Bool) : Entry :=
  { id := s.nextId, launch := l.id, round := x.round, drainer := l.drainerOf (crewTeam x.id.crew), key := entryKey x x.seq
    pa := e.line (c.a64 x) * 64 + e.at_ (c.a64 x) % 64, va := c.a64 x, op := o, fibre := x.id, dest := dest, pc := c.pc, leaf := e.leaf }

/-- The fibre of a lane that has sent its entry: the next sequence number, and a destination that waits for the round. -/
def orderedFibre (c : Ctx) (s : State) (x : Fibre) (o : EntryOp) (dest : Bool) : Fibre :=
  let d := c.w.d.n.toNat
  let pend : List Pend := if dest then
    [{ dst := if o.bytes == 8 then [d, d + 1] else [d], vals := [], ordered := some s.nextId, own := x.inTrap.isNone }] else []
  { x with seq := x.seq + 1, pend := x.pend ++ pend }

/-- The device with a lane's entry in its round. -/
def State.withOrdered (s : State) (c : Ctx) (x : Fibre) (l : Launch) (e : TlbEntry) (o : EntryOp) (dest : Bool) : State :=
  { s.granted e (c.a64 x) with entries := s.entries ++ [orderedEntry c s x l e o dest] }

theorem addEntry_eq : addEntry c l f dest (s.granted e (c.a64 x)) x (e.line (c.a64 x) * 64 + e.at_ (c.a64 x) % 64, e.leaf)
    = ({ s.withOrdered c x l e (f c x) dest with nextId := s.nextId + 1 } : State).setFibre (orderedFibre c s x (f c x) dest) := rfl

/-- The address checks of a lane whose page is resident for writes, to a line in no L1. -/
theorem orderedPlace_resident {o : EntryOp} (hh : x.held = []) (hr : Resident s c (c.a64 x) o.bytes true e)
    (hn : s.l1Line? c.core (e.line (c.a64 x)) = none) :
    (orderedPlace c x o).run s = .ok (((e.line (c.a64 x) * 64 + e.at_ (c.a64 x) % 64, e.leaf), true), s.granted e (c.a64 x)) := by
  obtain ⟨hva, hal, hf, hl, hp, hv⟩ := hr
  have htr : (translate (s.whoOf c x) (c.a64 x) true).run s
      = .ok ({ loc := 0, peer := e.peer, pa := e.at_ (c.a64 x), view := (c.a64 x).getLsbD 50, leaf := e.leaf }, s.granted e (c.a64 x)) :=
    translate_hit hva rfl hf hl hp
  rw [← s.granted_regionAt e (c.a64 x)] at hv
  unfold orderedPlace
  rw [bind_ok whoM_run, bind_ok (heldClear_run hh), bind_ok (checkGlobal_run hva hal), bind_ok htr]
  dsimp only
  rw [if_pos (beq_self_eq_true 0), bind_ok (checkView_run rfl hv)]
  exact bind_ok (l1Flush_absent hn)

/-- The address checks of a wave with one active lane, where that lane passes. -/
theorem orderedLanes_singleton {t : State} {p : (Nat × Nat) × Bool} (h : (orderedPlace c x (f c x)).run s = .ok (p, t)) :
    orderedLanes c f [x] s = .ok (t, [(x, p.1, p.2)], []) := by
  unfold orderedLanes
  rw [h]
  rfl

/-- A resident lane with a sequence number and room in its drainer raises nothing. -/
theorem orderedCause_none {held k : Nat} (hs : x.seq < 2 ^ 20) (hr : held + k + 1 ≤ 256 + l.spill) : orderedCause l held k x true = none := by
  unfold orderedCause
  rw [if_neg (by decide), if_neg (Nat.not_le.mpr hs), if_neg (Nat.not_lt.mpr hr)]

/-- A team's lane that passes its address checks in a resident page, with a sequence number left and room in its drainer. -/
abbrev OrderedAtHome (f : Ctx → Fibre → EntryOp) (e : TlbEntry) (l : Launch) (tm : Team) (c : Ctx) (s : State) (x : Fibre) : Prop :=
  x.held = [] ∧ Resident s c (c.a64 x) (f c x).bytes true e ∧ s.l1Line? c.core (e.line (c.a64 x)) = none ∧ s.launch? c.launch = some l
    ∧ s.teamOf? c.wv.crew = some tm ∧ x.seq < 2 ^ 20 ∧ s.drainerHolds l.id (l.drainerOf (crewTeam c.wv.crew)) + 1 ≤ 256 + l.spill

/-- Where the only active lane has passed its checks and raises no cause, its entry is added. -/
theorem bodyOrdered_singleton {t : State} {p : Nat × Nat} {resident : Bool} (hl : s.launch? c.launch = some l) (ha : c.act = [x])
    (hlanes : orderedLanes c f [x] s = .ok (t, [(x, p, resident)], []))
    (hcause : orderedCause l (t.drainerHolds l.id (l.drainerOf (crewTeam c.wv.crew))) 0 x resident = none) :
    bodyOrdered f dest c s = .ok (addEntry c l f dest t x p, []) := by
  unfold bodyOrdered
  rw [hl, ha]
  dsimp only
  rw [hlanes]
  show (if (!(List.filterMap _ [(0, x, p, resident)]).isEmpty) = true then _ else _) = _
  rw [List.filterMap_cons_none (a := (0, x, p, resident))]
  · rfl
  · exact congrArg (Option.map _) hcause

theorem bodyOrdered_home (h : OrderedAtHome f e l tm c s x) (ha : c.act = [x]) : bodyOrdered f dest c s
    = .ok (({ s.withOrdered c x l e (f c x) dest with nextId := s.nextId + 1 } : State).setFibre (orderedFibre c s x (f c x) dest), []) := by
  obtain ⟨hheld, hres, hn, hl, -, hseq, hroom⟩ := h
  have hcause : orderedCause l ((s.granted e (c.a64 x)).drainerHolds l.id (l.drainerOf (crewTeam c.wv.crew))) 0 x true = none :=
    orderedCause_none hseq hroom
  rw [bodyOrdered_singleton hl ha (orderedLanes_singleton (orderedPlace_resident hheld hres hn)) hcause, addEntry_eq]

/-- ATOMO, CASO, FREDO and FATOMO: one entry of the fibre's round. -/
theorem ordered_rule {op : Op} (he : ∀ w s, exec (op.instr w) s = issue op w (bodyOrdered f dest) s) :
    OneRule op (OrderedAtHome f e l tm) (fun c s x => orderedFibre c s x (f c x) dest)
      (fun c s x => s.withOrdered c x l e (f c x) dest) := by
  refine one_body_rule he (fun _ _ _ _ => ⟨rfl, rfl⟩) (fun _ _ _ _ => rfl) fun c s x fb h ha _ => ⟨s.nextId + 1, ?_⟩
  have hplace : OrderedAtHome f e l tm c (s.withFibres fb) x := h
  exact bodyOrdered_home hplace ha

end

/-! ### AFLUSH of a round that has closed (07 R176, R177) -/

section
variable {s : State} {c : Ctx} {x g : Fibre}

/-- Of two fibres set under one name the second stays. -/
theorem State.setFibre_setFibre (h : g.id = x.id) : (s.setFibre x).setFibre g = s.setFibre g := by
  unfold State.setFibre
  simp only [List.map_map, State.mk.injEq, true_and, and_true]
  refine List.map_congr_left fun y _ => ?_
  by_cases hy : y.id = x.id <;> simp [hy, h]

/-- An acquire and an update of a fibre do not meet. -/
theorem State.acquired_setFibre (s : State) (core : Nat) (g : Fibre) : (s.setFibre g).acquired core = (s.acquired core).setFibre g :=
  List.foldl_hom (fun t : State => t.setFibre g) fun _ _ => rfl

/-- An acquire finds the same L1s whatever the fibres are. -/
theorem State.acquired_withFibres (s : State) (core : Nat) (fb : List Fibre) :
    (s.withFibres fb).acquired core = (s.acquired core).withFibres fb :=
  List.foldl_hom (fun t : State => t.withFibres fb) fun _ _ => rfl

/-- An acquire keeps the waves. -/
theorem State.acquired_waves (s : State) (core : Nat) : (s.acquired core).waves = s.waves :=
  foldl_keeps (p := State.waves) (f := State.invalidateCore) (fun _ _ => rfl) _ s

theorem Fibre.endRound_same (x : Fibre) : x.Same x.endRound := by
  unfold Fibre.endRound
  split <;> exact ⟨rfl, rfl⟩

/-- AFLUSH goes on for a fibre whose round has closed, and acquires. -/
theorem bodyAflush_closed (ha : c.act = [x])
    (h : (x.endRound.phase.map BitVec.toNat).getD 0 < ((s.launch? c.launch).map Launch.closed).getD 0) :
    bodyAflush c s = .ok ((s.acquired c.core).setFibre { x.endRound with phase := none }, []) := by
  unfold bodyAflush
  rw [ha]
  show (if ([x.endRound].all fun g => (g.phase.map BitVec.toNat).getD 0 < ((s.launch? c.launch).map Launch.closed).getD 0) = true
    then Except.ok (((s.setFibre x.endRound).setFibre { x.endRound with phase := none }).acquired c.core, []) else _) = _
  rw [if_pos (by simpa using h), State.setFibre_setFibre (by rfl), State.acquired_setFibre]

end

/-! ### The statement -/

/-- Settles O22: each ordered opcode is `bodyOrdered` of one lane, which adds that lane's entry; AFLUSH of a closed round acquires. -/
theorem orderedResults : Obligations.OrderedResults := by
  unfold Obligations.OrderedResults
  refine ⟨?ordered, ?aflush⟩
  case ordered =>
    intro p hp e l tm
    simp only [List.mem_cons, List.not_mem_nil, or_false] at hp
    rcases hp with rfl | rfl | rfl | rfl
    · exact ordered_rule (op := .atomo) (f := Ctx.intOp) (dest := true) fun _ _ => rfl
    · exact ordered_rule (op := .caso) (f := Ctx.casOp) (dest := true) fun _ _ => rfl
    · exact ordered_rule (op := .fredo) (f := Ctx.fpOp) (dest := false) fun _ _ => rfl
    · exact ordered_rule (op := .fatomo) (f := Ctx.fpOp) (dest := true) fun _ _ => rfl
  case aflush =>
    refine one_body_rule (op := .aflush) (body := bodyAflush) (fun _ _ => rfl) (fun _ _ x _ => ?_) (fun c s _ _ => s.acquired_waves c.core)
      fun c s x fb h ha _ => ⟨(s.acquired c.core).nextId, ?_⟩
    · exact x.endRound_same
    · have hclosed : (x.endRound.phase.map BitVec.toNat).getD 0 < (((s.withFibres fb).launch? c.launch).map Launch.closed).getD 0 := h
      rw [bodyAflush_closed ha hclosed, State.acquired_withFibres]

end Sys2Proof.Machine
end

section
/-! Ordered rounds (07 R176 to R183): the order in which a line's entries are applied, the entry that arrives, the drainer's marker, and
what the close of a round leaves in memory, with the lane that waits for an old value, and of the round's entries. -/

namespace Sys2Proof.Machine

/-! ### The order of a line's entries (07 R181) -/

section
variable {before : Entry → Entry → Bool} {e : Entry} {es : List Entry}

/-- An insertion loses nothing. -/
theorem insertEntry_perm : (insertEntry before e es).Perm (e :: es) := by
  induction es with
  | nil => exact .refl [e]
  | cons x xs ih =>
    rw [insertEntry]
    split
    · exact .refl (e :: x :: xs)
    · exact (ih.cons x).trans (.swap e x xs)

theorem sortEntries_perm : (sortEntries before es).Perm es := by
  induction es with
  | nil => exact .nil
  | cons x xs ih => exact insertEntry_perm.trans (ih.cons x)

/-- Where what does not stand before an entry stands behind it in `le`, an insertion keeps the order. -/
theorem insertEntry_pairwise {le : Entry → Entry → Prop} (htrans : ∀ a b c, le a b → le b c → le a c)
    (hyes : ∀ a b, before a b = true → le a b) (hno : ∀ a b, before a b = false → le b a) (h : es.Pairwise le) :
    (insertEntry before e es).Pairwise le := by
  induction es with
  | nil => exact List.pairwise_singleton le e
  | cons x xs ih =>
    obtain ⟨hx, hxs⟩ := List.pairwise_cons.mp h
    rw [insertEntry]
    split
    · next hb =>
      refine List.pairwise_cons.mpr ⟨fun y hy => ?_, h⟩
      rcases List.mem_cons.mp hy with rfl | hy
      · exact hyes e y hb
      · exact htrans e x y (hyes e x hb) (hx y hy)
    · next hb =>
      refine List.pairwise_cons.mpr ⟨fun y hy => ?_, ih hxs⟩
      rcases List.mem_cons.mp (insertEntry_perm.mem_iff.mp hy) with rfl | hy
      · exact hno y x (Bool.eq_false_iff.mpr hb)
      · exact hx y hy

theorem sortEntries_pairwise {le : Entry → Entry → Prop} (htrans : ∀ a b c, le a b → le b c → le a c)
    (hyes : ∀ a b, before a b = true → le a b) (hno : ∀ a b, before a b = false → le b a) : (sortEntries before es).Pairwise le := by
  induction es with
  | nil => exact .nil
  | cons x xs ih => exact insertEntry_pairwise htrans hyes hno ih

/-- Up to 16 entries of a line stand in key order, and none is lost. -/
theorem lineOrder_sorts (h : es.length ≤ 16) :
    (lineOrder es).Pairwise (fun a b => a.key.toNat ≤ b.key.toNat) ∧ (lineOrder es).Perm es := by
  unfold lineOrder
  rw [if_pos h]
  refine ⟨sortEntries_pairwise (fun _ _ _ => Nat.le_trans) (fun a b hab => ?_) (fun a b hab => ?_), sortEntries_perm⟩
  · exact Nat.le_of_lt (of_decide_eq_true hab)
  · exact Nat.le_of_not_lt (of_decide_eq_false hab)

end

/-! ### Arrival and markers (07 R176 to R178) -/

/-- A launch of a state that is set is the one that is found by its name. -/
theorem State.launch?_setLaunch {s : State} {l m : Launch} (h : s.launch? m.id = some l) : (s.setLaunch m).launch? m.id = some m := by
  have hid := State.launch?_id h
  have hname : (fun k : Launch => k.id == m.id) ∘ (fun k => if k.id == m.id then m else k) = fun k => k.id == m.id := by
    funext k
    by_cases hk : k.id = m.id <;> simp [hk]
  unfold State.launch? at h ⊢
  rw [State.setLaunch_launches, List.find?_map, hname, h, Option.map_some, if_pos (beq_iff_eq.mpr hid)]

theorem State.launch?_congr {s t : State} {i : Nat} (h : t.launches = s.launches) : t.launch? i = s.launch? i := by
  unfold State.launch?
  rw [h]

theorem execCartEntryArrival_arrives {s : State} {e : Entry} (he : e ∈ s.entries) (hid : e.id = s.ev.op) :
    ∃ t, exec .cartEntryArrival s = .next t ∧ { e with arrived := true } ∈ t.entries ∧ t = { s with entries := t.entries } :=
  ⟨_, rfl, List.mem_map.mpr ⟨e, he, if_pos (beq_iff_eq.mpr hid)⟩, rfl⟩

theorem State.markerDue_iff {s : State} {l : Launch} {d : Nat} : s.markerDue l d = true
    ↔ d < l.drainers ∧ l.markersOf d ≤ l.closed ∧ ∀ t ∈ l.drainerTeams d, s.teamEnded l t l.closed = true := by
  simp only [State.markerDue, Bool.and_eq_true, decide_eq_true_eq, List.all_eq_true, and_assoc]

theorem execDrainerMarker_due {s : State} {l : Launch} (hl : s.launch? s.ev.launch = some l) (hd : s.markerDue l s.ev.team = true) :
    exec .drainerMarker s = .next (s.setLaunch (l.sendMarker s.ev.team)) := by
  show execDrainerMarker s = _
  unfold execDrainerMarker
  rw [hl]
  exact if_pos hd

/-! ### One entry applied at its mill (07 R182, R183) -/

section
variable {s : State} {who : Who} {e : Entry}

/-- The old value at an entry's location: the bytes of the line at its home slice. -/
abbrev State.entryOld (s : State) (e : Entry) : Nat := lineBytes (s.mem.l2Fill (e.pa / 64)).1.data (e.pa % 64) e.op.bytes

/-- Memory after an entry has been applied: where it writes, its bytes are merged into the line and its page is granted. -/
def State.entryMem (s : State) (e : Entry) : MemSys :=
  match e.op.new (s.entryOld e) with
  | some v => ((s.mem.l2Fill (e.pa / 64)).2.l2Write (e.pa / 64) (byteMask (e.pa % 64) e.op.bytes)
      (lineOf (e.pa % 64) e.op.bytes v)).grant e.leaf (pageOf e.va)
  | none => (s.mem.l2Fill (e.pa / 64)).2

theorem State.entryMem_writes {v : Nat} (h : e.op.new (s.entryOld e) = some v) : s.entryMem e
    = ((s.mem.l2Fill (e.pa / 64)).2.l2Write (e.pa / 64) (byteMask (e.pa % 64) e.op.bytes)
        (lineOf (e.pa % 64) e.op.bytes v)).grant e.leaf (pageOf e.va) := by
  unfold State.entryMem
  rw [h]

theorem State.entryMem_keeps (h : e.op.new (s.entryOld e) = none) : s.entryMem e = (s.mem.l2Fill (e.pa / 64)).2 := by
  unfold State.entryMem
  rw [h]

theorem applyEntry_home (h : AtHome s who.fibre (e.pa / 64)) :
    (applyEntry who e).run s = .ok (s.entryOld e, s.withMem (s.entryMem e)) := by
  unfold applyEntry
  rw [bind_ok (l2Read_home h)]
  dsimp only
  split
  · next v hnew => rw [State.entryMem_writes hnew]; exact bind_ok (l2Store_home (h.l2Fill _))
  · next hnew => rw [State.entryMem_keeps hnew]; rfl

theorem applyLine_singleton (h : AtHome s who.fibre (e.pa / 64)) :
    (applyLine who [e]).run s = .ok ([(e, some (s.entryOld e))], s.withMem (s.entryMem e)) := by
  unfold applyLine
  rw [bind_get, applyEntry_home h]
  rfl

end

/-! ### What a lane receives (07 R183; log 26) -/

section
variable {s : State} {e : Entry} {f : Fibre} {v : Nat}

/-- A fibre whose destination that waits for an entry has received its old value. -/
def Fibre.received (f : Fibre) (e : Entry) (v : Nat) : Fibre :=
  { f with pend := f.pend.map (fun p => if p.ordered = some e.id then { p with vals := words (e.op.bytes / 4) v, ordered := none } else p) }

theorem State.giveResult_dest (hd : e.dest = true) (hf : s.fibre? e.fibre = some f) :
    s.giveResult (e, some v) = s.setFibre (f.received e v) := by
  simp [State.giveResult, Fibre.received, hd, hf]

theorem State.giveResult_noDest (hd : e.dest = false) : s.giveResult (e, some v) = s := by
  simp [State.giveResult, hd]

theorem State.giveResult_same (hf : s.fibre? e.fibre = some f) :
    s.giveResult (e, some v) = { s with fibres := (s.giveResult (e, some v)).fibres } := by
  cases hd : e.dest with
  | true => rw [State.giveResult_dest hd hf]; rfl
  | false => rw [State.giveResult_noDest hd]

theorem State.giveResult_mem (hf : s.fibre? e.fibre = some f) : (s.giveResult (e, some v)).mem = s.mem := by
  rw [State.giveResult_same hf]

theorem State.giveResult_entries (hf : s.fibre? e.fibre = some f) : (s.giveResult (e, some v)).entries = s.entries := by
  rw [State.giveResult_same hf]

theorem State.giveResult_launches (hf : s.fibre? e.fibre = some f) : (s.giveResult (e, some v)).launches = s.launches := by
  rw [State.giveResult_same hf]

theorem State.giveResult_fibre? (hf : s.fibre? e.fibre = some f) :
    (s.giveResult (e, some v)).fibre? f.id = some (if e.dest then f.received e v else f) := by
  have hid := State.fibre?_id hf
  rw [← hid] at hf
  cases hd : e.dest with
  | true => rw [State.giveResult_dest hd (hid ▸ hf)]; exact State.fibre?_setFibre_self (g := f.received e v) hf
  | false => rw [State.giveResult_noDest hd]; exact hf

end

theorem State.fibre?_congr {s t : State} (h : t.fibres = s.fibres) (i : FibreId) : t.fibre? i = s.fibre? i := by
  unfold State.fibre?
  rw [h]

/-! ### The close (07 R181 to R183) -/

section
variable {s t : State} {l : Launch}

/-- The device after a round has closed over the results of its entries: they are handed out, the entries are gone, and the next
round is open. -/
def State.roundClosed (s : State) (l : Launch) (rs : List (Entry × Option Nat)) : State :=
  let u := rs.foldl State.giveResult s
  ({ u with entries := u.entries.filter (fun e => !(e.launch == l.id && e.round == l.closed)) } : State).setLaunch
    { l with closed := l.closed + 1 }

@[simp] theorem State.roundClosed_mem (rs : List (Entry × Option Nat)) : (s.roundClosed l rs).mem = (rs.foldl State.giveResult s).mem := rfl
@[simp] theorem State.roundClosed_fibres (rs : List (Entry × Option Nat)) :
    (s.roundClosed l rs).fibres = (rs.foldl State.giveResult s).fibres := rfl
@[simp] theorem State.roundClosed_entries (rs : List (Entry × Option Nat)) : (s.roundClosed l rs).entries
    = (rs.foldl State.giveResult s).entries.filter (fun e => !(e.launch == l.id && e.round == l.closed)) := rfl
@[simp] theorem State.dropAnswers_mem (s : State) : s.dropAnswers.mem = s.mem := rfl
@[simp] theorem State.dropAnswers_fibres (s : State) : s.dropAnswers.fibres = s.fibres := rfl
@[simp] theorem State.dropAnswers_launches (s : State) : s.dropAnswers.launches = s.launches := rfl
@[simp] theorem State.dropAnswers_entries (s : State) : s.dropAnswers.entries = s.entries := rfl

theorem closeRound_empty (h : s.roundEntries l = []) : (closeRound l).run s = .ok ((), s.roundClosed l []) := by
  unfold closeRound
  rw [bind_get, h]
  rfl

theorem closeRound_singleton {e : Entry} (h : s.roundEntries l = [e]) (ha : AtHome s (coreWho s 0 l.id).fibre (e.pa / 64)) :
    (closeRound l).run s = .ok ((), (s.withMem (s.entryMem e)).roundClosed l [(e, some (s.entryOld e))]) := by
  have hline : lineOrder ([e].filter (fun x => x.pa / 64 == e.pa / 64)) = [e] := by
    simp only [List.filter_cons, beq_self_eq_true, if_true, List.filter_nil]
    rfl
  unfold closeRound
  rw [bind_get, h]
  have hone : (mapM_ ([e].map (fun x => x.pa / 64)).eraseDups
      (fun n => applyLine (coreWho s 0 l.id) (lineOrder ([e].filter (fun x => x.pa / 64 == n))))).run s
      = .ok ([[(e, some (s.entryOld e))]], s.withMem (s.entryMem e)) := by
    show (mapM_ [e.pa / 64] _).run s = _
    unfold mapM_
    rw [hline, bind_ok (applyLine_singleton ha)]
    rfl
  rw [bind_ok hone]
  rfl

theorem State.attempt_ok {x : M Unit} (h : x.run s = .ok ((), t)) : s.attempt x = t.dropAnswers.wake := by
  unfold State.attempt
  rw [h]

/-- A round whose markers and entries are all there closes. -/
theorem execRoundClose_ready (hl : s.launch? s.ev.launch = some l) (hm : (l.markers.filter (fun p => l.closed < p.2)).length = l.drainers)
    (he : ∀ e ∈ s.roundEntries l, e.arrived = true) (h : (closeRound l).run s = .ok ((), t)) :
    exec .roundClose s = .next t.dropAnswers.wake := by
  have hready : s.roundReady l = true := by
    simp only [State.roundReady, Bool.and_eq_true, beq_iff_eq, List.all_eq_true]
    exact ⟨hm, he⟩
  show execRoundClose s = _
  unfold execRoundClose
  rw [hl]
  dsimp only
  rw [if_pos hready, State.attempt_ok h]

/-- The next round is open. -/
theorem State.roundClosed_launch? {rs : List (Entry × Option Nat)} (hl : s.launch? l.id = some l)
    (hrs : (rs.foldl State.giveResult s).launches = s.launches) :
    (s.roundClosed l rs).dropAnswers.wake.launch? l.id = some { l with closed := l.closed + 1 } := by
  rw [State.launch?_congr ((State.wake_launches _).trans (State.dropAnswers_launches _))]
  refine State.launch?_setLaunch (m := { l with closed := l.closed + 1 }) (l := l) ?_
  rw [← hl]
  exact State.launch?_congr hrs

end

section
variable {s : State} {l : Launch}

theorem execRoundClose_empty (hl : s.launch? s.ev.launch = some l)
    (hm : (l.markers.filter (fun p => l.closed < p.2)).length = l.drainers) (hes : s.roundEntries l = []) :
    ∃ t, exec .roundClose s = .next t ∧ t.launch? l.id = some { l with closed := l.closed + 1 } ∧ t.mem = s.mem ∧ t.fibres = s.fibres := by
  refine ⟨_, execRoundClose_ready hl hm (by simp [hes]) (closeRound_empty hes), ?next, ?mem, ?fibres⟩
  case next => exact State.roundClosed_launch? (State.launch?_id hl ▸ hl) rfl
  case mem => rw [State.wake_mem, State.dropAnswers_mem, State.roundClosed_mem, List.foldl_nil]
  case fibres => rw [State.wake_fibres, State.dropAnswers_fibres, State.roundClosed_fibres, List.foldl_nil]

/-- The close of a round of one entry applies it at its mill, hands its old value to the lane that waits for it, and drops it. -/
theorem execRoundClose_singleton {e : Entry} {f : Fibre} (hl : s.launch? s.ev.launch = some l)
    (hm : (l.markers.filter (fun p => l.closed < p.2)).length = l.drainers) (hes : s.roundEntries l = [e]) (harr : e.arrived = true)
    (hf : s.fibre? e.fibre = some f) (ha : AtHome s (coreWho s 0 l.id).fibre (e.pa / 64)) :
    ∃ t, exec .roundClose s = .next t ∧ t.launch? l.id = some { l with closed := l.closed + 1 } ∧ (∀ x ∈ t.entries, x ∈ s.entries ∧ x ≠ e) ∧
      t.fibre? f.id = some (if e.dest then f.received e (s.entryOld e) else f) ∧ t.mem = s.entryMem e := by
  have hl' : (s.withMem (s.entryMem e)).launch? l.id = some l := by rw [State.launch?_id hl]; exact hl
  have hf' : (s.withMem (s.entryMem e)).fibre? e.fibre = some f := hf
  refine ⟨_, execRoundClose_ready hl hm (by simp [hes, harr]) (closeRound_singleton hes ha),
    State.roundClosed_launch? hl' (State.giveResult_launches hf'), ?gone, ?given, ?mem⟩
  case gone =>
    intro x hx
    rw [State.wake_entries, State.dropAnswers_entries, State.roundClosed_entries, List.foldl_cons, List.foldl_nil,
      State.giveResult_entries hf'] at hx
    obtain ⟨hx, hround⟩ := List.mem_filter.mp hx
    refine ⟨hx, ?_⟩
    rintro rfl
    have hin : x ∈ s.roundEntries l := by rw [hes]; exact List.mem_singleton_self x
    rw [(List.mem_filter.mp hin).2] at hround
    exact absurd hround (by decide)
  case given =>
    rw [← State.giveResult_fibre? hf']
    refine State.fibre?_congr ?_ f.id
    rw [State.wake_fibres, State.dropAnswers_fibres, State.roundClosed_fibres, List.foldl_cons, List.foldl_nil]
  case mem =>
    rw [State.wake_mem, State.dropAnswers_mem, State.roundClosed_mem, List.foldl_cons, List.foldl_nil, State.giveResult_mem hf']
    rfl

end

/-! ### The statement -/

/-- Settles O50: an arrival marks the entry, a due marker is set, and the close is `closeRound` over no entry and over one; a line's order
is an insertion by keys. -/
theorem roundEvents : Obligations.RoundEvents := by
  unfold Obligations.RoundEvents
  refine ⟨fun s e => execCartEntryArrival_arrives, fun s l hl hd hm ht => ?marker, fun s l => execRoundClose_empty,
    fun s l e f hl hm hes harr hf ha => ?close, fun es => lineOrder_sorts⟩
  case marker => exact execDrainerMarker_due hl (State.markerDue_iff.mpr ⟨hd, hm, ht⟩)
  case close =>
    obtain ⟨t, ht, hlaunch, hentries, hfibre, hmem⟩ := execRoundClose_singleton hl hm hes harr hf ha
    exact ⟨t, ht, hlaunch, hentries, hfibre, hmem⟩

end Sys2Proof.Machine
end

section
/-! Spawned items (08 R196 to R199; 14 R286, R287, R294): the declaration of granules, the item that a spawn hands over and where it goes,
the bytes of its record, and the counts that QSTAT reads. -/

namespace Sys2Proof.Machine

/-! ### The item that is handed over (08 R196 to R198) -/

section
variable {s : State} {c : Ctx} {f x : Fibre}

/-- The item that a spawn of fibre f makes: the declaration, four registers, and the sequence number that the vein stamps on it. -/
def State.nextItem (s : State) (c : Ctx) (f : Fibre) : Item :=
  { id := s.nextId, launch := c.launch, vein := s.veinOfCore c.core, pcoff := c.target
    aseq := ((s.mem.veins[s.veinOfCore c.core]?).map Vein.aseq).getD 0, arg := f.block c.w.a.n.toNat 4, rd := f.rd, wr := f.wr
    spawner := spawnerWord f, parent := f.item.map Item.id }

/-- The device after that item has been named and stamped: the vein's next number follows. -/
def State.stamped (s : State) (c : Ctx) : State :=
  { s with
    nextId := s.nextId + 1
    mem := { s.mem with veins := updAt s.mem.veins (s.veinOfCore c.core) fun v =>
      { v with aseq := ((s.mem.veins[s.veinOfCore c.core]?).map Vein.aseq).getD 0 + 1 } } }

theorem State.acceptItem_queue (s : State) (c : Ctx) (f : Fibre) :
    s.acceptItem c f true = (s.stamped c).setCore c.core (fun k => { k with items := k.items ++ [s.nextItem c f] }) := rfl

/-- Without room in the queue the item goes to the launch's sump. -/
theorem State.acceptItem_sump {l : Launch} (hl : s.launch? c.launch = some l) :
    s.acceptItem c f false = (s.stamped c).setLaunch { l with sump := l.sump ++ [s.nextItem c f] } := by
  unfold State.acceptItem
  dsimp only
  rw [if_neg Bool.false_ne_true]
  split
  · next m hm => cases hl.symm.trans hm; rfl
  · next hm => cases hl.symm.trans hm

theorem State.acceptItem_lost (hl : s.launch? c.launch = none) : s.acceptItem c f false = s.stamped c := by
  unfold State.acceptItem
  dsimp only
  rw [if_neg Bool.false_ne_true]
  split
  · next m hm => cases hl.symm.trans hm
  · rfl

theorem State.nextItem_aseq (hv : s.veinOfCore c.core < s.mem.veins.length) :
    some (s.nextItem c f).aseq = (s.mem.veins[s.veinOfCore c.core]?).map Vein.aseq := by
  simp [State.nextItem, List.getElem?_eq_getElem hv]

theorem State.stamped_aseq (hv : s.veinOfCore c.core < s.mem.veins.length) :
    ((s.stamped c).mem.veins[s.veinOfCore c.core]?).map Vein.aseq
      = (s.mem.veins[s.veinOfCore c.core]?).map (fun v => v.aseq + 1) := by
  simp [State.stamped, updAt_getElem?, List.getElem?_eq_getElem hv]

/-- An item with room in the queue goes to its end. -/
theorem State.acceptItem_core_items (hc : c.core < s.cores.length) :
    ((s.acceptItem c f true).core c.core).items = (s.core c.core).items ++ [s.nextItem c f] := by
  simp [State.acceptItem_queue, State.stamped, State.core, updAt_getElem?, List.getElem?_eq_getElem hc]

/-- Accepting an item and replacing the fibres do not meet. -/
theorem State.acceptItem_withFibres (s : State) (c : Ctx) (f : Fibre) (queue : Bool) (fb : List Fibre) :
    (s.withFibres fb).acceptItem c f queue = (s.acceptItem c f queue).withFibres fb := by
  cases queue with
  | true => rfl
  | false =>
    cases hl : s.launch? c.launch with
    | some l => rw [State.acceptItem_sump hl, State.acceptItem_sump (s := s.withFibres fb) hl]; rfl
    | none => rw [State.acceptItem_lost hl, State.acceptItem_lost (s := s.withFibres fb) hl]; rfl

/-- An accepted item leaves the waves as they are. -/
theorem State.acceptItem_waves (s : State) (c : Ctx) (f : Fibre) (queue : Bool) : (s.acceptItem c f queue).waves = s.waves := by
  cases queue with
  | true => rfl
  | false =>
    cases hl : s.launch? c.launch with
    | some l => rw [State.acceptItem_sump hl]; rfl
    | none => rw [State.acceptItem_lost hl]; rfl

end

/-! ### Spawns (14 R287) -/

section
variable {op : Op} {s : State} {c : Ctx} {who : Who} {x : Fibre} {l : Launch} {bit : Option (Nat × Bool)}

/-- A release by a fibre that has nothing outstanding, on a core with clean L1s, changes nothing (04 R104, R127). -/
theorem release_quiet (hx : s.fibre? who.fibre = some x) (h : Quiet s who.core x) (scope : Nat) : (release who scope).run s = .ok ((), s) := by
  obtain ⟨hdues, hheld, hfwds, hclean⟩ := h
  have hid := State.fibre?_id hx
  have hopen : s.storesOpen who.fibre = false := by
    have hout : s.fwds.any (fun r => r.posted && r.fibre == who.fibre) = false := by
      refine List.any_eq_false.mpr fun r hr => ?_
      rcases hfwds r hr with hp | hf
      · simp [hp]
      · simp [← hid, hf]
    simp [State.storesOpen, State.storesOut, hx, hout, hdues, hheld]
  unfold release
  rw [bind_get, hopen]
  show (if s.wide who scope = true then _ else _ : M Unit).run s = _
  split
  · exact wbCores_clean hclean
  · rfl

/-- What the vein has accepted after the spawn of one lane: its item, unless SPAWNT has refused it. -/
def State.spawned (s : State) (c : Ctx) (x : Fibre) (queue : Bool) (bit : Option (Nat × Bool)) : State :=
  if bit.isNone || bit.any Prod.snd then s.acceptItem c x queue else s

/-- A fibre after its spawn: the declaration is consumed, and SPAWNT has written its predicate. -/
def Fibre.spawned (x : Fibre) (bit : Option (Nat × Bool)) : Fibre :=
  match bit with
  | some (k, b) => Fibre.setPred { x with rd := {}, wr := {} } k b
  | none => { x with rd := {}, wr := {} }

theorem Fibre.spawned_same (x : Fibre) (bit : Option (Nat × Bool)) : x.Same (x.spawned bit) := by
  cases bit with
  | none => exact ⟨rfl, rfl⟩
  | some p => exact Fibre.setPred_same { x with rd := {}, wr := {} } p.1 p.2

theorem State.spawned_waves (s : State) (c : Ctx) (x : Fibre) (queue : Bool) (bit : Option (Nat × Bool)) :
    (s.spawned c x queue bit).waves = s.waves := by
  unfold State.spawned
  split
  · exact s.acceptItem_waves c x queue
  · rfl

theorem State.spawned_withFibres (s : State) (c : Ctx) (x : Fibre) (queue : Bool) (bit : Option (Nat × Bool)) (fb : List Fibre) :
    (s.withFibres fb).spawned c x queue bit = (s.spawned c x queue bit).withFibres fb := by
  unfold State.spawned
  split
  · exact s.acceptItem_withFibres c x queue fb
  · rfl

/-- The spawn of one lane whose release finds nothing to wait for. -/
theorem spawnOne_quiet (hx : s.fibre? x.id = some x) (h : Quiet s c.core x) (queue : Bool) :
    (spawnOne c x queue bit).run s = .ok ((), (s.spawned c x queue bit).setFibre (x.spawned bit)) := by
  unfold spawnOne
  rw [bind_get, bind_ok (release_quiet (who := s.whoOf c x) hx h 3)]
  unfold State.spawned
  cases bit with
  | none => rfl
  | some p =>
    obtain ⟨k, b⟩ := p
    cases b <;> rfl

/-- Whether a core's queue takes one more item (08 R198). -/
def State.queueRoom (s : State) (core : Nat) : Bool := (s.core core).items.length < coreQueue

theorem State.decide_free_eq_queueRoom (s : State) (core : Nat) : decide (0 < coreQueue - (s.core core).items.length) = s.queueRoom core :=
  decide_eq_decide.mpr Nat.sub_pos_iff_lt

/-- A spawn of one lane is stopped by nothing where its target is in the code and, for SPAWN, the queue or the sump has room. -/
theorem spawnFault_none {b : Bool} (ha : c.act = [x]) (hx : c.lead = x) (hpc : codeOk s x.obj (c.pc + c.w.imm) = true)
    (hl : s.launch? c.launch = some l) (hroom : b = true ∨ s.queueRoom c.core = true ∨ l.sump.length + 1 ≤ l.sumpSize) :
    spawnFault b c s = none := by
  have hpc' : codeOk s c.lead.obj c.target = true := by rw [hx]; exact hpc
  unfold spawnFault
  rw [hpc', hl, ha]
  dsimp only
  rw [if_neg (by decide)]
  refine if_pos ?_
  rcases hroom with hb | hqueue | hsump
  · simp [hb]
  · have hfree : 0 < coreQueue - (s.core c.core).items.length := Nat.sub_pos_of_lt (of_decide_eq_true hqueue)
    simp [show 1 - (coreQueue - (s.core c.core).items.length) = 0 by omega]
  · have hspill : l.sump.length + (1 - (coreQueue - (s.core c.core).items.length)) ≤ l.sumpSize := by omega
    simp [hspill]

/-- What SPAWNT of a context writes: its predicate, and whether the queue has room. -/
def spawnBit (b : Bool) (c : Ctx) (s : State) : Option (Nat × Bool) := if b then some (c.w.b.n.toNat, s.queueRoom c.core) else none

theorem spawnBit_map (b : Bool) (c : Ctx) (s : State) :
    (if b then some c.w.b.n.toNat else none).map (fun k => (k, s.queueRoom c.core)) = spawnBit b c s := by
  cases b <;> rfl

/-- SPAWNT hands its item over only while the queue has room. -/
theorem State.spawned_spawnt (s : State) (c : Ctx) (x : Fibre) : s.spawned c x (s.queueRoom c.core) (spawnBit true c s)
    = if (s.core c.core).items.length < coreQueue then s.acceptItem c x true else s := by
  by_cases h : (s.core c.core).items.length < coreQueue <;> simp [State.spawned, spawnBit, State.queueRoom, h]

/-- A spawn of one lane that nothing stops. -/
theorem bodySpawn_singleton {b : Bool} (ha : c.act = [x]) (hx : s.fibre? x.id = some x) (hq : Quiet s c.core x) (hf : spawnFault b c s = none) :
    bodySpawn b c s = .ok ((s.spawned c x (s.queueRoom c.core) (spawnBit b c s)).setFibre (x.spawned (spawnBit b c s)), []) := by
  have hlane : (spawnLanes c (if b then some c.w.b.n.toNat else none) [x] (coreQueue - (s.core c.core).items.length)).run s
      = .ok ((), (s.spawned c x (s.queueRoom c.core) (spawnBit b c s)).setFibre (x.spawned (spawnBit b c s))) := by
    unfold spawnLanes
    rw [s.decide_free_eq_queueRoom c.core, spawnBit_map]
    exact bind_ok (spawnOne_quiet hx hq _)
  unfold bodySpawn perWave
  rw [hf]
  dsimp only
  rw [ha, hlane]

/-- A rule may take for granted that the one fibre of its wave is the one whose operands count for the wave. -/
theorem one_rule_of_lead {P : Ctx → State → Fibre → Prop} {G : Ctx → State → Fibre → Fibre} {U : Ctx → State → Fibre → State}
    (h : OneRule op (fun c s x => P c s x ∧ c.lead = x) G U) : OneRule op P G U :=
  fun w s wv f hi hP => h w s wv f hi ⟨hP, Solo.lead_eq hi.1⟩

/-- A spawn that nothing stops: its target is in the code, its release has nothing to wait for, and its item has a place. -/
abbrev SpawnsOne (b : Bool) (l : Launch) (c : Ctx) (s : State) (x : Fibre) : Prop :=
  codeOk s x.obj (c.pc + c.w.imm) = true ∧ s.launch? c.launch = some l ∧ Quiet s c.core x
    ∧ (b = true ∨ s.queueRoom c.core = true ∨ l.sump.length + 1 ≤ l.sumpSize)

/-- SPAWN and SPAWNT of one lane. -/
theorem spawn_rule {b : Bool} (he : ∀ w s, exec (op.instr w) s = issue op w (bodySpawn b) s) :
    OneRule op (SpawnsOne b l) (fun c s x => x.spawned (spawnBit b c s))
      (fun c s x => s.spawned c x (s.queueRoom c.core) (spawnBit b c s)) := by
  refine one_rule_of_lead (one_body_rule he (fun _ _ x _ => x.spawned_same _) (fun c s x _ => s.spawned_waves c x _ _)
    fun c s x fb h ha hx => ⟨(s.spawned c x (s.queueRoom c.core) (spawnBit b c s)).nextId, ?_⟩)
  obtain ⟨⟨hpc, hl, hq, hroom⟩, hlead⟩ := h
  have hfault : spawnFault b c (s.withFibres fb) = none := spawnFault_none ha hlead hpc hl hroom
  have hquiet : Quiet (s.withFibres fb) c.core x := hq
  rw [bodySpawn_singleton ha hx hquiet hfault, State.spawned_withFibres]
  rfl

end

/-! ### Declarations (14 R286) -/

/-- TRNG of addresses and counts within their limits. -/
theorem laneTrng_run {s : State} {c : Ctx} {x : Fibre} (hrd : (c.val64 x c.w.d).toNat < 2 ^ 51) (hwr : (c.b64 x).toNat < 2 ^ 51)
    (hrds : (rangeOf (c.val64 x c.w.d) (c.a x).toNat).count ≤ 2 ^ 21 - 1) (hwrs : (rangeOf (c.b64 x) (c.c4 x).toNat).count ≤ 2 ^ 21 - 1) :
    (laneTrng c x).run s = .ok ((), s.setFibre
      { x with rd := rangeOf (c.val64 x c.w.d) (c.a x).toNat, wr := rangeOf (c.b64 x) (c.c4 x).toNat }) := by
  have haddr {a : Nat} (h : a < 2 ^ 51) : (a / 2 ^ 51 == 0) = true := beq_iff_eq.mpr (Nat.div_eq_of_lt h)
  unfold laneTrng
  rw [bind_check (haddr hrd), bind_check (decide_eq_true hrds), bind_check (haddr hwr), bind_check (decide_eq_true hwrs)]
  rfl

/-! ### The record of an item (08 R197) -/

theorem wordBytes_length (ws : List Word) : (wordBytes ws).length = 4 * ws.length := by
  induction ws with
  | nil => rfl
  | cons w ws ih =>
    show (leBytes 4 w.toNat ++ wordBytes ws).length = _
    rw [List.length_append, leBytes_length, ih, List.length_cons]
    omega

/-- A number of n bytes is the field of a block that begins where its bytes do. -/
theorem field_leBytes {pre post : List Byte} {k n v : Nat} (hk : pre.length = k) (hv : v < 256 ^ n) :
    field (pre ++ leBytes n v ++ post) k n = v := by
  rw [field_eq_leNat, List.append_assoc, List.drop_left' hk, List.take_left' (leBytes_length n v), leNat_leBytes, Nat.mod_eq_of_lt hv]

/-- A range's word by its cases. -/
theorem Range.word_eq (r : Range) : r.word = if r.count = 0 then 0 else r.first % 2 ^ 43 + 2 ^ 43 * (r.count % 2 ^ 21) := by
  simp only [Range.word, beq_iff_eq]

/-- A range's word has 64 bits. -/
theorem Range.word_lt (r : Range) : r.word < 256 ^ 8 := by
  rw [r.word_eq]
  split <;> omega

section
variable (x : Item)

theorem Item.record_length (h : x.arg.length = 4) : x.record.length = 48 := by
  show (leBytes 4 _ ++ leBytes 4 _ ++ wordBytes x.arg ++ leBytes 8 _ ++ leBytes 8 _ ++ leBytes 8 _).length = 48
  simp only [List.length_append, leBytes_length, wordBytes_length, h]

theorem Item.record_pcoff : field x.record 0 4 = x.pcoff.toNat := by
  have h := field_leBytes (pre := []) (k := 0) (post := leBytes 4 x.aseq.toNat ++ wordBytes x.arg ++ leBytes 8 x.rd.word ++ leBytes 8 x.wr.word
    ++ leBytes 8 x.spawner.toNat) rfl (show x.pcoff.toNat < 256 ^ 4 from x.pcoff.isLt)
  rw [← h]
  simp only [Item.record, wordBytes, List.append_assoc, List.nil_append]

theorem Item.record_aseq : field x.record 4 4 = x.aseq.toNat := by
  have h := field_leBytes (post := wordBytes x.arg ++ leBytes 8 x.rd.word ++ leBytes 8 x.wr.word ++ leBytes 8 x.spawner.toNat)
    (leBytes_length 4 x.pcoff.toNat) (show x.aseq.toNat < 256 ^ 4 from x.aseq.isLt)
  rw [← h]
  simp only [Item.record, wordBytes, List.append_assoc]

theorem Item.record_rd (h : x.arg.length = 4) : field x.record 24 8 = x.rd.word := by
  have hpre : (leBytes 4 x.pcoff.toNat ++ leBytes 4 x.aseq.toNat ++ wordBytes x.arg).length = 24 := by
    simp only [List.length_append, leBytes_length, wordBytes_length, h]
  have hf := field_leBytes (post := leBytes 8 x.wr.word ++ leBytes 8 x.spawner.toNat) hpre x.rd.word_lt
  rw [← hf]
  simp only [Item.record, wordBytes, List.append_assoc]

theorem Item.record_spawner (h : x.arg.length = 4) : field x.record 40 8 = x.spawner.toNat := by
  have hpre : (leBytes 4 x.pcoff.toNat ++ leBytes 4 x.aseq.toNat ++ wordBytes x.arg ++ leBytes 8 x.rd.word ++ leBytes 8 x.wr.word).length = 40 := by
    simp only [List.length_append, leBytes_length, wordBytes_length, h]
  have hf := field_leBytes (post := []) hpre (show x.spawner.toNat < 256 ^ 8 from x.spawner.isLt)
  rw [← hf]
  simp only [Item.record, wordBytes, List.append_assoc, List.append_nil]

end

/-! ### The counts (14 R294) -/

section
variable {s t : State} {c : Ctx} {x : Fibre}

/-- Setting fibres gives no fibre another name. -/
theorem State.setFibres_ids (s : State) (fs : List Fibre) : (s.setFibres fs).fibres.map Fibre.id = s.fibres.map Fibre.id := by
  unfold State.setFibres
  refine foldl_keeps (p := fun t : State => t.fibres.map Fibre.id) (fun t g => ?_) fs s
  rw [State.setFibre_fibres, List.map_map]
  refine List.map_congr_left fun y _ => ?_
  by_cases hy : y.id = g.id <;> simp [hy]

/-- Free slots are counted by the names of the fibres. -/
theorem State.freeItemSlots_congr (hi : t.fibres.map Fibre.id = s.fibres.map Fibre.id) (hc : t.itemCrews = s.itemCrews) (launch core : Nat) :
    t.freeItemSlots launch core = s.freeItemSlots launch core := by
  have hcount (u : State) (k : CrewId) : (u.fibres.filter (fun f => f.id.crew == k)).length
      = ((u.fibres.map Fibre.id).filter (fun i => i.crew == k)).length := by
    rw [List.filter_map, List.length_map]
    rfl
  simp only [State.freeItemSlots, hcount, hi, hc]

theorem State.begun_freeItemSlots (s : State) (c : Ctx) (launch core : Nat) :
    (s.begun c).freeItemSlots launch core = s.freeItemSlots launch core :=
  State.freeItemSlots_congr (s.setFibres_ids c.all) (s.setFibres_itemCrews c.all) launch core

/-- What QSTAT reads for each selector. -/
def State.qstat (s : State) (c : Ctx) (k : Word) : Nat :=
  let n := (s.core c.core).items.length
  if k = 0 then n else if k = 1 then 256 - n
  else if k = 2 then min (((s.launch? c.launch).map (fun l => l.sump.length)).getD 0) 0xFFFFFFFF else s.freeItemSlots c.launch c.core

theorem laneQstat_run (h : (c.a x).toNat ≤ 3) :
    (laneQstat c x).run s = .ok ((), s.setFibre (c.putD x (BitVec.ofNat 32 (s.qstat c (c.a x))))) := by
  unfold laneQstat
  rw [bind_get]
  dsimp only
  rw [bind_check (decide_eq_true h)]
  generalize c.a x = k at h ⊢
  obtain rfl | rfl | rfl | rfl : k = 0 ∨ k = 1 ∨ k = 2 ∨ k = 3 := by bv_omega
  all_goals rfl

/-- QSTAT delivers the count that its selector names. -/
theorem qstat_rule : OneRule .qstat (fun c _ x => (c.a x).toNat ≤ 3) (fun c s x => c.putD x (BitVec.ofNat 32 (s.qstat c (c.a x))))
    (fun _ s _ => s) := by
  intro w s wv f h hk
  have hcounts (k : Word) : (s.begun (soloCtx .qstat w s wv f)).qstat (soloCtx .qstat w s wv f) k = s.qstat (soloCtx .qstat w s wv f) k := by
    unfold State.qstat
    rw [State.begun_freeItemSlots, begun_eq]
    rfl
  have hrun := laneQstat_run (s := s.begun (soloCtx .qstat w s wv f)) hk
  rw [hcounts] at hrun
  obtain ⟨hid, hgroup⟩ := (soloCtx .qstat w s wv f).putD_same (f.issued (s.fallOf f.pc)) (BitVec.ofNat 32 (s.qstat _ _)) 0
  exact ends_lane h hrun hid (hgroup.trans h.group) rfl (setFibres_waves _ s) (setFibres_same _ s)

end

/-! ### The statement -/

/-- Settles O36: a spawn of one lane is the release, which finds nothing, then the item and the fibre without its declaration; the item goes
to the end of the queue with the vein's number; the record's fields stand where its parts begin; QSTAT reads `State.qstat`. -/
theorem spawning : Obligations.Spawning := by
  unfold Obligations.Spawning
  refine ⟨?trng, fun l => ?spawn, fun l => ?spawnt, fun s c f hc hv => ?item, fun x h => ?record, qstat_rule⟩
  case trng =>
    refine one_rule (op := .trng) (g := laneTrng) (fun _ _ => rfl) (fun _ _ _ _ => ⟨rfl, rfl⟩) (fun _ _ _ _ => rfl) fun c s x fb h _ => ?_
    obtain ⟨hrd, hwr, hrds, hwrs⟩ := h
    exact laneTrng_run hrd hwr hrds hwrs
  case spawn =>
    intro w s wv f hi ⟨hpc, hl, hq, hroom⟩
    exact spawn_rule (op := .spawn) (b := false) (fun _ _ => rfl) w s wv f hi ⟨hpc, hl, hq, .inr (hroom.imp_left decide_eq_true)⟩
  case spawnt =>
    have hrule := spawn_rule (op := .spawnt) (b := true) (l := l) fun _ _ => rfl
    simp only [State.spawned_spawnt] at hrule
    intro w s wv f hi ⟨hpc, hl, hq⟩
    exact hrule w s wv f hi ⟨hpc, hl, hq, .inl rfl⟩
  case item =>
    dsimp only
    rw [State.acceptItem_core_items hc, List.getLast?_concat]
    exact ⟨List.length_append, rfl, rfl, rfl, rfl, rfl, State.nextItem_aseq hv, State.stamped_aseq hv⟩
  case record => exact ⟨x.record_length h, x.record_pcoff, x.record_aseq, (x.record_rd h).trans x.rd.word_eq, x.record_spawner h⟩

end Sys2Proof.Machine
end

section
/-! The instruction word (12 R235, R236): an operation and its opcode byte determine each other, the bytes of an instruction decode to it,
and bytes that decode are those of one instruction only. -/

namespace Sys2Proof

/-! ### Operations and opcode bytes (13 R263) -/

theorem Op.opFields_instr (op : Op) (w : Fields) : (op.instr w).opFields = some (op, w) := by cases op <;> rfl

theorem Op.ofCode_code (op : Op) : Op.ofCode op.code = some op := by cases op <;> rfl

theorem Op.code_lt_mark (op : Op) : op.code < 0xFC := by cases op <;> decide

theorem Op.code_of_mem_row {n : Nat} {r : Nat × Op} (h : r ∈ Op.row n) : r.2.code = r.1 := by
  have hrow : ∀ r ∈ Op.row n, r.2.code = r.1 := by
    unfold Op.row
    split <;> decide
  exact hrow r h

/-- The map assigns an opcode byte to one operation only. -/
theorem Op.code_of_ofCode {c : Nat} {op : Op} (h : Op.ofCode c = some op) : op.code = c := by
  obtain ⟨r, hfind, rfl⟩ := Option.map_eq_some_iff.mp h
  rw [Op.code_of_mem_row (List.mem_of_find?_eq_some hfind)]
  simpa using List.find?_some hfind

/-- An instruction that stands in a whole word is its operation's constructor on its fields. -/
theorem Instr.eq_of_opFields {i : Instr} {op : Op} {w : Fields} (h : i.opFields = some (op, w)) : i = op.instr w := by
  cases i <;> cases h <;> rfl

/-! ### Whole words (12 R235) -/

theorem isMarkByte_ofNat_eq_false {n : Nat} (h : n % 256 < 0xFC) : isMarkByte (BitVec.ofNat 8 n) = false := by
  unfold isMarkByte
  rw [BitVec.toNat_ofNat]
  exact decide_eq_false (by omega)

/-- Twelve bytes that begin with no mark decode to the instruction of their word. -/
theorem decode_word {b0 b1 : Byte} {tl : List Byte} (rest : List Byte) (hm : isMarkByte b0 = false) (hl : tl.length = 10) :
    decode (b0 :: b1 :: tl ++ rest) = .ok (decodeWord (leNat (b0 :: b1 :: tl)), rest) := by
  have hlen : ¬ (tl ++ rest).length < 10 := by rw [List.length_append]; omega
  rw [List.cons_append, List.cons_append, decode, hm, if_neg (by decide), if_neg hlen, ← hl, List.take_left, List.drop_left]

theorem decode_leBytes {n : Nat} (rest : List Byte) (hn : n < 256 ^ 12) (hm : n % 256 < 0xFC) :
    decode (leBytes 12 n ++ rest) = .ok (decodeWord n, rest) := by
  have hsplit : leBytes 12 n = BitVec.ofNat 8 n :: BitVec.ofNat 8 (n / 256) :: leBytes 10 (n / 256 / 256) := rfl
  rw [hsplit, decode_word rest (isMarkByte_ofNat_eq_false hm) (leBytes_length 10 _), ← hsplit, leNat_leBytes, Nat.mod_eq_of_lt hn]

theorem decodeWord_wordNat (op : Op) (w : Fields) : decodeWord (wordNat op.code w) = op.instr w := by
  have hlt : op.code < 256 := Nat.lt_trans op.code_lt_mark (by decide)
  unfold decodeWord
  rw [wordNat_mod _ w hlt, op.ofCode_code, Fields.ofNat_wordNat _ w hlt]

theorem decodeWord_unassigned {opc : Byte} (w : Fields) (h : Op.ofCode opc.toNat = none) :
    decodeWord (wordNat opc.toNat w) = .unassignedOpcode opc w := by
  have hmod := wordNat_mod opc.toNat w opc.isLt
  have hopc : BitVec.ofNat 8 (wordNat opc.toNat w) = opc := BitVec.eq_of_toNat_eq (by rw [BitVec.toNat_ofNat]; exact hmod)
  unfold decodeWord
  rw [hmod, h, Fields.ofNat_wordNat _ w opc.isLt, hopc]

/-- The instruction of a word is encoded as the bytes of that word. -/
theorem encode_decodeWord {n : Nat} (h : n < 256 ^ 12) : encode (decodeWord n) = some (leBytes 12 n) := by
  unfold decodeWord
  split
  · next op hop =>
    unfold encode
    rw [op.opFields_instr]
    simp only [Op.code_of_ofCode hop, wordNat_ofNat n h]
  · show some (leBytes 12 (wordNat (BitVec.ofNat 8 n).toNat (Fields.ofNat n))) = _
    rw [BitVec.toNat_ofNat, wordNat_ofNat n h]

theorem length_decodeWord (n : Nat) : Machine.length (decodeWord n) = 12 := by
  unfold decodeWord
  split
  · next op _ => cases op <;> rfl
  · rfl

/-! ### Dictionary marks (12 R246) -/

theorem decode_mark (e : BitVec 2) (x : Byte) (rest : List Byte) :
    decode (BitVec.ofNat 8 (0xFC + e.toNat) :: x :: rest) = .ok (.dictionaryMark e x, rest) := by
  have hm : ∀ e : BitVec 2, isMarkByte (BitVec.ofNat 8 (0xFC + e.toNat)) = true ∧ (BitVec.ofNat 8 (0xFC + e.toNat)).setWidth 2 = e := by decide
  rw [decode, (hm e).1, if_pos rfl, (hm e).2]

/-- A mark's low byte is 0xFC and the number of its dictionary. -/
theorem ofNat_mark {b : Byte} (h : isMarkByte b = true) : BitVec.ofNat 8 (0xFC + (b.setWidth 2).toNat) = b := by
  have hb : 0xFC ≤ b.toNat := of_decide_eq_true h
  have hlt := b.isLt
  apply BitVec.eq_of_toNat_eq
  rw [BitVec.toNat_ofNat, BitVec.toNat_setWidth]
  omega

/-! ### The statements -/

/-- Settles O3: a whole word is taken apart into the fields it was made of, and its opcode byte names its operation or, by well-formedness,
none; a mark's two bytes are its dictionary and its index. -/
theorem decodeEncode : Obligations.DecodeEncode := by
  unfold Obligations.DecodeEncode
  intro i bs rest hwf he
  unfold encode at he
  split at he
  · next op w hi =>
    obtain rfl := Option.some.inj he
    have hlt := op.code_lt_mark
    rw [decode_leBytes rest (wordNat_lt _ w (by omega)) (by rw [wordNat_mod _ w (by omega)]; exact hlt), decodeWord_wordNat,
      Instr.eq_of_opFields hi]
  split at he
  · next e x _ =>
    obtain rfl := Option.some.inj he
    exact decode_mark e x rest
  · next opc w _ =>
    obtain rfl := Option.some.inj he
    obtain ⟨hnone, hlt⟩ := (Bool.and_eq_true _ _).mp (show ((Op.ofCode opc.toNat).isNone && decide (opc.toNat < 0xFC)) = true from hwf)
    rw [decode_leBytes rest (wordNat_lt _ w opc.isLt) (by rw [wordNat_mod _ w opc.isLt]; exact of_decide_eq_true hlt),
      decodeWord_unassigned w (Option.isNone_iff_eq_none.mp hnone)]
  · cases he

/-- Settles O4: bytes that decode begin with a mark, whose two bytes are its encoding, or with twelve bytes, which are the word that the
instruction's opcode byte and fields make. -/
theorem encodeDecode : Obligations.EncodeDecode := by
  unfold Obligations.EncodeDecode
  intro bs rest i hd
  match bs, hd with
  | b0 :: b1 :: tl, hd =>
    rw [decode] at hd
    by_cases hm : isMarkByte b0 = true
    · rw [if_pos hm] at hd
      cases hd
      have he : encode (.dictionaryMark (b0.setWidth 2) b1) = some [BitVec.ofNat 8 (0xFC + (b0.setWidth 2).toNat), b1] := rfl
      exact ⟨[b0, b1], by rw [he, ofNat_mark hm], rfl, rfl⟩
    rw [if_neg hm] at hd
    by_cases hlen : tl.length < 10
    · rw [if_pos hlen] at hd
      cases hd
    · rw [if_neg hlen] at hd
      cases hd
      have htake : (b0 :: b1 :: tl.take 10).length = 12 := by simp only [List.length_cons, List.length_take]; omega
      have hword := leNat_lt (b0 :: b1 :: tl.take 10)
      have hbytes := leBytes_leNat (b0 :: b1 :: tl.take 10)
      rw [htake] at hword hbytes
      refine ⟨b0 :: b1 :: tl.take 10, ?_, ?_, htake.trans (length_decodeWord _).symm⟩
      · rw [encode_decodeWord hword, hbytes]
      · rw [List.cons_append, List.cons_append, List.take_append_drop]

/-- Settles O2: each word is decoded byte by byte. -/
theorem wordsDecode : Obligations.WordsDecode := by
  unfold Obligations.WordsDecode
  exact ⟨rfl, rfl, rfl, rfl, rfl, rfl, rfl, rfl, rfl, rfl, rfl, rfl⟩

end Sys2Proof
end

section
/-! Checks before the effect (12 R242, R243, R245): every opcode issues its word, so what befalls a word before its effect is said once for
all of them; and an issue without an active fibre only ends. -/

namespace Sys2Proof.Machine

variable {op : Op} {w : Fields} {s u : State} {wv : Wave} {fs : List Fibre} {f : Fibre} {l : Launch} {o : Object}

/-! ### Every opcode issues its word -/

/-- A state with other waves, some of them new. -/
abbrev WavesOnly (s t : State) : Prop := t = { s with waves := t.waves, nextId := t.nextId }

theorem WavesOnly.trans {s t v : State} (h : WavesOnly s t) (k : WavesOnly t v) : WavesOnly s v := by
  unfold WavesOnly at *
  rw [k, h]

theorem WavesOnly.sameBut {s t : State} (h : WavesOnly s t) : SameBut s t := by
  unfold SameBut
  rw [h]

theorem WavesOnly.fibres {s t : State} (h : WavesOnly s t) : t.fibres = s.fibres := by rw [h]

theorem State.addParts_wavesOnly (s : State) (w : Wave) (gs : List (List Fibre)) : WavesOnly s (s.addParts w gs) := by
  induction gs generalizing s with
  | nil => rfl
  | cons g gs ih =>
    unfold State.addParts
    exact WavesOnly.trans rfl (ih _)

/-- Lanes that a GLDS has sent to the runtime become waves of their own (08 R188). -/
theorem State.splitFaults_wavesOnly (before t : State) (wv : Wave) : WavesOnly t (before.splitFaults t wv) := by
  unfold State.splitFaults
  extract_lets new
  generalize t.waves.filter _ = ws
  induction ws generalizing t with
  | nil => rfl
  | cons v vs ih =>
    rw [List.foldl_cons]
    refine WavesOnly.trans ?_ (ih _)
    split
    · exact WavesOnly.trans (t := t.setWave _) rfl (State.addParts_wavesOnly _ _ _)
    · rfl

/-- The opcodes whose meaning is one issue and nothing after it. -/
theorem exec_instr (hglds : op ≠ .glds) (heret : op ≠ .eret) : ∃ body : Body, ∀ w s, exec (op.instr w) s = issue op w body s := by
  cases op
  case glds => exact absurd rfl hglds
  case eret => exact absurd rfl heret
  all_goals exact ⟨_, fun _ _ => rfl⟩

/-- Where an outcome ends, one that tells only waves apart after it ends as well. -/
theorem Ends.after_waves {x y : Host.Outcome State Fault Refusal} {after : Fibre → Fibre} (h : Ends x s fs after u)
    (hxy : ∀ t, x = .next t → ∃ v, y = .next v ∧ WavesOnly t v) : Ends y s fs after u := by
  obtain ⟨t, hx, hsame, hin, hout⟩ := h
  obtain ⟨v, hy, hv⟩ := hxy t hx
  have hlook (k : FibreId) : v.fibre? k = t.fibre? k := by unfold State.fibre?; rw [hv.fibres]
  refine ⟨v, hy, hsame.trans hv.sameBut, fun g hg => ?_, fun k hk => ?_⟩
  · rw [hlook, hin g hg]
  · rw [hlook, hout k hk]

theorem execGlds_wavesOnly {t : State} (h : issue .glds w bodyGlds s = .next t) : ∃ v, execGlds w s = .next v ∧ WavesOnly t v := by
  unfold execGlds
  rw [h]
  cases s.cur.bind s.wave? with
  | none => exact ⟨t, rfl, rfl⟩
  | some wv =>
    by_cases hdet : s.det wv.crew.launch = true
    · exact ⟨t, if_pos hdet, rfl⟩
    · exact ⟨_, if_neg hdet, s.splitFaults_wavesOnly t wv⟩

theorem execEret_wavesOnly {t : State} (h : issue .eret w bodyEret s = .next t) : ∃ v, execEret w s = .next v ∧ WavesOnly t v := by
  unfold execEret
  rw [h]
  cases s.cur.bind s.wave? with
  | none => exact ⟨t, rfl, rfl⟩
  | some wv => exact ⟨_, rfl, rfl⟩

/-- What holds of the end of an issue whatever the effect is holds of the opcode's meaning: GLDS and ERET only change waves after theirs. -/
theorem Ends.of_issue {after : Fibre → Fibre} (h : ∀ body, Ends (issue op w body s) s fs after u) :
    Ends (exec (op.instr w) s) s fs after u := by
  by_cases hglds : op = .glds
  · subst hglds
    exact (h bodyGlds).after_waves fun t ht => execGlds_wavesOnly ht
  by_cases heret : op = .eret
  · subst heret
    exact (h bodyEret).after_waves fun t ht => execEret_wavesOnly ht
  obtain ⟨body, hbody⟩ := exec_instr hglds heret
  rw [hbody]
  exact h body

/-! ### An issue whose effect is left out -/

/-- The fibres of a wave put anew under their names, looked up. -/
theorem State.fibre?_setFibres_wave (hfs : s.waveFibres wv = fs) {G : Fibre → Fibre} (hG : ∀ g, (G g).id = g.id) (k : FibreId) :
    (s.setFibres (fs.map G)).fibre? k = (s.fibre? k).map (fun g => if (fs.map Fibre.id).contains k then G g else g) := by
  have hn : (fs.map Fibre.id).Nodup := hfs ▸ s.waveFibres_nodup wv
  have hfold : s.setFibres (fs.map G) = fs.foldl (fun u g => u.setFibre (G g)) s := by
    unfold State.setFibres
    rw [List.foldl_map]
  rw [hfold, State.fibre?_foldl Fibre.id G hG fs hn]
  refine Option.map_congr fun g hg => ?_
  cases hfind : fs.find? (fun x => x.id == k) with
  | none =>
    have hout : ¬ (fs.map Fibre.id).contains k = true := by simpa using hfind
    rw [if_neg hout]
    rfl
  | some x =>
    have hx := List.mem_of_find?_eq_some hfind
    have hxk : x.id = k := by simpa using List.find?_some hfind
    have hlook := State.mem_waveFibres (hfs.symm ▸ hx : x ∈ s.waveFibres wv)
    rw [hxk, hg] at hlook
    cases hlook
    have hin : (fs.map Fibre.id).contains k = true := by simpa using ⟨g, hx, hxk⟩
    rw [if_pos hin]
    rfl

theorem begun_lookup (hfs : s.waveFibres wv = fs) (pc : Word) (k : FibreId) : (s.begun (issueCtx op w s wv fs pc)).fibre? k
    = (s.fibre? k).map (fun g => if (fs.map Fibre.id).contains k then g.issued (s.fallOf pc) else g) :=
  State.fibre?_setFibres_wave hfs (G := fun g => g.issued (s.fallOf pc)) (fun _ => rfl) k

/-- The effect starts from a calm state as well. -/
theorem begun_calm (hfs : s.waveFibres wv = fs) (hcalm : s.Calm) (pc : Word) : (s.begun (issueCtx op w s wv fs pc)).Calm :=
  ⟨fun v hv => hcalm.1 v (setFibres_waves _ s ▸ hv), begun_group hcalm _ ⟨fs, rfl, fun g hg =>
    List.mem_of_find?_eq_some (State.mem_waveFibres (hfs.symm ▸ hg : g ∈ s.waveFibres wv))⟩⟩

theorem issueCtx_ids (pc : Word) : (issueCtx op w s wv fs pc).all.map Fibre.id = fs.map Fibre.id := by
  show (fs.map _).map _ = _
  rw [List.map_map]
  rfl

/-- The fibres of a wave belong to its launch. -/
theorem State.waveFibres_launch {g : Fibre} (hg : g ∈ s.waveFibres wv) : g.id.crew.launch = wv.crew.launch := by
  obtain ⟨k, -, hk⟩ := List.mem_filterMap.mp hg
  split at hk
  · rw [State.fibre?_id hk]
  · cases hk

theorem contains_ids {g : Fibre} (hg : g ∈ fs) : (fs.map Fibre.id).contains g.id = true := by simpa using ⟨g, hg, rfl⟩

theorem contains_ids_false {k : FibreId} (hk : ∀ g ∈ fs, g.id ≠ k) : (fs.map Fibre.id).contains k = false := by simpa using hk

theorem State.openWindows_nil (s : State) (c : Ctx) : s.openWindows c [] = s := by
  unfold State.openWindows
  split <;> rfl

/-- The ways of the active fibres that are turned away. -/
def awayWays (op : Op) (w : Fields) (fs : List Fibre) (pc : Word) : List (FibreId × Way) :=
  let active := fs.filter (fun g => g.active w.guard)
  active.filterMap (fun g => (turnedAway op w pc active.head? g).map (fun x => (g.id, x)))

/-- An issue without a fibre to act on: its wave goes on, but for those that are turned away. -/
theorem issue_idle {body : Body} (hcur : s.cur.bind s.wave? = some wv) (hfs : s.waveFibres wv = fs) (hhd : fs.head? = some f)
    (hdue : s.duesAt op wv.crew.launch fs f.pc = []) (hck : decodeCheck s op w f = none) (hwait : mustWait op w fs = false)
    (hbr : ∀ g ∈ fs, breach op w g = none) (hact : (issueCtx op w s wv fs f.pc).act = [])
    (hset : op = .txoe → ∀ g ∈ fs, g.txSettled = none) (hbank : (s.bankFull wv && anyTrap (awayWays op w fs f.pc)) = false) :
    issue op w body s = .next ((s.begun (issueCtx op w s wv fs f.pc)).finish (issueCtx op w s wv fs f.pc) fs (awayWays op w fs f.pc)) := by
  obtain ⟨r, rfl⟩ : ∃ r, fs = f :: r := List.head?_eq_some_iff.mp hhd
  have hbroken : (f :: r).filterMap (fun g => (breach op w g).map (fun k => (g.id, Way.trap { cause := insnLookahead k } .atPc f.pc))) = [] :=
    List.filterMap_eq_nil_iff.mpr (fun g hg => by rw [hbr g hg]; rfl)
  have hwhole : (f :: r).filter (fun g => (breach op w g).isNone) = f :: r :=
    List.filter_eq_self.mpr (fun g hg => by rw [hbr g hg]; rfl)
  have hsettled : (op == .txoe && (f :: r).any (fun g => g.txSettled.isSome)) = false := by
    by_cases hop : op = .txoe
    · have hnone : (f :: r).any (fun g => g.txSettled.isSome) = false :=
        List.any_eq_false.mpr (fun g hg => by rw [hset hop g hg]; exact Bool.false_ne_true)
      rw [hnone, Bool.and_false]
    · rw [beq_eq_false_iff_ne.mpr hop, Bool.false_and]
  have hbk : (s.bankFull wv && anyTrap (((f :: r).filter (fun g => g.active w.guard)).filterMap
    (fun g => (turnedAway op w f.pc ((f :: r).filter (fun g => g.active w.guard)).head? g).map (fun x => (g.id, x))))) = false := hbank
  unfold issue
  simp only [hcur, hfs]
  unfold issueWave
  simp only [hdue, hck, hwait, hact, hbroken, hwhole, hsettled, hbk, List.isEmpty_nil, Bool.not_true, Bool.not_false, Bool.and_self,
    Bool.false_eq_true, if_false, if_true, List.filter_nil, List.append_nil, List.nil_append, List.map_nil, State.openWindows_nil]
  rfl

/-! ### The checks themselves (12 R243, R245; 13 R266) -/

theorem decodeCheck_privileged (hres : op.reservedSlot w = none) (hop : op.privileged = true) (hpriv : s.priv f = false) :
    decodeCheck s op w f = some (privC 0) := by
  unfold decodeCheck
  simp only [hres, hop, hpriv, Bool.not_false, Bool.and_self, if_true]

theorem decodeCheck_guard (hres : op.reservedSlot w = none) (hop : op.privileged = false) (hun : op.unguarded = true) (hg : w.guard ≠ 0) :
    decodeCheck s op w f = some insnGuard := by
  unfold decodeCheck
  simp only [hres, hop, hun, bne_iff_ne.mpr hg, Bool.false_and, Bool.and_self, Bool.false_eq_true, if_false, if_true]

/-- An opcode whose word fails a check: every fibre of its wave traps at the instruction. -/
theorem exec_check {e : Cause} (hcur : s.cur.bind s.wave? = some wv) (hfs : s.waveFibres wv = f :: fs)
    (hdue : s.duesAt op wv.crew.launch (f :: fs) f.pc = []) (hck : decodeCheck s op w f = some e) (hre : wv.reissue = false)
    (hcalm : s.Calm) (ht : Trappable s wv (f :: fs) l o) :
    Ends (exec (op.instr w) s) s (f :: fs) (fun g => g.enter l o.ringed wv.meet f.pc { cause := e } .atPc) s :=
  .of_issue fun _ => issue_check hcur hfs hdue hck hre hcalm ht

/-! ### No active fibre (12 R242) -/

theorem issue_guardedOff {body : Body} (hcur : s.cur.bind s.wave? = some wv) (hfs : s.waveFibres wv = fs) (hhd : fs.head? = some f)
    (hdue : s.duesAt op wv.crew.launch fs f.pc = []) (hck : decodeCheck s op w f = none) (hwait : mustWait op w fs = false)
    (hbr : ∀ g ∈ fs, breach op w g = none) (hoff : ∀ g ∈ fs, g.active w.guard = false)
    (hset : op = .txoe → ∀ g ∈ fs, g.txSettled = none) (hre : wv.reissue = false) (hcalm : s.Calm) :
    Ends (issue op w body s) s fs (Fibre.passed (s.fallOf f.pc)) s := by
  have hnone : fs.filter (fun g => g.active w.guard) = [] := List.filter_eq_nil_iff.mpr (fun g hg => by simp [hoff g hg])
  have haway : awayWays op w fs f.pc = [] := by
    unfold awayWays
    rw [hnone]
    rfl
  have hact : (issueCtx op w s wv fs f.pc).act = [] := by
    have hwhole : fs.filter (fun g => (breach op w g).isNone) = fs := List.filter_eq_self.mpr (fun g hg => by rw [hbr g hg]; rfl)
    simp only [issueCtx, hwhole, hnone, List.filter_nil, List.map_nil]
  rw [issue_idle hcur hfs hhd hdue hck hwait hbr hact hset (by rw [haway]; exact Bool.and_false _), haway]
  obtain ⟨hsame, hfib⟩ := State.finish_same (c := issueCtx op w s wv fs f.pc) (fs := fs) (ways := []) (tr := []) rfl
    (fun _ hp => nomatch hp) (Bool.and_false _) hre (begun_calm hfs hcalm f.pc)
  have hlook (k : FibreId) := State.fibre?_map (Fibre.settled_id _) _ _ hfib k
  simp only [issueCtx_ids, begun_lookup hfs] at hlook
  refine ⟨_, rfl, (setFibres_same _ s).trans hsame, fun g hg => ?_, fun k hk => ?_⟩
  · rw [hlook, State.mem_waveFibres (hfs.symm ▸ hg : g ∈ s.waveFibres wv)]
    have hin := contains_ids hg
    simp only [Option.map_some, hin, if_true, Fibre.settled, show (g.issued (s.fallOf f.pc)).id = g.id from rfl]
    rfl
  · have hout := contains_ids_false hk
    rw [hlook]
    cases hg : s.fibre? k with
    | none => rfl
    | some g => simp only [Option.map_some, hout, Bool.false_eq_true, if_false, Fibre.settled, State.fibre?_id hg]

/-! ### The trap of a lone fibre (28 R478) -/

/-- A wave's only fibre, as it stands once an issue has come so far, traps: it is in the runtime, and nothing else is touched. -/
theorem ends_loneTrap {s1 : State} {c : Ctx} {x : Fibre} {d : Due} {pc : Word} {after : Fibre → Fibre} (hl : s1.launch? c.launch = some l)
    (hdet : l.det = false) (hcd : c.det = l.det) (hentry : l.trapEntry.getLsbD 0 = false) (ho : s1.object? l.trapObj.toNat = some o)
    (hre : c.wv.reissue = false) (hcalm : s1.Calm) (hall : c.all.map Fibre.id = [f.id]) (hself : s1.fibre? f.id = some x)
    (hx : x.id.crew.launch = c.launch ∧ x.inTrap = none ∧ x.tx = none) (hout : ∀ k, f.id ≠ k → s1.fibre? k = s.fibre? k)
    (hu : SameBut u s1) (hafter : x.enter l o.ringed c.wv.meet pc d .atPc = after f) :
    Ends (.next (s1.finish c [f] [(f.id, .trap d .atPc pc)])) s [f] after u := by
  have hid := State.fibre?_id hself
  have hone : ∀ g ∈ [x], s1.fibre? g.id = some g ∧ g.id.crew.launch = c.launch ∧ g.inTrap = none ∧ g.tx = none := by
    intro g hg
    cases List.mem_singleton.mp hg
    exact ⟨by rw [hid, hself], hx⟩
  obtain ⟨t, rfl, hend, hlook⟩ := finish_traps (orig := [f]) (gs := [x]) (D := fun _ => d) (R := fun _ => .atPc) (pc := pc) hl hdet hcd hentry ho
    (List.nodup_cons.mpr ⟨List.not_mem_nil, List.nodup_nil⟩) (fun g hg => (hone g hg).1) (fun g hg => (hone g hg).2) hre hcalm.1 hcalm.2
  simp only [List.map_cons, List.map_nil, hid, hall] at hend hlook
  refine ⟨_, rfl, hu.trans hend, fun g hg => ?_, fun k hk => ?_⟩
  · cases List.mem_singleton.mp hg
    rw [hlook, hself, Option.map_some, if_pos (by simp), hafter]
  · have hne := hk f List.mem_cons_self
    rw [hlook, hout k hne]
    cases hg : s.fibre? k with
    | none => rfl
    | some g => simp [Fibre.settled, State.fibre?_id hg, hne.symm]

/-! ### A poisoned operand (32 R517) -/

/-- A lone active fibre of which nothing but a poisoned operand is said is turned away with SYS.UNCORR. -/
theorem turnedAway_badRead {pc : Word} (htx : f.tx = none) (hitem : (f.isItem && op.teamOnly) = false) (hlab : f.labels = [])
    (hbad : f.badRead f op w = true) : turnedAway op w pc (some f) f = some (.trap { cause := sysUncorr } .atPc pc) := by
  unfold turnedAway
  simp [htx, hitem, hlab, hbad]

/-- The trap is then the only way of the wave, and no fibre is left to act. -/
theorem badRead_idle (hbr : breach op w f = none) (hact : f.active w.guard = true)
    (hturn : turnedAway op w f.pc (some f) f = some (.trap { cause := sysUncorr } .atPc f.pc)) :
    awayWays op w [f] f.pc = [(f.id, .trap { cause := sysUncorr } .atPc f.pc)] ∧ (issueCtx op w s wv [f] f.pc).act = [] := by
  refine ⟨?_, ?_⟩
  · simp only [awayWays, List.filter_cons, hact, if_true, List.filter_nil, List.head?_cons, List.filterMap_cons, hturn, Option.map_some,
      List.filterMap_nil]
  · simp only [issueCtx, List.filter_cons, hbr, Option.isNone_none, hact, if_true, List.filter_nil, List.head?_cons, hturn,
      Option.isNone_some, Bool.false_eq_true, if_false, List.map_nil]

theorem issue_badRead {body : Body} (hcur : s.cur.bind s.wave? = some wv) (hfs : s.waveFibres wv = [f])
    (hdue : s.duesAt op wv.crew.launch [f] f.pc = []) (hck : decodeCheck s op w f = none) (hwait : mustWait op w [f] = false)
    (hbr : breach op w f = none) (hact : f.active w.guard = true) (hlab : f.labels = []) (hitem : (f.isItem && op.teamOnly) = false)
    (hset : f.txSettled = none) (hbad : f.badRead f op w = true) (hre : wv.reissue = false) (hcalm : s.Calm)
    (ht : Trappable s wv [f] l o) :
    Ends (issue op w body s) s [f]
      (fun g => (g.issued (s.fallOf f.pc)).enter l o.ringed wv.meet f.pc { cause := sysUncorr } .atPc) s := by
  obtain ⟨hl, hdet, hentry, ho, hbank, hfree⟩ := ht
  obtain ⟨htrap, htx⟩ := hfree f List.mem_cons_self
  obtain ⟨haway, hnone⟩ := badRead_idle (s := s) (wv := wv) hbr hact (turnedAway_badRead htx hitem hlab hbad)
  have hone {P : Fibre → Prop} (h : P f) : ∀ g ∈ [f], P g := fun g hg => by rwa [List.mem_singleton.mp hg]
  rw [issue_idle hcur hfs rfl hdue hck hwait (hone hbr) hnone (fun _ => hone hset) (by rw [hbank]; rfl), haway]
  have hwf : f ∈ s.waveFibres wv := hfs.symm ▸ List.mem_cons_self
  have hlaunch := State.waveFibres_launch hwf
  have hself : (s.begun (issueCtx op w s wv [f] f.pc)).fibre? f.id = some (f.issued (s.fallOf f.pc)) := by
    rw [begun_lookup hfs, State.mem_waveFibres hwf, Option.map_some, contains_ids List.mem_cons_self, if_pos rfl]
  refine ends_loneTrap (l := l) (o := o) ?_ hdet ?_ hentry ?_ hre (begun_calm hfs hcalm f.pc) (issueCtx_ids f.pc) hself
    ⟨hlaunch, htrap, htx⟩ (fun k hk => ?_) (setFibres_same _ s) rfl
  · rw [State.launch?, State.begun, State.setFibres_launches]
    exact hl
  · show s.det _ = _
    simp only [State.det, hl, Option.map_some, Option.getD_some]
  · rw [State.object?, State.begun, State.setFibres_objects]
    exact ho
  · rw [begun_lookup hfs, contains_ids_false (by simpa using hk)]
    exact Option.map_id'

/-! ### The statements -/

/-- Settles O25: a failed check traps before the effect, whatever the effect is, and what is no instruction has no other effect; a
poisoned operand turns the only active fibre away, so that the effect is left out and its way is the trap. -/
theorem failedChecksTrap : Obligations.FailedChecksTrap := by
  unfold Obligations.FailedChecksTrap
  refine ⟨?check, ?privileged, ?noInstruction, ?poisoned⟩
  case check =>
    intro op w s wv fs f e l o hcur hfs hdue hre hcalm ht hck
    exact exec_check hcur hfs hdue hck hre hcalm ht
  case privileged =>
    intro op w s f hres hop hpriv
    exact decodeCheck_privileged hres hop hpriv
  case noInstruction =>
    intro s wv fs f l o b w hcur hfs hdue hre hcalm ht
    exact ⟨fail_ends hcur hfs hdue hre hcalm ht, fail_ends hcur hfs hdue hre hcalm ht⟩
  case poisoned =>
    intro op w s wv f l o hcur hfs hdue hck hwait hbr hact hlab hitem hset hbad hre hcalm ht
    exact .of_issue fun _ => issue_badRead hcur hfs hdue hck hwait hbr hact hlab hitem hset hbad hre hcalm ht

/-- Settles O26: none of the seven opcodes is privileged, so that the guard is the first check a word without reserved bits fails. -/
theorem unguardedOpcodes : Obligations.UnguardedOpcodes := by
  unfold Obligations.UnguardedOpcodes
  intro op hop w s wv fs f l o hcur hfs hdue hre hcalm ht hres hg
  have hclass : ∀ op ∈ [Op.rgn, .meet, .acq, .shed, .bar, .gbar, .aflush], op.privileged = false ∧ op.unguarded = true := by decide
  obtain ⟨hpriv, hun⟩ := hclass op hop
  exact exec_check hcur hfs hdue (decodeCheck_guard hres hpriv hun hg) hre hcalm ht

/-- Settles O27: with no active fibre the effect is left out and no lane goes another way, so that the issue only ends. -/
theorem guardedOff : Obligations.GuardedOff := by
  unfold Obligations.GuardedOff
  intro op w s wv fs f hcur hfs hhd hdue hck hwait hbr hoff hset hre hcalm
  exact .of_issue fun _ => issue_guardedOff hcur hfs hhd hdue hck hwait hbr hoff hset hre hcalm

end Sys2Proof.Machine
end

section
/-! What comes to a wave or a team (12 R248; 08 R185; 14 R293; 06 R162; 18 R375; 28 R471, R475): long results, waits that end, tile
completions and their deferred faults, walks, and translations that an uncorrectable error has marked. -/

namespace Sys2Proof.Machine

variable {s u : State} {w wv : Wave} {f : Fibre} {l : Launch} {o : Object} {d : Due}

/-! ### A wave as it is looked up after an update -/

theorem State.wave?_id {i : Nat} (h : s.wave? i = some w) : w.id = i := by simpa using List.find?_some h

/-- The wave of a name that is set is the one that is found by that name. -/
theorem State.wave?_setWave {i : Nat} {v : Wave} (h : s.wave? i = some w) (hid : v.id = w.id) : (s.setWave v).wave? i = some v := by
  obtain rfl := State.wave?_id h
  have hpred : (fun x : Wave => x.id == w.id) ∘ (fun x => if x.id == v.id then v else x) = fun x => x.id == w.id := by
    funext x
    by_cases hx : x.id = v.id
    · simp [hx]
    · simp [hx, ← hid]
  rw [State.wave?, State.setWave_waves, List.find?_map, hpred]
  unfold State.wave? at h
  rw [h, Option.map_some, if_pos (by simp [hid])]

/-! ### Long results (12 R248) -/

/-- A result that has come is written, and pends no more. -/
theorem Fibre.deliverPend_eq {k : Nat} {p : Pend} (hp : f.pend[k]? = some p) (ho : p.ordered = none) :
    f.deliverPend k = { f.writePend p with pend := f.pend.eraseIdx k } := by
  unfold Fibre.deliverPend
  rw [hp]
  exact if_neg (by simp [ho])

theorem execLongResultWrite_eq (hf : s.fibre? s.ev.fibre = some f) (hon : s.onCore f.id.crew = true) :
    execLongResultWrite s = .next (s.setFibre (f.deliverPend s.ev.choice)).wake := by
  unfold execLongResultWrite
  rw [hf]
  exact if_pos hon

/-! ### Waits that end (08 R185; 14 R293; 06 R162) -/

theorem issue_next {op : Op} {x : Fields} {body : Body} (hcur : s.cur.bind s.wave? = some wv) (hne : s.waveFibres wv ≠ []) :
    ∃ t, issue op x body s = .next t := by
  unfold issue
  rw [hcur]
  dsimp only
  split
  · next h => exact absurd h hne
  · exact ⟨_, rfl⟩

/-- An opcode of a wave that has fibres is always carried out. -/
theorem exec_next {op : Op} {x : Fields} (hcur : s.cur.bind s.wave? = some wv) (hne : s.waveFibres wv ≠ []) :
    ∃ t, exec (op.instr x) s = .next t := by
  by_cases hglds : op = .glds
  · subst hglds
    obtain ⟨t, ht⟩ := issue_next hcur hne
    exact (execGlds_wavesOnly ht).imp fun _ h => h.1
  by_cases heret : op = .eret
  · subst heret
    obtain ⟨t, ht⟩ := issue_next hcur hne
    exact (execEret_wavesOnly ht).imp fun _ h => h.1
  obtain ⟨body, hbody⟩ := exec_instr hglds heret
  rw [hbody]
  exact issue_next hcur hne

theorem State.wave?_arrive {i : Nat} {lanes : Word} (h : s.wave? i = some w) (hw : w.wait = some .gather) :
    (s.arrive i lanes).wave? i = some { w with arrived := w.arrived ||| lanes, stalled := false } := by
  unfold State.arrive
  rw [h]
  dsimp only
  rw [if_pos (by simp [hw])]
  exact State.wave?_setWave h rfl

/-- A wave that waits for what has come issues the instruction at its PC again. -/
theorem State.again_eq {k n : Nat} {why : Wait} {run : Instr → State → Host.Outcome State Fault Refusal} {i : Instr} {t : State}
    (hw : s.wave? k = some w) (hwait : w.wait = some why) (hrun : s.running w = true) (hrt : s.inRuntime w = false)
    (hne : s.waveFibres w ≠ []) (hfetch : s.fetch w = (i, n)) (hexec : run i { s with cur := some k, ilen := n } = .next t) :
    s.again k why run = .next { t with cur := none } := by
  have hissues : (w.wait != some why || !s.running w || s.inRuntime w || (s.waveFibres w).isEmpty) = false := by
    simp [hwait, hrun, hrt, hne]
  unfold State.again
  rw [hw]
  dsimp only
  rw [hissues, if_neg Bool.false_ne_true, hfetch]
  dsimp only
  rw [hexec]

/-- An event that has a wave issue its instruction again does what the instruction does. -/
theorem again_issues {k n : Nat} {why : Wait} {run : Instr → State → Host.Outcome State Fault Refusal} {op : Op} {x : Fields} {ev : Instr}
    (hev : exec ev s = u.again k why run) (hrun : ∀ t, run (op.instr x) t = exec (op.instr x) t)
    (hw : u.wave? k = some w) (hwait : w.wait = some why) (hr : u.running w = true) (hrt : u.inRuntime w = false)
    (hne : u.waveFibres w ≠ []) (hfetch : u.fetch w = (op.instr x, n)) :
    ∃ t, exec (op.instr x) { u with cur := some k, ilen := n } = .next t ∧ exec ev s = .next { t with cur := none } := by
  obtain ⟨t, ht⟩ := exec_next (s := { u with cur := some k, ilen := n }) hw hne
  exact ⟨t, ht, hev.trans (State.again_eq hw hwait hr hrt hne hfetch ((hrun _).trans ht))⟩

/-! ### Tile instructions (18 R375) -/

theorem execMatrixOpComplete_eq {p : TileOp} (hp : s.tileOps.find? (fun p => p.id == s.ev.op) = some p) :
    execMatrixOpComplete s = .next (s.completeTile p).wake := by
  unfold execMatrixOpComplete
  rw [hp]

theorem State.completeTile_mem (s : State) (p : TileOp) : (s.completeTile p).mem = s.mem := by
  unfold State.completeTile
  split <;> rfl

theorem State.completeTile_tileOps (s : State) (p : TileOp) : (s.completeTile p).tileOps = s.tileOps.filter (fun q => q.id != p.id) := by
  unfold State.completeTile
  split <;> rfl

theorem State.completeTile_fibres (s : State) (p : TileOp) : (s.completeTile p).fibres
    = s.fibres.map (fun g => if p.fibres.contains g.id then
        { g with fpstat := fpstatOr g.fpstat p.flags
                 dues := g.dues ++ (p.fault.map (fun d => ({ d with kind := 3, info0 := p.pc }, Resume.atPc))).toList } else g) := by
  unfold State.completeTile
  split <;> rfl

theorem State.completeTile_team? {p : TileOp} {t : Team} (h : s.team? p.launch p.team = some t) :
    (s.completeTile p).team? p.launch p.team = some { t with tiles := p.writes.foldl (fun ts q =>
      ts.set q.1 { q.2 with poison := (q.2.poison ++ (ts.getD q.1 {}).poisonFrom q.2.size).eraseDups }) t.tiles } := by
  unfold State.completeTile
  rw [h]
  exact State.team?_setTeam h rfl rfl

/-! ### A deferred fault taken (18 R375; 28 R479) -/

theorem State.team?_withdraw (s : State) (i k t : Nat) :
    (s.withdraw i).team? k t = (s.team? k t).map (fun u => { u with sheds := u.sheds.filter (fun r => r.1 != i) }) := by
  unfold State.team? State.withdraw
  rw [List.find?_map]
  rfl

theorem State.coreOf_withdraw (s : State) (i : Nat) (c : CrewId) : (s.withdraw i).coreOf c = s.coreOf c := by
  cases c with
  | team k t n =>
    unfold State.coreOf
    dsimp only
    rw [State.team?_withdraw, Option.map_map]
    rfl
  | item k core n => rfl

theorem State.placeOf?_withdraw (s : State) (i : Nat) (c : CrewId) : (s.withdraw i).placeOf? c = s.placeOf? c := by
  cases c with
  | team k t n =>
    unfold State.placeOf?
    dsimp only
    rw [State.team?_withdraw, Option.bind_map]
    rfl
  | item k core n => rfl

/-- Whether any of a wave's fibres is in the runtime is told by that of each. -/
theorem State.waveFibres_any_inTrap {s t : State} (h : ∀ k, (t.fibre? k).map Fibre.inTrap = (s.fibre? k).map Fibre.inTrap) (v : Wave) :
    (t.waveFibres v).any (fun f => f.inTrap.isSome) = (s.waveFibres v).any (fun f => f.inTrap.isSome) := by
  have hmap : (t.waveFibres v).map Fibre.inTrap = (s.waveFibres v).map Fibre.inTrap := by
    unfold State.waveFibres
    rw [List.map_filterMap, List.map_filterMap]
    refine congrArg (fun lane => (List.range 32).filterMap lane) (funext fun k => ?_)
    split
    · exact h _
    · rfl
  have hany (gs : List Fibre) : gs.any (fun f => f.inTrap.isSome) = (gs.map Fibre.inTrap).any Option.isSome := by rw [List.any_map]; rfl
  rw [hany, hany, hmap]

/-- The room in the trap bank hangs on the waves, on where their crews are, and on which fibres are in the runtime. -/
theorem State.bankFull_congr {s t : State} (hw : t.waves = s.waves) (hc : ∀ c, t.coreOf c = s.coreOf c) (hp : ∀ c, t.placeOf? c = s.placeOf? c)
    (hf : ∀ k, (t.fibre? k).map Fibre.inTrap = (s.fibre? k).map Fibre.inTrap) (v : Wave) : t.bankFull v = s.bankFull v := by
  unfold State.bankFull State.bankUse
  simp only [hw, hc, hp, State.waveFibres_any_inTrap hf]

/-- The state in which a wave of one fibre takes the only fault that is due in it. -/
def State.takingDues (s : State) (w : Wave) (f : Fibre) : State := (s.setFibre { f with dues := [] }).withdraw w.id

theorem State.fibre?_takingDues (s : State) (w : Wave) (f : Fibre) (k : FibreId) :
    (s.takingDues w f).fibre? k = (s.fibre? k).map (fun g => if g.id == f.id then { f with dues := [] } else g) :=
  State.fibre?_setFibre s { f with dues := [] } k

theorem State.takingDues_bankFull (hf : s.fibre? f.id = some f) (v : Wave) : (s.takingDues w f).bankFull v = s.bankFull v := by
  refine State.bankFull_congr (s := s) (t := s.takingDues w f) rfl (State.coreOf_withdraw (s.setFibre _) w.id)
    (State.placeOf?_withdraw (s.setFibre _) w.id) (fun k => ?_) v
  rw [State.fibre?_takingDues, Option.map_map]
  refine Option.map_congr fun g hg => ?_
  by_cases hid : g.id = f.id
  · rw [← hid, State.fibre?_id hg, hg] at hf
    cases hf
    simp
  · simp [hid]

theorem State.takingDues_calm (hf : s.fibre? f.id = some f) (hcalm : s.Calm) : (s.takingDues w f).Calm := by
  refine ⟨hcalm.1, fun g hg => ?_⟩
  obtain ⟨x, hx, rfl⟩ := List.mem_map.mp (show g ∈ (s.setFibre { f with dues := [] }).fibres from hg)
  split
  · exact hcalm.2 f (List.mem_of_find?_eq_some hf)
  · exact hcalm.2 x hx

/-- With room in the trap bank, a wave whose fibre has only a fault due goes the way of that fault. -/
theorem failWave_eq {e : Cause} (hf : s.fibre? f.id = some f) (hd : f.dues = [(d, .atPc)]) (hbank : s.bankFull w = false) :
    failWave e s w [f] f = (s.takingDues w f).finish (baseCtx .nop default s w [f] f.pc f.pc) [f] [(f.id, .trap d .atPc f.pc)] := by
  have hway : [f].filterMap (fun g => g.dues.head?.map (fun d => (g.id, Way.trap d.1 d.2 f.pc))) = [(f.id, .trap d .atPc f.pc)] := by
    simp [hd]
  have hstate : (s.setFibres ([f].map (fun g => { g with dues := g.dues.drop 1 }))).withdraw w.id = s.takingDues w f := by
    simp only [List.map_cons, List.map_nil, hd, List.drop_one, List.tail_cons]
    rfl
  unfold failWave
  simp only [hway, hstate, List.isEmpty_cons, hbank, Bool.false_eq_true, if_false]
  unfold State.trapOnly
  rw [show (baseCtx .nop default s w [f] f.pc f.pc).wv = w from rfl, State.takingDues_bankFull hf, hbank, Bool.false_and,
    if_neg Bool.false_ne_true]
  rfl

/-- A wave whose fibre has only a fault due takes it: it is in the runtime at the instruction, and its wave withdraws its SHED. -/
theorem failWave_due {e : Cause} (hfs : s.waveFibres w = [f]) (hd : f.dues = [(d, .atPc)]) (hre : w.reissue = false) (hcalm : s.Calm)
    (ht : Trappable s w [f] l o) :
    Ends (.next (failWave e s w [f] f)) s [f] (fun g => ({ g with dues := [] } : Fibre).enter l o.ringed w.meet g.pc d .atPc)
      (s.withdraw w.id) := by
  obtain ⟨hl, hdet, hentry, ho, hbank, hfree⟩ := ht
  have hwf : f ∈ s.waveFibres w := hfs.symm ▸ List.mem_cons_self
  have hmem := State.mem_waveFibres hwf
  have hlaunch := State.waveFibres_launch hwf
  have hself : (s.takingDues w f).fibre? f.id = some { f with dues := [] } := by
    rw [State.fibre?_takingDues, hmem, Option.map_some, if_pos (beq_self_eq_true _)]
  have hcd : (baseCtx .nop default s w [f] f.pc f.pc).det = l.det := by
    show s.det _ = _
    simp only [State.det, hl, Option.map_some, Option.getD_some]
  rw [failWave_eq hmem hd hbank]
  refine ends_loneTrap (s1 := s.takingDues w f) hl hdet hcd hentry ho hre (State.takingDues_calm hmem hcalm) rfl hself
    ⟨hlaunch, hfree f List.mem_cons_self⟩ (fun k hk => ?_) rfl rfl
  exact State.fibre?_setFibre_other (g := { f with dues := [] }) hk

theorem execDeferredTileFault_eq (hw : s.wave? s.ev.wave = some w) (hready : s.ready w = true) (hfs : s.waveFibres w = [f])
    (hd : f.dues = [(d, .atPc)]) (hkind : d.kind = 3)
    (hop : ∀ op, s.opAt w = some op → s.duesAt op w.crew.launch [f] f.pc ≠ []) :
    execDeferredTileFault s = .next (failWave insnIllegal s w [f] f) := by
  have hdue : ((s.opAt w).map (fun op => !(s.duesAt op w.crew.launch [f] f.pc).isEmpty)).getD true = true := by
    cases h : s.opAt w with
    | none => rfl
    | some op => simp [hop op h]
  unfold execDeferredTileFault
  rw [hw]
  dsimp only
  rw [hfs]
  dsimp only
  rw [hdue]
  exact if_pos (by simp [hready, hd, hkind])

/-! ### Waits for a page (28 R471) -/

theorem execWalkWaitTimeout_eq (hw : s.wave? s.ev.wave = some w) (hwait : w.wait = some .walk) (ht : w.since + 10000 ≤ s.rtime) :
    execWalkWaitTimeout s = .next (s.timeoutWalk w) := by
  unfold execWalkWaitTimeout
  rw [hw]
  exact if_pos (by simp [hwait, ht])

theorem State.timeoutWalk_wave (h : s.wave? w.id = some w) : (s.timeoutWalk w).wave? w.id = some { w with stalled := false } := by
  unfold State.timeoutWalk
  refine State.wave?_setWave (w := w) ?_ rfl
  rw [State.wave?, State.setFibres_waves]
  exact h

theorem State.timeoutWalk_mem (s : State) (w : Wave) : (s.timeoutWalk w).mem = s.mem := State.setFibres_mem s _

theorem State.timeoutWalk_fibre (hf : f ∈ s.waveFibres w) : (s.timeoutWalk w).fibre? f.id = some { f with walkTimeout := true } := by
  have hlook := State.fibre?_setFibres_wave (s := s) (wv := w) rfl (G := fun g => { g with walkTimeout := true }) (fun _ => rfl) f.id
  rw [State.mem_waveFibres hf, Option.map_some, contains_ids hf, if_pos rfl] at hlook
  exact hlook

/-! ### Walks (28 R470, R471, R475) -/

/-- What is true of an effect's answer and of the state it leaves, wherever it comes about. -/
def Establishes {α : Type} (P : α → State → Prop) (x : M α) : Prop := ∀ s a t, x.run s = .ok (a, t) → P a t

section
variable {α β : Type} {P : β → State → Prop}

theorem Establishes.throw (e : Stop) : Establishes P (throw e : M β) := fun _ _ _ h => by cases h

theorem Establishes.bind {x : M α} {k : α → M β} (hk : ∀ a, Establishes P (k a)) : Establishes P (x >>= k) := fun _ _ _ h => by
  obtain ⟨a, t, -, ht⟩ := exists_of_bind_ok h
  exact hk a t _ _ ht

theorem Establishes.ite {c : Prop} [Decidable c] {x y : M β} (hx : Establishes P x) (hy : ¬ c → Establishes P y) :
    Establishes P (if c then x else y) := by
  split
  · exact hx
  · next h => exact hy h

/-- A stop: what follows it does not come about. -/
theorem Establishes.stop {e : Stop} {k : α → M β} : Establishes P ((MonadExcept.throw e : M α) >>= k) := fun _ _ _ h => by cases h

/-- A check before the rest of an effect: the rest comes about where the check passes. -/
theorem Establishes.check {c : Prop} [Decidable c] {e : Stop} {k : PUnit → M β} (hk : ¬ c → Establishes P (k ⟨⟩)) :
    Establishes P (if c then (MonadExcept.throw e : M PUnit) >>= k else k ⟨⟩) :=
  .ite .stop hk

end

/-- An entry translates a page for a queue as an access asks, and it is the newest one in a state's TLBs. -/
def Installed (who : Who) (page : Nat) (write : Bool) (e : TlbEntry) (t : State) : Prop :=
  e.hits who.queue page = true ∧ (write = true → e.w = true) ∧ ∃ u : State, t = u.installTlb who e

theorem hits_leaf {e : TlbEntry} {page : Nat} (h : e.page = page / 4096 ^ e.level * 4096 ^ e.level) : e.hits e.queue page = true := by
  have hpos : 0 < 4096 ^ e.level := Nat.pow_pos (by decide)
  have hlow := Nat.div_mul_le_self page (4096 ^ e.level)
  have hhigh := Nat.lt_div_mul_add hpos (a := page)
  unfold TlbEntry.hits
  rw [h]
  simp [hlow, hhigh]

theorem walkFrom_installs (who : Who) (va : DWord) (page : Nat) (write : Bool) (loc peer node : Nat) (levels : List Nat) :
    Establishes (Installed who page write) (walkFrom who va page write loc peer node levels) := by
  induction levels generalizing loc peer node with
  | nil => exact .throw _
  | cons level rest ih =>
    unfold walkFrom
    refine .bind fun s => ?_
    extract_lets pre die cached jp
    have hjp : ∀ x, Establishes (Installed who page write) (jp x) := by
      intro x
      refine .check fun _ => .check fun _ => .check fun _ => .ite ?node fun _ => ?leaf
      case node => exact .bind fun _ => .ite (.bind fun _ => ih _ _ _) fun _ => ih _ _ _
      case leaf =>
        refine .ite (.ite .stop fun _ => .stop) fun _ => .check fun hw => .bind fun _ => ?_
        intro s e t h
        cases h
        refine ⟨hits_leaf rfl, fun hwrite => ?_, s, rfl⟩
        simpa [hwrite] using hw
    clear_value cached jp
    split
    · exact .bind hjp
    · exact .bind hjp

theorem walk_installs (who : Who) (va : DWord) (write : Bool) : Establishes (Installed who (pageOf va) write) (walk who va write) :=
  .bind fun _ => .check fun _ => .check fun _ => .check fun _ => .bind fun _ => walkFrom_installs who va (pageOf va) write _ _ _ _

/-- The newest entry of a TLB is kept. -/
theorem mem_addTlb {n : Nat} (hn : 0 < n) (es : List TlbEntry) (e : TlbEntry) : e ∈ addTlb n es e := by
  unfold addTlb
  dsimp only
  rw [List.length_append, List.length_singleton, List.drop_append_of_le_length (by omega)]
  exact List.mem_append_right _ List.mem_cons_self

theorem mem_tlb_installTlb {who : Who} {e : TlbEntry} (he : who.engine = false) (hc : who.core < (s.installTlb who e).cores.length) :
    e ∈ ((s.installTlb who e).core who.core).tlb := by
  have hget : (s.installTlb who e).cores[who.core]? = (s.cores[who.core]?).map (fun c =>
      if who.engine then { c with walkAhead := addTlb 512 c.walkAhead e } else { c with tlb := addTlb 2048 c.tlb e }) :=
    (updAt_getElem? _ _ _ _).trans (if_pos rfl)
  obtain ⟨c, hold, -⟩ := Option.map_eq_some_iff.mp (hget.symm.trans (List.getElem?_eq_getElem hc))
  rw [State.core, List.getD_eq_getElem?_getD, hget, hold, he]
  simp only [Option.map_some, Option.getD_some, Bool.false_eq_true, if_false]
  exact mem_addTlb (by decide) _ _

theorem execPageWalk_eq {t : State} {e : TlbEntry} (hva : s.ev.val.toNat < 2 ^ 50)
    (hrun : (walk { coreWho s s.ev.core 0 with queue := s.ev.queue } s.ev.val s.ev.write).run s = .ok (e, t)) :
    execPageWalk s = .next t.dropAnswers.wake := by
  have hin : (s.ev.val.toNat / 2 ^ 50 != 0) = false := by rw [Nat.div_eq_of_lt hva]; rfl
  have hall : (walk { coreWho s s.ev.core 0 with queue := s.ev.queue } s.ev.val s.ev.write >>= fun _ => pure ()).run s = .ok ((), t) :=
    bind_ok hrun
  unfold execPageWalk
  dsimp only
  rw [hin, if_neg Bool.false_ne_true]
  unfold State.attempt
  rw [hall]

/-! ### A marked translation (32 R517) -/

/-- An access whose translation the core's TLB holds marked stops there. -/
theorem translate_poisoned {who : Who} {va : DWord} {write : Bool} {e : TlbEntry} (hva : va.toNat < 2 ^ 51) (he : who.engine = false)
    (hf : (s.core who.core).tlb.find? (fun e => e.hits who.queue (pageOf va) && (!write || e.w)) = some e) (hp : e.poison = true) :
    (translate who va write).run s = .error (.trap { cause := sysUncorr, addr := va }) := by
  have hc : (va.toNat / 2 ^ 51 == 0) = true := by rw [beq_iff_eq, Nat.div_eq_of_lt hva]
  unfold translate
  rw [bind_check hc, bind_get]
  simp only [he, Bool.false_eq_true, if_false]
  rw [hf]
  dsimp only
  rw [hp]
  rfl

/-! ### The statement -/

/-- Settles O49: a result is `Fibre.deliverPend`; a wait that ends is the instruction issued again; a completion is `State.completeTile`,
and its fault is the only thing its wave has to do; a walk's answer is what it has installed; a marked translation is checked first. -/
theorem waveEvents : Obligations.WaveEvents := by
  unfold Obligations.WaveEvents
  refine ⟨?result, ?again, ?arrive, ?complete, ?fault, ?timeout, ?walked, ?marked⟩
  case result =>
    intro s f p hf hp ho hon g
    have hid : (f.deliverPend s.ev.choice).id = f.id := by
      rw [Fibre.deliverPend_eq hp ho]
      exact (f.writePend_same p).1
    have hcur : s.fibre? (f.deliverPend s.ev.choice).id = some f := by rw [hid, State.fibre?_id hf, hf]
    refine ⟨_, execLongResultWrite_eq hf hon, fun k hk => ?_, rfl, rfl, ?_⟩
    · exact State.fibre?_setFibre_other fun h => hk (h.symm.trans hid)
    · have hnew := State.fibre?_setFibre_self hcur
      rw [hid, Fibre.deliverPend_eq hp ho] at hnew
      rw [Fibre.deliverPend_eq hp ho]
      exact hnew
  case again =>
    intro p hp s w x n u hw hwait hr hrt hne hfetch
    simp only [List.mem_cons, List.not_mem_nil, or_false] at hp
    rcases hp with rfl | rfl | rfl | rfl
    · exact again_issues (run := runGlds) rfl (fun _ => rfl) hw hwait hr hrt hne hfetch
    · exact again_issues (run := runWaitv) rfl (fun _ => rfl) hw hwait hr hrt hne hfetch
    · exact again_issues (run := runOpen) rfl (fun _ => rfl) hw hwait hr hrt hne hfetch
    · exact again_issues (run := runOpen) rfl (fun _ => rfl) hw hwait hr hrt hne hfetch
  case arrive =>
    intro s i w lanes hw hwait
    exact State.wave?_arrive hw hwait
  case complete =>
    intro s p t hp ht
    refine ⟨_, execMatrixOpComplete_eq hp, s.completeTile_mem p, s.completeTile_tileOps p, State.completeTile_team? ht, ?_⟩
    rw [State.wake_fibres, State.completeTile_fibres]
    cases p.fault <;> rfl
  case fault =>
    intro s w f l o d hw hready hfs hd hkind hop hre hcalm ht
    have hexec := execDeferredTileFault_eq hw hready hfs hd hkind hop
    rw [show exec .deferredTileFault s = execDeferredTileFault s from rfl, hexec]
    exact failWave_due hfs hd hre hcalm ht
  case timeout =>
    intro s w hw hwait ht
    have hself : s.wave? w.id = some w := by rw [State.wave?_id hw, hw]
    exact ⟨_, execWalkWaitTimeout_eq hw hwait ht, State.timeoutWalk_wave hself, s.timeoutWalk_mem w, fun f hf => State.timeoutWalk_fibre hf⟩
  case walked =>
    intro s t e hva hrun
    obtain ⟨hhits, hwrite, v, rfl⟩ := walk_installs _ _ _ _ _ _ hrun
    exact ⟨execPageWalk_eq hva hrun, hhits, hwrite, fun hc => mem_tlb_installTlb rfl hc⟩
  case marked =>
    intro s who va write e hva he hf hp
    exact ⟨_, translate_poisoned hva he hf hp, rfl, rfl⟩

end Sys2Proof.Machine
end

section
/-! Wave-wide instructions, transfers of control and calls to the runtime (14 R277 to R282; 15 R316 to R320; 28 R478, R479): each is an
effect on every active fibre alone, or a trap in every active fibre. -/

namespace Sys2Proof.Machine

/-! ### Instructions that act on each active fibre alone -/

/-- An opcode whose effect is g on every active fibre completes with G, where the two agree for that opcode. -/
theorem lane_rule {op : Op} {g G : Ctx → Fibre → Fibre} (he : ∀ w s, exec (op.instr w) s = issue op w (perFibre g) s)
    (hg : ∀ c (x : Fibre), x.Same (g c x)) (hG : ∀ c x, c.op = op → g c x = G c x) : LaneRule op G := by
  intro w s wv fs f ⟨h, hre, hcalm⟩
  rw [he, show G (issueCtx op w s wv fs f.pc) = g (issueCtx op w s wv fs f.pc) from funext fun x => (hG _ x rfl).symm]
  exact ends_perFibre h hre hcalm hg

/-- The same where the effect is written as the rule is. -/
theorem lane_rule_self {op : Op} {g : Ctx → Fibre → Fibre} (he : ∀ w s, exec (op.instr w) s = issue op w (perFibre g) s)
    (hg : ∀ c (x : Fibre), x.Same (g c x)) : LaneRule op g :=
  lane_rule he hg fun _ _ _ => rfl

/-! ### Wave-wide instructions (14 R282; 15 R316 to R320) -/

/-- A lane takes part in an inclusive scan up to itself, in an exclusive one before itself. -/
theorem wscan_takes (excl : Bool) (l k : Nat) :
    (decide (l < k) || (!excl && l == k)) = if excl then decide (l < k) else decide (l ≤ k) := by
  cases excl <;> simp [Nat.le_iff_lt_or_eq, Bool.beq_eq_decide_eq]

/-- Settles O13: each instruction writes to every active fibre what the model's `fibre…` function says of the wave's active fibres. -/
theorem waveWideResults : Obligations.WaveWideResults := by
  unfold Obligations.WaveWideResults
  refine ⟨?shuffle, ?matchL, ?ballot, ?voteany, ?voteall, ?wred, ?wscan, ?fwred, ?nzcnt, ?nzmap⟩
  case shuffle =>
    intro p hp
    simp only [List.mem_cons, List.not_mem_nil, or_false] at hp
    rcases hp with rfl | rfl | rfl | rfl
    all_goals
      refine lane_rule (g := fibreShfl) (fun _ _ => rfl) (fun c x => c.putW_same x _ _ _) fun c x hop => ?_
      unfold fibreShfl
      rw [hop]
      rfl
  case matchL => exact lane_rule_self (g := fibreMatch) (fun _ _ => rfl) fun c x => c.putD_same x _ _
  case ballot => exact lane_rule_self (g := fibreBallot) (fun _ _ => rfl) fun c x => c.putD_same x _ _
  case voteany => exact lane_rule_self (g := fibreVote false) (fun _ _ => rfl) fun c x => c.putD_same x _ _
  case voteall => exact lane_rule_self (g := fibreVote true) (fun _ _ => rfl) fun c x => c.putD_same x _ _
  case wred => exact lane_rule_self (g := fibreWred) (fun _ _ => rfl) fun c x => c.putW_same x _ _ _
  case wscan =>
    refine lane_rule (g := fibreWscan) (fun _ _ => rfl) (fun c x => c.putW_same x _ _ _) fun c x _ => ?_
    unfold fibreWscan
    simp only [wscan_takes]
  case fwred => exact lane_rule_self (g := fibreFwred) (fun _ _ => rfl) fun c x => c.putD_same x _ _
  case nzcnt => exact lane_rule_self (g := fibreNzcnt) (fun _ _ => rfl) fun c x => c.putD_same x _ _
  case nzmap => exact lane_rule_self (g := fibreNzmap) (fun _ _ => rfl) fun c x => c.putD_same x _ _

/-! ### Transfers of control (14 R277 to R279) -/

/-- LOOP branches unless the decremented value is 0. -/
theorem fibreLoop_eq (c : Ctx) (x : Fibre) : fibreLoop c x = { c.putD x (x.reg c.w.d.n.toNat - 1) with
    pc := if x.reg c.w.d.n.toNat - 1 = 0 then c.fall else c.pc + c.w.imm } := by
  unfold fibreLoop Ctx.target
  dsimp only
  simp only [bne_iff_ne, ne_eq, ite_not]

/-- Settles O14: each transfer sets the PC of every active fibre, after the destination of those that have one is written. -/
theorem transfersOfControl : Obligations.TransfersOfControl := by
  unfold Obligations.TransfersOfControl
  refine ⟨?nop, ?bra, ?brx, ?call, ?callx, ?loop, ?jtab, fun _ _ _ _ _ _ => ⟨rfl, rfl⟩⟩
  case nop =>
    intro p hp
    simp only [List.mem_cons, List.not_mem_nil, or_false] at hp
    rcases hp with rfl | rfl
    · exact lane_rule_self (op := .nop) (g := fibreNop) (fun _ _ => rfl) fun _ _ => ⟨rfl, rfl⟩
    · exact lane_rule_self (op := .yield) (g := fibreNop) (fun _ _ => rfl) fun _ _ => ⟨rfl, rfl⟩
  case bra => exact lane_rule_self (g := fibreBra) (fun _ _ => rfl) fun _ _ => ⟨rfl, rfl⟩
  case brx =>
    intro p hp
    simp only [List.mem_cons, List.not_mem_nil, or_false] at hp
    rcases hp with rfl | rfl
    · exact lane_rule_self (op := .brx) (g := fibreBrx) (fun _ _ => rfl) fun _ _ => ⟨rfl, rfl⟩
    · exact lane_rule_self (op := .ret) (g := fibreBrx) (fun _ _ => rfl) fun _ _ => ⟨rfl, rfl⟩
  case call => exact lane_rule_self (g := fibreCall) (fun _ _ => rfl) fun c x => c.putD_same x _ _
  case callx => exact lane_rule_self (g := fibreCallx) (fun _ _ => rfl) fun c x => c.putD_same x _ _
  case loop => exact lane_rule (g := fibreLoop) (fun _ _ => rfl) (fun c x => c.putD_same x _ _) fun c x _ => fibreLoop_eq c x
  case jtab => exact lane_rule_self (g := fibreJtab) (fun _ _ => rfl) fun _ _ => ⟨rfl, rfl⟩

/-! ### Calls to the runtime (14 R281; 28 R478, R479) -/

/-- With nothing pending nothing is written. -/
theorem Fibre.writeAllPend_regs {f : Fibre} (h : f.pend = []) : f.writeAllPend.regs = f.regs := by
  unfold Fibre.writeAllPend
  rw [h]
  rfl

/-- The LANE register holds a home lane whole. -/
theorem Fibre.lane_ofNat (f : Fibre) : (BitVec.ofNat 5 f.lane).toNat = f.lane := by
  have hlt : f.lane < 32 := Nat.mod_lt _ (by decide)
  rw [BitVec.toNat_ofNat, Nat.mod_eq_of_lt hlt]

theorem Fibre.enter_kind (f : Fibre) (l : Launch) (b : Bool) (m pc : Word) (d : Due) (r : Resume) :
    (f.enter l b m pc d r).trap.kind = if causeIsTrans d.cause && d.kind == 0 then 1 else d.kind := rfl

/-- What a fibre holds in the runtime. -/
theorem Fibre.enter_inRuntime (f : Fibre) (l : Launch) (b : Bool) (m pc : Word) (d : Due) (r : Resume) (h : causeIsTrans d.cause = false) :
    InRuntime f (f.enter l b m pc d r) l d.cause d.kind.toNat pc d.info0 := by
  have hkind : (f.enter l b m pc d r).trap.kind = d.kind := by rw [Fibre.enter_kind, h]; rfl
  exact ⟨(f.enter_same l b m pc d r).1, rfl, rfl, rfl, rfl, rfl, hkind.trans (by simp), f.lane_ofNat, rfl, rfl, Fibre.writeAllPend_regs⟩

/-- Settles O28: TRAP and BKPT are a trap in every active lane; what the fibre then holds is what `Fibre.enter` sets. -/
theorem callsToTheRuntime : Obligations.CallsToTheRuntime := by
  unfold Obligations.CallsToTheRuntime
  refine ⟨?calls, Fibre.enter_inRuntime, ?walks⟩
  case calls =>
    intro p hp w s wv fs f l o h ht
    simp only [List.mem_cons, List.not_mem_nil, or_false] at hp
    rcases hp with rfl | rfl
    · exact issue_traps (body := bodyDebug 0) h ht rfl
    · exact issue_traps (body := bodyDebug 1) h ht rfl
  case walks =>
    intro f l b m pc d r htrans hkind
    rw [Fibre.enter_kind, htrans, hkind]
    rfl

end Sys2Proof.Machine
end

section
/-! Meeting points (01 R19, R20; 14 R280, R283, R290): the staging region that RGN declares, a MEET whose wave is its whole meet set, the
wait at BAR and GBAR, and the release of a barrier. -/

namespace Sys2Proof.Machine

/-! ### The end of an issue with no trap group about -/

section
variable {s v : State} {c : Ctx} {fs : List Fibre} {ways : List (FibreId × Way)}

/-- Updates that each leave a value as it is leave it so together. -/
theorem foldl_unchanged {α β : Type} {g : β → α → β} {b : β} (h : ∀ a, g b a = b) (l : List α) : l.foldl g b = b :=
  List.foldlRecOn (motive := fun c => c = b) l g rfl fun _ hc a _ => hc ▸ h a

/-- The answers of the wave's fibres `ids` are used up, and those of them that do not stay wait on no walk any more. -/
def State.answered (s : State) (ids stays : List FibreId) : State :=
  { s with
    fwds := s.fwds.filter (fun r => r.posted || (r.reply.isNone && !r.dead) || !ids.contains r.fibre)
    fibres := s.fibres.map (fun (f : Fibre) => if ids.contains f.id && !stays.contains f.id then { f with walkTimeout := false } else f) }

/-- The lanes that stay at the instruction. -/
def staysOf (ways : List (FibreId × Way)) : List FibreId := (ways.filter (fun p => p.2.isStay)).map Prod.fst

theorem State.answered_group (h : ∀ f ∈ s.fibres, f.group = none) (ids stays : List FibreId) :
    ∀ f ∈ (s.answered ids stays).fibres, f.group = none := by
  intro f hf
  obtain ⟨x, hx, rfl⟩ := List.mem_map.mp hf
  split
  · exact h x hx
  · exact h x hx

/-- Waves that are divided keep their fibres. -/
theorem State.divide_fibres (s : State) (c : Ctx) (fs stay : List Fibre) (why : Option Wait) : (s.divide c fs stay why).fibres = s.fibres := by
  unfold State.divide
  split
  · rfl
  dsimp only
  split
  · exact (State.regroup_same ..).2
  · rw [(State.addParts_same ..).2]
    split <;> rfl

theorem State.leftRuntime_nil (s : State) (c : Ctx) : s.leftRuntime c [] = s := rfl

theorem State.releaseGroups_none (h : ∀ f ∈ s.fibres, f.group = none) : s.releaseGroups = s := by
  unfold State.releaseGroups
  rw [List.filterMap_eq_nil_iff.mpr h]
  rfl

/-- What follows an effect that sends no lane to the runtime, in fibres that belong to no trap group: those that go on and those that
stay are put into waves. -/
theorem State.finishCore_eq {u : State} {ids stays : List FibreId} (hv : s.waysOut c fs ways = (v, [])) (hr : c.wv.reissue = false)
    (hg : ∀ f ∈ v.fibres, f.group = none) (hids : c.all.map Fibre.id = ids) (hstays : staysOf ways = stays) (hu : v.answered ids stays = u) :
    s.finishCore c fs ways = (u.divide c ((ids.filter (fun i => !stays.contains i)).filterMap u.fibre?) (stays.filterMap u.fibre?)
      (stayOf ways)).wake := by
  subst hids hstays
  have hgroup : ∀ f ∈ u.fibres, f.group = none := hu ▸ State.answered_group hg _ _
  have hnone {ids : List FibreId} : ∀ f ∈ ids.filterMap u.fibre?, f.group = none := by
    intro f hf
    obtain ⟨i, -, hi⟩ := List.mem_filterMap.mp hf
    exact hgroup f (List.mem_of_find?_eq_some hi)
  have hout {ids : List FibreId} : (ids.filterMap u.fibre?).filter (fun f => f.group.isSome && f.inTrap.isNone) = [] :=
    List.filter_eq_nil_iff.mpr fun f hf => by simp [hnone f hf]
  have hin {ids : List FibreId} : (ids.filterMap u.fibre?).filter (fun f => !(f.group.isSome && f.inTrap.isNone)) = ids.filterMap u.fibre? :=
    List.filter_eq_self.mpr fun f hf => by simp [hnone f hf]
  have hrelease (fs stay : List Fibre) (why : Option Wait) : (u.divide c fs stay why).releaseGroups = u.divide c fs stay why :=
    State.releaseGroups_none (State.divide_fibres u c fs stay why ▸ hgroup)
  unfold State.finishCore
  rw [hv]
  simp only [List.isEmpty_nil, Bool.not_true, Bool.and_false, Bool.false_eq_true, if_false, hr]
  unfold State.answered at hu
  unfold staysOf at hu ⊢
  rw [hu, hout, State.leftRuntime_nil, hin, hrelease]

end

/-! ### The wave of one fibre after an issue (01 R15) -/

section
variable {s u : State} {c : Ctx} {fs : List Fibre} {w : Wave} {x : Fibre}

theorem State.wave?_wake (s : State) (i : Nat) : s.wake.wave? i = (s.wave? i).map (fun w => { w with stalled := false }) := by
  unfold State.wave?
  rw [State.wake_waves, List.find?_map]
  rfl

theorem State.wave?_setWave_wake {i : Nat} {v : Wave} (h : s.wave? i = some w) (hid : v.id = w.id) :
    (s.setWave v).wake.wave? i = some { v with stalled := false } := by
  rw [State.wave?_wake, State.wave?_setWave h hid]
  rfl

/-- The wave of a fibre that goes on. -/
def Wave.onward (w : Wave) (c : Ctx) (x : Fibre) : Wave :=
  { w with lanes := lanesOf [x], age := 0, wait := none, stalled := false, arrived := 0, parts := 0, record := none
           staged := if !c.op.transfers && lanesOf [x] == c.wv.lanes then w.staged else none }

/-- The wave of a fibre that stays at the instruction. -/
def Wave.staying (w : Wave) (c : Ctx) (x : Fibre) (why : Wait) : Wave :=
  { w with lanes := lanesOf [x], wait := some why, stalled := true, fall := c.fall, age := 0
           staged := if !c.op.transfers && lanesOf [x] == c.wv.lanes then w.staged else none }

theorem State.divide_onward (hw : u.wave? c.wv.id = some w) : u.divide c [x] [] none = u.setWave (w.onward c x) := by
  unfold State.divide
  rw [hw]
  unfold State.regroup Wave.onward
  simp only [standGroups, standGroups.place, State.addParts, List.isEmpty_nil, if_true, Bool.and_true]

theorem State.divide_staying {why : Wait} (hw : u.wave? c.wv.id = some w) (hwhy : why ≠ .span) :
    u.divide c [] [x] (some why) = u.setWave (w.staying c x why) := by
  unfold State.divide
  rw [hw]
  dsimp only
  rw [if_neg (by simp), if_neg (by simpa using hwhy)]
  rfl

/-- The end of an issue in which a wave's one fibre goes on. -/
theorem State.finishCore_onward (hall : c.all.map Fibre.id = [x.id]) (hr : c.wv.reissue = false) (hg : ∀ f ∈ s.fibres, f.group = none)
    (hu : s.answered [x.id] [] = u) (hx : u.fibre? x.id = some x) (hw : u.wave? c.wv.id = some w) :
    s.finishCore c fs [] = (u.setWave (w.onward c x)).wake := by
  have hon : ([x.id].filter (fun i => !([] : List FibreId).contains i)).filterMap u.fibre? = [x] := by simp [hx]
  rw [State.finishCore_eq (v := s) (ways := []) (stays := []) rfl hr hg hall rfl hu, hon]
  exact congrArg State.wake (State.divide_onward hw)

/-- No wave waits at a meeting point. -/
abbrev State.Unmet (s : State) : Prop := ∀ w ∈ s.waves, w.wait ≠ some .meet ∧ w.wait ≠ some .bar ∧ w.wait ≠ some .gbar

theorem State.Unmet.setWave (h : s.Unmet) {v : Wave} (hv : v.wait ≠ some .meet ∧ v.wait ≠ some .bar ∧ v.wait ≠ some .gbar) :
    (s.setWave v).Unmet := by
  intro y hy
  rw [State.setWave_waves] at hy
  obtain ⟨z, hz, rfl⟩ := List.mem_map.mp hy
  split
  · exact hv
  · exact h z hz

theorem State.Unmet.wake (h : s.Unmet) : s.wake.Unmet := by
  intro y hy
  rw [State.wake_waves] at hy
  obtain ⟨z, hz, rfl⟩ := List.mem_map.mp hy
  exact h z hz

/-- Then nothing meets. -/
theorem State.finish_onward (hall : c.all.map Fibre.id = [x.id]) (hr : c.wv.reissue = false) (hg : ∀ f ∈ s.fibres, f.group = none)
    (hs : s.Unmet) (hu : s.answered [x.id] [] = u) (hx : u.fibre? x.id = some x) (hw : u.wave? c.wv.id = some w) :
    s.finish c fs [] = (u.setWave (w.onward c x)).wake := by
  have hunmet : u.Unmet := hu ▸ hs
  unfold State.finish
  rw [State.finishCore_onward hall hr hg hu hx hw]
  exact State.meetings_none (hunmet.setWave (by simp [Wave.onward])).wake

/-- The end of an issue in which a wave's one fibre stays. -/
theorem State.finishCore_staying {v : State} {why : Wait} (hwhy : why ≠ .span) (hv : s.waysOut c fs [(x.id, .stay why)] = (v, []))
    (hall : c.all.map Fibre.id = [x.id]) (hr : c.wv.reissue = false) (hg : ∀ f ∈ v.fibres, f.group = none)
    (hu : v.answered [x.id] [x.id] = u) (hx : u.fibre? x.id = some x) (hw : u.wave? c.wv.id = some w) :
    s.finishCore c fs [(x.id, .stay why)] = (u.setWave (w.staying c x why)).wake := by
  have hon : ([x.id].filter (fun i => !(([x.id] : List FibreId).contains i))).filterMap u.fibre? = [] := by simp
  have hstay : [x.id].filterMap u.fibre? = [x] := by simp [hx]
  rw [State.finishCore_eq (stays := [x.id]) hv hr hg hall rfl hu, hon, hstay]
  exact congrArg State.wake (State.divide_staying hw hwhy)

end

/-! ### RGN (14 R280; 03 R68, R70) -/

section
variable {s : State} {c : Ctx} {w : Wave}

/-- What RGN declares: the registers that the mask names, if any, with a stamp. -/
def rgnStaged (c : Ctx) (stamp : Nat) : Option (Nat × List Nat) :=
  if (rgnRegs c.w.a.n.toNat c.w.imm).isEmpty then none else some (stamp, rgnRegs c.w.a.n.toNat c.w.imm)

/-- The other waves of the wave's quadrant that have a region. -/
def State.stagedOthers (s : State) (c : Ctx) : List Wave :=
  s.waves.filter (fun v => v.staged.isSome && v.id != c.wv.id && s.coreOf v.crew == c.core
    && (s.placeOf? v.crew).map CrewPlace.quad == (s.placeOf? c.wv.crew).map CrewPlace.quad)

/-- The one of two waves whose region began first. -/
def olderStaged (o : Option Wave) (v : Wave) : Option Wave :=
  match o with
  | none => some v
  | some u => if (v.staged.map Prod.fst).getD 0 < (u.staged.map Prod.fst).getD 0 then some v else some u

/-- The wave with its region declared. -/
def State.declared (s : State) (c : Ctx) (w : Wave) : State := s.newId.2.setWave { w with staged := rgnStaged c s.nextId }

/-- Where all slots are held, the oldest region gives way. -/
theorem bodyRgn_eq (hw : s.wave? c.wv.id = some w) : bodyRgn c s =
    if (rgnRegs c.w.a.n.toNat c.w.imm).isEmpty || ((s.declared c w).stagedOthers c).length < 16 then .ok (s.declared c w, [])
    else match ((s.declared c w).stagedOthers c).foldl olderStaged none with
      | some v => .ok ((s.declared c w).setWave { v with staged := none }, [])
      | none => .ok (s.declared c w, []) := by
  unfold bodyRgn
  dsimp only
  rw [show s.newId.2.wave? c.wv.id = some w from hw, Option.getD_some]
  rfl

theorem olderStaged_some {o : Option Wave} {v u : Wave} (h : olderStaged o v = some u) : o = some u ∨ v = u := by
  unfold olderStaged at h
  split at h
  · exact .inr (Option.some.inj h)
  split at h
  · exact .inr (Option.some.inj h)
  · exact .inl h

theorem State.wave?_setWave_other {v : Wave} {i : Nat} (h : v.id ≠ i) : (s.setWave v).wave? i = s.wave? i := by
  unfold State.wave?
  rw [State.setWave_waves]
  induction s.waves with
  | nil => rfl
  | cons y ys ih =>
    rw [List.map_cons, List.find?_cons, List.find?_cons, ih]
    by_cases hy : y.id = v.id
    · have hi : (v.id == i) = false := beq_eq_false_iff_ne.mpr h
      simp [hy, hi]
    · simp [hy]

/-- A fold that keeps what it has or takes what it meets ends with something of the list. -/
theorem mem_of_foldl_pick {α : Type} {f : Option α → α → Option α} (hf : ∀ o x y, f o x = some y → o = some y ∨ x = y) {l : List α}
    {o : Option α} {y : α} (h : l.foldl f o = some y) : o = some y ∨ y ∈ l := by
  induction l generalizing o with
  | nil => exact .inl h
  | cons x xs ih =>
    rcases ih h with hx | hy
    · rcases hf o x y hx with ho | rfl
      · exact .inl ho
      · exact .inr List.mem_cons_self
    · exact .inr (List.mem_cons_of_mem _ hy)

/-- The declaration leaves the wave with its region, and every wave where it waits. -/
theorem bodyRgn_run (hw : s.wave? c.wv.id = some w) (hs : s.Unmet) : ∃ t, bodyRgn c s = .ok (t, []) ∧ WavesOnly s t ∧ t.Unmet
    ∧ ∃ v, t.wave? c.wv.id = some v ∧ v.staged = rgnStaged c s.nextId := by
  have hset : (s.declared c w).wave? c.wv.id = some { w with staged := rgnStaged c s.nextId } :=
    State.wave?_setWave (s := s.newId.2) hw rfl
  have hunmet : (s.declared c w).Unmet := State.Unmet.setWave (s := s.newId.2) hs (hs w (List.mem_of_find?_eq_some hw))
  rw [bodyRgn_eq hw]
  by_cases hfree : ((rgnRegs c.w.a.n.toNat c.w.imm).isEmpty || decide (((s.declared c w).stagedOthers c).length < 16)) = true
  · exact ⟨_, if_pos hfree, rfl, hunmet, _, hset, rfl⟩
  rw [if_neg hfree]
  cases hold : ((s.declared c w).stagedOthers c).foldl olderStaged none with
  | none => exact ⟨_, rfl, rfl, hunmet, _, hset, rfl⟩
  | some v =>
    have hheld := (mem_of_foldl_pick (fun _ _ _ => olderStaged_some) hold).resolve_left (by simp)
    obtain ⟨hmem, hother⟩ := List.mem_filter.mp hheld
    have hne : v.id ≠ c.wv.id := fun h => by simp [h] at hother
    exact ⟨_, rfl, rfl, hunmet.setWave (hunmet v hmem), _,
      (State.wave?_setWave_other (v := { v with staged := none }) hne).trans hset, rfl⟩

end

section
variable {w : Fields} {s : State} {wv : Wave} {f : Fibre}

/-- The wave that issues is found by its name. -/
theorem Ready.wave {op : Op} {fs : List Fibre} (h : Ready op w s wv fs f) : s.wave? wv.id = some wv := by
  obtain ⟨i, -, hi⟩ := Option.bind_eq_some_iff.mp h.1
  rw [State.wave?_id hi, hi]

theorem State.fibre?_answered (s : State) (ids stays : List FibreId) (k : FibreId) : (s.answered ids stays).fibre? k
    = (s.fibre? k).map (fun f => if ids.contains f.id && !stays.contains f.id then { f with walkTimeout := false } else f) :=
  State.fibre?_map (F := fun f => if ids.contains f.id && !stays.contains f.id then { f with walkTimeout := false } else f)
    (fun f => by split <;> rfl) s (s.answered ids stays) rfl k

/-- RGN of a wave of one fibre: the fibre goes on, and the wave has its region. -/
theorem rgn_lone (h : IssuesOne .rgn w s wv f) (hlanes : wv.lanes = lanesOf [f]) :
    ∃ t, exec (.rgn w) s = .next t ∧ SameBut s t ∧ t.fibre? f.id = some (f.passed (s.fallOf f.pc)) ∧
      ∃ n, (t.wave? wv.id).bind Wave.staged = rgnStaged (soloCtx .rgn w s wv f) n := by
  obtain ⟨h, hre, hcalm⟩ := h
  have hcur := Solo.cur h
  have hwave : (s.begun (soloCtx .rgn w s wv f)).wave? wv.id = some wv := h.wave
  have hgroup := Ready.begun_group h hcalm
  obtain ⟨v, hrun, honly, hunmet, y, hy, hstaged⟩ := bodyRgn_run (c := soloCtx .rgn w s wv f) hwave hcalm.1
  have hfib (k : FibreId) : v.fibre? k = (s.begun (soloCtx .rgn w s wv f)).fibre? k := by unfold State.fibre?; rw [honly.fibres]
  have hon : (v.answered [f.id] []).fibre? f.id = some (f.passed (s.fallOf f.pc)) := by
    rw [State.fibre?_answered, hfib, hcur]
    simp [Fibre.passed, Fibre.issued]
  have hend : v.done (soloCtx .rgn w s wv f) [f] = _ := State.finish_onward (s := v) (c := soloCtx .rgn w s wv f) (fs := [f])
    (x := f.passed (s.fallOf f.pc)) rfl hre (honly.fibres ▸ hgroup) hunmet rfl hon hy
  refine ⟨_, (issue_done (body := bodyRgn) h hrun).trans (congrArg Host.Outcome.next hend),
    (setFibres_same _ s).trans (honly.sameBut.trans (t := v) rfl), hon, ?_⟩
  have hkeep : (!Op.rgn.transfers && lanesOf [f.passed (s.fallOf f.pc)] == wv.lanes) = true := by
    rw [hlanes]
    exact beq_self_eq_true _
  have hlook := State.wave?_setWave_wake (s := v.answered [f.id] []) (i := wv.id)
    (v := y.onward (soloCtx .rgn w s wv f) (f.passed (s.fallOf f.pc))) hy rfl
  exact ⟨_, (congrArg (fun o => Option.bind o Wave.staged) hlook).trans ((if_pos hkeep).trans hstaged)⟩

end

/-! ### A lone fibre that stays at a meeting point (14 R283, R290) -/

section
variable {op : Op} {w : Fields} {s : State} {wv : Wave} {f : Fibre} {why : Wait}

/-- The device once a wave's only fibre is back at its instruction. -/
def State.backAt (s : State) (c : Ctx) (f : Fibre) : State := ((s.begun c).setFibre f).answered [f.id] [f.id]

/-- Every fibre is then as it was before the issue. -/
theorem backAt_fibre? (h : IssuesOne op w s wv f) (k : FibreId) : (s.backAt (soloCtx op w s wv f) f).fibre? k = s.fibre? k := by
  have hfs : s.waveFibres wv = [f] := h.1.2.1
  have hself : s.fibre? f.id = some f := State.mem_waveFibres (wv := wv) (hfs ▸ List.mem_cons_self)
  unfold State.backAt
  rw [State.fibre?_answered, State.fibre?_setFibre, begun_fibre? h.1, Option.map_map, Option.map_map]
  cases hk : s.fibre? k with
  | none => rfl
  | some g =>
    obtain rfl := State.fibre?_id hk
    by_cases hg : g.id = f.id
    · rw [hg, hself] at hk
      cases hk
      simp [Fibre.issued]
    · simp [hg]

theorem backAt_group (h : IssuesOne op w s wv f) : ∀ g ∈ ((s.begun (soloCtx op w s wv f)).setFibre f).fibres, g.group = none := by
  intro g hg
  obtain ⟨z, hz, rfl⟩ := List.mem_map.mp hg
  split
  · exact h.group
  · exact Ready.begun_group h.1 h.2.2 z hz

/-- The fibre goes back to where it was. -/
theorem waysOut_stay (h : IssuesOne op w s wv f) : (s.begun (soloCtx op w s wv f)).waysOut (soloCtx op w s wv f) [f] [(f.id, .stay why)]
    = ((s.begun (soloCtx op w s wv f)).setFibre f, []) := by
  simp only [State.waysOut, Solo.cur h.1, State.wayOut, List.find?_cons, beq_self_eq_true, Option.getD_some, Bool.false_eq_true, if_false]
  rfl

/-- The wave waits, and then what can meet meets. -/
theorem issue_stay (h : IssuesOne op w s wv f) (hwhy : why ≠ .span) : issue op w (bodyStay why) s
    = .next (((s.backAt (soloCtx op w s wv f) f).setWave (wv.staying (soloCtx op w s wv f) f why)).wake).meetings := by
  have hbody : bodyStay why (soloCtx op w s wv f) (s.begun (soloCtx op w s wv f))
      = .ok (s.begun (soloCtx op w s wv f), [(f.id, .stay why)]) := by
    unfold bodyStay
    rw [Solo.act_eq h.1]
    rfl
  have hfs : s.waveFibres wv = [f] := h.1.2.1
  have hself : s.fibre? f.id = some f := State.mem_waveFibres (wv := wv) (hfs ▸ List.mem_cons_self)
  have hcore := State.finishCore_staying (fs := [f]) (x := f) hwhy (waysOut_stay h) rfl h.2.1 (backAt_group h) rfl
    ((backAt_fibre? h f.id).trans hself) h.1.wave
  rw [issue_ways h.1 hbody (Bool.and_false _)]
  refine congrArg Host.Outcome.next ?_
  rw [show (soloCtx op w s wv f).act.filter (fun g => !(([(f.id, Way.stay why)] : List (FibreId × Way)).any (fun p => p.1 == g.id))) = [] by
    simp [Solo.act_eq h.1, Fibre.issued]]
  rw [List.map_nil, State.openWindows_nil]
  exact congrArg State.meetings hcore

theorem backAt_same (s : State) (c : Ctx) (f : Fibre) : SameBut s (s.backAt c f) := (setFibres_same c.all s).trans rfl

/-- The device with the wave at its meeting point: no other wave waits at one. -/
def State.standing (s : State) (c : Ctx) (f : Fibre) (why : Wait) : State := ((s.backAt c f).setWave (c.wv.staying c f why)).wake

theorem standing_wave? (h : IssuesOne op w s wv f) : (s.standing (soloCtx op w s wv f) f why).wave? wv.id
    = some { wv.staying (soloCtx op w s wv f) f why with stalled := false } :=
  State.wave?_setWave_wake (s := s.backAt (soloCtx op w s wv f) f) h.1.wave rfl

theorem standing_waves : (s.standing (soloCtx op w s wv f) f why).waves = s.waves.map (fun v =>
    if v.id == wv.id then { wv.staying (soloCtx op w s wv f) f why with stalled := false } else { v with stalled := false }) := by
  unfold State.standing
  rw [State.wake_waves, State.setWave_waves, show (s.backAt (soloCtx op w s wv f) f).waves = s.waves from setFibres_waves _ s, List.map_map]
  refine List.map_congr_left fun v _ => ?_
  show (fun w : Wave => { w with stalled := false }) (if v.id == wv.id then _ else _) = _
  split <;> rfl

/-- The waves at a team's barrier are among those of the device. -/
theorem State.mem_of_teamAt {v : Wave} {l t : Nat} {kinds : List Wait} {ws : List Wave} (h : s.teamAt l t kinds = some ws) (hv : v ∈ ws) : v ∈ s.waves := by
  unfold State.teamAt at h
  dsimp only at h
  split at h
  · cases h
    exact (List.mem_filter.mp hv).1
  · cases h

/-- Waves that all wait at barriers of one kind raise no SYNC.BARMIX. -/
theorem State.tryMix_same {k : Wait} (hk : k = .bar ∨ k = .gbar) (h : ∀ v ∈ s.waves, v.wait ≠ some k) (l t : Nat) : s.tryMix l t = s := by
  unfold State.tryMix
  cases hat : s.teamAt l t [.bar, .gbar] with
  | none => rfl
  | some ws =>
    have hnone : ws.any (fun v => v.wait == some k) = false := List.any_eq_false.mpr fun v hv => by simpa using h v (State.mem_of_teamAt hat hv)
    dsimp only
    rw [if_neg]
    rcases hk with rfl | rfl <;> simp [hnone]

/-- Of the waves then, those that wait are the wave's own. -/
theorem standing_wait (hcalm : s.Calm) {v : Wave} (hv : v ∈ (s.standing (soloCtx op w s wv f) f why).waves) :
    v.wait = some why ∨ v.wait ≠ some .meet ∧ v.wait ≠ some .bar ∧ v.wait ≠ some .gbar := by
  rw [standing_waves] at hv
  obtain ⟨z, hz, rfl⟩ := List.mem_map.mp hv
  split
  · exact .inl rfl
  · exact .inr (hcalm.1 z hz)

/-- A wave that waits at a barrier alone completes no meeting. -/
theorem standing_meetings (hcalm : s.Calm) (hwhy : why = .bar ∨ why = .gbar) :
    (s.standing (soloCtx op w s wv f) f why).meetings = s.standing (soloCtx op w s wv f) f why := by
  obtain ⟨k, hk, hne, hmeet⟩ : ∃ k : Wait, (k = .bar ∨ k = .gbar) ∧ why ≠ k ∧ why ≠ .meet := by
    rcases hwhy with rfl | rfl
    · exact ⟨.gbar, .inr rfl, by simp, by simp⟩
    · exact ⟨.bar, .inl rfl, by simp, by simp⟩
  have hother : ∀ v ∈ (s.standing (soloCtx op w s wv f) f why).waves, v.wait ≠ some k ∧ v.wait ≠ some .meet := by
    intro v hv
    rcases standing_wait hcalm hv with h | ⟨h1, h2, h3⟩
    · simp [h, hne, hmeet]
    · rcases hk with rfl | rfl
      · exact ⟨h2, h1⟩
      · exact ⟨h3, h1⟩
  generalize s.standing (soloCtx op w s wv f) f why = u at hother
  have hids : u.waves.filter (fun w => w.wait == some .meet) = [] :=
    List.filter_eq_nil_iff.mpr fun v hv => by simpa using (hother v hv).2
  unfold State.meetings
  rw [hids]
  exact foldl_unchanged (fun p => State.tryMix_same hk (fun v hv => (hother v hv).1) p.1 p.2) _

/-- BAR and GBAR of a wave of one fibre: the fibre stays where it is, and the wave waits at its barrier. -/
theorem barrier_lone (h : IssuesOne op w s wv f) (hwhy : why = .bar ∨ why = .gbar) :
    ∃ t, issue op w (bodyStay why) s = .next t ∧ SameBut s t ∧ t.fibre? f.id = some f ∧
      ∃ v, t.wave? wv.id = some v ∧ v.wait = some why ∧ v.fall = s.fallOf f.pc := by
  have hfs : s.waveFibres wv = [f] := h.1.2.1
  have hself : s.fibre? f.id = some f := State.mem_waveFibres (wv := wv) (hfs ▸ List.mem_cons_self)
  have hspan : why ≠ .span := by rcases hwhy with rfl | rfl <;> simp
  refine ⟨_, (issue_stay h hspan).trans (congrArg Host.Outcome.next (standing_meetings h.2.2 hwhy)),
    (backAt_same s _ f).trans rfl, (backAt_fibre? h f.id).trans hself, _, standing_wave? h, rfl, rfl⟩

/-! ### Waves that go on from a meeting point (01 R17, R19) -/

/-- The fibre of a wave that goes on alone: a MEET at its innermost label takes the label (08 R184). -/
def Fibre.met (f : Fibre) (v : Wave) : Fibre :=
  { f.issued v.fall with labels := if v.wait == some .meet && f.labels.head? == some f.pc then f.labels.drop 1 else f.labels }

theorem Fibre.met_meet {v : Wave} (h : v.wait = some .meet) : f.met v
    = { f.issued v.fall with labels := if f.labels.head? = some f.pc then f.labels.drop 1 else f.labels } := by
  unfold Fibre.met
  rw [h]
  simp only [beq_self_eq_true, Bool.true_and, beq_iff_eq]

theorem Fibre.met_barrier {v : Wave} (h : v.wait ≠ some .meet) : f.met v = f.issued v.fall := by
  have hwait : (v.wait == some .meet && f.labels.head? == some f.pc) = false := by simp [h]
  unfold Fibre.met
  rw [hwait]
  rfl

/-- The wave that goes on alone. -/
def Wave.met (v : Wave) : Wave := { v with meet := v.lanes, wait := none, stalled := false, staged := none, age := 0 }

theorem State.merge_alone {v : Wave} (hfs : s.waveFibres v = [f]) : s.merge [v] = (s.setFibre (f.met v)).setWave v.met := by
  have hlanes : (0 : Word) ||| v.lanes = v.lanes := BitVec.zero_or
  unfold State.merge
  simp only [List.map_cons, List.map_nil, hfs, List.flatten_cons, List.flatten_nil, List.append_nil, List.foldl_nil, List.foldl_cons, hlanes]
  rfl

/-- What is looked up once a wave of one fibre has gone on. -/
theorem State.merge_alone_looks {v : Wave} (hfs : s.waveFibres v = [f]) (hv : ∃ y, s.wave? v.id = some y) :
    (s.merge [v]).fibre? f.id = some (f.met v) ∧ (s.merge [v]).wave? v.id = some v.met := by
  have hself : s.fibre? f.id = some f := State.mem_waveFibres (wv := v) (hfs ▸ List.mem_cons_self)
  obtain ⟨y, hy⟩ := hv
  rw [State.merge_alone hfs]
  exact ⟨State.fibre?_setFibre_self (g := f.met v) hself, State.wave?_setWave (s := s.setFibre (f.met v)) hy (State.wave?_id hy).symm⟩

/-- The lane of a fibre is in the mask of any fibres among which it is. -/
theorem lanesOf_and_lane {fs : List Fibre} (hf : f ∈ fs) : lanesOf fs &&& lanesOf [f] = lanesOf [f] := by
  have hzero (m : Word) : 0 ||| m = m := BitVec.zero_or
  have hacc (gs : List Fibre) (m : Word) : gs.foldl (fun m g => m ||| BitVec.ofNat 32 (2 ^ g.lane)) m = m ||| lanesOf gs := by
    induction gs generalizing m with
    | nil => simp [lanesOf]
    | cons g gs ih =>
      unfold lanesOf
      rw [List.foldl_cons, List.foldl_cons, ih, ih (0 ||| _), hzero, BitVec.or_assoc]
  obtain ⟨as, bs, rfl⟩ := List.append_of_mem hf
  unfold lanesOf
  rw [List.foldl_append, List.foldl_cons, hacc, hacc]
  simp only [List.foldl_cons, List.foldl_nil, hzero]
  ext k
  simp only [BitVec.getElem_and, BitVec.getElem_or]
  cases (BitVec.ofNat 32 (2 ^ f.lane))[k] <;> simp

theorem lanesOf_singleton_ne (f : Fibre) : lanesOf [f] ≠ 0 := by
  have hlt : 2 ^ f.lane < 2 ^ 32 := Nat.pow_lt_pow_right (by decide) (Nat.mod_lt _ (by decide))
  have hmask : lanesOf [f] = BitVec.ofNat 32 (2 ^ f.lane) := BitVec.zero_or
  intro h
  have hnat := congrArg BitVec.toNat (hmask.symm.trans h)
  rw [BitVec.toNat_ofNat, Nat.mod_eq_of_lt hlt] at hnat
  exact absurd hnat (Nat.ne_of_gt (Nat.two_pow_pos _))

/-! ### MEET of a whole meet set (01 R19; 14 R283) -/

theorem State.waveFibres_congr {t : State} {v y : Wave} (hf : ∀ k, t.fibre? k = s.fibre? k) (hc : v.crew = y.crew) (hh : v.home = y.home)
    (hl : v.lanes = y.lanes) : t.waveFibres v = s.waveFibres y := by
  unfold State.waveFibres
  simp only [hf, hc, hh, hl]

/-- The wave as it stands at its MEET. -/
abbrev Wave.standing (wv : Wave) (c : Ctx) (f : Fibre) (why : Wait) : Wave := { wv.staying c f why with stalled := false }

/-- What only the wave itself is, among the waves that there are then. -/
theorem standing_filter (halone : Alone s wv [f]) {q : Wave → Bool} (hq : q (wv.standing (soloCtx op w s wv f) f why) = true)
    (hother : ∀ v ∈ s.waves, v.id ≠ wv.id → q { v with stalled := false } = false) :
    (s.standing (soloCtx op w s wv f) f why).waves.filter q = [wv.standing (soloCtx op w s wv f) f why] := by
  have hown : s.waves.filter (fun v => v.id == wv.id) = [wv] := by
    have hboth := congrArg (List.filter (fun v => v.id == wv.id)) halone.1
    have habsorb : ∀ a b : Bool, (a && (a || b)) = a := by decide
    rw [List.filter_filter] at hboth
    simpa [habsorb] using hboth
  rw [standing_waves, List.filter_map]
  have hpred : ∀ v ∈ s.waves, (q ∘ fun v => if v.id == wv.id then wv.standing (soloCtx op w s wv f) f why else { v with stalled := false }) v
      = (v.id == wv.id) := by
    intro v hv
    by_cases hid : v.id = wv.id
    · simp [hid, hq]
    · simp [hid, hother v hv hid]
  rw [List.filter_congr hpred, hown]
  simp

end

section
variable {w : Fields} {s : State} {wv : Wave} {f : Fibre}

theorem standing_fibre? {op : Op} {why : Wait} (h : IssuesOne op w s wv f) (k : FibreId) :
    (s.standing (soloCtx op w s wv f) f why).fibre? k = s.fibre? k := backAt_fibre? h k

theorem standing_waveFibres {op : Op} {why : Wait} (h : IssuesOne op w s wv f) (hlanes : wv.lanes = lanesOf [f]) :
    (s.standing (soloCtx op w s wv f) f why).waveFibres (wv.standing (soloCtx op w s wv f) f why) = [f] := by
  refine Eq.trans ?_ h.1.2.1
  exact State.waveFibres_congr (v := wv.standing (soloCtx op w s wv f) f why) (y := wv) (standing_fibre? h) rfl rfl hlanes.symm

/-- A fibre of a wave is of its crew and its home wave. -/
theorem State.waveFibres_home {g : Fibre} (hg : g ∈ s.waveFibres wv) : g.id.crew = wv.crew ∧ g.home = wv.home := by
  obtain ⟨k, hk, hl⟩ := List.mem_filterMap.mp hg
  have hlt := List.mem_range.mp hk
  split at hl
  · unfold Fibre.home
    rw [State.fibre?_id hl]
    refine ⟨rfl, ?_⟩
    dsimp only
    omega
  · cases hl

/-- Then the whole meet set is the wave. -/
theorem standing_meetMembers (h : IssuesOne .meet w s wv f) (halone : Alone s wv [f]) (hmeet : wv.meet = wv.lanes) :
    (s.standing (soloCtx .meet w s wv f) f .meet).meetMembers (wv.standing (soloCtx .meet w s wv f) f .meet)
      = ([wv.standing (soloCtx .meet w s wv f) f .meet], true) := by
  have hlanes := halone.2
  have hfs : s.waveFibres wv = [f] := h.1.2.1
  have hwf : f ∈ s.waveFibres wv := hfs ▸ List.mem_cons_self
  obtain ⟨hcrew, hhome⟩ := State.waveFibres_home hwf
  have hfib : f ∈ (s.standing (soloCtx .meet w s wv f) f .meet).fibres :=
    List.mem_of_find?_eq_some ((standing_fibre? h f.id).trans (State.mem_waveFibres hwf))
  have hsame := standing_filter (op := .meet) (w := w) (why := .meet) halone
    (q := fun v => v.crew == wv.crew && v.home == wv.home && v.lanes &&& wv.meet != 0)
    (by simpa [Wave.staying, hmeet, hlanes] using lanesOf_singleton_ne f) (fun v hv hid => ?other)
  case other =>
    by_cases hch : v.crew = wv.crew ∧ v.home = wv.home
    · have hmem : v ∈ s.waves.filter (fun v => v.id == wv.id || (v.crew == wv.crew && v.home == wv.home)) :=
        List.mem_filter.mpr ⟨hv, by simp [hch]⟩
      rw [halone.1] at hmem
      exact absurd (congrArg Wave.id (List.mem_singleton.mp hmem)) hid
    · by_cases hc : v.crew = wv.crew
      · simp [show v.home ≠ wv.home from fun hh => hch ⟨hc, hh⟩]
      · simp [hc]
  have hlive := lanesOf_and_lane (fs := (s.standing (soloCtx .meet w s wv f) f .meet).fibres.filter
    (fun g => g.id.crew == wv.crew && g.home == wv.home)) (f := f) (List.mem_filter.mpr ⟨hfib, by simp [hcrew, hhome]⟩)
  unfold State.meetMembers
  simp only [Wave.staying] at hsame ⊢
  have hmask : (0 : Word) ||| lanesOf [f] = lanesOf [f] := BitVec.zero_or
  rw [hsame, hmeet, hlanes, hlive]
  show (_, (((0 : Word) ||| lanesOf [f]) &&& lanesOf [f]) == lanesOf [f]) = _
  rw [hmask, BitVec.and_self, beq_self_eq_true]

/-- A MEET whose wave is its whole meet set lets the wave go on. -/
theorem standing_tryMeet (h : IssuesOne .meet w s wv f) (halone : Alone s wv [f]) (hmeet : wv.meet = wv.lanes) :
    (s.standing (soloCtx .meet w s wv f) f .meet).tryMeet wv.id
      = (s.standing (soloCtx .meet w s wv f) f .meet).merge [wv.standing (soloCtx .meet w s wv f) f .meet] := by
  have hpoint : ((s.standing (soloCtx .meet w s wv f) f .meet).meetPoint (wv.standing (soloCtx .meet w s wv f) f .meet)).isSome = true := by
    unfold State.meetPoint
    rw [standing_waveFibres h halone.2]
    rfl
  unfold State.tryMeet
  rw [standing_wave? h]
  dsimp only
  rw [if_neg (by simp [Wave.staying]), standing_meetMembers h halone hmeet]
  simp [hpoint]

/-- MEET of a wave of one fibre that is its whole meet set. -/
theorem meet_lone (h : IssuesOne .meet w s wv f) (halone : Alone s wv [f]) (hmeet : wv.meet = wv.lanes) :
    ∃ t, exec (.meet w) s = .next t ∧ SameBut s t ∧
      t.fibre? f.id = some { f.issued (s.fallOf f.pc) with labels := if f.labels.head? = some f.pc then f.labels.drop 1 else f.labels } ∧
      (t.wave? wv.id).map Wave.wait = some none := by
  have hwaits := standing_filter (op := .meet) (w := w) (why := .meet) halone (q := fun v => v.wait == some .meet) rfl
    fun v hv _ => by simpa using (h.2.2.1 v hv).1
  have hfs := standing_waveFibres (why := .meet) h halone.2
  have hmerged := State.merge_alone_looks hfs ⟨_, standing_wave? h⟩
  have hmeetings : (s.standing (soloCtx .meet w s wv f) f .meet).meetings
      = (s.standing (soloCtx .meet w s wv f) f .meet).merge [wv.standing (soloCtx .meet w s wv f) f .meet] := by
    unfold State.meetings
    rw [hwaits]
    simp only [List.map_cons, List.map_nil, List.foldl_cons, List.foldl_nil]
    rw [show (wv.standing (soloCtx .meet w s wv f) f .meet).id = wv.id from rfl, standing_tryMeet h halone hmeet]
    refine foldl_unchanged (fun p => State.tryMix_same (.inl rfl) (fun v hv => ?_) p.1 p.2) _
    rw [State.merge_alone hfs, State.setWave_waves] at hv
    obtain ⟨z, hz, rfl⟩ := List.mem_map.mp hv
    split
    · simp [Wave.met]
    · rcases standing_wait h.2.2 (show z ∈ (s.standing (soloCtx .meet w s wv f) f .meet).waves from hz) with hm | hm
      · simp [hm]
      · exact hm.2.1
  refine ⟨_, (issue_stay h (by simp)).trans (congrArg Host.Outcome.next hmeetings), ?_, hmerged.1.trans (congrArg some (Fibre.met_meet rfl)), ?_⟩
  · rw [State.merge_alone hfs]
    exact (backAt_same s _ f).trans rfl
  · exact congrArg (Option.map Wave.wait) hmerged.2

end

/-! ### The release of a barrier (14 R290; 04 R109, R110) -/

section
variable {s : State} {v : Wave} {f : Fibre}

theorem State.barReady_some {l t : Nat} {ws : List Wave} (h : s.barReady l t = some ws) :
    s.teamAt l t [.bar, .gbar] = some ws ∧ ∀ v ∈ ws, v.wait = some .bar := by
  unfold State.barReady at h
  split at h
  · split at h
    · next hat hall =>
      cases h
      rw [Bool.and_eq_true, List.all_eq_true] at hall
      exact ⟨hat, fun v hv => eq_of_beq (hall.1 v hv)⟩
    · cases h
  · cases h

theorem State.gbarReady_some {l g : Nat} {ws : List Wave} (h : s.gbarReady l g = some ws) : ∀ v ∈ ws, v ∈ s.waves ∧ v.wait = some .gbar := by
  unfold State.gbarReady at h
  dsimp only at h
  split at h
  · next hall =>
    cases h
    intro v hv
    rw [Bool.and_eq_true, Bool.and_eq_true, List.all_eq_true] at hall
    refine ⟨?_, eq_of_beq (hall.1.2 v hv)⟩
    obtain ⟨ws, hws, hmem⟩ := List.mem_flatten.mp hv
    obtain ⟨o, ho, rfl⟩ := List.mem_map.mp hws
    obtain ⟨t, -, rfl⟩ := List.mem_map.mp ho
    cases hat : s.teamAt l t.id [.bar, .gbar] with
    | none => simp [hat] at hmem
    | some us =>
      rw [hat] at hmem
      exact State.mem_of_teamAt hat hmem
  · cases h

/-- Nothing is written back from cores with clean L1s. -/
theorem gangVisible_clean {l : Nat} {cores : List Nat} (h : ∀ k ∈ s.cores, ∀ l ∈ k.l1, l.dirty = 0) : (gangVisible l cores).run s
    = .ok ((), (cores.filter (fun k => !s.fusedAt k)).foldl State.invalidateCore s) := by
  have hcore (k : Nat) : ∀ l ∈ (s.core k).l1, l.dirty = 0 := by
    unfold State.core
    rw [List.getD_eq_getElem?_getD]
    cases hk : s.cores[k]? with
    | none => exact fun l hl => nomatch hl
    | some x => exact h x (List.mem_of_getElem? hk)
  have hnone (ks : List Nat) : (forM_ ks (fun k => wbCore (coreWho s k l) k)).run s = .ok ((), s) := by
    induction ks with
    | nil => rfl
    | cons k ks ih =>
      unfold forM_ wbCore
      rw [bind_ok (wbLines_clean (hcore k))]
      exact ih
  unfold gangVisible
  rw [bind_get, bind_ok (hnone _)]
  rfl

theorem State.wave?_isSome (h : v ∈ s.waves) : ∃ y, s.wave? v.id = some y :=
  Option.isSome_iff_exists.mp (List.find?_isSome.mpr ⟨v, h, beq_self_eq_true _⟩)

/-- A barrier's wave of one fibre goes on at its fall-through. -/
theorem State.pass_alone_looks (hfs : s.waveFibres v = [f]) (hmem : v ∈ s.waves) (hwait : v.wait ≠ some .meet) :
    (s.pass [v]).fibre? f.id = some (f.issued v.fall) ∧ (s.pass [v]).wave? v.id = some v.met := by
  obtain ⟨hf, hw⟩ := State.merge_alone_looks hfs (State.wave?_isSome hmem)
  exact ⟨hf.trans (congrArg some (Fibre.met_barrier hwait)), hw⟩

/-- Settles O34: RGN's declaration lasts in a wave whose lanes are its fibre; a wave that stays at its meeting point is the only one there, so
that MEET merges it and a barrier keeps it; a whole barrier's wave goes on. -/
theorem meetingPoints : Obligations.MeetingPoints := by
  unfold Obligations.MeetingPoints
  refine ⟨?rgn, fun _ _ _ _ => meet_lone, ?barrier, ?team, ?gang⟩
  case rgn =>
    intro w s wv f h hlanes
    obtain ⟨t, hexec, hsame, hf, n, hstaged⟩ := rgn_lone h hlanes
    refine ⟨t, hexec, hsame, hf, ?_⟩
    rw [hstaged]
    show (if (rgnRegs w.a.n.toNat w.imm).isEmpty then none else some (n, rgnRegs w.a.n.toNat w.imm)).map Prod.snd = _
    rw [apply_ite (Option.map Prod.snd)]
    simp only [List.isEmpty_iff, Option.map_none, Option.map_some]
  case barrier =>
    intro p hp w s wv f h
    simp only [List.mem_cons, List.not_mem_nil, or_false] at hp
    rcases hp with rfl | rfl
    · exact barrier_lone (op := .bar) h (.inl rfl)
    · exact barrier_lone (op := .gbar) h (.inr rfl)
  case team =>
    intro s v f hteam hready hfs
    obtain ⟨hat, hbar⟩ := State.barReady_some hready
    obtain ⟨hf, hw⟩ := State.pass_alone_looks hfs (State.mem_of_teamAt hat List.mem_cons_self) (by simp [hbar v List.mem_cons_self])
    refine ⟨(s.pass [v]).wake, ?_, hf, ?_⟩
    · show execBarrierRelease s = _
      unfold execBarrierRelease
      simp only [hteam, hready, Bool.false_eq_true, if_false]
    · rw [State.wave?_wake, hw]
      rfl
  case gang =>
    intro s v f hgang hready hfs hclean
    obtain ⟨hmem, hgbar⟩ := State.gbarReady_some hready v List.mem_cons_self
    have hrun := gangVisible_clean (l := s.ev.launch) (cores := ((s.gangTeams s.ev.launch s.ev.gang).map Team.core).eraseDups) hclean
    generalize hks : (((s.gangTeams s.ev.launch s.ev.gang).map Team.core).eraseDups).filter (fun k => !s.fusedAt k) = ks at hrun
    have hwaves : (ks.foldl State.invalidateCore s).waves = s.waves :=
      foldl_keeps (p := State.waves) (f := State.invalidateCore) (fun _ _ => rfl) ks s
    have hfibres : (ks.foldl State.invalidateCore s).fibres = s.fibres :=
      foldl_keeps (p := State.fibres) (f := State.invalidateCore) (fun _ _ => rfl) ks s
    have hfs' : (ks.foldl State.invalidateCore s).waveFibres v = [f] := by
      rw [← hfs]
      exact State.waveFibres_congr (fun k => by unfold State.fibre?; rw [hfibres]) rfl rfl rfl
    obtain ⟨hf, hw⟩ := State.pass_alone_looks hfs' (hwaves ▸ hmem) (by simp [hgbar])
    refine ⟨((ks.foldl State.invalidateCore s).pass [v]).dropAnswers.wake, ?_, hf, ?_⟩
    · show execBarrierRelease s = _
      unfold execBarrierRelease
      simp only [hgang, hready, if_true]
      unfold State.attempt
      rw [bind_ok hrun]
      rfl
    · rw [State.wave?_wake, show ((ks.foldl State.invalidateCore s).pass [v]).dropAnswers.wave? v.id = _ from hw]
      rfl

end

end Sys2Proof.Machine
end

section
/-! FORK and END (14 R284, R285): the children in the lowest free slots of the crew, and what is left of a fibre that has ended. -/

namespace Sys2Proof.Machine

/-! ### Where an issue ends whose effect makes fibres or takes them away -/

section
variable {op : Op} {w : Fields} {s s1 : State} {wv : Wave} {f x : Fibre}

/-- The end of an issue by a lone fibre touches that fibre alone, whichever other fibres its effect left. -/
theorem Solo.done_looks (h : Solo op w s wv f) (hr : wv.reissue = false) (hs : s1.Calm) :
    SameBut s1 (s1.done (soloCtx op w s wv f) [f]) ∧ ∀ k, (s1.done (soloCtx op w s wv f) [f]).fibre? k
      = (s1.fibre? k).map (fun g => if k = f.id then g.ended op w else g) := by
  have hids : (soloCtx op w s wv f).act.map Fibre.id = [f.id] := by rw [Solo.act_eq h]; rfl
  obtain ⟨hsame, hfib⟩ := State.done_same (s := s1) (c := soloCtx op w s wv f) (fs := [f]) hr (calm_openWindows rfl hs hs.2)
  refine ⟨SameBut.trans (by unfold SameBut; rw [State.openWindows_same]) hsame, fun k => ?_⟩
  rw [State.fibre?_map (Fibre.settled_id _) _ _ hfib, hids, State.openWindows_fibre? _ _ _ (List.nodup_cons.mpr ⟨List.not_mem_nil, List.nodup_nil⟩), Option.map_map]
  cases hk : s1.fibre? k with
  | none => rfl
  | some g =>
    have hid := State.fibre?_id hk
    by_cases hf : k = f.id
    · have hset : ([f.id].contains g.id) = true := by simp [hid, hf]
      simp only [Option.map_some, Function.comp, hf, List.contains_cons, beq_self_eq_true, Bool.true_or, if_true]
      show some (Fibre.settled [f.id] (g.opened op w)) = _
      unfold Fibre.settled
      rw [if_pos (by exact hset)]
      rfl
    · have hset : ([f.id].contains g.id) = false := by simpa [hid] using hf
      have hopen : ([f.id].contains k) = false := by simpa using hf
      simp only [Option.map_some, Function.comp, hopen, Bool.false_eq_true, if_false, hf]
      show some (Fibre.settled [f.id] g) = _
      unfold Fibre.settled
      rw [if_neg (by simp [hid, hf])]

/-- A fibre whose stores are acknowledged and whose releases are made waits for none. -/
theorem State.storesOpen_none (hx : s.fibre? x.id = some x) (hdues : x.dues = []) (hheld : x.held = [])
    (hfwds : ∀ r ∈ s.fwds, r.posted = false ∨ r.fibre ≠ x.id) : s.storesOpen x.id = false := by
  have hout : s.fwds.any (fun r => r.posted && r.fibre == x.id) = false := by
    refine List.any_eq_false.mpr fun r hr => ?_
    rcases hfwds r hr with hp | hf
    · simp [hp]
    · simp [hf]
  simp [State.storesOpen, State.storesOut, hx, hout, hdues, hheld]

end

/-! ### Children (01 R23; 14 R284) -/

section
variable {s : State} {f : Fibre} {arg pc : Word} {n made i j : Nat} {is : List Nat}

/-- The free slots of a crew, in ascending order. -/
def State.openSlots (s : State) (crew : CrewId) (slots : Nat) : List Nat := (List.range slots).filter (fun i => (s.fibre? ⟨crew, i⟩).isNone)

/-- The child of a fibre in a slot, with its number among the children. -/
def Fibre.child (f : Fibre) (arg pc : Word) (i made : Nat) : Fibre :=
  { id := ⟨f.id.crew, i⟩, pc := pc, obj := f.obj, round := f.round
    regs := (((List.replicate f.regs.length 0).set 0 1).set 1 arg).set 2 (BitVec.ofNat 32 made) }

/-- The children of a fibre in these slots, numbered from `made` on. -/
def Fibre.children (f : Fibre) (arg pc : Word) (made : Nat) (is : List Nat) : List Fibre :=
  (is.zipIdx made).map (fun p => f.child arg pc p.1 p.2)

theorem State.openSlots_nodup (s : State) (crew : CrewId) (slots : Nat) : (s.openSlots crew slots).Nodup :=
  List.nodup_range.filter _

theorem State.openSlots_free {crew : CrewId} {slots : Nat} (h : i ∈ s.openSlots crew slots) : s.fibre? ⟨crew, i⟩ = none :=
  Option.isNone_iff_eq_none.mp (List.mem_filter.mp h).2

theorem State.openSlots_congr {t : State} (h : ∀ k, (t.fibre? k).isNone = (s.fibre? k).isNone) (crew : CrewId) (slots : Nat) :
    t.openSlots crew slots = s.openSlots crew slots := by
  unfold State.openSlots
  simp only [h]

/-- The lowest free slot is the first of them. -/
theorem State.freeSlot_eq_head? (s : State) (crew : CrewId) (slots : Nat) : s.freeSlot crew slots = (s.openSlots crew slots).head? :=
  List.head?_filter.symm

/-- A new fibre in the lowest free slot leaves the others free. -/
theorem State.openSlots_tail {g : Fibre} {slots : Nat} {rest : List Nat} (h : s.openSlots g.id.crew slots = g.id.index :: rest) :
    ({ s with fibres := s.fibres ++ [g] } : State).openSlots g.id.crew slots = rest := by
  have hlook (k : Nat) : ((({ s with fibres := s.fibres ++ [g] } : State).fibre? ⟨g.id.crew, k⟩).isNone)
      = ((k != g.id.index) && (s.fibre? ⟨g.id.crew, k⟩).isNone) := by
    unfold State.fibre?
    rw [List.find?_append, List.find?_cons, List.find?_nil]
    by_cases hk : g.id.index = k
    · subst hk
      simp
    · have hid : (g.id == (⟨g.id.crew, k⟩ : FibreId)) = false := beq_eq_false_iff_ne.mpr fun e => hk (congrArg FibreId.index e)
      simp [hid, Ne.symm hk]
  have hne : ∀ k ∈ rest, k ≠ g.id.index := fun k hk e =>
    (List.nodup_cons.mp (h ▸ s.openSlots_nodup g.id.crew slots)).1 (e ▸ hk)
  calc _ = ((s.openSlots g.id.crew slots).filter (fun k => k != g.id.index)) := by
        unfold State.openSlots
        rw [List.filter_filter]
        exact List.filter_congr fun k _ => hlook k
    _ = rest := by
        rw [h, List.filter_cons_of_neg (by simp)]
        exact List.filter_eq_self.mpr fun k hk => by simpa using hne k hk

/-- FORK's children stand in the lowest free slots, as many as are asked for and free. -/
theorem forkFrom_eq (f : Fibre) (arg pc : Word) (slots n made : Nat) (s : State) : forkFrom f arg pc slots n made s
    = ({ s with fibres := s.fibres ++ f.children arg pc made ((s.openSlots f.id.crew slots).take n) },
        (s.openSlots f.id.crew slots).take n) := by
  induction n generalizing made s with
  | zero => simp [forkFrom, Fibre.children]
  | succ n ih =>
    unfold forkFrom
    rw [State.freeSlot_eq_head?]
    cases hfree : s.openSlots f.id.crew slots with
    | nil => simp [Fibre.children]
    | cons i rest =>
      have hrest := State.openSlots_tail (g := f.child arg pc i made) hfree
      show (let (t, is) := forkFrom f arg pc slots n (made + 1) { s with fibres := s.fibres ++ [f.child arg pc i made] }
        ((t, i :: is) : State × List Nat)) = _
      rw [ih, show State.openSlots _ f.id.crew slots = rest from hrest]
      simp [Fibre.children]

theorem Fibre.child_id (f : Fibre) (arg pc : Word) (i made : Nat) : (f.child arg pc i made).id = ⟨f.id.crew, i⟩ := rfl

/-- The child in the k-th of different slots. -/
theorem Fibre.find?_children {k : Nat} (hn : is.Nodup) (hk : is[k]? = some i) :
    (f.children arg pc made is).find? (fun g => g.id == ⟨f.id.crew, i⟩) = some (f.child arg pc i (made + k)) := by
  induction is generalizing made k with
  | nil => cases hk
  | cons j js ih =>
    have hn := List.nodup_cons.mp hn
    unfold Fibre.children at ih ⊢
    rw [List.zipIdx_cons, List.map_cons, List.find?_cons, Fibre.child_id]
    cases k with
    | zero =>
      cases hk
      simp
    | succ k =>
      have hk' : js[k]? = some i := hk
      have hne : j ≠ i := fun e => hn.1 (e ▸ List.mem_of_getElem? hk')
      have hid : ((⟨f.id.crew, j⟩ : FibreId) == ⟨f.id.crew, i⟩) = false := beq_eq_false_iff_ne.mpr fun e => hne (congrArg FibreId.index e)
      simp only [hid]
      rw [ih hn.2 hk', Nat.add_assoc, Nat.add_comm 1 k]

/-- No child stands under another name. -/
theorem Fibre.find?_children_none {k : FibreId} (h : ∀ i ∈ is, k ≠ ⟨f.id.crew, i⟩) :
    (f.children arg pc made is).find? (fun g => g.id == k) = none := by
  refine List.find?_eq_none.mpr fun g hg => ?_
  obtain ⟨⟨i, m⟩, hp, rfl⟩ := List.mem_map.mp hg
  rw [Fibre.child_id]
  exact fun e => h i (List.fst_mem_of_mem_zipIdx hp) (eq_of_beq e).symm

/-- The waves of new children wait at nothing. -/
theorem State.Unmet.childWaves (h : s.Unmet) (crew : CrewId) (is : List Nat) : (s.childWaves crew is).Unmet := by
  refine List.foldlRecOn (motive := State.Unmet) _ _ h fun t ht k _ => ?_
  intro v hv
  rcases List.mem_append.mp hv with hv | hv
  · exact ht v hv
  · cases List.mem_singleton.mp hv
    simp

end

/-! ### FORK (14 R284) -/

section
variable {w : Fields} {s : State} {wv : Wave} {f : Fibre} {c : Ctx} {x : Fibre}

/-- The slots that a launch's object gives each crew. -/
def State.crewSlots (s : State) (launch : Nat) : Nat := (((s.launch? launch).bind (fun l => s.object? l.obj)).map Object.fibres).getD 0

/-- The slots that a fibre's FORK takes. -/
def State.forkSlots (s : State) (c : Ctx) (x : Fibre) : List Nat := (s.openSlots x.id.crew (s.crewSlots c.launch)).take (c.a x).toNat

/-- The fibres after a FORK: the children, and the parent with their count. -/
def State.forked (s : State) (c : Ctx) (x : Fibre) : State :=
  ({ s with fibres := s.fibres ++ x.children (c.b x) c.target 0 (s.forkSlots c x) } : State).setFibre
    (c.putD x (BitVec.ofNat 32 (s.forkSlots c x).length))

theorem bodyFork_lone (hact : c.act = [x]) (hlead : c.lead = x) (hok : codeOk s x.obj c.target = true) (hopen : s.storesOpen x.id = false) :
    bodyFork c s = .ok ((s.forked c x).childWaves c.wv.crew (s.forkSlots c x), []) := by
  unfold bodyFork
  rw [hact, hlead, hok]
  simp only [Bool.not_true, Bool.false_eq_true, if_false, List.any_cons, List.any_nil, Bool.or_false, hopen, forkAll, List.append_nil]
  rw [forkFrom_eq]
  rfl

theorem State.forked_group (hs : ∀ g ∈ s.fibres, g.group = none) (hx : x.group = none) (c : Ctx) :
    ∀ g ∈ (s.forked c x).fibres, g.group = none := by
  intro g hg
  obtain ⟨y, hy, rfl⟩ := List.mem_map.mp (State.setFibre_fibres _ _ ▸ hg)
  split
  · exact (c.putD_same x _ _).2.trans hx
  · rcases List.mem_append.mp hy with hy | hy
    · exact hs y hy
    · obtain ⟨p, -, rfl⟩ := List.mem_map.mp hy
      rfl

/-- A fibre after the FORK of x: of the children, of the parent, or of the others. -/
theorem State.forked_fibre? (s : State) (c : Ctx) (x : Fibre) (k : FibreId) : (s.forked c x).fibre? k
    = ((s.fibre? k).or ((x.children (c.b x) c.target 0 (s.forkSlots c x)).find? (fun g => g.id == k))).map
        (fun g => if k = x.id then c.putD x (BitVec.ofNat 32 (s.forkSlots c x).length) else g) := by
  unfold State.forked
  rw [State.fibre?_setFibre, (c.putD_same x _ _).1]
  unfold State.fibre?
  rw [List.find?_append]
  refine Option.map_congr fun g hg => ?_
  have hid : g.id = k := by
    rcases Option.or_eq_some_iff.mp hg with h | ⟨-, h⟩
    · exact State.fibre?_id h
    · exact eq_of_beq (List.find?_some (p := fun g : Fibre => g.id == k) h)
  simp [hid]

/-- FORK by a lone fibre whose target lies in the code and whose stores are acknowledged. -/
theorem fork_lone (h : IssuesOne .fork w s wv f) (hok : codeOk s f.obj (f.pc + w.imm) = true) (hdues : f.dues = []) (hheld : f.held = [])
    (hfwds : ∀ r ∈ s.fwds, r.posted = false ∨ r.fibre ≠ f.id) :
    ∃ t, exec (.fork w) s = .next t ∧ SameBut s t ∧ ∀ k, t.fibre? k
      = (((s.begun (soloCtx .fork w s wv f)).forked (soloCtx .fork w s wv f) (f.issued (s.fallOf f.pc))).fibre? k).map
          (fun g => if k = f.id then g.ended .fork w else g) := by
  obtain ⟨h, hre, hcalm⟩ := h
  have hcur := Solo.cur h
  have hopen := State.storesOpen_none (x := f.issued (s.fallOf f.pc)) hcur hdues hheld hfwds
  have hrun := bodyFork_lone (s := s.begun (soloCtx .fork w s wv f)) (Solo.act_eq h) (Solo.lead_eq h) hok hopen
  have hgroup := State.forked_group (Ready.begun_group h hcalm)
    (Ready.begun_group h hcalm _ (List.mem_of_find?_eq_some hcur)) (soloCtx .fork w s wv f)
  generalize hv : (s.begun (soloCtx .fork w s wv f)).forked (soloCtx .fork w s wv f) (f.issued (s.fallOf f.pc)) = v at hrun hgroup ⊢
  generalize (s.begun (soloCtx .fork w s wv f)).forkSlots (soloCtx .fork w s wv f) (f.issued (s.fallOf f.pc)) = is at hrun
  have hsv : SameBut s v := by rw [← hv]; rfl
  have hunmet : v.Unmet := by rw [← hv]; exact hcalm.1
  have hwaves : WavesOnly v (v.childWaves wv.crew is) := State.childWaves_same v wv.crew is
  have hcalm' : (v.childWaves wv.crew is).Calm := ⟨State.Unmet.childWaves hunmet _ _, by rw [hwaves.fibres]; exact hgroup⟩
  obtain ⟨hsame, hlook⟩ := Solo.done_looks h hre hcalm'
  have hfibre (k : FibreId) : (v.childWaves wv.crew is).fibre? k = v.fibre? k := by unfold State.fibre?; rw [hwaves.fibres]
  exact ⟨_, issue_done h hrun, SameBut.trans hsv (SameBut.trans hwaves.sameBut hsame), fun k => (hlook k).trans (by rw [hfibre])⟩

end

/-! ### END (14 R285) -/

section
variable {w : Fields} {s : State} {wv : Wave} {f x : Fibre} {k : FibreId}

/-- The fibres left by one that ends are those that lose it from their meet sets, without itself. -/
theorem State.endFibre_fibres (s : State) (f : Fibre) : (s.endFibre f).fibres = ((s.dropFibre f.id).leaveMeets f.id).fibres := by
  unfold State.endFibre
  cases f.id.crew <;> rfl

/-- The waves that an ended fibre leaves are waves that were there, and wait where they did. -/
theorem State.Unmet.endFibre (h : s.Unmet) (f : Fibre) : (s.endFibre f).Unmet := by
  have hsub : ∀ v ∈ (s.endFibre f).waves, ∃ y ∈ s.waves, v.wait = y.wait := by
    intro v hv
    have hmem : v ∈ (((s.dropFibre f.id).leaveMeets f.id).waves.map (fun u =>
        if u.crew == f.id.crew && u.home == f.home then { u with lanes := u.lanes &&& ~~~ BitVec.ofNat 32 (2 ^ f.lane) } else u)) := by
      unfold State.endFibre at hv
      cases hc : f.id.crew with
      | team => rw [hc] at hv; exact (List.mem_filter.mp hv).1
      | item => rw [hc] at hv; exact (List.mem_filter.mp hv).1
    obtain ⟨u, hu, rfl⟩ := List.mem_map.mp hmem
    obtain ⟨y, hy, rfl⟩ := List.mem_map.mp hu
    refine ⟨y, hy, ?_⟩
    split <;> split <;> rfl
  intro v hv
  obtain ⟨y, hy, hwait⟩ := hsub v hv
  rw [hwait]
  exact h y hy

theorem State.endFibre_group (hs : ∀ g ∈ s.fibres, g.group = none) (f : Fibre) : ∀ g ∈ (s.endFibre f).fibres, g.group = none := by
  intro g hg
  obtain ⟨y, hy, rfl⟩ := List.mem_map.mp (State.endFibre_fibres s f ▸ hg)
  have hy := hs y (List.mem_filter.mp hy).1
  split <;> exact hy

/-- What a fibre keeps of its meet sets when the fibre named `i` leaves them. -/
def Fibre.leftBy (i : FibreId) (f : Fibre) : Fibre :=
  if f.id.crew == i.crew && f.home == i.index / 32 then
    { f with inTrap := f.inTrap.map (fun t => { t with meet := t.meet &&& ~~~ BitVec.ofNat 32 (2 ^ (i.index % 32)) })
             groupMeet := f.groupMeet &&& ~~~ BitVec.ofNat 32 (2 ^ (i.index % 32)) }
  else f

theorem Fibre.leftBy_id (i : FibreId) (f : Fibre) : (f.leftBy i).id = f.id := by
  unfold Fibre.leftBy
  split <;> rfl

theorem State.leaveMeets_fibre? (s : State) (i k : FibreId) : (s.leaveMeets i).fibre? k = (s.fibre? k).map (Fibre.leftBy i) :=
  State.fibre?_map (Fibre.leftBy_id i) s _ rfl k

theorem State.dropFibre_fibre? (s : State) (i k : FibreId) : (s.dropFibre i).fibre? k = if k = i then none else s.fibre? k := by
  unfold State.fibre?
  rw [State.dropFibre_fibres, List.find?_filter]
  split
  · next hk =>
    subst hk
    exact List.find?_eq_none.mpr fun g _ => by simp
  · next hk =>
    refine congrArg (fun p => List.find? p s.fibres) (funext fun g => ?_)
    by_cases hg : g.id = k
    · simp [hg, hk]
    · simp [hg]

/-- An ended fibre is gone; another fibre has left its meet sets. -/
theorem State.endFibre_fibre? (s : State) (f : Fibre) (k : FibreId) :
    (s.endFibre f).fibre? k = if k = f.id then none else (s.leaveMeets f.id).fibre? k := by
  have hdrop : (s.endFibre f).fibre? k = ((s.dropFibre f.id).leaveMeets f.id).fibre? k := by
    unfold State.fibre?
    rw [State.endFibre_fibres]
  rw [hdrop, State.leaveMeets_fibre?, State.leaveMeets_fibre?, State.dropFibre_fibre?]
  split <;> rfl

/-- A fibre's end, once its stores are acknowledged and, for an item, its release is made. -/
theorem laneEnd_run {c : Ctx} (hopen : s.storesOpen x.id = false) (hrel : x.isItem = true → (release (s.whoOf c x) 3).run s = .ok ((), s)) :
    (laneEnd c x).run s = .ok ((), s.endFibre x) := by
  unfold laneEnd
  rw [bind_get, hopen]
  by_cases hitem : x.isItem = true
  · simp only [Bool.false_eq_true, if_false, hitem, if_true]
    exact bind_ok (hrel hitem)
  · simp only [Bool.false_eq_true, if_false, hitem]
    rfl

/-- The other fibres as an effect of a lone fibre begins. -/
theorem Solo.begun_other {op : Op} (h : Solo op w s wv f) (hk : k ≠ f.id) : (s.begun (soloCtx op w s wv f)).fibre? k = s.fibre? k := by
  rw [begun_fibre? h]
  have hout : ([f].map Fibre.id).contains k = false := by simpa using hk
  simp only [hout, Bool.false_eq_true, if_false, Option.map_id']

/-- END by a lone fibre that nothing holds back. -/
theorem end_lone (h : IssuesOne .endF w s wv f) (hrun : (laneEnd (soloCtx .endF w s wv f) (f.issued (s.fallOf f.pc))).run
      (s.begun (soloCtx .endF w s wv f)) = .ok ((), (s.begun (soloCtx .endF w s wv f)).endFibre (f.issued (s.fallOf f.pc)))) :
    ∃ t, exec (.endF w) s = .next t ∧ SameBut ((s.begun (soloCtx .endF w s wv f)).endFibre (f.issued (s.fallOf f.pc))) t
      ∧ t.fibre? f.id = none ∧ ∀ k, k ≠ f.id → t.fibre? k = (s.leaveMeets f.id).fibre? k := by
  obtain ⟨h, hre, hcalm⟩ := h
  have hunmet : (s.begun (soloCtx .endF w s wv f)).Unmet := hcalm.1
  obtain ⟨hsame, hlook⟩ := Solo.done_looks h hre ⟨State.Unmet.endFibre hunmet _, State.endFibre_group (Ready.begun_group h hcalm) _⟩
  have hid : (f.issued (s.fallOf f.pc)).id = f.id := rfl
  refine ⟨_, issue_solo h hrun, hsame, ?_, fun k hk => ?_⟩
  · rw [hlook, State.endFibre_fibre?, hid, if_pos rfl]
    rfl
  · rw [hlook, State.endFibre_fibre?, hid, if_neg hk, State.leaveMeets_fibre?, State.leaveMeets_fibre?, Solo.begun_other h hk]
    simp only [hk, if_false, Option.map_id']

/-- What the end of a fibre of a team does beyond the fibres: its locks and its token are free, and what it had issued is left behind. -/
theorem State.endFibre_team (s : State) {f : Fibre} (hteam : f.isItem = false) : SameBut ((s.freeTx f.id).orphan f) (s.endFibre f) := by
  unfold State.endFibre
  unfold Fibre.isItem at hteam
  cases hc : f.id.crew with
  | team => rfl
  | item => rw [hc] at hteam; cases hteam

end

/-! ### The statement -/

/-- Settles O35: FORK's children stand in the open slots in ascending order; an ended fibre is dropped, and what it leaves is told by
`State.endFibre_fibre?`. -/
theorem forkAndEnd : Obligations.ForkAndEnd := by
  unfold Obligations.ForkAndEnd
  refine ⟨?fork, ?team, ?item⟩
  case fork =>
    intro w s wv f h c x slots free is hok hdues hheld hfwds
    obtain ⟨t, hexec, hsame, hlook⟩ := fork_lone h hok hdues hheld hfwds
    have hcur : (s.begun c).fibre? f.id = some x := Solo.cur h.1
    have hopen (k : FibreId) : ((s.begun c).fibre? k).isNone = (s.fibre? k).isNone := by
      rw [begun_fibre? h.1, Option.isNone_map]
    have his : (s.begun c).forkSlots c x = is := congrArg (List.take _) (State.openSlots_congr hopen f.id.crew slots)
    have hnodup : is.Nodup := (s.openSlots_nodup f.id.crew slots).sublist (List.take_sublist _ _)
    have hlook (k : FibreId) : t.fibre? k = (((s.begun c).fibre? k).or ((x.children (c.b x) c.target 0 is).find? (fun g => g.id == k))).map
        (fun g => if k = f.id then (c.putD x (BitVec.ofNat 32 is.length)).ended .fork w else g) := by
      rw [hlook k, ← his]
      refine (congrArg _ (State.forked_fibre? (s.begun c) c x k)).trans ?_
      rw [Option.map_map]
      refine Option.map_congr fun g _ => ?_
      by_cases hk : k = f.id
      · simp only [Function.comp, hk, show f.id = x.id from rfl, if_true]
      · simp only [Function.comp, hk, show k ≠ x.id from hk, if_false]
    refine ⟨t, hexec, hsame, ?_, fun k i hk => ?_, fun j hj hne => ?_⟩
    · rw [hlook, hcur, Option.some_or, Option.map_some, if_pos rfl]
    · have hfree : (s.begun c).fibre? ⟨f.id.crew, i⟩ = none :=
        Option.isNone_iff_eq_none.mp (by rw [hopen, State.openSlots_free (List.mem_of_mem_take (List.mem_of_getElem? hk))]; rfl)
      have hne : (⟨f.id.crew, i⟩ : FibreId) ≠ f.id := fun e => by rw [e, hcur] at hfree; cases hfree
      have hchild : (x.children (c.b x) c.target 0 is).find? (fun g => g.id == ⟨f.id.crew, i⟩) = some (x.child (c.b x) c.target i (0 + k)) :=
        Fibre.find?_children hnodup hk
      rw [hlook, hfree, Option.none_or, hchild, Option.map_some, if_neg hne, Nat.zero_add]
      rfl
    · rw [hlook, Fibre.find?_children_none (f := x) hne, Option.or_none, Solo.begun_other h.1 hj]
      simp only [hj, if_false, Option.map_id']
  case team =>
    intro w s wv f h hteam hdues hheld hfwds
    have hopen := State.storesOpen_none (x := f.issued (s.fallOf f.pc)) (Solo.cur h.1) hdues hheld hfwds
    obtain ⟨t, hexec, hsame, hgone, hother⟩ := end_lone h (laneEnd_run hopen fun hitem => absurd (hitem.symm.trans hteam) (by decide))
    refine ⟨t, hexec, SameBut.trans ?_ hsame, hgone, hother⟩
    exact SameBut.trans (by rfl) (State.endFibre_team (s.begun (soloCtx .endF w s wv f)) (f := f.issued (s.fallOf f.pc)) hteam)
  case item =>
    intro w s wv f h _ hquiet
    have hcur := Solo.cur h.1
    obtain ⟨hdues, hheld, hfwds, -⟩ := id hquiet
    have hopen := State.storesOpen_none (x := f.issued (s.fallOf f.pc)) hcur hdues hheld hfwds
    obtain ⟨t, hexec, -, hgone, -⟩ := end_lone h (laneEnd_run hopen fun _ => release_quiet hcur hquiet 3)
    exact ⟨t, hexec, hgone⟩

end Sys2Proof.Machine
end

section
/-! Barrier objects in the fibre's own scratchpad, and WAITV (14 R291 to R293), in a wave of one fibre. -/

namespace Sys2Proof.Machine

/-! ### An object in the own scratchpad (14 R291) -/

section
variable {s : State} {c : Ctx} {x : Fibre} {t : Team} {o : BarObj} {a : Word} {off n : Nat}

theorem teamM_run (h : s.teamOf? x.id.crew = some t) : (teamM x).run s = .ok (t, s) := by
  unfold teamM
  rw [bind_get, h]
  rfl

theorem spCheck_run (hal : n % off = 0) (hfit : n + off ≤ t.spSize) : (spCheck t n off).run s = .ok ((), s) := by
  unfold spCheck
  rw [bind_check (by simp [hal])]
  exact checkM_true (by simpa using hfit)

/-- An address below 2^20 names no sibling. -/
theorem objPlace_own (h : a.toNat < 2 ^ 20) : objPlace a = (a.toNat % 2 ^ 18, none) := by
  have hbit : a.getLsbD 20 = false := Nat.testBit_lt_two_pow h
  unfold objPlace
  rw [hbit]
  rfl

theorem objTeam_run (h : OwnObj s x t a) : (objTeam x a).run s = .ok (t, s) := by
  obtain ⟨ha, hteam, hal, hfit, -⟩ := h
  unfold objTeam
  rw [objPlace_own ha, bind_check (by rw [beq_iff_eq]; omega)]
  dsimp only
  rw [bind_ok (teamM_run hteam), bind_ok (spCheck_run hal hfit)]
  rfl

/-- An object named by an operand lies on no poisoned line. -/
theorem OwnObj.sound (h : OwnObj s x t a) : t.bad (a.toNat % 2 ^ 18) 16 = false := by
  obtain ⟨-, -, -, -, hbad⟩ := h
  exact hbad

theorem readObj_run (hbad : t.bad off 16 = false) (h : ObjAt t off o) : (readObj t off).run s = .ok (o, s) := by
  obtain ⟨he, hr, hp, hz, h1, h20, hs1, hs6, hlt⟩ := h
  unfold readObj spSound
  rw [bind_check (by simp [hbad]), he, hr, hp, hz]
  have hexpect : (o.expect + 2 ^ 20 * o.scope) % 2 ^ 20 = o.expect := by omega
  have hscope : (o.expect + 2 ^ 20 * o.scope) / 2 ^ 20 % 8 = o.scope := by omega
  have hrest : (o.expect + 2 ^ 20 * o.scope) / 2 ^ 23 = 0 := by omega
  extract_lets e r z o'
  have ho : o' = o := by
    show BarObj.mk ((o.expect + 2 ^ 20 * o.scope) % 2 ^ 20) ((o.expect + 2 ^ 20 * o.scope) / 2 ^ 20 % 8) o.arrived (BitVec.ofNat 32 o.phase.toNat) = o
    rw [hexpect, hscope, BitVec.ofNat_toNat, BitVec.setWidth_eq]
  rw [ho, show e / 2 ^ 23 = 0 from hrest, bind_check (by simp [h1, hs1, hs6, r, z, hlt])]
  rfl

theorem writeObj_run : (writeObj t off o).run s = .ok ((), s.setTeam (t.putObj off o)) := rfl

@[simp] theorem Team.putObj_launch (t : Team) (off : Nat) (o : BarObj) : (t.putObj off o).launch = t.launch := rfl
@[simp] theorem Team.putObj_id (t : Team) (off : Nat) (o : BarObj) : (t.putObj off o).id = t.id := rfl
@[simp] theorem Team.putObj_spSize (t : Team) (off : Nat) (o : BarObj) : (t.putObj off o).spSize = t.spSize := rfl
@[simp] theorem Team.putObj_bad (t : Team) (off : Nat) (o : BarObj) (a n : Nat) : (t.putObj off o).bad a n = t.bad a n := rfl

/-- Bytes written leave other bytes as they read. -/
theorem Memory.getN_setN_other {m : Memory} (hm : m.wf) (a n v : Nat) {b k : Nat} (h : b + k ≤ a ∨ a + n ≤ b) :
    (m.setN a n v).getN b k = m.getN b k := by
  induction k generalizing b with
  | zero => rfl
  | succ k ih => rw [Memory.getN, Memory.getN, ih (by omega), Memory.get_setN_other hm _ _ _ (by omega)]

/-- An object reads as it was written. -/
theorem ObjAt.putObj (hwf : t.sp.wf) (h1 : 1 ≤ o.expect) (h20 : o.expect < 2 ^ 20) (hs1 : 1 ≤ o.scope) (hs6 : o.scope ≤ 6)
    (hlt : o.arrived < o.expect) : ObjAt (t.putObj off o) off o := by
  have hp := o.phase.isLt
  have hw1 := Memory.wf_setN hwf off 4 (o.expect + 2 ^ 20 * o.scope)
  have hw2 := Memory.wf_setN hw1 (off + 4) 4 o.arrived
  have hw3 := Memory.wf_setN hw2 (off + 8) 4 o.phase.toNat
  refine ⟨?expect, ?arrived, ?phase, ?zero, h1, h20, hs1, hs6, hlt⟩ <;> unfold Team.putObj
  case expect =>
    rw [Memory.getN_setN_other hw3 _ _ _ (by omega), Memory.getN_setN_other hw2 _ _ _ (by omega), Memory.getN_setN_other hw1 _ _ _ (by omega),
      Memory.getN_setN hwf]
    omega
  case arrived =>
    rw [Memory.getN_setN_other hw3 _ _ _ (by omega), Memory.getN_setN_other hw2 _ _ _ (by omega), Memory.getN_setN hw1]
    omega
  case phase =>
    rw [Memory.getN_setN_other hw3 _ _ _ (by omega), Memory.getN_setN hw2]
    omega
  case zero => rw [Memory.getN_setN hw3, Nat.zero_mod]

/-- An arrival keeps an object's count and its scope. -/
theorem BarObj.arrive_last (h : o.arrived + 1 = o.expect) : o.arrive = { o with arrived := 0, phase := o.phase + 1 } := if_pos h

/-- The team of a fibre under its own name. -/
theorem State.team?_of_teamOf? (h : s.teamOf? x.id.crew = some t) : s.team? t.launch t.id = some t := by
  unfold State.teamOf? at h
  split at h
  · obtain ⟨rfl, rfl⟩ := State.team?_key h
    exact h
  · cases h

theorem OwnObj.team? (h : OwnObj s x t a) : s.team? t.launch t.id = some t := by
  obtain ⟨-, hteam, -⟩ := h
  exact State.team?_of_teamOf? hteam

/-- The team of a fibre with an object written is the fibre's team. -/
theorem OwnObj.putObj (h : OwnObj s x t a) : OwnObj (s.setTeam (t.putObj off o)) x (t.putObj off o) a := by
  obtain ⟨ha, hteam, hal, hfit, hbad⟩ := h
  refine ⟨ha, ?_, hal, by rw [Team.putObj_spSize]; exact hfit, by rw [Team.putObj_bad]; exact hbad⟩
  unfold State.teamOf? at hteam ⊢
  split at hteam
  · exact State.team?_setTeam hteam (t.putObj_launch off o) (t.putObj_id off o)
  · cases hteam

/-- A launch that is no span's waits for no GO. -/
theorem spanGate_run (h : NoSpan s c) (k : Nat) : (spanGate (s.whoOf c x) k).run s = .ok ((), s) := by
  unfold spanGate
  rw [bind_get, show (s.launch? (s.whoOf c x).launch).bind Launch.span = none from h]
  rfl

/-- Where no fibre waits, a phase step releases none. -/
theorem State.releaseObj_none (h : ∀ g ∈ s.fibres, g.objWait = none) (t : Team) (off k : Nat) : s.releaseObj t off k = s := by
  have hmap : s.fibres.map (fun (f : Fibre) => { f with objWait := f.objWait.map (fun w =>
      if w.launch == t.launch && w.team == t.id && w.at_ == off && !w.released then w.over k else w) }) = s.fibres := by
    refine (List.map_congr_left fun g hg => ?_).trans (List.map_id _)
    rw [h g hg]
    show ({ g with objWait := none } : Fibre) = g
    rw [← h g hg]
  unfold State.releaseObj
  rw [hmap]

/-- An arrival counts, and delivers the phase that it found. -/
theorem arrive_run (hx : s.fibre? x.id = some x) (hown : OwnObj s x t (c.a x)) (hobj : ObjAt t ((c.a x).toNat % 2 ^ 18) o)
    (hquiet : Quiet s c.core x) (hspan : NoSpan s c) (hlone : o.arrived + 1 ≠ o.expect ∨ ∀ g ∈ s.fibres, g.objWait = none) :
    (arrive c x).run s = .ok (o.phase, s.setTeam (t.putObj ((c.a x).toNat % 2 ^ 18) o.arrive)) := by
  unfold arrive
  rw [bind_ok (objTeam_run hown), objPlace_own hown.1, bind_ok (readObj_run (OwnObj.sound hown) hobj), bind_get, bind_ok (spanGate_run hspan _),
    bind_ok (release_quiet (who := s.whoOf c x) hx hquiet _), bind_ok (objTeam_run hown)]
  by_cases hlast : o.arrived + 1 = o.expect
  · have hnone := hlone.resolve_left (fun h => h hlast)
    rw [BarObj.arrive_last hlast]
    simp only [hlast, beq_self_eq_true, if_true]
    rw [bind_ok writeObj_run, bind_modify, State.releaseObj_none (by exact hnone)]
    rfl
  · rw [show o.arrive = { o with arrived := o.arrived + 1 } from if_neg hlast]
    simp only [beq_iff_eq, hlast, if_false]
    rw [bind_ok writeObj_run]
    rfl

end

/-! ### Effects whose lanes act as each can, in a wave of one fibre -/

section
variable {op : Op} {w : Fields} {s t : State} {c : Ctx} {wv : Wave} {f x y : Fibre} {g : Ctx → Fibre → M Unit}
  {key : Fibre → Option Nat} {body : Body}

theorem tryLanes_lone {skip : Bool} (hskip : (skip && c.served x) = false) (hx : s.fibre? x.id = some y) (hrun : (g c y).run s = .ok ((), t)) :
    tryLanes c skip key g [] [x] s = (t, []) := by
  unfold tryLanes
  simp only [hskip, Bool.false_eq_true, if_false, List.contains_nil, Bool.and_false, hx, Option.getD_some, hrun]
  rfl

theorem lanesFrom_lone (hx : s.fibre? x.id = some y) (hrun : (g c y).run s = .ok ((), t)) : lanesFrom c g [x] s = .ok (t, []) := by
  simp only [lanesFrom, hx, Option.getD_some, hrun]
  rfl

theorem heldBy_lone (hact : c.act = [x]) (hserved : c.served x = false) (hx : s.fibre? x.id = some x) (hrun : (g c x).run s = .ok ((), t)) :
    heldBy key g c s = .ok (t, []) := by
  unfold heldBy
  rw [hact, tryLanes_lone (by simp [hserved]) hx hrun]
  rfl

/-- The fibre of a wave of one that issues is active. -/
theorem Solo.active (h : Solo op w s wv f) : f.active w.guard = true := by
  obtain ⟨-, -, -, -, -, -, -, -, g, hg, hactive⟩ := h
  cases List.mem_singleton.mp hg
  exact hactive

/-- An effect that leaves the only active fibre where it stands. -/
theorem one_body_rule_id {P : Ctx → State → Fibre → Prop} {U : Ctx → State → Fibre → State}
    (he : ∀ w s, exec (op.instr w) s = issue op w body s)
    (hUw : ∀ c s x, P c s x → (U c s x).waves = s.waves)
    (hb : ∀ (c : Ctx) (s : State) (x : Fibre) (fb : List Fibre), P c s x → c.act = [x] → (s.withFibres fb).fibre? x.id = some x →
      body c (s.withFibres fb) = .ok ((U c s x).withFibres fb, [])) : OneRule op P (fun _ _ x => x) U := by
  intro w s wv f h hP
  have hc := Solo.cur h.1
  have hrun := hb _ s _ (s.begun (soloCtx op w s wv f)).fibres hP (Solo.act_eq h.1) (by rw [begun_eq] at hc; exact hc)
  rw [← begun_eq] at hrun
  have hlane := ends_lane_id (g := fun _ _ => set ((U (soloCtx op w s wv f) s (f.issued (s.fallOf f.pc))).withFibres
    (s.begun (soloCtx op w s wv f)).fibres)) (u := U (soloCtx op w s wv f) s (f.issued (s.fallOf f.pc))) h rfl rfl (hUw _ _ _ hP) (by exact rfl)
  rw [issue_solo h.1 rfl] at hlane
  rw [he, issue_done h.1 hrun]
  obtain ⟨t, ht, hsame, hin, hout⟩ := hlane
  refine ⟨t, ht, hsame, fun y hy => ?_, hout⟩
  cases List.mem_singleton.mp hy
  rw [hin f hy]
  simp only [Fibre.after, Solo.active h.1, if_true, id_eq]

/-- Fibres that are in no wait at an object are in none as an effect begins. -/
theorem begun_objWait (h : IssuesOne op w s wv f) (hs : ∀ g ∈ s.fibres, g.objWait = none) :
    ∀ g ∈ (s.begun (soloCtx op w s wv f)).fibres, g.objWait = none := by
  intro g hg
  have hm : f ∈ s.waveFibres wv := by rw [h.1.2.1]; exact List.mem_cons_self
  obtain ⟨y, hy, rfl⟩ := List.mem_map.mp (State.setFibre_fibres s (f.issued (s.fallOf f.pc)) ▸ hg)
  split
  · exact hs f (List.mem_of_find?_eq_some (State.mem_waveFibres hm))
  · exact hs y hy

/-- An effect that leaves the only active fibre as G, where it may matter that no fibre waits at an object. -/
theorem one_object_rule {P : Ctx → State → Fibre → Prop} {G : Ctx → State → Fibre → Fibre} {U : Ctx → State → Fibre → State}
    (he : ∀ w s, exec (op.instr w) s = issue op w body s) (hG : ∀ c s x, P c s x → x.Same (G c s x))
    (hUw : ∀ c s x, P c s x → (U c s x).waves = s.waves)
    (hb : ∀ (c : Ctx) (s : State) (x : Fibre) (fb : List Fibre), P c s x → c.act = [x] → (s.withFibres fb).fibre? x.id = some x →
      ((∀ g ∈ s.fibres, g.objWait = none) → ∀ g ∈ fb, g.objWait = none) →
      body c (s.withFibres fb) = .ok (((U c s x).withFibres fb).setFibre (G c s x), [])) : OneRule op P G U := by
  intro w s wv f h hP
  have hc := Solo.cur h.1
  have hrun := hb _ s _ (s.begun (soloCtx op w s wv f)).fibres hP (Solo.act_eq h.1) (by rw [begun_eq] at hc; exact hc) (begun_objWait h)
  obtain ⟨hid, hgroup⟩ := hG _ _ _ hP
  rw [← begun_eq] at hrun
  rw [he]
  exact ends_body h hrun hid (hgroup.trans h.group) rfl (hUw _ _ _ hP) rfl

end

/-! ### Waits at an object (14 R292) -/

section
variable {s v : State} {c : Ctx} {x y : Fibre} {t : Team} {o : BarObj} {off : Nat} {token : Word} {b : Ctx → Fibre → M Unit}

/-- A fibre's wait for an object's phase to be another than `token`. -/
def waitAt (t : Team) (off : Nat) (token : Word) : ObjWait := { launch := t.launch, team := t.id, at_ := off, token := token }

/-- A fibre with another wait at an object, or with none. -/
def Fibre.withWait (f : Fibre) (w : Option ObjWait) : Fibre := { f with objWait := w }

@[simp] theorem Fibre.withWait_id (f : Fibre) (w : Option ObjWait) : (f.withWait w).id = f.id := rfl
@[simp] theorem Fibre.withWait_withWait (f : Fibre) (w w' : Option ObjWait) : (f.withWait w).withWait w' = f.withWait w' := rfl
theorem Fibre.withWait_self (f : Fibre) : f.withWait f.objWait = f := rfl

/-- The device after the completing read of a wait at an object of this scope. -/
def State.acquiredAt (s : State) (c : Ctx) (x : Fibre) (scope : Nat) : State := if s.wide (s.whoOf c x) scope then s.acquired c.core else s

theorem State.acquiredAt_waves (s : State) (c : Ctx) (x : Fibre) (scope : Nat) : (s.acquiredAt c x scope).waves = s.waves := by
  unfold State.acquiredAt
  split
  · exact s.acquired_waves c.core
  · rfl

theorem State.acquiredAt_fibres (s : State) (c : Ctx) (x : Fibre) (scope : Nat) : (s.acquiredAt c x scope).fibres = s.fibres := by
  unfold State.acquiredAt
  split
  · exact foldl_keeps (p := State.fibres) (f := State.invalidateCore) (fun _ _ => rfl) _ s
  · rfl

/-- An acquire is made under a fibre's name. -/
theorem State.acquiredAt_congr (h : y.id = x.id) (scope : Nat) : s.acquiredAt c y scope = s.acquiredAt c x scope := by
  have hwide : s.wide (s.whoOf c y) scope = s.wide (s.whoOf c x) scope := by
    show (_ || y.id.crew.isItem || _) = (_ || x.id.crew.isItem || _)
    rw [h]
    rfl
  unfold State.acquiredAt
  rw [hwide]

theorem State.acquiredAt_setFibre (s : State) (c : Ctx) (x g : Fibre) (scope : Nat) :
    (s.setFibre g).acquiredAt c x scope = (s.acquiredAt c x scope).setFibre g := by
  unfold State.acquiredAt
  rw [State.acquired_setFibre]
  exact (apply_ite (fun u : State => u.setFibre g) ..).symm

theorem State.acquiredAt_withFibres (s : State) (c : Ctx) (x : Fibre) (scope : Nat) (fb : List Fibre) :
    (s.withFibres fb).acquiredAt c x scope = (s.acquiredAt c x scope).withFibres fb := by
  unfold State.acquiredAt
  rw [State.acquired_withFibres]
  exact (apply_ite (fun u : State => u.withFibres fb) ..).symm

theorem acquire_run (scope : Nat) : (acquire (s.whoOf c x) scope).run s = .ok ((), s.acquiredAt c x scope) := rfl

theorem beginWait_run (hx : s.fibre? x.id = some x) (hown : OwnObj s x t (c.a x)) :
    (beginWait c x token).run s = .ok ((), s.setFibre (x.withWait (some (waitAt t ((c.a x).toNat % 2 ^ 18) token)))) := by
  unfold beginWait
  rw [bind_ok (objTeam_run hown), bind_ok (curF_run hx), objPlace_own hown.1]
  rfl

/-- A look at an object whose phase has gone on ends the wait. -/
theorem laneObjLook_run (hwait : y.objWait = some (waitAt t off token)) (hteam : s.team? t.launch t.id = some t) (hbad : t.bad off 16 = false)
    (hobj : ObjAt t off o) (hphase : o.phase ≠ token) :
    (laneObjLook c y).run s = .ok ((), s.setFibre (y.withWait (some ((waitAt t off token).over o.scope)))) := by
  unfold laneObjLook
  rw [hwait]
  dsimp only
  rw [bind_get]
  show (match s.team? t.launch t.id with
    | some u => readObj u off >>= fun o => if (o.phase != token) = true then putF (y.withWait (some ((waitAt t off token).over o.scope)))
        else waitM .value
    | none => waitM .value : M Unit).run s = _
  rw [hteam]
  dsimp only
  rw [bind_ok (readObj_run hbad hobj), if_pos (by simpa using hphase)]
  rfl

/-- The completing read acquires, and the fibre waits no more. -/
theorem laneObjDone_run {w : ObjWait} (hy : s.fibre? y.id = some y) (hwait : y.objWait = some w) (hspan : NoSpan s c) :
    (laneObjDone c y).run s = .ok ((), (s.acquiredAt c y w.scope).setFibre (y.withWait none)) := by
  unfold laneObjDone
  rw [hwait]
  dsimp only
  have hcur : (s.acquiredAt c y w.scope).fibre? y.id = some y := by
    unfold State.fibre?
    rw [State.acquiredAt_fibres]
    exact hy
  rw [bind_get, bind_ok (spanGate_run hspan _), bind_ok (acquire_run _), bind_ok (curF_run hcur)]
  rfl

/-- A wait that begins after the phase has gone on is over at once. -/
theorem bodyObjWait_over (hact : c.act = [x]) (hx : s.fibre? x.id = some x)
    (hbegin : (b c x).run s = .ok ((), v.setFibre (y.withWait (some (waitAt t off token))))) (hid : y.id = x.id)
    (hv : v.fibre? x.id = some x) (hteam : v.team? t.launch t.id = some t) (hbad : t.bad off 16 = false) (hobj : ObjAt t off o)
    (hphase : o.phase ≠ token) (hspan : NoSpan v c) :
    bodyObjWait b c s = .ok ((v.acquiredAt c x o.scope).setFibre (y.withWait none), []) := by
  have hput (w : Option ObjWait) : (v.setFibre (y.withWait w)).fibre? x.id = some (y.withWait w) := by
    rw [← hid] at hv ⊢
    exact State.fibre?_setFibre_self (g := y.withWait w) hv
  have hlook := laneObjLook_run (c := c) (s := v.setFibre (y.withWait (some (waitAt t off token)))) (y := y.withWait (some (waitAt t off token)))
    rfl hteam hbad hobj hphase
  have hdone := laneObjDone_run (c := c) (s := v.setFibre (y.withWait (some ((waitAt t off token).over o.scope))))
    (y := y.withWait (some ((waitAt t off token).over o.scope))) (by rw [Fibre.withWait_id, hid]; exact hput _) rfl hspan
  rw [Fibre.withWait_withWait, State.setFibre_setFibre (by rfl)] at hlook
  rw [Fibre.withWait_withWait, State.acquiredAt_setFibre, State.setFibre_setFibre (by rfl)] at hdone
  have huntaken : c.untaken [] = [x] := by
    unfold Ctx.untaken
    rw [hact]
    rfl
  unfold bodyObjWait
  rw [hact, tryLanes_lone (by rfl) hx hbegin]
  dsimp only
  rw [huntaken, tryLanes_lone (by rfl) (hput _) hlook]
  simp only [List.append_nil, List.filter_nil, stayOf, huntaken, lanesFrom_lone (hput _) hdone]
  rw [State.acquiredAt_congr (x := x) (by exact hid)]
  rfl

/-- A destination and a wait at an object do not meet. -/
theorem Ctx.putD_withWait (c : Ctx) (f : Fibre) (w : Option ObjWait) (v : Word) : c.putD (f.withWait w) v = (c.putD f v).withWait w := by
  have hreg : (f.withWait w).setReg c.w.d.n.toNat v = (f.setReg c.w.d.n.toNat v).withWait w := by
    unfold Fibre.setReg
    rw [apply_ite (fun g : Fibre => g.withWait w)]
    rfl
  unfold Ctx.putD Ctx.deliver
  rw [apply_ite (fun g : Fibre => g.withWait w)]
  simp only [Fibre.setList]
  rw [hreg]
  rfl

/-- BARW of a phase that is over. -/
theorem laneBarwBegin_run (hx : s.fibre? x.id = some x) (hnone : x.objWait = none) (hown : OwnObj s x t (c.a x))
    (hobj : ObjAt t ((c.a x).toNat % 2 ^ 18) o) :
    (laneBarwBegin c x).run s = .ok ((), s.setFibre (x.withWait (some (waitAt t ((c.a x).toNat % 2 ^ 18) (c.b x))))) := by
  unfold laneBarwBegin
  rw [hnone, Option.isNone_none, if_pos rfl, bind_ok (objTeam_run hown), objPlace_own hown.1, bind_ok (readObj_run (OwnObj.sound hown) hobj)]
  exact beginWait_run hx hown

theorem laneBara_run (hx : s.fibre? x.id = some x) (hown : OwnObj s x t (c.a x)) (hobj : ObjAt t ((c.a x).toNat % 2 ^ 18) o)
    (hquiet : Quiet s c.core x) (hspan : NoSpan s c) (hlone : o.arrived + 1 ≠ o.expect ∨ ∀ g ∈ s.fibres, g.objWait = none) :
    (laneBara c x).run s = .ok ((), (s.setTeam (t.putObj ((c.a x).toNat % 2 ^ 18) o.arrive)).setFibre (c.putD x o.phase)) := by
  unfold laneBara
  rw [bind_ok (arrive_run hx hown hobj hquiet hspan hlone), bind_ok (curF_run (by exact hx))]
  rfl

/-- A destination written while the fibre waits at an object. -/
theorem putD_waiting {w : Option ObjWait} {p : Word} (hx : v.fibre? x.id = some x) :
    (curF x >>= fun g => putF (c.putD g p)).run (v.setFibre (x.withWait w)) = .ok ((), v.setFibre ((c.putD x p).withWait w)) := by
  have hcur : (v.setFibre (x.withWait w)).fibre? x.id = some (x.withWait w) := State.fibre?_setFibre_self (g := x.withWait w) hx
  have hrun : (curF x).run (v.setFibre (x.withWait w)) = .ok (x.withWait w, v.setFibre (x.withWait w)) := by
    unfold curF
    rw [bind_get, hcur]
    rfl
  rw [bind_ok hrun, Ctx.putD_withWait]
  show Except.ok ((), (v.setFibre (x.withWait w)).setFibre ((c.putD x p).withWait w)) = _
  rw [State.setFibre_setFibre (by exact (c.putD_same x p 0).1)]

/-- BARX arrives, keeps its phase in D and begins to wait for the next. -/
theorem laneBarxBegin_run (hx : s.fibre? x.id = some x) (hnone : x.objWait = none) (hown : OwnObj s x t (c.a x))
    (hobj : ObjAt t ((c.a x).toNat % 2 ^ 18) o) (hquiet : Quiet s c.core x) (hspan : NoSpan s c)
    (hlone : o.arrived + 1 ≠ o.expect ∨ ∀ g ∈ s.fibres, g.objWait = none) : (laneBarxBegin c x).run s = .ok ((),
      (s.setTeam (t.putObj ((c.a x).toNat % 2 ^ 18) o.arrive)).setFibre ((c.putD x o.phase).withWait
        (some (waitAt (t.putObj ((c.a x).toNat % 2 ^ 18) o.arrive) ((c.a x).toNat % 2 ^ 18) o.phase)))) := by
  unfold laneBarxBegin
  rw [hnone, Option.isNone_none, if_pos rfl, bind_ok (arrive_run hx hown hobj hquiet hspan hlone),
    bind_ok (beginWait_run (by exact hx) (OwnObj.putObj (o := o.arrive) hown))]
  exact putD_waiting hx

end

/-! ### WAITV (14 R293) -/

section
variable {s v : State} {c : Ctx} {x : Fibre} {e : TlbEntry}

/-- A fibre with the value that satisfied its WAITV, or with none. -/
def Fibre.withPhase (f : Fibre) (p : Option Word) : Fibre := { f with phase := p }

theorem Ctx.putD_withPhase (c : Ctx) (f : Fibre) (p : Option Word) (v : Word) : c.putD (f.withPhase p) v = (c.putD f v).withPhase p := by
  have hreg : (f.withPhase p).setReg c.w.d.n.toNat v = (f.setReg c.w.d.n.toNat v).withPhase p := by
    unfold Fibre.setReg
    rw [apply_ite (fun g : Fibre => g.withPhase p)]
    rfl
  unfold Ctx.putD Ctx.deliver
  rw [apply_ite (fun g : Fibre => g.withPhase p)]
  simp only [Fibre.setList]
  rw [hreg]
  rfl

/-- The word that WAITV reads at a resident address. -/
def State.waitWord (s : State) (c : Ctx) (x : Fibre) (e : TlbEntry) : Nat :=
  lineBytes (s.mem.l2Fill (e.line (c.a64 x))).1.data (e.at_ (c.a64 x) % 64) 4

/-- The device after WAITV's read. -/
def State.waitRead (s : State) (c : Ctx) (x : Fibre) (e : TlbEntry) : State := s.withMem (s.mem.l2Fill (e.line (c.a64 x))).2

theorem waitLoad_run (howned : Unowned s) (hres : Resident s c (c.a64 x) 4 false e) (hmiss : s.l1Line? c.core (e.line (c.a64 x)) = none)
    (hhome : AtHome s x.id (e.line (c.a64 x))) :
    (loadG (s.whoOf c x) (c.a64 x) 4 .l2).run s = .ok (s.waitWord c x e, s.waitRead c x e) := by
  obtain ⟨hva, hal, hfind, hloc, hpoison, hview⟩ := hres
  obtain ⟨hgrids, hfamilies, hareas⟩ := howned
  exact loadG_run hva hal rfl hfind hloc hpoison (readPhys_run hgrids hfamilies hareas (readRaw_l2 rfl hview hmiss hhome))

/-- A read that satisfies WAITV's condition acquires, and its word is kept. -/
theorem laneWaitv_run (howned : Unowned s) (hheld : x.held = []) (hspan : NoSpan s c) (hphase : x.phase = none)
    (hres : Resident s c (c.a64 x) 4 false e) (hmiss : s.l1Line? c.core (e.line (c.a64 x)) = none) (hhome : AtHome s x.id (e.line (c.a64 x)))
    (hholds : waitHolds c.w.mod (BitVec.ofNat 32 (s.waitWord c x e)) (c.b x) = true) : (laneWaitv c x).run s
      = .ok ((), ((s.waitRead c x e).acquiredAt c x (modField c.w.mod 3 3)).setFibre (x.withPhase (some (BitVec.ofNat 32 (s.waitWord c x e))))) := by
  unfold laneWaitv
  rw [hphase, Option.isNone_none, if_pos rfl, bind_get, bind_ok (spanGate_run hspan _), bind_ok (heldClear_run hheld),
    bind_ok (waitLoad_run howned hres hmiss hhome), if_pos hholds]
  rfl

/-- The wave goes on when its fibre's word is kept, and delivers it. -/
theorem bodyWaitv_lone {p : Word} (hact : c.act = [x]) (hx : s.fibre? x.id = some x)
    (hrun : (laneWaitv c x).run s = .ok ((), v.setFibre (x.withPhase (some p)))) (hv : v.fibre? x.id = some x) :
    bodyWaitv c s = .ok (v.setFibre ((c.putD x p).withPhase none), []) := by
  have hcur : (v.setFibre (x.withPhase (some p))).fibre? x.id = some (x.withPhase (some p)) :=
    State.fibre?_setFibre_self (g := x.withPhase (some p)) hv
  have hlanes : perLane laneWaitv c s = .ok (v.setFibre (x.withPhase (some p)), []) := by
    unfold perLane
    rw [hact, lanesFrom_lone hx hrun]
  have hlive : ([x].filter (fun f => !([] : List (FibreId × Way)).any (fun q => q.1 == f.id))).filterMap
      (fun f => (v.setFibre (x.withPhase (some p))).fibre? f.id) = [x.withPhase (some p)] := by
    simp [hcur]
  unfold bodyWaitv
  rw [hlanes, hact]
  dsimp only [bind, Except.bind]
  rw [hlive]
  show Except.ok ((v.setFibre (x.withPhase (some p))).setFibre ((c.putD (x.withPhase (some p)) p).withPhase none), []) = _
  rw [Ctx.putD_withPhase, State.setFibre_setFibre (by exact (c.putD_same x p 0).1)]
  rfl

end

/-! ### The statement -/

/-- Settles O38: a lone fibre's arrival counts at once; its wait for a phase that has gone on begins, is looked at and ends in one step; a
satisfied WAITV keeps its word and delivers it; a phase step ends the waits at its own object alone. -/
theorem barrierObjects : Obligations.BarrierObjects := by
  unfold Obligations.BarrierObjects
  refine ⟨fun t => ?bari, fun t o => ?bara, fun t o => ?barw, fun t o => ?barx, fun e => ?waitv, ?release⟩
  case bari =>
    refine one_body_rule_id (op := .bari) (fun _ _ => rfl) (fun _ _ _ _ => rfl) fun c s x fb h ha hx => ?_
    obtain ⟨hown, hserved, h1, h20⟩ := h
    have hown : OwnObj (s.withFibres fb) x t (c.a x) := hown
    refine heldBy_lone ha hserved hx ?_
    unfold laneBari
    rw [bind_ok (objTeam_run hown), objPlace_own hown.1, bind_check (by rw [Bool.and_eq_true]; exact ⟨decide_eq_true h1, decide_eq_true h20⟩)]
    rfl
  case bara =>
    refine one_object_rule (op := .bara) (fun _ _ => rfl) (fun c _ x _ => c.putD_same x _ _) (fun _ _ _ _ => rfl) fun c s x fb h ha hx hfb => ?_
    obtain ⟨hown, hobj, hquiet, hspan, hserved, hlone⟩ := h
    exact heldBy_lone ha hserved hx (laneBara_run hx hown hobj hquiet hspan (hlone.imp_right hfb))
  case barw =>
    refine one_object_rule (op := .barw) (fun _ _ => rfl) (fun _ _ _ _ => ⟨rfl, rfl⟩) (fun c s x _ => s.acquiredAt_waves c x o.scope)
      fun c s x fb h ha hx _ => ?_
    obtain ⟨hown, hobj, hspan, hnone, hphase⟩ := h
    have hown : OwnObj (s.withFibres fb) x t (c.a x) := hown
    have hover := bodyObjWait_over ha hx (laneBarwBegin_run hx hnone hown hobj) rfl hx (OwnObj.team? hown) (OwnObj.sound hown) hobj
      hphase hspan
    have hself : x.withWait none = x := (congrArg x.withWait hnone.symm).trans x.withWait_self
    rw [hself, State.acquiredAt_withFibres] at hover
    exact hover
  case barx =>
    refine one_object_rule (op := .barx) (fun _ _ => rfl) (fun c _ x _ => c.putD_same x _ _)
      (fun c s x _ => (s.setTeam (t.putObj ((c.a x).toNat % 2 ^ 18) o.arrive)).acquiredAt_waves c x o.scope) fun c s x fb h ha hx hfb => ?_
    obtain ⟨hown, hobj, hquiet, hspan, hwaits, hlast, hwf⟩ := h
    have hown : OwnObj (s.withFibres fb) x t (c.a x) := hown
    have hnone : x.objWait = none := hfb hwaits x (List.mem_of_find?_eq_some hx)
    have hown' := OwnObj.putObj (o := o.arrive) (off := (c.a x).toNat % 2 ^ 18) hown
    have hbegin := laneBarxBegin_run hx hnone hown hobj hquiet hspan (.inr (hfb hwaits))
    have hwritten : ObjAt (t.putObj ((c.a x).toNat % 2 ^ 18) o.arrive) ((c.a x).toNat % 2 ^ 18) o.arrive := by
      obtain ⟨-, -, -, -, h1, h20, hs1, hs6, -⟩ := hobj
      rw [BarObj.arrive_last hlast]
      exact ObjAt.putObj (hwf.mpr rfl) h1 h20 hs1 hs6 h1
    have hphase : o.arrive.phase ≠ o.phase := by
      rw [BarObj.arrive_last hlast]
      show o.phase + 1 ≠ o.phase
      bv_omega
    have hscope : o.arrive.scope = o.scope := by rw [BarObj.arrive_last hlast]
    have hover := bodyObjWait_over ha hx hbegin (c.putD_same x _ _).1 hx (OwnObj.team? hown') (OwnObj.sound hown') hwritten
      hphase hspan
    have hself : (c.putD x o.phase).withWait none = c.putD x o.phase := by
      rw [← Ctx.putD_withWait, (congrArg x.withWait hnone.symm).trans x.withWait_self]
    rw [hself, hscope, show (s.withFibres fb).setTeam _ = State.withFibres (s.setTeam (t.putObj ((c.a x).toNat % 2 ^ 18) o.arrive)) fb from rfl,
      State.acquiredAt_withFibres] at hover
    exact hover
  case waitv =>
    refine one_object_rule (op := .waitv) (fun _ _ => rfl) (fun c _ x _ => c.putD_same x _ _)
      (fun c s x _ => (s.waitRead c x e).acquiredAt_waves c x (modField c.w.mod 3 3)) fun c s x fb h ha hx _ => ?_
    obtain ⟨howned, hheld, hspan, hphase, hres, hmiss, hhome, hholds⟩ := h
    have hrun := laneWaitv_run (s := s.withFibres fb) howned hheld hspan hphase hres hmiss hhome hholds
    have hbody := bodyWaitv_lone ha hx hrun (by unfold State.fibre?; rw [State.acquiredAt_fibres]; exact hx)
    rw [show (s.withFibres fb).waitRead c x e = (s.waitRead c x e).withFibres fb from rfl, State.acquiredAt_withFibres] at hbody
    exact hbody
  case release =>
    intro s t off k f v hf hwait
    have hmap := State.fibre?_map (F := fun f : Fibre => f.withWait (f.objWait.map (fun w =>
      if w.launch == t.launch && w.team == t.id && w.at_ == off && !w.released then w.over k else w)))
      (fun _ => rfl) s (s.releaseObj t off k) rfl f.id
    have hiff : (v.launch == t.launch && v.team == t.id && v.at_ == off && !v.released) = true
        ↔ v.launch = t.launch ∧ v.team = t.id ∧ v.at_ = off ∧ v.released = false := by
      simp [and_assoc]
    rw [hmap, hf, Option.map_some, hwait, Option.map_some]
    by_cases hmine : v.launch = t.launch ∧ v.team = t.id ∧ v.at_ = off ∧ v.released = false
    · rw [if_pos (hiff.mpr hmine), if_pos hmine]
      rfl
    · rw [if_neg fun h => hmine (hiff.mp h), if_neg hmine, ← hwait, Fibre.withWait_self]

end Sys2Proof.Machine
end

section
/-! Integer, bit, compare and move instructions (15 R298 to R313): each is an effect on every active fibre alone, and what is left is that the
model's arithmetic on numbers is the spec's on integers and bit vectors. -/

namespace Sys2Proof.Machine

/-! ### Exact results and their narrowing (15 R298 to R301) -/

/-- Narrowing is taking an exact result modulo 2^n, after a clamp to TY's range under SAT. -/
theorem narrow_eq_intResult (sg sat : Bool) (n : Nat) (e : Int) : narrow sg sat n e = (intResult sg sat n e).toNat := rfl

/-- The opcodes whose effect is an exact result of A and B, narrowed. -/
theorem int_rule {op : Op} {e : Ctx → Int → Int → Nat → Int} {r : Bool → Int → Int → Nat → Int}
    (he : ∀ w s, exec (op.instr w) s = issue op w (perFibre fun c => fibreInt (e c) c) s)
    (hr : ∀ c a b n, e c a b n = r (tySigned c.w.mod 0) a b n) :
    LaneRule op (fun c x =>
      let wide := tyWide c.w.mod 0
      let sg := tySigned c.w.mod 0
      let n := if wide then 64 else 32
      let a := ext sg n (c.valW x c.w.a wide sg)
      let b := ext sg n (c.valW x c.w.b wide sg)
      c.putW x wide (intResult sg (modBit c.w.mod 2) n (r sg a b n)).toNat) := by
  refine lane_rule he (fun c x => c.putW_same x _ _ _) fun c x _ => ?_
  dsimp only
  rw [← hr, ← narrow_eq_intResult]
  rfl

/-- A zero divisor gives all ones, the least number by −1 itself, anything else the quotient toward zero. -/
theorem idivResult_eq (sg : Bool) (n : Nat) (a b : Int) : idivResult sg n a b
    = if b = 0 then -1 else if sg && a == -(2 ^ (n - 1) : Int) && b == -1 then a else a.tdiv b := by
  unfold idivResult tyMin
  simp only [beq_iff_eq, if_true, Bool.and_right_comm]

theorem iremResult_eq (a b : Int) : iremResult a b = if b = 0 then a else a.tmod b := by
  unfold iremResult
  simp only [beq_iff_eq]

theorem two_pow_nonneg (n : Nat) : (0 : Int) ≤ 2 ^ n := Int.pow_nonneg (by decide)

/-- Settles O9: each opcode is `fibreInt` of its exact result; the model divides by 2^n and takes minima in the library's spelling. -/
theorem integerResults : Obligations.IntegerResults := by
  unfold Obligations.IntegerResults
  intro p hp
  simp only [intRules, List.mem_cons, List.not_mem_nil, or_false] at hp
  obtain rfl | rfl | rfl | rfl | rfl | rfl | rfl | rfl := hp
  · exact int_rule (op := .iadd) (fun _ _ => rfl) fun _ _ _ _ => rfl
  · exact int_rule (op := .isub) (fun _ _ => rfl) fun _ _ _ _ => rfl
  · exact int_rule (op := .imul) (fun _ _ => rfl) fun _ _ _ _ => rfl
  · exact int_rule (op := .imulh) (fun _ _ => rfl) fun _ _ _ n => Int.fdiv_eq_ediv_of_nonneg _ (two_pow_nonneg n)
  · exact int_rule (op := .imin) (fun _ _ => rfl) fun _ a b _ => Int.min_def a b
  · exact int_rule (op := .imax) (fun _ _ => rfl) fun _ a b _ => Int.max_def a b
  · exact int_rule (op := .idiv) (fun _ _ => rfl) fun _ _ _ _ => idivResult_eq _ _ _ _
  · exact int_rule (op := .irem) (fun _ _ => rfl) fun _ _ _ _ => iremResult_eq _ _

/-! ### Carries and wide results (15 R298 to R303) -/

theorem fibreCarry_same (sub : Bool) (c : Ctx) (x : Fibre) : x.Same (fibreCarry sub c x) :=
  (c.putW_same x _ _ _).trans (Fibre.setPred_same _ _ _)

/-- Settles O10: each opcode is its model function, which writes out the stated result; ISBC adds 2^(n+1) in the other order. -/
theorem carryAndWideResults : Obligations.CarryAndWideResults := by
  unfold Obligations.CarryAndWideResults
  refine ⟨?carry, ?imad, ?iabs, ?imadw, ?dot, ?lea, by decide, by decide, by decide, by decide, by decide, by decide⟩
  case carry =>
    intro p hp
    simp only [List.mem_cons, List.not_mem_nil, or_false] at hp
    obtain rfl | rfl := hp
    · exact lane_rule_self (op := .iadc) (g := fibreCarry false) (fun _ _ => rfl) (fibreCarry_same false)
    · refine lane_rule (op := .isbc) (g := fibreCarry true) (fun _ _ => rfl) (fibreCarry_same true) fun c x _ => ?_
      unfold fibreCarry carryResult
      simp only [if_true, Nat.add_comm (2 ^ _) (c.valW x c.w.a _ _)]
      rfl
  case imad => exact lane_rule_self (g := fibreImad) (fun _ _ => rfl) fun c x => c.putW_same x _ _ _
  case iabs => exact lane_rule_self (g := fibreIabs) (fun _ _ => rfl) fun c x => c.putW_same x _ _ _
  case imadw => exact lane_rule_self (g := fibreImadw) (fun _ _ => rfl) fun c x => c.putD64_same x _ _
  case dot =>
    intro p hp
    simp only [List.mem_cons, List.not_mem_nil, or_false] at hp
    obtain rfl | rfl := hp
    · exact lane_rule_self (op := .idp4) (g := fibreDot 8 4) (fun _ _ => rfl) fun c x => c.putD_same x _ _
    · exact lane_rule_self (op := .idp2) (g := fibreDot 16 2) (fun _ _ => rfl) fun c x => c.putD_same x _ _
  case lea => exact lane_rule_self (g := fibreLea) (fun _ _ => rfl) fun c x => c.putD64_same x _ _

/-! ### Operands of a slot's width (12 R238) -/

theorem bitsOf_pos (wide : Bool) : 0 < bitsOf wide := by cases wide <;> decide

/-- A source of a slot is a number of that slot's width. -/
theorem Ctx.valW_lt (c : Ctx) (x : Fibre) (d : Desc) (wide sx : Bool) : c.valW x d wide sx < 2 ^ bitsOf wide := by
  cases wide
  · exact (c.val x d).isLt
  · exact (c.val64 x d !sx).isLt

/-! ### Shifts (15 R305) -/

section
variable {n a : Nat}

theorem shlN_eq (n a k : Nat) : shlN n a k = (BitVec.ofNat n a <<< k).toNat := by
  rw [BitVec.toNat_shiftLeft, BitVec.toNat_ofNat, Nat.shiftLeft_eq, Nat.mod_mul_mod]
  unfold shlN
  split
  next hk => rfl
  next hk =>
    have hdvd : 2 ^ n ∣ a * 2 ^ k := Nat.dvd_mul_left_of_dvd (Nat.pow_dvd_pow 2 (Nat.le_of_not_lt hk)) a
    exact (Nat.mod_eq_zero_of_dvd hdvd).symm

theorem shrN_eq (ha : a < 2 ^ n) (k : Nat) : shrN n a k = (BitVec.ofNat n a >>> k).toNat := by
  rw [BitVec.toNat_ushiftRight, BitVec.toNat_ofNat, Nat.mod_eq_of_lt ha, Nat.shiftRight_eq_div_pow]
  unfold shrN
  split
  next hk => rfl
  next hk => exact (Nat.div_eq_of_lt (Nat.lt_of_lt_of_le ha (Nat.pow_le_pow_right (by decide) (Nat.le_of_not_lt hk)))).symm

/-- The two's complement reading of n bits is the bit vector's. -/
theorem signedOf_eq_toInt (hn : 0 < n) (a : Nat) : signedOf n a = (BitVec.ofNat n a).toInt := by
  have htwo : 2 ^ (n - 1) + 2 ^ (n - 1) = 2 ^ n := Nat.two_pow_pred_add_two_pow_pred hn
  unfold signedOf
  rw [BitVec.toInt_eq_toNat_cond, BitVec.toNat_ofNat]
  push_cast
  split <;> split <;> omega

/-- A number between −m and m − 1 divided by m leaves its sign. -/
theorem ediv_eq_sign {i m : Int} (hlo : -m ≤ i) (hhi : i < m) : i / m = if i < 0 then -1 else 0 := by
  split
  next hneg => rw [Int.ediv_eq_iff_of_pos (by omega)]; omega
  next hpos => exact Int.ediv_eq_zero_of_lt (by omega) hhi

/-- Shifting a signed number out of its width leaves its sign, as shifting by the whole width does. -/
theorem toInt_ediv_of_le (v : BitVec n) {k : Nat} (hk : n ≤ k) : v.toInt / 2 ^ k = v.toInt / 2 ^ n := by
  have hpow : (2 : Int) ^ n ≤ 2 ^ k := by exact_mod_cast Nat.pow_le_pow_right (by decide : 0 < 2) hk
  have hpos : (0 : Int) < 2 ^ n := Int.pow_pos (by decide)
  have hlo := v.le_two_mul_toInt
  have hhi := v.two_mul_toInt_lt
  rw [ediv_eq_sign (by omega) (by omega), ediv_eq_sign (by omega) (by omega)]

theorem sarN_eq (hn : 0 < n) (a k : Nat) : sarN n a k = ((BitVec.ofNat n a).sshiftRight k).toNat := by
  rw [BitVec.sshiftRight_eq, BitVec.toNat_ofInt, Int.shiftRight_eq_div_pow]
  unfold sarN twos
  rw [signedOf_eq_toInt hn, Int.fdiv_eq_ediv_of_nonneg _ (two_pow_nonneg _)]
  push_cast
  obtain hk | hk := Nat.le_total k n
  · rw [Nat.min_eq_left hk]
  · rw [Nat.min_eq_right hk, toInt_ediv_of_le _ hk]

/-- The bits that a rotation moves out at the top are disjoint from those that it moves up. -/
theorem rotlN_eq (hn : 0 < n) (ha : a < 2 ^ n) (k : Nat) : rotlN n a k = ((BitVec.ofNat n a).rotateLeft k).toNat := by
  have hr : k % n < n := Nat.mod_lt k hn
  unfold rotlN BitVec.rotateLeft BitVec.rotateLeftAux
  generalize k % n = r at hr
  have hout : a >>> (n - r) < 2 ^ r := by
    rw [Nat.shiftRight_eq_div_pow, Nat.div_lt_iff_lt_mul (Nat.two_pow_pos _), ← Nat.pow_add, Nat.add_sub_cancel' (Nat.le_of_lt hr)]
    exact ha
  have hlt : a >>> (n - r) < 2 ^ n := Nat.lt_of_le_of_lt (Nat.shiftRight_le a _) ha
  rw [BitVec.toNat_or, BitVec.toNat_shiftLeft, BitVec.toNat_ushiftRight, BitVec.toNat_ofNat, Nat.mod_eq_of_lt ha, ← Nat.shiftLeft_eq,
    ← Nat.shiftRight_eq_div_pow, Nat.shiftLeft_add_eq_or_of_lt hout, Nat.or_mod_two_pow, Nat.mod_eq_of_lt hlt]

end

/-- The opcodes whose effect is a shift of A by the count B, whole. -/
theorem shift_rule {op : Op} {g : Nat → Nat → Nat → Nat} {sh : (n : Nat) → BitVec n → Nat → BitVec n}
    (he : ∀ w s, exec (op.instr w) s = issue op w (perFibre (fibreShift g)) s)
    (hg : ∀ n a k, 0 < n → a < 2 ^ n → g n a k = (sh n (BitVec.ofNat n a) k).toNat) :
    LaneRule op (fun c x =>
      let n := if wdWide c.w.mod then 64 else 32
      c.putW x (wdWide c.w.mod) (sh n (BitVec.ofNat n (c.valW x c.w.a (wdWide c.w.mod) false)) (c.b x).toNat).toNat) :=
  lane_rule he (fun c x => c.putW_same x _ _ _) fun c x _ =>
    congrArg (c.putW x (wdWide c.w.mod)) (hg _ _ _ (bitsOf_pos _) (c.valW_lt x c.w.a _ _))

/-! ### Bits of a word (15 R304, R308) -/

/-- A word built by setting bits one after the other. -/
theorem getLsbD_foldl_bits (p : Nat → Bool) (n : Nat) {j : Nat} (hj : j < 32) :
    ((List.range n).foldl (fun d i => if p i then d ||| BitVec.ofNat 32 (2 ^ i) else d) (0 : Word)).getLsbD j = (decide (j < n) && p j) := by
  induction n with
  | zero => exact BitVec.getLsbD_zero
  | succ n ih =>
    rw [List.range_succ, List.foldl_append, List.foldl_cons, List.foldl_nil]
    have hbit : (BitVec.ofNat 32 (2 ^ n)).getLsbD j = decide (n = j) := by
      rw [BitVec.getLsbD_ofNat, Nat.testBit_two_pow, decide_eq_true hj, Bool.true_and]
    have hstep (d : Word) : (if p n then d ||| BitVec.ofNat 32 (2 ^ n) else d).getLsbD j = (d.getLsbD j || (p n && decide (n = j))) := by
      cases p n with
      | false => rw [if_neg (by decide), Bool.false_and, Bool.or_false]
      | true => rw [if_pos rfl, BitVec.getLsbD_or, hbit, Bool.true_and]
    rw [hstep, ih]
    by_cases hnj : n = j
    · subst hnj
      rw [decide_eq_false (Nat.lt_irrefl n), Bool.false_and, Bool.false_or, decide_eq_true rfl, Bool.and_true,
        decide_eq_true (Nat.lt_succ_self n), Bool.true_and]
    · have hlt : decide (j < n + 1) = decide (j < n) := decide_eq_decide.mpr (by omega)
      rw [decide_eq_false hnj, Bool.and_false, Bool.or_false, hlt]

/-- A TERN whose table is that of a Boolean function gives the word that the function gives bit by bit. -/
theorem ternBits_eq {fn : Byte} {a b c r : Word} {g : Bool → Bool → Bool → Bool}
    (hg : ∀ x y z : Bool, fn.getLsbD (x.toNat + 2 * y.toNat + 4 * z.toNat) = g x y z)
    (hr : ∀ i < 32, r.getLsbD i = g (a.getLsbD i) (b.getLsbD i) (c.getLsbD i)) : ternBits fn a b c = r := by
  refine BitVec.eq_of_getLsbD_eq fun i hi => ?_
  rw [hr i hi, ← hg]
  exact (getLsbD_foldl_bits _ 32 hi).trans (by rw [decide_eq_true hi, Bool.true_and])

/-- R304's tables: exclusive or, A itself, the majority, and the choice of B or A by C. -/
theorem ternBits_tables (a b c : Word) : ternBits 0x96 a b c = a ^^^ b ^^^ c ∧ ternBits 0xAA a b c = a
    ∧ ternBits 0xE8 a b c = (a &&& b) ||| (a &&& c) ||| (b &&& c) ∧ ternBits 0xCA a b c = (b &&& c) ||| (a &&& ~~~c) := by
  refine ⟨ternBits_eq (g := fun x y z => x ^^ y ^^ z) (by decide) fun i _ => ?xor, ternBits_eq (g := fun x _ _ => x) (by decide) fun _ _ => rfl,
    ternBits_eq (g := fun x y z => x && y || x && z || y && z) (by decide) fun i _ => ?majority,
    ternBits_eq (g := fun x y z => y && z || x && !z) (by decide) fun i hi => ?choice⟩
  case xor => simp only [BitVec.getLsbD_xor]
  case majority => simp only [BitVec.getLsbD_or, BitVec.getLsbD_and]
  case choice => simp only [BitVec.getLsbD_or, BitVec.getLsbD_and, BitVec.getLsbD_not, hi, decide_true, Bool.true_and]

/-- The byte that a nibble of BSEL's C selects. -/
def bselByte (a b sel : Nat) : Nat := if sel < 4 then a / 256 ^ sel % 256 else if sel < 8 then b / 256 ^ (sel - 4) % 256 else 0

/-- A BSEL whose C has no fill bit puts the selected bytes side by side. -/
theorem bselN_unfilled (a b : Nat) {c : Nat} (hc : c < 2 ^ 16) :
    bselN a b c = ((List.range 4).map (fun k => bselByte a b (c / 2 ^ (4 * k) % 16) * 256 ^ k)).sum := by
  have hfill (k : Nat) : c.testBit (16 + k) = false :=
    Nat.testBit_lt_two_pow (Nat.lt_of_lt_of_le hc (Nat.pow_le_pow_right (by decide) (Nat.le_add_right 16 k)))
  unfold bselN
  simp only [hfill, Bool.false_eq_true, if_false]
  rfl

theorem sum_range_four (g : Nat → Nat) : ((List.range 4).map g).sum = g 0 + (g 1 + (g 2 + (g 3 + 0))) := rfl

theorem bselN_identity (a b : Word) : bselN a.toNat b.toNat 0x3210 = a.toNat := by
  have ha := a.isLt
  rw [bselN_unfilled _ _ (by decide), sum_range_four]
  simp only [bselByte, Nat.reduceMul, Nat.reducePow, Nat.reduceDiv, Nat.reduceMod, Nat.reduceLT, if_true]
  omega

theorem bselN_low_half (a b : Nat) : bselN a b 0x8854 = b % 65536 := by
  rw [bselN_unfilled _ _ (by decide), sum_range_four]
  simp only [bselByte, Nat.reduceMul, Nat.reducePow, Nat.reduceDiv, Nat.reduceMod, Nat.reduceLT, Nat.reduceSub, if_true, if_false]
  omega

/-! ### Fields and counts (15 R306, R307) -/

theorem clzN_zero (n : Nat) : clzN n 0 = n := by
  unfold clzN
  rw [Nat.zero_mod]
  rfl

/-- A field of length 0 is 0 when extracted and changes nothing when inserted. -/
theorem field_empty (n a f : Nat) (h : f / 256 % 256 = 0) : bfxN true n a f = 0 ∧ bfiN n a f f = a := by
  unfold bfxN bfiN
  rw [h, Nat.zero_min]
  exact ⟨rfl, if_pos (Nat.min_le_left _ _)⟩

/-- Settles O11: each opcode is its model function on the slot's width; the shifts are the bit vectors', the tables and selectors are
computed bit by bit and byte by byte. -/
theorem bitResults : Obligations.BitResults := by
  unfold Obligations.BitResults
  refine ⟨?shl, ?shr, ?sar, ?rotl, ?bits, ?tern, ?bfx, ?bfi, ?brev, ?count, ?bsel, ternBits_tables, clzN_zero, by decide, by decide,
    bselN_identity, bselN_low_half, field_empty⟩
  case shl => exact shift_rule (sh := fun _ v k => v <<< k) (fun _ _ => rfl) fun n a k _ _ => shlN_eq n a k
  case shr => exact shift_rule (sh := fun _ v k => v >>> k) (fun _ _ => rfl) fun _ _ k _ ha => shrN_eq ha k
  case sar => exact shift_rule (sh := fun _ v k => v.sshiftRight k) (fun _ _ => rfl) fun _ a k hn _ => sarN_eq hn a k
  case rotl => exact shift_rule (sh := fun _ v k => v.rotateLeft k) (fun _ _ => rfl) fun _ _ k hn ha => rotlN_eq hn ha k
  case bits =>
    intro p hp
    simp only [List.mem_cons, List.not_mem_nil, or_false] at hp
    obtain rfl | rfl | rfl | rfl := hp
    · exact lane_rule_self (op := .andB) (g := fibreBits2 _) (fun _ _ => rfl) fun c x => c.putW_same x _ _ _
    · exact lane_rule_self (op := .orB) (g := fibreBits2 _) (fun _ _ => rfl) fun c x => c.putW_same x _ _ _
    · exact lane_rule_self (op := .xorB) (g := fibreBits2 _) (fun _ _ => rfl) fun c x => c.putW_same x _ _ _
    · exact lane_rule_self (op := .bext) (g := fibreBits2 _) (fun _ _ => rfl) fun c x => c.putW_same x _ _ _
  case tern => exact lane_rule_self (g := fibreTern) (fun _ _ => rfl) fun c x => c.putD_same x _ _
  case bfx => exact lane_rule_self (g := fun c => fibreShift (bfxN (modBit c.w.mod 1)) c) (fun _ _ => rfl) fun c x => c.putW_same x _ _ _
  case bfi => exact lane_rule_self (g := fibreBfi) (fun _ _ => rfl) fun c x => c.putW_same x _ _ _
  case brev => exact lane_rule_self (g := fibreBrev) (fun _ _ => rfl) fun c x => c.putW_same x _ _ _
  case count =>
    intro p hp
    simp only [List.mem_cons, List.not_mem_nil, or_false] at hp
    obtain rfl | rfl | rfl := hp
    · exact lane_rule_self (op := .popc) (g := fibreCount popcN) (fun _ _ => rfl) fun c x => c.putD_same x _ _
    · exact lane_rule_self (op := .clz) (g := fibreCount clzN) (fun _ _ => rfl) fun c x => c.putD_same x _ _
    · exact lane_rule_self (op := .ffs) (g := fibreCount ffsN) (fun _ _ => rfl) fun c x => c.putD_same x _ _
  case bsel => exact lane_rule_self (g := fibreBsel) (fun _ _ => rfl) fun c x => c.putD_same x _ _

/-! ### Compare, select and move (15 R310 to R313; 12 R238) -/

/-- The conditions of CC as comparisons of numbers (15 R311). -/
theorem ccHolds_eq (cc : Nat) (a b : Int) : ccHolds cc (a < b) (a == b) = (match cc with
    | 0 => a = b
    | 1 => a ≠ b
    | 2 => a < b
    | 3 => a ≤ b
    | 4 => b < a
    | _ => b ≤ a : Bool) := by
  have hle : (decide (a < b) || a == b) = decide (a ≤ b) := by
    rw [Bool.beq_eq_decide_eq, ← Bool.decide_or, decide_eq_decide]
    omega
  have hnot {p q : Prop} [Decidable p] [Decidable q] (h : ¬p ↔ q) : (!decide p) = decide q := by rw [← decide_not, decide_eq_decide, h]
  match cc with
  | 0 => rfl
  | 1 => exact hnot Iff.rfl
  | 2 => rfl
  | 3 => exact hle
  | 4 => exact (congrArg not hle).trans (hnot Int.not_le)
  | _ + 5 => exact hnot Int.not_lt

/-- FTZ reads a NaN as itself. -/
theorem Fmt.decodeFtz_nan {f : Fmt} {a : Nat} {sig : Bool} (h : f.decode a = .nan sig) (ftz : Bool) : f.decodeFtz ftz a = .nan sig := by
  unfold Fmt.decodeFtz
  rw [h]

/-- A comparison with a NaN is unordered under every condition. -/
theorem Fmt.compare_nan {f : Fmt} {a : Nat} {sig : Bool} (h : f.decode a = .nan sig) (ftz un : Bool) (cc b : Nat) :
    (f.compare ftz un cc a b).1 = un := by
  unfold Fmt.compare
  rw [Fmt.decodeFtz_nan h]
  rfl

/-- Settles O12: each opcode is its model function; ICMP's condition is `ccHolds` of less and equal, and a NaN is left by FTZ as it is. -/
theorem compareAndMove : Obligations.CompareAndMove := by
  unfold Obligations.CompareAndMove
  refine ⟨?icmp, ?fcmp, ?mov, ?sel, fun ftz un cc a b ⟨_, hnan⟩ => Fmt.compare_nan hnan ftz un cc b, fun _ _ => ⟨rfl, rfl, rfl, rfl, rfl⟩⟩
  case icmp =>
    exact lane_rule (g := fibreIcmp) (fun _ _ => rfl) (fun c x => c.putD_same x _ _) fun c x _ =>
      congrArg (fun r => c.putD x (setBit (x.reg c.w.d.n.toNat) c.w.c.n.toNat r)) (ccHolds_eq _ _ _)
  case fcmp => exact lane_rule_self (g := fibreFcmp) (fun _ _ => rfl) fun c x => c.putD_same x _ _
  case mov => exact lane_rule_self (g := fibreMov) (fun _ _ => rfl) fun c x => c.putW_same x _ _ _
  case sel => exact lane_rule_self (g := fibreSel) (fun _ _ => rfl) fun c x => c.putW_same x _ _ _

end Sys2Proof.Machine
end

section
/-! State registers and privileged registers (15 R314, R315; 19 R411, R412) in a wave of one fibre. -/

namespace Sys2Proof.Machine

/-! ### GETS (15 R314; 02 R65) -/

section
variable {s : State} {c : Ctx} {x : Fibre}

/-- A fibre after a GETS has latched the high half that goes with the register it reads (02 R65). -/
def Fibre.latched (x : Fibre) (c : Ctx) (s : State) (idx : Nat) : Fibre :=
  let x := if idx = 0x00A then { x with clockh := BitVec.ofNat 32 (s.clk.cycles.getD (dieOf c.core) 0 / 2 ^ 32) } else x
  if idx = 0x00C then { x with rtimeh := BitVec.ofNat 32 (s.rtime / 2 ^ 32) } else x

theorem Fibre.latched_same (x : Fibre) (c : Ctx) (s : State) (idx : Nat) : x.Same (x.latched c s idx) := by
  unfold Fibre.latched
  dsimp only
  split <;> split <;> exact ⟨rfl, rfl⟩

/-- No operand reads a latch. -/
theorem Ctx.a_clockh (v : Word) : c.a { x with clockh := v } = c.a x := by
  unfold Ctx.a Ctx.val
  cases c.w.a.kind with
  | reg | pair => rfl
  | uni => cases c.low <;> rfl
  | special => rfl

/-- The latched fibre with the register's index read again after the first latch, as R314's clause is written. -/
theorem Fibre.latched_gets (x : Fibre) (c : Ctx) (s : State) : x.latched c s (c.a x).toNat = (
    let x := if (c.a x).toNat = 0x00A then { x with clockh := BitVec.ofNat 32 (s.clk.cycles.getD (dieOf c.core) 0 / 2 ^ 32) } else x
    if (c.a x).toNat = 0x00C then { x with rtimeh := BitVec.ofNat 32 (s.rtime / 2 ^ 32) } else x) := by
  unfold Fibre.latched
  by_cases hclock : (c.a x).toNat = 0x00A
  · simp only [if_pos hclock, Ctx.a_clockh]
  · simp only [if_neg hclock]

/-- A GETS of FPSTAT finds nothing to wait for. -/
abbrev FlagsSettled (s : State) (x : Fibre) : Prop := (∀ o ∈ s.tileOps, x.id ∉ o.fibres) ∧ ∀ p ∈ x.pend, p.fp = false

theorem fpstatWait_run (h : FlagsSettled s x) : (fpstatWait s x).run s = .ok ((), s) := by
  obtain ⟨htiles, hpend⟩ := h
  have ht : s.tileOps.any (fun o => o.fibres.contains x.id) = false :=
    List.any_eq_false.mpr fun o ho hin => htiles o ho (List.contains_iff_mem.mp hin)
  have hp : x.pend.any Pend.fp = false := List.any_eq_false.mpr fun p hp => Bool.eq_false_iff.mp (hpend p hp)
  unfold fpstatWait
  rw [ht, hp]
  rfl

theorem laneGets_run {v : Word} (hv : getsWord s x (c.a x).toNat = some v) (hwait : (c.a x).toNat = 0x011 → FlagsSettled s x) :
    (laneGets c x).run s = .ok ((), s.setFibre (c.putD (x.latched c s (c.a x).toNat) v)) := by
  have hlatched : x.latched c s (c.a x).toNat = (
      let x' := if (c.a x).toNat == 0x00A then { x with clockh := BitVec.ofNat 32 (s.clk.cycles.getD (dieOf c.core) 0 / 2 ^ 32) } else x
      if (c.a x).toNat == 0x00C then { x' with rtimeh := BitVec.ofNat 32 (s.rtime / 2 ^ 32) } else x') := by
    unfold Fibre.latched
    simp only [beq_iff_eq]
  rw [hlatched]
  unfold laneGets
  rw [bind_get]
  dsimp only
  rw [hv]
  by_cases hidx : (c.a x).toNat = 0x011
  · rw [if_pos (beq_iff_eq.mpr hidx), bind_ok (fpstatWait_run (hwait hidx))]
    rfl
  · rw [if_neg (mt beq_iff_eq.mp hidx)]
    rfl

end

theorem gets_rule (v : Word) : OneRule .gets (fun c s x => getsWord s x (c.a x).toNat = some v ∧ ((c.a x).toNat = 0x011 → FlagsSettled s x))
    (fun c s x => c.putD (x.latched c s (c.a x).toNat) v) (fun _ s _ => s) :=
  one_rule (g := laneGets) (fun _ _ => rfl) (fun c s x _ => (x.latched_same c s _).trans (c.putD_same _ _ _)) (fun _ _ _ _ => rfl)
    fun _ s _ fb ⟨hv, hwait⟩ _ => laneGets_run (s := s.withFibres fb) hv hwait

/-! ### SETS (15 R314) -/

section
variable {s : State} {c : Ctx} {x : Fibre} {t : Team}

theorem laneSets_fpmode (hi : (c.a x).toNat = 0x010) (hv : (c.b x).toNat % 8 ≤ 4) :
    (laneSets c x).run s = .ok ((), s.setFibre { x with fpmode := c.b x &&& 0x1F }) := by
  unfold laneSets
  rw [bind_get]
  simp only [hi]
  rw [bind_check (decide_eq_true hv)]
  rfl

theorem laneSets_fpstat (hi : (c.a x).toNat = 0x011) :
    (laneSets c x).run s = .ok ((), s.setFibre { x with fpstat := fpstatClear x.fpstat (c.b x) }) := by
  unfold laneSets
  rw [bind_get]
  simp only [hi]
  rfl

theorem laneSets_pivclamp (ht : s.teamOf? x.id.crew = some t) (hi : (c.a x).toNat = 0x012) (hv : (c.b x).toNat / 2 ^ 23 % 256 ≠ 255) :
    (laneSets c x).run s = .ok ((), s.setTeam { t with pivclamp := c.b x &&& 0x7FFFFFFF }) := by
  unfold laneSets
  rw [bind_get]
  simp only [hi, ht]
  rw [bind_check (bne_iff_ne.mpr hv)]
  rfl

theorem laneSets_issuepol (ht : s.teamOf? x.id.crew = some t) (hi : (c.a x).toNat = 0x013) :
    (laneSets c x).run s = .ok ((), s.setTeam (Team.throttle { t with
      thresh := (c.b x).setWidth 16, nwave := BitVec.ofNat 7 ((c.b x).toNat / 2 ^ 16), polEn := (c.b x).getLsbD 24 })) := by
  unfold laneSets
  rw [bind_get]
  simp only [hi, ht]
  rfl

/-- A write of TXCFG passes while no fibre of the team has an ordered iteration open (06 R164). -/
theorem laneSets_txcfg (ht : s.teamOf? x.id.crew = some t) (hi : (c.a x).toNat = 0x015) (ho : s.orderedOpen t.launch t.id = false) :
    (laneSets c x).run s = .ok ((), s.setTeam { t with ocur := BitVec.ofNat 24 (c.b x).toNat, nobo := (c.b x).getLsbD 24 }) := by
  unfold laneSets
  rw [bind_get]
  simp only [hi, ht]
  rw [bind_check (by rw [ho, Bool.not_false, Bool.or_true])]
  rfl

end

section
variable {op : Op} {w : Fields} {s : State} {wv : Wave} {f : Fibre}

/-- Every fibre that stands as an effect begins has the name and the transaction of one that stood before. -/
theorem begun_from (h : IssuesOne op w s wv f) {g : Fibre} (hg : g ∈ (s.begun (soloCtx op w s wv f)).fibres) :
    ∃ y ∈ s.fibres, y.id = g.id ∧ y.tx = g.tx := by
  have hf : f ∈ s.fibres := List.mem_of_find?_eq_some (State.mem_waveFibres (h.1.2.1.symm ▸ List.mem_cons_self : f ∈ s.waveFibres wv))
  obtain ⟨y, hy, rfl⟩ := List.mem_map.mp (State.setFibre_fibres s (f.issued (s.fallOf f.pc)) ▸ hg)
  split
  · exact ⟨f, hf, rfl, rfl⟩
  · exact ⟨y, hy, rfl, rfl⟩

theorem begun_orderedOpen (h : IssuesOne op w s wv f) {launch team : Nat} (ho : s.orderedOpen launch team = false) :
    (s.begun (soloCtx op w s wv f)).orderedOpen launch team = false := by
  unfold State.orderedOpen at ho ⊢
  rw [List.any_eq_false] at ho ⊢
  intro g hg
  obtain ⟨y, hy, hid, htx⟩ := begun_from h hg
  rw [← hid, ← htx]
  exact ho y hy

/-- The fibre of a wave of one stands as the effect begins as it is put there. -/
theorem begun_setFibre : (s.begun (soloCtx op w s wv f)).setFibre (f.issued (s.fallOf f.pc)) = s.begun (soloCtx op w s wv f) :=
  State.setFibre_setFibre (s := s) rfl

end

/-- TXCFG is the one register whose write looks at the fibres of the team. -/
theorem txcfg_rule (t : Team) : OneRule .sets
    (fun c s x => s.teamOf? x.id.crew = some t ∧ (c.a x).toNat = 0x015 ∧ s.orderedOpen t.launch t.id = false) (fun _ _ x => x)
    (fun c s x => s.setTeam { t with ocur := BitVec.ofNat 24 (c.b x).toNat, nobo := (c.b x).getLsbD 24 }) := by
  intro w s wv f h ⟨ht, hi, ho⟩
  have hrun := laneSets_txcfg (s := s.begun (soloCtx .sets w s wv f)) (by rw [begun_eq]; exact ht) hi (begun_orderedOpen h ho)
  have hput (u : Team) : ((s.begun (soloCtx .sets w s wv f)).setTeam u).setFibre (f.issued (s.fallOf f.pc))
      = (s.begun (soloCtx .sets w s wv f)).setTeam u := congrArg (fun v : State => v.setTeam u) begun_setFibre
  rw [← hput] at hrun
  refine ends_lane h hrun rfl h.group rfl (setFibres_waves _ s) ?_
  rw [begun_eq]
  exact rfl

/-! ### GETP and SETP (19 R411, R412) -/

section
variable {s : State} {c : Ctx} {x : Fibre}

theorem laneGetp_run {v : DWord} (hv : s.getp x (c.a x).toNat = some v) : (laneGetp c x).run s = .ok ((), s.setFibre (c.putD64 x v)) := by
  unfold laneGetp
  rw [bind_get, hv]
  rfl

theorem isSome_ite_some {α : Type} {p : Prop} [Decidable p] {a : α} {o : Option α} :
    (if p then some a else o).isSome = true ↔ p ∨ o.isSome = true := by
  by_cases hp : p
  · rw [if_pos hp]
    exact ⟨fun _ => .inl hp, fun _ => rfl⟩
  · rw [if_neg hp]
    exact ⟨.inr, fun h => h.resolve_left hp⟩

/-- The table of R411 lists the registers 0 to 8, the slice hashes and the three words of each region. -/
theorem State.getp_isSome (s : State) (x : Fibre) {i : Nat} (hi : i ≤ 0x008 ∨ 0x010 ≤ i ∧ i < 0x020 ∨ 0x100 ≤ i ∧ i < 0x1C0) :
    (s.getp x i).isSome = true := by
  unfold State.getp
  simp only [isSome_ite_some, Option.isSome_none, Bool.false_eq_true, or_false, beq_iff_eq, Bool.and_eq_true, decide_eq_true_eq]
  omega

theorem laneSetp_trappc (hx : s.fibre? x.id = some x) (hi : (c.a x).toNat = 0x002) :
    (laneSetp c x).run s = .ok ((), s.setFibre { x with trap := { x.trap with pc := (c.b64 x).lo } }) := by
  unfold laneSetp
  rw [bind_get]
  dsimp only
  rw [hi, bind_check (s.getp_isSome x (by decide))]
  exact bind_ok (curF_run hx)

theorem laneSetp_trapbase {l : Launch} (hi : (c.a x).toNat = 0x000) (hl : s.launch? c.launch = some l) :
    (laneSetp c x).run s = .ok ((), s.setLaunch { l with trapEntry := (c.b64 x).lo, trapObj := (c.b64 x).hi }) := by
  unfold laneSetp
  rw [bind_get]
  dsimp only
  rw [hi, bind_check (s.getp_isSome x (by decide)), hl]
  rfl

/-- From 0x010 on an index is none of the single registers that can be written. -/
theorem index_not_named {i : Nat} (hi : 0x010 ≤ i) : (i == 0x000) = false ∧ (i == 0x002) = false ∧ (i == 0x006) = false := by
  simp only [beq_eq_false_iff_ne]
  omega

/-- A slice hash is staged while the veins of its die that are in use are held (19 R412). -/
theorem laneSetp_slicehash {n : Nat} (hn : n < 16) (hi : (c.a x).toNat = 0x010 + n)
    (hheld : ∀ v ∈ s.mem.dieVeins (n / 2), v.hash.en = true → v.hold.isSome = true) :
    (laneSetp c x).run s = .ok ((), s.withMem { s.mem with veins := updAt s.mem.veins n fun v =>
      { v with staged := some (SliceHash.ofWord (n % 2 == 0) (c.b64 x)) } }) := by
  obtain ⟨h0, h2, h6⟩ := index_not_named (i := 0x010 + n) (by omega)
  have hin : (decide (0x010 ≤ 0x010 + n) && decide (0x010 + n < 0x020)) = true := by simp only [Bool.and_eq_true, decide_eq_true_eq]; omega
  have hall : ((s.mem.dieVeins (n / 2)).filter (fun v => v.hash.en)).all (fun v => v.hold.isSome) = true :=
    List.all_eq_true.mpr fun v hv => hheld v (List.mem_filter.mp hv).1 (List.mem_filter.mp hv).2
  unfold laneSetp
  rw [bind_get]
  dsimp only
  rw [hi, bind_check (s.getp_isSome x (by omega))]
  simp only [h0, h2, h6, hin, Bool.false_eq_true, if_false, if_true, Nat.add_sub_cancel_left]
  rw [bind_check hall]
  rfl

/-- FRBASE of a region is written unless the region is enabled (29 R493). -/
theorem laneSetp_frbase {n : Nat} (hn : n < 64) (hi : (c.a x).toNat = 0x100 + n) :
    (laneSetp c x).run s = .ok ((), s.setRegion n fun r => r.setBound false (c.b64 x)) := by
  obtain ⟨h0, h2, h6⟩ := index_not_named (i := 0x100 + n) (by omega)
  have hout : (decide (0x010 ≤ 0x100 + n) && decide (0x100 + n < 0x020)) = false := by
    rw [decide_eq_false (show ¬0x100 + n < 0x020 by omega), Bool.and_false]
  have hin : (decide (0x100 ≤ 0x100 + n) && decide (0x100 + n < 0x140)) = true := by simp only [Bool.and_eq_true, decide_eq_true_eq]; omega
  unfold laneSetp
  rw [bind_get]
  dsimp only
  rw [hi, bind_check (s.getp_isSome x (by omega))]
  simp only [h0, h2, h6, hout, hin, Bool.false_eq_true, if_false, if_true, Nat.add_sub_cancel_left]
  rfl

/-- Read-only registers ignore a write. -/
theorem laneSetp_readonly (hi : (c.a x).toNat ∈ [0x001, 0x003, 0x004, 0x005, 0x007, 0x008]) : (laneSetp c x).run s = .ok ((), s) := by
  unfold laneSetp
  rw [bind_get]
  generalize (c.a x).toNat = i at hi
  simp only [List.mem_cons, List.not_mem_nil, or_false] at hi
  obtain rfl | rfl | rfl | rfl | rfl | rfl := hi
  all_goals rfl

end

/-! ### The statement -/

/-- Settles O31: each clause is the run of its lane effect; only TXCFG also looks at the fibres of its team. -/
theorem specialRegisters : Obligations.SpecialRegisters := by
  unfold Obligations.SpecialRegisters
  refine ⟨?gets, ?fpmode, ?fpstat, fun t => ?pivclamp, fun t => ?issuepol, txcfg_rule, fun v => ?getp, ?trappc, fun l => ?trapbase,
    fun i hi => ?readonly, fun n hn => ?slicehash, fun n hn => ?frbase⟩
  case gets =>
    intro v
    have hrule := gets_rule v
    simp only [Fibre.latched_gets] at hrule
    exact hrule
  case fpmode =>
    exact one_rule (g := laneSets) (fun _ _ => rfl) (fun _ _ _ _ => ⟨rfl, rfl⟩) (fun _ _ _ _ => rfl) fun _ _ _ _ ⟨hi, hv⟩ _ =>
      laneSets_fpmode hi hv
  case fpstat =>
    exact one_rule (g := laneSets) (fun _ _ => rfl) (fun _ _ _ _ => ⟨rfl, rfl⟩) (fun _ _ _ _ => rfl) fun _ _ _ _ hi _ => laneSets_fpstat hi
  case pivclamp =>
    exact one_rule_id (g := laneSets) (fun _ _ => rfl) (fun _ _ _ _ => rfl) fun _ s _ fb ⟨ht, hi, hv⟩ _ =>
      laneSets_pivclamp (s := s.withFibres fb) ht hi hv
  case issuepol =>
    exact one_rule_id (g := laneSets) (fun _ _ => rfl) (fun _ _ _ _ => rfl) fun _ s _ fb ⟨ht, hi⟩ _ =>
      laneSets_issuepol (s := s.withFibres fb) ht hi
  case getp =>
    exact one_rule (g := laneGetp) (fun _ _ => rfl) (fun c _ x _ => c.putD64_same x _ _) (fun _ _ _ _ => rfl) fun _ s _ fb hv _ =>
      laneGetp_run (s := s.withFibres fb) hv
  case trappc =>
    exact one_rule (g := laneSetp) (fun _ _ => rfl) (fun _ _ _ _ => ⟨rfl, rfl⟩) (fun _ _ _ _ => rfl) fun _ _ _ _ hi hx =>
      laneSetp_trappc hx hi
  case trapbase =>
    exact one_rule_id (g := laneSetp) (fun _ _ => rfl) (fun _ _ _ _ => rfl) fun _ s _ fb ⟨hi, hl⟩ _ =>
      laneSetp_trapbase (s := s.withFibres fb) hi hl
  case readonly =>
    exact one_rule_id (g := laneSetp) (fun _ _ => rfl) (fun _ _ _ _ => rfl) fun _ _ _ _ hidx _ => laneSetp_readonly (hidx ▸ hi)
  case slicehash =>
    exact one_rule_id (g := laneSetp) (fun _ _ => rfl) (fun _ _ _ _ => rfl) fun _ s _ fb ⟨hi, hheld⟩ _ =>
      laneSetp_slicehash (s := s.withFibres fb) hn hi hheld
  case frbase =>
    exact one_rule_id (g := laneSetp) (fun _ _ => rfl) (fun _ _ _ _ => rfl) fun _ s _ fb hi _ =>
      laneSetp_frbase (s := s.withFibres fb) hn hi

end Sys2Proof.Machine
end

section
/-! Reset, SVC and ERET (27 R462; 19 R409, R413): what a device starts from, a trap in every active lane, and the way back from one. -/

namespace Sys2Proof.Machine

/-! ### Reset (27 R462; 28 R481; 29 R488, R493; 31 R511; 32 R515) -/

/-- The vein with an even number exists with every slice, the odd one does not. -/
theorem reset_vein_hash {v : Nat} {x : Vein} (h : State.reset.mem.veins[v]? = some x) :
    x.hash = if v % 2 = 0 then ⟨0xFFFF, 0, true⟩ else ⟨0, 0, false⟩ := by
  have hlt : v < 16 := (List.getElem?_eq_some_iff.mp h).1
  simp only [State.reset, List.getElem?_map, List.getElem?_range hlt, Option.map_some, Option.some.injEq] at h
  rw [← h]
  simp only [beq_iff_eq]

/-- Settles O7: every array of the reset state repeats one entry, and the veins alternate. -/
theorem resetValues : Obligations.ResetValues := by
  unfold Obligations.ResetValues
  refine ⟨fun v x h => reset_vein_hash h, rfl, fun r hr => ?regions, fun q hq => ?queues, fun p hp => ?ports, fun a ha => ?agents,
    rfl, rfl, rfl, rfl, rfl, rfl⟩
  case regions => rw [List.eq_of_mem_replicate hr]
  case queues => rw [List.eq_of_mem_replicate hq]; exact ⟨rfl, rfl, rfl⟩
  case ports => rw [List.eq_of_mem_replicate hp]
  case agents => rw [List.eq_of_mem_replicate ha]

/-! ### SVC (19 R409) -/

/-- Settles O29: SVC is a trap in every active lane, at the fall-through. -/
theorem systemCall : Obligations.SystemCall := by
  unfold Obligations.SystemCall
  intro w s wv fs f l o h ht c _
  exact ⟨rfl, issue_traps (body := bodySvc) h ht rfl⟩

/-! ### ERET (19 R413; 28 R478) -/

/-- Giving meet sets back changes waves alone. -/
theorem State.restoreMeets_same (s t : State) (wv : Wave) : SameBut t (s.restoreMeets t wv) ∧ (s.restoreMeets t wv).fibres = t.fibres := ⟨rfl, rfl⟩

/-- An ERET that ends as an issue ends with the meet sets of the fibres that have left. -/
theorem ends_eret {w : Fields} {s u : State} {wv : Wave} {fs : List Fibre} {after : Fibre → Fibre} (hw : s.cur.bind s.wave? = some wv)
    (h : Ends (issue .eret w bodyEret s) s fs after u) : Ends (execEret w s) s fs after u := by
  obtain ⟨t, ht, hsame, hin, hout⟩ := h
  refine ⟨s.restoreMeets t wv, ?_, hsame.trans (s.restoreMeets_same t wv).1, hin, hout⟩
  unfold execEret
  rw [ht, hw]

/-- A fibre that trapped before its instruction leaves the runtime. -/
theorem laneEret_atPc {s : State} {c : Ctx} {x : Fibre} {r : InTrap} (hx : s.fibre? x.id = some x) (hr : x.inTrap = some r)
    (hpc : r.resume = .atPc) (hg : x.group = none) :
    (laneEret c x).run s = .ok (none, s.setFibre { x.leave r with parked := false }) := by
  have hgroup : (x.leave r).group = none := x.writeAllPend_same.2.trans hg
  unfold laneEret
  rw [bind_ok (curF_run hx), hr]
  dsimp only
  rw [hpc, hgroup]
  rfl

theorem Fibre.leave_pend (x : Fibre) (r : InTrap) : ∀ p ∈ (x.leave r).pend, p.ordered.isSome = true := by
  intro p hp
  obtain ⟨q, hq, rfl⟩ := List.mem_map.mp hp
  have hordered : q.leave.ordered = q.ordered := by
    unfold Pend.leave
    split <;> rfl
  rw [hordered]
  exact (List.mem_filter.mp hq).2

/-- Settles O30: the only active lane leaves the runtime, and what `Fibre.leave` sets is the rest. -/
theorem returnFromTrap : Obligations.ReturnFromTrap := by
  unfold Obligations.ReturnFromTrap
  refine fun r => ⟨fun w s wv f h ⟨hr, hpc⟩ => ends_eret h.1.1 ?_, fun x => ⟨rfl, rfl, rfl, x.leave_pend r, Fibre.writeAllPend_regs⟩⟩
  have hrun := laneEret_atPc (c := soloCtx .eret w s wv f) (Solo.cur h.1) hr hpc h.group
  have hbody : bodyEret (soloCtx .eret w s wv f) (s.begun (soloCtx .eret w s wv f))
      = .ok ((s.begun (soloCtx .eret w s wv f)).setFibre { (f.issued (s.fallOf f.pc)).leave r with parked := false }, []) := by
    unfold bodyEret
    rw [Solo.act_eq h.1]
    unfold lanesWay
    rw [hrun]
    rfl
  have hsame := (f.issued (s.fallOf f.pc)).writeAllPend_same
  exact ends_body h hbody hsame.1 (hsame.2.trans h.group) rfl (setFibres_waves _ _) (setFibres_same _ _)

end Sys2Proof.Machine
end

section
/-! Float and conversion instructions (16 R324 to R336): each is an effect on every active fibre alone; what they compute in named cases
follows from the fixed rounding mode of their code. -/

namespace Sys2Proof.Machine

/-! ### FPSTAT (05 R148) -/

/-- A fibre with its sticky flags clear. -/
def clearFibre : Fibre := { id := ⟨.team 1 0 0, 0⟩, pc := 0, obj := 3, regs := [1] }

/-- An instruction of the short class. -/
def shortCtx : Ctx := { (default : Ctx) with op := .fadd }

/-- Refutes O15: the flag word of its last clause but one is any word, and FPSTAT takes bits [7:0] of it alone. Bit 8 is not taken. -/
theorem not_floatResults : ¬ Obligations.FloatResults := by
  unfold Obligations.FloatResults
  rintro ⟨-, -, -, -, -, -, -, hflags, -⟩
  exact absurd (hflags shortCtx clearFibre 0 0x100 rfl) (by decide)

/-! ### Rounding codes that name their mode (05 R134) -/

/-- The mode of a code below SR. -/
def fixedMode : Nat → RMode
  | 1 => .rtz
  | 2 => .rdn
  | 3 => .rup
  | _ => .rne

section
variable {x : Fibre} {rc : Nat} (h : rc ≤ 3)
include h

theorem Fibre.rcode_fixed : x.rcode rc = rc := if_neg (by rw [beq_iff_eq]; omega)

theorem Fibre.rmode_fixed (srOk : Bool) (e : Nat) : x.rmode rc srOk e = fixedMode rc := by
  unfold Fibre.rmode
  rw [Fibre.rcode_fixed h]
  interval_cases rc <;> rfl

theorem Fibre.srStep_fixed (srOk : Bool) : x.srStep rc srOk = x := by
  have hno : (rc == 4) = false := beq_eq_false_iff_ne.mpr (by omega)
  unfold Fibre.srStep Fibre.isSr
  rw [Fibre.rcode_fixed h, hno, Bool.and_false]
  rfl

end

/-- How a conversion of a MOD byte with such a code rounds. -/
def fixedConv (m : Byte) (sat : Bool) : RCtx := { mode := fixedMode (modField m 0 3), sat := sat, conv := true }

section
variable {c : Ctx} {x : Fibre} (h : modField c.w.mod 0 3 ≤ 3)
include h

theorem Ctx.conv_fixed (sat srOk : Bool) (e : Nat) : c.conv x sat srOk e = fixedConv c.w.mod sat := by
  unfold Ctx.conv fixedConv
  rw [Fibre.rmode_fixed h]

theorem Ctx.putSr_fixed (srOk : Bool) (r : FRes) : c.putSr x srOk r = c.putR x r := Fibre.srStep_fixed h srOk

end

theorem Ctx.putR_toNat (c : Ctx) (x : Fibre) (v fl : Word) : c.putR x (v.toNat, fl) = c.putD x v fl := by
  unfold Ctx.putR
  rw [BitVec.ofNat_toNat, BitVec.setWidth_eq]

/-! ### The conversions in named cases (16 R330, R331, R333, R334, R336) -/

/-- A conversion that delivers `res` of its MOD byte and its input under a code that names its mode delivers what `res` computes in
every case of a list. -/
theorem conversion_cases {I : Type} {fib : Ctx → Fibre → Fibre} {res : Byte → I → FRes} {inp : Ctx → Fibre → I}
    (heq : ∀ c x, modField c.w.mod 0 3 ≤ 3 → fib c x = c.putR x (res c.w.mod (inp c x))) {l : List ((Byte × I) × (Word × Word))}
    (hl : l.all (fun p => modField p.1.1 0 3 ≤ 3 && res p.1.1 p.1.2 == (p.2.1.toNat, p.2.2)) = true) :
    ∀ p ∈ l, ∀ (c : Ctx) (x : Fibre), (c.w.mod, inp c x) = p.1 → fib c x = c.putD x p.2.1 p.2.2 := by
  intro p hp c x hin
  obtain ⟨hrc, hval⟩ := Bool.and_eq_true_iff.mp (List.all_eq_true.mp hl p hp)
  rw [← hin] at hrc hval
  rw [heq c x (of_decide_eq_true hrc), eq_of_beq hval, Ctx.putR_toNat]

/-- What each conversion delivers of its MOD byte and its input under a code that names its mode. -/
def cvtfResult (m : Byte) (a : Word) : FRes :=
  convertFp (cvtPair (modField m 4 4)).1 (cvtPair (modField m 4 4)).2 (fixedConv m (modBit m 3)) (a.toNat % 2 ^ (cvtPair (modField m 4 4)).2.width)

theorem fibreCvtf_fixed (c : Ctx) (x : Fibre) (h : modField c.w.mod 0 3 ≤ 3) : fibreCvtf c x = c.putR x (cvtfResult c.w.mod (c.a x)) := by
  unfold fibreCvtf
  dsimp only
  rw [Ctx.conv_fixed h, Ctx.putSr_fixed h]
  rfl

def i2fResult (m : Byte) (a : Word) : FRes :=
  (fltFmt (modField m 4 2)).ofInt (fixedConv m false) (if modBit m 3 then a.toInt else a.toNat)

theorem fibreI2f_fixed (c : Ctx) (x : Fibre) (h : modField c.w.mod 0 3 ≤ 3) : fibreI2f c x = c.putR x (i2fResult c.w.mod (c.a x)) := by
  unfold fibreI2f
  dsimp only
  rw [Ctx.conv_fixed h, Ctx.putSr_fixed h]
  rfl

/-- F2I's integer under a mode, and its flags. -/
def f2iInt (mode : RMode) (m : Byte) (a : Word) : Int × Word :=
  toIntSat mode (if modBit m 3 then -(2 ^ 31) else 0) (if modBit m 3 then 2 ^ 31 - 1 else 2 ^ 32 - 1)
    ((fltFmt (modField m 4 2)).decode (a.toNat % 2 ^ (fltFmt (modField m 4 2)).width))

theorem fibreF2i_eq (c : Ctx) (x : Fibre) : fibreF2i c x = c.putSr x true
    (twos 32 (f2iInt (c.conv x false true 0).mode c.w.mod (c.a x)).1, (f2iInt (c.conv x false true 0).mode c.w.mod (c.a x)).2) := rfl

def f2iResult (m : Byte) (a : Word) : FRes :=
  (twos 32 (f2iInt (fixedMode (modField m 0 3)) m a).1, (f2iInt (fixedMode (modField m 0 3)) m a).2)

theorem fibreF2i_fixed (c : Ctx) (x : Fibre) (h : modField c.w.mod 0 3 ≤ 3) : fibreF2i c x = c.putR x (f2iResult c.w.mod (c.a x)) := by
  rw [fibreF2i_eq, Ctx.conv_fixed h, Ctx.putSr_fixed h]
  rfl

/-- A conversion to an integer format stays within its bounds when 0 does. -/
theorem toIntSat_bounds (mode : RMode) {lo hi : Int} (hlo : lo ≤ 0) (hhi : 0 ≤ hi) (v : FVal) :
    lo ≤ (toIntSat mode lo hi v).1 ∧ (toIntSat mode lo hi v).1 ≤ hi := by
  cases v with
  | nan s => exact ⟨hlo, hhi⟩
  | inf n => cases n <;> simp [toIntSat] <;> omega
  | num n m e =>
    unfold toIntSat
    dsimp only
    split
    · simp only; omega
    · split <;> simp only <;> omega

theorem fibreF2i_bounds (c : Ctx) (x : Fibre) : ∃ (r : Int) (fl : Word), fibreF2i c x = c.putSr x true ((r % 2 ^ 32).toNat, fl) ∧
    (if modBit c.w.mod 3 then -(2 ^ 31) ≤ r ∧ r < 2 ^ 31 else 0 ≤ r ∧ r < 2 ^ 32) := by
  refine ⟨_, _, fibreF2i_eq c x, ?_⟩
  unfold f2iInt
  cases modBit c.w.mod 3 with
  | true => exact (toIntSat_bounds _ (by decide) (by decide) _).imp_right Int.lt_add_one_of_le
  | false => exact (toIntSat_bounds _ (by decide) (by decide) _).imp_right Int.lt_add_one_of_le

def pk8Result (m : Byte) (ws : List Word) : FRes :=
  packElems (Nf.ofCode (modField m 4 3)).bits (((List.range 4).zip ws).map (fun q =>
    (Nf.ofCode (modField m 4 3)).encode (fixedConv m (modBit m 3)) [] (fp32.decode q.2.toNat)))

theorem fibrePk8_fixed (c : Ctx) (x : Fibre) (h : modField c.w.mod 0 3 ≤ 3) :
    fibrePk8 c x = c.putR x (pk8Result c.w.mod (x.block c.w.a.n.toNat 4)) := by
  unfold fibrePk8 packFrom
  dsimp only
  simp only [Ctx.conv_fixed h]
  exact Ctx.putSr_fixed h true _

def dqblkResult (m : Byte) (ab : Word × Word) : FRes :=
  fp32.ofVal (fixedConv m (modBit m 3)) ((Nf.ofCode (modField m 4 3)).scaledVal [] (ab.1.toNat % 2 ^ (Nf.ofCode (modField m 4 3)).bits)
    (some (ab.2.toNat % 256)))

theorem fibreDqblk_fixed (c : Ctx) (x : Fibre) (h : modField c.w.mod 0 3 ≤ 3) :
    fibreDqblk c x = c.putR x (dqblkResult c.w.mod (c.a x, c.b x)) := by
  unfold fibreDqblk
  dsimp only
  rw [Ctx.conv_fixed h]
  rfl

/-- Element k of a word of 8-bit codes, exactly in FP32. -/
def upk8Elem (m : Byte) (a : Word) (k : Nat) : FRes :=
  fp32.ofVal { conv := true } ((Nf.ofCode (modField m 4 3)).decode [] (a.toNat / 2 ^ ((Nf.ofCode (modField m 4 3)).bits * k) % 2 ^ (Nf.ofCode (modField m 4 3)).bits))

/-- The two elements that UPK8 delivers, and their flags. -/
def upk8Pair (m : Byte) (a b : Word) : DWord × Word :=
  let lo := upk8Elem m a (2 * (b.toNat % 2))
  let hi := upk8Elem m a (2 * (b.toNat % 2) + 1)
  (BitVec.ofNat 64 (lo.1 + 2 ^ 32 * hi.1), lo.2 ||| hi.2)

theorem fibreUpk8_eq (c : Ctx) (x : Fibre) :
    fibreUpk8 c x = c.putD64 x (upk8Pair c.w.mod (c.a x) (c.b x)).1 (upk8Pair c.w.mod (c.a x) (c.b x)).2 := rfl

theorem fibreUpk8_cases {l : List ((Byte × Word × Word) × DWord)} (hl : l.all (fun p => upk8Pair p.1.1 p.1.2.1 p.1.2.2 == (p.2, 0)) = true) :
    ∀ p ∈ l, ∀ (c : Ctx) (x : Fibre), (c.w.mod, c.a x, c.b x) = p.1 → fibreUpk8 c x = c.putD64 x p.2 0 := by
  intro p hp c x hin
  have hval := eq_of_beq (List.all_eq_true.mp hl p hp)
  rw [← hin] at hval
  rw [fibreUpk8_eq, hval]

/-! ### HDOT2 (16 R328) -/

/-- The sum of C and the two products, the products as they come. -/
def hdot2Sum (c : RCtx) (h : Fmt) (ftz : Bool) (a b d : Word) : FRes :=
  let p := fun k => (h.decodeFtz ftz (half k a)).mul (h.decodeFtz ftz (half k b))
  fp32.sum c ((p 0).2 || (p 1).2) [fp32.decodeFtz ftz d.toNat, (p 0).1, (p 1).1]

theorem fibreHdot2_eq (c : Ctx) (x : Fibre) :
    fibreHdot2 c x = c.putR x (hdot2Sum (c.arith x) (halfFmt c.w.mod) x.ftz (c.a x) (c.b x) (c.c4 x)) := rfl

theorem fibreHdot2_cases {l : List ((Word × Word × Word) × (Word × Word))}
    (hl : l.all (fun p => hdot2Sum {} fp16 false p.1.1 p.1.2.1 p.1.2.2 == (p.2.1.toNat, p.2.2)) = true) :
    ∀ p ∈ l, ∀ (c : Ctx) (x : Fibre), c.w.mod = 0 → x.ftz = false → (c.a x, c.b x, c.c4 x) = p.1 →
      fibreHdot2 c x = c.putD x p.2.1 p.2.2 := by
  intro p hp c x hm hf hin
  have hval := eq_of_beq (List.all_eq_true.mp hl p hp)
  rw [← hin] at hval
  have harith : c.arith x = {} := by
    unfold Ctx.arith
    rw [hm, hf]
    rfl
  rw [fibreHdot2_eq, harith, hm, hf]
  exact (congrArg (c.putR x) hval).trans (c.putR_toNat x _ _)

/-- A sum of three nonzero numbers rounds their exact sum once. -/
theorem Fmt.sum_three (h : Fmt) (r : RCtx) {n k l : Bool} {m i j : Nat} {e f g : Int} (hm : m ≠ 0) (hi : i ≠ 0) (hj : j ≠ 0) :
    let q := min 0 (min e (min f g))
    let units := fun (neg : Bool) (a : Nat) (b : Int) => (if neg then -1 else 1 : Int) * (a * 2 ^ (b - q).toNat : Nat)
    let sum := units n m e + units k i f + units l j g
    sum ≠ 0 → h.sum r false [.num n m e, .num k i f, .num l j g] = h.round r (sum < 0) sum.natAbs q := by
  intro q units sum hsum
  have hq : minExp 0 [.num n m e, .num k i f, .num l j g] = q := by
    simp only [minExp, List.foldl_cons, List.foldl_nil, beq_iff_eq, hm, hi, hj, if_false]
    omega
  have hscaled : ∀ (neg : Bool) (a : Nat) (b : Int), q ≤ b → (FVal.num neg a b).scaled q = units neg a b := by
    intro neg a b hb
    have hsame : (b - q).natAbs = (b - q).toNat := by omega
    simp only [FVal.scaled, units, hsame]
    cases neg <;> simp
  have hterms : [FVal.num n m e, .num k i f, .num l j g].foldl (fun a t => a + (if t.isZero then 0 else t.scaled q)) 0 = sum := by
    simp only [List.foldl_cons, List.foldl_nil, FVal.isZero, beq_iff_eq, hm, hi, hj, if_false]
    rw [hscaled n m e (by omega), hscaled k i f (by omega), hscaled l j g (by omega), Int.zero_add]
  have hsum' : (sum == 0) = false := beq_eq_false_iff_ne.mpr hsum
  unfold Fmt.sum
  dsimp only
  rw [hq, hterms, hsum']
  rfl

theorem fibreHdot2_finite (c : Ctx) (x : Fibre) (n k l : Bool) (m i j : Nat) (e f g : Int)
    (hc : fp32.decodeFtz x.ftz (c.c4 x).toNat = .num n m e)
    (h0 : ((halfFmt c.w.mod).decodeFtz x.ftz (half 0 (c.a x))).mul ((halfFmt c.w.mod).decodeFtz x.ftz (half 0 (c.b x))) = (.num k i f, false))
    (h1 : ((halfFmt c.w.mod).decodeFtz x.ftz (half 1 (c.a x))).mul ((halfFmt c.w.mod).decodeFtz x.ftz (half 1 (c.b x))) = (.num l j g, false))
    (hm : m ≠ 0) (hi : i ≠ 0) (hj : j ≠ 0) :
    let q := min 0 (min e (min f g))
    let units := fun (neg : Bool) (a : Nat) (b : Int) => (if neg then -1 else 1 : Int) * (a * 2 ^ (b - q).toNat : Nat)
    let sum := units n m e + units k i f + units l j g
    sum ≠ 0 → fibreHdot2 c x = c.putR x (fp32.round (c.arith x) (sum < 0) sum.natAbs q) := by
  intro q units sum hsum
  rw [fibreHdot2_eq]
  unfold hdot2Sum
  dsimp only
  rw [hc, h0, h1]
  exact congrArg (c.putR x) (fp32.sum_three (c.arith x) hm hi hj hsum)

/-! ### IXT (16 R332) -/

/-- IXT's result: the low bits of A extended as MOD says, as a number of 64 bits. -/
theorem fibreIxt_eq (c : Ctx) (x : Fibre) : fibreIxt c x =
    (let n := 8 * 2 ^ modField c.w.mod 0 2
    let v : Nat := (c.a x).toNat % 2 ^ n
    let e : Int := if modBit c.w.mod 2 && 2 ^ (n - 1) ≤ v then Int.ofNat v - 2 ^ n else Int.ofNat v
    c.putW x (modBit c.w.mod 3) (Int.emod e (2 ^ 64)).toNat) := by
  have hv : (c.a x).toNat % 2 ^ (8 * 2 ^ modField c.w.mod 0 2) < 2 ^ 64 :=
    Nat.lt_of_le_of_lt (Nat.mod_le _ _) (Nat.lt_of_lt_of_le (c.a x).isLt (by decide))
  unfold fibreIxt
  dsimp only
  congr 1
  cases modBit c.w.mod 2 with
  | true =>
    unfold twos signedOf
    dsimp only
    rw [Nat.mod_mod]
    simp only [Bool.true_and, decide_eq_true_eq, if_true]
    rfl
  | false =>
    have hlow : ((((c.a x).toNat % 2 ^ (8 * 2 ^ modField c.w.mod 0 2) : Nat) : Int) % 2 ^ 64).toNat
        = (c.a x).toNat % 2 ^ (8 * 2 ^ modField c.w.mod 0 2) := by omega
    exact hlow.symm

/-! ### The statement -/

theorem Ctx.putR_same (c : Ctx) (x : Fibre) (r : FRes) : x.Same (c.putR x r) := c.putD_same x _ _

theorem Fibre.srStep_same (x : Fibre) (rc : Nat) (srOk : Bool) : x.Same (x.srStep rc srOk) := by
  unfold Fibre.srStep
  split <;> exact ⟨rfl, rfl⟩

theorem Ctx.putSr_same (c : Ctx) (x : Fibre) (srOk : Bool) (r : FRes) : x.Same (c.putSr x srOk r) :=
  (c.putR_same x r).trans (Fibre.srStep_same _ _ _)

/-- Settles O16: each opcode is its model function on every active fibre, and the named cases are evaluated at the fixed mode of their code. -/
theorem packedAndConversionResults : Obligations.PackedAndConversionResults := by
  unfold Obligations.PackedAndConversionResults
  refine ⟨fibreHdot2_finite, fibreHdot2_cases (by decide +kernel), conversion_cases fibreCvtf_fixed (by decide +kernel),
    conversion_cases fibreI2f_fixed (by decide +kernel), conversion_cases fibreF2i_fixed (by decide +kernel), fibreF2i_bounds,
    conversion_cases fibrePk8_fixed (by decide +kernel), fibreUpk8_cases (by decide +kernel),
    conversion_cases (inp := fun c x => (c.a x, c.b x)) fibreDqblk_fixed (by decide +kernel), ?h2, ?hfma2, ?hfn, ?hdot2, ?hcmp2, ?cvtf, ?i2f, ?f2i, ?ixt, ?pk8, ?upk8, ?dqblk, ?srseed, ?txst⟩
  case h2 =>
    intro p hp
    simp only [List.mem_cons, List.not_mem_nil, or_false] at hp
    obtain rfl | rfl | rfl | rfl | rfl := hp
    · exact lane_rule_self (op := .hadd2) (g := fibreH2 Fmt.add) (fun _ _ => rfl) fun c x => c.putR_same x _
    · exact lane_rule_self (op := .hsub2) (g := fibreH2 Fmt.sub) (fun _ _ => rfl) fun c x => c.putR_same x _
    · exact lane_rule_self (op := .hmul2) (g := fibreH2 Fmt.mul) (fun _ _ => rfl) fun c x => c.putR_same x _
    · exact lane_rule_self (op := .hmin2) (g := fibreH2 (fun t r => t.minmax r false)) (fun _ _ => rfl) fun c x => c.putR_same x _
    · exact lane_rule_self (op := .hmax2) (g := fibreH2 (fun t r => t.minmax r true)) (fun _ _ => rfl) fun c x => c.putR_same x _
  case hfma2 => exact lane_rule_self (g := fibreHfma2) (fun _ _ => rfl) fun c x => c.putR_same x _
  case hfn =>
    intro p hp
    simp only [List.mem_cons, List.not_mem_nil, or_false] at hp
    obtain rfl | rfl | rfl | rfl := hp
    · exact lane_rule_self (op := .hexp2) (g := fibreHfn Fmt.exp2) (fun _ _ => rfl) fun c x => c.putR_same x _
    · exact lane_rule_self (op := .htanh2) (g := fibreHfn Fmt.tanh) (fun _ _ => rfl) fun c x => c.putR_same x _
    · exact lane_rule_self (op := .hrcp2) (g := fibreHfn Fmt.rcp) (fun _ _ => rfl) fun c x => c.putR_same x _
    · exact lane_rule_self (op := .hrsq2) (g := fibreHfn Fmt.rsq) (fun _ _ => rfl) fun c x => c.putR_same x _
  case hdot2 => exact lane_rule_self (fun _ _ => rfl) fun c x => c.putR_same x _
  case hcmp2 => exact lane_rule_self (g := fibreHcmp2) (fun _ _ => rfl) fun c x => c.putD_same x _ _
  case cvtf => exact lane_rule_self (fun _ _ => rfl) fun c x => c.putSr_same x _ _
  case i2f => exact lane_rule_self (fun _ _ => rfl) fun c x => c.putSr_same x _ _
  case f2i => exact lane_rule_self (fun _ _ => rfl) fun c x => c.putSr_same x _ _
  case ixt => exact lane_rule (g := fibreIxt) (fun _ _ => rfl) (fun c x => c.putW_same x _ _ _) fun c x _ => fibreIxt_eq c x
  case pk8 => exact lane_rule_self (fun _ _ => rfl) fun c x => c.putSr_same x _ _
  case upk8 => exact lane_rule_self (fun _ _ => rfl) fun c x => c.putD64_same x _ _
  case dqblk => exact lane_rule_self (fun _ _ => rfl) fun c x => c.putR_same x _
  case srseed => exact lane_rule_self (g := fibreSrseed) (fun _ _ => rfl) fun _ _ => ⟨rfl, rfl⟩
  case txst => exact lane_rule_self (g := fibreTxst) (fun _ _ => rfl) fun c x => c.putD_same x _ _

end Sys2Proof.Machine
end

section
/-! Codebooks, block quantising and structured sparsity (16 R333 to R341). -/

namespace Sys2Proof.Machine

/-! ### Instructions whose every lane writes its own fibre -/

section
variable {op : Op} {w : Fields} {s t : State} {wv : Wave} {fs : List Fibre} {f : Fibre} {c : Ctx} {g : Ctx → Fibre → M Unit}
  {G : Fibre → Fibre}

/-- Lanes of different fibres that each write their own fibre act as one after the other on the state they find. -/
theorem lanesFrom_each {xs : List Fibre} (hn : (xs.map Fibre.id).Nodup) (hid : ∀ x ∈ xs, (G x).id = x.id)
    (hcur : ∀ x ∈ xs, t.fibre? x.id = some x)
    (hrun : ∀ x ∈ xs, ∀ u : State, u.fibre? x.id = some x → (g c x).run u = .ok ((), u.setFibre (G x))) :
    lanesFrom c g xs t = .ok (xs.foldl (fun u x => u.setFibre (G x)) t, []) := by
  induction xs generalizing t with
  | nil => rfl
  | cons x xs ih =>
    have hx := hcur x List.mem_cons_self
    obtain ⟨hnew, hn⟩ := List.nodup_cons.mp hn
    have hrest : ∀ y ∈ xs, (t.setFibre (G x)).fibre? y.id = some y := by
      intro y hy
      have hne : (G x).id ≠ y.id := by
        rw [hid x List.mem_cons_self]
        exact fun h => hnew (h ▸ List.mem_map_of_mem hy)
      rw [State.fibre?_setFibre_other hne, hcur y (List.mem_cons_of_mem _ hy)]
    unfold lanesFrom
    simp only [hx, Option.getD_some, hrun x List.mem_cons_self t hx]
    show (do let (s, rest) ← lanesFrom c g xs (t.setFibre (G x)); pure (s, _ ++ rest)) = _
    rw [ih hn (fun y hy => hid y (List.mem_cons_of_mem _ hy)) hrest (fun y hy => hrun y (List.mem_cons_of_mem _ hy))]
    rfl

/-- An active fibre of a wave stands, as the effect begins, where its instruction has been issued. -/
theorem Ready.begun_cur (h : Ready op w s wv fs f) :
    ∀ x ∈ (issueCtx op w s wv fs f.pc).act, (s.begun (issueCtx op w s wv fs f.pc)).fibre? x.id = some x := by
  intro x hx
  rw [Ready.active_eq h] at hx
  obtain ⟨y, hy, rfl⟩ := List.mem_map.mp hx
  have hy := (List.mem_filter.mp hy).1
  have hmem : (fs.map Fibre.id).contains y.id = true := by simpa using ⟨y, hy, rfl⟩
  have hid : (y.issued (s.fallOf f.pc)).id = y.id := rfl
  rw [begun_fibre? h, hid, State.mem_waveFibres (h.2.1.symm ▸ hy : y ∈ s.waveFibres wv), Option.map_some, hmem, if_pos rfl]

theorem Ready.act_nodup (h : Ready op w s wv fs f) : ((issueCtx op w s wv fs f.pc).act.map Fibre.id).Nodup := by
  have hn : (fs.map Fibre.id).Nodup := h.2.1 ▸ s.waveFibres_nodup wv
  rw [Ready.active_eq h, List.map_map]
  exact hn.sublist (List.Sublist.map _ List.filter_sublist)

/-- An opcode whose every lane writes its own fibre completes in every wave. -/
theorem group_rule {P : Ctx → State → Prop} {G : Ctx → Fibre → Fibre} (he : ∀ w s, exec (op.instr w) s = issue op w (perLane g) s)
    (hG : ∀ c (x : Fibre), x.Same (G c x))
    (hrun : ∀ c s, P c s → ∀ x ∈ c.act, ∀ u : State, u.fibre? x.id = some x → (g c x).run u = .ok ((), u.setFibre (G c x))) :
    GroupRule op P (fun c _ => G c) (fun _ s => s) := by
  intro w s wv fs f ⟨h, hre, hcalm⟩ hP
  have hlanes := lanesFrom_each (Ready.act_nodup h) (fun x _ => (hG _ x).1) (Ready.begun_cur h) (hrun _ s hP)
  have heq : issue op w (perLane g) s = issue op w (perFibre G) s := (issue_done h hlanes).trans (issue_perFibre h).symm
  rw [he, heq]
  exact ends_perFibre h hre hcalm hG

end

/-! ### Structured sparsity (16 R340, R341) -/

/-- The ones of a mask's low 16 bits. -/
theorem setBits_mask (v : Word) : setBits (v.toNat % 2 ^ 16) 16 = (List.range 16).filter (fun k => v.getLsbD k) := by
  unfold setBits
  refine List.filter_congr fun k hk => ?_
  rw [Nat.testBit_mod_two_pow, decide_eq_true (List.mem_range.mp hk), Bool.true_and]
  rfl

section
variable {s : State} {c : Ctx} {x : Fibre}

theorem laneSppk_run (h : ((List.range 16).filter (fun k => (c.b x).getLsbD k)).length = spN c.w.mod) : (laneSppk c x).run s = .ok ((), s.setFibre (
    let m := c.w.mod
    let ps := (List.range 16).filter (fun k => (c.b x).getLsbD k)
    let g := wordsNat (x.block c.w.a.n.toNat (spQ m))
    c.deliver x (regsFrom c.w.d.n.toNat (spK m + 1)) (words (spK m) (packNat (spW m) (ps.map (fun p => g / 2 ^ (spW m * p) % 2 ^ spW m)))
      ++ [BitVec.ofNat 32 (packNat 4 ps)]))) := by
  unfold laneSppk
  dsimp only
  rw [setBits_mask, bind_check (beq_iff_eq.mpr h)]
  rfl

theorem laneSpupk_run (h : ascending ((List.range (spN c.w.mod)).map (fun k => (x.reg (c.w.a.n.toNat + spK c.w.mod)).toNat / 16 ^ k % 16)) = true) :
    (laneSpupk c x).run s = .ok ((), s.setFibre (
    let m := c.w.mod
    let kept := wordsNat (x.block c.w.a.n.toNat (spK m))
    let ps := (List.range (spN m)).map (fun k => (x.reg (c.w.a.n.toNat + spK m)).toNat / 16 ^ k % 16)
    c.deliver x (regsFrom c.w.d.n.toNat (spQ m)) (words (spQ m) ((List.range (spN m)).foldl (fun g k =>
      g + kept / 2 ^ (spW m * k) % 2 ^ spW m * 2 ^ (spW m * ps.getD k 0)) 0)))) := by
  unfold laneSpupk
  dsimp only
  rw [bind_check h]
  rfl

/-! ### Codebooks (16 R333, R334, R337 to R339) -/

variable {t : Team}

theorem bookM_run (ht : s.teamOf? x.id.crew = some t) (isCb4 : Bool) (slot place : Nat) :
    (bookM x isCb4 slot place).run s = .ok (if isCb4 then t.book slot else [], s) := by
  unfold bookM
  cases isCb4 with
  | false => rfl
  | true =>
    rw [if_pos rfl, bind_get, ht]
    rfl

theorem lanePk4_run (ht : s.teamOf? x.id.crew = some t) : (lanePk4 c x).run s = .ok ((), s.setFibre (packFrom c x (.ofCode (modField c.w.mod 4 3))
    (if Nf.ofCode (modField c.w.mod 4 3) == .cb4 then t.book ((c.b x).toNat % 8) else []) 8)) := by
  unfold lanePk4
  exact bind_ok (bookM_run ht _ _ _)

theorem laneUpk4_run (ht : s.teamOf? x.id.crew = some t) : (laneUpk4 c x).run s = .ok ((), s.setFibre (unpackPair c x (.ofCode (modField c.w.mod 4 3))
    (if Nf.ofCode (modField c.w.mod 4 3) == .cb4 then t.book ((c.b x).toNat / 16 % 8) else []) ((c.b x).toNat % 4))) := by
  unfold laneUpk4
  exact bind_ok (bookM_run ht _ _ _)

/-- No instruction in flight reads a codebook slot. -/
theorem bookRead_free {slot : Nat} (h : ∀ o ∈ s.tileOps, o.launch = t.launch → o.team = t.id → bookRead slot ∉ o.reads) :
    s.tileOps.any (fun o => o.launch == t.launch && o.team == t.id && o.reads.contains (bookRead slot)) = false := by
  rw [List.any_eq_false]
  intro o ho hreads
  simp only [Bool.and_eq_true, beq_iff_eq, List.contains_iff_mem] at hreads
  exact h o ho hreads.1.1 hreads.1.2 hreads.2

theorem waveCbld_run (hb : (c.b c.lead).toNat < 8) (ht : s.teamOf? c.lead.id.crew = some t) (hal : (c.a c.lead).toNat % 16 = 0)
    (hfit : (c.a c.lead).toNat + 32 ≤ t.spSize) (hbad : t.bad (c.a c.lead).toNat 32 = false)
    (hfree : ∀ o ∈ s.tileOps, o.launch = t.launch → o.team = t.id → bookRead (c.b c.lead).toNat ∉ o.reads) : (waveCbld c).run s = .ok ((), s.setTeam
      { t with books := t.books.set (c.b c.lead).toNat ((List.range 16).map (fun k => BitVec.ofNat 16 (t.sp.getN ((c.a c.lead).toNat + 2 * k) 2))) }) := by
  unfold waveCbld spSound
  dsimp only
  rw [bind_check (decide_eq_true hb), bind_ok (teamM_run ht), bind_check (beq_iff_eq.mpr hal), bind_check (decide_eq_true hfit),
    bind_check (by rw [hbad]; rfl), bind_get, bookRead_free hfree]
  rfl

end

/-! ### The block quantiser (16 R335; 05 R147) -/

/-- A pass gives a code to each element. -/
theorem qblkPasses_length (nf : Nf) (xs : List (FVal × RMode)) (left : Nat) (e : Int) : (qblkPasses nf xs left e).1.length = xs.length := by
  induction left generalizing e with
  | zero => simp [qblkPasses]
  | succ left ih =>
    unfold qblkPasses
    dsimp only
    split
    · simp
    · split
      · exact ih _
      · simp

theorem qblk_length (nf : Nf) (xs : List (FVal × RMode)) : (qblk nf xs).1.length = xs.length := by
  unfold qblk
  split
  · simp
  · exact qblkPasses_length ..

/-- QBLK of one lane: its only code is the head. -/
theorem bodyQblk_lone {s : State} {c : Ctx} {x : Fibre} (hact : c.act = [x]) (hlead : c.lead = x) : bodyQblk c s = .ok (s.setFibre (
    let rc := x.rcode (modField c.w.mod 0 3)
    let r := qblk (.ofCode (modField c.w.mod 4 3)) [(fp32.decode (c.a x).toNat, x.rmode rc true x.lane)]
    (c.putD64 x (BitVec.ofNat 64 (r.1.headD 0 + 2 ^ 32 * r.2.1)) r.2.2).srStep rc true), []) := by
  have hin : qblkIn c = [(fp32.decode (c.a x).toNat, x.rmode (x.rcode (modField c.w.mod 0 3)) true x.lane)] := by
    unfold qblkIn
    rw [hact, hlead]
    rfl
  obtain ⟨code, hcode⟩ := List.length_eq_one_iff.mp (qblk_length (.ofCode (modField c.w.mod 4 3)) (qblkIn c) |>.trans (by rw [hin]; rfl))
  unfold bodyQblk
  dsimp only
  rw [← hin, hcode, hact, hlead]
  rfl

/-! ### The statement -/

/-- Settles O32: a lane with a codebook is the lane's write after the look-up; a mask with N ones or ascending positions pass every
lane's check; the quantiser gives one lane one code. -/
theorem codebookResults : Obligations.CodebookResults := by
  unfold Obligations.CodebookResults
  refine ⟨fun t => ?books, ?sppk, ?spupk, ?qblk, fun t => ?cbld⟩
  case books =>
    intro p hp
    simp only [List.mem_cons, List.not_mem_nil, or_false] at hp
    obtain rfl | rfl | rfl | rfl := hp
    · exact one_rule (op := .pk4) (g := lanePk4) (fun _ _ => rfl) (fun c _ x _ => c.putSr_same x _ _) (fun _ _ _ _ => rfl)
        fun _ _ _ _ ht _ => lanePk4_run ht
    · exact one_rule (op := .upk4) (g := laneUpk4) (fun _ _ => rfl) (fun c _ x _ => c.putD64_same x _ _) (fun _ _ _ _ => rfl)
        fun _ _ _ _ ht _ => laneUpk4_run ht
    · exact one_rule (op := .cbenc) (g := laneCbenc) (fun _ _ => rfl) (fun c _ x _ => c.putD_same x _ _) (fun _ _ _ _ => rfl)
        fun _ _ _ _ ht _ => bind_ok (teamM_run ht)
    · exact one_rule (op := .cbdec) (g := laneCbdec) (fun _ _ => rfl) (fun c _ x _ => c.putD_same x _ _) (fun _ _ _ _ => rfl)
        fun _ _ _ _ ht _ => bind_ok (teamM_run ht)
  case sppk => exact group_rule (g := laneSppk) (fun _ _ => rfl) (fun c x => c.deliver_same x _ _ _) fun _ _ h x hx _ _ => laneSppk_run (h x hx)
  case spupk => exact group_rule (g := laneSpupk) (fun _ _ => rfl) (fun c x => c.deliver_same x _ _ _) fun _ _ h x hx _ _ => laneSpupk_run (h x hx)
  case qblk =>
    refine one_rule_of_lead (one_body_rule (body := bodyQblk) (fun _ _ => rfl) (fun c _ x _ => (c.putD64_same x _ _).trans (Fibre.srStep_same _ _ _))
      (fun _ _ _ _ => rfl) fun c s x fb h hact _ => ⟨s.nextId, bodyQblk_lone hact h.2⟩)
  case cbld =>
    exact wave_rule (g := waveCbld) (fun _ _ => rfl) (fun _ _ _ => rfl)
      fun c s ⟨hb, ht, hal, hfit, hbad, hfree⟩ => waveCbld_run (t := t) hb ht hal hfit hbad hfree

end Sys2Proof.Machine
end

section
/-! Loads, acquires and stores of device memory in a wave of one fibre (17 R345, R346, R349; 03 R86; 04 R104): a load is its read at the
place that its page's entry gives, an acquire and a release frame it, and a store merges its bytes into one line. -/

namespace Sys2Proof.Machine

/-! ### The bytes that are merged into a line (00 R5; 03 R86) -/

theorem testBit_foldr_bytes (g : Nat → Bool) (l : List Nat) (a : Nat) {b : Nat} (hb : b < 8) :
    (l.foldr (fun i acc => 256 * acc + (if g i then 255 else 0)) 0).testBit (8 * a + b) = (l[a]?.map g).getD false := by
  have hlow : ∀ c : Bool, (if c then 255 else 0) < 2 ^ 8 := by decide
  have hones : ∀ b < 8, Nat.testBit 255 b = true := by decide
  induction l generalizing a with
  | nil => simp
  | cons x xs ih =>
    rw [List.foldr_cons, Nat.testBit_two_pow_mul_add (i := 8) _ (hlow _)]
    cases a with
    | zero =>
      rw [Nat.mul_zero, Nat.zero_add, if_pos hb]
      cases h : g x <;> simp [h, hones b hb]
    | succ a =>
      rw [if_neg (by omega), show 8 * (a + 1) + b - 8 = 8 * a + b by omega, ih]
      rfl

/-- A byte mask covers all eight bits of each of its bytes. -/
theorem getLsbD_maskBits (m : BitVec 64) {j b : Nat} (hj : j < 64) (hb : b < 8) : (maskBits m).getLsbD (8 * j + b) = m.getLsbD j := by
  unfold maskBits
  rw [BitVec.getLsbD_ofNat, testBit_foldr_bytes _ _ _ hb, List.getElem?_range hj]
  simp only [Option.map_some, Option.getD_some, Bool.and_eq_right_iff_imp, decide_eq_true_eq]
  omega

theorem getLsbD_byteMask {k n j : Nat} (hj : j < 64) : (byteMask k n).getLsbD j = (decide (k ≤ j) && decide (j < k + n)) := by
  unfold byteMask
  rw [BitVec.getLsbD_ofNat, Nat.testBit_mul_two_pow, Nat.testBit_two_pow_sub_one, decide_eq_true hj, Bool.true_and]
  by_cases h : k ≤ j
  · simp [h]; omega
  · simp [h]

theorem testBit_lineBytes (d : BitVec 512) (j : Nat) {b : Nat} (hb : b < 8) : (lineBytes d j 1).testBit b = d.getLsbD (8 * j + b) := by
  unfold lineBytes
  rw [Nat.testBit_mod_two_pow, decide_eq_true (by omega), Bool.true_and, Nat.testBit_div_two_pow, Nat.add_comm]
  rfl

theorem getLsbD_lineOf {k n v j b : Nat} (hfit : k + n ≤ 64) (hk : k ≤ j) (hj : j < k + n) (hb : b < 8) :
    (lineOf k n v).getLsbD (8 * j + b) = v.testBit (8 * (j - k) + b) := by
  unfold lineOf
  rw [BitVec.getLsbD_ofNat, Nat.testBit_mul_two_pow, Nat.testBit_mod_two_pow, decide_eq_true (show 8 * j + b < 512 by omega),
    decide_eq_true (show 8 * k ≤ 8 * j + b by omega), decide_eq_true (show 8 * j + b - 8 * k < 8 * n by omega),
    show 8 * j + b - 8 * k = 8 * (j - k) + b by omega]
  simp only [Bool.true_and]

/-- A byte of a merged line is the stored one inside the store, and the old one elsewhere. -/
theorem lineBytes_merge (old : BitVec 512) {k n v j : Nat} (hfit : k + n ≤ 64) (hj : j < 64) :
    lineBytes (mergeLine old (lineOf k n v) (byteMask k n)) j 1 = if k ≤ j ∧ j < k + n then v / 2 ^ (8 * (j - k)) % 256 else lineBytes old j 1 := by
  have hbyte : ∀ d, lineBytes d j 1 < 2 ^ 8 := fun d => Nat.mod_lt _ (by decide)
  refine Nat.eq_of_testBit_eq fun b => ?_
  by_cases hb : b < 8
  · rw [testBit_lineBytes _ _ hb]
    unfold mergeLine
    rw [BitVec.getLsbD_or, BitVec.getLsbD_and, BitVec.getLsbD_and, BitVec.getLsbD_not, getLsbD_maskBits _ hj hb, getLsbD_byteMask hj,
      decide_eq_true (show 8 * j + b < 512 by omega), Bool.true_and]
    by_cases hin : k ≤ j ∧ j < k + n
    · rw [if_pos hin, getLsbD_lineOf hfit hin.1 hin.2 hb, show 256 = 2 ^ 8 from rfl, Nat.testBit_mod_two_pow, decide_eq_true hb,
        Nat.testBit_div_two_pow, decide_eq_true hin.1, decide_eq_true hin.2, Nat.add_comm b]
      simp only [Bool.not_true, Bool.and_false, Bool.false_or, Bool.and_true, Bool.true_and]
    · rw [if_neg hin, testBit_lineBytes _ _ hb, ← Bool.decide_and, decide_eq_false hin]
      simp only [Bool.not_false, Bool.and_true, Bool.and_false, Bool.or_false]
  · have hlarge : ∀ m, m < 2 ^ 8 → m.testBit b = false := fun m hm =>
      Nat.testBit_lt_two_pow (Nat.lt_of_lt_of_le hm (Nat.pow_le_pow_right (by decide) (by omega)))
    rw [hlarge _ (hbyte _)]
    split
    · exact (hlarge _ (Nat.mod_lt _ (by decide))).symm
    · exact (hlarge _ (hbyte _)).symm

/-! ### Loads (17 R346) -/

section
variable {s t u : State} {c : Ctx} {x : Fibre} {va : DWord} {e : TlbEntry} {l : L1Line} {n v : Nat} {p : Path} {rld : Bool}

/-- On whose behalf a fibre loads: an RLD says that it is one. -/
abbrev State.whoLoads (s : State) (c : Ctx) (x : Fibre) (rld : Bool) : Who := { s.whoOf c x with rld := rld }

/-- Where an entry for device memory puts a virtual address. -/
abbrev TlbEntry.place (e : TlbEntry) (va : DWord) : Phys := { loc := 0, peer := e.peer, pa := e.at_ va, view := va.getLsbD 50, leaf := e.leaf }

/-- A load of a fibre that meets plain memory, in a resident page, is its read at the page's place. -/
theorem fibreLoad_resident (hx : s.fibre? x.id = some x) (hplain : Plain s x) (hres : Resident s c va n false e)
    (hread : (readRaw (s.whoLoads c x rld) (e.place va) va n p).run s = .ok (v, t))
    (hsame : t.grids = s.grids ∧ t.families = s.families ∧ t.launches = s.launches) :
    (fibreLoad c x va n p rld).run s = .ok (v, t) := by
  obtain ⟨htx, hheld, hgrids, hfamilies, hareas⟩ := hplain
  obtain ⟨hva, hal, hfind, hloc, hpoison, -⟩ := hres
  obtain ⟨hsg, hsf, hsl⟩ := hsame
  have hphys := readPhys_run (hsg.trans hgrids) (hsf.trans hfamilies) (by rw [hsl]; exact hareas) hread
  have hload := loadG_run hva hal rfl hfind hloc hpoison hphys
  unfold fibreLoad
  rw [bind_ok (curF_run hx), htx, Option.isSome_none, if_neg Bool.false_ne_true, bind_ok (heldClear_run hheld), bind_ok whoM_run]
  exact hload

/-- The device after a read that the L1 serves: the line was used last by this fibre. -/
abbrev State.l1Used (s : State) (c : Ctx) (x : Fibre) (l : L1Line) : State :=
  s.withL1 c.core { l with user := (s.whoOf c x).user, hint := (s.whoOf c x).hint }

/-- A load that the L1 serves. -/
theorem fibreLoad_hit (hx : s.fibre? x.id = some x) (hplain : Plain s x) (hres : Resident s c va n false e)
    (hl : s.l1Line? c.core (e.line va) = some l) (hsound : SoundL1 s (e.line va) l)
    (hvalid : l.valid &&& byteMask (e.at_ va % 64) n = byteMask (e.at_ va % 64) n) :
    (fibreLoad c x va n .l1).run s = .ok (lineBytes l.data (e.at_ va % 64) n, s.l1Used c x l) :=
  fibreLoad_resident hx hplain hres (readRaw_l1 rfl hres.2.2.2.2.2 (l1Read_hit (who := s.whoLoads c x false) hl hsound hvalid)) ⟨rfl, rfl, rfl⟩

/-- A load at the home slice. -/
theorem fibreLoad_home (hx : s.fibre? x.id = some x) (hplain : Plain s x) (hres : Resident s c va n false e)
    (hl : s.l1Line? c.core (e.line va) = none) (hhome : AtHome s x.id (e.line va)) : (fibreLoad c x va n .l2 rld).run s
      = .ok (lineBytes (s.mem.l2Fill (e.line va)).1.data (e.at_ va % 64) n, s.withMem (s.mem.l2Fill (e.line va)).2) :=
  fibreLoad_resident hx hplain hres (readRaw_l2 (who := s.whoLoads c x rld) (q := e.place va) rfl hres.2.2.2.2.2 hl hhome) ⟨rfl, rfl, rfl⟩

/-- The device after a read that has filled a line of an L1 with room. -/
abbrev State.l1Filled (s : State) (c : Ctx) (x : Fibre) (line : Nat) : State :=
  (s.withMem (s.mem.l2Fill line).2).setCore (s.l1Core c.core line)
    (fun k => { k with l1 := k.l1 ++ [{ line := line, data := (s.mem.l2Fill line).1.data, valid := BitVec.allOnes 64, dirty := 0
                                        user := (s.whoOf c x).user, hint := (s.whoOf c x).hint }] })

/-- A load that misses in an L1 with room. -/
theorem fibreLoad_fill (hx : s.fibre? x.id = some x) (hplain : Plain s x) (hres : Resident s c va n false e)
    (hl : s.l1Line? c.core (e.line va) = none) (hhome : AtHome s x.id (e.line va))
    (hroom : (s.core (s.l1Core c.core (e.line va))).l1.length < l1Lines)
    (hvictims : ∀ v ∈ (s.core (s.l1Core c.core (e.line va))).victims, v.line ≠ e.line va) : (fibreLoad c x va n .l1).run s
      = .ok (lineBytes (s.mem.l2Fill (e.line va)).1.data (e.at_ va % 64) n, s.l1Filled c x (e.line va)) :=
  fibreLoad_resident hx hplain hres (readRaw_l1 (q := e.place va) rfl hres.2.2.2.2.2
    (l1Read_miss (who := s.whoLoads c x false) hl hhome hroom hvictims)) ⟨rfl, rfl, rfl⟩

/-- A load, its value delivered. -/
theorem load_delivered (hrun : (fibreLoad c x va n p rld).run s = .ok (v, t)) (ht : t.fibre? x.id = some x) :
    (do let v ← fibreLoad c x va n p rld; putLoadM c x v).run s = .ok ((), t.setFibre (c.putLoad x v)) := by
  rw [bind_ok hrun]
  exact putLoadM_run ht

theorem hintPath_l1 {m : Byte} (h : modField m 6 2 ≠ 3) : hintPath m = .l1 := if_neg (by rw [beq_iff_eq]; exact h)
theorem hintPath_l2 {m : Byte} (h : modField m 6 2 = 3) : hintPath m = .l2 := if_pos (beq_iff_eq.mpr h)

end

/-- A loaded value is delivered to the fibre that loads it. -/
theorem Ctx.putLoad_same (c : Ctx) (x : Fibre) (v : Nat) : x.Same (c.putLoad x v) := c.deliver_same _ _ _ _

/-- Settles O17: a load is a hit in the L1, a fill of it, or a read at the home slice, and its value is delivered. -/
theorem loadResults : Obligations.LoadResults := by
  unfold Obligations.LoadResults
  refine ⟨fun e l => ?hit, fun e => ?fill, fun e p hp => ?home⟩
  case hit =>
    refine one_rule (g := laneLd) (fun _ _ => rfl) (fun c _ x _ => c.putLoad_same x _) (fun _ _ _ _ => rfl)
      fun c s x fb ⟨hplain, hres, hhint, hl, hsound, hvalid⟩ hx => ?_
    unfold laneLd
    rw [hintPath_l1 hhint]
    exact load_delivered (fibreLoad_hit (s := s.withFibres fb) hx hplain hres hl hsound hvalid) hx
  case fill =>
    refine one_rule (g := laneLd) (fun _ _ => rfl) (fun c _ x _ => c.putLoad_same x _) (fun _ _ _ _ => rfl)
      fun c s x fb ⟨hplain, hres, hhint, hl, hhome, hroom, hvictims⟩ hx => ?_
    unfold laneLd
    rw [hintPath_l1 hhint]
    exact load_delivered (fibreLoad_fill (s := s.withFibres fb) hx hplain hres hl hhome hroom hvictims) hx
  case home =>
    simp only [List.mem_cons, List.not_mem_nil, or_false] at hp
    obtain rfl | rfl := hp
    · refine one_rule (op := .ld) (g := laneLd) (fun _ _ => rfl) (fun c _ x _ => c.putLoad_same x _) (fun _ _ _ _ => rfl)
        fun c s x fb ⟨hplain, hres, hhint, hl, hhome⟩ hx => ?_
      unfold laneLd
      rw [hintPath_l2 (hhint rfl)]
      exact load_delivered (fibreLoad_home (s := s.withFibres fb) hx hplain hres hl hhome) hx
    · exact one_rule (op := .rld) (g := laneRld) (fun _ _ => rfl) (fun c _ x _ => c.putLoad_same x _) (fun _ _ _ _ => rfl)
        fun c s x fb ⟨hplain, hres, _, hl, hhome⟩ hx => load_delivered (fibreLoad_home (s := s.withFibres fb) hx hplain hres hl hhome) hx

/-! ### LDA and PREF (17 R346, R349; 04 R104) -/

/-- A step that changes no cluster's fusion changes no access's reach. -/
theorem State.fusedAt_setCore {f : Core → Core} (hf : ∀ k, (f k).fused = k.fused) (s : State) (i core : Nat) :
    (s.setCore i f).fusedAt core = s.fusedAt core := by
  simp only [State.fusedAt, State.core, State.setCore_cores, List.getD_eq_getElem?_getD, updAt_getElem?]
  split
  · cases s.cores[core]? with
    | none => rfl
    | some k => exact congrArg Option.isSome (hf k)
  · rfl

theorem State.wide_congr {s t : State} {who : Who} (h : t.fusedAt who.core = s.fusedAt who.core) (scope : Nat) :
    t.wide who scope = s.wide who scope := by
  unfold State.wide
  rw [h]

theorem scopePath_wide {s : State} {who : Who} {scope : Nat} (h : s.wide who scope = true) : s.scopePath who scope = .l2 := if_pos h
theorem scopePath_narrow {s : State} {who : Who} {scope : Nat} (h : s.wide who scope = false) : s.scopePath who scope = .l1 :=
  if_neg (by rw [h]; exact Bool.false_ne_true)

section
variable {s t : State} {c : Ctx} {x : Fibre} {va : DWord} {e : TlbEntry} {l : L1Line} {n v : Nat} {p : Path}

theorem State.acquiredAt_wide {scope : Nat} (h : s.wide (s.whoOf c x) scope = true) : s.acquiredAt c x scope = s.acquired c.core := if_pos h
theorem State.acquiredAt_narrow {scope : Nat} (h : s.wide (s.whoOf c x) scope = false) : s.acquiredAt c x scope = s :=
  if_neg (by rw [h]; exact Bool.false_ne_true)

/-- An LDA outside a transaction: its read, its acquire, its delivery. -/
theorem laneLda_run (hx : s.fibre? x.id = some x) (htx : x.tx = none) (hspan : NoSpan s c)
    (hload : (fibreLoad c x (c.gaddr x) (szBytes c.w.mod) (s.scopePath (s.whoOf c x) (memScope c.w.mod))).run s = .ok (v, t))
    (hfibres : t.fibres = s.fibres) (hcrew : t.whoOf c x = s.whoOf c x) :
    (laneLda c x).run s = .ok ((), (t.acquiredAt c x (memScope c.w.mod)).setFibre (c.putLoad x v)) := by
  have hcur : (t.acquiredAt c x (memScope c.w.mod)).fibre? x.id = some x := by
    unfold State.fibre?
    rw [State.acquiredAt_fibres, hfibres]
    exact hx
  have hacq : (acquire (s.whoOf c x) (memScope c.w.mod)).run t = .ok ((), t.acquiredAt c x (memScope c.w.mod)) := hcrew ▸ acquire_run _
  unfold laneLda
  rw [bind_ok whoM_run]
  dsimp only
  rw [htx, Option.isSome_none, if_neg Bool.false_ne_true, bind_ok (spanGate_run hspan _), bind_get, bind_ok hload, bind_ok hacq]
  exact putLoadM_run hcur

theorem State.l1Used_fusedAt (s : State) (c : Ctx) (x : Fibre) (l : L1Line) (core : Nat) : (s.l1Used c x l).fusedAt core = s.fusedAt core := by
  unfold State.l1Used State.withL1
  exact State.fusedAt_setCore (hf := by intro k; rfl) ..

/-- PREF of a line that the L1 holds uses it. -/
theorem prefLine_hit (hres : Resident s c (c.gaddr x) 1 false e) (hlevel : modField c.w.mod 6 2 = 0)
    (hl : s.l1Line? c.core (e.line (c.gaddr x)) = some l) (hsound : SoundL1 s (e.line (c.gaddr x)) l) (hvalid : l.valid = BitVec.allOnes 64) :
    (prefLine c x).run s = .ok ((), s.l1Used c x l) := by
  obtain ⟨hva, -, hfind, hloc, hpoison, hview⟩ := hres
  have hall : l.valid &&& byteMask 0 64 = byteMask 0 64 := by rw [hvalid]; decide
  unfold prefLine
  rw [bind_ok whoM_run]
  dsimp only
  rw [bind_ok (translate_hit (who := s.whoOf c x) hva rfl hfind hloc hpoison), bind_check (by rfl), if_neg Bool.false_ne_true,
    bind_ok (checkView_run rfl hview), if_pos (beq_iff_eq.mpr hlevel)]
  exact bind_ok (l1Read_hit (who := s.whoOf c x) hl hsound hall)

theorem lanePref_run (h : (prefLine c x).run s = .ok ((), t)) : (lanePref c x).run s = .ok ((), t) := by
  unfold lanePref
  rw [bind_get, h]
  rfl

end

/-- Settles O18: an LDA is the load that its scope chooses and then an acquire; a PREF of a held line uses it. -/
theorem acquireResults : Obligations.AcquireResults := by
  unfold Obligations.AcquireResults
  refine ⟨fun e => ?wide, fun e l => ?narrow, fun e l => ?pref⟩
  case wide =>
    refine one_rule (g := laneLda) (fun _ _ => rfl) (fun c _ x _ => c.putLoad_same x _) (fun c s x _ => State.acquired_waves _ _)
      fun c s x fb ⟨hplain, hres, hwide, hspan, hl, hhome⟩ hx => ?_
    have hload := fibreLoad_home (s := s.withFibres fb) (rld := false) hx hplain hres hl hhome
    rw [← scopePath_wide (s := s.withFibres fb) hwide] at hload
    rw [laneLda_run (s := s.withFibres fb) hx hplain.1 hspan hload rfl rfl, State.acquiredAt_wide (by exact hwide)]
    exact congrArg (fun u : State => Except.ok ((), u.setFibre _)) (State.acquired_withFibres (s.withMem _) c.core fb)
  case narrow =>
    refine one_rule (g := laneLda) (fun _ _ => rfl) (fun c _ x _ => c.putLoad_same x _) (fun _ _ _ _ => rfl)
      fun c s x fb ⟨hplain, hres, hwide, hspan, hl, hsound, hvalid⟩ hx => ?_
    have hload := fibreLoad_hit (s := s.withFibres fb) hx hplain hres hl hsound hvalid
    have hused : ((s.withFibres fb).l1Used c x l).wide (s.whoOf c x) (memScope c.w.mod) = false :=
      (State.wide_congr (State.l1Used_fusedAt ..) _).trans hwide
    rw [← scopePath_narrow (s := s.withFibres fb) hwide] at hload
    rw [laneLda_run (s := s.withFibres fb) hx hplain.1 hspan hload rfl rfl, State.acquiredAt_narrow (by exact hused)]
    rfl
  case pref =>
    exact one_rule_id (g := lanePref) (fun _ _ => rfl) (fun _ _ _ _ => rfl) fun c s x fb ⟨hres, hlevel, hl, hsound, hvalid⟩ _ =>
      lanePref_run (prefLine_hit (s := s.withFibres fb) hres hlevel hl hsound hvalid)

/-! ### Stores (17 R346; 04 R104) -/

section
variable {s t : State} {c : Ctx} {x : Fibre} {va : DWord} {e : TlbEntry} {l : L1Line} {n v : Nat} {p : Path}

/-- A global store into a resident page is its write at the page's place, the page granted. -/
theorem storeG_resident {who : Who} (hwho : who.engine = false ∧ who.core = c.core ∧ who.queue = s.queueOf c.launch) (hres : Resident s c va n true e)
    (hwrite : (writePhys who (e.place va) va n v p).run (s.granted e va) = .ok ((), t)) : (storeG who va n v p).run s = .ok ((), t) := by
  obtain ⟨hengine, hcore, hqueue⟩ := hwho
  obtain ⟨hva, hal, hfind, hloc, hpoison, -⟩ := hres
  rw [← hcore, ← hqueue] at hfind
  unfold storeG
  rw [bind_ok (checkGlobal_run hva hal), bind_ok (translate_hit hva hengine hfind hloc hpoison), if_pos rfl]
  exact hwrite

/-- A store of a fibre outside a transaction, with no release of its own to wait for, is a global store. -/
theorem fibreStore_run (hx : s.fibre? x.id = some x) (htx : x.tx = none) (hheld : x.held = [])
    (hstore : (storeG (s.whoOf c x) va n v p).run s = .ok ((), t)) : (fibreStore c x va n v p).run s = .ok ((), t) := by
  unfold fibreStore
  rw [bind_ok (curF_run hx), htx, Option.isSome_none, if_neg Bool.false_ne_true, bind_ok (heldClear_run hheld), bind_ok whoM_run]
  exact hstore

/-- A decoded address of a resident page stays in its region while pages are granted. -/
theorem Resident.granted_view (hres : Resident s c va n true e) :
    (e.place va).view = true → ((s.granted e va).mem.regionAt (e.place va).pa).isSome = true := fun hview =>
  (congrArg Option.isSome (State.granted_regionAt s e va _)).trans (hres.2.2.2.2.2 hview)

/-- Bytes written at a place of device memory through the L1 that holds the line. -/
theorem writePhys_l1 {who : Who} {q : Phys} (hq : q.loc = 0) (hview : q.view = true → (s.mem.regionAt q.pa).isSome = true)
    (hrun : (l1Write who (lineNo q.pa q.view) (byteMask (q.pa % 64) n) (lineOf (q.pa % 64) n v)).run s = .ok ((), t)) :
    (writePhys who q va n v .l1).run s = .ok ((), t) := by
  unfold writePhys
  rw [bind_ok (checkView_run hq hview)]
  simp only [hq]
  exact hrun

/-- Bytes written at their home slice, the L1 not holding the line. -/
theorem writePhys_home {who : Who} {q : Phys} (hq : q.loc = 0) (hview : q.view = true → (s.mem.regionAt q.pa).isSome = true)
    (hl : s.l1Line? who.core (lineNo q.pa q.view) = none) (hhome : AtHome s who.fibre (lineNo q.pa q.view)) :
    (writePhys who q va n v .l2).run s
      = .ok ((), s.withMem (s.mem.l2Write (lineNo q.pa q.view) (byteMask (q.pa % 64) n) (lineOf (q.pa % 64) n v))) := by
  unfold writePhys
  rw [bind_ok (checkView_run hq hview)]
  simp only [hq]
  rw [bind_ok (l1Flush_absent hl)]
  exact l2Store_home hhome

/-- A store at the home slice. -/
theorem storeG_home {who : Who} (hwho : who.engine = false ∧ who.core = c.core ∧ who.queue = s.queueOf c.launch) (hres : Resident s c va n true e)
    (hl : s.l1Line? c.core (e.line va) = none) (hhome : AtHome s who.fibre (e.line va)) : (storeG who va n v .l2).run s
      = .ok ((), s.withMem ((s.granted e va).mem.l2Write (e.line va) (byteMask (e.at_ va % 64) n) (lineOf (e.at_ va % 64) n v))) :=
  storeG_resident hwho hres (writePhys_home rfl hres.granted_view (hwho.2.1.symm ▸ hl) (hhome.granted e va))

/-- A store into a line of the L1. -/
theorem storeG_hit (hres : Resident s c va n true e) (hl : s.l1Line? c.core (e.line va) = some l) :
    (storeG (s.whoOf c x) va n v .l1).run s = .ok ((), (s.granted e va).withL1 c.core
      { l with data := mergeLine l.data (lineOf (e.at_ va % 64) n v) (byteMask (e.at_ va % 64) n)
               valid := l.valid ||| byteMask (e.at_ va % 64) n, dirty := l.dirty ||| byteMask (e.at_ va % 64) n
               user := (s.whoOf c x).user, hint := (s.whoOf c x).hint, poison := l.poison && byteMask (e.at_ va % 64) n != BitVec.allOnes 64 }) :=
  storeG_resident ⟨rfl, rfl, rfl⟩ hres (writePhys_l1 rfl hres.granted_view (l1Write_hit (s := s.granted e va) (who := s.whoOf c x) hl))

/-- A release that reaches beyond the core, from L1s without a dirty byte: the store alone, at the home slice. -/
theorem performRelease_clean {who : Who} {scope : Nat} (hwide : s.wide who scope = true) (hclean : CleanL1 s who.core) :
    (performRelease who va n v scope).run s = (storeG who va n v .l2).run s := by
  unfold performRelease
  rw [bind_get]
  rw [if_pos hwide, scopePath_wide hwide, bind_ok (wbCores_clean hclean)]

/-- The lowest lane holds no release of a lane below it. -/
theorem heldBelow_lone (hact : c.act = [x]) (place n : Nat) : c.heldBelow s x place n = [] := by
  unfold Ctx.heldBelow
  rw [hact]
  simp

/-- An STL with nothing to wait for performs its release at once, its page granted for the check and again for the store. -/
theorem laneStl_run (hact : c.act = [x]) (hx : s.fibre? x.id = some x) (hplain : Plain s x) (hres : Resident s c (c.gaddr x) (szBytes c.w.mod) true e)
    (hspan : NoSpan s c) (hdues : x.dues = []) (hfwds : ∀ r ∈ s.fwds, r.posted = false ∨ r.fibre ≠ x.id)
    (hrelease : (performRelease (s.whoOf c x) (c.gaddr x) (szBytes c.w.mod) (c.storeVal x c.w.b) (memScope c.w.mod)).run (s.granted e (c.gaddr x))
      = .ok ((), t)) : (laneStl c x).run s = .ok ((), t) := by
  obtain ⟨htx, hheld, -⟩ := hplain
  have hview := hres.granted_view
  obtain ⟨hva, hal, hfind, hloc, hpoison, -⟩ := hres
  have hopen : (s.granted e (c.gaddr x)).storesOpen x.id = false := State.storesOpen_none hx hdues hheld hfwds
  unfold laneStl
  rw [bind_ok whoM_run]
  dsimp only
  rw [htx, Option.isSome_none, if_neg Bool.false_ne_true, bind_ok (spanGate_run hspan _), bind_ok (checkGlobal_run hva hal),
    bind_ok (translate_hit (who := s.whoOf c x) hva rfl hfind hloc hpoison), if_pos rfl, bind_ok (checkView_run rfl hview), bind_get,
    hopen, heldBelow_lone hact, if_neg (by simp)]
  exact hrelease

end

/-- Settles O19: a store merges its bytes into its line, in the L1 or at the home slice; an STL is such a store after its release. -/
theorem storeResults : Obligations.StoreResults := by
  unfold Obligations.StoreResults
  refine ⟨fun e l => ?hit, fun e => ?home, fun e => ?release, fun old _ _ _ _ hfit hj => lineBytes_merge old hfit hj⟩
  case hit =>
    refine one_rule_id (g := laneSt) (fun _ _ => rfl) (fun _ _ _ _ => rfl) fun c s x fb ⟨hplain, hres, hhint, hl⟩ hx => ?_
    unfold laneSt
    rw [hintPath_l1 hhint]
    exact fibreStore_run hx hplain.1 hplain.2.1 (storeG_hit (s := s.withFibres fb) hres hl)
  case home =>
    refine one_rule_id (g := laneSt) (fun _ _ => rfl) (fun _ _ _ _ => rfl) fun c s x fb ⟨hplain, hres, hhint, hl, hhome⟩ hx => ?_
    unfold laneSt
    rw [hintPath_l2 hhint]
    exact fibreStore_run hx hplain.1 hplain.2.1 (storeG_home (s := s.withFibres fb) (who := s.whoOf c x) ⟨rfl, rfl, rfl⟩ hres hl hhome)
  case release =>
    refine one_body_rule_id (body := perLane laneStl) (fun _ _ => rfl) (fun _ _ _ _ => rfl)
      fun c s x fb ⟨hplain, hres, hwide, hspan, hdues, hfwds, hclean, hl, hhome⟩ hact hx => ?_
    let g := (s.withFibres fb).granted e (c.gaddr x)
    have hstore := storeG_home (s := g) (v := c.storeVal x c.w.b) (who := g.whoOf c x) ⟨rfl, rfl, rfl⟩ ⟨hres.1, hres.2.1, hres.2.2.1, hres.2.2.2.1, hres.2.2.2.2.1, Resident.granted_view (s := s) hres⟩
      hl (hhome.granted e (c.gaddr x))
    have hrun := laneStl_run (s := s.withFibres fb) hact hx hplain hres hspan hdues hfwds
      ((performRelease_clean (s := g) (who := g.whoOf c x) hwide hclean).trans hstore)
    unfold perLane
    rw [hact, lanesFrom_lone hx hrun]
    rfl

end Sys2Proof.Machine
end

section
/-! Scratchpad, sibling and constant access, and the scratchpad atomics, in a wave of one fibre (17 R348, R366; 03 R71 to R78). -/

namespace Sys2Proof.Machine

section
variable {s : State} {c : Ctx} {x : Fibre} {t u : Team} {a n pos v : Nat}

/-- A team with bytes stored in its scratchpad. -/
abbrev Team.stored (t : Team) (a n v : Nat) : Team := { t with sp := t.sp.setN a n v }

/-- Bytes on no poisoned line are sound. -/
theorem spSound_run (h : t.bad a n = false) : (spSound t a n).run s = .ok ((), s) := checkM_true (by rw [h]; rfl)

/-- A read of the own scratchpad. -/
theorem spLoad_run (h : OwnBytes s x t a n) : (spLoad x a n).run s = .ok (t.sp.getN a n, s) := by
  obtain ⟨hteam, hal, hfit, hbad⟩ := h
  unfold spLoad
  rw [bind_ok (teamM_run hteam), bind_ok (spCheck_run hal hfit), bind_ok (spSound_run hbad)]
  rfl

/-- A write of the own scratchpad. -/
theorem spStore_run (h : OwnBytes s x t a n) (v : Nat) : (spStore x a n v).run s = .ok ((), s.setTeam (t.stored a n v)) := by
  obtain ⟨hteam, hal, hfit, -⟩ := h
  unfold spStore
  rw [bind_ok (teamM_run hteam), bind_ok (spCheck_run hal hfit)]
  rfl

/-- A sibling whose scratchpad holds the bytes is reached. -/
theorem siblingM_run (h : SiblingBytes s x t u pos a n) : (siblingM x pos a n).run s = .ok (u, s) := by
  obtain ⟨hteam, hal, hpos, hsib, hfit, -⟩ := h
  unfold siblingM
  rw [bind_check (beq_iff_eq.mpr hal), bind_ok (teamM_run hteam), bind_get, bind_check (decide_eq_true hpos)]
  dsimp only
  rw [hsib]
  dsimp only
  rw [if_pos hfit]
  rfl

/-- Of two teams set under one name the second stays. -/
theorem State.setTeam_setTeam {t' : Team} (hlaunch : t'.launch = t.launch) (hid : t'.id = t.id) : (s.setTeam t).setTeam t' = s.setTeam t' := by
  unfold State.setTeam
  simp only [List.map_map, State.mk.injEq, true_and, and_true]
  refine List.map_congr_left fun y _ => ?_
  by_cases hy : y.launch = t.launch ∧ y.id = t.id
  · simp [hy, hlaunch, hid]
  · simp [hlaunch, hid, Bool.and_eq_true, hy]

/-- A fibre's team after it has been set. -/
theorem State.teamOf?_setTeam {crew : CrewId} {t' : Team} (h : s.teamOf? crew = some t) (hlaunch : t'.launch = t.launch) (hid : t'.id = t.id) :
    (s.setTeam t').teamOf? crew = some t' := by
  unfold State.teamOf? at h ⊢
  split at h
  · exact State.team?_setTeam h hlaunch hid
  · cases h

end

/-! ### What a write changes (03 R71) -/

/-- A write keeps a memory's form, gives the named bytes the value, and leaves every other byte. -/
theorem Memory.setN_rule (m : Memory) (a n v : Nat) (h : m.wf) :
    (m.setN a n v).wf ∧ (m.setN a n v).getN a n = v % 2 ^ (8 * n) ∧ ∀ b, (b < a ∨ a + n ≤ b) → (m.setN a n v).get b = m.get b :=
  ⟨Memory.wf_setN h a n v, Memory.getN_setN h a n v, fun _ hb => Memory.get_setN_other h a n v hb⟩

/-! ### Scratchpad atomics (17 R366, R367) -/

section
variable {s : State} {c : Ctx} {x : Fibre} {t : Team} {op : Op} {f : Ctx → Fibre → EntryOp}

/-- The device after a scratchpad atomic. -/
abbrev State.spAtomicDone (s : State) (t : Team) (a : Nat) (o : EntryOp) : State :=
  match o.new (t.sp.getN a o.bytes) with
  | some v => s.setTeam (t.stored a o.bytes v)
  | none => s

/-- One lane's scratchpad atomic: its read, its write, and then its delivery. -/
theorem laneSpAtomic_run (h : OwnBytes s x t (c.a x).toNat (f c x).bytes) (dest : Bool) :
    (laneSpAtomic f dest c x).run s = .ok ((), if dest then
        (s.spAtomicDone t (c.a x).toNat (f c x)).setFibre (c.putW x ((f c x).bytes == 8) (t.sp.getN (c.a x).toNat (f c x).bytes))
      else s.spAtomicDone t (c.a x).toNat (f c x)) := by
  unfold laneSpAtomic State.spAtomicDone
  rw [bind_ok (spLoad_run h)]
  cases (f c x).new (t.sp.getN (c.a x).toNat (f c x).bytes) with
  | none => cases dest <;> rfl
  | some v =>
    dsimp only
    rw [bind_ok (spStore_run h v)]
    cases dest <;> rfl

theorem spAtomicDone_waves (a : Nat) (o : EntryOp) : (s.spAtomicDone t a o).waves = s.waves := by
  unfold State.spAtomicDone
  split <;> rfl

theorem spAtomicDone_withFibres (a : Nat) (o : EntryOp) (fb : List Fibre) :
    (s.withFibres fb).spAtomicDone t a o = (s.spAtomicDone t a o).withFibres fb := by
  unfold State.spAtomicDone
  split <;> rfl

/-- ATOMS and CASS: the old value is delivered. -/
theorem spAtomic_fetch_rule (he : ∀ w s, exec (op.instr w) s = issue op w (perLane (laneSpAtomic f true)) s) :
    OneRule op (fun c s x => OwnBytes s x t (c.a x).toNat (f c x).bytes)
      (fun c _ x => c.putW x ((f c x).bytes == 8) (t.sp.getN (c.a x).toNat (f c x).bytes))
      (fun c s x => s.spAtomicDone t (c.a x).toNat (f c x)) := by
  refine one_rule he (fun c _ x _ => c.putW_same x _ _ _) (fun _ _ _ _ => spAtomicDone_waves _ _) fun c s x fb h hx => ?_
  rw [laneSpAtomic_run (s := s.withFibres fb) h, spAtomicDone_withFibres]
  rfl

/-- FREDS: the fibre only goes on. -/
theorem spAtomic_reduce_rule (he : ∀ w s, exec (op.instr w) s = issue op w (perLane (laneSpAtomic f false)) s) :
    OneRule op (fun c s x => OwnBytes s x t (c.a x).toNat (f c x).bytes) (fun _ _ x => x)
      (fun c s x => s.spAtomicDone t (c.a x).toNat (f c x)) := by
  refine one_rule_id he (fun _ _ _ _ => spAtomicDone_waves _ _) fun c s x fb h hx => ?_
  rw [laneSpAtomic_run (s := s.withFibres fb) h, spAtomicDone_withFibres]
  rfl

end

/-! ### Loads and stores of each kind -/

section
variable {s : State} {c : Ctx} {x : Fibre} {t u : Team} {a n v : Nat}

/-- STFE: the bytes stored, then the granule full. -/
theorem laneStfe_run (h : OwnBytes s x t (c.saddr x) (szBytes c.w.mod)) : (laneStfe c x).run s
    = .ok ((), s.setTeam ((t.stored (c.saddr x) (szBytes c.w.mod) (c.storeVal x c.w.b)).setFull (c.saddr x) true)) := by
  unfold laneStfe
  dsimp only
  rw [bind_ok (spStore_run h _), bind_ok (teamM_run (State.teamOf?_setTeam (t' := t.stored _ _ _) h.1 rfl rfl))]
  exact congrArg (fun s : State => Except.ok ((), s)) (State.setTeam_setTeam rfl rfl)

/-- The device after an LDFE of a full granule. -/
abbrev State.emptied (s : State) (c : Ctx) (x : Fibre) (t : Team) : State :=
  if modBit c.w.mod 6 then s.setTeam (t.setFull (c.saddr x) false) else s

/-- LDFE of a full granule. -/
theorem laneLdfe_run (h : OwnBytes s x t (c.saddr x) (szBytes c.w.mod)) (hfull : t.isFull (c.saddr x) = true) (hx : s.fibre? x.id = some x) :
    (laneLdfe c x).run s = .ok ((), (s.emptied c x t).setFibre (c.putLoad x (t.sp.getN (c.saddr x) (szBytes c.w.mod)))) := by
  unfold laneLdfe State.emptied
  dsimp only
  rw [bind_ok (spLoad_run h), bind_ok (teamM_run h.1), hfull, Bool.not_true, if_neg Bool.false_ne_true]
  cases modBit c.w.mod 6
  · rw [if_neg Bool.false_ne_true, if_neg Bool.false_ne_true]
    exact putLoadM_run hx
  · rw [if_pos rfl, if_pos rfl]
    exact putLoadM_run (s := s.setTeam _) hx

theorem bodyLdfe_lone (hact : c.act = [x]) (hdet : c.det = false) (hx : s.fibre? x.id = some x) {v : State} (hrun : (laneLdfe c x).run s = .ok ((), v)) :
    bodyLdfe c s = .ok (v, []) := by
  unfold bodyLdfe
  rw [hact, tryLanes_lone (by rw [hdet]; rfl) hx hrun]
  rfl

/-- LDX of a sibling whose scratchpad holds the bytes. -/
theorem laneLdx_run (h : SiblingBytes s x t u c.w.b.n.toNat (c.saddr x) (szBytes c.w.mod)) (hx : s.fibre? x.id = some x) :
    (laneLdx c x).run s = .ok ((), s.setFibre (c.putLoad x (u.sp.getN (c.saddr x) (szBytes c.w.mod)))) := by
  unfold laneLdx
  dsimp only
  rw [bind_ok (siblingM_run h), bind_ok (spSound_run h.2.2.2.2.2)]
  exact putLoadM_run hx

theorem laneStx_run (h : SiblingBytes s x t u c.w.d.n.toNat (c.saddr x) (szBytes c.w.mod)) :
    (laneStx c x).run s = .ok ((), s.setTeam (u.stored (c.saddr x) (szBytes c.w.mod) (c.storeVal x c.w.b))) := by
  unfold laneStx
  dsimp only
  rw [bind_ok (siblingM_run h)]
  rfl

/-- A launch's constant bank does not depend on the fibres. -/
theorem State.constN_withFibres (s : State) (fb : List Fibre) (launch a n : Nat) : (s.withFibres fb).constN launch a n = s.constN launch a n := by
  induction n generalizing a with
  | zero => rfl
  | succ n ih =>
    unfold State.constN
    rw [ih]
    rfl

theorem laneLdc_run (hal : c.saddr x % szBytes c.w.mod = 0) (hrange : c.saddr x < 65536) (hx : s.fibre? x.id = some x) :
    (laneLdc c x).run s = .ok ((), s.setFibre (c.putLoad x (s.constN c.launch (c.saddr x) (szBytes c.w.mod)))) := by
  unfold laneLdc
  dsimp only
  rw [bind_check (beq_iff_eq.mpr hal), bind_check (decide_eq_true hrange), bind_get]
  exact putLoadM_run hx

end

/-! ### The statement -/

/-- Settles O20: each form is the read or the write of its bytes in the team that its checks find, and a lane that is served alone. -/
theorem scratchpadResults : Obligations.ScratchpadResults := by
  unfold Obligations.ScratchpadResults
  refine ⟨fun t => ?lds, fun t => ?sts, fun t => ?ldfe, fun t => ?stfe, fun t u => ?ldx, fun t u => ?stx, ?ldc, Memory.setN_rule, ?atomics⟩
  case lds =>
    refine one_rule (g := laneLds) (fun _ _ => rfl) (fun c _ x _ => c.putLoad_same x _) (fun _ _ _ _ => rfl) fun c s x fb h hx => ?_
    unfold laneLds
    rw [bind_ok (spLoad_run (s := s.withFibres fb) h)]
    exact putLoadM_run hx
  case sts =>
    exact one_rule_id (g := laneSts) (fun _ _ => rfl) (fun _ _ _ _ => rfl) fun c s x fb h _ => spStore_run (s := s.withFibres fb) h _
  case ldfe =>
    refine one_body_rule (body := bodyLdfe) (fun _ _ => rfl) (fun c _ x _ => c.putLoad_same x _) (fun c s x _ => ?_)
      fun c s x fb ⟨h, hfull, hdet⟩ hact hx => ⟨s.nextId, ?_⟩
    · split <;> rfl
    · rw [bodyLdfe_lone hact hdet hx (laneLdfe_run (s := s.withFibres fb) h hfull hx)]
      unfold State.emptied
      split <;> rfl
  case stfe =>
    exact one_rule_id (g := laneStfe) (fun _ _ => rfl) (fun _ _ _ _ => rfl) fun c s x fb h _ => laneStfe_run (s := s.withFibres fb) h
  case ldx =>
    refine one_body_rule (body := heldLanes laneLdx) (fun _ _ => rfl) (fun c _ x _ => c.putLoad_same x _) (fun _ _ _ _ => rfl)
      fun c s x fb ⟨h, hserved⟩ hact hx => ⟨s.nextId, heldBy_lone hact hserved hx (laneLdx_run (s := s.withFibres fb) h hx)⟩
  case stx =>
    refine one_body_rule_id (body := heldLanes laneStx) (fun _ _ => rfl) (fun _ _ _ _ => rfl)
      fun c s x fb ⟨h, hserved⟩ hact hx => heldBy_lone hact hserved hx (laneStx_run (s := s.withFibres fb) h)
  case ldc =>
    refine one_rule (g := laneLdc) (fun _ _ => rfl) (fun c _ x _ => c.putLoad_same x _) (fun _ _ _ _ => rfl) fun c s x fb ⟨hal, hrange⟩ hx => ?_
    rw [laneLdc_run (s := s.withFibres fb) hal hrange hx, State.constN_withFibres]
  case atomics =>
    intro p hp t
    simp only [List.mem_cons, List.not_mem_nil, or_false] at hp
    rcases hp with rfl | rfl | rfl
    · exact spAtomic_fetch_rule (op := .atoms) (f := Ctx.intOp) fun _ _ => rfl
    · exact spAtomic_reduce_rule (op := .freds) (f := Ctx.fpOp) fun _ _ => rfl
    · exact spAtomic_fetch_rule (op := .cass) (f := Ctx.casOp) fun _ _ => rfl

end Sys2Proof.Machine
end

section
/-! Instructions that act for their wave: the rules of their shapes, where the effect finds its active fibres as they were issued and may
take a new name for what it starts. -/

namespace Sys2Proof.Machine

/-! ### The rules -/

section
variable {op : Op} {w : Fields} {s u v : State} {wv : Wave} {fs : List Fibre} {f : Fibre} {body : Body}

/-- In a list of fibres of different names, a name finds its fibre among the chosen ones if that one is chosen. -/
theorem find?_filter_id {p : Fibre → Bool} {l : List Fibre} (hn : (l.map Fibre.id).Nodup) {g : Fibre} (hg : g ∈ l) :
    (l.filter p).find? (fun x => x.id == g.id) = if p g then some g else none := by
  have huniq : ∀ x ∈ l, x.id = g.id → x = g := fun x hx hid => List.inj_on_of_nodup_map hn hx hg hid
  split
  case isTrue hp =>
    cases hfind : (l.filter p).find? (fun x => x.id == g.id) with
    | none => exact absurd (beq_self_eq_true g.id) (List.find?_eq_none.mp hfind g (List.mem_filter.mpr ⟨hg, hp⟩))
    | some x => rw [huniq x (List.mem_filter.mp (List.mem_of_find?_eq_some hfind)).1 (beq_iff_eq.mp (List.find?_some (p := fun x : Fibre => x.id == g.id) hfind))]
  case isFalse hp =>
    refine List.find?_eq_none.mpr fun x hx hid => hp ?_
    obtain ⟨hx, hpx⟩ := List.mem_filter.mp hx
    rwa [← huniq x hx (beq_iff_eq.mp hid)]

/-- Fibres written one after the other keep out of everything else. -/
theorem foldl_setFibre_same (G : Fibre → Fibre) (l : List Fibre) (t : State) :
    (l.foldl (fun u x => u.setFibre (G x)) t).waves = t.waves ∧ SameBut t (l.foldl (fun u x => u.setFibre (G x)) t) := by
  induction l generalizing t with
  | nil => exact ⟨rfl, rfl⟩
  | cons x xs ih => exact ⟨(ih _).1, SameBut.trans (t := t.setFibre (G x)) rfl (ih _).2⟩

/-- What holds of fibres that are written and of those they are written over holds of all. -/
theorem foldl_setFibre_all {P : Fibre → Prop} {G : Fibre → Fibre} {l : List Fibre} {t : State} (hl : ∀ x ∈ l, P (G x))
    (ht : ∀ g ∈ t.fibres, P g) : ∀ g ∈ (l.foldl (fun u x => u.setFibre (G x)) t).fibres, P g := by
  induction l generalizing t with
  | nil => exact ht
  | cons x xs ih =>
    refine ih (fun y hy => hl y (List.mem_cons_of_mem _ hy)) fun g hg => ?_
    rw [State.setFibre_fibres] at hg
    obtain ⟨z, hz, rfl⟩ := List.mem_map.mp hg
    split
    · exact hl x List.mem_cons_self
    · exact ht z hz

/-- What an issue leaves true of fibres holds of all of them as an effect begins. -/
theorem Ready.begun_all (h : Ready op w s wv fs f) {P : Fibre → Prop} (hissued : ∀ g, P g → P (g.issued (s.fallOf f.pc)))
    (hs : ∀ g ∈ s.fibres, P g) : ∀ g ∈ (s.begun (issueCtx op w s wv fs f.pc)).fibres, P g := by
  refine foldl_setFibre_all (G := id) (fun x hx => ?_) hs
  obtain ⟨g, hg, rfl⟩ := List.mem_map.mp (show x ∈ fs.map _ from hx)
  exact hissued g (hs g (List.mem_of_find?_eq_some (State.mem_waveFibres (h.2.1.symm ▸ hg : g ∈ s.waveFibres wv))))

/-- An effect for the wave that also writes the active fibres, those left out by `p` as they are, ends with the active ones written and the
others passed by. -/
theorem ends_group {G : Fibre → Fibre} (p : Fibre → Bool) (h : Issues op w s wv fs f) (hG : ∀ x : Fibre, x.Same (G x))
    (hp : ∀ x ∈ (issueCtx op w s wv fs f.pc).act, p x = false → G x = x)
    (hb : body (issueCtx op w s wv fs f.pc) (s.begun (issueCtx op w s wv fs f.pc))
      = .ok (((issueCtx op w s wv fs f.pc).act.filter p).foldl (fun u x => u.setFibre (G x)) v, []))
    (hf : v.fibres = (s.begun (issueCtx op w s wv fs f.pc)).fibres) (hw : v.waves = s.waves) (hu : SameBut u v) :
    Ends (issue op w body s) s fs (Fibre.after op w (s.fallOf f.pc) G) u := by
  obtain ⟨h, hre, hcalm⟩ := h
  have hn : (fs.map Fibre.id).Nodup := h.2.1 ▸ s.waveFibres_nodup wv
  let chosen := fun g : Fibre => p (g.issued (s.fallOf f.pc)) && g.active w.guard
  have hlook : ∀ k, (((issueCtx op w s wv fs f.pc).act.filter p).foldl (fun u x => u.setFibre (G x)) v).fibre? k
      = (v.fibre? k).map (fun z => (((fs.filter chosen).find? (fun x => x.id == k)).map (fun g => G (g.issued (s.fallOf f.pc)))).getD z) := by
    intro k
    rw [Ready.active_eq h, List.filter_map, List.filter_filter, List.foldl_map]
    exact State.fibre?_foldl Fibre.id (fun g => G (g.issued (s.fallOf f.pc))) (fun x => (hG _).1) _ (hn.sublist (List.filter_sublist.map _)) v k
  have hv : ∀ k, v.fibre? k = (s.fibre? k).map (fun g => if (fs.map Fibre.id).contains k then g.issued (s.fallOf f.pc) else g) := fun k =>
    (by unfold State.fibre?; rw [hf] : v.fibre? k = _).trans (begun_fibre? h k)
  have hmem : ∀ g ∈ fs, s.fibre? g.id = some g := fun g hg => State.mem_waveFibres (h.2.1.symm ▸ hg : g ∈ s.waveFibres wv)
  rw [issue_done h hb]
  refine ends_of h hre hcalm ((foldl_setFibre_same G _ v).1.trans hw) (foldl_setFibre_all (fun x hx => ?group) (hf ▸ Ready.begun_group h hcalm))
    (SameBut.trans hu (foldl_setFibre_same G _ v).2) G (fun g hg => ?inside) (fun k hk => ?outside)
  case group =>
    have hx := (List.mem_filter.mp hx).1
    rw [Ready.active_eq h] at hx
    obtain ⟨y, hy, rfl⟩ := List.mem_map.mp hx
    rw [(hG _).2]
    exact hcalm.2 y (List.mem_of_find?_eq_some (hmem y (List.mem_filter.mp hy).1))
  case inside =>
    have hin : (fs.map Fibre.id).contains g.id = true := by simpa using ⟨g, hg, rfl⟩
    rw [hlook, hv, hmem g hg, find?_filter_id hn hg]
    simp only [Option.map_some, hin, if_true]
    cases hactive : g.active w.guard with
    | false => simp [chosen, hactive]
    | true =>
      have hact : g.issued (s.fallOf f.pc) ∈ (issueCtx op w s wv fs f.pc).act := by
        rw [Ready.active_eq h]
        exact List.mem_map_of_mem (List.mem_filter.mpr ⟨hg, hactive⟩)
      cases hchosen : p (g.issued (s.fallOf f.pc)) with
      | false => simp [chosen, hchosen, hp _ hact hchosen]
      | true => simp [chosen, hchosen, hactive]
  case outside =>
    have hout : (fs.map Fibre.id).contains k = false := by
      simp only [List.contains_eq_mem, List.mem_map, decide_eq_false_iff_not, not_exists, not_and]
      exact hk
    have hnone : (fs.filter chosen).find? (fun x => x.id == k) = none :=
      List.find?_eq_none.mpr fun x hx hid => hk x (List.mem_filter.mp hx).1 (beq_iff_eq.mp hid)
    rw [hlook, hv, hnone]
    simp only [hout, Bool.false_eq_true, if_false, Option.map_none, Option.getD_none, Option.map_map]
    exact Option.map_id'

/-- The active fibres of a wave as an effect finds them: there is one, each stands as it was issued, and no two share a lane. -/
structure Acting (s : State) (c : Ctx) : Prop where
  acts : c.act ≠ []
  current : ∀ x ∈ c.act, s.fibre? x.id = some x
  lanes : (c.act.map Fibre.lane).Nodup

/-- The fibres of a wave stand in lanes of their own. -/
theorem waveFibres_lane {g : Fibre} (hg : g ∈ s.waveFibres wv) : g.id = ⟨wv.crew, wv.home * 32 + g.lane⟩ := by
  obtain ⟨l, hl, hfind⟩ := List.mem_filterMap.mp hg
  split at hfind
  · have hid := State.fibre?_id hfind
    have hlane : g.lane = l := by
      unfold Fibre.lane
      rw [hid]
      have := List.mem_range.mp hl
      show (wv.home * 32 + l) % 32 = l
      omega
    rw [hlane]
    exact hid
  · cases hfind

theorem Ready.acting (h : Ready op w s wv fs f) : Acting (s.begun (issueCtx op w s wv fs f.pc)) (issueCtx op w s wv fs f.pc) where
  acts := List.isEmpty_eq_false_iff.mp (Ready.active_ne h)
  current := Ready.begun_cur h
  lanes := by
    have hn : (fs.map Fibre.id).Nodup := h.2.1 ▸ s.waveFibres_nodup wv
    have hlanes : (fs.map Fibre.lane).Nodup := List.Nodup.map_on (fun x hx y hy hxy => List.inj_on_of_nodup_map hn hx hy (by
      rw [waveFibres_lane (h.2.1.symm ▸ hx : x ∈ s.waveFibres wv), waveFibres_lane (h.2.1.symm ▸ hy : y ∈ s.waveFibres wv), hxy])) hn.of_map
    rw [Ready.active_eq h, List.map_map]
    exact hlanes.sublist (List.filter_sublist.map _)

/-- An effect for the wave that leaves its fibres where they stand. -/
theorem wave_body_rule {P : Ctx → State → Prop} {U : Ctx → State → State}
    (he : ∀ w s, exec (op.instr w) s = issue op w body s) (hUw : ∀ c s, P c s → (U c s).waves = s.waves)
    (hb : ∀ c s fb, P c s → Acting (s.withFibres fb) c → ∃ n, body c (s.withFibres fb) = .ok ({ (U c s).withFibres fb with nextId := n }, [])) :
    WaveRule op P U := by
  intro w s wv fs f h hP
  have hact := Ready.acting h.1
  rw [begun_eq] at hact
  obtain ⟨n, hrun⟩ := hb _ s _ hP hact
  rw [← begun_eq] at hrun
  rw [he]
  exact ends_wave h hrun rfl (hUw _ _ hP) rfl

/-- An effect for the wave that also writes its active fibres, those left out by `p` as they are. -/
theorem group_part_rule {P : Ctx → State → Prop} {G : Ctx → State → Fibre → Fibre} {U : Ctx → State → State} (p : Ctx → Fibre → Bool)
    (he : ∀ w s, exec (op.instr w) s = issue op w body s) (hG : ∀ c s (x : Fibre), x.Same (G c s x)) (hp : ∀ c s fb, P c s → Acting (s.withFibres fb) c → ∀ x ∈ c.act, p c x = false → G c s x = x)
    (hUw : ∀ c s, P c s → (U c s).waves = s.waves)
    (hb : ∀ c s fb, P c s → Acting (s.withFibres fb) c → ∃ n, body c (s.withFibres fb)
      = .ok ((c.act.filter (p c)).foldl (fun u x => u.setFibre (G c s x)) { (U c s).withFibres fb with nextId := n }, [])) : GroupRule op P G U := by
  intro w s wv fs f h hP
  have hact := Ready.acting h.1
  rw [begun_eq] at hact
  obtain ⟨n, hrun⟩ := hb _ s _ hP hact
  rw [← begun_eq] at hrun
  rw [he]
  exact ends_group (p _) h (hG _ _) (hp _ s _ hP hact) hrun rfl (hUw _ _ hP) rfl

/-- An effect for the wave that also writes each active fibre. -/
theorem group_body_rule {P : Ctx → State → Prop} {G : Ctx → State → Fibre → Fibre} {U : Ctx → State → State}
    (he : ∀ w s, exec (op.instr w) s = issue op w body s) (hG : ∀ c s (x : Fibre), x.Same (G c s x)) (hUw : ∀ c s, P c s → (U c s).waves = s.waves)
    (hb : ∀ c s fb, P c s → Acting (s.withFibres fb) c →
      ∃ n, body c (s.withFibres fb) = .ok (c.act.foldl (fun u x => u.setFibre (G c s x)) { (U c s).withFibres fb with nextId := n }, [])) :
    GroupRule op P G U := by
  refine group_part_rule (fun _ _ => true) he hG (fun _ _ _ _ _ _ _ h => nomatch h) hUw fun c s fb h hact => ?_
  rw [List.filter_eq_self.mpr fun _ _ => rfl]
  exact hb c s fb h hact

theorem perWave_run {g : Ctx → M Unit} {c : Ctx} (h : (g c).run s = .ok ((), v)) : perWave g c s = .ok (v, []) := by
  unfold perWave
  rw [h]

/-- An effect that runs for the wave and takes no new name. -/
theorem group_wave_rule {g : Ctx → M Unit} {P : Ctx → State → Prop} {G : Ctx → State → Fibre → Fibre} {U : Ctx → State → State}
    (he : ∀ w s, exec (op.instr w) s = issue op w (perWave g) s) (hG : ∀ c s (x : Fibre), x.Same (G c s x))
    (hUw : ∀ c s, P c s → (U c s).waves = s.waves)
    (hb : ∀ c s fb, P c s → Acting (s.withFibres fb) c →
      (g c).run (s.withFibres fb) = .ok ((), c.act.foldl (fun u x => u.setFibre (G c s x)) ((U c s).withFibres fb))) : GroupRule op P G U :=
  group_body_rule he hG hUw fun c s fb h hact => ⟨(U c s).nextId, perWave_run (hb c s fb h hact)⟩

/-- Fibres written one after the other. -/
theorem forM_putF {α : Type} (G : α → Fibre) (l : List α) (s : State) :
    (forM_ l (fun x => putF (G x))).run s = .ok ((), l.foldl (fun u x => u.setFibre (G x)) s) := by
  induction l generalizing s with
  | nil => rfl
  | cons x xs ih => exact ih (s.setFibre (G x))

end

/-! ### Handles (17 R359 to R362) -/

section
variable {s : State} {c : Ctx} {x : Fibre} {t : Team}

/-- A join invalidates the core's clean lines. -/
theorem joinM_run : (joinM c).run s = .ok ((), s.acquired c.core) := rfl

theorem Handle.busy_full {h : Handle} (hfull : h.state = .full) : h.busy = false := by
  unfold Handle.busy
  rw [hfull]
  rfl

theorem Handle.busy_free {h : Handle} (hfree : h.state = .free) : h.busy = false := by
  unfold Handle.busy
  rw [hfree]
  rfl

/-- The device after a look at a handle. -/
abbrev State.joined (s : State) (c : Ctx) (h : Handle) : State := if h.state = .full then s.acquired c.core else s

theorem join_run (h : Handle) : (if h.state == .full then joinM c else pure () : M Unit).run s = .ok ((), s.joined c h) := by
  unfold State.joined
  by_cases hfull : h.state = .full
  · rw [if_pos (beq_iff_eq.mpr hfull), if_pos hfull]
    rfl
  · rw [if_neg (by rw [beq_iff_eq]; exact hfull), if_neg hfull]
    rfl

theorem State.joined_waves (h : Handle) : (s.joined c h).waves = s.waves := by
  unfold State.joined
  split
  · exact s.acquired_waves c.core
  · rfl

theorem State.joined_withFibres (h : Handle) (fb : List Fibre) : (s.withFibres fb).joined c h = (s.joined c h).withFibres fb := by
  unfold State.joined
  rw [State.acquired_withFibres]
  exact (apply_ite (fun u : State => u.withFibres fb) ..).symm

theorem waveHdef_run (ht : s.teamOf? c.lead.id.crew = some t) (hidle : (t.handle c.w.d.n.toNat).busy = false) (ha : (c.a c.lead).toNat % 16 = 0)
    (hb : (c.b c.lead).toNat % 16 = 0) (hfit : (c.a c.lead).toNat + (c.b c.lead).toNat ≤ t.spSize) : (waveHdef c).run s
      = .ok ((), s.setTeam (t.setHandle c.w.d.n.toNat { t.handle c.w.d.n.toNat with
          base := BitVec.ofNat 14 ((c.a c.lead).toNat / 16), size := BitVec.ofNat 15 ((c.b c.lead).toNat / 16) })) := by
  unfold waveHdef
  rw [bind_ok (teamM_run ht)]
  dsimp only
  rw [hidle, if_neg Bool.false_ne_true, bind_check (beq_iff_eq.mpr ha), bind_check (beq_iff_eq.mpr hb), bind_check (decide_eq_true hfit)]
  rfl

theorem waveHwait_run (ht : s.teamOf? c.lead.id.crew = some t) (hidle : (t.handle c.w.a.n.toNat).busy = false) :
    (waveHwait c).run s = .ok ((), s.joined c (t.handle c.w.a.n.toNat)) := by
  unfold waveHwait
  rw [bind_ok (teamM_run ht)]
  dsimp only
  rw [hidle, if_neg Bool.false_ne_true]
  exact join_run _

/-- A handle that HSET has found FULL. -/
def Handle.freed (h : Handle) : Handle :=
  if h.paused then { h with state := .filling, paused := false, count := 0 } else { h with state := .free, count := 0 }

theorem waveHset_full (ht : s.teamOf? c.lead.id.crew = some t) (hfull : (t.handle c.w.a.n.toNat).state = .full) :
    (waveHset c).run s = .ok ((), s.setTeam (t.setHandle c.w.a.n.toNat (t.handle c.w.a.n.toNat).freed)) := by
  unfold waveHset
  rw [bind_ok (teamM_run ht)]
  dsimp only
  rw [Handle.busy_full hfull, if_neg Bool.false_ne_true, if_pos (beq_iff_eq.mpr hfull)]
  rfl

theorem waveHset_free (ht : s.teamOf? c.lead.id.crew = some t) (hfree : (t.handle c.w.a.n.toNat).state = .free) :
    (waveHset c).run s = .ok ((), s) := by
  unfold waveHset
  rw [bind_ok (teamM_run ht)]
  dsimp only
  rw [Handle.busy_free hfree, if_neg Bool.false_ne_true, if_neg (by rw [hfree]; decide)]
  rfl

theorem laneHstat_run (ht : s.teamOf? x.id.crew = some t) :
    (laneHstat c x).run s = .ok ((), (s.joined c (t.handle c.w.a.n.toNat)).setFibre (c.putD64 x (t.handle c.w.a.n.toNat).record)) := by
  unfold laneHstat
  rw [bind_ok (teamM_run ht)]
  unfold State.joined
  by_cases hfull : (t.handle c.w.a.n.toNat).state = .full
  · simp only [hfull, beq_self_eq_true, if_true]
    rfl
  · simp only [hfull, beq_iff_eq, if_false]
    rfl

end

/-- Settles O39: a handle at rest is written, released, joined or read by its team's operation. -/
theorem handles : Obligations.Handles := by
  unfold Obligations.Handles
  refine ⟨fun t => ?hdef, fun t => ?hwait, fun t => ?hset, fun t => ?hsetFree, fun t => ?hstat⟩
  case hdef =>
    exact wave_rule (g := waveHdef) (fun _ _ => rfl) (fun _ _ _ => rfl) fun c s ⟨ht, hidle, ha, hb, hfit⟩ =>
      waveHdef_run (s := s.withFibres (s.begun c).fibres) ht hidle ha hb hfit
  case hwait =>
    refine wave_rule (g := waveHwait) (fun _ _ => rfl) (fun _ _ _ => State.joined_waves _) fun c s ⟨ht, hidle⟩ => ?_
    rw [waveHwait_run (s := s.withFibres (s.begun c).fibres) ht hidle, State.joined_withFibres]
  case hset =>
    exact wave_rule (g := waveHset) (fun _ _ => rfl) (fun _ _ _ => rfl) fun c s ⟨ht, hfull⟩ =>
      waveHset_full (s := s.withFibres (s.begun c).fibres) ht hfull
  case hsetFree =>
    exact wave_rule (g := waveHset) (fun _ _ => rfl) (fun _ _ _ => rfl) fun c s ⟨ht, hfree⟩ =>
      waveHset_free (s := s.withFibres (s.begun c).fibres) ht hfree
  case hstat =>
    refine one_rule (g := laneHstat) (fun _ _ => rfl) (fun c _ x _ => c.putD64_same x _ _) (fun _ _ _ _ => State.joined_waves _)
      fun c s x fb ht hx => ?_
    rw [laneHstat_run (s := s.withFibres fb) ht, State.joined_withFibres]

end Sys2Proof.Machine
end

section
/-! Every engine operation as it enters its engine (17 R353 to R358; 08 R190; 09 R202; 10 R212; 19 R418 to R420). -/

namespace Sys2Proof.Machine

/-! ### Fields of a block of scratchpad bytes (00 R5) -/

section
variable {m : Memory} {a N k n : Nat} {b ys : List Byte}

theorem Memory.getBytes_length (m : Memory) (a n : Nat) : (m.getBytes a n).length = n := by
  simp [Memory.getBytes]

theorem Memory.getBytes_succ (m : Memory) (a n : Nat) : m.getBytes a (n + 1) = m.get a :: m.getBytes (a + 1) n := by
  unfold Memory.getBytes
  rw [List.range_succ_eq_map, List.map_cons, List.map_map]
  congr 1
  exact List.map_congr_left fun i _ => congrArg m.get (by show a + (i + 1) = a + 1 + i; omega)

/-- Bytes read as a number are the number read. -/
theorem Memory.foldr_getBytes (m : Memory) (a n : Nat) : (m.getBytes a n).foldr (fun x acc => x.toNat + 256 * acc) 0 = m.getN a n := by
  induction n generalizing a with
  | zero => rfl
  | succ n ih =>
    rw [Memory.getBytes_succ, List.foldr_cons, ih]
    rfl

theorem Memory.take_drop_getBytes (h : k + n ≤ N) : ((m.getBytes a N).drop k).take n = m.getBytes (a + k) n := by
  refine List.ext_getElem (by simp [Memory.getBytes_length]; omega) fun i hi hi' => ?_
  simp [Memory.getBytes, Nat.add_assoc]

/-- A field of a block is the number at its place. -/
theorem field_getBytes (h : k + n ≤ N) : field (m.getBytes a N) k n = m.getN (a + k) n := by
  unfold field
  rw [Memory.take_drop_getBytes h, Memory.foldr_getBytes]

/-- A field that lies in the first part of a block is that part's. -/
theorem field_append_left (h : k + n ≤ b.length) : field (b ++ ys) k n = field b k n := by
  unfold field
  rw [List.drop_append_of_le_length (by omega), List.take_append_of_le_length (by rw [List.length_drop]; omega)]

/-- A field after the first part of a block is the second part's. -/
theorem field_append_right : field (b ++ ys) (b.length + k) n = field ys k n := by
  unfold field
  rw [List.drop_append, List.drop_eq_nil_of_le (Nat.le_add_right ..), Nat.add_sub_cancel_left]
  rfl

/-- A copy's record is its first 32 bytes. -/
theorem CopyRec.ofBytes_append (h : b.length = 32) : CopyRec.ofBytes (b ++ ys) = CopyRec.ofBytes b := by
  unfold CopyRec.ofBytes
  simp only [field_append_left (b := b) (ys := ys) (show 0 + 8 ≤ b.length by omega), field_append_left (b := b) (ys := ys) (show 8 + 8 ≤ b.length by omega),
    field_append_left (b := b) (ys := ys) (show 16 + 4 ≤ b.length by omega), field_append_left (b := b) (ys := ys) (show 20 + 4 ≤ b.length by omega),
    field_append_left (b := b) (ys := ys) (show 24 + 4 ≤ b.length by omega), field_append_left (b := b) (ys := ys) (show 28 + 4 ≤ b.length by omega)]

end

/-! ### The parts of a start -/

section
variable {s u : State} {c : Ctx} {t : Team} {o : EngOp} {op : Op} {a n : Nat}

theorem bufferCheck_run {h : Nat} (hsize : (t.handle h).bytes ≠ 0) (hfit : (t.handle h).start + (t.handle h).bytes ≤ t.spSize) :
    (bufferCheck t h).run s = .ok ((), s) := by
  unfold bufferCheck
  exact checkM_true (by simp [hsize, hfit])

theorem stillWaits_free {h : Nat} (ht : s.teamOf? c.lead.id.crew = some t) (hfree : (t.handle h).state = .free) :
    (stillWaits c h).run s = .ok ((), s) := by
  unfold stillWaits
  rw [bind_ok (teamM_run ht), hfree, if_neg (by simp)]
  rfl

/-- The fork of quiet fibres has nothing to wait for and nothing to write back. -/
theorem forkEdge_run (hact : Acting s c) (hquiet : AllQuiet s c) : (forkEdge c).run s = .ok ((), s) := by
  have hopen : c.act.any (fun f => s.storesOpen f.id) = false := List.any_eq_false.mpr fun x hx => by
    obtain ⟨hdues, hheld, hfwds, -⟩ := hquiet x hx
    rw [State.storesOpen_none (hact.current x hx) hdues hheld hfwds]
    exact Bool.false_ne_true
  obtain ⟨x, hx⟩ := List.exists_mem_of_ne_nil _ hact.acts
  unfold forkEdge
  rw [bind_get, hopen, if_neg Bool.false_ne_true, bind_ok whoM_run]
  exact wbCores_clean (hquiet x hx).2.2.2

/-- An operation whose handle is FREE enters its engine, under a new name. -/
theorem startEngine_run (hact : Acting s c) (h : Startable s c t) (o : EngOp) :
    (startEngine c c.w.d.n.toNat o).run s = .ok ((), { s.startedOp c t o with nextId := s.nextId + 1 }) := by
  obtain ⟨ht, hsize, hfit, hfree, hquiet⟩ := h
  unfold startEngine
  rw [bind_ok (stillWaits_free ht hfree), bind_ok (teamM_run ht), bind_ok (bufferCheck_run hsize hfit), hfree, if_neg (by decide),
    bind_ok (forkEdge_run hact hquiet), bind_ok (teamM_run ht)]
  rfl

/-- A start that an opcode makes after its own checks. -/
theorem start_rule {g : Ctx → M Unit} {P : Ctx → State → Prop} {o : Ctx → EngOp} (he : ∀ w s, exec (op.instr w) s = issue op w (perWave g) s)
    (hrun : ∀ c s fb, Startable s c t ∧ P c s → Acting (s.withFibres fb) c →
      (g c).run (s.withFibres fb) = (startEngine c c.w.d.n.toNat (o c)).run (s.withFibres fb)) :
    WaveRule op (fun c s => Startable s c t ∧ P c s) (fun c s => s.startedOp c t (o c)) :=
  wave_body_rule he (fun _ _ _ => rfl) fun c s fb h hact =>
    ⟨s.nextId + 1, perWave_run ((hrun c s fb h hact).trans (startEngine_run (s := s.withFibres fb) hact h.1 (o c)))⟩

/-- A start that reads a record first, before any wait. -/
theorem record_rule {prep : Ctx → M (List Byte)} {start : Ctx → List Byte → M Unit} {P : Ctx → State → Prop} {b : Ctx → List Byte} {o : Ctx → EngOp}
    (he : ∀ w s, exec (op.instr w) s = issue op w (engineBody prep start) s)
    (hfresh : ∀ c s, P c s → Startable s c t ∧ c.wv.record = none)
    (hprep : ∀ c s fb, P c s → (prep c).run (s.withFibres fb) = .ok (b c, s.withFibres fb))
    (hstart : ∀ c s, P c s → start c (b c) = startEngine c c.w.d.n.toNat (o c)) :
    WaveRule op P (fun c s => s.startedOp c t (o c)) := by
  refine wave_body_rule he (fun _ _ _ => rfl) fun c s fb h hact => ⟨s.nextId + 1, ?_⟩
  obtain ⟨hcan, hnone⟩ := hfresh c s h
  unfold engineBody
  rw [hnone]
  dsimp only
  rw [hprep c s fb h]
  dsimp only
  rw [hstart c s h, startEngine_run (s := s.withFibres fb) hact hcan]
  rfl

theorem spBlock_run (h : BlockAt t a n) : (spBlock t a n).run s = .ok (t.sp.getBytes a n, s) := by
  obtain ⟨hal, hfit, hbad⟩ := h
  unfold spBlock
  rw [bind_check (beq_iff_eq.mpr hal), bind_check (decide_eq_true hfit), bind_ok (spSound_run hbad)]
  rfl

theorem baseCheck_run {a : DWord} (hbits : a.toNat < 2 ^ 51) (hal : a.toNat % 4096 = 0) : (baseCheck a).run s = .ok ((), s) := by
  unfold baseCheck
  rw [bind_check (by rw [beq_iff_eq]; omega)]
  exact checkM_true (beq_iff_eq.mpr hal)

theorem checkRange_run {a : DWord} (h : n = 0 ∨ (a.toNat + n ≤ 2 ^ 51 ∧ a.toNat / 2 ^ 50 = (a.toNat + n - 1) / 2 ^ 50)) :
    (checkRange a n).run s = .ok ((), s) := by
  unfold checkRange
  refine checkM_true ?_
  simp only [Bool.or_eq_true, Bool.and_eq_true, beq_iff_eq, decide_eq_true_eq]
  exact h

theorem checkStream_run {a : DWord} (h : StreamOk a n) : (checkStream a n).run s = .ok ((), s) := by
  obtain ⟨hal, hbits, hrange⟩ := h
  unfold checkStream
  rw [bind_check (beq_iff_eq.mpr hal), bind_check (by rw [beq_iff_eq]; omega)]
  exact checkRange_run (hrange.imp_left fun h => by omega)

end

/-! ### Copies (17 R355, R356) -/

section
variable {s : State} {c : Ctx} {t : Team}

/-- A copy's record as it is read, with ICOPY's indices after it. -/
def copyBytes (t : Team) (indexed : Bool) (a : Nat) : List Byte :=
  let b := t.sp.getBytes a 32
  let r := CopyRec.ofBytes b
  if indexed then b ++ t.sp.getBytes r.idxoff (4 * r.rows) else b

/-- The operation that a copy's record describes. -/
abbrev copyOp (t : Team) (indexed : Bool) (a : Nat) : EngOp :=
  let b := t.sp.getBytes a 32
  let r := CopyRec.ofBytes b
  { id := 0, kind := if indexed then .icopy else .tcopy, launch := 0, team := 0, core := 0, handle := 0, block := b
    idx := if indexed then (List.range r.rows).map (fun k => t.sp.getN (r.idxoff + 4 * k) 4) else [] }

/-- A copy's record that passes its checks. -/
theorem copyRecord_run {indexed : Bool} (ht : s.teamOf? c.lead.id.crew = some t) (hsize : (t.handle c.w.d.n.toNat).bytes ≠ 0)
    (hfit : (t.handle c.w.d.n.toNat).start + (t.handle c.w.d.n.toNat).bytes ≤ t.spSize) (hblock : BlockAt t (c.a c.lead).toNat 32)
    {r : CopyRec} (hr : CopyRec.ofBytes (t.sp.getBytes (c.a c.lead).toNat 32) = r) (hok : r.ok indexed = true)
    (hidx : indexed = true → r.idxoff + 4 * r.rows ≤ t.spSize ∧ t.bad r.idxoff (4 * r.rows) = false)
    (hstore : r.store = true → r.spoff % 4 = 0 ∧ r.spoff + r.rows * r.rowbytes ≤ t.spSize) :
    (copyRecord indexed c).run s = .ok (copyBytes t indexed (c.a c.lead).toNat, s) := by
  have hplace : (!r.store || (r.spoff % 4 == 0 && r.spoff + r.rows * r.rowbytes ≤ t.spSize)) = true := by
    cases hdir : r.store with
    | false => rfl
    | true => simp [(hstore hdir).1, (hstore hdir).2]
  unfold copyRecord copyBytes
  rw [bind_ok (teamM_run ht), bind_ok (bufferCheck_run hsize hfit), bind_ok (spBlock_run hblock)]
  dsimp only
  rw [hr, bind_check hok]
  cases indexed with
  | false =>
    rw [bind_check (by rfl), bind_check hplace]
    rfl
  | true =>
    obtain ⟨hfits, hsound⟩ := hidx rfl
    rw [bind_check (by simp [hfits]), bind_check hplace, if_pos rfl, bind_ok (spSound_run hsound)]
    rfl

/-- What the start of a copy asks for. -/
abbrev CopyStart (t : Team) (indexed : Bool) (c : Ctx) (s : State) : Prop :=
  let r := CopyRec.ofBytes (t.sp.getBytes (c.a c.lead).toNat 32)
  Startable s c t ∧ BlockAt t (c.a c.lead).toNat 32 ∧ r.ok indexed = true ∧ c.wv.record = none
    ∧ (indexed = true → r.idxoff + 4 * r.rows ≤ t.spSize ∧ t.bad r.idxoff (4 * r.rows) = false)
    ∧ (r.store = true → r.spoff % 4 = 0 ∧ r.spoff + r.rows * r.rowbytes ≤ t.spSize)

theorem CopyStart.prepared {indexed : Bool} (h : CopyStart t indexed c s) (fb : List Fibre) :
    (copyRecord indexed c).run (s.withFibres fb) = .ok (copyBytes t indexed (c.a c.lead).toNat, s.withFibres fb) := by
  obtain ⟨⟨ht, hsize, hfit, -⟩, hblock, hok, -, hidx, hstore⟩ := h
  exact copyRecord_run (s := s.withFibres fb) ht hsize hfit hblock rfl hok hidx hstore

/-- What a copy starts with is its record and the indices that were read behind it. -/
theorem startCopy_eq (indexed : Bool) (a : Nat) :
    startCopy indexed c (copyBytes t indexed a) = startEngine c c.w.d.n.toNat (copyOp t indexed a) := by
  have hlen : (t.sp.getBytes a 32).length = 32 := Memory.getBytes_length _ _ _
  unfold startCopy copyBytes copyOp
  cases indexed with
  | false => simp [List.take_of_length_le (Nat.le_of_eq hlen)]
  | true =>
    have hindex : ∀ ys k n, field (t.sp.getBytes a 32 ++ ys) (32 + k) n = field ys k n := fun ys k n => hlen ▸ field_append_right
    simp only [if_true, CopyRec.ofBytes_append hlen, List.take_left' hlen, hindex]
    congr 2
    exact List.map_congr_left fun k hk => field_getBytes (by have := List.mem_range.mp hk; omega)

end

/-! ### Operations on grids and on families, and moves of contexts -/

section
variable {s : State} {c : Ctx} {t : Team} {op : Op} {k : EngKind}

/-- The operation of NBIN, NPAIR and NFIX. -/
abbrev gridOp (k : EngKind) (c : Ctx) : EngOp := { id := 0, kind := k, launch := 0, team := 0, core := 0, handle := 0, a := c.a64 c.lead }

theorem waveGrid_run (h : Startable s c t) (hbits : (c.a64 c.lead).toNat < 2 ^ 51) (hal : (c.a64 c.lead).toNat % 4096 = 0)
    (hpair : k = .npair → (t.handle c.w.d.n.toNat).size.toNat % 2 = 0) :
    (waveGrid k c).run s = (startEngine c c.w.d.n.toNat (gridOp k c)).run s := by
  obtain ⟨ht, -, -, hfree, -⟩ := h
  have hsize : (k != .npair || (t.handle c.w.d.n.toNat).size.toNat % 2 == 0) = true := by
    by_cases hk : k = .npair
    · simp [hk, hpair hk]
    · simp [hk]
  unfold waveGrid
  rw [bind_ok (stillWaits_free ht hfree), bind_ok (teamM_run ht)]
  dsimp only
  rw [bind_ok (baseCheck_run hbits hal), bind_check hsize]

/-- The operation of HPROBE, HINS and HDEL. -/
abbrev vectorOp (k : EngKind) (c : Ctx) : EngOp :=
  { id := 0, kind := k, launch := 0, team := 0, core := 0, handle := 0, a := BitVec.ofNat 64 (c.a c.lead).toNat, b := c.b64 c.lead
    c := if k == .hprobe then 0 else .zext (c.c4 c.lead) }

theorem waveVector_run (h : Startable s c t) (hbits : (c.b64 c.lead).toNat < 2 ^ 51) (hal : (c.b64 c.lead).toNat % 4096 = 0)
    (hplace : (c.a c.lead).toNat % 16 = 0) (hin : (c.a c.lead).toNat < t.spSize)
    (hfit : (c.a c.lead).toNat + 2 * ((s.family? (s.queueOf c.launch) (c.b64 c.lead)).map Family.d).getD 0 ≤ t.spSize) :
    (waveVector k c).run s = (startEngine c c.w.d.n.toNat (vectorOp k c)).run s := by
  obtain ⟨ht, -, -, hfree, -⟩ := h
  unfold waveVector
  rw [bind_ok (stillWaits_free ht hfree), bind_ok (teamM_run ht)]
  dsimp only
  rw [bind_ok (baseCheck_run hbits hal), bind_check (beq_iff_eq.mpr hplace), bind_get,
    bind_check (by simp only [Bool.and_eq_true, decide_eq_true_eq]; exact ⟨hin, hfit⟩)]

/-- CTXS, CTXR and MIGR start with their descriptor. -/
theorem context_rule {ok : List Byte → Bool}
    (he : ∀ w s, exec (op.instr w) s = issue op w (engineBody (descriptorM ok) (startContext k)) s) :
    WaveRule op (fun c s => Startable s c t ∧ BlockAt t (c.a c.lead).toNat 32 ∧ c.wv.record = none ∧ ok (t.sp.getBytes (c.a c.lead).toNat 32) = true)
      (fun c s => s.startedOp c t { id := 0, kind := k, launch := 0, team := 0, core := 0, handle := 0
                                    block := t.sp.getBytes (c.a c.lead).toNat 32 }) := by
  refine record_rule (b := fun c => t.sp.getBytes (c.a c.lead).toNat 32) he (fun _ _ h => ⟨h.1, h.2.2.1⟩)
    (fun c s fb ⟨⟨ht, hsize, hfit, _⟩, hblock, _, hok⟩ => ?_) fun _ _ _ => rfl
  unfold descriptorM
  rw [bind_ok (teamM_run (s := s.withFibres fb) ht), bind_ok (bufferCheck_run hsize hfit), bind_ok (spBlock_run hblock), bind_check hok]
  rfl

end

/-! ### The statement -/

/-- Settles O40: every start passes its own checks and then is `startEngine` of the operation that its operands make. -/
theorem engineStarts : Obligations.EngineStarts := by
  unfold Obligations.EngineStarts
  refine ⟨fun t p hp => ?streams, fun t p hp => ?copies, fun t p hp => ?grids, fun t => ?hcfg, fun t p hp => ?vectors, fun t => ?hreh,
    fun t p hp => ?contexts⟩
  case streams =>
    have hrun : ∀ k c s fb, Startable s c t ∧ StreamOk (c.a64 c.lead) (c.lead.reg c.w.c.n.toNat).toNat
        ∧ StreamOk (c.b64 c.lead) (c.lead.reg (c.w.c.n.toNat + 1)).toNat → Acting (s.withFibres fb) c →
        (waveStreams k c).run (s.withFibres fb) = (startEngine c c.w.d.n.toNat (streamOp k c)).run (s.withFibres fb) := by
      intro k c s fb ⟨_, ha, hb⟩ _
      unfold waveStreams
      dsimp only
      rw [bind_ok (checkStream_run ha), bind_ok (checkStream_run hb)]
      rfl
    simp only [List.mem_cons, List.not_mem_nil, or_false] at hp
    obtain rfl | rfl := hp
    · exact start_rule (op := .isect) (fun _ _ => rfl) (hrun .isect)
    · exact start_rule (op := .merge) (fun _ _ => rfl) (hrun .merge)
  case copies =>
    simp only [List.mem_cons, List.not_mem_nil, or_false] at hp
    obtain rfl | rfl := hp
    · exact record_rule (op := .tcopy) (o := fun c => copyOp t false (c.a c.lead).toNat) (fun _ _ => rfl) (fun _ _ h => ⟨h.1, h.2.2.2.1⟩)
        (fun _ _ fb h => CopyStart.prepared h fb) fun _ _ _ => startCopy_eq _ _
    · exact record_rule (op := .icopy) (o := fun c => copyOp t true (c.a c.lead).toNat) (fun _ _ => rfl) (fun _ _ h => ⟨h.1, h.2.2.2.1⟩)
        (fun _ _ fb h => CopyStart.prepared h fb) fun _ _ _ => startCopy_eq _ _
  case grids =>
    have hrun : ∀ k c s fb, Startable s c t ∧ (c.a64 c.lead).toNat < 2 ^ 51 ∧ (c.a64 c.lead).toNat % 4096 = 0
        ∧ (k = .npair → (t.handle c.w.d.n.toNat).size.toNat % 2 = 0) → Acting (s.withFibres fb) c →
        (waveGrid k c).run (s.withFibres fb) = (startEngine c c.w.d.n.toNat (gridOp k c)).run (s.withFibres fb) :=
      fun k c s fb ⟨hstart, hbits, hal, hpair⟩ _ => waveGrid_run (s := s.withFibres fb) hstart hbits hal hpair
    simp only [List.mem_cons, List.not_mem_nil, or_false] at hp
    obtain rfl | rfl | rfl := hp
    · exact start_rule (op := .nbin) (fun _ _ => rfl) fun c s fb ⟨hs, hbits, hal, _⟩ => hrun .nbin c s fb ⟨hs, hbits, hal, nofun⟩
    · exact start_rule (op := .npair) (fun _ _ => rfl) fun c s fb ⟨hs, hbits, hal, hpair⟩ => hrun .npair c s fb ⟨hs, hbits, hal, fun _ => hpair rfl⟩
    · exact start_rule (op := .nfix) (fun _ _ => rfl) fun c s fb ⟨hs, hbits, hal, _⟩ => hrun .nfix c s fb ⟨hs, hbits, hal, nofun⟩
  case hcfg =>
    refine record_rule (op := .hcfg) (b := fun c => t.sp.getBytes (c.a c.lead).toNat 64) (fun _ _ => rfl) (fun _ _ h => ⟨h.1, h.2.2.2.2.1⟩)
      (fun c s fb ⟨⟨ht, hsize, hfit, _⟩, hbits, hal, hblock, _, hok⟩ => ?_) fun _ _ _ => rfl
    unfold familyBlock
    rw [bind_ok (teamM_run (s := s.withFibres fb) ht), bind_ok (baseCheck_run hbits hal), bind_ok (spBlock_run hblock), bind_ok (bufferCheck_run hsize hfit), bind_check hok]
    rfl
  case vectors =>
    simp only [List.mem_cons, List.not_mem_nil, or_false] at hp
    obtain rfl | rfl | rfl := hp
    · exact start_rule (op := .hprobe) (fun _ _ => rfl) fun c s fb ⟨hs, hbits, hal, hplace, hin, hfit⟩ _ =>
        waveVector_run (s := s.withFibres fb) hs hbits hal hplace hin hfit
    · exact start_rule (op := .hins) (fun _ _ => rfl) fun c s fb ⟨hs, hbits, hal, hplace, hin, hfit⟩ _ =>
        waveVector_run (s := s.withFibres fb) hs hbits hal hplace hin hfit
    · exact start_rule (op := .hdel) (fun _ _ => rfl) fun c s fb ⟨hs, hbits, hal, hplace, hin, hfit⟩ _ =>
        waveVector_run (s := s.withFibres fb) hs hbits hal hplace hin hfit
  case hreh =>
    refine start_rule (op := .hreh) (fun _ _ => rfl) fun c s fb ⟨_, hbits, hal, hlow, hhigh⟩ _ => ?_
    unfold waveHreh
    dsimp only
    rw [bind_check (by simp only [Bool.and_eq_true, decide_eq_true_eq]; exact ⟨hlow, hhigh⟩), bind_ok (baseCheck_run hbits hal)]
  case contexts =>
    simp only [List.mem_cons, List.not_mem_nil, or_false] at hp
    obtain rfl | rfl | rfl := hp
    · exact context_rule (op := .ctxs) fun _ _ => rfl
    · exact context_rule (op := .ctxr) fun _ _ => rfl
    · exact context_rule (op := .migr) fun _ _ => rfl

end Sys2Proof.Machine
end

section
/-! Grids, families and supervisions as instructions reach them (19 R405 to R408; 09 R203 to R206; 10 R225; 11 R228 to R233). -/

namespace Sys2Proof.Machine

/-! ### Words delivered to every active fibre -/

section
variable {s v : State} {c : Ctx} {t : Team} {u v' : Supervision}

/-- A join under a condition, and then a word for each active fibre. -/
theorem joinThenPut_run (b : Bool) (G : Fibre → Fibre) :
    (do if b then joinM c
        forM_ c.act (fun x => putF (G x)) : M Unit).run s
      = .ok ((), c.act.foldl (fun u x => u.setFibre (G x)) (if b then s.acquired c.core else s)) := by
  cases b with
  | false => exact forM_putF G c.act s
  | true => exact forM_putF G c.act (s.acquired c.core)

theorem ite_acquired_waves (p : Prop) [Decidable p] : (if p then s.acquired c.core else s).waves = s.waves := by
  split
  · exact s.acquired_waves c.core
  · rfl

theorem unless_acquired_waves (p : Prop) [Decidable p] : (if p then s else s.acquired c.core).waves = s.waves := by
  split
  · rfl
  · exact s.acquired_waves c.core

theorem ite_acquired_withFibres (p : Prop) [Decidable p] (fb : List Fibre) :
    (if p then (s.withFibres fb).acquired c.core else s.withFibres fb) = (if p then s.acquired c.core else s).withFibres fb := by
  rw [State.acquired_withFibres]
  exact (apply_ite (fun u : State => u.withFibres fb) ..).symm

/-! ### Grids (09 R203; 19 R405) -/

theorem State.configure_waves (s : State) (g : Grid) : (s.configure g).waves = s.waves := by
  unfold State.configure
  split <;> rfl

theorem State.configure_withFibres (s : State) (g : Grid) (fb : List Fibre) : (s.withFibres fb).configure g = (s.configure g).withFibres fb := by
  unfold State.configure
  rw [show (s.withFibres fb).grid? g.queue g.base = s.grid? g.queue g.base from rfl]
  cases s.grid? g.queue g.base <;> rfl

/-- NCFG of a grid that no operation uses. -/
theorem waveNcfg_run {b : List Byte} {g : Grid} (ht : s.teamOf? c.lead.id.crew = some t) (hblock : BlockAt t (c.a c.lead).toNat 64)
    (hb : t.sp.getBytes (c.a c.lead).toNat 64 = b) (hg : Grid.ofBlock b (s.queueOf c.launch) (dieOf c.core) = g) (hbits : g.base.toNat < 2 ^ 51)
    (hok : g.ok b = true) (hmeets : s.meetsOwned g.queue g.base g.bytes = false) (hidle : s.gridBusy g.queue g.base = false) :
    (waveNcfg c).run s = .ok ((), s.configure g) := by
  subst hb
  unfold waveNcfg
  rw [bind_ok (teamM_run ht), bind_ok (spBlock_run hblock), bind_get]
  dsimp only
  rw [hg, bind_check (by rw [beq_iff_eq]; omega), bind_check hok, bind_check (by rw [hmeets]; rfl), hidle, if_neg Bool.false_ne_true]
  rfl

/-! ### Supervisions (11 R228 to R230) -/

theorem waveSvopen_run (hact : Acting s c) (ht : s.teamOf? c.lead.id.crew = some t) (hsup : t.sup = none) (hblock : BlockAt t (c.a c.lead).toNat 64)
    (hok : supOk (t.sp.getBytes (c.a c.lead).toNat 64) = true) (hquiet : AllQuiet s c) : (waveSvopen c).run s
      = .ok ((), s.setTeam { t with sup := some (Supervision.ofBlock (t.sp.getBytes (c.a c.lead).toNat 64)) }) := by
  unfold waveSvopen
  rw [bind_ok (teamM_run ht), bind_check (by rw [hsup]; rfl), bind_ok (spBlock_run hblock), bind_check hok, bind_ok (forkEdge_run hact hquiet),
    bind_ok (teamM_run ht)]
  rfl

/-- The releases of quiet fibres. -/
theorem forM_release_run {l : List Fibre} {scope : Nat} (hcur : ∀ x ∈ l, s.fibre? x.id = some x) (hquiet : ∀ x ∈ l, Quiet s c.core x)
    (hspan : NoSpan s c) : (forM_ l (fun f => do
      let who ← whoM c f
      spanGate who scope
      release who scope)).run s = .ok ((), s) := by
  induction l with
  | nil => rfl
  | cons x xs ih =>
    unfold forM_
    simp only [bind_assoc]
    rw [bind_ok whoM_run, bind_ok (spanGate_run hspan _),
      bind_ok (release_quiet (who := s.whoOf c x) (hcur x List.mem_cons_self) (hquiet x List.mem_cons_self) _)]
    exact ih (fun y hy => hcur y (List.mem_cons_of_mem _ hy)) fun y hy => hquiet y (List.mem_cons_of_mem _ hy)

/-- A fibre that SVMARK answers: the next buffer, and whether the target is met. -/
abbrev Fibre.marked (c : Ctx) (v : Supervision) (x : Fibre) : Fibre := (c.putD x (BitVec.ofNat 32 v.next)).setPred c.w.imm.toNat v.met

theorem Fibre.marked_same (c : Ctx) (v : Supervision) (x : Fibre) : x.Same (Fibre.marked c v x) := (c.putD_same x _ _).trans (Fibre.setPred_same _ _ _)

theorem waveSvmark_run (hact : Acting s c) (ht : s.teamOf? c.lead.id.crew = some t) (hsup : t.sup = some u)
    (ha : (c.a c.lead).toNat = 1 ∨ (c.a c.lead).toNat = 2) (hbest : (c.a c.lead).toNat ≠ u.best) (hquiet : AllQuiet s c) (hspan : NoSpan s c)
    (hv : u.mark (c.a c.lead).toNat (c.b c.lead) = v') : (waveSvmark c).run s
      = .ok ((), c.act.foldl (fun u x => u.setFibre (Fibre.marked c v' x)) (s.setTeam { t with sup := some v' })) := by
  have hbuffer : (!((c.a c.lead).toNat == 0 || decide ((c.a c.lead).toNat > 2) || (c.a c.lead).toNat == u.best)) = true := by
    rcases ha with ha | ha <;> rw [ha] at hbest ⊢ <;> simp [hbest]
  unfold waveSvmark
  rw [bind_ok (teamM_run ht), hsup]
  dsimp only
  rw [bind_check hbuffer, bind_ok (forM_release_run hact.current hquiet hspan), bind_ok (teamM_run ht), hv]
  exact forM_putF (Fibre.marked c v') c.act (s.setTeam { t with sup := some v' })

/-- A mark counts; the next buffer is never the best; a strictly lower residual alone replaces the best. -/
theorem Supervision.mark_rule (u : Supervision) (a : Nat) (r : Word) : (u.mark a r).marks = u.marks + 1 ∧ (u.mark a r).next ≠ (u.mark a r).best ∧
    (if below32 r u.bestRes then (u.mark a r).best = a ∧ (u.mark a r).bestRes = r else (u.mark a r).best = u.best ∧ (u.mark a r).bestRes = u.bestRes) := by
  have hnext : ∀ v : Supervision, v.next ≠ v.best := fun v => by
    unfold Supervision.next
    by_cases h : v.best = 1
    · simp [h]
    · simp only [h, beq_iff_eq, if_false]
      exact fun hb => h hb.symm
  refine ⟨?_, hnext _, ?_⟩
  · unfold Supervision.mark
    split <;> rfl
  · unfold Supervision.mark
    split <;> exact ⟨rfl, rfl⟩

/-! ### The record (11 R233) -/

section
variable {e : TlbEntry} {i : FibreId} {line : Nat} {va : DWord}

/-- A write of a part of a line at its home slice changes the L2, the clocks, and what the host holds. -/
theorem MemSys.l2Write_same (m : MemSys) (line : Nat) {mask : BitVec 64} (hpart : mask ≠ BitVec.allOnes 64) (d : BitVec 512) : m.l2Write line mask d
    = { m with l2 := (m.l2Write line mask d).l2, clocks := (m.l2Write line mask d).clocks
               hostLines := (m.l2Write line mask d).hostLines, recalls := (m.l2Write line mask d).recalls } := by
  unfold MemSys.l2Write
  have hfill := m.l2Fill_same line
  generalize m.l2Fill line = filled at hfill ⊢
  obtain ⟨l, m'⟩ := filled
  dsimp only at hfill ⊢
  rw [hfill]
  simp only [beq_iff_eq, hpart, if_false]

theorem AtHome.l2Write (h : AtHome s i line) (k : Nat) {mask : BitVec 64} (hpart : mask ≠ BitVec.allOnes 64) (d : BitVec 512) :
    AtHome (s.withMem (s.mem.l2Write k mask d)) i line := by
  unfold State.withMem AtHome
  rw [s.mem.l2Write_same k hpart d]
  exact h

theorem Resident.l2Write {n : Nat} (h : Resident s c va n true e) (k : Nat) {mask : BitVec 64} (hpart : mask ≠ BitVec.allOnes 64) (d : BitVec 512) :
    Resident (s.withMem (s.mem.l2Write k mask d)) c va n true e := by
  unfold State.withMem Resident
  rw [s.mem.l2Write_same k hpart d]
  exact h

theorem Resident.granted {n : Nat} (h : Resident s c va n true e) (va' : DWord) : Resident (s.granted e va') c va n true e := by
  unfold State.granted Resident
  rw [s.mem.grant_same]
  exact h

/-- A page's size is a number of whole lines. -/
theorem pageBytes_lines (level : Nat) : 64 ∣ pageBytes level := ⟨512 * 4096 ^ level, by unfold pageBytes; omega⟩

section
variable (hpa : e.pa % 64 = 0) (hva : va.toNat % 64 = 0)
include hva

theorem toNat_add_16 : (va + 16).toNat = va.toNat + 16 := by
  have := va.isLt
  rw [BitVec.toNat_add, show (16 : DWord).toNat = 16 from rfl]
  omega

theorem getLsbD_50_add_16 : (va + 16).getLsbD 50 = va.getLsbD 50 := by
  have hdiv : (va.toNat + 16) / 2 ^ 50 = va.toNat / 2 ^ 50 := by omega
  rw [BitVec.getLsbD, BitVec.getLsbD, toNat_add_16 hva, Nat.testBit_eq_decide_div_mod_eq, Nat.testBit_eq_decide_div_mod_eq, hdiv]

/-- The place of 16 bytes further on in a page is 16 bytes further on. -/
theorem TlbEntry.at_add_16 : e.at_ (va + 16) = e.at_ va + 16 := by
  obtain ⟨k, hk⟩ := pageBytes_lines e.level
  have hpos : 0 < pageBytes e.level := by unfold pageBytes; positivity
  have hoff : va.toNat % 2 ^ 50 % pageBytes e.level % 64 = 0 := by
    rw [Nat.mod_mod_of_dvd _ (pageBytes_lines e.level)]
    omega
  have hlt := Nat.mod_lt (va.toNat % 2 ^ 50) hpos
  have hroom : va.toNat % 2 ^ 50 % pageBytes e.level + 16 < pageBytes e.level := by omega
  have hsum : (va.toNat + 16) % 2 ^ 50 = va.toNat % 2 ^ 50 + 16 := by omega
  unfold TlbEntry.at_
  rw [toNat_add_16 hva, hsum, Nat.add_mod, Nat.mod_eq_of_lt (show 16 < pageBytes e.level by omega), Nat.mod_eq_of_lt hroom, Nat.add_assoc]

include hpa

theorem TlbEntry.at_aligned : e.at_ va % 64 = 0 := by
  have hoff : va.toNat % 2 ^ 50 % pageBytes e.level % 64 = 0 := by
    rw [Nat.mod_mod_of_dvd _ (pageBytes_lines e.level)]
    omega
  unfold TlbEntry.at_
  omega

theorem TlbEntry.line_add_16 : e.line (va + 16) = e.line va := by
  have hal := e.at_aligned hpa hva
  unfold TlbEntry.line lineNo
  rw [e.at_add_16 hva, getLsbD_50_add_16 hva, show (e.at_ va + 16) / 64 = e.at_ va / 64 by omega]

end

/-- The memory after the record of a supervision has been written into its line, half by half. -/
abbrev State.recorded (s : State) (e : TlbEntry) (va : DWord) (v : Nat) : State :=
  let m := (s.granted e va).mem.l2Write (e.line va) (byteMask 0 16) (lineOf 0 16 (v % 2 ^ 128))
  s.withMem (((s.withMem m).granted e (va + 16)).mem.l2Write (e.line va) (byteMask 16 16) (lineOf 16 16 (v / 2 ^ 128)))

/-- A record whose line is used at its home slice is written there. -/
theorem writeAssay_run {x : Fibre} {outcome team : Nat} (hclean : CleanL1 s c.core) (hwide : s.wide (s.whoOf c x) u.scope = true)
    (hal : u.record.toNat % 64 = 0) (hfirst : Resident s c u.record 16 true e) (hsecond : Resident s c (u.record + 16) 16 true e) (hpa : e.pa % 64 = 0)
    (hl : s.l1Line? c.core (e.line u.record) = none) (hhome : AtHome s x.id (e.line u.record)) :
    (writeAssay (s.whoOf c x) u outcome team).run s = .ok ((), s.recorded e u.record (u.bytes outcome team s.rtime)) := by
  let v := u.bytes outcome team s.rtime
  let who : Who := { s.whoOf c x with assay := true }
  let t := s.withMem ((s.granted e u.record).mem.l2Write (e.line u.record) (byteMask 0 16) (lineOf 0 16 (v % 2 ^ 128)))
  have hat := e.at_aligned hpa hal
  have hat2 : e.at_ (u.record + 16) % 64 = 16 := by rw [e.at_add_16 hal]; omega
  have hline := e.line_add_16 hpa hal
  have hpart : byteMask 0 16 ≠ BitVec.allOnes 64 := by decide
  have hone : (storeG who u.record 16 (v % 2 ^ 128) .l2).run s = .ok ((), t) := by
    rw [storeG_home (who := who) ⟨rfl, rfl, rfl⟩ hfirst hl hhome, hat]
  have hres : Resident t c (u.record + 16) 16 true e := Resident.l2Write (s := s.granted e u.record) (hsecond.granted _) _ hpart _
  have hat_home : AtHome t x.id (e.line u.record) := AtHome.l2Write (s := s.granted e u.record) (hhome.granted _ _) _ hpart _
  have htwo : (performRelease who (u.record + 16) 16 (v / 2 ^ 128) u.scope).run t = .ok ((), s.recorded e u.record v) := by
    rw [performRelease_clean (s := t) (who := who) hwide hclean,
      storeG_home (s := t) (who := who) ⟨rfl, rfl, rfl⟩ hres (by rw [hline]; exact hl) (by rw [hline]; exact hat_home), hat2, hline]
    rfl
  unfold writeAssay
  rw [bind_get]
  dsimp only
  rw [scopePath_wide (who := who) hwide, bind_ok hone]
  exact htwo

/-- SVCLOSE writes the record and closes the supervision. -/
theorem waveSvclose_run (hact : Acting s c) (ht : s.teamOf? c.lead.id.crew = some t) (hsup : t.sup = some u) (hquiet : AllQuiet s c)
    (hspan : NoSpan s c) (hwrite : (writeAssay (s.whoOf c c.lead) u 0 t.id).run s = .ok ((), v)) (hteam : v.teamOf? c.lead.id.crew = some t) :
    (waveSvclose c).run s = .ok ((), v.setTeam { t with sup := none }) := by
  have hrecord : (assayRecord (s.whoOf c c.lead) u 0 t.id).run s = .ok ((), v) := by
    unfold assayRecord
    rw [bind_get, hwrite]
    rfl
  unfold waveSvclose
  rw [bind_ok (teamM_run ht), hsup]
  dsimp only
  rw [bind_ok whoM_run, bind_ok (spanGate_run hspan _), bind_ok (forkEdge_run hact hquiet), bind_ok hrecord, bind_ok (teamM_run hteam)]
  rfl

end

end

/-! ### The statement -/

/-- Settles O41: the queries deliver their words under their join; a supervision is opened, marked and closed with its record written. -/
theorem gridsFamiliesSupervisions : Obligations.GridsFamiliesSupervisions := by
  unfold Obligations.GridsFamiliesSupervisions
  refine ⟨fun t => ?ncfg, ?nstat, ?hqry, fun t => ?svopen, fun t u => ?svmark, fun t => ?svqry, fun t u e => ?svclose, Supervision.mark_rule⟩
  case ncfg =>
    refine wave_rule (g := waveNcfg) (fun _ _ => rfl) (fun _ _ _ => State.configure_waves _ _) fun c s ⟨ht, hblock, hbits, hok, hmeets, hidle⟩ => ?_
    rw [waveNcfg_run (s := s.withFibres (s.begun c).fibres) ht hblock rfl rfl hbits hok hmeets hidle]
    exact congrArg (fun s : State => Except.ok ((), s)) (State.configure_withFibres ..)
  case nstat =>
    refine group_wave_rule (g := waveNstat) (fun _ _ => rfl) (fun c _ x => c.putD64_same x _ _) (fun _ _ _ => unless_acquired_waves _)
      fun c s fb _ _ => ?_
    refine (joinThenPut_run (s := s.withFibres fb) (!s.gridBusy (s.queueOf c.launch) (c.a64 c.lead)) _).trans ?_
    rw [ite_acquired_withFibres]
    cases s.gridBusy (s.queueOf c.launch) (c.a64 c.lead) <;> rfl
  case hqry =>
    refine group_wave_rule (g := waveHqry) (fun _ _ => rfl) (fun c _ x => c.putD64_same x _ _) (fun _ _ _ => ite_acquired_waves _)
      fun c s fb _ _ => ?_
    refine (joinThenPut_run (s := s.withFibres fb) (c.w.imm == 0 && !s.familyBusy (s.queueOf c.launch) (c.a64 c.lead)) _).trans ?_
    rw [ite_acquired_withFibres]
    simp only [Bool.and_eq_true, beq_iff_eq, Bool.not_eq_true']
    rfl
  case svopen =>
    exact wave_body_rule (body := perWave waveSvopen) (fun _ _ => rfl) (fun _ _ _ => rfl) fun c s fb ⟨ht, hsup, hblock, hok, hquiet, _⟩ hact =>
      ⟨s.nextId, perWave_run (waveSvopen_run (s := s.withFibres fb) hact ht hsup hblock hok hquiet)⟩
  case svmark =>
    exact group_wave_rule (g := waveSvmark) (fun _ _ => rfl) (fun c _ x => Fibre.marked_same c _ x) (fun _ _ _ => rfl)
      fun c s fb ⟨ht, hsup, ha, hbest, hquiet, hspan⟩ hact =>
        waveSvmark_run (s := s.withFibres fb) hact ht hsup ha hbest hquiet hspan rfl
  case svqry =>
    refine group_wave_rule (g := waveSvqry) (fun _ _ => rfl) (fun c _ x => c.putD64_same x _ _) (fun c s _ => s.acquired_waves c.core)
      fun c s fb ht _ => ?_
    unfold waveSvqry
    rw [bind_ok (teamM_run (s := s.withFibres fb) ht)]
    refine (forM_putF _ c.act ((s.withFibres fb).acquired c.core)).trans ?_
    rw [State.acquired_withFibres]
  case svclose =>
    refine wave_body_rule (body := perWave waveSvclose) (fun _ _ => rfl) (fun _ _ _ => rfl)
      fun c s fb ⟨ht, hsup, hquiet, hclean, hspan, hwide, hal, hfirst, hsecond, hpa, hl, hhome⟩ hact => ⟨s.nextId, perWave_run ?_⟩
    exact waveSvclose_run (s := s.withFibres fb) hact ht hsup hquiet hspan
      (writeAssay_run (s := s.withFibres fb) hclean hwide hal hfirst hsecond hpa hl hhome) ht

end Sys2Proof.Machine
end

section
/-! Stream helpers, and the lanes that leave a gather (17 R352, R363 to R365; 08 R184, R185). -/

namespace Sys2Proof.Machine

/-! ### COMPACT and EXPAND: words in lane order (17 R363) -/

section
variable {s v : State} {c : Ctx} {t : Team} {base n : Nat}

theorem wordsCheck_run (hal : base % 4 = 0) (hfit : base + 4 * n ≤ t.spSize) : (wordsCheck t base n).run s = .ok ((), s) := by
  unfold wordsCheck
  rw [bind_check (beq_iff_eq.mpr hal)]
  refine checkM_true ?_
  simp only [Bool.or_eq_true, Bool.and_eq_true, decide_eq_true_eq]
  exact .inl ⟨by omega, by omega⟩

/-- A lane among lanes that are all different is found at its place. -/
theorem findIdx?_lane {l : List Fibre} (hn : (l.map Fibre.lane).Nodup) {i : Nat} (hi : i < l.length) :
    l.findIdx? (fun g => g.lane == l[i].lane) = some i := by
  refine List.findIdx?_eq_some_iff_getElem.mpr ⟨hi, beq_self_eq_true _, fun j hj => ?_⟩
  rw [beq_iff_eq]
  intro hlane
  have hj' : j < l.length := by omega
  have := (List.Nodup.getElem_inj_iff hn (hi := by rw [List.length_map]; exact hj') (hj := by rw [List.length_map]; exact hi)).mp (by simpa using hlane)
  omega

/-- COMPACT: the words of the chosen lanes, and then each lane's place and their number. -/
theorem waveCompact_run (ht : s.teamOf? c.lead.id.crew = some t) (hal : (c.a c.lead).toNat % 4 = 0)
    (hfit : (c.a c.lead).toNat + 4 * (c.act.filter (fun f => f.pred c.w.c.n.toNat)).length ≤ t.spSize) :
    let who := c.act.filter (fun f => f.pred c.w.c.n.toNat)
    (waveCompact c).run s = .ok ((), c.act.foldl (fun u x => u.setFibre (c.putD64 x (BitVec.ofNat 64
          ((match who.findIdx? (fun g => g.lane == x.lane) with | some i => i | none => 0xFFFFFFFF) + 2 ^ 32 * who.length))))
        (s.setTeam (t.wrote (c.a c.lead).toNat (4 * who.length) (((List.range who.length).zip who).foldl
          (fun m p => m.setN ((c.a c.lead).toNat + 4 * p.1) 4 (c.b p.2).toNat) t.sp)))) := by
  unfold waveCompact
  dsimp only
  rw [bind_ok (teamM_run ht), bind_ok (wordsCheck_run hal hfit)]
  exact forM_putF _ c.act _

/-- EXPAND: the word at each chosen lane's place. -/
def Ctx.expanded (c : Ctx) (t : Team) (x : Fibre) : Fibre :=
  match (c.act.filter (fun f => f.pred c.w.b.n.toNat)).findIdx? (fun g => g.lane == x.lane) with
  | some i => c.putD x (BitVec.ofNat 32 (t.sp.getN ((c.a c.lead).toNat + 4 * i) 4))
  | none => x

theorem Ctx.expanded_same (c : Ctx) (t : Team) (x : Fibre) : x.Same (c.expanded t x) := by
  unfold Ctx.expanded
  split
  · exact c.putD_same x _ _
  · exact ⟨rfl, rfl⟩

/-- A lane that is not among the chosen ones keeps what it has. -/
theorem findIdx?_lane_none {l : List Fibre} (hn : (l.map Fibre.lane).Nodup) {p : Fibre → Bool} {x : Fibre} (hx : x ∈ l) (hp : p x = false) :
    (l.filter p).findIdx? (fun g => g.lane == x.lane) = none := by
  refine List.findIdx?_eq_none_iff.mpr fun y hy => ?_
  obtain ⟨hy, hpy⟩ := List.mem_filter.mp hy
  rw [beq_eq_false_iff_ne]
  intro hlane
  rw [List.inj_on_of_nodup_map hn hy hx hlane, hp] at hpy
  cases hpy

theorem waveExpand_run (hact : Acting s c) (ht : s.teamOf? c.lead.id.crew = some t) (hal : (c.a c.lead).toNat % 4 = 0)
    (hfit : (c.a c.lead).toNat + 4 * (c.act.filter (fun f => f.pred c.w.b.n.toNat)).length ≤ t.spSize)
    (hbad : t.bad (c.a c.lead).toNat (4 * (c.act.filter (fun f => f.pred c.w.b.n.toNat)).length) = false) :
    (waveExpand c).run s
      = .ok ((), (c.act.filter (fun f => f.pred c.w.b.n.toNat)).foldl (fun u x => u.setFibre (c.expanded t x)) s) := by
  unfold waveExpand
  dsimp only
  rw [bind_ok (teamM_run ht), bind_ok (wordsCheck_run hal hfit), bind_ok (spSound_run hbad)]
  refine (forM_putF (fun p : Nat × Fibre => c.putD p.2 (BitVec.ofNat 32 (t.sp.getN ((c.a c.lead).toNat + 4 * p.1) 4))) _ s).trans ?_
  have hlanes : ((c.act.filter (fun f => f.pred c.w.b.n.toNat)).map Fibre.lane).Nodup := hact.lanes.sublist (List.filter_sublist.map _)
  have hmap : ((List.range (c.act.filter (fun f => f.pred c.w.b.n.toNat)).length).zip (c.act.filter (fun f => f.pred c.w.b.n.toNat))).map
      (fun p => c.putD p.2 (BitVec.ofNat 32 (t.sp.getN ((c.a c.lead).toNat + 4 * p.1) 4)))
      = (c.act.filter (fun f => f.pred c.w.b.n.toNat)).map (c.expanded t) := by
    refine List.ext_getElem (by simp) fun i hi hi' => ?_
    have hlt : i < (c.act.filter (fun f => f.pred c.w.b.n.toNat)).length := by simpa using hi'
    simp only [List.getElem_map, List.getElem_zip, List.getElem_range]
    unfold Ctx.expanded
    rw [findIdx?_lane hlanes hlt]
  rw [← List.foldl_map (g := State.setFibre) (f := fun p : Nat × Fibre => c.putD p.2 _), hmap, List.foldl_map]

/-! ### SEGR: sums of segments (17 R364) -/

/-- Segments divide the fibres in their order. -/
theorem segments_flatten (flag : Fibre → Bool) (l : List Fibre) (acc : List (List Fibre)) :
    (segments flag l acc).flatten = acc.flatten ++ l := by
  induction l generalizing acc with
  | nil => simp [segments]
  | cons f fs ih =>
    unfold segments
    split
    · rw [ih]; rfl
    · next hne =>
      split
      · rw [ih]; simp
      · have hlast : acc.dropLast.flatten ++ (acc.getLast?.getD []) = acc.flatten := by
          rw [List.getLast?_eq_getLast_of_ne_nil hne, Option.getD_some]
          conv_rhs => rw [← List.dropLast_append_getLast hne]
          simp
        rw [ih, List.flatten_append, List.flatten_singleton, ← List.append_assoc, hlast, List.append_assoc]
        rfl

/-- A fibre after SEGR: its segment's sum. -/
def Ctx.summed (c : Ctx) (x : Fibre) : Fibre :=
  match (segments (fun f => f.pred c.w.b.n.toNat) c.act []).find? (fun seg => seg.any (fun g => g.lane == x.lane)) with
  | some seg => c.putD x (BitVec.ofNat 32 (segrSum c seg).1) (segrSum c seg).2
  | none => x

theorem Ctx.summed_same (c : Ctx) (x : Fibre) : x.Same (c.summed x) := by
  unfold Ctx.summed
  split
  · exact c.putD_same x _ _
  · exact ⟨rfl, rfl⟩

/-- Of disjoint segments a lane finds its own. -/
theorem find?_segment {segs : List (List Fibre)} (hn : (segs.flatten.map Fibre.lane).Nodup) {seg : List Fibre} {x : Fibre} (hseg : seg ∈ segs)
    (hx : x ∈ seg) : segs.find? (fun seg => seg.any (fun g => g.lane == x.lane)) = some seg := by
  induction segs with
  | nil => cases hseg
  | cons a as ih =>
    rw [List.flatten_cons, List.map_append, List.nodup_append] at hn
    obtain ⟨-, hrest, hdisjoint⟩ := hn
    rw [List.find?_cons]
    rcases List.mem_cons.mp hseg with rfl | hseg
    · have hown : seg.any (fun g => g.lane == x.lane) = true := List.any_eq_true.mpr ⟨x, hx, beq_self_eq_true _⟩
      rw [hown]
    · have hother : a.any (fun g => g.lane == x.lane) = false := List.any_eq_false.mpr fun g hg => by
        rw [beq_iff_eq]
        exact hdisjoint _ (List.mem_map_of_mem hg) _ (List.mem_map_of_mem (List.mem_flatten_of_mem hseg hx))
      rw [hother]
      exact ih hrest hseg

theorem bodySegr_eq (hlanes : (c.act.map Fibre.lane).Nodup) : bodySegr c s = .ok (c.act.foldl (fun u x => u.setFibre (c.summed x)) s, []) := by
  have hflat : (segments (fun f => f.pred c.w.b.n.toNat) c.act []).flatten = c.act := segments_flatten _ _ _
  have hown : ∀ seg ∈ segments (fun f => f.pred c.w.b.n.toNat) c.act [], ∀ x ∈ seg,
      c.summed x = c.putD x (BitVec.ofNat 32 (segrSum c seg).1) (segrSum c seg).2 := fun seg hseg x hx => by
    unfold Ctx.summed
    rw [find?_segment (by rw [hflat]; exact hlanes) hseg hx]
  unfold bodySegr
  dsimp only
  conv_rhs => rw [← hflat, List.foldl_flatten]
  refine congrArg (fun u : State => Except.ok (u, [])) (List.foldl_ext _ _ _ fun u seg hseg => List.foldl_ext _ _ _ fun u' x hx => ?_)
  rw [hown seg hseg x hx]

end

/-! ### BSRCH of at most one word (17 R365) -/

section
variable {s : State} {c : Ctx} {x : Fibre} {e : TlbEntry} {l : L1Line}

theorem laneBsrch_none (hx : s.fibre? x.id = some x) (hn : (c.c4 x).toNat = 0) (hal : (c.a64 x).toNat % 4 = 0) :
    (laneBsrch c x).run s = .ok ((), s.setFibre (c.putD x 0)) := by
  unfold laneBsrch
  dsimp only
  rw [hn, bind_check (by rfl), bind_check (beq_iff_eq.mpr hal)]
  exact bind_ok (curF_run hx) (g := fun g => putF (c.putD g 0))

theorem laneBsrch_one (hx : s.fibre? x.id = some x) (hplain : Plain s x) (hn : (c.c4 x).toNat = 1) (hres : Resident s c (c.a64 x) 4 false e)
    (hl : s.l1Line? c.core (e.line (c.a64 x)) = some l) (hsound : SoundL1 s (e.line (c.a64 x)) l)
    (hvalid : l.valid &&& byteMask (e.at_ (c.a64 x) % 64) 4 = byteMask (e.at_ (c.a64 x) % 64) 4) : (laneBsrch c x).run s
      = .ok ((), (s.l1Used c x l).setFibre (c.putD x (if (c.b x).toNat ≤ lineBytes l.data (e.at_ (c.a64 x) % 64) 4 then 0 else 1))) := by
  have hload := fibreLoad_hit hx hplain hres hl hsound hvalid
  have hsearch : (bsrchFrom c x (c.a64 x) (c.b x).toNat 33 0 1).run s
      = .ok (if (c.b x).toNat ≤ lineBytes l.data (e.at_ (c.a64 x) % 64) 4 then 0 else 1, s.l1Used c x l) := by
    have hbase : c.a64 x + BitVec.ofNat 64 (4 * ((0 + 1) / 2)) = c.a64 x := BitVec.add_zero _
    unfold bsrchFrom
    dsimp only
    rw [if_pos Nat.zero_lt_one, hbase, bind_ok hload]
    split <;> rfl
  unfold laneBsrch
  dsimp only
  rw [hn, bind_check (by have := hres.1; simp only [Bool.or_eq_true, beq_iff_eq]; exact .inr (by omega)), bind_check (beq_iff_eq.mpr hres.2.1),
    bind_ok hsearch]
  exact (bind_ok (curF_run (s := s.l1Used c x l) hx)).trans (by split <;> rfl)

end

/-! ### A lane that leaves a gather (08 R184, R185; 17 R352) -/

section
variable {op : Op} {w : Fields} {s s1 t u : State} {c : Ctx} {wv : Wave} {f x : Fibre} {e : TlbEntry} {l : L1Line}

/-- A fibre with the label of a gather open. -/
abbrev Fibre.labelled (c : Ctx) (x : Fibre) : Fibre := { x with labels := (c.pc + c.w.imm) :: x.labels }

/-- A lane whose element the L1 holds leaves with it. -/
theorem gldsLane_hit (hx : s.fibre? x.id = some x) (hplain : Plain s x) (hres : Resident s c (c.a64 x) (szBytes c.w.mod) false e)
    (hhint : modField c.w.mod 6 2 ≠ 3) (hl : s.l1Line? c.core (e.line (c.a64 x)) = some l) (hsound : SoundL1 s (e.line (c.a64 x)) l)
    (hvalid : l.valid &&& byteMask (e.at_ (c.a64 x) % 64) (szBytes c.w.mod) = byteMask (e.at_ (c.a64 x) % 64) (szBytes c.w.mod)) :
    gldsLane c s x = .ok ((s.l1Used c x l).setFibre
      (c.putLoad (Fibre.labelled c x) (lineBytes l.data (e.at_ (c.a64 x) % 64) (szBytes c.w.mod))), []) := by
  let y := Fibre.labelled c x
  have hy : (s.setFibre y).fibre? y.id = some y := State.fibre?_setFibre_self (g := y) hx
  have hload := fibreLoad_hit (s := s.setFibre y) (x := y) hy hplain hres hl hsound hvalid
  have hput := load_delivered hload (by exact hy)
  unfold gldsLane
  dsimp only
  rw [hintPath_l1 hhint]
  have hrun : (do putF y; let v ← fibreLoad c y (c.a64 x) (szBytes c.w.mod) .l1; putLoadM c y v : M Unit).run s
      = .ok ((), (s.l1Used c x l).setFibre (c.putLoad y (lineBytes l.data (e.at_ (c.a64 x) % 64) (szBytes c.w.mod)))) := by
    refine (bind_modify.trans hput).trans ?_
    exact congrArg (fun u : State => Except.ok ((), u)) (State.setFibre_setFibre (s := s.l1Used c x l) (c.putLoad_same y _).1)
  rw [hrun]

/-- The wave of a gather after a lane has left it: another part is gone. -/
def State.gatherPart (t : State) (c : Ctx) : State :=
  let w := (t.wave? c.wv.id).getD c.wv
  t.setWave { w with arrived := lanesOf [], parts := w.parts + 1 }

theorem bodyGlds_lone (hact : c.act = [x]) (hserved : c.served x = true) (hlane : gldsLane c s x = .ok (t, [])) :
    bodyGlds c s = .ok (t.gatherPart c, []) := by
  have hlanes : gldsLanes c [x] s = .ok (t, []) := by
    simp only [gldsLanes, hlane]
    rfl
  unfold bodyGlds
  rw [hact]
  simp only [hserved, Bool.not_true, List.filter_cons_of_pos, List.filter_nil, Bool.false_eq_true, not_false_eq_true, List.filter_cons_of_neg,
    List.isEmpty_nil, Bool.false_and, if_false, hlanes]
  cases c.det <;> rfl

/-- Where a wave of one fibre ends when its effect has also changed its waves, none of which waits to meet. -/
theorem ends_solo_waves (h : Solo op w s wv f) (hr : wv.reissue = false)
    (hwaves : ∀ v ∈ s1.waves, v.wait ≠ some .meet ∧ v.wait ≠ some .bar ∧ v.wait ≠ some .gbar)
    (hg : ∀ g ∈ s1.fibres, g.group = none) (hu : SameBut u s1) (hin : s1.fibre? f.id = some x) (hout : ∀ k, f.id ≠ k → s1.fibre? k = s.fibre? k) :
    Ends (.next (s1.done (soloCtx op w s wv f) [f])) s [f] (fun _ => x.ended op w) u := by
  have hact : (soloCtx op w s wv f).act.map Fibre.id = [f.id] := congrArg (List.map Fibre.id) (Solo.act_eq h)
  have hcalm : (s1.openWindows (soloCtx op w s wv f) ((soloCtx op w s wv f).act.map Fibre.id)).Calm :=
    calm_openWindows (s := s1) rfl ⟨hwaves, hg⟩ hg
  obtain ⟨hsame, hfibres⟩ := State.done_same (fs := [f]) hr hcalm
  have hlook : ∀ k, (s1.done (soloCtx op w s wv f) [f]).fibre? k
      = (s1.fibre? k).map (fun g => Fibre.settled [f.id] (if [f.id].contains k then g.opened op w else g)) := by
    intro k
    rw [State.fibre?_map (Fibre.settled_id _) _ _ hfibres, State.openWindows_fibre? _ _ _ (by rw [hact]; exact List.nodup_singleton _), hact,
      Option.map_map]
    rfl
  have hid := State.fibre?_id hin
  refine ⟨_, rfl, SameBut.trans hu (SameBut.trans ?_ hsame), fun g hgm => ?_, fun k hk => ?_⟩
  · unfold SameBut
    rw [State.openWindows_same]
  · cases List.mem_singleton.mp hgm
    have hin' : ∀ k, k = f.id → [f.id].contains k = true := fun k hk => by simp [hk]
    rw [hlook, hin, Option.map_some, hin' f.id rfl, if_pos rfl]
    unfold Fibre.settled Fibre.opened Fibre.ended
    rw [hin' _ hid, if_pos rfl]
  · have hne : f.id ≠ k := hk f List.mem_cons_self
    rw [hlook, hout k hne]
    cases hfind : s.fibre? k with
    | none => rfl
    | some g =>
      have hgid := State.fibre?_id hfind
      have hk' : [f.id].contains k = false := by simpa using fun h => hne h.symm
      simp only [Option.map_some, hk', Bool.false_eq_true, if_false, Fibre.settled, hgid]

theorem State.gatherPart_fibre? (t : State) (c : Ctx) (k : FibreId) : (t.gatherPart c).fibre? k = t.fibre? k := rfl

/-- A fibre of another wave stands as it stood. -/
theorem State.begun_solo_other {k : FibreId} (hk : f.id ≠ k) : (s.begun (soloCtx op w s wv f)).fibre? k = s.fibre? k :=
  State.fibre?_setFibre_other (g := f.issued (s.fallOf f.pc)) hk

theorem Fibre.setList_inTrap (f : Fibre) (ns : List Nat) (vs : List Word) : (f.setList ns vs).inTrap = f.inTrap := by
  induction ns generalizing f vs with
  | nil => rfl
  | cons n ns ih =>
    cases vs with
    | nil => rfl
    | cons v vs => exact (ih (f.setReg n v) vs).trans (f.setReg_inTrap n v)

/-- A delivery takes no fibre into the runtime. -/
theorem Ctx.deliver_inTrap (c : Ctx) (f : Fibre) (regs : List Nat) (ws : List Word) (fl : Word) : (c.deliver f regs ws fl).inTrap = f.inTrap := by
  unfold Ctx.deliver
  split
  · rfl
  · exact f.setList_inTrap regs ws

theorem State.gatherPart_waits (hwave : t.wave? c.wv.id = some c.wv)
    (hwaves : ∀ v ∈ t.waves, v.wait ≠ some .meet ∧ v.wait ≠ some .bar ∧ v.wait ≠ some .gbar) :
    ∀ v ∈ (t.gatherPart c).waves, v.wait ≠ some .meet ∧ v.wait ≠ some .bar ∧ v.wait ≠ some .gbar := by
  intro v hv
  unfold State.gatherPart at hv
  rw [hwave, Option.getD_some, State.setWave_waves] at hv
  obtain ⟨y, hy, rfl⟩ := List.mem_map.mp hv
  split
  · exact hwaves c.wv (List.mem_of_find?_eq_some hwave)
  · exact hwaves y hy

theorem foldl_eq_self {α β : Type} {step : α → β → α} {a : α} {l : List β} (h : ∀ b ∈ l, step a b = a) : l.foldl step a = a := by
  induction l with
  | nil => rfl
  | cons b bs ih => rw [List.foldl_cons, h b List.mem_cons_self, ih fun b hb => h b (List.mem_cons_of_mem _ hb)]

/-- Where no fibre has entered the runtime, no wave is split. -/
theorem State.splitFaults_none (h : ∀ k g, t.fibre? k = some g → g.inTrap.isSome = true → ∃ y, s.fibre? k = some y ∧ y.inTrap.isSome = true) :
    s.splitFaults t wv = t := by
  have hempty : ∀ v : Wave, ((t.waveFibres v).all fun f => f.inTrap.isSome && ((s.fibre? f.id).map (fun g => g.inTrap.isNone)).getD false
      && f.trap.kind == 4) = true → t.waveFibres v = [] := by
    intro v hall
    refine List.eq_nil_iff_forall_not_mem.mpr fun g hg => ?_
    have hnew := List.all_eq_true.mp hall g hg
    simp only [Bool.and_eq_true] at hnew
    obtain ⟨⟨hin, hout⟩, -⟩ := hnew
    obtain ⟨y, hy, hyin⟩ := h g.id g (State.mem_waveFibres hg) hin
    rw [hy, Option.map_some, Option.getD_some] at hout
    simp [Option.isNone_iff_eq_none.mp hout] at hyin
  unfold State.splitFaults
  refine foldl_eq_self fun v hv => ?_
  have hsel := (List.mem_filter.mp hv).2
  simp only [Bool.and_eq_true] at hsel
  rw [hempty v hsel.2]

/-- A gather of one lane that has arrived. -/
theorem glds_rule {P : Ctx → State → Fibre → Prop} {G : Ctx → State → Fibre → Fibre} {U : Ctx → State → Fibre → State}
    (hG : ∀ c s x, P c s x → x.Same (G c s x)) (htrap : ∀ c s x, P c s x → (G c s x).inTrap = x.inTrap) (hUw : ∀ c s x, P c s x → (U c s x).waves = s.waves)
    (hserved : ∀ c s x, P c s x → c.served x = true)
    (hlane : ∀ c s x fb, P c s x → (s.withFibres fb).fibre? x.id = some x →
      gldsLane c (s.withFibres fb) x = .ok (((U c s x).withFibres fb).setFibre (G c s x), [])) : OneRule .glds P G U := by
  intro w s wv f h hP
  let c := soloCtx .glds w s wv f
  let x := f.issued (s.fallOf f.pc)
  have hcur := Solo.cur h.1
  have hwave := Ready.wave h.1
  have hbody := bodyGlds_lone (Solo.act_eq h.1) (hserved _ _ _ hP) (hlane c s x (s.begun c).fibres hP (by rw [← begun_eq]; exact hcur))
  rw [← begun_eq] at hbody
  have hwaves : ((((U c s x).withFibres (s.begun c).fibres).setFibre (G c s x)).wave? wv.id) = some wv := by
    show ((U c s x).waves.find? _) = _
    rw [hUw _ _ _ hP]
    exact hwave
  have hends : Ends (issue .glds w bodyGlds s) s [f] (fun _ => (G c s x).ended .glds w) (U c s x) := by
    rw [issue_done h.1 hbody]
    refine ends_solo_waves h.1 h.2.1 (State.gatherPart_waits hwaves fun v hv => h.2.2.1 v (hUw _ _ _ hP ▸ hv)) ?_ (by exact rfl) ?_ ?_
    · intro g hg
      obtain ⟨z, hz, rfl⟩ := List.mem_map.mp (State.setFibre_fibres _ _ ▸ hg)
      split
      · exact (hG _ _ _ hP).2.trans h.group
      · exact Ready.begun_group h.1 h.2.2 z hz
    · rw [State.gatherPart_fibre?, State.fibre?_setFibre, show ((U c s x).withFibres (s.begun c).fibres).fibre? f.id = some x from hcur, Option.map_some,
        if_pos (beq_iff_eq.mpr (hG _ _ _ hP).1.symm)]
    · intro k hk
      rw [State.gatherPart_fibre?, State.fibre?_setFibre_other (by rw [(hG _ _ _ hP).1]; exact hk)]
      exact State.begun_solo_other (op := .glds) (w := w) (wv := wv) hk
  obtain ⟨t, ht, hsame, hin, hout⟩ := hends
  refine ⟨t, ?_, hsame, hin, hout⟩
  show execGlds w s = _
  unfold execGlds
  rw [ht, h.1.1]
  dsimp only
  rw [State.splitFaults_none, ite_self]
  intro k g hg htrapped
  by_cases hk : f.id = k
  · subst hk
    rw [hin f List.mem_cons_self, Option.some.injEq] at hg
    subst hg
    exact ⟨f, State.mem_waveFibres (h.1.2.1.symm ▸ List.mem_singleton_self f : f ∈ s.waveFibres wv), by
      rw [← show (G c s x).inTrap = f.inTrap from htrap _ _ _ hP]; exact htrapped⟩
  · rw [hout k fun y hy => by cases List.mem_singleton.mp hy; exact hk] at hg
    exact ⟨g, hg, htrapped⟩

end

/-! ### The statement -/

/-- Settles O42: words move in lane order, sums go by segment, a search of one word is one load, and a gathered lane leaves with its element. -/
theorem streamHelpers : Obligations.StreamHelpers := by
  unfold Obligations.StreamHelpers
  refine ⟨fun t => ?compact, fun t => ?expand, ?segr, ?none, fun e l => ?one, fun e l => ?glds⟩
  case compact =>
    exact group_wave_rule (g := waveCompact) (fun _ _ => rfl) (fun c _ x => c.putD64_same x _ _) (fun _ _ _ => rfl)
      fun c s fb ⟨ht, hal, hfit⟩ _ => waveCompact_run (s := s.withFibres fb) ht hal hfit
  case expand =>
    refine group_part_rule (body := perWave waveExpand) (G := fun c _ => c.expanded t) (fun c f => f.pred c.w.b.n.toNat) (fun _ _ => rfl)
      (fun c _ x => c.expanded_same t x) (fun c s fb _ hact x hx hp => ?_) (fun _ _ _ => rfl)
      fun c s fb ⟨ht, hal, hfit, hbad⟩ hact => ⟨s.nextId, perWave_run (waveExpand_run (s := s.withFibres fb) hact ht hal hfit hbad)⟩
    unfold Ctx.expanded
    rw [findIdx?_lane_none hact.lanes hx hp]
  case segr =>
    exact group_body_rule (body := bodySegr) (G := fun c _ => c.summed) (fun _ _ => rfl) (fun c _ x => c.summed_same x) (fun _ _ _ => rfl)
      fun c s fb _ hact => ⟨s.nextId, bodySegr_eq hact.lanes⟩
  case none =>
    exact one_rule (g := laneBsrch) (fun _ _ => rfl) (fun c _ x _ => c.putD_same x _ _) (fun _ _ _ _ => rfl)
      fun c s x fb ⟨hn, hal⟩ hx => laneBsrch_none hx hn hal
  case one =>
    exact one_rule (g := laneBsrch) (fun _ _ => rfl) (fun c _ x _ => c.putD_same x _ _) (fun _ _ _ _ => rfl)
      fun c s x fb ⟨hplain, hn, hres, hl, hsound, hvalid⟩ hx => laneBsrch_one (s := s.withFibres fb) hx hplain hn hres hl hsound hvalid
  case glds =>
    exact glds_rule (fun c _ x _ => (c.putLoad_same (Fibre.labelled c x) _)) (fun c _ x _ => c.deliver_inTrap (Fibre.labelled c x) _ _ _) (fun _ _ _ _ => rfl)
      (fun _ _ _ h => h.2.1) fun c s x fb ⟨hplain, _, hres, hhint, hl, hsound, hvalid⟩ hx =>
        gldsLane_hit (s := s.withFibres fb) hx hplain hres hhint hl hsound hvalid

end Sys2Proof.Machine
end

section
/-! Tiles as instructions reach them (18 R373 to R379, R384, R395): the checks that a tile which is free passes, an instruction that enters
its unit, and the moves. -/

namespace Sys2Proof.Machine

/-! ### Elements (03 R79; 18 R378) -/

theorem unpackNat_length (width n x : Nat) : (unpackNat width n x).length = n := by
  induction n generalizing x with
  | zero => rfl
  | succ n ih => exact congrArg (· + 1) (ih _)

/-- An element of an unpacked number is its digits at the element's place. -/
theorem unpackNat_getD (width : Nat) {n k : Nat} (x : Nat) (hk : k < n) : (unpackNat width n x).getD k 0 = x / 2 ^ (k * width) % 2 ^ width := by
  induction n generalizing x k with
  | zero => omega
  | succ n ih =>
    cases k with
    | zero => simp [unpackNat]
    | succ k =>
      rw [unpackNat, List.getD_cons_succ, ih _ (by omega), Nat.div_div_eq_div_mul, ← pow_add, Nat.succ_mul, Nat.add_comm]

theorem Tile.table_getD (y : Tile) {i : Nat} (hi : i < y.rows) : y.table.getD i [] = y.row i := by
  unfold Tile.table
  rw [List.getD_eq_getElem?_getD, List.getElem?_map, List.getElem?_range hi]
  rfl

/-- An element of a tile's shape is its bits at the element's place. -/
theorem Tile.elem_eq (y : Tile) {i j : Nat} (hi : i < y.rows) (hj : j < y.cols) :
    (y.table.getD i []).getD j 0 = y.bits.toNat / 2 ^ ((i * y.cols + j) * y.wbits) % 2 ^ y.wbits := by
  rw [y.table_getD hi, Tile.row, unpackNat_getD _ _ hj, Nat.div_div_eq_div_mul, ← pow_add, ← Nat.add_mul]

/-- A transpose exchanges row and column. -/
theorem transpose_getD (y : Tile) {i j : Nat} (hi : i < y.rows) (hj : j < y.cols) :
    ((transpose y.cols y.table).getD j []).getD i 0 = (y.table.getD i []).getD j 0 := by
  have hlen : i < y.table.length := by simpa [Tile.table] using hi
  have hrow : (transpose y.cols y.table).getD j [] = y.table.map (fun r => r.getD j 0) := by
    unfold transpose
    rw [List.getD_eq_getElem?_getD, List.getElem?_map, List.getElem?_range hj]
    rfl
  rw [hrow, List.getD_eq_getElem?_getD, List.getElem?_map, List.getD_eq_getElem?_getD (l := y.table), List.getElem?_eq_getElem hlen]
  rfl

/-! ### Checks (18 R373 to R375) -/

section
variable {s : State} {c : Ctx} {t u : Team} {n slot : Nat} {x y : Tile}

theorem tileM_run (hx : t.tiles[n]? = some x) (hallot : x.allot = true) (slot : Nat) : (tileM t n slot).run s = .ok (x, s) := by
  unfold tileM
  rw [hx]
  dsimp only
  rw [if_pos hallot]
  rfl

theorem TileAt.tileM_run (h : TileAt s t n x) (slot : Nat) : (tileM t n slot).run s = .ok (x, s) := Machine.tileM_run h.1 h.2.1 slot

/-- What other waves of the team store is some of what anyone of it stores. -/
theorem State.tilesStoring_subset (s : State) (t : Team) (mine : List FibreId) : s.tilesStoring t mine ⊆ s.tilesStoring t [] := by
  unfold State.tilesStoring
  refine List.filterMap_subset _ fun r hr => ?_
  obtain ⟨hr, hown⟩ := List.mem_filter.mp hr
  exact List.mem_filter.mpr ⟨hr, by simpa using (Bool.and_eq_true _ _ ▸ hown).2⟩

/-- Tiles that nothing in flight writes or stores are free. -/
theorem tilesFree_run {ns : List Nat} (h : ∀ n ∈ ns, n ∉ s.tilesBusy t ∧ n ∉ s.tilesStoring t []) : (tilesFree c t ns).run s = .ok ((), s) := by
  have hfree : ns.any (fun n => (s.tilesBusy t).contains n || (s.tilesStoring t (c.all.map Fibre.id)).contains n) = false :=
    List.any_eq_false.mpr fun n hn => by
      obtain ⟨hbusy, hstoring⟩ := h n hn
      have hmine : n ∉ s.tilesStoring t (c.all.map Fibre.id) := fun hin => hstoring (s.tilesStoring_subset t _ hin)
      simp [hbusy, hmine]
  unfold tilesFree
  rw [bind_get, hfree]
  rfl

theorem TileAt.free (h : TileAt s t n x) : (tilesFree c t [n]).run s = .ok ((), s) :=
  tilesFree_run fun k hk => by cases List.mem_singleton.mp hk; exact h.2.2

theorem shapeM_run {b : Bool} (h : b = true) (place : Nat) : (shapeM b place).run s = .ok ((), s) := checkM_true h

theorem putTile_run (ht : s.teamOf? c.lead.id.crew = some t) : (putTile c n x).run s = .ok ((), s.withTile t n x) := by
  unfold putTile
  rw [bind_ok (teamM_run ht)]
  rfl

/-! ### An instruction enters its unit (18 R374, R375) -/

theorem newIdM_run : newIdM.run s = .ok (s.nextId, { s with nextId := s.nextId + 1 }) := rfl

theorem pushTile_run {reads : List Nat} {writes : List (Nat × Tile)} {flags : Word} {fault : Option Due} {id : Nat}
    (ht : s.teamOf? c.lead.id.crew = some t) : (pushTile c id reads writes flags fault).run s
      = .ok ((), { { s with nextId := id }.pushedTile c t reads writes flags fault with nextId := s.nextId }) := by
  unfold pushTile
  rw [bind_ok (teamM_run ht)]
  rfl

/-- A tile instruction that has computed takes a name and enters its unit. -/
theorem namedPush_run {reads : List Nat} {writes : List (Nat × Tile)} {flags : Word} {fault : Option Due}
    (ht : s.teamOf? c.lead.id.crew = some t) : (do let i ← newIdM; pushTile c i reads writes flags fault : M Unit).run s
      = .ok ((), { s.pushedTile c t reads writes flags fault with nextId := s.nextId + 1 }) := by
  rw [bind_ok newIdM_run]
  exact pushTile_run (s := { s with nextId := s.nextId + 1 }) ht

theorem tileDone_run {reads : List Nat} {writes : List (Nat × Tile)} {flags : Word} (ht : s.teamOf? c.lead.id.crew = some t) :
    (tileDone c reads writes flags).run s = .ok ((), { s.pushedTile c t reads writes flags none with nextId := s.nextId + 1 }) :=
  namedPush_run ht

/-- An effect that ends with an instruction in its unit. -/
theorem push_rule {op : Op} {g : Ctx → M Unit} {P : Ctx → State → Prop} {U : Ctx → State → State}
    (he : ∀ w s, exec (op.instr w) s = issue op w (perWave g) s) (hUw : ∀ c s, P c s → (U c s).waves = s.waves)
    (hb : ∀ c s fb, P c s → Acting (s.withFibres fb) c →
      (g c).run (s.withFibres fb) = .ok ((), { (U c s).withFibres fb with nextId := s.nextId + 1 })) : WaveRule op P U :=
  wave_body_rule he hUw fun c s fb h hact => ⟨s.nextId + 1, perWave_run (hb c s fb h hact)⟩

/-! ### Shapes and moves (18 R377 to R379) -/

theorem waveTcfg_run (ht : s.teamOf? c.lead.id.crew = some t) (hx : TileAt s t c.w.d.n.toNat x) {a : Nat} (ha : (c.a c.lead).toNat = a)
    (hfields : a = a % 128 + a / 256 % 128 * 256 + a / 65536 % 4 * 65536)
    (hsize : (a % 128 + 1) * (a / 256 % 128 + 1) * (4 * 2 ^ (a / 65536 % 4)) ≤ 65536) : (waveTcfg c).run s
      = .ok ((), s.withTile t c.w.d.n.toNat { x with rows := a % 128 + 1, cols := a / 256 % 128 + 1, width := BitVec.ofNat 2 (a / 65536 % 4) }) := by
  unfold waveTcfg
  rw [bind_ok (teamM_run ht)]
  dsimp only
  rw [bind_ok (hx.tileM_run 1), ha, bind_check (beq_iff_eq.mpr hfields)]
  exact (bind_ok (shapeM_run (decide_eq_true hsize) 1)).trans ((bind_ok hx.free).trans (putTile_run ht))

theorem waveTzero_run (ht : s.teamOf? c.lead.id.crew = some t) (hx : TileAt s t c.w.d.n.toNat x) :
    (waveTzero c).run s = .ok ((), s.withTile t c.w.d.n.toNat { x with bits := 0, pivot := none, poison := [] }) := by
  unfold waveTzero
  rw [bind_ok (teamM_run ht)]
  dsimp only
  rw [bind_ok (hx.tileM_run 1), bind_ok hx.free]
  exact putTile_run ht

theorem waveTmovw_run (ht : s.teamOf? c.lead.id.crew = some t) (hx : TileAt s t c.w.d.n.toNat x) (hwords : ∀ f ∈ c.act, (c.b f).toNat < 2048) :
    (waveTmovw c).run s
      = .ok ((), s.withTile t c.w.d.n.toNat (c.act.foldl (fun x f => x.setWord (c.b f).toNat (c.a f).toNat) x)) := by
  unfold waveTmovw
  rw [bind_ok (teamM_run ht)]
  dsimp only
  rw [bind_ok (hx.tileM_run 1), bind_check (List.all_eq_true.mpr fun f hf => decide_eq_true (hwords f hf)), bind_ok hx.free]
  exact putTile_run ht

theorem waveTmovr_run (ht : s.teamOf? c.lead.id.crew = some t) (hy : TileAt s t c.w.a.n.toNat y)
    (hwords : ∀ f ∈ c.act, (c.b f).toNat < 2048 ∧ (c.b f).toNat / 16 ∉ y.poison) : (waveTmovr c).run s
      = .ok ((), c.act.foldl (fun u x => u.setFibre (c.putD x (BitVec.ofNat 32 (y.word (c.b x).toNat)))) s) := by
  have hsound : (!c.act.any (fun f => y.poison.contains ((c.b f).toNat / 16))) = true := by
    rw [Bool.not_eq_true', List.any_eq_false]
    exact fun f hf => by simpa using (hwords f hf).2
  unfold waveTmovr
  rw [bind_ok (teamM_run ht)]
  dsimp only
  rw [bind_ok (hy.tileM_run 2), bind_check (List.all_eq_true.mpr fun f hf => decide_eq_true (hwords f hf).1), bind_ok hy.free, bind_check hsound]
  exact forM_putF _ c.act s

/-- Two tiles that are free together. -/
theorem TileAt.free₂ {m : Nat} (hx : TileAt s t n x) (hy : TileAt s t m y) : (tilesFree c t [n, m]).run s = .ok ((), s) :=
  tilesFree_run fun k hk => by
    rcases List.mem_cons.mp hk with rfl | hk
    · exact hx.2.2
    · cases List.mem_singleton.mp hk
      exact hy.2.2

theorem waveTtrn_run (ht : s.teamOf? c.lead.id.crew = some t) (hx : TileAt s t c.w.d.n.toNat x) (hy : TileAt s t c.w.a.n.toNat y)
    (hrows : x.rows = y.cols) (hcols : x.cols = y.rows) (hwidth : x.width = y.width) : (waveTtrn c).run s
      = .ok ((), { s.pushedTile c t [c.w.a.n.toNat] [(c.w.d.n.toNat, x.setTable (transpose y.cols y.table))] 0 none with nextId := s.nextId + 1 }) := by
  unfold waveTtrn
  rw [bind_ok (teamM_run ht)]
  dsimp only
  rw [bind_ok (hx.tileM_run 1), bind_ok (hy.tileM_run 2), bind_ok (shapeM_run (by simp [hrows, hcols, hwidth]) 0), bind_ok (hx.free₂ hy)]
  exact tileDone_run ht

/-! ### TNZ and TPIV (18 R384, R395) -/

/-- The word that TNZ delivers to a lane: the number of nonzero elements, and the rows of its quarter that hold one. -/
def Ctx.nonzeros (c : Ctx) (y : Tile) (x : Fibre) : DWord :=
  let counts := y.table.map (fun r => (r.filter (nonzeroElem (elTileFloat (modField c.w.mod 0 3)) y.wbits)).length)
  BitVec.ofNat 64 (counts.foldl (fun s k => s + k) 0
    + 2 ^ 32 * (List.range 32).foldl (fun m r => if counts.getD (32 * (x.lane % 4) + r) 0 != 0 then m + 2 ^ r else m) 0)

theorem waveTnz_run (ht : s.teamOf? c.lead.id.crew = some t) (hy : TileAt s t c.w.a.n.toNat y) (hwidth : y.width = elTileWidth (modField c.w.mod 0 3))
    (hbad : t.badTile c.w.a.n.toNat = false) :
    (waveTnz c).run s = .ok ((), c.act.foldl (fun u x => u.setFibre (c.putD64 x (c.nonzeros y x))) s) := by
  unfold waveTnz
  rw [bind_ok (teamM_run ht)]
  dsimp only
  rw [bind_ok (hy.tileM_run 2), bind_ok (shapeM_run (beq_iff_eq.mpr hwidth) 1), bind_ok hy.free, bind_check (by rw [hbad]; rfl)]
  exact forM_putF (fun x => c.putD64 x (c.nonzeros y x)) c.act s

/-- The word that TPIV delivers to a lane: two places of the permutation and what is known of the factorisation. -/
def pivotWord (p : Option Pivot) (x : Fibre) : DWord :=
  BitVec.ofNat 64 (match p with
    | none => 0x00FFFFFF
    | some p => p.perm.getD (2 * x.lane) 255 + 2 ^ 8 * p.perm.getD (2 * x.lane + 1) 255 + 2 ^ 16 * p.zero.getD 255
        + 2 ^ 24 * p.n + 2 ^ 32 * (p.clamped + 256 + 512 * p.chol.toNat))

theorem waveTpiv_run (ht : s.teamOf? c.lead.id.crew = some t) (hy : TileAt s t c.w.a.n.toNat y) :
    (waveTpiv c).run s = .ok ((), c.act.foldl (fun u x => u.setFibre (c.putD64 x (pivotWord y.pivot x))) s) := by
  unfold waveTpiv
  rw [bind_ok (teamM_run ht)]
  dsimp only
  rw [bind_ok (hy.tileM_run 2), bind_ok hy.free]
  exact forM_putF (fun x => c.putD64 x (pivotWord y.pivot x)) c.act s

/-! ### MWAIT (18 R376) -/

theorem waveMwait_run (ht : s.teamOf? c.lead.id.crew = some t) (hops : ∀ o ∈ s.tileOps, ¬(o.launch = t.launch ∧ o.team = t.id))
    (hstoring : s.tilesStoring t [] = []) (hdues : ∀ f ∈ s.fibres, t.owns f.id.crew = true → ∀ d ∈ f.dues, d.1.kind ≠ 3) :
    (waveMwait c).run s = .ok ((), s) := by
  have hidle : s.tileOps.any (fun o => o.launch == t.launch && o.team == t.id) = false :=
    List.any_eq_false.mpr fun o ho => by simpa using hops o ho
  have hnone : s.fibres.any (fun f => t.owns f.id.crew && f.dues.any (fun d => d.1.kind == 3)) = false := by
    refine List.any_eq_false.mpr fun f hf hdue => ?_
    obtain ⟨hown, hdue⟩ := Bool.and_eq_true_iff.mp hdue
    obtain ⟨d, hd, hkind⟩ := List.any_eq_true.mp hdue
    exact hdues f hf hown d hd (beq_iff_eq.mp hkind)
  unfold waveMwait
  rw [bind_ok (teamM_run ht), bind_get, hidle, hstoring, hnone]
  rfl

end

/-! ### The statement -/

/-- Settles O43: a free tile passes its checks, and each move is one update, one word for each lane, or one instruction in the tile path. -/
theorem tileMoves : Obligations.TileMoves := by
  unfold Obligations.TileMoves
  refine ⟨fun t x => ?tcfg, fun t x => ?tzero, fun t x => ?tmovw, fun t y => ?tmovr, fun t x y => ?ttrn, fun t y => ?tnz, fun t y p => ?tpiv,
    fun t => ?mwait, fun y i j hi hj => ⟨transpose_getD y hi hj, y.elem_eq hi hj⟩⟩
  case tcfg =>
    exact wave_rule (g := waveTcfg) (fun _ _ => rfl) (fun _ _ _ => rfl) fun c s ⟨ht, hx, hfields, hsize⟩ =>
      waveTcfg_run (s := s.withFibres (s.begun c).fibres) ht hx rfl hfields hsize
  case tzero =>
    exact wave_rule (g := waveTzero) (fun _ _ => rfl) (fun _ _ _ => rfl) fun c s ⟨ht, hx⟩ =>
      waveTzero_run (s := s.withFibres (s.begun c).fibres) ht hx
  case tmovw =>
    exact wave_rule (g := waveTmovw) (fun _ _ => rfl) (fun _ _ _ => rfl) fun c s ⟨ht, hx, hwords⟩ =>
      waveTmovw_run (s := s.withFibres (s.begun c).fibres) ht hx hwords
  case tmovr =>
    exact group_wave_rule (g := waveTmovr) (fun _ _ => rfl) (fun c _ x => c.putD_same x _ _) (fun _ _ _ => rfl) fun c s fb ⟨ht, hy, hwords⟩ _ =>
      waveTmovr_run (s := s.withFibres fb) ht hy hwords
  case ttrn =>
    exact push_rule (g := waveTtrn) (fun _ _ => rfl) (fun _ _ _ => rfl) fun c s fb ⟨ht, hx, hy, hrows, hcols, hwidth⟩ _ =>
      waveTtrn_run (s := s.withFibres fb) ht hx hy hrows hcols hwidth
  case tnz =>
    exact group_wave_rule (g := waveTnz) (fun _ _ => rfl) (fun c _ x => c.putD64_same x _ _) (fun _ _ _ => rfl) fun c s fb ⟨ht, hy, hwidth, hbad⟩ _ =>
      waveTnz_run (s := s.withFibres fb) ht hy hwidth hbad
  case tpiv =>
    exact group_wave_rule (g := waveTpiv) (G := fun c _ x => c.putD64 x (pivotWord p x)) (fun _ _ => rfl) (fun c _ x => c.putD64_same x _ _)
      (fun _ _ _ => rfl) fun c s fb ⟨ht, hy, hp⟩ _ => hp ▸ waveTpiv_run (s := s.withFibres fb) ht hy
  case mwait =>
    intro w s wv fs f h ⟨ht, hops, hstoring, hdues⟩
    have hbegun := Ready.begun_all h.1 (P := fun g => t.owns g.id.crew = true → ∀ d ∈ g.dues, d.1.kind ≠ 3) (fun _ hg => hg) hdues
    refine ends_wave (s1 := s.begun (issueCtx .mwait w s wv fs f.pc)) h (perWave_run ?_) rfl (setFibres_waves _ s) (setFibres_same _ s)
    rw [begun_eq] at hbegun ⊢
    exact waveMwait_run (s := s.withFibres _) ht hops hstoring hbegun

end Sys2Proof.Machine
end

section
/-! TLD, TST and TCB (18 R380 to R382): a tile's rows in the scratchpad, and a tile of one row in a line of device memory that the L1
holds. -/

namespace Sys2Proof.Machine

/-! ### Effects over lists that leave the device as it is -/

section
variable {α β : Type} {s t : State}

theorem forM_quiet {l : List α} {f : α → M Unit} (h : ∀ a ∈ l, (f a).run s = .ok ((), s)) : (forM_ l f).run s = .ok ((), s) := by
  induction l with
  | nil => rfl
  | cons a as ih => exact (bind_ok (h a List.mem_cons_self)).trans (ih fun b hb => h b (List.mem_cons_of_mem _ hb))

theorem mapM_quiet {l : List α} {f : α → M β} {g : α → β} (h : ∀ a ∈ l, (f a).run s = .ok (g a, s)) : (mapM_ l f).run s = .ok (l.map g, s) := by
  induction l with
  | nil => rfl
  | cons a as ih =>
    unfold mapM_
    rw [bind_ok (h a List.mem_cons_self), bind_ok (ih fun b hb => h b (List.mem_cons_of_mem _ hb))]
    rfl

/-- An effect over one element. -/
theorem mapM_one {a : α} {f : α → M β} {b : β} (h : (f a).run s = .ok (b, t)) : (mapM_ [a] f).run s = .ok ([b], t) := by
  unfold mapM_
  rw [bind_ok h]
  rfl

/-- An access without a fault is answered with its value. -/
theorem deferring_ok {x : M α} {v : α} (h : x.run s = .ok (v, t)) : (deferring x).run s = .ok (.ok v, t) := by
  unfold deferring
  rw [bind_get, h]
  rfl

end

/-! ### Rows of the scratchpad (18 R380) -/

section
variable {s : State} {c : Ctx} {t : Team} {x : Tile} {n base : Nat} {stride : Int} {off : Word} {p : Path}

/-- The address of a row of the scratchpad form. -/
def spRow (base : Nat) (stride : Int) (i : Nat) : Nat := (((base : Int) + i * stride) % 2 ^ 32).toNat

theorem rowBytesM_run (h : x.cols * x.wbits % 8 = 0) : (rowBytesM x).run s = .ok (x.cols * x.wbits / 8, s) := by
  unfold rowBytesM
  rw [bind_ok (shapeM_run (beq_iff_eq.mpr h) 0)]
  rfl

theorem aligned_stride (hbase : base % 4 = 0) (hstride : stride % 4 = 0) : (base % 4 == 0 && stride % 4 == 0) = true := by
  simp [hbase, hstride]

theorem spRows_run {rows : Nat} (hbase : base % 4 = 0) (hstride : stride % 4 = 0) (hfit : ∀ i, i < rows → spRow base stride i + n ≤ t.spSize) :
    (spRows t base stride rows n).run s = .ok ((List.range rows).map (spRow base stride), s) := by
  unfold spRows
  rw [bind_check (aligned_stride hbase hstride)]
  refine (bind_ok (forM_quiet fun a ha => ?_)).trans rfl
  obtain ⟨i, hi, rfl⟩ := List.mem_map.mp ha
  exact checkM_true (decide_eq_true (hfit i (List.mem_range.mp hi)))

/-- The rows that a tile reads from the scratchpad. -/
theorem tileRead_sp (hform : globalForm c.w = false) (hbytes : x.cols * x.wbits % 8 = 0) (hb : (c.a c.lead + off).toNat = base)
    (hbase : base % 4 = 0) (hstride : c.stride % 4 = 0)
    (hrows : ∀ i, i < x.rows → spRow base c.stride i + x.cols * x.wbits / 8 ≤ t.spSize ∧ t.bad (spRow base c.stride i) (x.cols * x.wbits / 8) = false) :
    (tileRead c t x off p).run s = .ok ((x.cols * x.wbits / 8,
      .ok ((List.range x.rows).map (fun i => t.sp.getN (spRow base c.stride i) (x.cols * x.wbits / 8)))), s) := by
  unfold tileRead
  rw [bind_ok (rowBytesM_run hbytes), bind_ok whoM_run, hform, if_neg Bool.false_ne_true, hb,
    bind_ok (spRows_run hbase hstride fun i hi => (hrows i hi).1)]
  have hsound : (forM_ ((List.range x.rows).map (spRow base c.stride)) (fun a => spSound t a (x.cols * x.wbits / 8))).run s = .ok ((), s) :=
    forM_quiet fun a ha => by
      obtain ⟨i, hi, rfl⟩ := List.mem_map.mp ha
      exact spSound_run (hrows i (List.mem_range.mp hi)).2
  have hread := deferring_ok ((bind_ok hsound (g := fun _ => pure (((List.range x.rows).map (spRow base c.stride)).map
    (fun a => t.sp.getN a (x.cols * x.wbits / 8))))).trans rfl)
  refine (bind_ok hread).trans ?_
  rw [List.map_map]
  rfl

/-- A team after rows of bytes have been stored in its scratchpad. -/
def Team.wroteRows (t : Team) (n : Nat) (rows : List (Nat × Nat)) : Team := rows.foldl (fun t p => t.wrote p.1 n (t.sp.setN p.1 n p.2)) t

/-- Bytes stored in a scratchpad leave the team's name and its tiles. -/
theorem Team.wroteRows_keeps (t : Team) (n : Nat) (rows : List (Nat × Nat)) :
    (t.wroteRows n rows).launch = t.launch ∧ (t.wroteRows n rows).id = t.id ∧ (t.wroteRows n rows).tiles = t.tiles := by
  induction rows generalizing t with
  | nil => exact ⟨rfl, rfl, rfl⟩
  | cons r rs ih => exact ih (t.wrote r.1 n (t.sp.setN r.1 n r.2))

/-- What enters the tile path depends on the team's name and tiles alone. -/
theorem State.pushedTile_team {u : Team} (hkeeps : u.launch = t.launch ∧ u.id = t.id ∧ u.tiles = t.tiles) (reads : List Nat)
    (writes : List (Nat × Tile)) (flags : Word) (fault : Option Due) : s.pushedTile c u reads writes flags fault = s.pushedTile c t reads writes flags fault := by
  obtain ⟨hlaunch, hid, htiles⟩ := hkeeps
  have hbad : u.badTile = t.badTile := by
    funext k
    unfold Team.badTile
    rw [htiles]
  unfold State.pushedTile
  rw [hlaunch, hid, htiles, hbad]

end

/-! ### A row within one line of device memory (18 R380) -/

section
variable {s u : State} {c : Ctx} {t : Team} {x : Tile} {n v : Nat} {va : DWord} {e : TlbEntry} {l : L1Line} {who : Who} {write : Bool} {p : Path}

/-- A translation that the core's walk-ahead TLB holds as device memory; a write grants the page. -/
theorem translate_ahead (hva : va.toNat < 2 ^ 51) (he : who.engine = true)
    (hf : (s.core who.core).walkAhead.find? (fun e => e.hits who.queue (pageOf va) && (!write || e.w)) = some e) (hl : e.loc = 0) (hp : e.poison = false) :
    (translate who va write).run s = .ok (e.place va, if write then s.granted e va else s) := by
  have hc : (va.toNat / 2 ^ 51 == 0) = true := by rw [beq_iff_eq]; omega
  unfold translate
  rw [bind_check hc, bind_get]
  dsimp only
  rw [if_pos he, hf]
  dsimp only
  rw [bind_check (by rw [hp]; rfl), bind_pure', hl]
  cases write
  · rfl
  · exact bind_modify

/-- Bytes within one line are one part. -/
theorem linesFrom_one {a n : Nat} (hn : 0 < n) (hfit : a % 64 + n ≤ 64) : linesFrom n a n = [(a, n)] := by
  obtain ⟨m, rfl⟩ : ∃ m, n = m + 1 := ⟨n - 1, by omega⟩
  have hk : min (m + 1) (64 - a % 64) = m + 1 := by omega
  have hrest : ∀ fuel, linesFrom fuel (a + (m + 1)) 0 = [] := fun fuel => by cases fuel <;> rfl
  unfold linesFrom
  simp only [beq_iff_eq, Nat.succ_ne_zero, if_false, hk, Nat.sub_self, hrest]

/-- Bytes of a line are a number of as many digits. -/
theorem lineBytes_mod (d : BitVec 512) (k n : Nat) : lineBytes d k n % 2 ^ (8 * n) = lineBytes d k n := Nat.mod_mod _ _

/-- A row within one line lies in one view. -/
theorem RowAhead.inView (h : RowAhead s c va n write e) : (checkRange va n).run s = .ok ((), s) := by
  obtain ⟨hva, hn, hfit, -⟩ := h
  exact checkRange_run (.inr ⟨by omega, by omega⟩)

theorem globalRows_one {stride : Int} (hrow : (checkRange va n).run s = .ok ((), s)) (hal : va.toNat % 4 = 0) (hstride : stride % 4 = 0) :
    (globalRows va stride 1 n).run s = .ok ([va], s) := by
  have hrows : (List.range 1).map (fun (i : Nat) => va + BitVec.ofInt 64 (i * stride)) = [va] := by
    show [va + BitVec.ofInt 64 (((0 : Nat) : Int) * stride)] = [va]
    rw [Int.natCast_zero, Int.zero_mul]
    exact congrArg (fun d => [d]) (BitVec.add_zero va)
  unfold globalRows
  dsimp only
  rw [hrows, bind_ok (forM_quiet fun a ha => by cases List.mem_singleton.mp ha; exact hrow), bind_check (by simp [hal, hstride])]
  rfl

theorem heldRows_run (h : ∀ f ∈ c.act, f.held = []) (rows : List DWord) (n : Nat) : (heldRows c rows n).run s = .ok ((), s) :=
  forM_quiet fun f hf => forM_quiet fun _ _ => heldClear_run (h f hf)

/-- A row within one line is planned as one piece. -/
theorem planRows_one (h : RowAhead s c va n write e) (hwho : who.core = c.core ∧ who.queue = s.queueOf c.launch) :
    (planRows who [va] n write).run s = .ok ([[(va, n, e.place va)]], if write then s.granted e va else s) := by
  obtain ⟨hva, hn, hfit, hfind, hloc, hpoison, -, hview⟩ := h
  obtain ⟨hcore, hqueue⟩ := hwho
  rw [← hcore, ← hqueue] at hfind
  have hview' : (e.place va).view = true →
      ((if write then s.granted e va else s).mem.regionAt (e.place va).pa).isSome = true := fun hv => by
    cases write with
    | false => exact hview hv
    | true => exact (congrArg Option.isSome (State.granted_regionAt s e va _)).trans (hview hv)
  unfold planRows
  refine mapM_one ?_
  rw [linesFrom_one hn hfit]
  refine mapM_one ?_
  dsimp only
  rw [BitVec.ofNat_toNat, BitVec.setWidth_eq, bind_ok (translate_ahead (who := { who with engine := true }) hva rfl hfind hloc hpoison),
    bind_ok (checkView_run rfl hview')]
  rfl

/-- A planned row that the L1 holds, read in a state whose memory nobody owns. -/
theorem readRows_hit (h : RowAhead s c va n false e) (hcore : who.core = c.core) (hunowned : Unowned s)
    (hl : s.l1Line? c.core (e.line va) = some l) (hsound : SoundL1 s (e.line va) l)
    (hvalid : l.valid &&& byteMask (e.at_ va % 64) n = byteMask (e.at_ va % 64) n) :
    (readRows who .l1 [[(va, n, e.place va)]]).run s
      = .ok ([lineBytes l.data (e.at_ va % 64) n], s.withL1 c.core { l with user := who.user, hint := who.hint }) := by
  obtain ⟨hgrids, hfamilies, hareas⟩ := hunowned
  have hview : (e.place va).view = true → (s.mem.regionAt (e.place va).pa).isSome = true := h.2.2.2.2.2.2.2
  have hread : (readPhys who (e.place va) va n .l1).run s
      = .ok (lineBytes l.data (e.at_ va % 64) n, s.withL1 who.core { l with user := who.user, hint := who.hint }) :=
    readPhys_run hgrids hfamilies hareas (readRaw_l1 rfl hview (l1Read_hit (hcore.symm ▸ hl) hsound hvalid))
  unfold readRows
  refine mapM_one ?_
  unfold readRow
  rw [bind_ok hread, hcore]
  rfl

/-- The row that a tile of one row reads from a line of the L1. -/
theorem tileRead_global {off : Word} (hform : globalForm c.w = true) (hone : x.rows = 1) (hbytes : x.cols * x.wbits % 8 = 0)
    (hva : c.a64 c.lead + .sext off = va) (hal : va.toNat % 4 = 0) (hstride : c.stride % 4 = 0) (hrow : RowAhead s c va (x.cols * x.wbits / 8) false e)
    (hunowned : Unowned s) (hheld : ∀ f ∈ c.act, f.held = []) (hsound : SoundL1 s (e.line va) l) (hl : s.l1Line? c.core (e.line va) = some l)
    (hvalid : l.valid &&& byteMask (e.at_ va % 64) (x.cols * x.wbits / 8) = byteMask (e.at_ va % 64) (x.cols * x.wbits / 8)) :
    (tileRead c t x off .l1).run s
      = .ok ((x.cols * x.wbits / 8, .ok [lineBytes l.data (e.at_ va % 64) (x.cols * x.wbits / 8)]), s.l1Used c c.lead l) := by
  unfold tileRead
  rw [bind_ok (rowBytesM_run hbytes), bind_ok whoM_run, hform, if_pos rfl, hva, hone, bind_ok (globalRows_one hrow.inView hal hstride),
    bind_ok (heldRows_run hheld _ _), bind_ok (planRows_one hrow ⟨rfl, rfl⟩), if_neg Bool.false_ne_true,
    bind_ok (deferring_ok (readRows_hit (who := s.whoOf c c.lead) hrow rfl hunowned hl hsound hvalid))]
  rfl

/-- The row that a tile of one row writes to a line of the L1. -/
theorem writePieces_hit (h : RowAhead s c va n true e) (hcore : who.core = c.core) (hl : s.l1Line? c.core (e.line va) = some l) :
    (writePieces who .l1 [((va, n, e.place va), v)]).run (s.granted e va) = .ok (none, (s.granted e va).withL1 c.core
      { l with data := mergeLine l.data (lineOf (e.at_ va % 64) n v) (byteMask (e.at_ va % 64) n)
               valid := l.valid ||| byteMask (e.at_ va % 64) n, dirty := l.dirty ||| byteMask (e.at_ va % 64) n
               user := who.user, poison := l.poison && byteMask (e.at_ va % 64) n != BitVec.allOnes 64, hint := who.hint }) := by
  have hview : (e.place va).view = true → ((s.granted e va).mem.regionAt (e.place va).pa).isSome = true := fun hv =>
    (congrArg Option.isSome (State.granted_regionAt s e va _)).trans (h.2.2.2.2.2.2.2 hv)
  have hwrite := writePhys_l1 (who := who) (va := va) (n := n) (v := v) rfl hview (l1Write_hit (hcore.symm ▸ hl))
  unfold writePieces
  rw [bind_ok (deferring_ok hwrite), hcore]
  rfl

end

/-! ### The instructions -/

section
variable {s : State} {c : Ctx} {t : Team} {x : Tile} {n id : Nat} {rows : List Nat} {v : State}

theorem waveTld_run (ht : s.teamOf? c.lead.id.crew = some t) (hx : TileAt s t c.w.d.n.toNat x)
    (hread : (tileRead c t x c.w.imm (hintPath c.w.mod)).run s = .ok ((n, .ok rows), v)) (hv : v.teamOf? c.lead.id.crew = some t) : (waveTld c).run s
      = .ok ((), { v.pushedTile c t [] [(c.w.d.n.toNat, x.fill x.size (packNat (8 * n) rows))] 0 none with nextId := v.nextId + 1 }) := by
  unfold waveTld
  rw [bind_ok (teamM_run ht)]
  dsimp only
  rw [bind_ok (hx.tileM_run 1), bind_ok hx.free, bind_ok hread]
  exact namedPush_run hv

/-- The elements that a row of 4-bit codes names in a codebook. -/
def Team.decoded (t : Team) (k cols v : Nat) : List Nat := (unpackNat 4 cols v).map (fun e => ((t.book k).getD e 0).toNat)

theorem waveTcb_run (ht : s.teamOf? c.lead.id.crew = some t) (hx : TileAt s t c.w.d.n.toNat x)
    (hwidth : x.width = 2) (hk : (c.c4 c.lead).toNat < 8)
    (hread : (tileRead c t { x with width := 0 } 0 .l1).run s = .ok ((n, .ok rows), v)) (hv : v.teamOf? c.lead.id.crew = some t) : (waveTcb c).run s
      = .ok ((), { v.pushedTile c t [bookRead (c.c4 c.lead).toNat]
          [(c.w.d.n.toNat, x.setTable (rows.map (fun r => t.decoded (c.c4 c.lead).toNat x.cols (r % 2 ^ (8 * n)))))] 0 none
          with nextId := v.nextId + 1 }) := by
  unfold waveTcb
  rw [bind_ok (teamM_run ht)]
  dsimp only
  rw [bind_ok (hx.tileM_run 1), bind_check (decide_eq_true hk), bind_ok (shapeM_run (beq_iff_eq.mpr hwidth) 0), bind_ok hx.free, bind_ok hread]
  exact namedPush_run hv

/-- A state from which an instruction has taken a name. -/
abbrev State.named (s : State) : State := { s with nextId := s.nextId + 1 }

/-- An instruction that stores in the scratchpad enters its unit. -/
theorem putPush_run {u : Team} {reads : List Nat} {writes : List (Nat × Tile)} {flags : Word} {fault : Option Due}
    (ht : s.teamOf? c.lead.id.crew = some t) (hkeeps : u.launch = t.launch ∧ u.id = t.id ∧ u.tiles = t.tiles) :
    (do putT u; pushTile c s.nextId reads writes flags fault : M Unit).run s.named
      = .ok ((), { (s.setTeam u).pushedTile c t reads writes flags fault with nextId := s.nextId + 1 }) := by
  have hu : (s.named.setTeam u).teamOf? c.lead.id.crew = some u := State.teamOf?_setTeam (s := s.named) ht hkeeps.1 hkeeps.2.1
  rw [← State.pushedTile_team hkeeps]
  exact pushTile_run hu

theorem waveTst_sp {base : Nat} (ht : s.teamOf? c.lead.id.crew = some t) (hx : TileAt s t c.w.d.n.toNat x) (hgood : t.badTile c.w.d.n.toNat = false)
    (hform : globalForm c.w = false) (hbytes : x.cols * x.wbits % 8 = 0) (hb : (c.a c.lead + c.w.imm).toNat = base) (hbase : base % 4 = 0)
    (hstride : c.stride % 4 = 0) (hrows : ∀ i, i < x.rows → spRow base c.stride i + x.cols * x.wbits / 8 ≤ t.spSize) :
    (waveTst c).run s = .ok ((), { (s.setTeam (t.wroteRows (x.cols * x.wbits / 8) (((List.range x.rows).map (spRow base c.stride)).zip
      (x.rowData (x.cols * x.wbits / 8))))).pushedTile c t [c.w.d.n.toNat] [] 0 none with nextId := s.nextId + 1 }) := by
  unfold waveTst
  rw [bind_ok (teamM_run ht)]
  dsimp only
  rw [bind_ok (hx.tileM_run 1), bind_ok hx.free, bind_ok (rowBytesM_run hbytes), bind_ok whoM_run, bind_ok (newIdM_run (s := s)), hform, if_neg Bool.false_ne_true,
    hb, bind_ok (spRows_run (s := { s with nextId := s.nextId + 1 }) hbase hstride hrows), hgood]
  exact putPush_run ht (t.wroteRows_keeps _ _)

theorem waveTst_global {va : DWord} {e : TlbEntry} {l : L1Line} (ht : s.teamOf? c.lead.id.crew = some t) (hx : TileAt s t c.w.d.n.toNat x)
    (hgood : t.badTile c.w.d.n.toNat = false) (hform : globalForm c.w = true) (hone : x.rows = 1) (hbytes : x.cols * x.wbits % 8 = 0)
    (hva : c.a64 c.lead + .sext c.w.imm = va) (hal : va.toNat % 4 = 0) (hstride : c.stride % 4 = 0)
    (hrow : RowAhead s c va (x.cols * x.wbits / 8) true e) (hheld : ∀ f ∈ c.act, f.held = []) (hhint : modField c.w.mod 6 2 ≠ 3)
    (hl : s.l1Line? c.core (e.line va) = some l) : (waveTst c).run s = .ok ((), { ((s.granted e va).withL1 c.core
      { l with data := mergeLine l.data (lineOf (e.at_ va % 64) (x.cols * x.wbits / 8) (x.bits.toNat % 2 ^ (8 * (x.cols * x.wbits / 8)))) (byteMask (e.at_ va % 64) (x.cols * x.wbits / 8))
               valid := l.valid ||| byteMask (e.at_ va % 64) (x.cols * x.wbits / 8), dirty := l.dirty ||| byteMask (e.at_ va % 64) (x.cols * x.wbits / 8)
               user := (s.whoOf c c.lead).user, hint := (s.whoOf c c.lead).hint
               poison := l.poison && byteMask (e.at_ va % 64) (x.cols * x.wbits / 8) != BitVec.allOnes 64 }).pushedTile c t [c.w.d.n.toNat] [] 0 none
        with nextId := s.nextId + 1 }) := by
  have hdata : x.rowData (x.cols * x.wbits / 8) = [x.bits.toNat % 2 ^ (8 * (x.cols * x.wbits / 8))] := by
    unfold Tile.rowData
    rw [hone]
    rfl
  unfold waveTst
  rw [bind_ok (teamM_run ht)]
  dsimp only
  rw [bind_ok (hx.tileM_run 1), bind_ok hx.free, bind_ok (rowBytesM_run hbytes), bind_ok whoM_run, bind_ok newIdM_run, hform, if_pos rfl, hone, Ctx.off, hva,
    bind_ok (globalRows_one (s := s.named) (RowAhead.inView (s := s.named) hrow) hal hstride), bind_ok (heldRows_run (s := s.named) hheld _ _),
    bind_ok (planRows_one (s := s.named) hrow ⟨rfl, rfl⟩), if_pos rfl, hgood, hdata, hintPath_l1 hhint]
  have hpieces : pieceVals [(va, x.cols * x.wbits / 8, e.place va)] (x.bits.toNat % 2 ^ (8 * (x.cols * x.wbits / 8)))
      = [((va, x.cols * x.wbits / 8, e.place va), x.bits.toNat % 2 ^ (8 * (x.cols * x.wbits / 8)))] := by
    show [(_, _ % _)] = _
    rw [Nat.mod_mod]
  have hwrite := writePieces_hit (s := s.named) (who := { s.whoOf c c.lead with tile := some c.w.d.n.toNat })
    (v := x.bits.toNat % 2 ^ (8 * (x.cols * x.wbits / 8))) hrow rfl hl
  show ((writePieces { s.whoOf c c.lead with tile := some c.w.d.n.toNat } .l1 (pieceVals [(va, x.cols * x.wbits / 8, e.place va)]
    (x.bits.toNat % 2 ^ (8 * (x.cols * x.wbits / 8))) ++ [])) >>= _).run (s.named.granted e va) = _
  rw [hpieces, List.append_nil, bind_ok hwrite]
  exact pushTile_run (s := State.withL1 (s.named.granted e va) c.core _) ht

end

/-! ### The statement -/

/-- Settles O44: rows in the scratchpad are read or stored one after another, a row within one line of device memory is one access to the L1,
and what was read or stored enters the tile path. -/
theorem tileTransfers : Obligations.TileTransfers := by
  unfold Obligations.TileTransfers
  refine ⟨fun t x => ?tld, fun t x => ?tst, fun t x => ?tcb, fun t x e l => ?tldGlobal, fun t x e l => ?tstGlobal, fun t x e l => ?tcbGlobal⟩
  case tld =>
    exact push_rule (g := waveTld) (fun _ _ => rfl) (fun _ _ _ => rfl)
      fun c s fb ⟨ht, hx, hform, hbytes, hbase, hstride, hrows⟩ _ =>
      waveTld_run (s := s.withFibres fb) ht hx (tileRead_sp hform hbytes rfl hbase hstride hrows) ht
  case tst =>
    exact push_rule (g := waveTst) (fun _ _ => rfl) (fun _ _ _ => rfl)
      fun c s fb ⟨ht, hx, hgood, hform, hbytes, hbase, hstride, hrows⟩ _ =>
      waveTst_sp (s := s.withFibres fb) ht hx hgood hform hbytes rfl hbase hstride hrows
  case tcb =>
    refine push_rule (g := waveTcb) (fun _ _ => rfl) (fun _ _ _ => rfl)
      fun c s fb ⟨ht, hx, hform, hbytes, hwidth, hk, hbase, hstride, hrows⟩ _ =>
      waveTcb_run (s := s.withFibres fb) ht hx hwidth hk (tileRead_sp (x := { x with width := 0 }) hform hbytes (by simp) hbase hstride hrows) ht
  case tldGlobal =>
    exact push_rule (g := waveTld) (fun _ _ => rfl) (fun _ _ _ => rfl)
      fun c s fb ⟨ht, hx, hform, hone, hbytes, hal, hstride, hrow, hunowned, hheld, hsound, hhint, hl, hvalid⟩ _ =>
      waveTld_run (s := s.withFibres fb) (v := (s.withFibres fb).l1Used c c.lead l) ht hx (by
        rw [hintPath_l1 hhint]
        exact tileRead_global (s := s.withFibres fb) hform hone hbytes rfl hal hstride hrow hunowned hheld hsound hl hvalid) ht
  case tstGlobal =>
    exact push_rule (g := waveTst) (fun _ _ => rfl) (fun _ _ _ => rfl)
      fun c s fb ⟨ht, hx, hform, hone, hbytes, hal, hstride, hrow, hgood, hheld, hhint, hl⟩ _ =>
      waveTst_global (s := s.withFibres fb) ht hx hgood hform hone hbytes rfl hal hstride hrow hheld hhint hl
  case tcbGlobal =>
    refine push_rule (g := waveTcb) (fun _ _ => rfl) (fun _ _ _ => rfl)
      fun c s fb ⟨ht, hx, hform, hone, hbytes, hwidth, hk, hal, hstride, hrow, hunowned, hheld, hsound, hl, hvalid⟩ _ =>
      (waveTcb_run (s := s.withFibres fb) ht hx hwidth hk (tileRead_global (s := s.withFibres fb) (x := { x with width := 0 })
        hform hone hbytes (BitVec.add_zero _) hal hstride hrow hunowned hheld hsound hl hvalid) ht).trans ?_
    rw [List.map_singleton, Team.decoded, show _ = _ from lineBytes_mod _ _ _]
    rfl

end Sys2Proof.Machine
end

section
/-! TSCAL, TADD and TRED (18 R383), and the factorisations, solves and products over matrix operands (18 R392 to R397). -/

namespace Sys2Proof.Machine

section
variable {s : State} {c : Ctx} {t : Team} {x y z : Tile}

/-! ### Elementwise operations (18 R383) -/

/-- Free tiles of two lists are free together. -/
theorem tilesFree_cons {n : Nat} {ns : List Nat} (hx : TileAt s t n x) (h : ∀ k ∈ ns, k ∉ s.tilesBusy t ∧ k ∉ s.tilesStoring t []) :
    ∀ k ∈ n :: ns, k ∉ s.tilesBusy t ∧ k ∉ s.tilesStoring t [] := List.forall_mem_cons.mpr ⟨hx.2.2, h⟩

theorem waveTscal_run (ht : s.teamOf? c.lead.id.crew = some t) (hx : TileAt s t c.w.d.n.toNat x) (hy : TileAt s t c.w.a.n.toNat y)
    (hwidth : y.width = 3) (hshape : sameShape x y = true) {r : List (List Nat) × Word}
    (hr : eachElem (fun u _ => fp32.mul c.tileR u (c.b c.lead).toNat) y.table y.table = r) : (waveTscal c).run s
      = .ok ((), { s.pushedTile c t [c.w.a.n.toNat] [(c.w.d.n.toNat, x.setTable r.1)] r.2 none with nextId := s.nextId + 1 }) := by
  unfold waveTscal
  rw [bind_ok (teamM_run ht)]
  dsimp only
  rw [bind_ok (hx.tileM_run 1), bind_ok (hy.tileM_run 2), bind_ok (shapeM_run (beq_iff_eq.mpr hwidth) 1), bind_ok (shapeM_run hshape 0),
    bind_ok (hx.free₂ hy), hr]
  exact tileDone_run ht

theorem waveTadd_run (ht : s.teamOf? c.lead.id.crew = some t) (hx : TileAt s t c.w.d.n.toNat x) (hy : TileAt s t c.w.a.n.toNat y)
    (hz : TileAt s t c.w.b.n.toNat z) (hwidth : y.width = 3) (hzy : sameShape z y = true) (hxy : sameShape x y = true)
    {r : List (List Nat) × Word} (hr : eachElem (fp32.add c.tileR) y.table z.table = r) : (waveTadd c).run s
      = .ok ((), { s.pushedTile c t [c.w.a.n.toNat, c.w.b.n.toNat] [(c.w.d.n.toNat, x.setTable r.1)] r.2 none with nextId := s.nextId + 1 }) := by
  have hfree : (tilesFree c t [c.w.d.n.toNat, c.w.a.n.toNat, c.w.b.n.toNat]).run s = .ok ((), s) :=
    tilesFree_run (tilesFree_cons hx (tilesFree_cons hy (tilesFree_cons hz (List.forall_mem_nil _))))
  unfold waveTadd
  rw [bind_ok (teamM_run ht)]
  dsimp only
  rw [bind_ok (hx.tileM_run 1), bind_ok (hy.tileM_run 2), bind_ok (hz.tileM_run 3), bind_ok (shapeM_run (beq_iff_eq.mpr hwidth) 1),
    bind_ok (shapeM_run hzy 2), bind_ok (shapeM_run hxy 0), bind_ok hfree, hr]
  exact tileDone_run ht

theorem waveTred_run (ht : s.teamOf? c.lead.id.crew = some t) (hx : TileAt s t c.w.d.n.toNat x) (hy : TileAt s t c.w.a.n.toNat y)
    (hwidth : y.width = 3) (hrows : x.rows = y.rows) (hcols : x.cols = 1) (hwide : x.width = 3) (hne : c.w.d.n.toNat ≠ c.w.a.n.toNat)
    {rs : List FRes} (hr : y.table.map (fun r => treeSum fp32 c.tileR 7 (r.map some)) = rs) : (waveTred c).run s
      = .ok ((), { s.pushedTile c t [c.w.a.n.toNat] [(c.w.d.n.toNat, x.setTable (rs.map (fun r => [r.1])))]
          (rs.foldl (fun w r => w ||| r.2) 0) none with nextId := s.nextId + 1 }) := by
  unfold waveTred
  rw [bind_ok (teamM_run ht)]
  dsimp only
  rw [bind_ok (hx.tileM_run 1), bind_ok (hy.tileM_run 2), bind_ok (shapeM_run (beq_iff_eq.mpr hwidth) 1),
    bind_ok (shapeM_run (by simp [hrows, hcols, hwide, hne]) 0), bind_ok (hx.free₂ hy), hr]
  exact tileDone_run ht

end

/-- Settles O45: tiles that are free and have the shapes pass the checks, and the elements computed enter the tile path. -/
theorem tileArithmetic : Obligations.TileArithmetic := by
  unfold Obligations.TileArithmetic
  refine ⟨fun t x y => ?tscal, fun t x y z => ?tadd, fun t x y => ?tred⟩
  case tscal =>
    exact push_rule (g := waveTscal) (fun _ _ => rfl) (fun _ _ _ => rfl) fun c s fb ⟨ht, hx, hy, hwidth, hshape⟩ _ =>
      waveTscal_run (s := s.withFibres fb) ht hx hy hwidth hshape rfl
  case tadd =>
    exact push_rule (g := waveTadd) (fun _ _ => rfl) (fun _ _ _ => rfl) fun c s fb ⟨ht, hx, hy, hz, hwidth, hzy, hxy⟩ _ =>
      waveTadd_run (s := s.withFibres fb) ht hx hy hz hwidth hzy hxy rfl
  case tred =>
    exact push_rule (g := waveTred) (fun _ _ => rfl) (fun _ _ _ => rfl) fun c s fb ⟨ht, hx, hy, hwidth, hrows, hcols, hwide, hne⟩ _ =>
      waveTred_run (s := s.withFibres fb) ht hx hy hwidth hrows hcols hwide hne rfl

/-! ### Matrix operands (18 R392) -/

section
variable {s : State} {c : Ctx} {t : Team} {pair : Bool} {n slot : Nat} {ts : List Tile}

/-- The tiles that an operand names are read in order. -/
theorem mapM_tileM {ns : List Nat} (htiles : ns.map (fun k => t.tiles[k]?) = ts.map some) (hallot : ∀ x ∈ ts, x.allot = true) :
    (mapM_ ns (fun k => tileM t k slot)).run s = .ok (ts, s) := by
  induction ns generalizing ts with
  | nil =>
    cases ts with
    | nil => rfl
    | cons x xs => nomatch htiles
  | cons k ks ih =>
    cases ts with
    | nil => nomatch htiles
    | cons x xs =>
      obtain ⟨hx, hxs⟩ := List.cons.inj htiles
      obtain ⟨hallot, hallots⟩ := List.forall_mem_cons.mp hallot
      unfold mapM_
      rw [bind_ok (tileM_run hx hallot slot), bind_ok (ih hxs hallots)]
      rfl

theorem MatrixAt.matM_run (h : MatrixAt s t pair n ts) (slot : Nat) : (matM t pair n slot).run s = .ok (ts, s) := mapM_tileM h.1 h.2.1

/-- A matrix operand is one tile or two. -/
theorem MatrixAt.shape (h : MatrixAt s t pair n ts) : (∃ x, ts = [x]) ∨ ∃ x y, ts = [x, y] := by
  have hlen : (matTiles pair n).length = ts.length := by simpa using congrArg List.length h.1
  cases pair with
  | false => exact .inl (List.length_eq_one_iff.mp hlen.symm)
  | true => exact .inr (List.length_eq_two.mp hlen.symm)

theorem MatrixAt.matCheck_run (h : MatrixAt s t pair n ts) (place : Nat) : (matCheck ts place).run s = .ok ((), s) := by
  obtain ⟨x, rfl⟩ | ⟨x, y, rfl⟩ := h.shape <;> obtain ⟨-, -, -, hwidth, hshape⟩ := h
  · exact (bind_ok (shapeM_run (beq_iff_eq.mpr (hwidth x List.mem_cons_self)) place)).trans rfl
  · obtain ⟨hcols, hfirst, hsecond⟩ := hshape x y rfl
    refine (bind_ok (shapeM_run (beq_iff_eq.mpr (hwidth x List.mem_cons_self)) place)).trans (shapeM_run ?_ 4)
    simp [hwidth y (List.mem_cons_of_mem _ List.mem_cons_self), hcols, ← hfirst, ← hsecond]

/-! ### Factorisations (18 R392 to R395) -/

/-- What the columns of an operand become. -/
def Team.factored (t : Team) (chol : Bool) (ts : List Tile) : Factor :=
  (List.range (matRows ts)).foldl ((if chol then cholStep else luStep) t.pivclamp.toNat (matRows ts)) { a := matOf ts, perm := List.range (matRows ts) }

theorem waveFactor_run {chol : Bool} {f : Factor} (ht : s.teamOf? c.lead.id.crew = some t) (hts : MatrixAt s t (modBit c.w.mod 0) c.w.d.n.toNat ts)
    (hsquare : matCols ts = matRows ts) (hrows : matRows ts ≤ 64) (hf : t.factored chol ts = f) : (waveFactor chol c).run s
      = .ok ((), { s.pushedTile c t (matTiles (modBit c.w.mod 0) c.w.d.n.toNat)
        (matPut (modBit c.w.mod 0) c.w.d.n.toNat ts (if chol then lowerOnly f.a else f.a)
          (some { perm := f.perm, zero := f.zero, n := matRows ts, clamped := f.clamped, chol := chol })) f.flags
        (if f.zero.isSome && c.lead.zptrap then some { cause := arithZeroPivot 0 } else none) with nextId := s.nextId + 1 }) := by
  unfold Team.factored at hf
  unfold waveFactor
  rw [bind_ok (teamM_run ht)]
  dsimp only
  rw [bind_ok (hts.matM_run 1), bind_ok (hts.matCheck_run 0), bind_ok (shapeM_run (by simp [hsquare, hrows]) 0), bind_ok (tilesFree_run hts.2.2.1), hf]
  exact namedPush_run ht

/-- Tiles none of which another list holds. -/
theorem noOverlap {ns ms : List Nat} (h : ∀ k ∈ ns, k ∉ ms) : (!ns.any (fun k => ms.contains k)) = true := by
  simpa using h

/-- The rows that TTRS solves for. -/
def solved (m : Byte) (as ds : List Tile) : Mat × Word :=
  (if (!(modBit m 0)) != modBit m 2 then List.range (matRows as) else (List.range (matRows as)).reverse).foldl
    (solveStep (fun i k => if modBit m 2 then Mat.at (matOf as) k i else Mat.at (matOf as) i k) (modBit m 1)
      ((!(modBit m 0)) != modBit m 2) (matRows as)) (matOf ds, 0)

theorem waveTtrs_run {ds as : List Tile} {r : Mat × Word} (ht : s.teamOf? c.lead.id.crew = some t) (hds : MatrixAt s t (modBit c.w.mod 3) c.w.d.n.toNat ds)
    (has : MatrixAt s t (modBit c.w.mod 3) c.w.a.n.toNat as) (hsquare : matCols as = matRows as) (hrows : matRows as ≤ 64)
    (hsame : matRows ds = matRows as) (hcols : matCols ds ≤ 64)
    (hapart : ∀ k ∈ matTiles (modBit c.w.mod 3) c.w.d.n.toNat, k ∉ matTiles (modBit c.w.mod 3) c.w.a.n.toNat)
    (hr : solved c.w.mod as ds = r) : (waveTtrs c).run s
      = .ok ((), { s.pushedTile c t (matTiles (modBit c.w.mod 3) c.w.a.n.toNat) (matPut (modBit c.w.mod 3) c.w.d.n.toNat ds r.1 none) r.2 none
          with nextId := s.nextId + 1 }) := by
  unfold solved at hr
  unfold waveTtrs
  rw [bind_ok (teamM_run ht)]
  dsimp only
  rw [bind_ok (hds.matM_run 1), bind_ok (has.matM_run 2), bind_ok (has.matCheck_run 1), bind_ok (shapeM_run (by simp [hsquare, hrows]) 1),
    bind_ok (hds.matCheck_run 0), bind_ok (shapeM_run (by simp [hsame, hcols]) 0), bind_check (noOverlap hapart),
    bind_ok (tilesFree_run (List.forall_mem_append.mpr ⟨hds.2.2.1, has.2.2.1⟩)), hr]
  exact tileDone_run ht

theorem waveTmv_run {ds as bs : List Tile} {rs : List (List FRes)} (ht : s.teamOf? c.lead.id.crew = some t) (hpair : modBit c.w.mod 0 = pair)
    (hds : MatrixAt s t pair c.w.d.n.toNat ds) (has : MatrixAt s t pair c.w.a.n.toNat as) (hbs : MatrixAt s t pair c.w.b.n.toNat bs)
    (harows : matRows as ≤ 64) (hacols : matCols as ≤ 64) (hinner : matRows bs = matCols as) (hbcols : matCols bs ≤ 64)
    (hrows : matRows ds = matRows as) (hcols : matCols ds = matCols bs)
    (hapart : ∀ k ∈ matTiles pair c.w.d.n.toNat, k ∉ matTiles pair c.w.a.n.toNat ∧ k ∉ matTiles pair c.w.b.n.toNat)
    (hr : ((matOf as).zip (matOf ds)).map (fun q => mulRow q.1 (matOf bs) q.2) = rs) : (waveTmv c).run s
      = .ok ((), { s.pushedTile c t (matTiles pair c.w.a.n.toNat ++ matTiles pair c.w.b.n.toNat)
          (matPut pair c.w.d.n.toNat ds (rs.map (fun r => r.map Prod.fst)) none) (rs.foldl (fun w r => r.foldl (fun w x => w ||| x.2) w) 0) none
          with nextId := s.nextId + 1 }) := by
  have hnot : ∀ k ∈ matTiles pair c.w.d.n.toNat, k ∉ matTiles pair c.w.a.n.toNat ++ matTiles pair c.w.b.n.toNat := fun k hk hin =>
    (List.mem_append.mp hin).elim (hapart k hk).1 (hapart k hk).2
  unfold waveTmv
  rw [bind_ok (teamM_run ht)]
  dsimp only
  rw [hpair, bind_ok (hds.matM_run 1), bind_ok (has.matM_run 2), bind_ok (hbs.matM_run 3), bind_ok (has.matCheck_run 1),
    bind_ok (shapeM_run (by simp [harows, hacols]) 1), bind_ok (hbs.matCheck_run 2), bind_ok (shapeM_run (by simp [hinner, hbcols]) 2),
    bind_ok (hds.matCheck_run 0), bind_ok (shapeM_run (by simp [hrows, hcols]) 0), bind_check (noOverlap hnot),
    bind_ok (tilesFree_run (List.forall_mem_append.mpr ⟨List.forall_mem_append.mpr ⟨hds.2.2.1, has.2.2.1⟩, hbs.2.2.1⟩)), hr]
  exact tileDone_run ht

end

/-- Settles O47: matrix operands that have their shapes pass the checks, and what the columns or rows become enters the matrix unit. -/
theorem factorisations : Obligations.Factorisations := by
  unfold Obligations.Factorisations
  refine ⟨fun t ts p hp => ?factor, fun t ds as => ?ttrs, fun t ds as bs => ?tmv⟩
  case factor =>
    simp only [List.mem_cons, List.not_mem_nil, or_false] at hp
    obtain rfl | rfl := hp
    · exact push_rule (g := waveFactor false) (fun _ _ => rfl) (fun _ _ _ => rfl) fun c s fb ⟨ht, hts, hsquare, hrows⟩ _ =>
        waveFactor_run (s := s.withFibres fb) ht hts hsquare hrows rfl
    · exact push_rule (g := waveFactor true) (fun _ _ => rfl) (fun _ _ _ => rfl) fun c s fb ⟨ht, hts, hsquare, hrows⟩ _ =>
        waveFactor_run (s := s.withFibres fb) ht hts hsquare hrows rfl
  case ttrs =>
    exact push_rule (g := waveTtrs) (fun _ _ => rfl) (fun _ _ _ => rfl) fun c s fb ⟨ht, hds, has, hsquare, hrows, hsame, hcols, hapart⟩ _ =>
      waveTtrs_run (s := s.withFibres fb) ht hds has hsquare hrows hsame hcols hapart rfl
  case tmv =>
    exact push_rule (g := waveTmv) (fun _ _ => rfl) (fun _ _ _ => rfl)
      fun c s fb ⟨ht, hds, has, hbs, harows, hacols, hinner, hbcols, hrows, hcols, hapart⟩ _ =>
      waveTmv_run (s := s.withFibres fb) ht rfl hds has hbs harows hacols hinner hbcols hrows hcols hapart rfl

end Sys2Proof.Machine
end

section
/-! The matrix multiplications (18 R385 to R391). Their operands' checks read the team's tiles and the instructions in flight, never the fibres. -/

namespace Sys2Proof.Machine

/-! ### Effects that no fibre is in -/

/-- An effect that neither reads the fibres nor changes them. -/
def FibreBlind {α : Type} (x : M α) : Prop := ∀ (s : State) (fb : List Fibre), x.run (s.withFibres fb) = (x.run s).map (fun p => (p.1, p.2.withFibres fb))

namespace FibreBlind

section
variable {α β : Type} {x : M α} {t : Team}

/-- What such an effect answers, it answers whatever fibres there are. -/
theorem run (h : FibreBlind x) {s : State} {v : α} (hx : x.run s = .ok (v, s)) (fb : List Fibre) : x.run (s.withFibres fb) = .ok (v, s.withFibres fb) :=
  (h s fb).trans (by rw [hx]; rfl)

theorem pure (a : α) : FibreBlind (Pure.pure a : M α) := fun _ _ => rfl

theorem trap (e : Cause) (a : DWord) : FibreBlind (trapM e a : M α) := fun _ _ => rfl

theorem bind {g : α → M β} (hx : FibreBlind x) (hg : ∀ a, FibreBlind (g a)) : FibreBlind (x >>= g) := fun s fb => by
  have hb : ∀ s, (x >>= g).run s = (x.run s).bind (fun p => (g p.1).run p.2) := fun _ => rfl
  rw [hb, hb, hx s fb]
  cases x.run s with
  | error e => rfl
  | ok p => exact hg p.1 p.2 fb

/-- Two ways to one value, with one way on from there. -/
theorem branch {b : Prop} [Decidable b] {y : M α} {g : α → M β} (hx : FibreBlind x) (hy : FibreBlind y) (hg : ∀ a, FibreBlind (g a)) :
    FibreBlind (if b then x >>= g else y >>= g) := by
  split
  · exact hx.bind hg
  · exact hy.bind hg

theorem check (b : Bool) (e : Cause) (a : DWord) : FibreBlind (checkM b e a) := by
  unfold checkM
  split
  · exact pure ()
  · exact trap e a

theorem shape (b : Bool) (place : Nat) : FibreBlind (shapeM b place) := check b _ _

theorem map {f : α → M β} (h : ∀ a, FibreBlind (f a)) : ∀ l : List α, FibreBlind (mapM_ l f)
  | [] => pure []
  | a :: as => (h a).bind fun _ => (map h as).bind fun _ => pure _

theorem forAll {f : α → M Unit} (h : ∀ a, FibreBlind (f a)) : ∀ l : List α, FibreBlind (forM_ l f)
  | [] => pure ()
  | a :: as => (h a).bind fun _ => forAll h as

theorem tile (n slot : Nat) : FibreBlind (tileM t n slot) := by
  unfold tileM
  split
  · split
    · exact pure _
    · exact trap _ _
  · exact trap _ _

theorem free (c : Ctx) (ns : List Nat) : FibreBlind (tilesFree c t ns) := fun s fb => by
  have hsame : ns.any (fun n => ((s.withFibres fb).tilesBusy t).contains n || ((s.withFibres fb).tilesStoring t (c.all.map Fibre.id)).contains n)
    = ns.any (fun n => (s.tilesBusy t).contains n || (s.tilesStoring t (c.all.map Fibre.id)).contains n) := rfl
  unfold tilesFree
  rw [bind_get, bind_get, hsame]
  split <;> rfl

theorem sound (a n : Nat) : FibreBlind (spSound t a n) := check _ _ _

theorem block (a n : Nat) : FibreBlind (spBlock t a n) :=
  (check _ _ _).bind fun _ => (check _ _ _).bind fun _ => (sound a n).bind fun _ => pure _

theorem range (a : DWord) (n : Nat) : FibreBlind (checkRange a n) := check _ _ _

theorem record (c : Ctx) : FibreBlind (gatherRecord c t) := block _ _

theorem gatherShape (c : Ctx) : FibreBlind (Machine.gatherShape c t) := (record c).bind fun _ => shape _ _

theorem rows (c : Ctx) : FibreBlind (gatherRows c t) :=
  (gatherShape c).bind fun _ => (record c).bind fun _ => (check _ _ _).bind fun _ => (forAll (fun _ => range _ _) _).bind fun _ =>
    (check _ _ _).bind fun _ => (check _ _ _).bind fun _ => (check _ _ _).bind fun _ => (sound _ _).bind fun _ => pure _

theorem checkOp (m : Byte) (sparse hasB : Bool) (q : Nat) (o : MmaOp) (b md : Option Tile) : FibreBlind (mmaCheckOp m sparse hasB q o b md) := by
  unfold mmaCheckOp
  refine (shape _ _).bind fun _ => (shape _ _).bind fun _ => (shape _ _).bind fun _ => ?_
  have hb : FibreBlind (match b with
    | some x => if hasB then shapeM (x.width == mmaWidth m && x.rows == (if sparse then 16 * (o.a.cols / mmaN m) else o.a.cols)
        && x.cols ≤ (mmaDims (mmaFuse m)).2) (if q == 0 then 2 else 4) else Pure.pure ()
    | none => Pure.pure () : M Unit) := by
    cases b with
    | none => exact pure ()
    | some x =>
      cases hasB with
      | false => exact pure ()
      | true => exact shape _ _
  cases md with
  | none => exact hb
  | some x => exact (shape _ _).bind fun _ => hb

theorem operands (c : Ctx) (sparse hasB : Bool) (scale : Option Nat) {first last : M Unit} (hfirst : FibreBlind first) (hlast : FibreBlind last) :
    FibreBlind (mmaOperands c t sparse hasB scale first last) := by
  unfold mmaOperands
  refine (check _ _ _).bind fun _ => (check _ _ _).bind fun _ => (check _ _ _).bind fun _ => ?_
  refine (map (fun q => (map (fun n => (tile n 1).bind fun _ => pure _) _).bind fun _ => (tile _ _).bind fun _ => pure _) _).bind fun ops => ?_
  refine branch (map (fun _ => tile _ _) _) (pure []) fun metas => branch (map (fun _ => tile _ _) _) (pure []) fun bs => ?_
  refine hfirst.bind fun _ => (forAll (fun p => checkOp _ _ _ _ _ _ _) _).bind fun _ => ?_
  dsimp only
  split
  · exact (shape _ _).bind fun _ => hlast.bind fun _ => (check _ _ _).bind fun _ => (free _ _).bind fun _ => pure _
  · exact hlast.bind fun _ => (check _ _ _).bind fun _ => (free _ _).bind fun _ => pure _

end

end FibreBlind

/-! ### The instructions -/

section
variable {s : State} {c : Ctx} {t : Team} {o : MmaOperands}

theorem waveMma_run {int : Bool} {r : List (Nat × Tile) × Word} (ht : s.teamOf? c.lead.id.crew = some t)
    (ho : (mmaOperands c t false true none).run s = .ok (o, s))
    (hr : mmaAll ((o.ops.zip o.bs).map (fun q => mmaWork c.w.mod int q.1 none none q.2.columns)) = r) :
    (waveMma int c).run s = .ok ((), { s.pushedTile c t o.srcs r.1 r.2 none with nextId := s.nextId + 1 }) := by
  unfold waveMma
  rw [bind_ok (teamM_run ht), bind_ok ho]
  dsimp only
  rw [hr]
  exact tileDone_run ht

/-- The accumulators of MMAS. -/
def MmaOperands.sparse (o : MmaOperands) (m : Byte) : List (Nat × Tile) × Word :=
  mmaAll ((o.ops.zip (o.bs.zip o.metas)).map (fun q => mmaWork m (mmaIn m ≥ 4) q.1 (some (mmaN m, q.2.2.table)) none q.2.1.columns))

theorem waveMmas_run (ht : s.teamOf? c.lead.id.crew = some t) (ho : (mmaOperands c t true true none).run s = .ok (o, s)) :
    (waveMmas c).run s = .ok ((), { (if o.metas.all (metaOk (mmaN c.w.mod)) then
        s.pushedTile c t o.srcs (o.sparse c.w.mod).1 (o.sparse c.w.mod).2 none
      else s.pushedTile c t o.srcs ((o.ops.map MmaOp.acc).flatten) 0 (some { cause := arithSpMeta 4 })) with nextId := s.nextId + 1 }) := by
  unfold waveMmas
  rw [bind_ok (teamM_run ht), bind_ok ho]
  dsimp only
  cases h : o.metas.all (metaOk (mmaN c.w.mod)) with
  | false => exact namedPush_run ht
  | true => exact tileDone_run ht

/-- The accumulators of MMAQ, with the scales of a tile. -/
def MmaOperands.scaled (o : MmaOperands) (m : Byte) (sc : Tile) : List (Nat × Tile) × Word :=
  let base := fun (q : Nat) => if mmaFuse m == 3 then 32 * q else 0
  mmaAll (((List.range o.ops.length).zip (o.ops.zip o.bs)).map (fun q => mmaWork m false q.2.1 none
    (some (fun i g => (sc.table.getD (2 * g) []).getD (base q.1 + i) 0, fun j g => (sc.table.getD (2 * g + 1) []).getD (base q.1 + j) 0)) q.2.2.columns))

theorem waveMmaq_run {sc : Tile} (ht : s.teamOf? c.lead.id.crew = some t) (hsc : t.tiles[c.w.c.n.toNat]? = some sc) (hallot : sc.allot = true)
    (ho : (mmaOperands c t false true (some c.w.c.n.toNat)).run s = .ok (o, s)) :
    (waveMmaq c).run s = .ok ((), { s.pushedTile c t o.srcs (o.scaled c.w.mod sc).1 (o.scaled c.w.mod sc).2 none with nextId := s.nextId + 1 }) := by
  unfold waveMmaq
  rw [bind_ok (teamM_run ht)]
  dsimp only
  rw [bind_ok (tileM_run hsc hallot 3), bind_ok ho]
  exact tileDone_run ht

/-- The accumulators of MMAG, with the rows that it gathers as B's columns. -/
def MmaOperands.gathered (o : MmaOperands) (m : Byte) (rows : List Nat) : List (Nat × Tile) × Word :=
  let cols := rows.map (fun v => unpackNat (4 * 2 ^ (mmaWidth m).toNat) (mmaK m) v)
  let mine := fun (q : Nat) => if mmaFuse m == 3 then (cols.drop (32 * q)).take 32 else cols
  mmaAll (((List.range o.ops.length).zip o.ops).map (fun q => mmaWork m false q.2 none none (mine q.1)))

/-- A whole line that is aligned. -/
theorem lineBytes_whole (d : BitVec 512) : lineBytes d 0 64 = d.toNat := by
  unfold lineBytes
  rw [Nat.mul_zero, pow_zero, Nat.div_one, Nat.mod_eq_of_lt d.isLt]

/-- The row that MMAG gathers is a line that the L1 holds. -/
theorem waveMmag_run {a : DWord} {e : TlbEntry} {l : L1Line} (ht : s.teamOf? c.lead.id.crew = some t) (hrows : (gatherRows c t).run s = .ok ([a], s))
    (hrow : RowAhead s c a 64 false e) (hunowned : Unowned s)
    (ho : (mmaOperands c t false false none (do let _ ← gatherRecord c t; pure ()) (gatherShape c t)).run s = .ok (o, s))
    (hheld : ∀ f ∈ c.act, f.held = []) (hsound : SoundL1 s (e.line a) l) (hl : s.l1Line? c.core (e.line a) = some l)
    (hvalid : l.valid = BitVec.allOnes 64) :
    (waveMmag c).run s = .ok ((), { (s.l1Used c c.lead l).pushedTile c t o.srcs (o.gathered c.w.mod [l.data.toNat]).1 (o.gathered c.w.mod [l.data.toNat]).2 none
      with nextId := s.nextId + 1 }) := by
  have hal : a.toNat % 64 = 0 := by
    obtain ⟨-, -, hfit, -⟩ := hrow
    omega
  have hat : e.at_ a % 64 = 0 := TlbEntry.at_aligned hrow.2.2.2.2.2.2.1 hal
  have hread := readRows_hit (who := s.whoOf c c.lead) hrow rfl hunowned hl hsound (by rw [hvalid, BitVec.allOnes_and])
  rw [hat, lineBytes_whole] at hread
  unfold waveMmag
  rw [bind_ok (teamM_run ht)]
  dsimp only
  rw [bind_ok ho, bind_ok hrows, bind_ok (heldRows_run hheld _ _), bind_ok whoM_run, bind_ok (planRows_one hrow ⟨rfl, rfl⟩), if_neg Bool.false_ne_true,
    bind_ok (deferring_ok hread)]
  exact tileDone_run (s := s.l1Used c c.lead l) ht

end

/-! ### The operands of one operation (18 R385 to R387) -/

/-- The outputs of an operation fit a tile, and an instruction's inner elements fill a line. -/
theorem mma_dims (m : Byte) : mmaDims (mmaFuse m) ∈ [(32, 128), (64, 64), (128, 32), (32, 32)] ∧ mmaK m * (4 * 2 ^ (mmaWidth m).toNat) = 512 := by
  constructor
  · unfold mmaDims
    split <;> simp
  · unfold mmaK mmaWidth
    split
    · rfl
    · split <;> rfl

section
variable {s : State} {c : Ctx} {t : Team} {x y z : Tile} {d : Nat}

/-- The shapes of one dense operation with a 16-bit accumulator. -/
theorem mmaCheckOp_one {m : Byte} (hfuse : mmaFuse m ≠ 3) (hacc : mmaAcc16 m = true)
    (hx : x.rows = (mmaDims (mmaFuse m)).1 ∧ x.cols = (mmaDims (mmaFuse m)).2 ∧ x.width = 2)
    (hy : y.width = mmaWidth m ∧ y.rows ≤ (mmaDims (mmaFuse m)).1 ∧ y.cols ≤ mmaK m)
    (hz : z.width = mmaWidth m ∧ z.rows = y.cols ∧ z.cols ≤ (mmaDims (mmaFuse m)).2) :
    (mmaCheckOp m false true 0 { acc := [(d, x)], a := y } (some z) none).run s = .ok ((), s) := by
  have hind : (mmaFuse m == 3) = false := beq_eq_false_iff_ne.mpr hfuse
  obtain ⟨hxr, hxc, hxw⟩ := hx
  obtain ⟨hyw, hyr, hyc⟩ := hy
  obtain ⟨hzw, hzr, hzc⟩ := hz
  unfold mmaCheckOp
  dsimp only
  rw [bind_ok (shapeM_run (by simp [hind, hacc, hxr, hxc, hxw]) _), bind_ok (shapeM_run (by simp) _),
    bind_ok (shapeM_run (by simp [hyw, hyr, hyc]) _)]
  exact shapeM_run (by simp [hzw, hzr, hzc]) _

theorem mmaOperands_one (hfuse : mmaFuse c.w.mod ≠ 3) (hacc : mmaAcc16 c.w.mod = true) (hx : TileAt s t c.w.d.n.toNat x)
    (hy : TileAt s t c.w.a.n.toNat y) (hz : TileAt s t c.w.b.n.toNat z)
    (hxs : x.rows = (mmaDims (mmaFuse c.w.mod)).1 ∧ x.cols = (mmaDims (mmaFuse c.w.mod)).2 ∧ x.width = 2)
    (hys : y.width = mmaWidth c.w.mod ∧ y.rows ≤ (mmaDims (mmaFuse c.w.mod)).1 ∧ y.cols ≤ mmaK c.w.mod)
    (hzs : z.width = mmaWidth c.w.mod ∧ z.rows = y.cols ∧ z.cols ≤ (mmaDims (mmaFuse c.w.mod)).2)
    (hda : c.w.d.n ≠ c.w.a.n) (hdb : c.w.d.n ≠ c.w.b.n) : (mmaOperands c t false true none).run s
      = .ok ({ ops := [{ acc := [(c.w.d.n.toNat, x)], a := y }], srcs := [c.w.a.n.toNat, c.w.b.n.toNat], bs := [z], metas := [] }, s) := by
  have hind : (mmaFuse c.w.mod == 3) = false := beq_eq_false_iff_ne.mpr hfuse
  have hacc' : (mapM_ [c.w.d.n.toNat] (fun n => do let x ← tileM t n 1; pure (n, x) : Nat → M (Nat × Tile))).run s = .ok ([(c.w.d.n.toNat, x)], s) :=
    mapM_one ((bind_ok (hx.tileM_run 1)).trans rfl)
  have hop : (mapM_ [0] (fun q => do
      let acc ← mapM_ [c.w.d.n.toNat] (fun n => do let x ← tileM t n 1; pure (n, x))
      let x ← tileM t (c.w.a.n.toNat + q) 2
      pure ({ acc := acc, a := x } : MmaOp) : Nat → M MmaOp)).run s = .ok ([{ acc := [(c.w.d.n.toNat, x)], a := y }], s) :=
    mapM_one ((bind_ok hacc').trans ((bind_ok (hy.tileM_run 2)).trans rfl))
  have hb : (mapM_ [0] (fun q => tileM t (c.w.b.n.toNat + q) 3)).run s = .ok ([z], s) := mapM_one (hz.tileM_run 3)
  have hshapes : (forM_ [(0, ({ acc := [(c.w.d.n.toNat, x)], a := y } : MmaOp))]
      (fun q => mmaCheckOp c.w.mod false true q.1 q.2 [z][q.1]? ([] : List Tile)[q.1]?)).run s = .ok ((), s) :=
    forM_quiet fun q hq => by
      cases List.mem_singleton.mp hq
      exact mmaCheckOp_one hfuse hacc hxs hys hzs
  have hapart : (!([c.w.d.n.toNat].any (fun n => [c.w.a.n.toNat, c.w.b.n.toNat].contains n))) = true := by
    simpa [BitVec.toNat_inj] using And.intro hda hdb
  have hfree : (tilesFree c t [c.w.d.n.toNat, c.w.a.n.toNat, c.w.b.n.toNat]).run s = .ok ((), s) :=
    tilesFree_run (tilesFree_cons hx (tilesFree_cons hy (tilesFree_cons hz (List.forall_mem_nil _))))
  unfold mmaOperands
  dsimp only
  rw [hind, hacc]
  simp only [Bool.false_eq_true, if_false, if_true]
  refine (bind_ok (checkM_true rfl)).trans ((bind_ok (checkM_true rfl)).trans ((bind_ok (checkM_true rfl)).trans ((bind_ok hop).trans ?_)))
  refine (bind_ok (a := []) (t := s) rfl).trans ((bind_ok hb).trans ?_)
  refine (bind_ok (a := ()) (t := s) rfl).trans ?_
  refine (bind_ok hshapes).trans ?_
  refine (bind_ok (a := ()) (t := s) rfl).trans ?_
  refine (bind_ok (checkM_true hapart)).trans ?_
  exact (bind_ok hfree).trans rfl

end

/-- Settles O46: the checks of operands that no fibre is in answer the same whatever fibres there are, one dense operation passes them with its
shapes, and what the operands become enters the matrix unit. -/
theorem matrixMultiply : Obligations.MatrixMultiply := by
  unfold Obligations.MatrixMultiply
  refine ⟨fun t o p hp => ?mma, fun t o => ?mmas, fun t o sc => ?mmaq, fun t o a e l => ?mmag,
    fun c s t x y z hfuse hacc hx hy hz hxr hxc hxw hyw hyr hyc hzw hzr hzc hda hdb => ?operands, mma_dims⟩
  case mma =>
    simp only [List.mem_cons, List.not_mem_nil, or_false] at hp
    obtain rfl | rfl := hp
    · exact push_rule (g := waveMma false) (fun _ _ => rfl) (fun _ _ _ => rfl) fun c s fb ⟨ht, ho⟩ _ =>
        waveMma_run (s := s.withFibres fb) ht ((FibreBlind.operands c _ _ _ (.pure ()) (.pure ())).run ho fb) rfl
    · exact push_rule (g := waveMma true) (fun _ _ => rfl) (fun _ _ _ => rfl) fun c s fb ⟨ht, ho⟩ _ =>
        waveMma_run (s := s.withFibres fb) ht ((FibreBlind.operands c _ _ _ (.pure ()) (.pure ())).run ho fb) rfl
  case mmas =>
    refine push_rule (g := waveMmas) (fun _ _ => rfl) ?_ fun c s fb ⟨ht, ho⟩ _ => ?_
    · intro c s _
      dsimp only
      split <;> rfl
    · refine (waveMmas_run (s := s.withFibres fb) ht ((FibreBlind.operands c _ _ _ (.pure ()) (.pure ())).run ho fb)).trans ?_
      dsimp only
      split <;> rfl
  case mmaq =>
    exact push_rule (g := waveMmaq) (fun _ _ => rfl) (fun _ _ _ => rfl) fun c s fb ⟨ht, hsc, hallot, ho⟩ _ =>
      waveMmaq_run (s := s.withFibres fb) ht hsc hallot ((FibreBlind.operands c _ _ _ (.pure ()) (.pure ())).run ho fb)
  case mmag =>
    exact push_rule (g := waveMmag) (fun _ _ => rfl) (fun _ _ _ => rfl) fun c s fb ⟨ht, hrows, hrow, hunowned, ho, hheld, hsound, hl, hvalid⟩ _ =>
      waveMmag_run (s := s.withFibres fb) ht ((FibreBlind.rows c).run hrows fb) hrow hunowned
        ((FibreBlind.operands c _ _ _ ((FibreBlind.record c).bind fun _ => .pure ()) (.gatherShape c)).run ho fb) hheld hsound hl hvalid
  case operands =>
    exact mmaOperands_one hfuse hacc hx hy hz ⟨hxr, hxc, hxw⟩ ⟨hyw, hyr, hyc⟩ ⟨hzw, hzr, hzc⟩ hda hdb

end Sys2Proof.Machine
end

section
/-! FENCE, DFENCE, CWB, CINV and ACQP (19 R400, R401; 17 R350, R351) with nothing to wait for or to write back. -/

namespace Sys2Proof.Machine

section
variable {s : State} {c : Ctx} {x : Fibre} {who : Who} {e : TlbEntry} {va : DWord}

/-! ### FENCE and ranges of no byte -/

theorem laneFence_run (hx : s.fibre? x.id = some x) (hquiet : Quiet s c.core x) (hspan : NoSpan s c) :
    (laneFence c x).run s = .ok ((), if modField c.w.mod 3 2 ≠ 2 ∧ s.wide (s.whoOf c x) (modField c.w.mod 0 3) = true then s.acquired c.core else s) := by
  have hacquire : (if modField c.w.mod 3 2 != 2 then acquire (s.whoOf c x) (modField c.w.mod 0 3) else pure () : M Unit).run s
      = .ok ((), if modField c.w.mod 3 2 ≠ 2 ∧ s.wide (s.whoOf c x) (modField c.w.mod 0 3) = true then s.acquired c.core else s) := by
    by_cases hkind : modField c.w.mod 3 2 = 2
    · rw [if_neg (by simp [hkind]), if_neg (by simp [hkind])]
      rfl
    · rw [if_pos (bne_iff_ne.mpr hkind), acquire_run, State.acquiredAt]
      simp only [ne_eq, hkind, not_false_eq_true, true_and]
  unfold laneFence
  rw [bind_ok whoM_run]
  dsimp only
  rw [bind_ok (spanGate_run hspan _)]
  split
  · exact (bind_ok (release_quiet (who := s.whoOf c x) hx hquiet _)).trans hacquire
  · exact hacquire

theorem laneCache_none {inv : Bool} (hn : (c.b x).toNat = 0) : (laneCache inv c x).run s = .ok ((), s) := by
  unfold laneCache
  rw [bind_ok whoM_run]
  dsimp only
  rw [hn, bind_ok (checkRange_run (.inl rfl))]
  rfl

theorem laneDfence_none (hn : (c.b x).toNat = 0) (hspan : NoSpan s c) : (laneDfence c x).run s = .ok ((), s) := by
  unfold laneDfence
  rw [bind_ok whoM_run]
  dsimp only
  rw [hn, bind_ok (spanGate_run hspan _), bind_check (by rfl), bind_ok (checkRange_run (.inl rfl))]
  rfl

/-! ### CWB and CINV of bytes within a page (17 R350) -/

/-- An L1 after the lines from one to another have gone from it. -/
def State.dropLines (s : State) (lo hi k : Nat) : State := s.setCore k (fun r => { r with l1 := r.l1.filter (fun l => !(lo ≤ l.line && l.line ≤ hi)) })

/-- Lines that are dropped leave an L1 no dirty byte that it did not hold. -/
theorem State.dropLines_l1 (s : State) (lo hi k j : Nat) : ((s.dropLines lo hi k).core j).l1 ⊆ (s.core j).l1 := by
  simp only [State.dropLines, State.core, State.setCore_cores, List.getD_eq_getElem?_getD, updAt_getElem?]
  split
  · cases s.cores[j]? with
    | none => exact List.Subset.refl _
    | some r => exact List.filter_subset_self _
  · exact List.Subset.refl _

/-- Clean L1s have nothing to write back. -/
theorem l1Ranges_clean {inv : Bool} {lo hi : Nat} {cs : List Nat} (hclean : ∀ k ∈ cs, ∀ l ∈ (s.core k).l1, l.dirty = 0) :
    (forM_ cs (fun k => l1Range who k lo hi inv)).run s = .ok ((), if inv then cs.foldl (State.dropLines · lo hi) s else s) := by
  induction cs generalizing s with
  | nil => cases inv <;> rfl
  | cons k ks ih =>
    obtain ⟨hk, hks⟩ := List.forall_mem_cons.mp hclean
    have hwb := wbLines_clean (who := who) (p := fun l => lo ≤ l && l ≤ hi) hk
    cases inv with
    | false => exact (bind_ok ((bind_ok hwb).trans rfl)).trans (ih hks)
    | true =>
      have hdrop : (l1Range who k lo hi true).run s = .ok ((), s.dropLines lo hi k) := (bind_ok hwb).trans rfl
      exact (bind_ok hdrop).trans (ih fun j hj l hl => hks j hj l (s.dropLines_l1 lo hi k j hl))

/-- Bytes within a page lie in one view. -/
theorem page_inView {a n : Nat} (ha : a < 2 ^ 51) (hpage : a / 32768 = (a + n - 1) / 32768) :
    a + n ≤ 2 ^ 51 ∧ a / 2 ^ 50 = (a + n - 1) / 2 ^ 50 := by
  have hview : ∀ b, b / 2 ^ 50 = b / 32768 / 2 ^ 35 := fun b => by rw [Nat.div_div_eq_div_mul]; norm_num
  exact ⟨by omega, by rw [hview, hpage, ← hview]⟩

/-- Bytes within a page are all that a range has in its pages. -/
theorem page_alone {a n : Nat} (hpage : a / 32768 = (a + n - 1) / 32768) : (a + n - 1) / 32768 - a / 32768 + 1 = 1
    ∧ max ((a / 32768 + 0) * 32768) a = a ∧ min ((a / 32768 + 0) * 32768 + 32767) (a + n - 1) = a + n - 1 := by
  refine ⟨by omega, by omega, Nat.min_eq_right ?_⟩
  omega

theorem translateOrSkip_ok {p : Phys} {t : State} (h : (translate who va false).run s = .ok (p, t)) : (translateOrSkip who va).run s = .ok (some p, t) := by
  unfold translateOrSkip
  rw [bind_get, h]
  rfl

theorem laneCache_run {inv : Bool} (hres : Resident s c (c.a64 x) 1 false e) (hclean : CleanL1 s c.core) (hn : (c.b x).toNat ≠ 0)
    (hpage : (c.a64 x).toNat / 32768 = ((c.a64 x).toNat + (c.b x).toNat - 1) / 32768) :
    (laneCache inv c x).run s = .ok ((), if inv then (s.l1Cores c.core).foldl (State.dropLines · (e.line (c.a64 x))
      (lineNo (e.at_ (c.a64 x) + ((c.b x).toNat - 1)) ((c.a64 x).getLsbD 50))) s else s) := by
  have hva : (c.a64 x).toNat < 2 ^ 51 := hres.1
  have hrange : (checkRange (c.a64 x) (c.b x).toNat).run s = .ok ((), s) := checkRange_run (.inr (page_inView hva hpage))
  obtain ⟨hone, hfirst, hlast⟩ := page_alone hpage
  have hplace : (translateOrSkip (s.whoOf c x) (c.a64 x)).run s = .ok (some (e.place (c.a64 x)), s) :=
    translateOrSkip_ok (translate_hit hres.1 rfl hres.2.2.1 hres.2.2.2.1 hres.2.2.2.2.1)
  have hlen : (c.a64 x).toNat + (c.b x).toNat - 1 - (c.a64 x).toNat = (c.b x).toNat - 1 := by omega
  unfold laneCache
  rw [bind_ok whoM_run]
  dsimp only
  rw [bind_ok hrange, if_pos (bne_iff_ne.mpr hn)]
  unfold cacheRange
  rw [hone]
  refine (bind_ok (t := if inv then (s.l1Cores c.core).foldl (State.dropLines · (e.line (c.a64 x))
    (lineNo (e.at_ (c.a64 x) + ((c.b x).toNat - 1)) ((c.a64 x).getLsbD 50))) s else s) (a := ()) ?_).trans rfl
  dsimp only
  rw [hfirst, hlast, BitVec.ofNat_toNat, BitVec.setWidth_eq, bind_ok hplace, hlen]
  exact l1Ranges_clean hclean

/-! ### ACQP (17 R351) -/

/-- A scope beyond the vein's reaches beyond the core. -/
theorem acquire_vein : (acquire (s.whoOf c x) 3).run s = .ok ((), s.acquired c.core) := rfl

theorem laneAcqp_absent (hv : (c.a x).toNat < ((s.launch? c.launch).map Launch.nteams).getD 0) (hteam : s.team? c.launch (c.a x).toNat = none) :
    (laneAcqp c x).run s = .ok ((), s.acquired c.core) := by
  unfold laneAcqp
  rw [bind_get]
  dsimp only
  rw [bind_check (decide_eq_true hv), hteam]
  rfl

theorem laneAcqp_resident {t : Team} (hv : (c.a x).toNat < ((s.launch? c.launch).map Launch.nteams).getD 0)
    (hteam : s.team? c.launch (c.a x).toNat = some t) (hclean : CleanL1 s t.core) :
    (laneAcqp c x).run s = .ok ((), (s.acquired t.core).acquired c.core) := by
  unfold laneAcqp
  rw [bind_get]
  dsimp only
  rw [bind_check (decide_eq_true hv), hteam]
  dsimp only
  rw [bind_ok (wbCores_clean hclean), bind_modify]
  rfl

end

/-- Settles O23: nothing waits and no L1 line is dirty, so a release writes nothing back, an acquire leaves the L1s their dirty bytes, and
CINV drops the lines of its one page. -/
theorem synchronisationResults : Obligations.SynchronisationResults := by
  unfold Obligations.SynchronisationResults
  refine ⟨?fence, fun op hop => ?none, ?dfence, fun e p hp => ?cache, ?absent, fun t => ?resident⟩
  case fence =>
    exact one_rule_id (g := laneFence) (fun _ _ => rfl) (fun _ _ _ _ => ite_acquired_waves _) fun c s x fb ⟨hquiet, hspan⟩ hx =>
      (laneFence_run (s := s.withFibres fb) hx hquiet hspan).trans (by rw [ite_acquired_withFibres]; rfl)
  case none =>
    simp only [List.mem_cons, List.not_mem_nil, or_false] at hop
    obtain rfl | rfl := hop
    · exact one_rule_id (g := laneCache false) (fun _ _ => rfl) (fun _ _ _ _ => rfl) fun c s x fb hn _ => laneCache_none hn
    · exact one_rule_id (g := laneCache true) (fun _ _ => rfl) (fun _ _ _ _ => rfl) fun c s x fb hn _ => laneCache_none hn
  case dfence =>
    exact one_rule_id (g := laneDfence) (fun _ _ => rfl) (fun _ _ _ _ => rfl) fun c s x fb ⟨hn, hspan⟩ _ =>
      laneDfence_none (s := s.withFibres fb) hn hspan
  case cache =>
    simp only [List.mem_cons, List.not_mem_nil, or_false] at hp
    obtain rfl | rfl := hp
    · exact one_rule_id (g := laneCache false) (fun _ _ => rfl) (fun _ _ _ _ => rfl) fun c s x fb ⟨hres, hclean, hn, hpage⟩ _ =>
        laneCache_run (s := s.withFibres fb) hres hclean hn hpage
    · refine one_rule_id (g := laneCache true) (fun _ _ => rfl) (fun c s x _ => ?_) fun c s x fb ⟨hres, hclean, hn, hpage⟩ _ =>
        (laneCache_run (s := s.withFibres fb) hres hclean hn hpage).trans ?_
      · exact foldl_keeps (p := State.waves) (f := (State.dropLines · _ _)) (fun _ _ => rfl) _ s
      · exact congrArg (fun u : State => Except.ok ((), u)) (List.foldl_hom (fun t : State => t.withFibres fb) fun _ _ => rfl)
  case absent =>
    exact one_rule_id (g := laneAcqp) (fun _ _ => rfl) (fun c s _ _ => s.acquired_waves c.core) fun c s x fb ⟨hv, hteam⟩ _ =>
      (laneAcqp_absent (s := s.withFibres fb) hv hteam).trans (by rw [State.acquired_withFibres])
  case resident =>
    exact one_rule_id (g := laneAcqp) (fun _ _ => rfl) (fun c s _ _ => ((s.acquired t.core).acquired_waves c.core).trans (s.acquired_waves t.core))
      fun c s x fb ⟨hv, hteam, hclean⟩ _ =>
      (laneAcqp_resident (s := s.withFibres fb) hv hteam hclean).trans
        (by rw [s.acquired_withFibres t.core fb, (s.acquired t.core).acquired_withFibres c.core fb])

end Sys2Proof.Machine
end

section
/-! System instructions (19 R410, R414 to R417). VHOLD's last release of a die that it joins tags the items of the odd vein with the even one
(29 R491), those of other fibres too. -/

namespace Sys2Proof.Machine

/-! ### A die that is joined -/

/-- VHOLD of the vein in v2 by the bit in v3. -/
def vholdWord : Fields := ⟨0, ⟨.reg, 0⟩, ⟨.reg, 2⟩, ⟨.reg, 3⟩, 0, 0, false, 0, 0⟩

/-- The fibre that releases vein 0, and its wave. -/
def joiner : Fibre := { id := ⟨.team 1 0 0, 0⟩, pc := 0, obj := 3, regs := 1 :: List.replicate 63 0 }
def joinerWave : Wave := { id := 2, crew := .team 1 0 0, home := 0, lanes := 1, meet := 1 }

/-- A fibre that runs an item of vein 1. -/
def oddItem : Item := { id := 9, launch := 1, vein := 1, pcoff := 0, aseq := 0, arg := [], rd := default, wr := default, spawner := 0 }
def oddFibre : Fibre := { id := ⟨.item 1 0 0, 0⟩, pc := 0, obj := 3, regs := List.replicate 64 0, item := some oddItem }

/-- Vein 0 is held, and what is staged for die 0 gives all its slices to vein 0. -/
def joining : State :=
  { State.reset.withProgram (List.replicate 48 0) with
    agenda := [], cur := some 2, fibres := [joiner, oddFibre], waves := [joinerWave]
    mem := { State.reset.mem with
      veins := updAt (updAt State.reset.mem.veins 0 (fun v => { v with staged := some ⟨0xFFFF, 7, true⟩, hold := some joiner.id }))
        1 (fun v => { v with staged := some ⟨0, 0, false⟩ }) } }

/-- The vein that tags the item of a fibre, in a state that an instruction leaves. -/
def tagAfter (o : Host.Outcome State Fault Refusal) (k : FibreId) : Option Nat :=
  match o with
  | .next t => (t.fibre? k).bind (fun f => f.item.map Item.vein)
  | _ => none

/-- An instruction that ends leaves the fibres of other waves their items. -/
theorem Ends.tagAfter_eq {o : Host.Outcome State Fault Refusal} {s u : State} {fs : List Fibre} {after : Fibre → Fibre} {k : FibreId}
    (h : Ends o s fs after u) (hk : ∀ g ∈ fs, g.id ≠ k) : tagAfter o k = (s.fibre? k).bind (fun f => f.item.map Item.vein) := by
  obtain ⟨t, rfl, -, -, hothers⟩ := h
  exact congrArg (fun f : Option Fibre => f.bind (fun f => f.item.map Item.vein)) (hothers k hk)

/-- Refutes O48: the last release of a die that joins it retags the item of a fibre in another wave, which the statement leaves untouched. -/
theorem not_systemResults : ¬ Obligations.SystemResults := by
  unfold Obligations.SystemResults
  rintro ⟨-, -, -, -, -, -, hrelease, -⟩
  have hends := hrelease (joining.mem.veins.getD 0 default) vholdWord joining joinerWave joiner (by decide +kernel) (by decide +kernel)
  have htag := hends.tagAfter_eq (k := oddFibre.id) (by decide)
  exact absurd htag (by decide +kernel)

end Sys2Proof.Machine
end

section
/-! The runtime that firmware supplies (28 R481, R482): what a fault record holds, its write, and what the driver's answers do. -/

namespace Sys2Proof.Machine

/-! ### A record's bytes (28 R482) -/

/-- A field that stands first in a block. -/
theorem field_here (k n : Nat) (ys : List Byte) : field (leBytes k n ++ ys) 0 k = n % 256 ^ k := by
  rw [field_append_left (by rw [leBytes_length, Nat.zero_add]), field_eq_leNat, List.drop_zero, List.take_of_length_le (leBytes_length k n).le,
    leNat_leBytes]

/-- A field that stands behind another. -/
theorem field_past {k j : Nat} (h : k ≤ j) (n m : Nat) (ys : List Byte) : field (leBytes k m ++ ys) j n = field ys (j - k) n := by
  obtain ⟨i, rfl⟩ := Nat.exists_eq_add_of_le h
  have hskip := field_append_right (b := leBytes k m) (ys := ys) (k := i) (n := n)
  rw [leBytes_length] at hskip
  rw [hskip, Nat.add_sub_cancel_left]

/-- A word's bytes hold it all. -/
theorem word_lt (w : Word) : w.toNat % 256 ^ 4 = w.toNat := Nat.mod_eq_of_lt w.isLt

theorem TrapRegs.word_lt (t : TrapRegs) : t.word % 256 ^ 4 = t.word := by
  have hcause := t.cause.isLt
  have hkind := t.kind.isLt
  have hlane := t.lane.isLt
  refine Nat.mod_eq_of_lt ?_
  unfold TrapRegs.word
  omega

/-- What a fault record holds, field by field. -/
theorem faultRecord_fields (l : Launch) (f : Fibre) (k : Word) (hqueue : l.queue < 256) :
    (faultRecord l f k).length = 64 ∧ field (faultRecord l f k) 0 8 = f.trap.addr.toNat
      ∧ field (faultRecord l f k) 8 4 = f.trap.cause.toNat + 2 ^ 9 * f.trap.kind.toNat + 2 ^ 12 * f.trap.lane.toNat
      ∧ field (faultRecord l f k) 12 4 = f.trap.pc.toNat ∧ field (faultRecord l f k) 16 4 = f.trap.info0.toNat
      ∧ field (faultRecord l f k) 20 4 = f.trap.info1.toNat ∧ field (faultRecord l f k) 24 4 = l.seq.toNat
      ∧ field (faultRecord l f k) 28 1 = l.queue ∧ field (faultRecord l f k) 60 4 = (~~~ k).toNat := by
  have hmark : k ^^^ 0xFFFFFFFF = ~~~ k := BitVec.xor_allOnes
  have hrecord : faultRecord l f k = leBytes 8 f.trap.addr.toNat ++ (leBytes 4 f.trap.word ++ (leBytes 4 f.trap.pc.toNat
      ++ (leBytes 4 f.trap.info0.toNat ++ (leBytes 4 f.trap.info1.toNat ++ (leBytes 4 l.seq.toNat ++ (leBytes 1 l.queue ++ (leBytes 3 0
      ++ (leBytes 4 (CrewId.teamId f.id.crew) ++ (leBytes 4 (f.id.crew.crew * 1024 + f.id.index) ++ (leBytes 20 0
      ++ (leBytes 4 (~~~ k).toNat ++ []))))))))))) := by
    unfold faultRecord
    rw [hmark]
    simp only [List.append_assoc, List.append_nil]
  have haddr : f.trap.addr.toNat % 256 ^ 8 = f.trap.addr.toNat := Nat.mod_eq_of_lt f.trap.addr.isLt
  have hword : f.trap.word % 256 ^ 4 = f.trap.cause.toNat + 2 ^ 9 * f.trap.kind.toNat + 2 ^ 12 * f.trap.lane.toNat := f.trap.word_lt
  have hq : l.queue % 256 ^ 1 = l.queue := Nat.mod_eq_of_lt (by omega)
  rw [hrecord]
  refine ⟨?_, ?_, ?_, ?_, ?_, ?_, ?_, ?_, ?_⟩
  · simp only [List.length_append, leBytes_length, List.length_nil]
  · exact (field_here ..).trans haddr
  all_goals simp (disch := omega) only [field_past, Nat.reduceSub, field_here, word_lt, hword, hq]

/-! ### The write of a record (28 R482) -/

section
variable {s : State} {f : Fibre} {l : Launch} {r : InTrap}

/-- The device after a record has been written. -/
def State.faultWritten (s : State) (l : Launch) (f : Fibre) : State :=
  (((hostWrite s s.ring.slotAt (faultRecord l f s.ring.tail)).setRing
    (fun r => { r with tail := s.ring.tail + 1, open_ := r.open_ ++ [(s.ring.tail, f.id, f.trap.cause)] })).setFibre
      (f.withRuntime (.waiting s.ring.tail))).send (.interrupt s.ring.vec)

theorem writeFault_run (hf : s.fibre? f.id = some f) (hl : s.launch? f.id.crew.launch = some l) (hspan : l.span = none)
    (hquiet : Quiet s (s.coreOf f.id.crew) f) : (writeFault l f).run s = .ok ((), s.faultWritten l f) := by
  have hid : l.id = f.id.crew.launch := State.launch?_id hl
  have hgate : (spanGate { coreWho s (s.coreOf f.id.crew) l.id with fibre := f.id, pc := f.pc } 6).run s = .ok ((), s) := by
    unfold spanGate
    rw [bind_get, show (s.launch? (coreWho s (s.coreOf f.id.crew) l.id).launch) = some l by rw [← hl, ← hid]; rfl]
    rw [Option.bind_some, hspan]
    rfl
  unfold writeFault
  rw [bind_get]
  dsimp only
  rw [bind_ok hgate, bind_ok (release_quiet (x := f) hf hquiet 6)]
  rfl

theorem current_of_named {i : FibreId} (hf : s.fibre? i = some f) : s.fibre? f.id = some f := by
  rw [State.fibre?_id hf]
  exact hf

section
variable (hf : s.fibre? s.ev.fibre = some f) (hl : s.launch? f.id.crew.launch = some l) (hr : f.inTrap = some r) (hrun : r.runtime = .toWrite)
  (hres : s.resident f.id = true) (hroom : s.ring.room = true) (hreach : hostReach s s.ring.slotAt 64 = true)
include hf hl hr hrun hres hroom hreach

theorem exec_faultRingWrite : exec .faultRingWrite s = if s.ev.fails then .next s.faultWriteFails else .next (s.attempt (writeFault l f)) := by
  have hname : f.id = s.ev.fibre := State.fibre?_id hf
  have hgo : ((f.inTrap.map InTrap.runtime) == some .toWrite && s.resident f.id && s.ring.room && hostReach s s.ring.slotAt 64) = true := by
    rw [hr, Option.map_some, hrun, hres, hroom, hreach]
    rfl
  show execFaultRingWrite s = _
  unfold execFaultRingWrite
  rw [hf, show s.launch? s.ev.fibre.crew.launch = some l from hname ▸ hl]
  exact if_pos hgo

/-- A record that is written. -/
theorem exec_faultRingWrite_written (hfails : s.ev.fails = false) (hspan : l.span = none) (hquiet : Quiet s (s.coreOf f.id.crew) f) :
    exec .faultRingWrite s = .next (s.faultWritten l f).dropAnswers.wake := by
  have hrunning := writeFault_run (current_of_named hf) hl hspan hquiet
  rw [exec_faultRingWrite hf hl hr hrun hres hroom hreach, hfails, if_neg Bool.false_ne_true, State.attempt_ok hrunning]

end

theorem hostWrite_fibres (s : State) (a : Nat) (bs : List Byte) : (hostWrite s a bs).fibres = s.fibres := rfl
theorem hostWrite_ring (s : State) (a : Nat) (bs : List Byte) : (hostWrite s a bs).ring = s.ring := rfl
theorem hostWrite_sent (s : State) (a : Nat) (bs : List Byte) : (hostWrite s a bs).sent = s.sent := rfl
theorem State.setRing_fibres (s : State) (g : Ring → Ring) : (s.setRing g).fibres = s.fibres := rfl
theorem State.setRing_mem (s : State) (g : Ring → Ring) : (s.setRing g).mem = s.mem := rfl
theorem State.setRing_ring (s : State) (g : Ring → Ring) : (s.setRing g).ring = g s.ring := rfl
theorem State.setRing_sent (s : State) (g : Ring → Ring) : (s.setRing g).sent = s.sent := rfl
theorem State.dropAnswers_ring (s : State) : s.dropAnswers.ring = s.ring := rfl
theorem State.dropAnswers_sent (s : State) : s.dropAnswers.sent = s.sent := rfl
theorem State.send_interrupt (s : State) (v) : (s.send (.interrupt v)).sent = .interrupt v :: s.sent := rfl

theorem State.faultWritten_fibres (s : State) (l : Launch) (f : Fibre) :
    (s.faultWritten l f).fibres = (s.setFibre (f.withRuntime (.waiting s.ring.tail))).fibres := by
  unfold State.faultWritten
  rw [State.send_fibres, State.setFibre_fibres, State.setFibre_fibres, State.setRing_fibres, hostWrite_fibres]

/-- A record's write reaches the memory, moves FTAIL on and raises the vector. -/
theorem State.faultWritten_rest (s : State) (l : Launch) (f : Fibre) :
    (s.faultWritten l f).dropAnswers.wake.mem = (hostWrite s s.ring.slotAt (faultRecord l f s.ring.tail)).mem
      ∧ (s.faultWritten l f).dropAnswers.wake.ring = { s.ring with tail := s.ring.tail + 1, open_ := s.ring.open_ ++ [(s.ring.tail, f.id, f.trap.cause)] }
      ∧ (s.faultWritten l f).dropAnswers.wake.sent = .interrupt s.ring.vec :: s.sent := by
  rw [State.wake_mem, State.wake_ring, State.wake_sent, State.dropAnswers_mem, State.dropAnswers_ring, State.dropAnswers_sent]
  unfold State.faultWritten
  rw [State.send_mem, State.setFibre_mem, State.setRing_mem, State.send_ring, State.setFibre_ring, State.setRing_ring, hostWrite_ring,
    State.send_interrupt, State.setFibre_sent, State.setRing_sent, hostWrite_sent]
  exact ⟨rfl, rfl, rfl⟩

theorem State.faultWritten_fibre? (hf : s.fibre? f.id = some f) (hr : f.inTrap = some r) :
    (s.faultWritten l f).dropAnswers.wake.fibre? f.id = some { f with inTrap := some { r with runtime := .waiting s.ring.tail } } := by
  have hset : (s.setFibre (f.withRuntime (.waiting s.ring.tail))).fibre? f.id = some (f.withRuntime (.waiting s.ring.tail)) :=
    State.fibre?_setFibre_self (g := f.withRuntime (.waiting s.ring.tail)) hf
  have hfibres := State.faultWritten_fibres s l f
  have hgone : f.withRuntime (.waiting s.ring.tail) = { f with inTrap := some { r with runtime := .waiting s.ring.tail } } := by
    unfold Fibre.withRuntime
    rw [hr]
    rfl
  rw [← hgone]
  unfold State.fibre? at hset ⊢
  rw [State.wake_fibres, State.dropAnswers_fibres, hfibres]
  exact hset

end

/-! ### The driver's answers (28 R482, R486) -/

section
variable {s : State} {f : Fibre} {r : InTrap} {k : Word} {c : Cause} {w : Wave} {answer : BitVec 2}

/-- A record of a fibre waits for its answer, and nothing keeps the fibre from it. -/
structure ToldBy (s : State) (f : Fibre) (r : InTrap) (k : Word) (c : Cause) (w : Wave) : Prop where
  thawed : s.isFrozen 0 = false
  names : s.ev.word = k
  record : s.ring.open_.find? (fun p => p.1 == k) = some (k, f.id, c)
  none_kept : s.ring.kept = []
  current : s.fibre? f.id = some f
  trapped : f.inTrap = some r
  waits : r.runtime = .waiting k
  resident : s.resident f.id = true
  wave : s.waves.find? (fun w => w.crew == f.id.crew && w.home == f.home && w.lanes.getLsbD f.lane) = some w
  alone : s.waveFibres w = [f]
  fresh : w.reissue = false
  calm : s.Calm

/-- The device when an answer to a record has come: what the host has written becomes visible, which changes the L1s and the walk schedulers
alone, and the answer is kept. -/
def State.answerCame (s : State) (k : Word) (p : Word × FibreId × Cause) (answer : BitVec 2) : State :=
  { s with cores := s.hostVisible.cores, mem := s.hostVisible.mem
           ring := { s.ring with ackIndex := k, ackAnswer := answer, open_ := s.ring.open_.filter (fun q => q.1 != k), kept := [(p, answer)] } }

theorem State.hostVisible_same (s : State) : s.hostVisible = { s with cores := s.hostVisible.cores, mem := s.hostVisible.mem } := by
  unfold State.hostVisible
  rw [State.invalidateCores_same]

/-- An answer that is given no longer waits. -/
def State.forget (s : State) (k : Word) : State := s.setRing (fun r => { r with kept := r.kept.filter (fun p => p.1.1 != k) })

section
variable (h : ToldBy s f r k c w)
include h

theorem ToldBy.fack (hne : answer ≠ 0) : s.fack k answer = (s.answerCame k (k, f.id, c) answer).tryKept.wake := by
  unfold State.fack
  rw [State.hostVisible_same]
  dsimp only
  rw [if_neg (by simpa using hne)]
  simp only [State.setRing, h.record, h.none_kept, List.nil_append]
  rfl

/-- The one answer that has come acts on its fibre. -/
theorem ToldBy.tryKept {t : State} (hact : (s.answerCame k (k, f.id, c) answer).actAnswer f answer c = (t, true)) :
    (s.answerCame k (k, f.id, c) answer).tryKept = t.forget k := by
  have hcurrent : (s.answerCame k (k, f.id, c) answer).fibre? f.id = some f := h.current
  have hresident : (s.answerCame k (k, f.id, c) answer).resident f.id = true := h.resident
  have hwaits : f.inTrap.map InTrap.runtime = some (.waiting k) := by rw [h.trapped, Option.map_some, h.waits]
  unfold State.tryKept
  rw [show (s.answerCame k (k, f.id, c) answer).ring.kept = [((k, f.id, c), answer)] from rfl]
  unfold State.actKept
  dsimp only
  rw [hcurrent]
  dsimp only
  rw [hwaits, hresident, hact, if_neg (by simp), if_neg (by simp), if_pos rfl]
  rfl

/-- What the runtime's operation on the fibre sees. -/
def State.runtimeOf (s : State) (op : Op) (f : Fibre) (w : Wave) : Ctx :=
  { op := op, w := default, wv := w, pc := f.pc, fall := f.pc, core := s.coreOf f.id.crew, launch := f.id.crew.launch
    det := s.det f.id.crew.launch, all := [f], act := [f], low := some f }

theorem ToldBy.runtimeCtx (op : Op) :
    (s.answerCame k (k, f.id, c) answer).runtimeCtx op f = some ((s.answerCame k (k, f.id, c) answer).runtimeOf op f w) := by
  unfold State.runtimeCtx State.runtimeOf
  rw [show (s.answerCame k (k, f.id, c) answer).waves.find? _ = _ from h.wave, Option.map_some,
    show (s.answerCame k (k, f.id, c) answer).waveFibres w = _ from h.alone]

end

/-- An operation that sends no fibre another way ends as an instruction does. -/
theorem State.finish_quiet {t : State} {cx : Ctx} (hfresh : cx.wv.reissue = false) (hcalm : t.Calm) :
    SameBut t (t.finish cx cx.all []) ∧ (t.finish cx cx.all []).fibres = t.fibres.map (Fibre.settled (cx.all.map Fibre.id)) :=
  State.finish_same (v0 := t) (tr := []) rfl (fun _ hp => nomatch hp) (Bool.and_false _) hfresh hcalm

theorem State.Calm.setFibre {u : State} {g : Fibre} (h : u.Calm) (hg : g.group = none) : (u.setFibre g).Calm := by
  refine ⟨h.1, fun x hx => ?_⟩
  rw [State.setFibre_fibres] at hx
  obtain ⟨y, hy, rfl⟩ := List.mem_map.mp hx
  split
  · exact hg
  · exact h.2 y hy

theorem State.runtimeDo_ok {u t : State} (cx : Ctx) : u.runtimeDo cx (.ok (t, [])) = (t.finish cx cx.all [], true) := by
  unfold State.runtimeDo
  simp only [List.any_nil, Bool.and_false, Bool.false_eq_true, if_false]

/-- A fibre that has left the runtime. -/
def Fibre.returned (f : Fibre) (r : InTrap) : Fibre := { f.leave r with parked := false }

/-- The end of an instruction touches none of these. -/
theorem Fibre.settled_keeps (ids : List FibreId) (g : Fibre) : (Fibre.settled ids g).inTrap = g.inTrap ∧ (Fibre.settled ids g).pc = g.pc
    ∧ (Fibre.settled ids g).obj = g.obj ∧ (Fibre.settled ids g).regs = g.regs := by
  unfold Fibre.settled
  split <;> exact ⟨rfl, rfl, rfl, rfl⟩

theorem Fibre.returned_same (f : Fibre) (r : InTrap) : (f.returned r).id = f.id ∧ (f.returned r).group = f.group := f.writeAllPend_same

section
variable (h : ToldBy s f r k c w)
include h

/-- RESUME: the fibre leaves the runtime as at ERET. -/
theorem ToldBy.resume (hpc : r.resume = .atPc) :
    ∃ t, (s.answerCame k (k, f.id, c) 1).actAnswer f 1 c = (t, true) ∧ SameBut (s.answerCame k (k, f.id, c) 1) t
      ∧ t.fibre? f.id = some (Fibre.settled [f.id] (f.returned r)) := by
  have hctx := h.runtimeCtx (answer := 1) .eret
  generalize hu : s.answerCame k (k, f.id, c) 1 = u at hctx ⊢
  have hcurrent : u.fibre? f.id = some f := hu ▸ h.current
  have hcalm : u.Calm := hu ▸ h.calm
  have hgroup : f.group = none := hcalm.2 f (List.mem_of_find?_eq_some hcurrent)
  obtain ⟨hid, hout⟩ := f.returned_same r
  have hrun := laneEret_atPc (c := u.runtimeOf .eret f w) hcurrent h.trapped hpc hgroup
  have hways : lanesWay (u.runtimeOf .eret f w) laneEret (u.runtimeOf .eret f w).act u = .ok (u.setFibre (f.returned r), []) := by
    show lanesWay _ laneEret [f] u = _
    unfold lanesWay
    rw [hrun]
    rfl
  obtain ⟨hfinish, hfibres⟩ := State.finish_quiet (cx := u.runtimeOf .eret f w) h.fresh
    (hcalm.setFibre (hout.trans hgroup))
  obtain ⟨hmeets, hkept⟩ := State.restoreMeets_same u ((u.setFibre (f.returned r)).finish (u.runtimeOf .eret f w) [f] []) w
  refine ⟨_, ?_, SameBut.trans (t := u.setFibre (f.returned r)) rfl (hfinish.trans hmeets), ?_⟩
  · show u.answerResume f = _
    unfold State.answerResume
    rw [hctx]
    dsimp only
    rw [hways, State.runtimeDo_ok]
    rfl
  · have hleft : (u.setFibre (f.returned r)).fibre? (f.returned r).id = some (f.returned r) := State.fibre?_setFibre_self (hid ▸ hcurrent)
    rw [hid] at hleft
    rw [State.fibre?_map (Fibre.settled_id _) _ _ (hkept.trans hfibres), hleft]
    rfl

/-- END: the fibre ends. -/
theorem ToldBy.endF (hitem : f.isItem = false) (hdues : f.dues = []) (hheld : f.held = [])
    (hfwds : ∀ q ∈ s.fwds, q.posted = false ∨ q.fibre ≠ f.id) :
    ∃ t, (s.answerCame k (k, f.id, c) 2).actAnswer f 2 c = (t, true) ∧ t.ring = (s.answerCame k (k, f.id, c) 2).ring ∧ t.fibre? f.id = none := by
  have hctx := h.runtimeCtx (answer := 2) .endF
  generalize hu : s.answerCame k (k, f.id, c) 2 = u at hctx ⊢
  have hcurrent : u.fibre? f.id = some f := hu ▸ h.current
  have hcalm : u.Calm := hu ▸ h.calm
  have hopen : u.storesOpen f.id = false := State.storesOpen_none hcurrent hdues hheld (hu ▸ hfwds)
  have hlane : perLane laneEnd (u.runtimeOf .endF f w) u = .ok (u.endFibre f, []) :=
    lanesFrom_lone hcurrent (laneEnd_run hopen fun hi => absurd hi (by simp [hitem]))
  have hunmet : u.Unmet := hcalm.1
  obtain ⟨hfinish, hfibres⟩ := State.finish_quiet (cx := u.runtimeOf .endF f w) (t := u.endFibre f) h.fresh
    ⟨hunmet.endFibre f, State.endFibre_group hcalm.2 f⟩
  refine ⟨(u.endFibre f).finish (u.runtimeOf .endF f w) (u.runtimeOf .endF f w).all [], ?_, ?_, ?_⟩
  · show u.answerEnd f = _
    unfold State.answerEnd
    rw [hctx]
    dsimp only
    rw [hlane, State.runtimeDo_ok]
  · rw [hfinish]
    exact State.endFibre_ring u f
  · rw [State.fibre?_map (Fibre.settled_id _) _ _ hfibres, State.endFibre_fibre?, if_pos rfl]
    rfl

theorem ToldBy.fack_acts {t : State} (hne : answer ≠ 0) (hact : (s.answerCame k (k, f.id, c) answer).actAnswer f answer c = (t, true)) :
    s.fack k answer = (t.forget k).wake := by
  rw [h.fack hne, h.tryKept hact]

/-- A host that is not frozen has its answer taken. -/
theorem ToldBy.taken : (if s.service.frozen.getLsbD 0 then s.send .unsupported else s.fack s.ev.word answer) = s.fack k answer := by
  rw [show s.service.frozen.getLsbD 0 = false from h.thawed, if_neg Bool.false_ne_true, h.names]

theorem ToldBy.exec_fackResume : exec .fackResume s = .next (s.fack k 1) := congrArg Host.Outcome.next h.taken
theorem ToldBy.exec_fackEnd : exec .fackEnd s = .next (s.fack k 2) := congrArg Host.Outcome.next h.taken
theorem ToldBy.exec_fackAbort : exec .fackAbort s = .next (s.fack k 3) := congrArg Host.Outcome.next h.taken

omit h in
/-- The answer that has been given is forgotten. -/
theorem State.forget_kept {t : State} {p : Word × FibreId × Cause} (hp : p.1 = k) (hring : t.ring = (s.answerCame k p answer).ring) :
    (t.forget k).wake.ring.kept = [] := by
  show t.ring.kept.filter (fun p => p.1.1 != k) = []
  rw [hring]
  simp [State.answerCame, hp]

end

/-! ### The end of a launch (02 R67) -/

/-- What a launch has recorded, part by part. -/
theorem recorded_parts {x : Option Launch} {i : Nat} {e : Bool} (h : x.map (fun l => (l.id, l.ending, l.status)) = some (i, e, c)) :
    x.map Launch.ending = some e ∧ x.map Launch.status = some c := by
  cases x with
  | none => cases h
  | some l =>
    cases h
    exact ⟨rfl, rfl⟩

/-- The names of the launches, whether they end, and what they have recorded. -/
def State.endings (s : State) : List (Nat × Bool × Cause) := s.launches.map (fun l => (l.id, l.ending, l.status))

theorem State.launch?_endings (s : State) (i : Nat) : (s.launch? i).map (fun l => (l.id, l.ending, l.status)) = s.endings.find? (fun p => p.1 == i) := by
  unfold State.endings State.launch?
  rw [List.find?_map]
  rfl

theorem State.endFibre_endings (s : State) (f : Fibre) : (s.endFibre f).endings = s.endings := by
  unfold State.endFibre State.endings
  cases f.id.crew with
  | team => rfl
  | item =>
    show List.map _ (List.map _ _) = _
    rw [List.map_map]
    rfl

theorem State.wake_endings (s : State) : s.wake.endings = s.endings := rfl
theorem State.freeCrews_endings (s : State) : s.freeCrews.endings = s.endings := rfl

theorem State.idleQueues_endings (s : State) : s.idleQueues.endings = s.endings := by
  unfold State.endings
  rw [State.idleQueues_launches]

theorem State.owe_endings (s : State) (f : Fibre) : (s.owe f).endings = s.endings := by
  unfold State.owe
  cases f.id.crew <;> rfl

theorem State.dismiss_endings (s : State) (g : Gang) : (s.dismiss g).endings = s.endings := by
  unfold State.dismiss
  rw [State.idleQueues_endings]
  exact foldl_keeps (p := State.endings) State.endFibre_endings _ _

/-- A launch that is ended has recorded the cause, if it is the first. -/
theorem State.endLaunch_recorded {l : Launch} (hl : s.launch? l.id = some l) :
    ((s.endLaunch l.id c).launch? l.id).map (fun l => (l.id, l.ending, l.status)) = some (l.id, true, if l.status = 0 then c else l.status) := by
  have hrecord : (l.record c).id = l.id ∧ (l.record c).status = if l.status = 0 then c else l.status := by
    unfold Launch.record
    split
    · next hstatus => exact ⟨rfl, (if_pos (beq_iff_eq.mp hstatus)).symm⟩
    · next hstatus => exact ⟨rfl, (if_neg fun h => hstatus (beq_iff_eq.mpr h)).symm⟩
  generalize hm : ({ l.record c with ending := true, nextGang := l.gangs, early := [], sump := [] } : Launch) = m
  have hid : m.id = l.id := hm ▸ hrecord.1
  have hset : (s.setLaunch m).launch? l.id = some m := hid ▸ State.launch?_setLaunch (hid.symm ▸ hl)
  have hend : (s.endLaunch l.id c).endings = (s.setLaunch m).endings := by
    unfold State.endLaunch
    rw [hl]
    dsimp -zeta only
    extract_lets fields s1 s2 items s3 s4
    have h1 : s1 = s.setLaunch m := congrArg s.setLaunch hm
    have h2 : s2.endings = s1.endings := foldl_keeps (p := State.endings) State.dismiss_endings _ _
    have h3 : s3.endings = s2.endings := foldl_keeps (p := State.endings) (fun u f => ((u.owe f).endFibre_endings f).trans (u.owe_endings f)) _ _
    have h4 : s4.endings = s3.endings := by
      show List.map _ (List.map _ _) = _
      rw [List.map_map]
      refine List.map_congr_left fun k _ => ?_
      dsimp only [Function.comp]
      split <;> rfl
    rw [State.wake_endings, State.idleQueues_endings, State.freeCrews_endings, h4, h3, h2, h1]
  rw [State.launch?_endings, hend, ← State.launch?_endings, hset]
  subst hm
  exact congrArg some (Prod.ext hrecord.1 (Prod.ext rfl hrecord.2))

end

/-! ### The statement -/

/-- Settles O53: the record's write is a quiet release and one update, its bytes are fields one behind another, and the one answer that is kept
acts on its fibre. -/
theorem faultRing : Obligations.FaultRing := by
  unfold Obligations.FaultRing
  intro toldBy
  have told : ∀ {s f r k c w}, toldBy s f r k c w → ToldBy s f r k c w :=
    fun ⟨h1, h2, h3, h4, h5, h6, h7, h8, h9, h10, h11, h12⟩ => ⟨h1, h2, h3, h4, h5, h6, h7, h8, h9, h10, h11, h12⟩
  refine ⟨fun s f l r hf hl hr hrun hres hroom hreach hfails hspan hquiet => ?written, fun s f l r hf hl hr hrun hres hroom hreach hfails => ?stopped,
    fun l f k hqueue => faultRecord_fields l f k hqueue, fun s f r k c w h hpc hpend => ?resume, fun s f r k c w h hitem hdues hheld hfwds => ?ended,
    fun s f r k c w l h hl => ?abort, fun s hfrozen i hi => ?frozen⟩
  case written =>
    have hwritten := State.faultWritten_fibre? (l := l) (current_of_named hf) hr
    obtain ⟨hmem, hring, hsent⟩ := State.faultWritten_rest s l f
    exact ⟨_, exec_faultRingWrite_written hf hl hr hrun hres hroom hreach hfails hspan hquiet, hmem, hring, hwritten, hsent⟩
  case stopped =>
    rw [exec_faultRingWrite hf hl hr hrun hres hroom hreach, if_pos hfails]
    rfl
  case resume =>
    obtain ⟨t, hact, hsame, hleft⟩ := (told h).resume hpc
    refine ⟨(t.forget k).wake, Fibre.settled [f.id] (f.returned r), ?_, hleft, ?_, ?_, ?_, ?_, State.forget_kept rfl (by rw [hsame])⟩
    · rw [(told h).exec_fackResume, (told h).fack_acts (by decide) hact]
    · exact (Fibre.settled_keeps _ _).1
    · exact (Fibre.settled_keeps _ _).2.1
    · exact (Fibre.settled_keeps _ _).2.2.1
    · exact (Fibre.settled_keeps _ _).2.2.2.trans (Fibre.writeAllPend_regs hpend)
  case ended =>
    obtain ⟨t, hact, hring, hgone⟩ := (told h).endF hitem hdues hheld hfwds
    refine ⟨(t.forget k).wake, ?_, hgone, State.forget_kept rfl hring⟩
    rw [(told h).exec_fackEnd, (told h).fack_acts (by decide) hact]
  case abort =>
    refine ⟨((State.endLaunch (s.answerCame k (k, f.id, c) 3) f.id.crew.launch c).forget k).wake, ?_, ?_⟩
    · rw [(told h).exec_fackAbort, (told h).fack_acts (by decide) rfl]
    · have hid : l.id = f.id.crew.launch := State.launch?_id hl
      have hrecorded := State.endLaunch_recorded (s := s.answerCame k (k, f.id, c) 3) (c := c) (l := l) (by rw [hid]; exact hl)
      rw [hid] at hrecorded ⊢
      exact recorded_parts hrecorded
  case frozen =>
    simp only [List.mem_cons, List.not_mem_nil, or_false] at hi
    obtain rfl | rfl | rfl := hi <;> exact congrArg Host.Outcome.next (if_pos hfrozen)

end Sys2Proof.Machine
end

section
/-! Records (27 R463 to R467; 02 R44): a record read and its act, launches, loads and unloads, completions and notifications. -/

namespace Sys2Proof.Machine

/-! ### What a read of host memory leaves (27 R460) -/

/-- A recall takes lines from the host, and nothing else. -/
theorem MemSys.recall_same (m : MemSys) (k : Nat) : ∃ hs rs, m.recall k = { m with hostLines := hs, recalls := rs } := by
  unfold MemSys.recall
  split
  · exact ⟨m.hostLines, m.recalls, rfl⟩
  · exact ⟨_, _, rfl⟩

theorem hostRecall_same (s : State) (a n : Nat) : ∃ hs rs, hostRecall s a n = { s with mem := { s.mem with hostLines := hs, recalls := rs } } := by
  have hmem : ∃ hs rs, (hostRecall s a n).mem = { s.mem with hostLines := hs, recalls := rs } := by
    refine List.foldlRecOn (motive := fun (m : MemSys) => ∃ hs rs, m = { s.mem with hostLines := hs, recalls := rs }) _ _
      ⟨s.mem.hostLines, s.mem.recalls, rfl⟩ ?_
    rintro m ⟨hs, rs, rfl⟩ i -
    split
    · obtain ⟨hs', rs', h⟩ := MemSys.recall_same { s.mem with hostLines := hs, recalls := rs } ((a + i - s.hdmBase) / 64)
      exact ⟨hs', rs', h⟩
    · exact ⟨hs, rs, rfl⟩
  obtain ⟨hs, rs, hmem⟩ := hmem
  exact ⟨hs, rs, congrArg (fun m => ({ s with mem := m } : State)) hmem⟩

theorem hostRecall_poisonAt (s : State) (a n b k : Nat) : (hostRecall s a n).poisonAt b k = s.poisonAt b k := by
  obtain ⟨hs, rs, h⟩ := hostRecall_same s a n
  rw [h]
  rfl

theorem hostRecall_hostReach (s : State) (a n b k : Nat) : hostReach (hostRecall s a n) b k = hostReach s b k := by
  obtain ⟨hs, rs, h⟩ := hostRecall_same s a n
  rw [h]
  rfl

theorem hostRecall_hostByte (s : State) (a n b : Nat) : hostByte (hostRecall s a n) b = hostByte s b := by
  obtain ⟨hs, rs, h⟩ := hostRecall_same s a n
  rw [h]
  rfl

/-! ### A record read (27 R463) -/

section
variable {s : State} {b : List Byte} {types : Nat → Bool} {act : State → Nat → List Byte → State}

theorem readRecord_acts (hnext : s.nextRecord s.ev.queue = some b) (htype : types (field b 2 1) = true) (hfails : s.ev.fails = false)
    (hpoison : s.poisonAt (s.queue s.ev.queue).slotAt 128 = false) :
    readRecord s types act = (act (hostRecall s (s.queue s.ev.queue).slotAt 128) s.ev.queue b).wake := by
  have hclean : ((hostRecall s (s.queue s.ev.queue).slotAt 128).ev.fails
      || (hostRecall s (s.queue s.ev.queue).slotAt 128).poisonAt (s.queue s.ev.queue).slotAt 128) = false := by
    rw [hostRecall_poisonAt, hpoison]
    exact congrArg (· || false) hfails
  unfold readRecord
  simp only [hnext, htype, Bool.not_true, Bool.false_eq_true, if_false]
  exact if_neg (fun h => Bool.false_ne_true (hclean.symm.trans h))

theorem readRecord_fails (hnext : s.nextRecord s.ev.queue = some b) (htype : types (field b 2 1) = true) (hfails : s.ev.fails = true) :
    readRecord s types act = ((hostRecall s (s.queue s.ev.queue).slotAt 128).ringFault s.ev.queue).wake := by
  have hfail : ((hostRecall s (s.queue s.ev.queue).slotAt 128).ev.fails
      || (hostRecall s (s.queue s.ev.queue).slotAt 128).poisonAt (s.queue s.ev.queue).slotAt 128) = true :=
    Bool.or_eq_true_iff.mpr (Or.inl hfails)
  unfold readRecord
  simp only [hnext, htype, Bool.not_true, Bool.false_eq_true, if_false]
  exact if_pos hfail

end

/-- A queue set, where it exists. -/
theorem State.queue_setQueue_self {s : State} {q : Nat} (hq : q < s.queues.length) (f : Queue → Queue) : (s.setQueue q f).queue q = f (s.queue q) := by
  rw [State.queue, State.queue, List.getD_eq_getElem?_getD, List.getD_eq_getElem?_getD, State.setQueue, updAt_getElem?, if_pos rfl,
    List.getElem?_eq_getElem hq]
  rfl

/-- The queue has taken its record, and the record is finished with a cause and its two results. -/
def State.Took (s t : State) (b : List Byte) (status : Cause) (low high : Nat) : Prop :=
  (t.queue s.ev.queue).head = (s.queue s.ev.queue).head + 1 ∧ ∃ r, t.finished = s.finished ++ [r] ∧ r.seq = BitVec.ofNat 32 (field b 4 4)
    ∧ r.comp = BitVec.ofNat 64 (field b 88 8) ∧ r.status = status ∧ r.low = low ∧ r.high = high ∧ r.queue = s.ev.queue

theorem State.finishRecord_took {s t : State} (b : List Byte) (c : Cause) (low high : Nat) (hq : s.ev.queue < s.queues.length)
    (hqueues : t.queues = (s.advance s.ev.queue).queues) (hfinished : t.finished = s.finished) :
    s.Took (t.finishRecord s.ev.queue b c low high).wake b c low high := by
  refine ⟨?_, { id := t.nextId, queue := s.ev.queue, seq := BitVec.ofNat 32 (field b 4 4), comp := BitVec.ofNat 64 (field b 88 8)
                acceptedAt := BitVec.ofNat 64 t.rtime, status := c, low := low, high := high }, ?_, rfl, rfl, rfl, rfl, rfl, rfl⟩
  · have hqueue : (t.finishRecord s.ev.queue b c low high).wake.queue s.ev.queue = (s.advance s.ev.queue).queue s.ev.queue :=
      congrArg (fun (qs : List Queue) => qs.getD s.ev.queue ({} : Queue)) hqueues
    rw [hqueue, State.advance, State.queue_setQueue_self hq]
  · exact congrArg (· ++ _) hfinished

/-! ### Launch records (27 R465) -/

section
variable {s : State} {q : Nat} {b args : List Byte} {o : Object}

/-- The object of that id that takes launches. -/
theorem found_id {os : List Object} {k : Nat} (h : os.find? (fun o => o.id == k && !o.unloading) = some o) : o.id = k := by
  have hfound := List.find?_some h
  exact beq_iff_eq.mp (Bool.and_eq_true_iff.mp hfound).1

theorem State.launchRecord_badFormat (h : (formatOk b && launchFormatOk b) = false) :
    s.launchRecord q b = (s.advance q).finishRecord q b (schedC 12) 0 0 := by
  unfold State.launchRecord
  exact if_pos (by rw [← Bool.not_and, h]; rfl)

theorem State.launchRecord_badClass (h : (formatOk b && launchFormatOk b) = true) (hcls : field b 21 1 ≠ (s.queue q).cls.toNat) :
    s.launchRecord q b = (s.advance q).finishRecord q b (schedC 13) 0 0 := by
  unfold State.launchRecord
  exact (if_neg (by rw [← Bool.not_and, h]; exact Bool.false_ne_true)).trans (if_pos (bne_iff_ne.mpr hcls))

/-- A record of good format and class goes by its object. -/
theorem State.launchRecord_checked (h : (formatOk b && launchFormatOk b) = true) (hcls : field b 21 1 = (s.queue q).cls.toNat) :
    s.launchRecord q b = match s.objects.find? (fun (o : Object) => o.id == field b 8 8 && !o.unloading) with
      | none => (s.advance q).finishRecord q b (schedC 14) 0 0
      | some o => match launchCheck b o with
        | some c => (s.advance q).finishRecord q b c 0 0
        | none =>
          match (readAreas { coreWho s 0 0 with queue := q, engine := true, timeout := s.walkOver (.record q) } b o).run
              ((s.advance q).walkNote (.record q) false) with
          | .ok (.error c, t) => t.dropAnswers.finishRecord q b c 0 0
          | .ok (.ok args, t) =>
            { t.dropAnswers.newId.2 with
              launches := t.launches ++ [launchOf t.dropAnswers.newId.2 t.nextId q b args] }.movePointers
          | .error (.wait why post) => (s.sendAll post).walkNote (.record q) (why == .walk)
          | .error _ => s := by
  unfold State.launchRecord
  exact (if_neg (by rw [← Bool.not_and, h]; exact Bool.false_ne_true)).trans (if_neg (by rw [hcls, bne_self_eq_false]; exact Bool.false_ne_true))

theorem State.launchRecord_refused {c : Cause}
    (h : (c = schedC 12 ∧ (formatOk b && launchFormatOk b) = false) ∨
      ((formatOk b && launchFormatOk b) = true ∧ c = schedC 13 ∧ ¬field b 21 1 = (s.queue q).cls.toNat) ∨
      ((formatOk b && launchFormatOk b) = true ∧ field b 21 1 = (s.queue q).cls.toNat ∧ c = schedC 14 ∧
        s.objects.find? (fun o => o.id == field b 8 8 && !o.unloading) = none) ∨
      ((formatOk b && launchFormatOk b) = true ∧ field b 21 1 = (s.queue q).cls.toNat ∧
        ∃ o, s.objects.find? (fun o => o.id == field b 8 8 && !o.unloading) = some o ∧ launchCheck b o = some c)) :
    s.launchRecord q b = (s.advance q).finishRecord q b c 0 0 := by
  obtain ⟨rfl, hformat⟩ | ⟨hformat, rfl, hcls⟩ | ⟨hformat, hcls, rfl, hnone⟩ | ⟨hformat, hcls, o, hfind, hcheck⟩ := h
  · exact State.launchRecord_badFormat hformat
  · exact State.launchRecord_badClass hformat hcls
  · rw [State.launchRecord_checked hformat hcls, hnone]
  · simp only [State.launchRecord_checked hformat hcls, hfind, hcheck]

theorem State.launchRecord_accepted {t : State} (h : (formatOk b && launchFormatOk b) = true) (hcls : field b 21 1 = (s.queue q).cls.toNat)
    (hfind : s.objects.find? (fun o => o.id == field b 8 8 && !o.unloading) = some o) (hcheck : launchCheck b o = none)
    (hread : (readAreas { coreWho s 0 0 with queue := q, engine := true, timeout := s.walkOver (.record q) } b o).run
      ((s.advance q).walkNote (.record q) false) = .ok (.ok args, t)) :
    s.launchRecord q b
      = { t.dropAnswers.newId.2 with launches := t.launches ++ [launchOf t.dropAnswers.newId.2 t.nextId q b args] }.movePointers := by
  simp only [State.launchRecord_checked h hcls, hfind, hcheck, hread]

end

/-! ### Load and unload records (27 R465) -/

section
variable {s : State} {q : Nat} {b : List Byte} {o : Object}

/-- A load record of good format and class, of an image that can be read, goes by the image. -/
theorem State.loadRecord_checked (hformat : formatOk b = true) (hcls : field b 21 1 = (s.queue q).cls.toNat)
    (hreach : hostReach s (field b 8 8) (field b 16 4) = true) (hpoison : s.poisonAt (field b 8 8) (field b 16 4) = false) :
    s.loadRecord q b = match loadImage s.nextId (field b 16 4) (fun k => hostByte s (field b 8 8 + k)) with
      | .error c => (hostRecall (s.advance q) (field b 8 8) (field b 16 4)).finishRecord q b c 0 0
      | .ok o => { (hostRecall (s.advance q) (field b 8 8) (field b 16 4)).newId.2 with objects := s.objects ++ [o] }.finishRecord q b 0 o.id
          o.gangBytes := by
  unfold State.loadRecord
  simp only [hformat, hcls, hreach, hpoison, Bool.not_true, Bool.false_eq_true, if_false, bne_self_eq_false]
  rfl

/-- An object that takes no further launch. -/
def Object.closedAs (k : Nat) (x : Object) : Object := if x.id == k then { x with unloading := true } else x

/-- What waits for the object's last launch. -/
def State.unloadOf (s : State) (q : Nat) (b : List Byte) : Unload :=
  { queue := q, seq := BitVec.ofNat 32 (field b 4 4), obj := field b 8 8, comp := BitVec.ofNat 64 (field b 88 8)
    acceptedAt := BitVec.ofNat 64 s.rtime }

theorem State.unloadRecord_taken (hformat : formatOk b = true) (hcls : field b 21 1 = (s.queue q).cls.toNat)
    (hfind : s.objects.find? (fun o => o.id == field b 8 8 && !o.unloading) = some o) :
    s.unloadRecord q b = { s.advance q with
      objects := s.objects.map (Object.closedAs (field b 8 8)), unloads := s.unloads ++ [s.unloadOf q b] } := by
  unfold State.unloadRecord
  simp only [hformat, hcls, hfind, Bool.not_true, Bool.false_eq_true, if_false, bne_self_eq_false]
  rfl

/-- The objects of other ids are those that stood there. -/
theorem filter_closedAs (os : List Object) (k : Nat) : (os.map (Object.closedAs k)).filter (fun x => x.id != k) = os.filter (fun x => x.id != k) := by
  induction os with
  | nil => rfl
  | cons x os ih =>
    by_cases hx : x.id = k
    · simp [Object.closedAs, hx, ih]
    · simp [Object.closedAs, hx, ih]

/-- The one unload that waits, its object idle. -/
theorem State.unloadReady_one {u : Unload} (hone : s.unloads = [u]) (hidle : ∀ l ∈ s.launches, l.obj ≠ u.obj) :
    s.unloadReady = { s with
      nextId := s.nextId + 1, objects := s.objects.filter (fun o => o.id != u.obj), unloads := []
      finished := s.finished ++ [{ id := s.nextId, queue := u.queue, seq := u.seq, comp := u.comp, acceptedAt := u.acceptedAt }] } := by
  have hgo : s.unloads.filter (fun u => !s.launches.any (fun l => l.obj == u.obj)) = [u] := by
    rw [hone]
    exact List.filter_cons_of_pos (by simpa using hidle)
  have hgone : [u].filter (fun v => v.obj != u.obj) = [] := by simp
  unfold State.unloadReady
  dsimp only
  rw [hgo]
  simp only [List.foldl_cons, List.foldl_nil, State.newId, hone, hgone]

theorem State.unloadReady_busy {u : Unload} {l : Launch} (hone : s.unloads = [u]) (hl : l ∈ s.launches) (hobj : l.obj = u.obj) : s.unloadReady = s := by
  have hgo : s.unloads.filter (fun u => !s.launches.any (fun l => l.obj == u.obj)) = [] := by
    rw [hone]
    exact List.filter_cons_of_neg (by rw [Bool.not_eq_true', Bool.not_eq_false, List.any_eq_true]; exact ⟨l, hl, beq_iff_eq.mpr hobj⟩)
  unfold State.unloadReady
  dsimp only
  rw [hgo]
  rfl

end

end Sys2Proof.Machine
end

section
/-! Completion records and notifications (27 R466, R467), and the records' obligation. -/

namespace Sys2Proof.Machine

theorem updAt_length {α : Type} (l : List α) (i : Nat) (f : α → α) : (updAt l i f).length = l.length := by
  induction l generalizing i with
  | nil => rfl
  | cons x xs ih =>
    cases i with
    | zero => rfl
    | succ n => exact congrArg (· + 1) (ih n)

theorem hostWrite_queue (s : State) (a : Nat) (bs : List Byte) (q : Nat) : (hostWrite s a bs).queue q = s.queue q := rfl

theorem State.setQueue_length (s : State) (q : Nat) (f : Queue → Queue) : (s.setQueue q f).queues.length = s.queues.length :=
  updAt_length s.queues q f

/-- MARK of a record is its sequence number complemented. -/
theorem word_mark (w : Word) : w ^^^ 0xFFFFFFFF = ~~~w := BitVec.xor_allOnes

/-! ### Completion records (27 R466) -/

/-- A completion record's bytes, MARK last. -/
def State.completed (s : State) (comp : DWord) (seq : Word) (bs : List Byte) : State :=
  hostWrite (hostWrite s comp.toNat bs) (comp.toNat + 60) (leBytes 4 (~~~seq).toNat)

theorem State.complete_written (s : State) (q : Nat) (comp : DWord) (seq : Word) (bs : List Byte) :
    s.complete q comp seq bs false
      = if (s.queue q).cirq then (s.completed comp seq bs).send (.interrupt (s.queue q).vec) else s.completed comp seq bs := by
  unfold State.complete State.completed
  rw [word_mark]
  rfl

theorem State.complete_mem (s : State) (q : Nat) (comp : DWord) (seq : Word) (bs : List Byte) :
    (s.complete q comp seq bs false).mem = (s.completed comp seq bs).mem := by
  rw [State.complete_written]
  split <;> rfl

theorem State.complete_finished (s : State) (q : Nat) (comp : DWord) (seq : Word) (bs : List Byte) :
    (s.complete q comp seq bs false).finished = s.finished := by
  rw [State.complete_written]
  split <;> rfl

/-- A launch that left nothing in an L1 owes no write-back. -/
theorem payOwed_none {s : State} {l : Nat} (h : s.owes l = false) : (payOwed l).run s = .ok ((), s) := by
  unfold payOwed
  rw [bind_get]
  simp only [h]
  rfl

/-- A part that holds no vein has none to release. -/
theorem State.dropHolds_none {s : State} (h : ∀ v ∈ s.mem.veins, v.hold = none) (l : Nat) : s.dropHolds l = s := by
  refine foldl_eq_self (fun v _ => ?_)
  have hnone : (s.mem.veins[v]?).bind Vein.hold = none := by
    cases hv : s.mem.veins[v]? with
    | none => rfl
    | some x => exact h x (List.mem_of_getElem? hv)
  rw [hnone]
  rfl

section
variable {s : State} {l : Launch} {f : Finished}

theorem exec_launchCompletion_launch (hl : s.launch? s.ev.launch = some l) (hdone : s.launchDone l = true)
    (hreach : hostReach s l.comp.toNat 64 = true) (howes : s.owes l.id = false) :
    exec .launchCompletion s = .next (s.completeLaunch l).wake := by
  change execLaunchCompletion s = _
  unfold execLaunchCompletion
  simp only [hl, hdone, hreach, payOwed_none howes, Bool.and_self, if_true]

/-- The completion record of a finished launch. -/
def State.launchBytes (s : State) (l : Launch) : List Byte :=
  completionBytes l.seq l.status l.retired l.acceptedAt.toNat s.rtime ((l.span.map (fun p => p.map.toNat)).getD 0) l.assayFault.toNat

theorem State.completeLaunch_written (hfails : s.ev.fails = false) (hveins : ∀ v ∈ s.mem.veins, v.hold = none) :
    s.completeLaunch l = { s.complete l.queue l.comp l.seq (s.launchBytes l) false with
      launches := (s.complete l.queue l.comp l.seq (s.launchBytes l) false).launches.filter (fun m => m.id != l.id) }.freeCrews := by
  unfold State.completeLaunch
  simp only [State.dropHolds_none hveins, hfails]
  rfl

theorem exec_launchCompletion_record (hl : s.launch? s.ev.launch = none) (hf : s.finished.find? (fun f => f.id == s.ev.launch) = some f)
    (hreach : hostReach s f.comp.toNat 64 = true) (hfails : s.ev.fails = false) :
    exec .launchCompletion s = .next (({ s with finished := s.finished.filter (fun g => g.id != f.id) } : State).complete f.queue f.comp f.seq
      (completionBytes f.seq f.status f.low f.acceptedAt.toNat s.rtime 0 f.high) false).wake := by
  change execLaunchCompletion s = _
  unfold execLaunchCompletion
  simp only [hl, hf, hreach, hfails, if_true]
  rfl

end

/-- What a completion record holds, field by field. -/
theorem completionBytes_fields (seq : Word) (c : Cause) (low at_ now map high : Nat) (hlow : low < 2 ^ 64) (hmap : map < 2 ^ 192) :
    (completionBytes seq c low at_ now map high).length = 60 ∧ field (completionBytes seq c low at_ now map high) 0 4 = seq.toNat
      ∧ field (completionBytes seq c low at_ now map high) 4 4 = c.toNat ∧ field (completionBytes seq c low at_ now map high) 8 8 = low
      ∧ field (completionBytes seq c low at_ now map high) 32 24 = map := by
  have hbytes : completionBytes seq c low at_ now map high = leBytes 4 seq.toNat ++ (leBytes 4 c.toNat ++ (leBytes 8 low ++ (leBytes 8 at_
      ++ (leBytes 8 now ++ (leBytes 24 map ++ leBytes 4 high))))) := by
    unfold completionBytes
    simp only [List.append_assoc]
  have hcause : c.toNat % 256 ^ 4 = c.toNat := Nat.mod_eq_of_lt (c.isLt.trans (by decide))
  have hlow : low % 256 ^ 8 = low := Nat.mod_eq_of_lt hlow
  have hmap : map % 256 ^ 24 = map := Nat.mod_eq_of_lt hmap
  rw [hbytes]
  refine ⟨by simp only [List.length_append, leBytes_length], (field_here ..).trans (word_lt seq), ?_, ?_, ?_⟩
  all_goals simp (disch := omega) only [field_past, Nat.reduceSub, field_here, hcause, hlow, hmap]

/-! ### Notifications (27 R467) -/

section
variable {s : State} {a t seq : Word} {rest : List (Word × Word × Word)}

/-- Where a queue's next notification goes. -/
def Queue.noteAt (u : Queue) : Nat := u.nbase.toNat + 16 * (u.ntail.toNat % max u.nsize.toNat 1)

/-- A notification's bytes, MARK last. -/
def Queue.noteBytes (u : Queue) (a t seq : Word) : List Byte :=
  leBytes 4 a.toNat ++ leBytes 4 t.toNat ++ leBytes 4 seq.toNat ++ leBytes 4 (~~~u.ntail).toNat

/-- A queue after its oldest notification is written. -/
def Queue.noted (u : Queue) (rest : List (Word × Word × Word)) : Queue := { u with notes := rest, ntail := u.ntail + 1 }

theorem exec_notificationPost (hnotes : (s.queue s.ev.queue).notes = (a, t, seq) :: rest)
    (hroom : (s.queue s.ev.queue).ntail - (s.queue s.ev.queue).nhead ≠ (s.queue s.ev.queue).nsize)
    (hreach : hostReach s (s.queue s.ev.queue).noteAt 16 = true) : exec .notificationPost s = .next (s.postNote s.ev.queue a t seq).wake := by
  change execNotificationPost s = _
  unfold execNotificationPost
  simp only [hnotes]
  exact if_pos (Bool.and_eq_true_iff.mpr ⟨bne_iff_ne.mpr hroom, hreach⟩)

/-- The ring and the memory after an entry is written, before the vector. -/
def State.noteWritten (s : State) (q : Nat) (a t seq : Word) : State :=
  (hostWrite (s.setQueue q (fun u => { u with notes := u.notes.drop 1 })) (s.queue q).noteAt ((s.queue q).noteBytes a t seq)).setQueue q
    (fun u => { u with ntail := u.ntail + 1 })

theorem State.postNote_written {q : Nat} (hfails : s.ev.fails = false) :
    s.postNote q a t seq = if (s.queue q).nirq then (s.noteWritten q a t seq).send (.interrupt (s.queue q).vec) else s.noteWritten q a t seq := by
  unfold State.postNote State.noteWritten Queue.noteBytes
  rw [← word_mark]
  exact if_neg (fun h => Bool.false_ne_true (hfails.symm.trans h))

theorem State.noteWritten_queue {q : Nat} (hq : q < s.queues.length) (hnotes : (s.queue q).notes = (a, t, seq) :: rest) :
    (s.noteWritten q a t seq).queue q = (s.queue q).noted rest := by
  have hwritten := State.queue_setQueue_self (s := hostWrite (s.setQueue q (fun u => { u with notes := u.notes.drop 1 })) (s.queue q).noteAt
    ((s.queue q).noteBytes a t seq)) ((State.setQueue_length s q _).symm ▸ hq) (fun u => { u with ntail := u.ntail + 1 })
  have hdropped : (hostWrite (s.setQueue q (fun u => { u with notes := u.notes.drop 1 })) (s.queue q).noteAt
      ((s.queue q).noteBytes a t seq)).queue q = { s.queue q with notes := rest } := by
    rw [hostWrite_queue, State.queue_setQueue_self hq, hnotes]
    rfl
  rw [hdropped] at hwritten
  exact hwritten

theorem State.noteWritten_mem (s : State) (q : Nat) (a t seq : Word) :
    (s.noteWritten q a t seq).mem = (hostWrite s (s.queue q).noteAt ((s.queue q).noteBytes a t seq)).mem := rfl

theorem State.noteWritten_sent (s : State) (q : Nat) (a t seq : Word) : (s.noteWritten q a t seq).sent = s.sent := rfl

theorem State.postNote_noted {q : Nat} (hq : q < s.queues.length) (hnotes : (s.queue q).notes = (a, t, seq) :: rest) (hfails : s.ev.fails = false) :
    (s.postNote q a t seq).queue q = (s.queue q).noted rest
      ∧ (s.postNote q a t seq).mem = (hostWrite s (s.queue q).noteAt ((s.queue q).noteBytes a t seq)).mem
      ∧ (s.postNote q a t seq).sent = if (s.queue q).nirq then .interrupt (s.queue q).vec :: s.sent else s.sent := by
  rw [State.postNote_written hfails, ← State.noteWritten_queue hq hnotes, ← State.noteWritten_mem, ← State.noteWritten_sent s q a t seq]
  split
  · exact ⟨rfl, rfl, State.send_interrupt ..⟩
  · exact ⟨rfl, rfl, rfl⟩

end

end Sys2Proof.Machine
end

section
/-! The records' obligation (27 R463 to R467), clause by clause. -/

namespace Sys2Proof.Machine

/-- The queue's next record is this one, of this type, and its read succeeds. -/
def State.Reads (s : State) (type : Nat) (b : List Byte) : Prop :=
  s.ev.queue < 64 ∧ s.queues.length = 64 ∧ s.nextRecord s.ev.queue = some b ∧ field b 2 1 = type ∧ s.ev.fails = false
    ∧ s.poisonAt (s.queue s.ev.queue).slotAt 128 = false

section
variable {s t : State} {b args : List Byte} {o : Object} {c : Cause} {type : Nat}

/-- The state once the next record's lines are recalled from the host. -/
def State.slotRecalled (s : State) : State := hostRecall s (s.queue s.ev.queue).slotAt 128

theorem State.Reads.inRange (h : s.Reads type b) : s.ev.queue < s.queues.length := by
  obtain ⟨hq, hlen, -⟩ := h
  rw [hlen]
  exact hq

theorem State.Reads.acts (h : s.Reads type b) {types : Nat → Bool} {act : State → Nat → List Byte → State} (htype : types type = true) :
    readRecord s types act = (act s.slotRecalled s.ev.queue b).wake := by
  obtain ⟨-, -, hnext, rfl, hfails, hpoison⟩ := h
  exact readRecord_acts hnext htype hfails hpoison

theorem State.Reads.exec_launch (h : s.Reads 0 b) : exec .launchRecord s = .next (s.slotRecalled.launchRecord s.ev.queue b).wake :=
  congrArg Host.Outcome.next (h.acts (types := fun t => t == 0 || 2 < t) rfl)

theorem State.Reads.exec_load (h : s.Reads 1 b) : exec .loadRecord s = .next (s.slotRecalled.loadRecord s.ev.queue b).wake :=
  congrArg Host.Outcome.next (h.acts (types := fun t => t == 1) rfl)

theorem State.Reads.exec_unload (h : s.Reads 2 b) : exec .unloadRecord s = .next (s.slotRecalled.unloadRecord s.ev.queue b).wake.unloadReady :=
  congrArg (fun u => Host.Outcome.next (State.unloadReady u)) (h.acts (types := fun t => t == 2) rfl)

theorem State.finishRecord_objects (s : State) (q : Nat) (b : List Byte) (c : Cause) (low high : Nat) :
    (s.finishRecord q b c low high).wake.objects = s.objects := rfl

/-! ### Launches -/

/-- A launch accepted is the one its record describes. -/
theorem State.Reads.launch_accepted (h : s.Reads 0 b) (hformat : formatOk b = true) (hlaunch : launchFormatOk b = true)
    (hcls : field b 21 1 = (s.queue s.ev.queue).cls.toNat)
    (hfind : s.objects.find? (fun o => o.id == field b 8 8 && !o.unloading) = some o) (hcheck : launchCheck b o = none)
    (hread : (readAreas { coreWho s.slotRecalled 0 0 with
        queue := s.ev.queue, engine := true, timeout := s.slotRecalled.walkOver (.record s.ev.queue) } b o).run
      ((s.slotRecalled.advance s.ev.queue).walkNote (.record s.ev.queue) false) = .ok (.ok args, t)) :
    exec .launchRecord s = .next ({ t.dropAnswers.newId.2 with
      launches := t.launches ++ [launchOf t.dropAnswers.newId.2 t.nextId s.ev.queue b args] } : State).movePointers.wake := by
  rw [h.exec_launch, State.launchRecord_accepted (s := s.slotRecalled) (by rw [hformat, hlaunch]; rfl) hcls hfind hcheck hread]

theorem State.Reads.launch_refused (h : s.Reads 0 b)
    (hwhy : (c = schedC 12 ∧ (formatOk b && launchFormatOk b) = false) ∨
      ((formatOk b && launchFormatOk b) = true ∧ c = schedC 13 ∧ ¬field b 21 1 = (s.queue s.ev.queue).cls.toNat) ∨
      ((formatOk b && launchFormatOk b) = true ∧ field b 21 1 = (s.queue s.ev.queue).cls.toNat ∧ c = schedC 14 ∧
        s.objects.find? (fun o => o.id == field b 8 8 && !o.unloading) = none) ∨
      ((formatOk b && launchFormatOk b) = true ∧ field b 21 1 = (s.queue s.ev.queue).cls.toNat ∧
        ∃ o, s.objects.find? (fun o => o.id == field b 8 8 && !o.unloading) = some o ∧ launchCheck b o = some c)) :
    ∃ t, exec .launchRecord s = .next t ∧ t.launches = s.launches ∧ s.Took t b c 0 0 := by
  refine ⟨_, h.exec_launch, ?_⟩
  rw [State.launchRecord_refused (s := s.slotRecalled) hwhy]
  exact ⟨rfl, State.finishRecord_took b c 0 0 h.inRange rfl rfl⟩

/-! ### Loads and unloads -/

theorem State.Reads.load_checked (h : s.Reads 1 b) (hformat : formatOk b = true) (hcls : field b 21 1 = (s.queue s.ev.queue).cls.toNat)
    (hreach : hostReach s (field b 8 8) (field b 16 4) = true) (hpoison : s.poisonAt (field b 8 8) (field b 16 4) = false) :
    exec .loadRecord s = .next (match loadImage s.nextId (field b 16 4) (fun k => hostByte s (field b 8 8 + k)) with
      | .error c => (hostRecall (s.slotRecalled.advance s.ev.queue) (field b 8 8) (field b 16 4)).finishRecord s.ev.queue b c 0 0
      | .ok o => { (hostRecall (s.slotRecalled.advance s.ev.queue) (field b 8 8) (field b 16 4)).newId.2 with
          objects := s.objects ++ [o] }.finishRecord s.ev.queue b 0 o.id o.gangBytes).wake := by
  have hbytes : (fun k => hostByte s.slotRecalled (field b 8 8 + k)) = fun k => hostByte s (field b 8 8 + k) :=
    funext fun k => hostRecall_hostByte ..
  have hload := State.loadRecord_checked (s := s.slotRecalled) (q := s.ev.queue) hformat hcls ((hostRecall_hostReach ..).trans hreach)
    ((hostRecall_poisonAt ..).trans hpoison)
  rw [hbytes] at hload
  rw [h.exec_load, hload]
  rfl

theorem State.Reads.load_taken (h : s.Reads 1 b) (hformat : formatOk b = true) (hcls : field b 21 1 = (s.queue s.ev.queue).cls.toNat)
    (hreach : hostReach s (field b 8 8) (field b 16 4) = true) (hpoison : s.poisonAt (field b 8 8) (field b 16 4) = false)
    (himage : loadImage s.nextId (field b 16 4) (fun k => hostByte s (field b 8 8 + k)) = .ok o) :
    ∃ t, exec .loadRecord s = .next t ∧ t.objects = s.objects ++ [o] ∧ s.Took t b 0 o.id o.gangBytes := by
  refine ⟨_, h.load_checked hformat hcls hreach hpoison, ?_⟩
  rw [himage]
  exact ⟨rfl, State.finishRecord_took b 0 o.id o.gangBytes h.inRange rfl rfl⟩

theorem State.Reads.load_refused (h : s.Reads 1 b) (hformat : formatOk b = true) (hcls : field b 21 1 = (s.queue s.ev.queue).cls.toNat)
    (hreach : hostReach s (field b 8 8) (field b 16 4) = true) (hpoison : s.poisonAt (field b 8 8) (field b 16 4) = false)
    (himage : loadImage s.nextId (field b 16 4) (fun k => hostByte s (field b 8 8 + k)) = .error c) :
    ∃ t, exec .loadRecord s = .next t ∧ t.objects = s.objects ∧ s.Took t b c 0 0 := by
  refine ⟨_, h.load_checked hformat hcls hreach hpoison, ?_⟩
  rw [himage]
  exact ⟨State.finishRecord_objects .., State.finishRecord_took b c 0 0 h.inRange rfl rfl⟩

/-- The state once an unload record is taken. -/
def State.unloading (s : State) (b : List Byte) : State :=
  { s.slotRecalled.advance s.ev.queue with
    objects := s.objects.map (Object.closedAs (field b 8 8)), unloads := [s.slotRecalled.unloadOf s.ev.queue b] }

theorem State.unloading_finished (s : State) (b : List Byte) : (s.unloading b).finished = s.finished := rfl

theorem State.unloading_objects (s : State) (b : List Byte) : (s.unloading b).objects = s.objects.map (Object.closedAs (field b 8 8)) := rfl

theorem State.Reads.unload_taken (h : s.Reads 2 b) (hformat : formatOk b = true) (hcls : field b 21 1 = (s.queue s.ev.queue).cls.toNat)
    (hnone : s.unloads = []) (hfind : s.objects.find? (fun o => o.id == field b 8 8 && !o.unloading) = some o) :
    exec .unloadRecord s = .next (s.unloading b).wake.unloadReady := by
  rw [h.exec_unload, State.unloadRecord_taken (s := s.slotRecalled) hformat hcls hfind]
  have hone : s.slotRecalled.unloads ++ [s.slotRecalled.unloadOf s.ev.queue b] = [s.slotRecalled.unloadOf s.ev.queue b] :=
    congrArg (· ++ _) hnone
  rw [hone]
  rfl

theorem State.Reads.unload_idle (h : s.Reads 2 b) (hformat : formatOk b = true) (hcls : field b 21 1 = (s.queue s.ev.queue).cls.toNat)
    (hnone : s.unloads = []) (hfind : s.objects.find? (fun o => o.id == field b 8 8 && !o.unloading) = some o)
    (hidle : ∀ l ∈ s.launches, l.obj ≠ o.id) :
    ∃ t, exec .unloadRecord s = .next t ∧ t.objects = s.objects.filter (fun x => x.id != o.id) ∧ s.Took t b 0 0 0 := by
  have hid := found_id hfind
  refine ⟨_, h.unload_taken hformat hcls hnone hfind, ?_⟩
  rw [State.unloadReady_one (s := (s.unloading b).wake) (u := s.slotRecalled.unloadOf s.ev.queue b) rfl
    (fun l hl hobj => hidle l hl (hobj.trans hid.symm)), hid]
  exact ⟨filter_closedAs .., State.finishRecord_took (t := s.slotRecalled.advance s.ev.queue) b 0 0 0 h.inRange rfl rfl⟩

theorem State.Reads.unload_busy {l : Launch} (h : s.Reads 2 b) (hformat : formatOk b = true)
    (hcls : field b 21 1 = (s.queue s.ev.queue).cls.toNat) (hnone : s.unloads = [])
    (hfind : s.objects.find? (fun o => o.id == field b 8 8 && !o.unloading) = some o) (hl : l ∈ s.launches) (hobj : l.obj = o.id) :
    ∃ t, exec .unloadRecord s = .next t ∧ t.finished = s.finished ∧
      t.objects = s.objects.map (fun x => if x.id == o.id then { x with unloading := true } else x) := by
  have hid := found_id hfind
  refine ⟨_, h.unload_taken hformat hcls hnone hfind, ?_⟩
  rw [State.unloadReady_busy (s := (s.unloading b).wake) (u := s.slotRecalled.unloadOf s.ev.queue b) rfl hl (hobj.trans hid), hid]
  exact ⟨by rw [State.wake_finished, State.unloading_finished], by rw [State.wake_objects, State.unloading_objects]; rfl⟩

/-! ### A read that fails -/

/-- The queue stops, and raises its vector. -/
theorem slotFails (hq : s.ev.queue < s.queues.length) :
    (s.slotRecalled.ringFault s.ev.queue).wake.sent = .interrupt (s.queue s.ev.queue).vec :: s.sent ∧
      (s.slotRecalled.ringFault s.ev.queue).wake.queue s.ev.queue = { s.queue s.ev.queue with en := false, ringFault := true } := by
  have hstop : (s.slotRecalled.setQueue s.ev.queue (fun u => { u with en := false })).queue s.ev.queue = { s.queue s.ev.queue with en := false } :=
    State.queue_setQueue_self (s := s.slotRecalled) hq _
  have hmark := State.queue_setQueue_self (s := s.slotRecalled.setQueue s.ev.queue (fun u => { u with en := false }))
    ((State.setQueue_length s.slotRecalled s.ev.queue _).symm ▸ hq) (fun u => { u with ringFault := true })
  rw [hstop] at hmark
  refine ⟨?_, hmark⟩
  have hvec := congrArg (fun (u : Queue) => Msg.interrupt u.vec :: s.sent) hmark
  exact hvec

theorem record_fails (hq : s.ev.queue < s.queues.length) (hnext : s.nextRecord s.ev.queue = some b) (hfails : s.ev.fails = true) :
    ∀ p ∈ [(0, Instr.launchRecord), (1, .loadRecord)], field b 2 1 = p.1 →
    ∃ t, exec p.2 s = .next t ∧ t.sent = .interrupt (s.queue s.ev.queue).vec :: s.sent ∧
      t.queue s.ev.queue = { s.queue s.ev.queue with en := false, ringFault := true } := by
  intro p hp htype
  refine ⟨(s.slotRecalled.ringFault s.ev.queue).wake, ?_, slotFails hq⟩
  obtain rfl | rfl : p = (0, Instr.launchRecord) ∨ p = (1, Instr.loadRecord) := by simpa using hp
  · exact congrArg Host.Outcome.next (readRecord_fails (types := fun t => t == 0 || 2 < t) hnext (by rw [htype]; rfl) hfails)
  · exact congrArg Host.Outcome.next (readRecord_fails (types := fun t => t == 1) hnext (by rw [htype]; rfl) hfails)

end

/-- Settles O56, clause by clause: a readable record acts after its recall; a completion or notification is written, MARK last. -/
theorem recordEvents : Obligations.RecordEvents := by
  unfold Obligations.RecordEvents
  intro reads classOk done
  refine ⟨?_, ?_, ?_, ?_, ?_, ?_, ?_, ?_, ?_, ?_, ?_⟩
  · intro s t b args o h hformat hlaunch hcls hfind hcheck r hread
    refine ⟨_, _, State.Reads.launch_accepted h hformat hlaunch hcls hfind hcheck hread, rfl, rfl, rfl, (found_id hfind).symm, rfl, rfl, rfl, rfl,
      rfl, rfl, beq_eq_decide .., ?_⟩
    simp only [launchOf, beq_iff_eq]
  · exact fun s b c h hwhy => State.Reads.launch_refused h hwhy
  · exact fun s b o h hformat hcls hreach hpoison himage => State.Reads.load_taken h hformat hcls hreach hpoison himage
  · exact fun s b c h hformat hcls hreach hpoison himage => State.Reads.load_refused h hformat hcls hreach hpoison himage
  · exact fun s b o h hformat hcls hnone hfind hidle => State.Reads.unload_idle h hformat hcls hnone hfind hidle
  · exact fun s b o l h hformat hcls hnone hfind hl hobj => State.Reads.unload_busy h hformat hcls hnone hfind hl hobj
  · exact fun s b hq hlen hnext hfails => record_fails (hlen.symm ▸ hq) hnext hfails
  · intro s l hl hdone hreach hfails howes hveins hcirq
    refine ⟨_, exec_launchCompletion_launch hl hdone hreach howes, ?_⟩
    rw [State.completeLaunch_written hfails hveins, State.complete_written, if_pos hcirq]
    refine ⟨List.find?_eq_none.mpr fun m hm => ?_, rfl, rfl⟩
    have hne := (List.mem_filter.mp hm).2
    simpa using hne
  · intro s f hl hf hreach hfails
    refine ⟨_, exec_launchCompletion_record hl hf hreach hfails, ?_, State.complete_mem ..⟩
    intro g hg
    rw [State.wake_finished, State.complete_finished] at hg
    exact bne_iff_ne.mp (List.mem_filter.mp hg).2
  · exact fun seq c low at_ now map high hlow hmap => completionBytes_fields seq c low at_ now map high hlow hmap
  · intro s a t seq rest q at_ hq hnotes hroom hreach hfails
    refine ⟨_, exec_notificationPost hnotes hroom hreach, ?_⟩
    obtain ⟨hqueue, hmem, hsent⟩ := State.postNote_noted hq hnotes hfails
    exact ⟨hqueue, hmem, hsent⟩

end Sys2Proof.Machine
end

section
/-! The registers of BAR0, the host's accesses to HDM, format regions and watchdogs (27 R460 to R463; 29 R494, R495; 19 R412; 32 R514). -/

namespace Sys2Proof.Machine

/-! ### A write's bytes in a unit of 8 (27 R462) -/

/-- A number is its bytes, as far as they go. -/
theorem sum_bytes (n m : Nat) : ((List.range m).map (fun k => n / 256 ^ k % 256 * 256 ^ k)).sum = n % 256 ^ m := by
  induction m with
  | zero => exact (Nat.mod_one n).symm
  | succ m ih => rw [List.range_succ, List.map_append, List.sum_append, ih, List.map_singleton, List.sum_singleton, Nat.mod_pow_succ, Nat.mul_comm]

/-- A write of a whole unit. -/
theorem regPart_whole (n v : Nat) : regPart (8 * n) 8 v n = { val := v % 256 ^ 8, mask := 0xFF } := by
  have hwritten : ∀ k ∈ List.range 8, decide (8 * n ≤ 8 * n + k ∧ 8 * n + k < 8 * n + 8) = true := by
    intro k hk
    have hk := List.mem_range.mp hk
    exact decide_eq_true (by omega)
  have hval : (List.range 8).map (fun k => if decide (8 * n ≤ 8 * n + k ∧ 8 * n + k < 8 * n + 8) then v / 256 ^ (8 * n + k - 8 * n) % 256 * 256 ^ k else 0)
      = (List.range 8).map (fun k => v / 256 ^ k % 256 * 256 ^ k) :=
    List.map_congr_left fun k hk => by rw [if_pos (hwritten k hk), Nat.add_sub_cancel_left]
  have hmask : (List.range 8).map (fun k => if decide (8 * n ≤ 8 * n + k ∧ 8 * n + k < 8 * n + 8) then 2 ^ k else 0) = (List.range 8).map (2 ^ ·) :=
    List.map_congr_left fun k hk => if_pos (hwritten k hk)
  unfold regPart
  dsimp only
  rw [hval, hmask, sum_bytes]
  rfl

/-- A whole unit's write leaves nothing of the old. -/
theorem merge_whole (v old : Nat) : RegWrite.merge { val := v % 256 ^ 8, mask := 0xFF } old = v % 256 ^ 8 := by
  have hwritten : (List.range 8).map (fun k => (if (0xFF : BitVec 8).getLsbD k then v % 256 ^ 8 else old) / 256 ^ k % 256 * 256 ^ k)
      = (List.range 8).map (fun k => v % 256 ^ 8 / 256 ^ k % 256 * 256 ^ k) :=
    List.map_congr_left fun k hk => by
      have hmask : ∀ k ∈ List.range 8, (0xFF : BitVec 8).getLsbD k = true := by decide
      rw [if_pos (hmask k hk)]
  exact (congrArg List.sum hwritten).trans ((sum_bytes (v % 256 ^ 8) 8).trans (Nat.mod_mod ..))

/-- The high half of a unit's bytes, in any base. -/
theorem sum_high (b : Nat) (f : Nat → Nat) : ((List.range 8).map (fun k => if 4 ≤ k then f (k - 4) * b ^ k else 0)).sum
    = b ^ 4 * ((List.range 4).map (fun k => f k * b ^ k)).sum := by
  simp [List.range_succ]
  ring

/-- A write of a unit's high half. -/
theorem regPart_high (n v : Nat) : regPart (8 * n + 4) 4 v n = { val := 256 ^ 4 * (v % 256 ^ 4), mask := 0xF0 } := by
  have hwritten : ∀ k ∈ List.range 8, decide (8 * n + 4 ≤ 8 * n + k ∧ 8 * n + k < 8 * n + 4 + 4) = decide (4 ≤ k) := by
    intro k hk
    have hk := List.mem_range.mp hk
    exact decide_eq_decide.mpr (by omega)
  have hval : (List.range 8).map (fun k => if decide (8 * n + 4 ≤ 8 * n + k ∧ 8 * n + k < 8 * n + 4 + 4) then
        v / 256 ^ (8 * n + k - (8 * n + 4)) % 256 * 256 ^ k else 0)
      = (List.range 8).map (fun k => if 4 ≤ k then v / 256 ^ (k - 4) % 256 * 256 ^ k else 0) :=
    List.map_congr_left fun k hk => by rw [hwritten k hk, Nat.add_sub_add_left]; simp only [decide_eq_true_eq]
  have hmask : (List.range 8).map (fun k => if decide (8 * n + 4 ≤ 8 * n + k ∧ 8 * n + k < 8 * n + 4 + 4) then 2 ^ k else 0)
      = (List.range 8).map (fun k => if decide (4 ≤ k) then 2 ^ k else 0) :=
    List.map_congr_left fun k hk => by rw [hwritten k hk]
  unfold regPart
  dsimp only
  rw [hval, hmask, sum_high 256 (fun k => v / 256 ^ k % 256), sum_bytes]
  rfl

/-- The ones of a high half's write. -/
theorem ones_high (v : Nat) : RegWrite.ones { val := 256 ^ 4 * (v % 256 ^ 4), mask := 0xF0 } = 256 ^ 4 * (v % 256 ^ 4) := by
  generalize hw : v % 256 ^ 4 = w
  have hmask : ∀ k ∈ List.range 8, (0xF0 : BitVec 8).getLsbD k = decide (4 ≤ k) := by decide
  have hbytes : (List.range 8).map (fun k => (if (0xF0 : BitVec 8).getLsbD k then 256 ^ 4 * w else 0) / 256 ^ k % 256 * 256 ^ k)
      = (List.range 8).map (fun k => if 4 ≤ k then w / 256 ^ (k - 4) % 256 * 256 ^ k else 0) :=
    List.map_congr_left fun k hk => by
      rw [hmask k hk]
      by_cases hhigh : 4 ≤ k
      · obtain ⟨j, rfl⟩ := Nat.exists_eq_add_of_le hhigh
        rw [if_pos (decide_eq_true hhigh), if_pos hhigh, Nat.pow_add, Nat.mul_div_mul_left _ _ (Nat.pow_pos (by decide)), Nat.add_sub_cancel_left]
      · rw [if_neg (by simpa using hhigh), if_neg hhigh, Nat.zero_div, Nat.zero_mod, Nat.zero_mul]
  refine (congrArg List.sum hbytes).trans ?_
  rw [sum_high 256 (fun k => w / 256 ^ k % 256), sum_bytes, ← hw, Nat.mod_mod]

/-! ### Where a queue's registers stand (27 R462) -/

section
variable {s : State} {q k : Nat}

theorem State.bar0_queue (hq : q < 64) (hk : k < 8) : s.bar0 (0x10000 / 8 + 8 * q + k) = (s.queue q).unit k := by
  have hoff : 8 * (0x10000 / 8 + 8 * q + k) = 0x10000 + (64 * q + 8 * k) := by omega
  have hqueue : (64 * q + 8 * k) / 64 = q := by omega
  have height : (64 * q + 8 * k) / 8 = 8 * q + k := by omega
  have hunit : (64 * q + 8 * k) / 8 % 8 = k := by rw [height]; omega
  unfold State.bar0
  dsimp only
  rw [hoff]
  simp only [beq_iff_eq, Bool.and_eq_true, decide_eq_true_eq]
  iterate 13 rw [if_neg (by omega)]
  rw [if_pos (by omega), Nat.add_sub_cancel_left, hqueue, hunit]

theorem State.setBar0_queue (w : RegWrite) (hq : q < 64) (hk : k < 8) : s.setBar0 (0x10000 / 8 + 8 * q + k) w = s.writeQueue q k w := by
  have hoff : 8 * (0x10000 / 8 + 8 * q + k) = 0x10000 + (64 * q + 8 * k) := by omega
  have hqueue : (64 * q + 8 * k) / 64 = q := by omega
  have height : (64 * q + 8 * k) / 8 = 8 * q + k := by omega
  have hunit : (64 * q + 8 * k) / 8 % 8 = k := by rw [height]; omega
  unfold State.setBar0
  dsimp only
  rw [hoff]
  simp only [beq_iff_eq, Bool.and_eq_true, decide_eq_true_eq]
  iterate 9 rw [if_neg (by omega)]
  rw [if_pos (by omega), Nat.add_sub_cancel_left, hqueue, hunit]

/-- A write within one unit. -/
theorem State.writeReg_unit {n j bytes v : Nat} (hbytes : 1 ≤ bytes) (hin : j + bytes ≤ 8) :
    s.writeReg (8 * n + j) bytes v = s.setBar0 n (regPart (8 * n + j) bytes v n) := by
  have hone : (8 * n + j + bytes - 1) / 8 + 1 - (8 * n + j) / 8 = 1 := by omega
  have hunit : (8 * n + j) / 8 + 0 = n := by omega
  unfold State.writeReg
  rw [hone]
  change s.setBar0 ((8 * n + j) / 8 + 0) (regPart (8 * n + j) bytes v ((8 * n + j) / 8 + 0)) = _
  rw [hunit]

end

/-! ### Accesses of BAR0 (27 R519; 32 R514, R515) -/

section
variable {s : State}

/-- What an access to BAR0 does when it is let through. -/
def State.regAccess (s : State) : State :=
  if s.ev.write then s.writeReg s.ev.pa s.ev.bytes s.ev.data else s.sendReg s.ev.pa s.ev.bytes

/-- The access stands in BAR0. -/
def State.InBar0 (s : State) : Prop := 1 ≤ s.ev.bytes ∧ s.ev.pa + s.ev.bytes ≤ 2 ^ 20

/-- Some register's byte is in the access. -/
def State.touches (s : State) : Bool := (List.range s.ev.bytes).any (fun k => occupied (s.ev.pa + k))

theorem State.touches_iff : s.touches = true ↔ ∃ k, k < s.ev.bytes ∧ occupied (s.ev.pa + k) = true := by
  simp [State.touches]

theorem State.touches_false : s.touches = false ↔ ∀ k, k < s.ev.bytes → occupied (s.ev.pa + k) = false := by
  simp [State.touches]

theorem State.InBar0.acts (h : s.InBar0) (hagent : s.ev.agent ≤ 1) : exec .registerWrite s
    = if !s.touches then .next (if s.ev.write then s else s.sendReg s.ev.pa s.ev.bytes)
      else if s.ev.agent == 1 then
        .next (if s.isFrozen 1 then s else if s.ev.pa < 0x3000 || 0x3008 < s.ev.pa + s.ev.bytes then s.freeze 1 s.ev.pa else s.regAccess)
      else byHost s s.regAccess := by
  obtain ⟨hbytes, hend⟩ := h
  have hhere : (!inBar0 s.ev.pa s.ev.bytes || decide (1 < s.ev.agent)) = false := by
    simp only [inBar0, Bool.or_eq_false_iff, Bool.not_eq_false', Bool.and_eq_true, decide_eq_true_eq, decide_eq_false_iff_not]
    omega
  change execRegisterWrite s = _
  unfold execRegisterWrite
  exact if_neg (by rw [hhere]; exact Bool.false_ne_true)

theorem State.InBar0.acts_free (h : s.InBar0) (hagent : s.ev.agent ≤ 1) (hfree : s.touches = false) :
    exec .registerWrite s = .next (if s.ev.write then s else s.sendReg s.ev.pa s.ev.bytes) := by
  rw [h.acts hagent, hfree]
  rfl

theorem State.InBar0.acts_host (h : s.InBar0) (hagent : s.ev.agent = 0) (hfree : s.touches = true) :
    exec .registerWrite s = byHost s s.regAccess := by
  rw [h.acts (by omega), hfree, hagent]
  rfl

theorem State.InBar0.acts_side (h : s.InBar0) (hagent : s.ev.agent = 1) (hfree : s.touches = true) : exec .registerWrite s
    = .next (if s.isFrozen 1 then s else if s.ev.pa < 0x3000 || 0x3008 < s.ev.pa + s.ev.bytes then s.freeze 1 s.ev.pa else s.regAccess) := by
  rw [h.acts (by omega), hfree, hagent]
  rfl

/-- The host's access when it is not frozen. -/
theorem byHost_open (h : s.isFrozen 0 = false) (t : State) : byHost s t = .next t := by
  unfold byHost
  rw [h]
  rfl

theorem byHost_frozen (h : s.isFrozen 0 = true) (t : State) : byHost s t = .next (s.send .unsupported) := by
  unfold byHost
  rw [h]
  rfl

theorem State.regAccess_read (hread : s.ev.write = false) : s.regAccess = s.sendReg s.ev.pa s.ev.bytes :=
  if_neg (by rw [hread]; exact Bool.false_ne_true)

theorem State.regAccess_write (hwrite : s.ev.write = true) : s.regAccess = s.writeReg s.ev.pa s.ev.bytes s.ev.data := if_pos hwrite

theorem State.InBar0.acts_read (h : s.InBar0) (hagent : s.ev.agent = 0) (hread : s.ev.write = false) (hopen : s.isFrozen 0 = false) :
    exec .registerWrite s = .next (s.sendReg s.ev.pa s.ev.bytes) := by
  cases htouch : s.touches
  · rw [h.acts_free (by omega) htouch, hread]
    rfl
  · rw [h.acts_host hagent htouch, byHost_open hopen, State.regAccess_read hread]

/-- A write that a register's byte is in. -/
theorem State.InBar0.acts_write (h : s.InBar0) (hagent : s.ev.agent = 0) (hwrite : s.ev.write = true) (hopen : s.isFrozen 0 = false)
    (hoccupied : occupied (s.ev.pa + 0) = true) : exec .registerWrite s = .next (s.writeReg s.ev.pa s.ev.bytes s.ev.data) := by
  rw [h.acts_host hagent (State.touches_iff.mpr ⟨0, h.1, hoccupied⟩), byHost_open hopen, State.regAccess_write hwrite]

theorem State.InBar0.acts_mfreeze (h : s.InBar0) (hagent : s.ev.agent = 1) (hread : s.ev.write = false) (hopen : s.isFrozen 1 = false)
    (hhere : ¬(s.ev.pa < 0x3000 ∨ 0x3008 < s.ev.pa + s.ev.bytes)) : exec .registerWrite s = .next (s.sendReg s.ev.pa s.ev.bytes) := by
  cases htouch : s.touches
  · rw [h.acts_free (by omega) htouch, hread]
    rfl
  · rw [h.acts_side hagent htouch, hopen, if_neg Bool.false_ne_true, if_neg (by simpa using hhere), State.regAccess_read hread]

theorem State.InBar0.acts_elsewhere (h : s.InBar0) (hagent : s.ev.agent = 1) (hopen : s.isFrozen 1 = false)
    (hthere : s.ev.pa < 0x3000 ∨ 0x3008 < s.ev.pa + s.ev.bytes) (htouch : s.touches = true) :
    exec .registerWrite s = .next (s.freeze 1 s.ev.pa) := by
  rw [h.acts_side hagent htouch, hopen, if_neg Bool.false_ne_true, if_pos (by simpa using hthere)]

end

end Sys2Proof.Machine
end

section
/-! The host's accesses to HDM, format regions, watchdogs, and the obligation of BAR0 (27 R460, R462, R463; 28 R470; 29 R494, R495). -/

namespace Sys2Proof.Machine

/-! ### A queue's registers, written (27 R462, R463) -/

section
variable {s : State} {q : Nat}

theorem State.queue_wake (s : State) (q : Nat) : s.wake.queue q = s.queue q := rfl
theorem State.queue_send (s : State) (m : Msg) (q : Nat) : (s.send m).queue q = s.queue q := rfl

theorem State.writeTail_fits (hq : q < s.queues.length) (t : Word) (hfits : (t - (s.queue q).head).toNat ≤ (s.queue q).size.toNat) :
    (s.writeTail q t).queue q = { s.queue q with tail := t } ∧ (s.writeTail q t).sent = s.sent := by
  unfold State.writeTail
  rw [if_pos hfits, State.queue_wake, State.queue_setQueue_self hq]
  exact ⟨rfl, rfl⟩

theorem State.writeTail_bad (hq : q < s.queues.length) (t : Word) (hbad : ¬(t - (s.queue q).head).toNat ≤ (s.queue q).size.toNat) :
    (s.writeTail q t).queue q = { s.queue q with tailBad := true } ∧ (s.writeTail q t).sent = .interrupt (s.queue q).vec :: s.sent := by
  have hmark := State.queue_setQueue_self hq (fun u => { u with tailBad := true })
  unfold State.writeTail
  rw [if_neg hbad]
  have hvec : ((s.setQueue q (fun u => { u with tailBad := true })).queue q).vec = (s.queue q).vec := by rw [hmark]
  exact ⟨hmark, congrArg (fun v => Msg.interrupt v :: s.sent) hvec⟩

theorem State.writeNhead_queue (hq : q < s.queues.length) (h : Word) : (s.writeNhead q h).queue q = { s.queue q with nhead := h } := by
  unfold State.writeNhead
  rw [State.queue_wake, State.queue_setQueue_self hq]

theorem State.writePtbr_queue (hq : q < s.queues.length) (v : DWord) (hen : (s.queue q).en = false) :
    (s.writePtbr q v).queue q = { s.queue q with ptbr := v } := by
  unfold State.writePtbr
  rw [if_neg (by rw [hen]; exact Bool.false_ne_true)]
  exact State.queue_setQueue_self hq _

theorem State.writePtbr_enabled (v : DWord) (hen : (s.queue q).en = true) : s.writePtbr q v = s := if_pos hen

/-- No translation of a queue's space is left. -/
theorem State.writePtbr_tlb (v : DWord) (hen : (s.queue q).en = false) : ∀ c ∈ (s.writePtbr q v).cores, ∀ e ∈ c.tlb, e.queue ≠ q := by
  unfold State.writePtbr
  rw [if_neg (by rw [hen]; exact Bool.false_ne_true)]
  intro c hc e he hqueue
  obtain ⟨x, -, rfl⟩ := List.mem_map.mp hc
  obtain ⟨-, hkept⟩ := List.mem_filter.mp he
  rw [hqueue] at hkept
  simp [TlbRange.meets] at hkept

/-- BASE written, in whole. -/
theorem State.writeReg_base (hq : q < 64) (hlen : q < s.queues.length) (v : Nat) :
    (s.writeReg (0x10000 + 64 * q) 8 v).queue q = if (s.queue q).en then s.queue q else { s.queue q with base := BitVec.ofNat 64 v } := by
  have hoff : 0x10000 + 64 * q = 8 * (0x10000 / 8 + 8 * q + 0) := by omega
  have hwhole : BitVec.ofNat 64 (v % 256 ^ 8) = BitVec.ofNat 64 v := BitVec.eq_of_toNat_eq (Nat.mod_mod v (2 ^ 64))
  have hwrite := State.writeReg_unit (s := s) (n := 0x10000 / 8 + 8 * q + 0) (j := 0) (bytes := 8) (v := v) (by decide) (by decide)
  rw [Nat.add_zero, ← hoff] at hwrite
  rw [hwrite, hoff, regPart_whole, State.setBar0_queue _ hq (by decide)]
  unfold State.writeQueue
  simp only [merge_whole, hwhole]
  by_cases hen : (s.queue q).en = true
  · rw [if_pos hen, if_pos hen]
  · rw [if_neg hen, if_neg hen, State.queue_setQueue_self hlen]

/-- QERR written: ones clear. -/
theorem State.writeReg_err (hq : q < 64) (hlen : q < s.queues.length) (v : Nat) :
    (s.writeReg (0x10000 + 64 * q + 0x1C) 4 v).queue q = { s.queue q with
      tailBad := (s.queue q).tailBad && !v.testBit 0, ringFault := (s.queue q).ringFault && !v.testBit 1
      compFault := (s.queue q).compFault && !v.testBit 2 } := by
  have hoff : 0x10000 + 64 * q + 0x1C = 8 * (0x10000 / 8 + 8 * q + 3) + 4 := by omega
  have hones : 256 ^ 4 * (v % 256 ^ 4) / 2 ^ 32 = v % 2 ^ 32 := Nat.mul_div_cancel_left _ (by decide)
  have hbit : ∀ k, k < 32 → (v % 2 ^ 32).testBit k = v.testBit k := fun k hk => by rw [Nat.testBit_mod_two_pow, decide_eq_true hk, Bool.true_and]
  have hlow : RegWrite.low { val := 256 ^ 4 * (v % 256 ^ 4), mask := 0xF0 } = false := by
    change ((0xF0 : BitVec 8).toNat % 16 != 0) = false
    decide
  rw [hoff, State.writeReg_unit (by decide) (by decide), regPart_high, State.setBar0_queue _ hq (by decide)]
  unfold State.writeQueue
  simp only [hlow, Bool.false_and, Bool.false_eq_true, if_false, ones_high, hones]
  rw [State.queue_setQueue_self hlen, hbit 0 (by decide), hbit 1 (by decide), hbit 2 (by decide)]

/-- A queue's registers occupy all their 64 bytes but four. -/
theorem occupied_queue {a k : Nat} (hq : q < 64) (hk : k < 0x34) (ha : a = 0x10000 + 64 * q + k) : occupied (a + 0) = true := by
  subst ha
  simp only [occupied, Bool.or_eq_true, Bool.and_eq_true, Bool.not_eq_true', decide_eq_true_eq, Bool.and_eq_false_iff, decide_eq_false_iff_not]
  exact Or.inr ⟨by omega, Or.inl (by omega)⟩

/-- TIME is read only. -/
theorem State.writeReg_time (s : State) (v : Nat) : s.writeReg 0 8 v = s := rfl

end

/-! ### The host's accesses to device memory (27 R460) -/

section
variable {s : State} {line : Nat}

theorem MemSys.mem_setHostLine (m : MemSys) (line n : Nat) : n ∈ (m.setHostLine line true).hostLines ↔ n = line ∨ n ∈ m.hostLines := by
  simp only [MemSys.setHostLine, if_true, List.mem_append, List.mem_filter, List.mem_singleton, bne_iff_ne]
  by_cases h : n = line
  · simp [h]
  · simp [h]

theorem MemSys.recall_taken {m : MemSys} {n : Nat} (hn : n ∈ m.hostLines) (hbehind : n ∈ m.behind line) :
    n ∉ (m.recall line).hostLines ∧ n ∈ (m.recall line).recalls := by
  have htaken : n ∈ m.hostLines.filter (fun l => (m.behind line).contains l) :=
    List.mem_filter.mpr ⟨hn, List.contains_iff_mem.mpr hbehind⟩
  unfold MemSys.recall
  rw [if_neg (by rw [List.isEmpty_iff]; exact List.ne_nil_of_mem hn)]
  refine ⟨fun hleft => ?_, List.mem_append_left _ htaken⟩
  have hkept := (List.mem_filter.mp hleft).2
  rw [List.contains_iff_mem.mpr htaken] at hkept
  exact Bool.false_ne_true hkept

/-- What the host holds has no part in whether a line can be used at its home slice. -/
theorem AtHome.setHostLine {i : FibreId} (h : AtHome s i line) (k : Nat) (on : Bool) : AtHome (s.withMem (s.mem.setHostLine k on)) i line := h

/-- The access is the host's, to one line of HDM. -/
structure HdmAccess (s : State) : Prop where
  from_ : s.hdmBase ≤ s.ev.pa
  to_ : s.ev.pa + s.ev.bytes ≤ s.hdmBase + deviceBytes
  some_ : 1 ≤ s.ev.bytes
  inLine : (s.ev.pa - s.hdmBase) % 64 + s.ev.bytes ≤ 64
  thawed : s.isFrozen 0 = false
  home : AtHome s (coreWho s 0 0).fibre ((s.ev.pa - s.hdmBase) / 64)

/-- The memory while the host does not hold the line. -/
def State.unhosted (s : State) : MemSys := s.mem.setHostLine ((s.ev.pa - s.hdmBase) / 64) false

theorem HdmAccess.exec_of (h : HdmAccess s) {v : Nat} {t : State}
    (hrun : (hdmAccess (s.ev.pa - s.hdmBase) s.ev.bytes s.ev.write s.ev.data).run (s.withMem s.unhosted) = .ok (v, t)) :
    exec .hostHdmAccess s
      = .next (if s.ev.write then t.withMem (t.mem.setHostLine ((s.ev.pa - s.hdmBase) / 64) (s.ev.choice != 0))
        else (t.withMem (t.mem.setHostLine ((s.ev.pa - s.hdmBase) / 64) (s.ev.choice != 0))).send (.hdmData (BitVec.ofNat 512 v))).wake := by
  obtain ⟨hfrom, hto, hsome, hline, hthawed, -⟩ := h
  have hhere : (decide (s.ev.pa < s.hdmBase) || decide (s.hdmBase + deviceBytes < s.ev.pa + s.ev.bytes) || s.ev.bytes == 0
      || decide (64 < (s.ev.pa - s.hdmBase) % 64 + s.ev.bytes)) = false := by
    simp only [Bool.or_eq_false_iff, decide_eq_false_iff_not, beq_eq_false_iff_ne]
    omega
  change execHostHdmAccess s = _
  unfold execHostHdmAccess
  refine (if_neg (by rw [hhere]; exact Bool.false_ne_true)).trans ((if_neg (by rw [hthawed]; exact Bool.false_ne_true)).trans ?_)
  have hstart : ({ s with mem := s.mem.setHostLine ((s.ev.pa - s.hdmBase) / 64) false } : State) = s.withMem s.unhosted := rfl
  rw [hstart, hrun]
  rfl

theorem HdmAccess.exec_read (h : HdmAccess s) (hread : s.ev.write = false) :
    exec .hostHdmAccess s = .next ((s.withMem ((s.unhosted.l2Fill ((s.ev.pa - s.hdmBase) / 64)).2.setHostLine ((s.ev.pa - s.hdmBase) / 64)
        (s.ev.choice != 0))).send
      (.hdmData (BitVec.ofNat 512 (lineBytes (s.unhosted.l2Fill ((s.ev.pa - s.hdmBase) / 64)).1.data ((s.ev.pa - s.hdmBase) % 64) s.ev.bytes)))).wake := by
  have hrun : (hdmAccess (s.ev.pa - s.hdmBase) s.ev.bytes s.ev.write s.ev.data).run (s.withMem s.unhosted)
      = .ok (lineBytes (s.unhosted.l2Fill ((s.ev.pa - s.hdmBase) / 64)).1.data ((s.ev.pa - s.hdmBase) % 64) s.ev.bytes,
        s.withMem (s.unhosted.l2Fill ((s.ev.pa - s.hdmBase) / 64)).2) := by
    unfold hdmAccess
    rw [hread, bind_get]
    exact bind_ok (l2Read_home (h.home.setHostLine _ _))
  rw [h.exec_of hrun, if_neg (by rw [hread]; exact Bool.false_ne_true)]
  rfl

theorem HdmAccess.exec_write (h : HdmAccess s) (hwrite : s.ev.write = true) :
    exec .hostHdmAccess s = .next (s.withMem ((s.unhosted.l2Write ((s.ev.pa - s.hdmBase) / 64) (byteMask ((s.ev.pa - s.hdmBase) % 64) s.ev.bytes)
      (lineOf ((s.ev.pa - s.hdmBase) % 64) s.ev.bytes s.ev.data)).setHostLine ((s.ev.pa - s.hdmBase) / 64) (s.ev.choice != 0))).wake := by
  have hrun : (hdmAccess (s.ev.pa - s.hdmBase) s.ev.bytes s.ev.write s.ev.data).run (s.withMem s.unhosted)
      = .ok (0, s.withMem (s.unhosted.l2Write ((s.ev.pa - s.hdmBase) / 64) (byteMask ((s.ev.pa - s.hdmBase) % 64) s.ev.bytes)
        (lineOf ((s.ev.pa - s.hdmBase) % 64) s.ev.bytes s.ev.data))) := by
    unfold hdmAccess
    rw [hwrite, bind_get]
    exact bind_ok (l2Store_home (h.home.setHostLine _ _))
  rw [h.exec_of hrun, if_pos hwrite]
  rfl

end

/-! ### Format regions (29 R494, R495) -/

section
variable {s t : State} {n : Nat} {who : Who} {v : DWord}

/-- What runs in two parts ran in each. -/
theorem bind_inv {α β : Type} {x : M α} {g : α → M β} {b : β} (h : (x >>= g).run s = .ok (b, t)) :
    ∃ a u, x.run s = .ok (a, u) ∧ (g a).run u = .ok (b, t) := by
  cases hx : x.run s with
  | error e =>
    rw [StateT.run_bind, hx] at h
    exact nomatch h
  | ok p =>
    rw [StateT.run_bind, hx] at h
    exact ⟨p.1, p.2, rfl, h⟩

theorem State.setRegion_at (s : State) (n : Nat) (f : Region → Region) : (s.setRegion n f).mem.regions[n]? = (s.mem.regions[n]?).map f := by
  rw [State.setRegion, updAt_getElem?, if_pos rfl]

/-- A write of EN = 1 takes the fields below and above the enable bit. -/
theorem Region.enable_fields {r : Region} (hen : r.en = false) (hvalid : (r.withFmt (v ||| 16)).valid = true) :
    r.enable (v ||| 16) = { r with
      fmt := BitVec.ofNat 3 v.toNat, scaled := v.getLsbD 3, en := true, err := false, saddr := BitVec.ofNat 46 (v.toNat / 64) } := by
  have hfmt : BitVec.ofNat 3 (v ||| 16).toNat = BitVec.ofNat 3 v.toNat := by
    rw [BitVec.ofNat_toNat, BitVec.ofNat_toNat, BitVec.setWidth_or]
    exact BitVec.or_zero
  have hscaled : (v ||| 16).getLsbD 3 = v.getLsbD 3 := by
    rw [BitVec.getLsbD_or]
    exact Bool.or_false _
  have hside : (v ||| 16).toNat / 64 = v.toNat / 64 := by
    have hshift := Nat.shiftRight_or_distrib (i := 6) (a := v.toNat) (b := 16)
    rw [Nat.shiftRight_eq_div_pow, Nat.shiftRight_eq_div_pow] at hshift
    rw [BitVec.toNat_or]
    exact hshift.trans (Nat.or_zero _)
  unfold Region.enable
  rw [if_neg (by rw [hen]; exact Bool.false_ne_true), if_pos hvalid, Region.withFmt, hfmt, hscaled, hside]

theorem exec_frfmtEnable : exec .frfmtEnable s
    = .next (s.setRegion s.ev.choice (fun r => r.enable (s.ev.val ||| 16))).dropAnswers.wake := by
  have hset : (s.ev.val ||| 16).getLsbD 4 = true := by
    rw [BitVec.getLsbD_or]
    exact Bool.or_true _
  have hrun : (writeFmt { coreWho s s.ev.core 0 with throughHold := true } s.ev.choice (s.ev.val ||| 16)).run s
      = .ok ((), s.setRegion s.ev.choice (fun r => r.enable (s.ev.val ||| 16))) := by
    unfold writeFmt
    rw [if_pos hset]
    rfl
  exact congrArg Host.Outcome.next (State.attempt_ok hrun)

theorem exec_frfmtDisable (hrun : (disableRegion { coreWho s s.ev.core 0 with throughHold := true } s.ev.choice (s.ev.val &&& ~~~16)).run s
    = .ok ((), t)) : exec .frfmtDisable s = .next t.dropAnswers.wake := by
  have hclear : ¬(s.ev.val &&& ~~~16).getLsbD 4 = true := by
    rw [BitVec.getLsbD_and]
    exact fun h => Bool.false_ne_true (Bool.and_eq_true_iff.mp h).2
  have hrun : (writeFmt { coreWho s s.ev.core 0 with throughHold := true } s.ev.choice (s.ev.val &&& ~~~16)).run s = .ok ((), t) := by
    unfold writeFmt
    rw [if_neg hclear]
    exact hrun
  exact congrArg Host.Outcome.next (State.attempt_ok hrun)

theorem disableRegion_off (hrun : (disableRegion who n v).run s = .ok ((), t)) : ∀ r, t.mem.regions[n]? = some r → r.en = false := by
  intro x hx
  unfold disableRegion at hrun
  rw [bind_get] at hrun
  cases hregion : s.mem.regions[n]? with
  | none =>
    simp only [hregion] at hrun
    obtain ⟨-, rfl⟩ := Prod.mk.inj (Except.ok.inj hrun)
    rw [hregion] at hx
    exact nomatch hx
  | some r =>
    simp only [hregion] at hrun
    by_cases hen : r.en = true
    · rw [if_pos hen] at hrun
      obtain ⟨-, u, -, hrun⟩ := bind_inv hrun
      obtain ⟨-, v, -, hrun⟩ := bind_inv hrun
      obtain ⟨-, rfl⟩ := Prod.mk.inj (Except.ok.inj hrun)
      rw [State.setRegion_at] at hx
      obtain ⟨y, -, rfl⟩ := Option.map_eq_some_iff.mp hx
      rfl
    · rw [if_neg hen] at hrun
      obtain ⟨-, rfl⟩ := Prod.mk.inj (Except.ok.inj hrun)
      rw [State.setRegion_at, hregion] at hx
      obtain ⟨y, hy, rfl⟩ := Option.map_eq_some_iff.mp hx
      obtain rfl := Option.some.inj hy
      exact Bool.eq_false_iff.mpr hen

end

/-! ### Watchdogs (02 R66; 19 R412) -/

section
variable {s : State} {t : Team}

/-- A team found is found by its own names. -/
theorem State.team?_own {l i : Nat} (ht : s.team? l i = some t) : s.team? t.launch t.id = some t := by
  obtain ⟨hl, hi⟩ := State.team?_key ht
  rw [hl, hi, ht]

theorem State.writeWdog_team (ht : s.team? s.ev.launch s.ev.team = some t) (v : Nat) : s.writeWdog s.ev.launch s.ev.team v
    = if v % 2 ^ 41 == 0 then (s.setTeam { t with wdog := v % 2 ^ 41, spent := 0 }).raiseWatchdog s.ev.launch s.ev.team
      else s.setTeam { t with wdog := v % 2 ^ 41, spent := 0 } := by
  unfold State.writeWdog
  rw [ht]

theorem exec_wdogRestart (ht : s.team? s.ev.launch s.ev.team = some t) (hv : s.ev.val.toNat % 2 ^ 41 ≠ 0) :
    exec .wdogRestart s = .next (s.setTeam { t with wdog := s.ev.val.toNat % 2 ^ 41, spent := 0 }).wake := by
  have hne : ¬(s.ev.val.toNat % 2 ^ 41 == 0) = true := by simpa using hv
  change execWdogRestart s = _
  unfold execWdogRestart
  rw [if_neg hne, State.writeWdog_team ht, if_neg hne]

theorem exec_wdogZeroWrite (ht : s.team? s.ev.launch s.ev.team = some t) :
    exec .wdogZeroWrite s = .next ((s.setTeam { t with wdog := 0, spent := 0 }).raiseWatchdog s.ev.launch s.ev.team).wake := by
  change execWdogZeroWrite s = _
  unfold execWdogZeroWrite
  rw [State.writeWdog_team ht]
  rfl

/-- Every fibre of the team has the watchdog's trap due. -/
theorem State.raiseWatchdog_due {f : Fibre} {l i k : Nat} (hf : f ∈ s.fibres) (hcrew : f.id.crew = .team l i k) :
    { f with dues := f.dues ++ [({ cause := cause 0x160 0, kind := 6 }, .atPc)] } ∈ (s.raiseWatchdog l i).fibres := by
  refine List.mem_map.mpr ⟨f, hf, ?_⟩
  rw [hcrew]
  simp only [beq_self_eq_true, Bool.and_self, if_true]
  rfl

end

/-- Settles O57, clause by clause: where a register stands in BAR0, what a write of its bytes leaves, and who may reach it. -/
theorem registerEvents : Obligations.RegisterEvents := by
  unfold Obligations.RegisterEvents
  intro queueNow
  refine ⟨?_, ?_, ?_, ?_, ?_, ?_, ?_, ?_, ?_, ?_, ?_, ?_, ?_, ?_, ?_, ?_, ?_⟩
  · rintro s ⟨hopen, hq, hlen⟩
    refine ⟨_, (if_pos hq).trans (byHost_open hopen (s.writeTail s.ev.queue s.ev.word)), ?_⟩
    split
    · next hfits => exact State.writeTail_fits (hlen.symm ▸ hq) s.ev.word hfits
    · next hbad => exact State.writeTail_bad (hlen.symm ▸ hq) s.ev.word hbad
  · rintro s ⟨hopen, hq, hlen⟩
    exact ⟨_, (if_pos hq).trans (byHost_open hopen (s.writeNhead s.ev.queue s.ev.word)), State.writeNhead_queue (hlen.symm ▸ hq) s.ev.word⟩
  · rintro s ⟨hopen, hq, hlen⟩ hen
    exact ⟨_, (if_pos hq).trans (byHost_open hopen (s.writePtbr s.ev.queue s.ev.val)), State.writePtbr_queue (hlen.symm ▸ hq) s.ev.val hen,
      State.writePtbr_tlb s.ev.val hen⟩
  · rintro s ⟨hopen, hq, hlen⟩ hen
    refine ((if_pos hq).trans (byHost_open hopen (s.writePtbr s.ev.queue s.ev.val))).trans ?_
    rw [State.writePtbr_enabled s.ev.val hen]
  · intro s e hbytes hend data free elsewhere
    have hin : s.InBar0 := ⟨hbytes, hend⟩
    refine ⟨fun hagent hfree => hin.acts_free hagent (State.touches_false.mpr hfree), hin.acts_read, fun hagent hfrozen htouch => ?_,
      hin.acts_mfreeze, fun hagent hopen hthere htouch => ?_, fun hagent hfrozen htouch => ?_⟩
    · rw [hin.acts_host hagent (State.touches_iff.mpr htouch), byHost_frozen hfrozen]
    · exact hin.acts_elsewhere hagent hopen hthere (Bool.eq_true_of_not_eq_false fun h => htouch (State.touches_false.mp h))
    · rw [hin.acts_side hagent (Bool.eq_true_of_not_eq_false fun h => htouch (State.touches_false.mp h)), if_pos hfrozen]
  · intro s q hq u at_
    have hunit : ∀ k, k < 8 → s.bar0 (at_ + k) = u.unit k := fun k hk => State.bar0_queue hq hk
    refine ⟨rfl, hunit 0 (by decide), ?_, hunit 2 (by decide), ?_, hunit 4 (by decide), hunit 5 (by decide), hunit 6 (by decide), hunit 7 (by decide)⟩
    · rw [hunit 1 (by decide)]
      exact (Nat.add_mul_mod_self_left ..).trans (Nat.mod_eq_of_lt u.size.isLt)
    · rw [hunit 3 (by decide)]
      exact (Nat.add_mul_mod_self_left ..).trans (Nat.mod_eq_of_lt u.quant.isLt)
  · intro s q hopen hagent hwrite hbytes hq hlen hpa
    have hin : s.InBar0 := ⟨by omega, by omega⟩
    have hoccupied : occupied (s.ev.pa + 0) = true := occupied_queue (k := 0) hq (by decide) hpa
    refine ⟨_, hin.acts_write hagent hwrite hopen hoccupied, ?_⟩
    rw [hpa, hbytes]
    exact State.writeReg_base hq (hlen.symm ▸ hq) s.ev.data
  · intro s q hopen hagent hwrite hbytes hq hlen hpa
    have hin : s.InBar0 := ⟨by omega, by omega⟩
    have hoccupied : occupied (s.ev.pa + 0) = true := occupied_queue (k := 0x1C) hq (by decide) hpa
    refine ⟨_, hin.acts_write hagent hwrite hopen hoccupied, ?_⟩
    rw [hpa, hbytes]
    exact State.writeReg_err hq (hlen.symm ▸ hq) s.ev.data
  · intro s hopen hagent hwrite hbytes hpa
    have hin : s.InBar0 := ⟨by omega, by omega⟩
    rw [hin.acts_write hagent hwrite hopen (by rw [hpa]; rfl), hpa, hbytes, State.writeReg_time]
  · intro s p m held hfrom hto hsome hline hthawed hhome
    have h : HdmAccess s := ⟨hfrom, hto, hsome, hline, hthawed, hhome⟩
    exact ⟨h.exec_read, h.exec_write⟩
  · exact MemSys.mem_setHostLine
  · exact fun m line n => MemSys.recall_taken
  · intro s r hr hen hvalid
    refine ⟨_, exec_frfmtEnable, ?_⟩
    change (s.setRegion s.ev.choice (fun r => r.enable (s.ev.val ||| 16))).mem.regions[s.ev.choice]? = _
    rw [State.setRegion_at, hr, Option.map_some, Region.enable_fields hen hvalid]
  · exact fun s t hrun => ⟨exec_frfmtDisable hrun, disableRegion_off hrun⟩
  · intro s t ht hv
    exact ⟨_, exec_wdogRestart ht hv, State.team?_setTeam (State.team?_own ht) rfl rfl, rfl⟩
  · intro s t ht
    refine ⟨_, exec_wdogZeroWrite ht, State.team?_setTeam (State.team?_own ht) rfl rfl, ?_⟩
    obtain ⟨hl, hi⟩ := State.team?_key ht
    intro f hf k hcrew
    exact State.raiseWatchdog_due (s := s.setTeam { t with wdog := 0, spent := 0 }) hf (by rw [hcrew, hl, hi])
  · intro s hfrozen hq i hi
    simp only [List.mem_cons, List.not_mem_nil, or_false] at hi
    obtain rfl | rfl | rfl := hi
    all_goals exact (if_pos hq).trans (byHost_frozen hfrozen _)

end Sys2Proof.Machine
end

section
/-! The fabric (31 R503 to R511; 01 R40): ports and their flits, heartbeats, the death and the admission of agents. -/

namespace Sys2Proof.Machine

/-! ### What flits leave of ports (31 R504) -/

/-- A port without its flits. -/
def Port.bare (x : Port) : Port := { x with flits := [] }

/-- The ports without their flits. -/
def State.links (s : State) : List Port := s.fabric.ports.map Port.bare

theorem updAt_bare {f : Port → Port} (hf : ∀ x, (f x).bare = x.bare) (l : List Port) (i : Nat) : (updAt l i f).map Port.bare = l.map Port.bare := by
  induction l generalizing i with
  | nil => rfl
  | cons x xs ih =>
    cases i with
    | zero => exact congrArg (· :: xs.map Port.bare) (hf x)
    | succ n => exact congrArg (x.bare :: ·) (ih n)

section
variable {s t : State} {p k : Nat}

theorem State.setPort_links {f : Port → Port} (hf : ∀ x, (f x).bare = x.bare) : (s.setPort p f).links = s.links := updAt_bare hf ..

theorem State.port_bare (s : State) (k : Nat) : (s.port k).bare = s.links.getD k {} :=
  (List.getD_map (f := Port.bare) s.fabric.ports ({} : Port)).symm

/-- What ports with the same links have in common. -/
theorem State.links_port (h : t.links = s.links) (k : Nat) : (t.port k).up = (s.port k).up ∧ (t.port k).ver = (s.port k).ver
    ∧ (t.port k).reason = (s.port k).reason := by
  have hbare : (t.port k).bare = (s.port k).bare := by rw [State.port_bare, State.port_bare, h]
  exact ⟨congrArg (fun x => x.up) hbare, congrArg (fun x => x.ver) hbare, congrArg (fun x => x.reason) hbare⟩

theorem State.linked_links (s : State) : s.fabric.linked = s.links.any Port.up := by
  unfold State.links
  rw [List.any_map]
  rfl

theorem State.moveFlits_links (s : State) (p : Nat) : (s.moveFlits p).links = s.links := by
  unfold State.moveFlits
  split
  · rfl
  · exact (State.setPort_links (f := fun x => { x with flits := x.flits ++ (s.port p).flits }) fun x => rfl).trans
      (State.setPort_links (f := fun x => { x with flits := [] }) fun x => rfl)

theorem State.gatherFlits_links (s : State) : s.gatherFlits.links = s.links := by
  refine foldl_keeps (fun s k => ?_) _ s
  split
  · rfl
  · exact s.moveFlits_links k

theorem State.send_links (s : State) (m : Msg) : (s.send m).links = s.links := by
  unfold State.send
  split
  · cases m
    case request i _ => exact updAt_bare (f := fun x => { x with flits := x.flits ++ [i] }) (fun x => rfl) ..
    all_goals rfl
  · rfl

theorem State.flush_links (s : State) : s.flush.links = s.links := foldl_keeps (fun s m => s.send_links m) ..

theorem State.port_setPort_self (hp : p < s.fabric.ports.length) (f : Port → Port) : (s.setPort p f).port p = f (s.port p) := by
  rw [State.port, State.port, List.getD_eq_getElem?_getD, List.getD_eq_getElem?_getD, State.setPort, updAt_getElem?, if_pos rfl,
    List.getElem?_eq_getElem hp]
  rfl

theorem State.port_setPort_other (hne : k ≠ p) (f : Port → Port) : (s.setPort p f).port k = s.port k := by
  rw [State.port, State.port, List.getD_eq_getElem?_getD, List.getD_eq_getElem?_getD, State.setPort, updAt_getElem?, if_neg hne]

theorem State.setPort_length (s : State) (p : Nat) (f : Port → Port) : (s.setPort p f).fabric.ports.length = s.fabric.ports.length := updAt_length ..

/-! ### Training and failure (31 R503, R504) -/

/-- The versions of which one is offered here. -/
theorem commonVersion_eq (m : BitVec 16) (h : m.getLsbD 1 = true ∨ m.getLsbD 2 = true) :
    commonVersion m = some (if m.getLsbD 2 then 2 else 1) := by
  have hoffered : ∀ n ∈ (List.range 16).reverse, offeredVersions.getLsbD n = (n == 1 || n == 2) := by decide
  have hfind : commonVersion m = ((List.range 16).reverse).find? (fun n => (n == 1 || n == 2) && m.getLsbD n) := by
    unfold commonVersion
    refine List.find?_congr fun n hn => ?_
    rw [BitVec.getLsbD_and, hoffered n hn]
  rw [hfind]
  by_cases htwo : m.getLsbD 2 = true
  · simp [List.range_succ, htwo]
  · have hone : m.getLsbD 1 = true := h.resolve_right htwo
    simp [List.range_succ, hone]

theorem exec_portTraining (hp : s.ev.port < 16) (hup : (s.port s.ev.port).up = false) (hdis : (s.port s.ev.port).dis = false) :
    exec .portTraining s = .next (s.trainPort s.ev.port s.ev.peer) := by
  have hhere : (decide (16 ≤ s.ev.port) || (s.port s.ev.port).up || (s.port s.ev.port).dis) = false := by
    rw [hup, hdis, decide_eq_false (by omega)]
    rfl
  exact if_neg (by rw [hhere]; exact Bool.false_ne_true)

theorem State.trainPort_up (hp : p < s.fabric.ports.length) {m : BitVec 16} {v : Nat} (hv : commonVersion m = some v) :
    ((s.trainPort p (.versions m)).port p).up = true ∧ ((s.trainPort p (.versions m)).port p).ver = BitVec.ofNat 2 v
      ∧ ((s.trainPort p (.versions m)).port p).reason = 0 := by
  have htrain : s.trainPort p (.versions m)
      = (s.setPort p (fun x => { x with up := true, ver := BitVec.ofNat 2 v, reason := 0 })).gatherFlits.flush := by
    unfold State.trainPort
    simp only [hv]
  obtain ⟨hup, hver, hreason⟩ := State.links_port ((State.flush_links _).trans
    (State.gatherFlits_links (s.setPort p (fun x => { x with up := true, ver := BitVec.ofNat 2 v, reason := 0 })))) p
  rw [htrain, hup, hver, hreason, State.port_setPort_self hp]
  exact ⟨rfl, rfl, rfl⟩

theorem State.portDown_port (hp : p < s.fabric.ports.length) (why : PortReason) :
    ((s.portDown p why).port p).up = false ∧ ((s.portDown p why).port p).reason = reasonCode why := by
  obtain ⟨hup, -, hreason⟩ := State.links_port
    (State.moveFlits_links (s.setPort p (fun x => { x with up := false, ver := 0, reason := reasonCode why })) p) p
  unfold State.portDown
  rw [hup, hreason, State.port_setPort_self hp]
  exact ⟨rfl, rfl⟩

/-- The flits of a port go to the lowest other one that is up. -/
theorem State.moveFlits_flits (hp : p < s.fabric.ports.length)
    (hk : (List.range s.fabric.ports.length).find? (fun j => j != p && (s.port j).up) = some k) :
    ((s.moveFlits p).port p).flits = [] ∧ ((s.moveFlits p).port k).flits = (s.port k).flits ++ (s.port p).flits := by
  have hfound := List.find?_some hk
  have hne : k ≠ p := bne_iff_ne.mp (Bool.and_eq_true_iff.mp hfound).1
  have hlen : k < (s.setPort p (fun x => { x with flits := [] })).fabric.ports.length := by
    rw [State.setPort_length]
    exact List.mem_range.mp (List.mem_of_find?_eq_some hk)
  unfold State.moveFlits
  simp only [hk]
  rw [State.port_setPort_other hne.symm, State.port_setPort_self hp, State.port_setPort_self hlen, State.port_setPort_other hne]
  exact ⟨rfl, rfl⟩

theorem State.portDown_flits (hp : p < s.fabric.ports.length) (why : PortReason)
    (hk : (List.range s.fabric.ports.length).find? (fun j => j != p && (s.port j).up) = some k) :
    ((s.portDown p why).port p).flits = [] ∧ ((s.portDown p why).port k).flits = (s.port k).flits ++ (s.port p).flits := by
  have hfound := List.find?_some hk
  have hne : k ≠ p := bne_iff_ne.mp (Bool.and_eq_true_iff.mp hfound).1
  have hsame : (fun j => j != p && ((s.setPort p (fun x => { x with up := false, ver := 0, reason := reasonCode why })).port j).up)
      = fun j => j != p && (s.port j).up := by
    funext j
    by_cases hj : j = p
    · rw [hj, bne_self_eq_false, Bool.false_and, Bool.false_and]
    · rw [State.port_setPort_other hj]
  have hmoved := State.moveFlits_flits (s := s.setPort p (fun x => { x with up := false, ver := 0, reason := reasonCode why }))
    (by rw [State.setPort_length]; exact hp) (by rw [State.setPort_length, hsame]; exact hk)
  rw [State.port_setPort_other hne, State.port_setPort_self hp] at hmoved
  exact hmoved

/-! ### Heartbeats (31 R506) -/

theorem State.send_heartbeat (s : State) (p : Nat) : (s.send (.heartbeat p)).sent = .heartbeat p :: s.sent := rfl

theorem State.heartbeats_sent (ps : List Nat) (s : State) (hp : p ∈ ps) : .heartbeat p ∈ (ps.foldl (fun s p => s.send (.heartbeat p)) s).sent := by
  refine foldl_establishes (P := fun (s : State) => .heartbeat p ∈ s.sent) hp (fun s => ?_) (fun s k hin => ?_) s
  · exact (s.send_heartbeat p) ▸ List.mem_cons_self
  · exact (s.send_heartbeat k) ▸ List.mem_cons_of_mem _ hin

theorem State.heartbeats_beats (ps : List Nat) (s : State) : (ps.foldl (fun s p => s.send (.heartbeat p)) s).fabric.beats = s.fabric.beats :=
  foldl_keeps (p := fun (t : State) => t.fabric.beats) (f := fun (t : State) p => t.send (.heartbeat p)) (fun _ _ => rfl) ps s

theorem exec_heartbeatSend (hlive : (s.agent s.selfId).live = true) (hbeats : s.fabric.beats < s.rtime / 12500) :
    exec .heartbeatSend s = .next (((List.range s.fabric.ports.length).filter (fun p => (s.port p).up)).foldl (fun s p => s.send (.heartbeat p))
      { s with fabric := { s.fabric with beats := s.rtime / beatTicks } }) :=
  if_pos (by rw [hlive, Bool.true_and]; exact decide_eq_true hbeats)

/-- A heartbeat of a live agent, in time, is heard. -/
theorem exec_heartbeatReceive_heard (hup : (s.port s.ev.port).up = true) (haccepts : s.accepts s.ev.agent s.ev.word = true)
    (hoverdue : s.overdue s.ev.agent = false) : exec .heartbeatReceive s = .next (s.setAgent s.ev.agent (fun x => { x with heard := s.rtime })) := by
  change execHeartbeatReceive s = _
  unfold execHeartbeatReceive
  simp only [hup, haccepts, hoverdue, Bool.not_true, Bool.false_eq_true, if_false]

/-- One that comes too late finds its agent dead. -/
theorem exec_heartbeatReceive_late (hup : (s.port s.ev.port).up = true) (haccepts : s.accepts s.ev.agent s.ev.word = true)
    (hoverdue : s.overdue s.ev.agent = true) : exec .heartbeatReceive s = .next (s.declareDead s.ev.agent).dropMessage := by
  change execHeartbeatReceive s = _
  unfold execHeartbeatReceive
  simp only [hup, haccepts, hoverdue, Bool.not_true, Bool.false_eq_true, if_false, if_true]

theorem exec_heartbeatReceive_stale (hup : (s.port s.ev.port).up = true) (haccepts : s.accepts s.ev.agent s.ev.word = false) :
    exec .heartbeatReceive s = .next s.dropMessage := by
  change execHeartbeatReceive s = _
  unfold execHeartbeatReceive
  simp only [hup, haccepts, Bool.not_true, Bool.not_false, Bool.false_eq_true, if_false, if_true]

/-! ### Death (31 R507, R508; 03 R95; 01 R40) -/

theorem State.agent_setAgent {a : Nat} (ha : a < s.fabric.agents.length) (f : Agent → Agent) : (s.setAgent a f).agent a = f (s.agent a) := by
  rw [State.agent, State.agent, List.getD_eq_getElem?_getD, List.getD_eq_getElem?_getD, State.setAgent, updAt_getElem?, if_pos rfl,
    List.getElem?_eq_getElem ha]
  rfl

/-- Answered requests leave the ports and what waits to be sent. -/
theorem State.ackFlits_frame (ids : List Nat) (s : State) : ∃ (ps : List Port) (ob : List Msg), ids.foldl State.ackFlit s
    = { s with fabric := { s.fabric with ports := ps, outbox := ob } } ∧ ps.map Port.bare = s.links := by
  refine List.foldlRecOn (motive := fun (t : State) => ∃ (ps : List Port) (ob : List Msg), t = { s with fabric := { s.fabric with ports := ps, outbox := ob } }
    ∧ ps.map Port.bare = s.links) _ _ ⟨s.fabric.ports, s.fabric.outbox, rfl, rfl⟩ ?_
  rintro t ⟨ps, ob, rfl, hps⟩ i -
  refine ⟨_, _, rfl, ?_⟩
  rw [List.map_map]
  exact (List.map_congr_left fun x _ => rfl).trans hps

/-- Refusing what is out changes the requests, the directory's counts and the flits. -/
theorem State.refuseOut_frame (s : State) (which : Fwd → Bool) :
    ∃ m fs ps ob, s.refuseOut which = { s with mem := m, fwds := fs, fabric := { s.fabric with ports := ps, outbox := ob } }
      ∧ ps.map Port.bare = s.links ∧ ∀ r ∈ fs, which r = true → r.reply = none → r.dead = true := by
  unfold State.refuseOut
  dsimp only
  rw [← List.foldl_map (f := Fwd.id) (g := State.ackFlit)]
  generalize (List.foldl (fun (m : MemSys) (r : Fwd) => m.setCount (r.acc.getD 0) 63) s.mem _) = m
  generalize (s.fwds.filter (fun (r : Fwd) => which r && r.acc.isSome)) = accs
  generalize (s.fwds.filter (fun (r : Fwd) => !accs.any (fun (q : Fwd) => q.id == r.id))) = out
  obtain ⟨ps, ob, hfirst, hps⟩ := State.ackFlits_frame (accs.map Fwd.id) { s with mem := m, fwds := out }
  rw [hfirst]
  dsimp only
  generalize hids : (out.filter (fun r => which r && r.reply.isNone)).map Fwd.id = ids
  obtain ⟨ps', ob', hsecond, hps'⟩ := State.ackFlits_frame ids { s with
    mem := m, fwds := out.map (fun (r : Fwd) => if ids.contains r.id then { r with dead := true } else r),
    fabric := { s.fabric with ports := ps, outbox := ob } }
  refine ⟨m, _, ps', ob', hsecond, hps'.trans hps, ?_⟩
  intro r hr hwhich hreply
  obtain ⟨q, hq, rfl⟩ := List.mem_map.mp hr
  by_cases hin : ids.contains q.id = true
  · rw [if_pos hin]
  · rw [if_neg hin] at hwhich hreply
    refine absurd (List.contains_iff_mem.mpr ?_) hin
    rw [← hids]
    exact List.mem_map.mpr ⟨q, List.mem_filter.mpr ⟨hq, by rw [hwhich, hreply]; rfl⟩, rfl⟩

/-- Where no launch is a span's, none ends with its agents. -/
theorem State.failSpans_none (h : ∀ l ∈ s.launches, l.span = none) (which : Nat → Bool) : s.failSpans which = s :=
  foldl_eq_self fun l hl => by rw [h l hl]

theorem State.refuseOut_spanless (h : ∀ l ∈ s.launches, l.span = none) (refused : Fwd → Bool) (which : Nat → Bool) :
    (s.refuseOut refused).failSpans which = s.refuseOut refused := by
  obtain ⟨m, fs, ps, ob, hrefused, -, -⟩ := State.refuseOut_frame s refused
  have hlaunches : (s.refuseOut refused).launches = s.launches := by rw [hrefused]
  exact State.failSpans_none (hlaunches.symm ▸ h) which

/-- An agent is dead, which the driver is told, and what is out to it is refused. -/
theorem State.declareDead_dead {a : Nat} (ha : a < s.fabric.agents.length) (hspans : ∀ l ∈ s.launches, l.span = none) :
    ((s.declareDead a).agent a).live = false ∧ (s.declareDead a).sent = .interrupt s.fabric.vec :: s.sent
      ∧ ∀ r ∈ (s.declareDead a).fwds, r.dev = a → r.reply = none → r.dead = true := by
  obtain ⟨m, fs, ps, ob, hrefused, -, hdead⟩ := State.refuseOut_frame (s.setAgent a (fun x => { x with live := false })) (fun r => r.dev == a)
  have hagent := congrArg Agent.live (State.agent_setAgent ha (fun x => { x with live := false }))
  unfold State.declareDead
  dsimp only
  rw [State.refuseOut_spanless (s := s.setAgent a (fun x => { x with live := false })) hspans, hrefused]
  exact ⟨hagent, rfl, fun r hr hdev hreply => hdead r hr (beq_iff_eq.mpr hdev) hreply⟩

theorem exec_agentDeathDeclare (h : s.overdue s.ev.agent = true) : exec .agentDeathDeclare s = .next (s.declareDead s.ev.agent) := if_pos h

theorem exec_deadMessage (hlinked : s.fabric.linked = true) : exec .deadMessage s
    = if s.ev.agent == s.selfId then .next (if s.fabric.selfInc == s.ev.word && (s.agent s.ev.agent).live then s.selfDead else s.fabricIrq)
      else .next (if s.accepts s.ev.agent s.ev.word then s.declareDead s.ev.agent else s.fabricIrq) := by
  change execDeadMessage s = _
  unfold execDeadMessage
  refine (if_neg (by rw [hlinked]; exact Bool.false_ne_true)).trans ?_
  split <;> split <;> rfl

/-- A message of the admission leaves while a port is up. -/
theorem State.send_admission {m : Msg} (hlinked : s.fabric.linked = true) (hm : m.onFabric = some false) :
    s.send m = { s with sent := m :: s.sent } := by
  have htakes : s.fabric.takes m = true := by
    unfold Fabric.takes
    rw [hm, hlinked]
    rfl
  unfold State.send
  rw [if_pos htakes, if_pos htakes]
  split
  · exact nomatch hm
  · rfl

/-- This device once it is dead, before what is out is refused. -/
def State.silenced (s : State) : State :=
  { s.setAgent s.selfId (fun x => { x with live := false }) with
    fabric := { (s.setAgent s.selfId (fun x => { x with live := false })).fabric with go := false }
    launches := s.launches.map (fun (l : Launch) => { l with cut := l.cut || 0 < l.nextGang || !l.early.isEmpty }) }

theorem State.selfDead_eq (s : State) :
    s.selfDead = (((s.silenced.refuseOut (fun _ => true)).failSpans (fun b => b != s.selfId)).send .readmit).fabricIrq.wake := rfl

/-- This device is dead: it stays silent until it is admitted again, which it asks for. -/
theorem State.selfDead_dead (hlinked : s.fabric.linked = true) (hself : s.selfId < s.fabric.agents.length)
    (hspans : ∀ l ∈ s.launches, l.span = none) : (s.selfDead.agent s.selfId).live = false ∧ s.selfDead.fabric.go = false
      ∧ .readmit ∈ s.selfDead.sent ∧ ∀ r ∈ s.selfDead.fwds, r.reply = none → r.dead = true := by
  have hcut : ∀ l ∈ s.silenced.launches, l.span = none := by
    intro l hl
    obtain ⟨x, hx, rfl⟩ := List.mem_map.mp hl
    exact hspans x hx
  have hagent := congrArg Agent.live (State.agent_setAgent hself (fun x => { x with live := false }))
  obtain ⟨m, fs, ps, ob, hrefused, hps, hdead⟩ := State.refuseOut_frame s.silenced (fun _ => true)
  have hup : Fabric.linked { s.silenced.fabric with ports := ps, outbox := ob } = true := by
    have hany : ps.any Port.up = (ps.map Port.bare).any Port.up := by
      rw [List.any_map]
      rfl
    rw [State.linked_links] at hlinked
    exact (hany.trans (congrArg (List.any · Port.up) hps)).trans hlinked
  rw [State.selfDead_eq, State.refuseOut_spanless hcut, hrefused, State.send_admission hup rfl]
  exact ⟨hagent, rfl, List.mem_cons_of_mem _ List.mem_cons_self, fun r hr => hdead r hr rfl⟩

/-! ### Admission (31 R505, R509, R510) -/

/-- An agent admitted, before this device acknowledges it. -/
def State.admitted (s : State) (a : Nat) (inc : Word) (mine : Bool) : State :=
  let s := s.setAgent a (fun _ => { live := true, inc := inc, heard := s.rtime })
  if mine then { s with fabric := { s.fabric with self := BitVec.ofNat 8 a, selfInc := inc, go := false, beats := s.rtime / beatTicks } } else s

theorem State.admitAgent_eq (s : State) (a : Nat) (inc : Word) (mine : Bool) :
    s.admitAgent a inc mine = ((s.admitted a inc mine).send (.admitAck a inc)).fabricIrq.wake := rfl

theorem State.admitted_agents (s : State) (a : Nat) (inc : Word) (mine : Bool) :
    (s.admitted a inc mine).fabric.agents = updAt s.fabric.agents a (fun _ => { live := true, inc := inc, heard := s.rtime })
      ∧ (s.admitted a inc mine).fabric.ports = s.fabric.ports ∧ (s.admitted a inc mine).fabric.vec = s.fabric.vec
      ∧ (s.admitted a inc mine).sent = s.sent := by
  cases mine <;> exact ⟨rfl, rfl, rfl, rfl⟩

/-- An agent admitted lives at its incarnation, which is acknowledged and told to the driver. -/
theorem State.admitAgent_lives {a : Nat} {inc : Word} {mine : Bool} (ha : a < s.fabric.agents.length) (hlinked : s.fabric.linked = true) :
    (s.admitAgent a inc mine).agent a = { live := true, inc := inc, heard := s.rtime }
      ∧ (s.admitAgent a inc mine).sent = .interrupt s.fabric.vec :: .admitAck a inc :: s.sent
      ∧ (mine = true → (s.admitAgent a inc mine).fabric.self = BitVec.ofNat 8 a ∧ (s.admitAgent a inc mine).fabric.selfInc = inc
        ∧ (s.admitAgent a inc mine).fabric.go = false) := by
  obtain ⟨hagents, hports, hvec, hsent⟩ := s.admitted_agents a inc mine
  have hup : (s.admitted a inc mine).fabric.linked = true := by
    unfold Fabric.linked
    rw [hports]
    exact hlinked
  rw [State.admitAgent_eq, State.send_admission hup rfl]
  refine ⟨?_, ?_, fun hmine => ?_⟩
  · have hlives := State.agent_setAgent ha (fun _ => { live := true, inc := inc, heard := s.rtime })
    exact (congrArg (fun (l : List Agent) => l.getD a ({} : Agent)) hagents).trans hlives
  · exact congrArg₂ (fun v (l : List Msg) => Msg.interrupt v :: .admitAck a inc :: l) hvec hsent
  · subst hmine
    exact ⟨rfl, rfl, rfl⟩

/-- Everything leaves once a port is up and GO has come. -/
theorem State.send_go (hlinked : s.fabric.linked = true) (hgo : s.fabric.go = true) (m : Msg) :
    (s.send m).fabric.linked = true ∧ (s.send m).fabric.go = true ∧ (s.send m).fabric.outbox = s.fabric.outbox ∧ (s.send m).mem = s.mem := by
  have htakes : s.fabric.takes m = true := by
    unfold Fabric.takes
    rw [hlinked, hgo]
    split
    · rw [Bool.or_true, Bool.and_true]
    · rfl
  refine ⟨by rw [State.linked_links, State.send_links, ← State.linked_links, hlinked], ?_, ?_, rfl⟩
  · unfold State.send
    rw [if_pos htakes]
    split
    · exact hgo
    · exact hgo
  · unfold State.send
    rw [if_pos htakes]
    split <;> rfl

theorem State.flush_go (hlinked : s.fabric.linked = true) (hgo : s.fabric.go = true) :
    s.flush.fabric.go = true ∧ s.flush.fabric.outbox = [] ∧ s.flush.mem = s.mem := by
  have hall : s.flush.fabric.linked = true ∧ s.flush.fabric.go = true ∧ s.flush.fabric.outbox = [] ∧ s.flush.mem = s.mem := by
    refine List.foldlRecOn (motive := fun (t : State) => t.fabric.linked = true ∧ t.fabric.go = true ∧ t.fabric.outbox = [] ∧ t.mem = s.mem) _ _
      ⟨hlinked, hgo, rfl, rfl⟩ ?_
    rintro t ⟨hl, hg, hout, hmem⟩ m -
    obtain ⟨hl', hg', hout', hmem'⟩ := State.send_go hl hg m
    exact ⟨hl', hg', hout'.trans hout, hmem'.trans hmem⟩
  exact hall.2

end

/-- Settles O59, clause by clause: what each event does to the ports, the agents and the messages. -/
theorem fabricEvents : Obligations.FabricEvents := by
  unfold Obligations.FabricEvents
  intro dropped trains
  have hdropped : ∀ s, s.dropMessage = dropped s := State.dropMessage_eq
  refine ⟨?_, ?_, ?_, ?_, ?_, ?_, ?_, ?_, ?_, ?_, ?_, ?_, ?_⟩
  · rintro s m ⟨hp, hlen, hup, hdis⟩ hpeer hcommon
    obtain ⟨hnow, hver, hreason⟩ := State.trainPort_up (s := s) (hlen.symm ▸ hp) (commonVersion_eq m hcommon)
    refine ⟨_, exec_portTraining hp hup hdis, ?_⟩
    rw [hpeer]
    refine ⟨hnow, hreason, hver.trans ?_⟩
    split <;> rfl
  · rintro s ⟨hp, hlen, hup, hdis⟩ p hmem hpeer
    have hp' : s.ev.port < s.fabric.ports.length := hlen.symm ▸ hp
    refine ⟨_, exec_portTraining hp hup hdis, ?_⟩
    rw [hpeer]
    simp only [List.mem_cons, List.not_mem_nil, or_false] at hmem
    obtain rfl | rfl | rfl := hmem
    · exact State.portDown_port hp' .noVer
    · exact State.portDown_port hp' .noSignal
    · exact State.portDown_port hp' .failed
  · intro s k hp hlen hup hk
    have hp' : s.ev.port < s.fabric.ports.length := hlen.symm ▸ hp
    obtain ⟨hdown, hreason⟩ := State.portDown_port hp' s.ev.why
    obtain ⟨hnone, hmoved⟩ := State.portDown_flits hp' s.ev.why (hlen.symm ▸ hk)
    exact ⟨_, if_pos hup, hdown, hreason, hnone, hmoved⟩
  · intro s hlive hbeats
    refine ⟨_, exec_heartbeatSend hlive hbeats, State.heartbeats_beats .., fun p hp hup => ?_⟩
    exact State.heartbeats_sent _ _ (List.mem_filter.mpr ⟨List.mem_range.mpr hp, hup⟩)
  · intro s hup haccepts hoverdue
    rw [exec_heartbeatReceive_late hup haccepts hoverdue, hdropped]
  · intro s hup haccepts hoverdue ha
    refine ⟨_, exec_heartbeatReceive_heard hup haccepts hoverdue, State.agent_setAgent ha _⟩
  · intro s haccepts
    rw [← hdropped]
    exact ⟨fun hlinked => if_neg (by rw [hlinked, haccepts]; exact Bool.false_ne_true), fun hup => exec_heartbeatReceive_stale hup haccepts⟩
  · exact fun s haccepts => if_pos (by rw [haccepts, Bool.or_true])
  · intro s hlive hother ha hwhy hspans dead
    have hself : (s.ev.agent == s.selfId) = false := beq_eq_false_iff_ne.mpr hother
    refine ⟨fun hlate => ⟨_, exec_agentDeathDeclare ?_, State.declareDead_dead ha hspans⟩, fun hlinked haccepts =>
      ⟨_, ?_, State.declareDead_dead ha hspans⟩⟩
    · simp only [State.overdue, hlive, bne, hself, hlate, decide_true, Bool.not_false, Bool.and_self]
    · rw [exec_deadMessage hlinked, hself, haccepts]
      rfl
  · intro s hlinked hme hinc hlive ha hspans
    obtain ⟨hdead, hgo, hask, hrefused⟩ := State.selfDead_dead hlinked (hme ▸ ha) hspans
    refine ⟨s.selfDead, ?_, hme ▸ hdead, hgo, hask, hrefused⟩
    rw [exec_deadMessage hlinked, if_pos (beq_iff_eq.mpr hme), if_pos (Bool.and_eq_true_iff.mpr ⟨beq_iff_eq.mpr hinc, hlive⟩)]
  · intro s hlinked ha hlen
    obtain ⟨hagent, hsent, hmine⟩ := State.admitAgent_lives (s := s) (a := s.ev.agent) (inc := s.ev.word)
      (mine := s.ev.write || s.ev.agent == s.selfId) (by omega) hlinked
    refine ⟨_, if_pos (Bool.and_eq_true_iff.mpr ⟨hlinked, decide_eq_true ha⟩), hagent, hsent, fun h => hmine ?_⟩
    rw [Bool.or_eq_true, beq_iff_eq]
    exact h
  · intro s hlinked hlive
    obtain ⟨hgo, hout, hmem⟩ := State.flush_go (s := { s with fabric := { s.fabric with go := true } }) hlinked rfl
    exact ⟨_, if_pos (Bool.and_eq_true_iff.mpr ⟨hlinked, hlive⟩), hgo, hmem, hout⟩
  · intro s hlinked i hi
    have hdown : (!s.fabric.linked) = true := by rw [hlinked]; rfl
    simp only [List.mem_cons, List.not_mem_nil, or_false] at hi
    obtain rfl | rfl | rfl | rfl | rfl | rfl := hi
    · exact if_pos hdown
    · exact if_pos hdown
    · exact if_pos hdown
    · exact if_neg (by rw [hlinked]; exact Bool.false_ne_true)
    · exact if_neg (by rw [hlinked]; exact Bool.false_ne_true)
    · exact if_pos (by rw [hdown]; rfl)

end Sys2Proof.Machine
end

section
/-! Service (32 R512 to R518; 27 R462): images and units, SPDM, freezing, spare cores, errors, telemetry and reset. -/

namespace Sys2Proof.Machine

/-! ### Firmware (32 R512) -/

section
variable {s : State} {n : Nat} {u : FwUnit}

/-- Configuring what waits leaves the service unit as it is. -/
theorem State.runNcfg_service (s : State) (n : Nat) : (s.runNcfg n).service = s.service := by
  induction n generalizing s with
  | zero => rfl
  | succ n ih =>
    unfold State.runNcfg
    split
    · rfl
    · dsimp only
      rw [ih, State.configure_same]

/-- Once as many steps are taken as operations stand there, no configuration is left that could be made. -/
theorem State.runNcfg_done (s : State) (n : Nat) (hn : s.ops.length ≤ n) :
    ∀ o ∈ (s.runNcfg n).ops, o.kind = .ncfg → (s.runNcfg n).firstOfUnit o = false := by
  induction n generalizing s with
  | zero =>
    intro o ho
    have hnone : s.ops = [] := List.eq_nil_of_length_eq_zero (Nat.le_zero.mp hn)
    have hop : o ∈ s.ops := ho
    rw [hnone] at hop
    exact nomatch hop
  | succ n ih =>
    unfold State.runNcfg
    cases hfind : s.ops.find? (fun o => o.kind == .ncfg && s.firstOfUnit o) with
    | none =>
      intro o ho hkind
      have hnot := List.find?_eq_none.mp hfind o ho
      simpa [hkind] using hnot
    | some x =>
      refine ih _ ?_
      have hmem := List.mem_of_find?_eq_some hfind
      have hless : (s.ops.filter (fun p => p.id != x.id)).length < s.ops.length :=
        List.length_filter_lt_length_iff_exists.mpr ⟨x, hmem, by rw [bne_self_eq_false]; exact Bool.false_ne_true⟩
      have hsame : (s.configure (Grid.ofBlock x.block (s.queueOf x.launch) (dieOf x.core))).ops = s.ops := by rw [State.configure_same]
      dsimp only
      rw [hsame]
      omega

theorem State.endQuiesce_quiesce (s : State) (which : FwUnit → Bool) :
    (s.endQuiesce which).service.quiesce = s.service.quiesce.filter (fun q => !which q.1) := by
  unfold State.endQuiesce
  rw [State.wake_service, State.runNcfg_service]
  rfl

theorem State.wake_firstOfUnit (s : State) (o : EngOp) : s.wake.firstOfUnit o = s.firstOfUnit o := rfl

theorem State.endQuiesce_done (s : State) (which : FwUnit → Bool) :
    ∀ o ∈ (s.endQuiesce which).ops, o.kind = .ncfg → (s.endQuiesce which).firstOfUnit o = false := by
  intro o ho hkind
  unfold State.endQuiesce at ho ⊢
  rw [State.wake_firstOfUnit]
  exact State.runNcfg_done _ _ le_rfl o ho hkind

/-- What is left when an image is refused: none staged, and no unit waits for one. -/
def State.imageLost (s : State) (usable : Bool) : State :=
  { s with service := { s.service with staged := none, quiesce := [], slotUsable := usable }, sent := .imageRefused :: s.sent }

theorem State.discardImage_eq (s : State) (usable : Bool) : (s.setService (fun v => { v with slotUsable := usable })).discardImage
    = ((s.imageLost usable).runNcfg (s.imageLost usable).ops.length).wake := by
  have hnone : s.service.quiesce.filter (fun _ => !true) = [] := List.filter_eq_nil_iff.mpr fun q _ => Bool.false_ne_true
  unfold State.discardImage State.endQuiesce State.imageLost
  rw [State.send_direct _ rfl]
  simp only [State.setService, hnone]

/-- A master that is not frozen stages an image, or loses the slot's. -/
theorem exec_fwImageStage (hagent : s.ev.agent ≤ 1) (hopen : s.isFrozen s.ev.agent = false) (hslot : s.ev.agent = 1 ∨ s.service.slotUsable = true) :
    exec .fwImageStage s = .next (if s.ev.fails then ((s.imageLost false).runNcfg (s.imageLost false).ops.length).wake
      else if imageOk s.ev.image then
        s.setService (fun v => { v with images := v.images ++ [s.ev.image], staged := some (v.images.length + 1), slotUsable := true })
      else ((s.imageLost s.service.slotUsable).runNcfg (s.imageLost s.service.slotUsable).ops.length).wake) := by
  have husable : (s.ev.agent == 0 && !s.service.slotUsable) = false := by
    obtain h | h := hslot
    · rw [h]; rfl
    · rw [h, Bool.not_true, Bool.and_false]
  rw [← State.discardImage_eq, ← State.discardImage_eq]
  change execFwImageStage s = _
  unfold execFwImageStage
  simp only [Nat.not_lt.mpr hagent, hopen, husable, if_false, Bool.false_eq_true]
  split
  · rfl
  · split <;> rfl

/-- The host cannot stage an image in a slot that is unusable. -/
theorem exec_fwImageStage_unusable (hagent : s.ev.agent = 0) (hopen : s.isFrozen 0 = false) (hslot : s.service.slotUsable = false) :
    exec .fwImageStage s = .next (s.send .imageRefused) := by
  change execFwImageStage s = _
  unfold execFwImageStage
  simp only [hagent, hopen, hslot, Nat.not_lt_zero, if_false, Bool.false_eq_true, beq_self_eq_true, Bool.not_false, Bool.and_self, if_true]

theorem exec_fwUnitActivate (hstaged : s.service.staged = some n) (hunit : unitExists s.ev.unit = true) :
    exec .fwUnitActivate s = .next (s.activate n s.ev.unit) := by
  change execFwUnitActivate s = _
  unfold execFwUnitActivate
  simp only [hstaged, hunit, if_true]

/-- The firmware controller runs no operation. -/
theorem State.opsOf_controller (s : State) : s.opsOf .controller = [] := by
  have hunit : ∀ o, (s.unitOf o == FwUnit.controller) = false := fun o => by
    unfold State.unitOf
    split
    · rfl
    · split <;> rfl
  unfold State.opsOf
  rw [List.filter_eq_nil_iff.mpr fun o _ => by rw [hunit o]; exact Bool.false_ne_true]
  rfl

theorem State.activate_controller (hfree : s.service.quiesce.find? (fun q => q.1 == .controller) = none) :
    s.activate n .controller = s.runImage n .controller := by
  unfold State.activate
  simp only [hfree, State.opsOf_controller, List.isEmpty_nil, if_true]

/-- A core without a gang has nothing to clear. -/
theorem State.clearCore_none {c : Nat} (h : s.gangsOn c = []) : s.clearCore c = s := by
  unfold State.clearCore
  rw [h]
  rfl

theorem State.activate_core {c : Nat} (h : s.gangsOn c = []) : s.activate n (.core c) = (s.runImage n (.core c)).wake := by
  unfold State.activate
  simp only [State.clearCore_none h, h, List.isEmpty_nil, if_true]

theorem State.activate_sluice {d : Nat} {ids : List Nat} (hwaits : s.service.quiesce.find? (fun q => q.1 == .sluice d) = some (.sluice d, ids))
    (hended : ∀ i ∈ ids, i ∉ s.opsOf (.sluice d)) :
    s.activate n (.sluice d) = (s.runImage n (.sluice d)).endQuiesce (fun x => x == .sluice d) := by
  have hnone : ids.any (fun i => (s.opsOf (.sluice d)).contains i) = false := by
    rw [List.any_eq_false]
    exact fun i hi h => hended i hi (List.contains_iff_mem.mp h)
  unfold State.activate
  simp only [hwaits, hnone, Bool.false_eq_true, if_false]

end

theorem State.core_setCore {s : State} {c : Nat} (hc : c < s.cores.length) (f : Core → Core) : (s.setCore c f).core c = f (s.core c) := by
  rw [State.core, State.core, List.getD_eq_getElem?_getD, List.getD_eq_getElem?_getD, State.setCore, updAt_getElem?, if_pos rfl,
    List.getElem?_eq_getElem hc]
  rfl

/-! ### SPDM (32 R513) -/

section
variable {s : State}

theorem spdm_open (h : s.isFrozen 1 = false) (t : State) : spdm s t = .next t := by
  unfold spdm
  rw [h]
  rfl

theorem State.respond_eq (s : State) (code : Nat) (ps : List Nat) : s.respond code ps = { s with sent := .spdm code (Config.spdmBody code ps) :: s.sent } :=
  s.send_direct rfl

/-- A request that comes after the algorithms are agreed is answered, another in error. -/
theorem spdm_agreed (h : s.isFrozen 1 = false) (halgs : s.service.spdmAlgs = true) (t : State) :
    spdm s (if s.service.spdmAlgs then t else s.spdmError) = .next t := by
  rw [spdm_open h, if_pos halgs]

theorem spdm_early (h : s.isFrozen 1 = false) (halgs : s.service.spdmAlgs = false) (t : State) :
    spdm s (if s.service.spdmAlgs then t else s.spdmError) = .next s.spdmError := by
  rw [spdm_open h, if_neg (by rw [halgs]; exact Bool.false_ne_true)]

theorem exec_getMeasurements (h : s.isFrozen 1 = false) (halgs : s.service.spdmAlgs = true) {ps : List Nat} (hps : s.measured s.ev.choice = some ps) :
    exec .getMeasurements s = .next (s.respond 0x60 (s.ev.choice :: ps)) := by
  change execGetMeasurements s = _
  unfold execGetMeasurements
  rw [spdm_open h, halgs, hps]

theorem exec_getMeasurements_early (h : s.isFrozen 1 = false) (halgs : s.service.spdmAlgs = false) : exec .getMeasurements s = .next s.spdmError := by
  change execGetMeasurements s = _
  unfold execGetMeasurements
  rw [spdm_open h, halgs]

end

/-! ### Masters (32 R514, R515) -/

section
variable {s : State} {m : Nat}

theorem State.turnAway_service (s : State) (m : Nat) : (s.turnAway m).service = s.service := by
  unfold State.turnAway
  split
  · rfl
  · split <;> rfl

theorem State.turnAways_service (ms : List Nat) (s : State) : (ms.foldl State.turnAway s).service = s.service :=
  foldl_keeps (fun s m => s.turnAway_service m) ms s

/-- What a refused request is answered with. -/
theorem State.turnAway_sent (s : State) (m : Nat) : (s.turnAway m).sent = if m = 0 then .unsupported :: s.sent
    else if m = 2 ∧ s.fabric.linked = true ∧ s.fabric.go = true then .reply s.ev.access.source .frozen :: s.sent else s.sent := by
  unfold State.turnAway
  by_cases hhost : m = 0
  · rw [if_pos (beq_iff_eq.mpr hhost), if_pos hhost, State.send_direct s rfl]
  · rw [if_neg (fun h => hhost (beq_iff_eq.mp h)), if_neg hhost]
    by_cases hpeer : m = 2
    · have htakes : s.fabric.takes (.reply s.ev.access.source .frozen) = (s.fabric.linked && s.fabric.go) := rfl
      rw [if_pos (beq_iff_eq.mpr hpeer), State.send_sent, htakes]
      by_cases hout : s.fabric.linked = true ∧ s.fabric.go = true
      · rw [if_pos (Bool.and_eq_true_iff.mpr hout), if_pos ⟨hpeer, hout⟩]
      · rw [if_neg (fun h => hout (Bool.and_eq_true_iff.mp h)), if_neg (fun h => hout h.2)]
    · rw [if_neg (fun h => hpeer (beq_iff_eq.mp h)), if_neg (fun h => hpeer h.1)]

theorem exec_masterFreeze (h : s.ev.agent < 4) : exec .masterFreeze s
    = .next ((s.ev.agents.filter (fun m => m != s.ev.agent && m < 4)).foldl State.turnAway ((s.freeze s.ev.agent s.ev.pa).turnAway s.ev.agent)) :=
  if_pos h

/-- A master frozen, which leaves another unfrozen. -/
theorem State.freeze_eq (hopen : s.isFrozen m = false) (hleft : s.service.frozen ||| BitVec.ofNat 4 (2 ^ m) ≠ BitVec.allOnes 4) (a : Nat) :
    s.freeze m a = { s with service := { s.service with
      frozen := s.service.frozen ||| BitVec.ofNat 4 (2 ^ m), lastFrozen := BitVec.ofNat 3 m, frozenAddr := BitVec.ofNat 32 a } } := by
  unfold State.freeze
  refine if_neg ?_
  rw [hopen, Bool.false_or, beq_iff_eq]
  exact hleft

theorem State.freeze_last (hlast : s.service.frozen ||| BitVec.ofNat 4 (2 ^ m) = BitVec.allOnes 4) (a : Nat) : s.freeze m a = s :=
  if_pos (by rw [hlast, beq_self_eq_true, Bool.or_true])

theorem State.freeze_frozen (h : s.isFrozen m = true) (a : Nat) : s.freeze m a = s := if_pos (by rw [h, Bool.true_or])

/-- Which bit a master's is. -/
theorem masterBit (hm : m < 4) : ∀ k, k < 4 → (BitVec.ofNat 4 (2 ^ m)).getLsbD k = decide (k = m) := by
  have hall : ∀ m, m < 4 → ∀ k, k < 4 → (BitVec.ofNat 4 (2 ^ m)).getLsbD k = decide (k = m) := by decide
  exact hall m hm

/-- What a violation marks: its master's bit, and where it was. -/
theorem State.freeze_marks (hm : m < 4) (hopen : s.isFrozen m = false)
    (hleft : s.service.frozen ||| BitVec.ofNat 4 (2 ^ m) ≠ BitVec.allOnes 4) (a : Nat) :
    (s.freeze m a).service.frozen.getLsbD m = true ∧ (s.freeze m a).service.lastFrozen.toNat = m
      ∧ (s.freeze m a).service.frozenAddr = BitVec.ofNat 32 a ∧ ∀ k, k < 4 → k ≠ m → (s.freeze m a).service.frozen.getLsbD k = s.isFrozen k := by
  rw [State.freeze_eq hopen hleft]
  refine ⟨?_, Nat.mod_eq_of_lt (by omega), rfl, fun k hk hne => ?_⟩
  · rw [BitVec.getLsbD_or, masterBit hm m hm, decide_eq_true rfl, Bool.or_true]
  · rw [BitVec.getLsbD_or, masterBit hm k hk, decide_eq_false hne, Bool.or_false]
    rfl

theorem exec_mfreezeThaw (h : s.ev.agent < 4) (hopen : s.isFrozen s.ev.agent = false) :
    exec .mfreezeThaw s = .next (s.thaw (s.ev.word.toNat % 16)) :=
  (if_pos h).trans (congrArg Host.Outcome.next (if_neg (by rw [hopen]; exact Bool.false_ne_true)))

theorem State.thaw_frozen (w : Word) (hm : m < 4) : (s.thaw (w.toNat % 16)).isFrozen m = (s.isFrozen m && !w.getLsbD m) := by
  have hbit : (BitVec.ofNat 4 (w.toNat % 16)).getLsbD m = w.getLsbD m := by
    rw [BitVec.getLsbD_ofNat, decide_eq_true hm, Bool.true_and]
    exact (Nat.testBit_mod_two_pow w.toNat 4 m).trans (by rw [decide_eq_true hm, Bool.true_and]; rfl)
  change (s.service.frozen &&& ~~~BitVec.ofNat 4 (w.toNat % 16)).getLsbD m = _
  rw [BitVec.getLsbD_and, BitVec.getLsbD_not, hbit, decide_eq_true hm, Bool.true_and]
  rfl

end

end Sys2Proof.Machine
end

section
/-! Spare cores, errors, telemetry and reset (32 R516 to R518; 02 R65), and the obligation of service. -/

namespace Sys2Proof.Machine

/-! ### Spare cores (32 R516) -/

section
variable {s : State} {spare : Nat}

theorem replaceCore_run {c : Nat} (hclean : CleanL1 s c) : (replaceCore c spare).run s = .ok ((), s.putSpare c spare) := by
  have hwritten : ∀ cs, (∀ k ∈ cs, ∀ l ∈ (s.core k).l1, l.dirty = 0) → (forM_ cs (fun k => wbCore (coreWho s k 0) k)).run s = .ok ((), s) :=
    fun cs h => forM_quiet fun k hk => wbLines_clean (h k hk)
  unfold replaceCore
  rw [bind_get, bind_ok (hwritten _ hclean)]
  rfl

theorem exec_spareCoreReplace (hc : s.ev.core < 512) (hspare : (s.service.spares.getD (dieOf s.ev.core) [])[s.ev.choice]? = some spare)
    (hgangs : s.gangsOn s.ev.core = []) (hitems : ∀ i ∈ s.itemCrews, i.core ≠ s.ev.core) (hclean : CleanL1 s s.ev.core) :
    exec .spareCoreReplace s = .next (s.putSpare s.ev.core spare).dropAnswers.wake := by
  have hnone : s.itemCrews.any (fun (i : ItemCrew) => i.core == s.ev.core) = false := by
    rw [List.any_eq_false]
    exact fun i hi h => hitems i hi (beq_iff_eq.mp h)
  have hin : ¬coreCount ≤ s.ev.core := Nat.not_le.mpr hc
  change execSpareCoreReplace s = _
  unfold execSpareCoreReplace
  simp only [hspare, hin, State.clearCore_none hgangs, hgangs, hnone, List.isEmpty_nil, Bool.not_false, Bool.and_self, if_false, if_true,
    State.attempt_ok (replaceCore_run hclean)]

/-- The spare is taken from those of its die. -/
theorem State.putSpare_spares (s : State) (c : Nat) (hdie : dieOf c < s.service.spares.length) :
    spare ∉ (s.putSpare c spare).service.spares.getD (dieOf c) [] := by
  have htaken : (s.putSpare c spare).service.spares.getD (dieOf c) [] = (s.service.spares.getD (dieOf c) []).filter (fun p => p != spare) := by
    rw [List.getD_eq_getElem?_getD, List.getD_eq_getElem?_getD]
    change ((updAt s.service.spares (dieOf c) (fun l => l.filter (fun p => p != spare)))[dieOf c]?).getD [] = _
    rw [updAt_getElem?, if_pos rfl, List.getElem?_eq_getElem hdie]
    rfl
  rw [htaken]
  intro hmem
  exact bne_iff_ne.mp (List.mem_filter.mp hmem).2 rfl

/-! ### Errors of arrays (32 R517) -/

theorem countUp_getD {l : List Nat} {k : Nat} (hk : k < l.length) : (countUp l k).getD k 0 = min (l.getD k 0 + 1) (2 ^ 32 - 1) := by
  rw [List.getD_eq_getElem?_getD, List.getD_eq_getElem?_getD, countUp, updAt_getElem?, if_pos rfl, List.getElem?_eq_getElem hk]
  rfl

theorem mem_poisonLine (l : List Nat) (n k : Nat) : k ∈ poisonLine l n ↔ k = n ∨ k ∈ l := by
  unfold poisonLine
  split
  · next h =>
    have hn := List.contains_iff_mem.mp h
    exact ⟨Or.inr, fun h => h.elim (fun h => h ▸ hn) id⟩
  · rw [List.mem_append, List.mem_singleton, or_comm]

/-- An error in memory or the L2 marks the line. -/
theorem exec_eccPoison_memory (hchoice : s.ev.choice ∉ [1, 2, 3, 4, 5, 6, 7]) (hpa : s.ev.pa < deviceBytes) : exec .eccPoison s
    = .next { s with mem := { s.mem with poison := poisonLine s.mem.poison (s.ev.pa / 64) } } := by
  simp only [List.mem_cons, List.not_mem_nil, or_false, not_or] at hchoice
  obtain ⟨h1, h2, h3, h4, h5, h6, h7⟩ := hchoice
  change execEccPoison s = _
  unfold execEccPoison
  split
  case h_8 => exact congrArg Host.Outcome.next (if_pos hpa)
  all_goals contradiction

theorem exec_eccPoison_l1 (hchoice : s.ev.choice = 1) : exec .eccPoison s
    = .next (s.setCore s.ev.core (fun c => c.poisonL1 (s.ev.pa / 64))) := by
  change execEccPoison s = _
  unfold execEccPoison
  simp only [hchoice]

theorem exec_eccPoison_scratchpad {t : Team} (hchoice : s.ev.choice = 2) (ht : s.team? s.ev.launch s.ev.team = some t) (hpa : s.ev.pa < t.spSize) :
    exec .eccPoison s = .next (s.setTeam { t with spPoison := poisonLine t.spPoison (s.ev.pa / 64) }) := by
  change execEccPoison s = _
  unfold execEccPoison
  simp only [hchoice, ht, hpa, if_true]

theorem exec_eccPoison_register {f : Fibre} (hchoice : s.ev.choice = 3) (hf : s.fibre? s.ev.fibre = some f) (hreg : s.ev.word.toNat < f.regs.length) :
    exec .eccPoison s = .next (s.setFibre { f with poison := poisonLine f.poison s.ev.word.toNat }) := by
  change execEccPoison s = _
  unfold execEccPoison
  simp only [hchoice, hf, hreg, if_true]

theorem exec_eccPoison_tile {t : Team} (hchoice : s.ev.choice = 4) (ht : s.team? s.ev.launch s.ev.team = some t) (hpa : s.ev.pa / 64 < 128) :
    exec .eccPoison s
      = .next (s.setTeam { t with tiles := updAt t.tiles s.ev.word.toNat (fun x => { x with poison := poisonLine x.poison (s.ev.pa / 64) }) }) := by
  change execEccPoison s = _
  unfold execEccPoison
  simp only [hchoice, ht, hpa, if_true]

theorem exec_eccPoison_tlb (hchoice : s.ev.choice = 5) : exec .eccPoison s = .next (s.setCore s.ev.core (fun c =>
    { c with tlb := poisonTlb c.tlb s.ev.queue (pageOf s.ev.val), walkAhead := poisonTlb c.walkAhead s.ev.queue (pageOf s.ev.val) })) := by
  change execEccPoison s = _
  unfold execEccPoison
  simp only [hchoice]

theorem exec_eccPoison_dieTlb (hchoice : s.ev.choice = 6) : exec .eccPoison s
    = .next { s with mem := { s.mem with dieTlb := updAt s.mem.dieTlb s.ev.die (fun l => poisonTlb l s.ev.queue (pageOf s.ev.val)) } } := by
  change execEccPoison s = _
  unfold execEccPoison
  simp only [hchoice]

theorem exec_eccPoison_decoded {l : L2Line} (hchoice : s.ev.choice = 7) (hl : l ∈ s.mem.l2) (hline : l.line = lineNo s.ev.pa true) :
    exec .eccPoison s = .next { s with mem := { s.mem with poison := poisonLine s.mem.poison (lineNo s.ev.pa true) } } := by
  have hheld : s.mem.l2.any (fun l => l.line == lineNo s.ev.pa true) = true := List.any_eq_true.mpr ⟨l, hl, beq_iff_eq.mpr hline⟩
  change execEccPoison s = _
  unfold execEccPoison
  simp only [hchoice, hheld, if_true]

/-- The entry that an access would meet is marked. -/
theorem mem_poisonTlb {es : List TlbEntry} {e : TlbEntry} {queue page : Nat} (he : e ∈ es) (hhits : e.hits queue page = true) :
    { e with poison := true } ∈ poisonTlb es queue page :=
  List.mem_map.mpr ⟨e, he, if_pos hhits⟩

/-- An update that leaves the default as it is, at any place. -/
theorem updAt_getD {α : Type} {f : α → α} {d : α} (hd : f d = d) (l : List α) (k : Nat) : (updAt l k f).getD k d = f (l.getD k d) := by
  rw [List.getD_eq_getElem?_getD, List.getD_eq_getElem?_getD, updAt_getElem?, if_pos rfl]
  cases l[k]? with
  | none => exact hd.symm
  | some x => rfl

theorem Core.mem_poisonL1 {c : Core} {l : L1Line} (hl : l ∈ c.l1) : { l with poison := true } ∈ (c.poisonL1 l.line).l1 :=
  List.mem_map.mpr ⟨l, hl, if_pos (beq_self_eq_true l.line)⟩

end

/-! ### Telemetry (32 R518) -/

section
variable {s : State} {r : Readings}

/-- A sample's report leaves at once. -/
theorem State.sample_parts (s : State) (r : Readings) : (s.sample r).service.power = r.power ∧ (s.sample r).service.temps = r.temps
    ∧ (s.sample r).service.sampled = s.service.sampled + 1 ∧ (s.sample r).sent = s.sensors r :: s.sent := ⟨rfl, rfl, rfl, rfl⟩

/-- Samples taken one after another: the last one's readings stand, and each is reported. -/
theorem State.samples_parts (r : Readings) (n : Nat) (s : State) :
    ((fun t => State.sample t r)^[n + 1] s).service.power = r.power ∧ ((fun t => State.sample t r)^[n + 1] s).service.temps = r.temps
      ∧ ((fun t => State.sample t r)^[n + 1] s).service.sampled = s.service.sampled + (n + 1)
      ∧ ((fun t => State.sample t r)^[n + 1] s).sent.length = s.sent.length + (n + 1) := by
  induction n with
  | zero =>
    obtain ⟨hpower, htemps, hsampled, hsent⟩ := s.sample_parts r
    exact ⟨hpower, htemps, hsampled, congrArg List.length hsent⟩
  | succ n ih =>
    obtain ⟨-, -, ihsampled, ihsent⟩ := ih
    rw [Function.iterate_succ_apply']
    obtain ⟨hpower, htemps, hsampled, hsent⟩ := State.sample_parts ((fun t => State.sample t r)^[n + 1] s) r
    refine ⟨hpower, htemps, hsampled.trans ?_, (congrArg List.length hsent).trans ?_⟩
    · rw [ihsampled, Nat.add_assoc]
    · rw [List.length_cons, ihsent, Nat.add_assoc]

theorem exec_sensorSample (s : State) : exec .sensorSample s
    = .next ((fun t => State.sample t s.ev.readings)^[s.rtime / 100000 - s.service.sampled] s) := by
  have hfold := List.foldl_const (fun t => State.sample t s.ev.readings) s (List.range (s.rtime / 100000 - s.service.sampled))
  rw [List.length_range] at hfold
  exact congrArg Host.Outcome.next hfold

/-- A die at a limit steps its clock down. -/
theorem State.sample_slowed {d : Nat} (hd : d < s.clk.mhz.length) (hslow : slowed r d = true) :
    (s.sample r).clk.mhz.getD d 0 = max 300 (s.clk.mhz.getD d 0 - 50) := by
  have hmhz : (s.sample r).clk.mhz = ((List.range s.clk.mhz.length).zip s.clk.mhz).map (fun (d, m) => stepClock m (slowed r d)) := rfl
  have hstep : (s.sample r).clk.mhz[d]? = some (stepClock s.clk.mhz[d] (slowed r d)) := by
    have hplace : ((List.range s.clk.mhz.length).zip s.clk.mhz)[d]? = some (d, s.clk.mhz[d]) :=
      List.getElem?_zip_eq_some.mpr ⟨List.getElem?_range hd, List.getElem?_eq_getElem hd⟩
    rw [hmhz, List.getElem?_map, hplace]
    rfl
  rw [List.getD_eq_getElem?_getD, List.getD_eq_getElem?_getD, hstep, List.getElem?_eq_getElem hd, hslow]
  rfl

theorem slowed_of_limit {d : Nat} (h : 1400 < r.power ∨ ∃ k ∈ [d, 8, 9], r.hot.getD k false = true) : slowed r d = true := by
  unfold slowed
  simp only [Bool.or_eq_true, decide_eq_true_eq]
  obtain hpower | ⟨k, hk, hhot⟩ := h
  · exact Or.inr hpower
  · simp only [List.mem_cons, List.not_mem_nil, or_false] at hk
    obtain rfl | rfl | rfl := hk
    · exact Or.inl (Or.inl (Or.inl hhot))
    · exact Or.inl (Or.inl (Or.inr hhot))
    · exact Or.inl (Or.inr hhot)

end

/-! ### Reset (02 R65; 27 R462) -/

/-- Firmware loads the trap runtime where none is. -/
theorem State.loadRuntime_fresh {s : State} (h : s.rtobj = 0) : s.loadRuntime
    = { s with nextId := s.nextId + 1, objects := s.objects ++ [runtimeObject s.nextId], rtobj := BitVec.ofNat 32 s.nextId } := by
  unfold State.loadRuntime
  exact if_neg (by rw [h]; exact Bool.false_ne_true)

theorem State.afterReset_kept (s : State) : s.afterReset.mem.host = s.mem.host ∧ s.afterReset.mem.l2 = []
    ∧ s.afterReset.mem.poison = s.mem.poison.filter (fun n => n < viewLine) ∧ s.afterReset.objects = [] ∧ s.afterReset.nextId = s.nextId
    ∧ s.afterReset.rtobj = 0 := ⟨rfl, rfl, rfl, rfl, rfl, rfl⟩

theorem State.afterReset_cleared (s : State) : s.afterReset.clk = State.reset.clk ∧ s.afterReset.queues = State.reset.queues ∧ s.afterReset.ring = {}
    ∧ s.afterReset.launches = [] ∧ s.afterReset.fibres = [] ∧ s.afterReset.teams = [] ∧ s.afterReset.fabric = State.reset.fabric :=
  ⟨rfl, rfl, rfl, rfl, rfl, rfl, rfl⟩

/-- Settles O60, clause by clause: what each event of the service unit does, and what it leaves. -/
theorem serviceEvents : Obligations.ServiceEvents := by
  unfold Obligations.ServiceEvents
  refine ⟨?_, ?_, ?_, ?_, ?_, ?_, ?_, ?_, ?_, ?_, ?_, ?_, ?_, ?_, ?_, ?_, ?_, ?_, ?_, ?_, ?_, ?_, ?_, ?_, ?_, ?_⟩
  · exact fun s hagent hopen hslot => exec_fwImageStage hagent hopen hslot
  · exact fun s => exec_fwImageStage_unusable
  · intro s n hstaged hunit hfree
    rw [exec_fwUnitActivate hstaged (by rw [hunit]; rfl), hunit, State.activate_controller hfree]
    rfl
  · intro s n c hstaged hunit hc hlen hgangs
    refine ⟨_, exec_fwUnitActivate hstaged (by rw [hunit]; exact decide_eq_true hc), ?_⟩
    rw [hunit, State.activate_core hgangs]
    exact ⟨congrArg Core.image (State.core_setCore hlen _), rfl⟩
  · intro s n d ids hstaged hd hunit hwaits hended
    rw [exec_fwUnitActivate hstaged (by rw [hunit]; exact decide_eq_true hd), hunit, State.activate_sluice hwaits hended]
  · exact fun s which => ⟨s.endQuiesce_quiesce which, s.endQuiesce_done which⟩
  · intro s hopen
    refine (spdm_open hopen _).trans ?_
    rw [State.respond_eq]
    rfl
  · intro s hopen wrong
    refine ⟨(spdm_open hopen _).trans ?_, (spdm_open hopen _).trans ?_⟩
    · rw [State.respond_eq]
      rfl
    · rw [State.respond_eq]
      rfl
  · exact fun s hopen halgs => ⟨spdm_agreed hopen halgs _, spdm_agreed hopen halgs _, spdm_agreed hopen halgs _,
      fun ps hps => exec_getMeasurements hopen halgs hps⟩
  · intro s hopen halgs i hi
    simp only [List.mem_cons, List.not_mem_nil, or_false] at hi
    obtain rfl | rfl | rfl | rfl := hi
    · exact spdm_early hopen halgs _
    · exact spdm_early hopen halgs _
    · exact spdm_early hopen halgs _
    · exact exec_getMeasurements_early hopen halgs
  · intro s hm hopen hleft
    refine ⟨_, exec_masterFreeze hm, ?_⟩
    rw [State.isFrozen, State.turnAways_service, State.turnAway_service]
    obtain ⟨hbit, hlast, haddr, hothers⟩ := State.freeze_marks hm hopen hleft s.ev.pa
    refine ⟨hbit, hlast, haddr, fun m hm' hne => ?_, fun hagents => ?_, fun hside hagents => ?_⟩
    · rw [State.isFrozen, State.turnAways_service, State.turnAway_service]
      exact hothers m hm' hne
    · rw [hagents]
      exact (State.turnAway_sent ..).trans (by rw [State.freeze_eq hopen hleft])
    · rw [hside, hagents]
      rw [hside] at hopen hleft
      rw [State.freeze_eq hopen hleft]
      rfl
  · intro s hm hlast
    refine ⟨_, exec_masterFreeze hm, ?_⟩
    rw [State.turnAways_service, State.turnAway_service, State.freeze_last hlast]
  · exact fun s hm hopen => ⟨_, exec_mfreezeThaw hm hopen, rfl, fun m hm' => State.thaw_frozen s.ev.word hm'⟩
  · intro s hfrozen hagent hagents i hi
    have hfrozen' : s.isFrozen s.ev.agent = true := hagent ▸ hfrozen
    have hrefused : s.turnAway s.ev.agent = s.send .unsupported := by rw [hagent]; rfl
    simp only [List.mem_cons, List.not_mem_nil, or_false] at hi
    obtain rfl | rfl | rfl := hi
    · rw [exec_masterFreeze (by omega), State.freeze_frozen hfrozen', hagents, hrefused]
      rfl
    · exact (if_pos (by omega)).trans (congrArg Host.Outcome.next ((if_pos hfrozen').trans hrefused))
    · exact (if_neg (by omega)).trans ((if_pos hfrozen').trans (congrArg Host.Outcome.next hrefused))
  · intro s spare hc hlen hspare hgangs hitems hclean
    have hdie : dieOf s.ev.core < s.service.spares.length := by
      by_contra hout
      rw [List.getD_eq_getElem?_getD, List.getElem?_eq_none (Nat.not_lt.mp hout)] at hspare
      exact nomatch hspare
    exact ⟨_, exec_spareCoreReplace hc hspare hgangs hitems hclean, State.core_setCore (hlen.symm ▸ hc) _, s.putSpare_spares s.ev.core hdie, rfl⟩
  · intro s
    refine ⟨_, rfl, rfl, fun hwrite hd => ?_, fun hwrite hd => ?_⟩
    · rw [← countUp_getD hd]
      simp only [State.setService, hwrite, if_true]
    · rw [← countUp_getD hd]
      simp only [State.setService, hwrite, Bool.false_eq_true, if_false]
  · exact fun s hchoice hpa => ⟨_, exec_eccPoison_memory hchoice hpa, (mem_poisonLine ..).mpr (Or.inl rfl),
      fun n hn => (mem_poisonLine ..).mpr (Or.inr hn), rfl, rfl⟩
  · intro s l hchoice hc hl hline
    refine ⟨_, exec_eccPoison_l1 hchoice, rfl, ?_⟩
    rw [State.core_setCore hc, ← hline]
    exact Core.mem_poisonL1 hl
  · intro s t hchoice ht hpa
    exact ⟨_, _, exec_eccPoison_scratchpad hchoice ht hpa, rfl, State.team?_setTeam (State.team?_own ht) rfl rfl, rfl,
      (mem_poisonLine ..).mpr (Or.inl rfl)⟩
  · intro s f hchoice hf hreg
    have hcur : s.fibre? f.id = some f := current_of_named hf
    have hset := State.fibre?_setFibre_self (f := f) (g := { f with poison := poisonLine f.poison s.ev.word.toNat }) hcur
    exact ⟨_, _, exec_eccPoison_register hchoice hf hreg, rfl, hset, rfl,
      (mem_poisonLine ..).mpr (Or.inl rfl)⟩
  · intro s t x hchoice ht hx hpa
    refine ⟨_, _, { x with poison := poisonLine x.poison (s.ev.pa / 64) }, exec_eccPoison_tile hchoice ht hpa, rfl,
      State.team?_setTeam (State.team?_own ht) rfl rfl, ?_, rfl, (mem_poisonLine ..).mpr (Or.inl rfl)⟩
    rw [updAt_getElem?, if_pos rfl, hx]
    rfl
  · intro s e hchoice hc he hhits
    refine ⟨_, exec_eccPoison_tlb hchoice, rfl, ?_⟩
    rw [State.core_setCore hc]
    exact mem_poisonTlb he hhits
  · intro s e hchoice he hhits
    refine ⟨_, exec_eccPoison_dieTlb hchoice, rfl, ?_⟩
    rw [updAt_getD rfl]
    exact mem_poisonTlb he hhits
  · exact fun s l hchoice hl hline => ⟨_, exec_eccPoison_decoded hchoice hl hline, rfl, (mem_poisonLine ..).mpr (Or.inl rfl)⟩
  · intro s hdue
    obtain ⟨n, hn⟩ := Nat.exists_eq_add_of_lt hdue
    have hcount : s.rtime / 100000 - s.service.sampled = n + 1 := by omega
    obtain ⟨hpower, htemps, hsampled, hsent⟩ := State.samples_parts s.ev.readings n s
    refine ⟨_, exec_sensorSample s, ?_⟩
    rw [hcount]
    refine ⟨hpower, htemps, hsampled.trans (by omega), hsent, fun hone d hd hlimit => ?_⟩
    obtain rfl : n = 0 := by omega
    exact State.sample_slowed hd (slowed_of_limit hlimit)
  · intro s
    obtain ⟨hhost, hl2, hpoison, hobjects, hnext, hfresh⟩ := s.afterReset_kept
    obtain ⟨hclk, hqueues, hring, hlaunches, hfibres, hteams, hfabric⟩ := s.afterReset_cleared
    refine ⟨s.afterReset.loadRuntime, rfl, ?_⟩
    rw [State.loadRuntime_fresh hfresh]
    refine ⟨hclk, hqueues, hring, hlaunches, hfibres, hteams, hfabric, hhost, hl2, hpoison, runtimeObject s.nextId, ?_, fun hlt => ?_⟩
    · exact congrArg₂ (fun (os : List Object) i => os ++ [runtimeObject i]) hobjects hnext
    · rw [hnext]
      exact Nat.mod_eq_of_lt hlt

end Sys2Proof.Machine
end
